-- ==== Sys2Proof/Word.lean ====
section
/-! DEFINITION. The word types of the Strelli S9 (00 R14, R15) and the plainest arithmetic on them. -/

namespace Sys2Proof

/-- A byte of memory (R15). -/
abbrev Byte := BitVec 8

/-- A 32-bit vector register's contents (R10). -/
abbrev W32 := BitVec 32

/-- A 64-bit scalar register, address or instruction word (R10, R15). -/
abbrev W64 := BitVec 64

/-- A set of lanes of one gang: bit i stands for lane i (R10, R190). -/
abbrev LaneMask := BitVec 64

/-- A table: key and value pairs, keys strictly rising. -/
abbrev Tbl (α : Type) := List (Nat × α)

end Sys2Proof
end

