-- ==== Sys2Proof/Config.lean ====
section
/-! DEFINITION. What the manual leaves to the part or to the outside: opaque constants, of which nothing can be
proved (notes/assumptions/3.md). Plain constants of the part that the manual states are ordinary definitions. -/

namespace Sys2Proof.Config

/-- R147: the value, within its bound, that a special function gives where it is not correctly rounded.
The first argument is the fn code of opcode 0x3C, the second the operand. -/
opaque special : Nat → BitVec 32 → BitVec 32

/-- R554, R147: a free 64-bit value, applied to the counter `State.fuel`. -/
opaque freeWord : Nat → BitVec 64

/-- R446, R516: the calibrated static energy of a domain over a whole tick at a point and at the temperature of a tick,
in nJ: domain, point, tick. -/
opaque staticRate : Nat → Nat → Nat → Nat

/-- R447: the measured energy of a domain over a tick, in nJ (a sensor reading). -/
opaque measured : Nat → Nat → Nat

/-- R341, R540: whether the grant of another package's home slice for a booked entry has come. -/
opaque remoteGrant : Nat → Bool

/-- R465: the package serial number, from fuses. -/
opaque serial : BitVec 64

/-- R488, R491: SHA-512 (a standard of its own, which the manual names only). -/
opaque sha512 : List (BitVec 8) → List (BitVec 8)

/-- R488, R491: whether a signature (third) over bytes (second) is the RSASSA-PKCS1-v1_5 signature (RFC 8017) of a key whose SHA-512 is
the first. -/
opaque verify : List (BitVec 8) → List (BitVec 8) → List (BitVec 8) → Bool

/-- R487: the hashes in the fuse slots of the Vukesan keys, by slot. -/
opaque fuseHash : Nat → List (BitVec 8)

/-- R487: the revocation bits of the fuse slots. -/
opaque fuseRevoked : BitVec 4

/-- R487: the minimum Agtur firmware version in the fuses. -/
opaque fuseMinimum : Nat

/-- R487, R488: the operator key's hash and the trims as provisioned. -/
opaque operatorHash : List (BitVec 8)
opaque trims : List (BitVec 8)

/-- R487: the Agtur firmware copies and the golden command-core images of the flash, as shipped. -/
opaque agturCopy : Nat → List (BitVec 8)
opaque goldenImage : Nat → List (BitVec 8)

/-- R465: the signature that Agtur's key gives over bytes. -/
opaque sign : List (BitVec 8) → List (BitVec 8)

/-- R465: the key identifier of Agtur's signing key. -/
opaque keyId : BitVec 64

/-- R491: what the header of a signed image states, whose places in it the manual does not give: the body length, the version, whether
the target is Agtur, the mask of command cores, the SHA-512 of the body, and whether the rest is zero. -/
opaque imageBody : List (BitVec 8) → Nat
opaque imageVersion : List (BitVec 8) → BitVec 16
opaque imageForAgtur : List (BitVec 8) → Bool
opaque imageCores : List (BitVec 8) → BitVec 8
opaque imageHash : List (BitVec 8) → List (BitVec 8)
opaque imageZeros : List (BitVec 8) → Bool

/-- R485: the RAM of a command core that an image has been loaded into: its body, from the first byte on, without zeros. -/
def imageRam (img : List (BitVec 8)) : List (Nat × BitVec 8) :=
  ((((img.drop 1024).take (imageBody (img.take 1024))).take 524288).zipIdx.filter (fun q => decide (q.1 ≠ 0))).map (fun q => (q.2, q.1))

/-- R470: whether a meter ring whose every slot has been written once has room for another record, by time and position. -/
opaque ringRoom : Nat → Nat → Bool

/-- R278: the bytes of the sections of a save record whose form only the S9 reads, by record and offset. -/
opaque saveByte : Nat → Nat → BitVec 8

/-- R536: the fixed hash of a line address that picks a port out of the mask of working ports. -/
opaque portHash : Nat → Nat → Nat

/-- R539: the byte that another package's memory returns, by request counter and byte position. -/
opaque remoteByte : Nat → Nat → BitVec 8

/-- R538, R539: whether a reply of another package carries an uncorrectable error or is refused there. -/
opaque remoteBad : Nat → Bool

/-- R538: whether a request of a partition of this package is refused at its target. -/
opaque remoteRefused : Nat → Bool

/-- R534: the charges that a reply of another package carries back, in 1/8 pJ. -/
opaque remoteCharge : Nat → Nat

/-- R531: the mode that Agtur gives a port at bring-up. -/
opaque portMode : Nat → Nat

/-- R532, R551: what a port learns of its far end at training: package and port. -/
opaque peer : Nat → Nat × Nat

/-- R492, R494: the step at which a start that a command asks for at a time fails; 0 if none does. -/
opaque startFails : Nat → Nat

/-- R424: which of the sixteen entries of a 64 KiB group a walk uses, by the address of the entry and the time. -/
opaque groupEntry : Nat → Nat → Nat

/-- R67: whether a core, at a time, executes the old word at a place whose memory has changed. -/
opaque codeOld : Nat → Nat → Nat → Bool

/-- R438: the weights of the vendor's default table, version 1, in 1/8 pJ (R436). -/
def defaultWeights : List Nat :=
  [96, 2, 1, 4, 16, 32, 96, 128, 640, 8192, 96, 25600, 16000, 32000, 19200, 320, 320, 16384]

/-- R437: the factor F(P) of each operating point. -/
def pointFactor (p : Nat) : Nat :=
  [65536, 59146, 53084, 47350, 43264, 39363, 36864, 34447].getD p 34447

/-- R454: the frequency of each operating point in units of 100 MHz. -/
def pointFreq (p : Nat) : Nat := [24, 22, 20, 18, 16, 14, 12, 8].getD p 8

/-- The low `n` bytes of a number. -/
def bytesOf : Nat → Nat → List (BitVec 8)
  | 0, _ => []
  | n + 1, x => BitVec.ofNat 8 x :: bytesOf n (x / 256)

/-- R497: bytes 0 to 1,023 of a scrub completion record: scope, partition, departing tenant, sequence number, the two TIMEs,
storage mask, the extents zeroed, AGTVER. -/
def scrubHead (scope part : Nat) (tenant : BitVec 64) (seq t0 t1 mask : Nat) (extents : Nat → Bool) (agtver : Nat) : List (BitVec 8) :=
  [0x53, 0x43, 0x52, 0x31] ++ bytesOf 2 1 ++ bytesOf 1 scope ++ bytesOf 1 part ++ bytesOf 8 tenant.toNat ++ bytesOf 8 seq ++ bytesOf 8 t0 ++
    bytesOf 8 t1 ++ bytesOf 8 serial.toNat ++ bytesOf 8 mask ++
    (List.range 96).map (fun i => BitVec.ofNat 8 ((List.range 8).foldl (fun n b => n + (if extents (8 * i + b) then 2 ^ b else 0)) 0)) ++
    bytesOf 4 agtver ++ bytesOf 4 0 ++ bytesOf 8 keyId.toNat ++ List.replicate 856 0

/-- R497: the whole record. -/
def scrubRecord (head : List (BitVec 8)) : List (BitVec 8) := head ++ ((sign head).take 512 ++ List.replicate (512 - (sign head).length) 0)

/-- R496, R497: the record of the scrub of a cold start at TIME 0. -/
def coldRecord (tenant : BitVec 64) (seq : Nat) : List (BitVec 8) :=
  scrubRecord (scrubHead 0 0xFF tenant seq 0 0 0x7FF (fun _ => true) (imageVersion (agturCopy 0)).toNat)

/-- R445: TIME periods in a tick. -/
def tickPeriods : Nat := 48000

/-- R17, R41: TIME periods in a microsecond. -/
def usPeriods : Nat := 2400

end Sys2Proof.Config
end

