-- ==== Sys2Proof/Machine/Tbl.lean ====
section
/-! DEFINITION. Tables: lists of key and value pairs with keys strictly rising. A key that is not listed reads as a
default that the reader names. `tset` keeps the canonical form (no entry equal to the default); `tput` keeps the keys
rising and may list any value. -/

namespace Sys2Proof.Machine

variable {α β : Type}

/-- The entry listed at a key, if any. -/
def tfind : Tbl α → Nat → Option α
  | [], _ => none
  | (k, v) :: t, a => if a = k then some v else tfind t a

/-- The value at a key; an unlisted key reads `d`. -/
def tget (d : α) (t : Tbl α) (a : Nat) : α := (tfind t a).getD d

/-- List `v` at key `a`. -/
def tput : Tbl α → Nat → α → Tbl α
  | [], a, v => [(a, v)]
  | (k, w) :: t, a, v => if a = k then (k, v) :: t else if a < k then (a, v) :: (k, w) :: t else (k, w) :: tput t a v

/-- Remove the entries at a key. -/
def terase : Tbl α → Nat → Tbl α
  | [], _ => []
  | (k, w) :: t, a => if a = k then terase t a else (k, w) :: terase t a

/-- Write `v` at key `a` in canonical form: writing the default removes the entry. -/
def tset [DecidableEq α] (d : α) (t : Tbl α) (a : Nat) (v : α) : Tbl α :=
  if v = d then terase t a else tput t a v

/-- Change the value at a key. -/
def tmod (d : α) (t : Tbl α) (a : Nat) (f : α → α) : Tbl α := tput t a (f (tget d t a))

/-- Keys strictly rising and above a bound. -/
def tsortedFrom : Nat → Tbl α → Bool
  | _, [] => true
  | b, (k, _) :: t => decide (b ≤ k) && tsortedFrom (k + 1) t

/-- The canonical form of a table with default `d`: keys strictly rising, no entry equal to the default. -/
def twf [DecidableEq α] (d : α) (t : Tbl α) : Bool :=
  tsortedFrom 0 t && t.all (fun p => decide (p.2 ≠ d))

/-- Apply `f` to each of a list of keys in turn. -/
def foldKeys (f : β → Nat → β) (b : β) (ks : List Nat) : β := ks.foldl f b

/-- Insertion of a key in a list sorted by `le`; structural, so that the kernel evaluates it. -/
def insertBy (le : α → α → Bool) (x : α) : List α → List α
  | [] => [x]
  | y :: t => if le x y then x :: y :: t else y :: insertBy le x t

/-- Stable insertion sort. -/
def sortBy (le : α → α → Bool) (l : List α) : List α := l.foldr (insertBy le) []

/-- The list without later repeats. -/
def dedup [DecidableEq α] : List α → List α
  | [] => []
  | x :: t => if t.elem x then dedup t else x :: dedup t

/-- The first `n` natural numbers. -/
def upto (n : Nat) : List Nat := List.range n

/-- Replace the first element that meets `p`. -/
def replaceFirst (p : α → Bool) (f : α → α) : List α → List α
  | [] => []
  | x :: t => if p x then f x :: t else x :: replaceFirst p f t

/-- Remove the first element that meets `p`. -/
def removeFirst (p : α → Bool) : List α → List α
  | [] => []
  | x :: t => if p x then t else x :: removeFirst p t

end Sys2Proof.Machine
end

