-- ==== Sys2Proof/Syntax.lean ====
section
/-! DEFINITION. The instructions of Gisko version 1 and the steps of the part: one constructor for each row of
spec/opcode_table.json. Constructors of instruction words hold the fields of the word (03 R68 to R79); constructors
of events hold what the event concerns. -/

namespace Sys2Proof

/-- R12, R91: the integer types, in TY order. -/
inductive ITy where
  | i8 | i16 | i32 | i64 | n8 | n16 | n32 | n64
  deriving DecidableEq, Repr

/-- R126: integer conditions, in fn order. -/
inductive Cond where
  | eq | ne | lt | le | gt | ge
  deriving DecidableEq, Repr

/-- R139: floating conditions, in fn order. -/
inductive FCond where
  | eq | ne | lt | le | gt | ge | un | ord
  deriving DecidableEq, Repr

/-- R44: rounding-mode field. -/
inductive Rm where
  | rne | rz | ru | rd | dyn
  deriving DecidableEq, Repr

/-- R12: the floating formats of the lanes. -/
inductive FFmt where
  | f32 | f16 | b16
  deriving DecidableEq, Repr

/-- R93: the conversions of opcode 0x36, in fn order. -/
inductive CvtKind where
  | f32f16 | f32b16 | f16f32 | b16f32 | f16b16 | b16f16
  | f32g8 | f16g8 | b16g8 | g8f32 | g8f16 | g8b16
  deriving DecidableEq, Repr

/-- R127: predicate operations, in TY order. -/
inductive PlopOp where
  | and | or | xor | andn | nand | nor | xnor | orn
  deriving DecidableEq, Repr

/-- R128: vote modes. -/
inductive VoteMode where
  | some | every | same
  deriving DecidableEq, Repr

/-- R129: shuffle modes. -/
inductive ShflMode where
  | at | lower | upper | mirror
  deriving DecidableEq, Repr

/-- R74: scopes, in code order. -/
inductive Scope where
  | gang | team | cluster | die | device | system
  deriving DecidableEq, Repr

/-- R73: spaces, in SP order. -/
inductive Space where
  | glob | scratch | const | shadow
  deriving DecidableEq, Repr

/-- R73: access sizes, in SZ order. -/
inductive Size where
  | b | h | w | d
  deriving DecidableEq, Repr

/-- R73: the order modifier of a memory word. -/
inductive MemOrd where
  | none | acq (y : Scope) | rel (y : Scope)
  deriving DecidableEq, Repr

/-- R244: atomic operations, in fn order. -/
inductive AtomOp where
  | add | min | max | and | or | xor | xchg | cas | incw | decw
  deriving DecidableEq, Repr

/-- R245: the order of an atomic, fn[5:4]. -/
inductive AtomOrd where
  | none | acq | rel | acqRel
  deriving DecidableEq, Repr

/-- R328: accumulate operations, in OP order. -/
inductive AccOpc where
  | addF32 | addI32 | addI64 | maxF32 | minF32 | addB16x2
  deriving DecidableEq, Repr

/-- R544: collective operations, in TY order. -/
inductive CollOp where
  | addF32 | addB16x2 | addI32 | maxF32 | minF32 | maxI32 | minI32
  deriving DecidableEq, Repr

/-- R270: the class of the operand register of `sread` and `swrite`. -/
inductive SysDk where
  | vec | pair | scalar
  deriving DecidableEq, Repr

/-- R70: a register operand with a class bit. -/
structure Opd where
  sc : Bool
  n  : BitVec 8
  deriving DecidableEq, Repr

/-- R69: a guard, k[kg] exclusive-ORed with gn. -/
structure Guard where
  neg : Bool
  k   : BitVec 4
  deriving DecidableEq, Repr

/-- R69: a word's guard, if it has one. -/
abbrev Grd := Option Guard

/-- R73: the fields of format FM. -/
structure MemOp where
  ord  : MemOrd
  bv   : Bool
  scl  : Bool
  d    : BitVec 8
  base : BitVec 8
  sz   : Size
  sp   : Space
  off  : BitVec 20
  deriving DecidableEq, Repr

/-- R79: slot statements of a pair word. -/
inductive Slot where
  | nop
  | iadd (d b : BitVec 8) | isub (d b : BitVec 8) | imul (d b : BitVec 8)
  | iminI (d b : BitVec 8) | imaxI (d b : BitVec 8) | iminN (d b : BitVec 8) | imaxN (d b : BitVec 8)
  | iaddImm (d imm : BitVec 8) | shlImm (d imm : BitVec 8) | shrImm (d imm : BitVec 8) | sarImm (d imm : BitVec 8)
  | and (d b : BitVec 8) | or (d b : BitVec 8) | xor (d b : BitVec 8) | andn (d b : BitVec 8)
  | mov (d b : BitVec 8) | movi (d imm : BitVec 8)
  | pmov (d b : BitVec 8) | plopAnd (d b : BitVec 8) | plopOr (d b : BitVec 8) | plopXor (d b : BitVec 8)
  | fadd (d b : BitVec 8) | fmul (d b : BitVec 8) | ffma (d b : BitVec 8)
  | hxadd (d b : BitVec 8) | hxmul (d b : BitVec 8) | hxfma (d b : BitVec 8)
  | bxadd (d b : BitVec 8) | bxmul (d b : BitVec 8) | bxfma (d b : BitVec 8)
  deriving DecidableEq, Repr

/-- R259: why a word cannot be fetched. -/
inductive FetchCause where
  | misaligned | bounds | notPresent | permission | ecc
  deriving DecidableEq, Repr

/-- R425: what an access needs of a page; `acc.probe` needs no right (R345). -/
inductive Access where
  | read | write | readWrite | exec | probe
  deriving DecidableEq, Repr

/-- R488, R489: an operator command as it reaches Agtur. `mgmt` tells the management port from the mailbox, and `magic` whether the
image's magic bytes are right. -/
structure Command where
  mgmt : Bool
  code : Nat
  seq  : Nat
  serial : BitVec 64
  zero : BitVec 64
  body : List Byte
  sig  : List Byte
  magic : Bool := true
  deriving DecidableEq, Repr

/-- R499, R500: the storage in which a soft error falls; `corrected` is an error of a source, by die, unit and address, that its protection
corrects. -/
inductive ErrSite where
  | register (team gang : Nat) (lane reg : Nat)
  | tile (team : Nat) (follower : Bool) (t : Nat)
  | scratch (team : Nat) (addr : Nat)
  | l1clean (core line : Nat)
  | l1excl (core line : Nat)
  | icache (core line : Nat)
  | memory (unit : Nat)
  | residual (core : Nat) (ctx : Nat)
  | future (die index : Nat)
  | commandRam (core : Nat)
  | pairLinkStore (team : Nat) (addr : Nat)
  | pairLinkMatrix (core : Nat)
  | pairLinkLoad (core : Nat)
  | exchange (core : Nat) (k : Nat)
  | arrayColumn (core col : Nat)
  | l2 (unit : Nat)
  | corrected (source die unit addr : Nat)
  deriving DecidableEq, Repr

/-- R538, R539: a request of another package, as it arrives; `wake` is the FC0 flit that wakes a remote wait (R533). -/
inductive RemoteReq where
  | read (n : Nat)
  | write (bytes : List Byte)
  | atomic (op : AtomOp) (wide sgn : Bool) (y z : BitVec 64)
  | accum (op : AccOpc) (slots : Tbl (BitVec 32)) (late : Bool)
  | monitor
  | wake
  deriving DecidableEq, Repr

/-- One constructor for each row of spec/opcode_table.json. -/
inductive Instr where
  -- control and masks (08)
  | nop (g : Grd)
  | bra (g : Grd) (off : BitVec 32)
  | brx (g : Grd) (a : Opd)
  | call (g : Grd) (off : BitVec 32)
  | callv (g : Grd) (a : Opd)
  | ret (g : Grd)
  | exit (g : Grd)
  | join (g : Grd) (d : BitVec 8)
  | leave (g : Grd) (d : BitVec 8)
  | waitm (g : Grd) (a : BitVec 8)
  | mset (g : Grd) (all : Bool) (d a : BitVec 8)
  | mmov (g : Grd) (d : Opd) (a : BitVec 8)
  | mand (g : Grd) (d a b : BitVec 8)
  | mor (g : Grd) (d a b : BitVec 8)
  | mpop (g : Grd) (d a : BitVec 8)
  | mfromk (g : Grd) (d a : BitVec 8)
  | rep (cnt : BitVec 6) (sd sa sb sc : BitVec 2)
  | yield (g : Grd)
  | pairWord (s0 s1 : Slot)
  -- integer, address, bit and predicate (05)
  | iadd (g : Grd) (t : ITy) (d a b : Opd)
  | isub (g : Grd) (t : ITy) (d a b : Opd)
  | iaddsat (g : Grd) (t : ITy) (d a b : Opd)
  | isubsat (g : Grd) (t : ITy) (d a b : Opd)
  | imul (g : Grd) (t : ITy) (d a b : Opd)
  | imulh (g : Grd) (t : ITy) (d a b : Opd)
  | imad (g : Grd) (t : ITy) (d a b c : Opd)
  | idiv (g : Grd) (t : ITy) (d a b : Opd)
  | irem (g : Grd) (t : ITy) (d a b : Opd)
  | imin (g : Grd) (t : ITy) (d a b : Opd)
  | imax (g : Grd) (t : ITy) (d a b : Opd)
  | iabs (g : Grd) (t : ITy) (sat : Bool) (d a : Opd)
  | ineg (g : Grd) (t : ITy) (sat : Bool) (d a : Opd)
  | and (g : Grd) (t : ITy) (d a b : Opd)
  | or (g : Grd) (t : ITy) (d a b : Opd)
  | xor (g : Grd) (t : ITy) (d a b : Opd)
  | not (g : Grd) (t : ITy) (d a : Opd)
  | andn (g : Grd) (t : ITy) (d a b : Opd)
  | shl (g : Grd) (t : ITy) (d a b : Opd)
  | shr (g : Grd) (t : ITy) (d a b : Opd)
  | sar (g : Grd) (t : ITy) (d a b : Opd)
  | rotl (g : Grd) (t : ITy) (d a b : Opd)
  | bfx (g : Grd) (t : ITy) (d a b c : Opd)
  | bfi (g : Grd) (t : ITy) (d a b c : Opd)
  | popc (g : Grd) (t : ITy) (d a : Opd)
  | clz (g : Grd) (t : ITy) (d a : Opd)
  | ctz (g : Grd) (t : ITy) (d a : Opd)
  | brev (g : Grd) (t : ITy) (d a : Opd)
  | bswap (g : Grd) (t : ITy) (d a : Opd)
  | sel (g : Grd) (t : ITy) (d : BitVec 8) (a b : Opd) (c : BitVec 8)
  | mov (g : Grd) (t : ITy) (d a : Opd)
  | lea (g : Grd) (t : ITy) (d a b : Opd) (sh : BitVec 8)
  | movi (g : Grd) (d : Opd) (imm : BitVec 32)
  | movh (g : Grd) (d : Opd) (imm : BitVec 32)
  | icmp (g : Grd) (cd : Cond) (t : ITy) (d : BitVec 8) (a b : Opd)
  | plop (g : Grd) (op : PlopOp) (d a b : BitVec 8)
  | pmov (g : Grd) (neg : Bool) (d a : BitVec 8)
  | vote (g : Grd) (mode : VoteMode) (d a : BitVec 8)
  | ballot (g : Grd) (d a : BitVec 8)
  | shfl (g : Grd) (mode : ShflMode) (t : ITy) (d a : BitVec 8) (b : Opd) (pout : Option (BitVec 8))
  | idp4 (g : Grd) (sgn sat : Bool) (d a b c : Opd)
  | idp8 (g : Grd) (sat : Bool) (d a b c : Opd)
  | bcast (g : Grd) (t : ITy) (d a b : BitVec 8)
  | vrd (g : Grd) (t : ITy) (d a b : BitVec 8)
  | iaddImm (g : Grd) (sc : Bool) (t : ITy) (d a : BitVec 8) (imm : BitVec 24)
  | isubImm (g : Grd) (sc : Bool) (t : ITy) (d a : BitVec 8) (imm : BitVec 24)
  | imulImm (g : Grd) (sc : Bool) (t : ITy) (d a : BitVec 8) (imm : BitVec 24)
  | iminImm (g : Grd) (sc : Bool) (t : ITy) (d a : BitVec 8) (imm : BitVec 24)
  | imaxImm (g : Grd) (sc : Bool) (t : ITy) (d a : BitVec 8) (imm : BitVec 24)
  | andImm (g : Grd) (sc : Bool) (t : ITy) (d a : BitVec 8) (imm : BitVec 24)
  | orImm (g : Grd) (sc : Bool) (t : ITy) (d a : BitVec 8) (imm : BitVec 24)
  | xorImm (g : Grd) (sc : Bool) (t : ITy) (d a : BitVec 8) (imm : BitVec 24)
  | shlImm (g : Grd) (sc : Bool) (t : ITy) (d a : BitVec 8) (imm : BitVec 24)
  | shrImm (g : Grd) (sc : Bool) (t : ITy) (d a : BitVec 8) (imm : BitVec 24)
  | sarImm (g : Grd) (sc : Bool) (t : ITy) (d a : BitVec 8) (imm : BitVec 24)
  | rotlImm (g : Grd) (sc : Bool) (t : ITy) (d a : BitVec 8) (imm : BitVec 24)
  | icmpImm (g : Grd) (sc : Bool) (cd : Cond) (t : ITy) (d a : BitVec 8) (imm : BitVec 24)
  -- floating point and special functions (06)
  | fadd (g : Grd) (rm : Rm) (d : BitVec 8) (a b : Opd)
  | fsub (g : Grd) (rm : Rm) (d : BitVec 8) (a b : Opd)
  | fmul (g : Grd) (rm : Rm) (d : BitVec 8) (a b : Opd)
  | ffma (g : Grd) (rm : Rm) (d : BitVec 8) (a b c : Opd)
  | fmin (g : Grd) (d : BitVec 8) (a b : Opd)
  | fmax (g : Grd) (d : BitVec 8) (a b : Opd)
  | fcmp (g : Grd) (cd : FCond) (d : BitVec 8) (a b : Opd)
  | fclass (g : Grd) (d : BitVec 8) (a : Opd)
  | frnd (g : Grd) (rm : Rm) (d : BitVec 8) (a : Opd)
  | fcvt (g : Grd) (kind : CvtKind) (rm : Rm) (inf : Bool) (d : BitVec 8) (a : Opd)
  | f2i (g : Grd) (src : FFmt) (dst : Option ITy) (rm : Rm) (d : BitVec 8) (a : Opd)
  | i2f (g : Grd) (dst : FFmt) (src : Option ITy) (rm : Rm) (d : BitVec 8) (a : Opd)
  | hxadd (g : Grd) (rm : Rm) (d : BitVec 8) (a b : Opd)
  | hxmul (g : Grd) (rm : Rm) (d : BitVec 8) (a b : Opd)
  | hxfma (g : Grd) (rm : Rm) (d : BitVec 8) (a b c : Opd)
  | bxadd (g : Grd) (rm : Rm) (d : BitVec 8) (a b : Opd)
  | bxmul (g : Grd) (rm : Rm) (d : BitVec 8) (a b : Opd)
  | bxfma (g : Grd) (rm : Rm) (d : BitVec 8) (a b c : Opd)
  | fdp2 (g : Grd) (b16 : Bool) (rm : Rm) (d : BitVec 8) (a b c : Opd)
  | frcp (g : Grd) (la : BitVec 4) (d : BitVec 8) (a : Opd)
  | frsq (g : Grd) (la : BitVec 4) (d : BitVec 8) (a : Opd)
  | fsqrt (g : Grd) (la : BitVec 4) (rm : Rm) (d : BitVec 8) (a : Opd)
  | fexp2 (g : Grd) (la : BitVec 4) (d : BitVec 8) (a : Opd)
  | flog2 (g : Grd) (la : BitVec 4) (d : BitVec 8) (a : Opd)
  | fsin (g : Grd) (la : BitVec 4) (d : BitVec 8) (a : Opd)
  | fcos (g : Grd) (la : BitVec 4) (d : BitVec 8) (a : Opd)
  | ftanh (g : Grd) (la : BitVec 4) (d : BitVec 8) (a : Opd)
  | fscale (g : Grd) (rm : Rm) (d : BitVec 8) (a b : Opd)
  | fgetexp (g : Grd) (d : BitVec 8) (a : Opd)
  | gpack (g : Grd) (inf : Bool) (d a : BitVec 8)
  | gunpack (g : Grd) (d : BitVec 8) (a : Opd)
  -- lane memory (07)
  | ld (g : Grd) (la : BitVec 4) (m : MemOp)
  | ldSigned (g : Grd) (la : BitVec 4) (m : MemOp)
  | st (g : Grd) (m : MemOp)
  | ldv (g : Grd) (la : BitVec 4) (m : MemOp)
  | stv (g : Grd) (m : MemOp)
  | lds (g : Grd) (la : BitVec 4) (m : MemOp)
  | ldsSigned (g : Grd) (la : BitVec 4) (m : MemOp)
  | sts (g : Grd) (m : MemOp)
  | gath (g : Grd) (la : BitVec 4) (m : MemOp)
  | gathSigned (g : Grd) (la : BitVec 4) (m : MemOp)
  | scat (g : Grd) (m : MemOp)
  | prf (g : Grd) (m : MemOp)
  | loadDataReturn (team gang id : Nat)
  -- barriers, waits, fences, atomics, copies, the Ladle (10)
  | barSync (g : Grd) (n : BitVec 8) (cnt : Option (BitVec 8))
  | barArv (g : Grd) (n : BitVec 8) (cnt : Option (BitVec 8))
  | barWait (g : Grd) (n : BitVec 8)
  | barBytes (g : Grd) (n b : BitVec 8)
  | waitA (g : Grd) (wide scr : Bool) (a b : Opd)
  | waitT (g : Grd) (wide scr : Bool) (d : BitVec 8) (a b : Opd) (c : BitVec 8)
  | waitTTimeout (team gang lane : Nat)
  | fence (g : Grd) (y : Scope)
  | atom32 (g : Grd) (la : BitVec 4) (op : AtomOp) (ord : AtomOrd) (y : Scope) (sgn : Bool) (d a b c : Opd)
  | atom64 (g : Grd) (la : BitVec 4) (op : AtomOp) (ord : AtomOrd) (y : Scope) (sgn : Bool) (d a b c : Opd)
  | cpGs (g : Grd) (q : BitVec 2) (a b c : BitVec 8) (desc : Option (BitVec 8))
  | cpSg (g : Grd) (q : BitVec 2) (a b c : BitVec 8) (desc : Option (BitVec 8))
  | cpGg (g : Grd) (q : BitVec 2) (a b c : BitVec 8) (desc : Option (BitVec 8))
  | cpFence (g : Grd) (y : Scope) (mask : BitVec 8) (desc : Option (BitVec 8))
  | cpPoll (g : Grd) (d : BitVec 8)
  | copyEntryComplete (core q : Nat)
  | lfillBar (g : Grd) (n a b : BitVec 8)
  | lfillTok (g : Grd) (d a b c : BitVec 8)
  | lfillComplete (die idx : Nat)
  | storeQueueDrain (team gang : Nat)
  -- tiles and the matrix array (09)
  | tcfg (g : Grd) (d a : BitVec 8)
  | tld (g : Grd) (la : BitVec 4) (sc : Bool) (d a b c : BitVec 8)
  | tldg (g : Grd) (la : BitVec 4) (sc : Bool) (bar : Option (BitVec 4)) (d a b c : BitVec 8)
  | tldgLanding (team gang id : Nat)
  | tst (g : Grd) (sc : Bool) (d a b c : BitVec 8)
  | tzero (g : Grd) (d : BitVec 8)
  | tmov (g : Grd) (sc : Bool) (d a b : BitVec 8)
  | mma (g : Grd) (la : BitVec 4) (ring : BitVec 2) (nosplit : Bool) (d : BitVec 8) (ta tb : BitVec 3) (f k : BitVec 8)
  | mmap (g : Grd) (la : BitVec 4) (ring : BitVec 2) (nosplit wide : Bool) (d : BitVec 8) (ta tb : BitVec 3) (f k : BitVec 8)
  | mmac (g : Grd) (la : BitVec 4) (a : BitVec 8)
  | kBlockStart (core : Nat)
  | matrixRetire (core : Nat)
  | czero (g : Grd) (d : BitVec 8)
  | cmov (g : Grd) (d a n : BitVec 8)
  | cmovIn (g : Grd) (d a n : BitVec 8)
  | vbnd (g : Grd) (a : BitVec 8)
  | atest (g : Grd) (d : BitVec 8)
  | arraySelfTest (core : Nat) (failing : Option Nat)
  -- traps and system (11)
  | trap (g : Grd) (n : BitVec 8)
  | brk (g : Grd) (n : BitVec 8)
  | rfe (g : Grd) (skip : Bool)
  | sread (g : Grd) (dk : SysDk) (d : BitVec 8) (num : BitVec 10)
  | swrite (g : Grd) (dk : SysDk) (a : BitVec 8) (num : BitVec 10)
  | ctxSave (g : Grd) (a : BitVec 8)
  | ctxLoad (g : Grd) (a : BitVec 8)
  -- the cluster (13)
  | xst (g : Grd) (m : MemOp)
  | xbar (g : Grd)
  | cbar (g : Grd) (d : BitVec 8)
  | xpoll (g : Grd) (d : BitVec 8)
  -- accumulates (15)
  | acc (g : Grd) (op : AccOpc) (a b : Opd)
  | accv (g : Grd) (op : AccOpc) (a : Opd) (b : BitVec 8)
  | accFlush (g : Grd) (y : Scope)
  | accProbe (g : Grd) (la : BitVec 4) (d a : BitVec 8)
  | accumulatePacketArrival (core id : Nat)
  | accumulateApply (slice : Nat)
  | accumulateAckArrival (core id : Nat)
  | bounceArrival (core id : Nat)
  | residualRetry (core ctx block : Nat)
  | grantedSend (core ctx block : Nat)
  | ownerRecallDeadline (line : Nat)
  | refusalPendingClear (line : Nat)
  -- futures (16)
  | futSpawn (g : Grd) (d a b n : BitVec 8)
  | futDup (g : Grd) (d a : BitVec 8)
  | futDrop (g : Grd) (d : BitVec 8)
  | futSelf (g : Grd) (d : BitVec 8)
  | futCheck (g : Grd)
  | futGet (g : Grd) (la : BitVec 4) (d a n : BitVec 8)
  | futPoll (g : Grd) (d a : BitVec 8)
  | futPark (g : Grd) (a b : BitVec 8)
  | futUnpark (g : Grd) (d a : BitVec 8)
  | futRet (g : Grd) (a n : BitVec 8)
  | futureReclaim (team : Nat)
  -- energy (21) and collectives (27)
  | enRead (g : Grd) (d sel : BitVec 8)
  | enMark (g : Grd) (a : BitVec 8)
  | vfReq (g : Grd) (d a : BitVec 8)
  | vfStat (g : Grd) (d : BitVec 8)
  | collRed (g : Grd) (op : CollOp) (d a b c : BitVec 8)
  | collBcast (g : Grd) (d a b c : BitVec 8)
  | collWait (g : Grd) (d a : BitVec 8)
  | collPartialArrival (part grp k fromPkg : Nat) (bcast : Bool) (op : Option CollOp) (root : Nat) (mism : Bool) (bytes : Option (List Byte)) (gtag : Nat) (len : Nat)
  | collResultArrival (part grp k fromPkg : Nat) (mism : Bool) (bytes : List Byte) (gtag : Nat)
  | collectiveTimeout (part grp k : Nat)
  | bucketServeRequest (core ctx : Nat)
  | grantAnswerArrival (core ctx : Nat)
  | tickBoundary
  | meterRecordClose (part : Nat)
  | pointChangeComplete (part : Nat)
  | capPeriodStart
  | capDivision
  | capShareArrival (domain share : Nat)
  -- home slices and translation (14, 20)
  | sliceReadRequest (core ctx line : Nat)
  | sliceOwnRequest (core ctx line : Nat)
  | sliceWriteRequest (core idx : Nat)
  | sliceWriteback (core line : Nat)
  | pageWalk (die ctx : Nat) (va : BitVec 64) (acc : Access) (level : Nat)
  -- dispatch, saves, lending (16, 11, 20)
  | teamPlacement (die team core : Nat)
  | teamRetire (team : Nat)
  | spillTest (team : Nat)
  | rotationPreemption (team : Nat)
  | rotationTimeout (team : Nat)
  | teamSave (team : Nat)
  | teamRestore (die team core : Nat)
  | watchdogExpiry (ctx : Nat)
  | saveBoundExpiry (team : Nat)
  | clusterLend (cluster part : Nat)
  | clusterReclaim (cluster : Nat)
  | reclaimRefusedTimeout (team : Nat)
  | limiterRefill (die part : Nat)
  | remoteRequestAdmission (pkg tag pa : Nat) (req : RemoteReq)
  -- the host interface (22)
  | notifyWrite (fn ring : Nat) (v : BitVec 32)
  | ringEnable (fn ring : Nat) (v : BitVec 64)
  | ringDisable (fn ring : Nat)
  | tokenRefill (fn : Nat)
  | parserDrain (fn ring : Nat)
  | parserRetry (fn ring : Nat)
  | headWritebackTimer (fn ring : Nat)
  | launch (fn ring pos : Nat)
  | copy (fn ring pos : Nat)
  | copyPacketComplete (fn ring pos : Nat)
  | waitMem (fn ring pos : Nat)
  | waitMemHostPoll (fn ring pos : Nat)
  | writeMem (fn ring pos : Nat)
  | fencePacket (fn ring pos : Nat)
  | energyMark (fn ring pos : Nat)
  | timestamp (fn ring pos : Nat)
  | predicate (fn ring pos : Nat)
  | relaunch (fn ring pos : Nat)
  | tlbinvBlock (fn : Nat) (v : BitVec 64)
  | tlbinvContext (fn : Nat) (v : BitVec 64)
  | tlbinvPartition (fn : Nat) (v : BitVec 64)
  | s2inv (v : BitVec 64)
  | prqResponseOk (fn id : Nat)
  | prqResponseFail (fn id : Nat)
  | exportRequest (fn : Nat)
  | notifyrateWrite (fn : Nat) (v : BitVec 64)
  | contextEnable (ctx : Nat)
  | contextDisable (ctx : Nat)
  | ccload (v : BitVec 64)
  | mailboxPublish (sender m : Nat) (v : BitVec 64)
  | mailboxClear (core m : Nat)
  | agtcmdFragment (v : BitVec 64)
  | readClearRegister (fn off : Nat)
  | registerWrite (fn off size : Nat) (v : BitVec 64)
  -- Agtur and the life cycle (23)
  | coldStartCommand (c : Command)
  | warmStartCommand (c : Command)
  | recovery (c : Command)
  | writeAgturRegisters (c : Command)
  | setPackageTenant (c : Command)
  | setPartitionTenant (c : Command)
  | enrolLeaseKey (c : Command)
  | installWeightTable (c : Command)
  | retirePseudoChannel (c : Command)
  | drainQuarter (c : Command)
  | retrainFabricPort (c : Command)
  | replaceCommandCoreImage (c : Command)
  | reclaimLentClusters (c : Command)
  | assignPkgid (c : Command)
  | writeAgturFirmware (c : Command)
  | coldStart (failStep : Nat)
  | warmStart (failStep : Nat) (kept : Bool)
  | functionLevelReset (fn : Nat)
  | thermalThrottle (quarter : Nat) (hot : Bool)
  | thermalTrip
  | softError (site : ErrSite)
  | dieFailure (die : Nat)
  | exchangePortFailure (cluster : Nat)
  | pairLinkFailure (pair : Nat)
  | portFailure (port : Nat)
  | mediumIdentify (port : Nat) (ok : Bool)
  | xstWriteComplete (core : Nat)
  | flitReplay (port : Nat)
  | msixMaskClear (fn vec : Nat)
  | privilegedContextSave (ctx : Nat)
  | trivetAgturImage (image : List Byte)
  | capReportArrival (pkg domain flr demand : Nat)
  -- words and fetches that are no instruction (03 R95, 11 R259)
  | illegalEncoding (w : BitVec 64)
  | fetchFault (c : FetchCause)
  deriving DecidableEq, Repr

end Sys2Proof
end

