-- ==== Sys2Proof/Machine/State.lean ====
section
/-! DEFINITION. The state of one Strelli S9 package, as plain data. Units are numbered across the package:
core = 128 × die + core, cluster = 32 × die + cluster, quarter = 4 × die + quarter, slice = 32 × die + slice,
future entry = 4,096 × die + index. -/

namespace Sys2Proof.Machine

/-! ### Lanes and gangs -/

/-- R171, R191, R234, R237, R239, R298, R302, R370, R547: what a Waiting lane waits on. `delayed` is a barrier that has flipped, whose
release reaches the lane in a core cycle of its quarter (R232). -/
inductive WaitOn where
  | mask (k : Nat)
  | bar (n : Nat)
  | delayed (cycle : Nat)
  | memory (scr : Bool) (block : Nat) (pred : Option Nat) (deadline : Option Nat)
  | xbar
  | cbar (pred : Nat)
  | future (handle : BitVec 32) (d n : Nat)
  | coll (ticket : W64) (d : Nat)
  deriving DecidableEq, Repr

/-- R171: the state of a lane. `flush` is Held in `acc.flush` (R344), `point` in a `vf.stat` that writes s[d] (R462); `rfe` is Held at an
`rfe` word (R269). -/
inductive LaneState where
  | ready
  | waiting (w : WaitOn)
  | flush (id : Nat)
  | point (d : Nat)
  | rfe (skip : Bool)
  | exited
  deriving DecidableEq, Repr

/-- An atomic register name, as the window rules use it (R83, R84). -/
inductive Reg where
  | v (n : Nat) | s (n : Nat) | k (n : Nat) | m (n : Nat) | f (n : Nat) | t (n : Nat) | c (n : Nat)
  deriving DecidableEq, Repr

/-- A result not yet written. -/
inductive RegWrite where
  | v (lane reg : Nat) (x : W32)
  | s (reg : Nat) (x : W64)
  deriving DecidableEq, Repr

/-- What a pending result waits for; `lost` is a get whose future died before it completed (R370). -/
inductive PendKind where
  | data
  | tile (t : Nat) (bar : Option Nat) (bytes : Nat)
  | matrix (op : Nat)
  | future (handle : BitVec 32) (d n : Nat)
  | lost
  deriving DecidableEq, Repr

/-- R439: a charge that is taken when a miss resolves: core, context, weight, how many, and domain. -/
structure Miss where
  core   : Nat
  ctx    : Nat
  index  : Nat
  count  : Nat
  dom    : Nat
  deriving DecidableEq, Repr

/-- R389: the places that a plain load with a window has read and may read anew when its data returns (notes/assumptions/46.md): its
destination, a vector register or a scalar, its size, and the lanes with their physical addresses. -/
structure Reread where
  dest   : Nat
  vec    : Bool
  wide   : Bool
  size   : Nat
  sgn    : Bool
  places : List (Nat × Nat)
  deriving DecidableEq, Repr

/-- R83 to R86: one long-latency instruction with its pending set and window. `misses` are the charges taken when its data returns. -/
structure Pend where
  id     : Nat
  word   : W64
  regs   : List Reg
  lanes  : LaneMask
  left   : Tbl Nat
  kind   : PendKind
  writes : List RegWrite
  flags  : Tbl (BitVec 5)
  ecc    : Option (LaneMask × W64)
  done   : Bool
  misses : List Miss := []
  again  : Option Reread := none
  deriving DecidableEq, Repr

/-- A write in a store queue: target, first byte, bytes. -/
inductive WTarget where
  | mem
  | scratch (team : Nat)
  | shadow (team : Nat)
  deriving DecidableEq, Repr

structure Write where
  tgt   : WTarget
  addr  : Nat
  bytes : List Byte
  deriving DecidableEq, Repr

/-- R227: one entry of a store queue. -/
abbrev SqEntry := List Write

/-- R316: a Write packet on its way to a home slice: the bytes that one instruction leaves in one line (R158). -/
structure OutWrite where
  id    : Nat
  ctx   : Nat
  line  : Nat
  cells : List Host.Cell
  deriving DecidableEq, Repr

/-- R296: an `xst` write on its way: the team that made it, its target team, and the bytes; `bad` tells of an uncorrectable
error in them (R297). -/
structure XWrite where
  src   : Nat
  tgt   : Nat
  cells : List Host.Cell
  bad   : Bool := false
  deriving DecidableEq, Repr

/-- R89, R162: the long instruction in progress in a gang. `left` lists what the lanes not yet performed were charged (R439). -/
inductive Progress where
  | rep (cnt sd sa sb sc : Nat) (lanes : LaneMask)
  | lanes (run : LaneMask) (left : Tbl Nat)
  deriving DecidableEq, Repr

/-- R180: lanes marked yielded, the runs each still waits for, and the issue cycles left. -/
structure Yield where
  lanes : LaneMask
  runs  : List LaneMask
  left  : Nat
  deriving DecidableEq, Repr

/-- R331: the values of one packet before it leaves the core, numbered in order of issue (R348). -/
structure Addend where
  lanes : LaneMask
  ctx   : Nat
  block : Nat
  op    : AccOpc
  slots : Tbl W32
  cov   : List Nat
  seq   : Nat := 0
  deriving DecidableEq, Repr

/-- Why a whole gang does not issue. `energy` holds the charge that was refused (R442) and when. `replay` holds the page requests
that the gang waits for, and the pages for which it has found no entry (R166, R430). `saved` is a gang that has
stopped for a save or a reclamation (R273, R374). `trapWait`: a trapping word of these lanes waits for earlier results (R256, R86). -/
inductive GangStop where
  | none
  | energy (need since : Nat)
  | replay (ids : List Nat) (want : List ((Nat × Bool) × Access))
  | trapWait (lanes : LaneMask)
  | saved
  deriving DecidableEq, Repr

/-- R217, R216: a continuation to be accepted or saved. -/
structure Contin where
  fmt   : W32
  p     : Nat
  kb    : Nat
  acc   : Nat
  afld  : BitVec 8
  modb  : BitVec 8
  pair  : Bool
  word  : W64
  win   : Nat
  deriving DecidableEq, Repr

/-- `asked` lists the pages of a stall with the addresses that need them, and `failed` those that have been refused (R166, R432). `fenceId`
numbers the gang's last `cp.fence` (R249); `stepArm` holds the lanes that may issue one word more, and `stepped` those that have issued it (R269). -/
structure Gang where
  width  : Nat := 16
  core   : Nat := 0
  slot   : Nat := 0
  base   : Nat := 0
  poolAt : Nat := 0
  vbnd   : Nat := 8
  pool   : Tbl W32 := []
  preds  : Tbl (BitVec 16) := []
  fstat  : Tbl (BitVec 5) := []
  pcs    : Tbl W64 := []
  depth  : Tbl Nat := []
  lst    : Tbl LaneState := []
  ages   : Tbl Nat := []
  since  : Tbl Nat := []
  yields : List Yield := []
  s      : Tbl W64 := []
  m      : Tbl W64 := []
  frames : Tbl W64 := []
  cstk   : W64 := 0
  pidx   : W64 := 0
  tcause : W64 := 0
  tlanes : Tbl W64 := []
  taddr  : W64 := 0
  tpc    : W64 := 0
  tstat  : W64 := 0
  fmode  : W64 := 0
  hset   : LaneMask := 0
  stepArm : LaneMask := 0
  stepped : LaneMask := 0
  pend   : List Pend := []
  queue  : List SqEntry := []
  prog   : Option Progress := none
  port   : List Addend := []
  stop   : GangStop := .none
  failed : List (Nat × Bool) := []
  asked  : List ((Nat × Bool) × W64) := []
  conts  : List Contin := []
  lost   : Tbl (BitVec 32) := []
  bad    : List Nat := []
  fenceId : Nat := 0
  deriving DecidableEq, Repr

/-! ### Teams -/

/-- R351, R477: launch fields. -/
structure Launch where
  entry  : W64 := 0
  cAddr  : W64 := 0
  cBytes : Nat := 0
  gx : Nat := 1
  gy : Nat := 1
  gz : Nat := 1
  scratch : Nat := 0
  v : Nat := 8
  gw : Nat := 16
  gangs : Nat := 1
  a : Nat := 0
  tiles : Nat := 0
  bars : Nat := 0
  pair : Bool := false
  fuse : Bool := false
  xg : Nat := 0
  deriving DecidableEq, Repr

/-- R358: `placed` stands for Resident, Waiting and Energy-stopped, which the lanes and gangs tell apart; a team is
Orphaned when its future's entry is. `killed` is a team of a killed context whose accumulates are still to be delivered (R347). -/
inductive TeamState where
  | queued | placed | saving | saved | killed | retired
  deriving DecidableEq, Repr

/-- R197 to R199. -/
structure Tile where
  data : Tbl Byte := []
  side : Tbl Byte := []
  ew   : Nat := 1
  rlen : Nat := 128
  rows : Nat := 64
  rdy  : Bool := true
  busy : Option Nat := none
  ecc  : Bool := false
  deriving DecidableEq, Repr

/-- R232. WAITERS is computed from the lanes. -/
structure Bar where
  arr  : BitVec 5 := 0
  exp  : Nat := 0
  ph   : Nat := 0
  pend : BitVec 32 := 0
  la   : Tbl LaneMask := []
  pg   : Tbl Nat := []
  deriving DecidableEq, Repr

/-- R246 to R249: an entry of a copy queue, numbered in order of issue. -/
inductive CopyEntry where
  | copy (id team gang : Nat) (level : Nat) (srcScr dstScr : Bool) (src dst : W64) (len : Nat) (desc : Option W64)
  | fence (id team gang : Nat) (y : Scope) (mask : Nat) (desc : Option W64)
  deriving DecidableEq, Repr

/-- R273: a stop request on a team: its reason (R278), the time of the request, whether every boundary will do, when every
gang had stopped, the gang whose trap asks for it, and ROTT as it stood at the request (R263). -/
structure StopReq where
  reason : Nat
  since  : Nat
  forced : Bool
  stopped : Option Nat
  gang : Option Nat
  limit : Nat := 20
  deriving DecidableEq, Repr

/-- A team. `grid` names the packet of a grid launch; `flips` lists the barriers that flipped while the team was saved, and
`copies` its saved copy entries by core of the team and queue (R252, R278); `tried` is the time of the last spill test
(R240), or of the last try of a save or restore that found a page missing. -/
structure Team where
  ctx    : Nat := 0
  ref    : W64 := 0
  launch : Launch := {}
  index  : Nat := 0
  state  : TeamState := .queued
  die    : Option Nat := none
  core   : Nat := 0
  serial : Nat := 0
  grid   : Option (Nat × Nat × Nat) := none
  flips  : List Nat := []
  copies : List (Nat × Nat × CopyEntry) := []
  saveKey : Nat := 0
  gangs  : Tbl Gang := []
  f      : Tbl (BitVec 32) := []
  tiles  : Tbl Tile := []
  bars   : Tbl Bar := []
  scratch : Tbl Byte := []
  shadow  : Tbl Byte := []
  poison  : List Nat := []
  shPoison : List Nat := []
  child  : Bool := false
  handle : BitVec 32 := 0
  args   : List W64 := []
  imgAddr : W64 := 0
  ret    : Option (List W32) := none
  stopReq : Option StopReq := none
  saveOff : Option Nat := none
  reason : Nat := 0
  trapGang : Option Nat := none
  order  : Nat := 0
  classIn : Nat := 3
  placed : Nat := 0
  flush : Option Nat := none
  resFrom : Nat := 0
  tried : Nat := 0
  deriving DecidableEq, Repr

/-- R298: an exchange group, keyed by context, launch serial and group number. -/
structure XGroup where
  ctx : Nat := 0
  serial : Nat := 0
  num : Nat := 0
  arrived : List Nat := []
  swaps : BitVec 32 := 0
  lanes : Tbl LaneMask := []
  deriving DecidableEq, Repr

/-! ### Cores and clusters -/

structure L1Line where
  line : Nat
  excl : Bool
  mon  : Bool
  deriving DecidableEq, Repr

/-- R211, R212: a matrix operation accepted by an array. `side` is true in the follower's queue of a pair operation. -/
structure MatOp where
  id     : Nat
  team   : Nat
  gang   : Nat
  pair   : Bool
  side   : Bool
  partner : Nat
  wide   : Bool
  nosplit : Bool
  ring   : Nat
  ta     : Nat
  tb     : Nat
  fmt    : W32
  kb     : Nat
  p      : Nat
  ran    : Bool
  acc    : Nat
  word   : W64
  e      : Tbl W32
  o      : Tbl W32
  paused : Bool
  bad    : Bool
  deriving DecidableEq, Repr

/-- R250, R251. `faults` holds, for each gang (16 × team + gang) to be told, the cause and the failing address; `missing` the
page that the engine waits for, with the address that needs it; `begun` tells that the oldest entry has moved bytes, and
`gone` counts the entries that left at a time (R250). -/
structure CopyQueue where
  entries : List CopyEntry := []
  faults  : List (Nat × W64 × Nat) := []
  missing : Option ((Nat × Bool) × W64) := none
  begun   : Bool := false
  gone    : Nat × Nat := (0, 0)
  deriving DecidableEq, Repr

/-- R337: a residual entry that holds values. `due` is the core cycle by which it is sent, and `ageCyc` the core cycle of AGE, as the
quarter counts them (R341). -/
structure Resid where
  ctx   : Nat
  block : Nat
  op    : AccOpc
  slots : Tbl W32
  age   : Nat
  retry : Nat
  urg   : Bool
  book  : Bool
  due   : Nat
  cov   : List Nat
  ageCyc : Nat := 0
  deriving DecidableEq, Repr

/-- Where an unanswered packet is. -/
inductive PktStage where
  | sent | accepted | applied | refused (booked : Bool) | held
  deriving DecidableEq, Repr

/-- R331, R338: an accumulate packet. `due` is the deadline of the entry whose values it took along (R339), which is no
retry, and `answer` numbers the slices' answers in the order sent (R319). -/
structure Packet where
  id    : Nat
  ctx   : Nat
  part  : Nat
  block : Nat
  op    : AccOpc
  slots : Tbl W32
  age   : Option Nat
  retry : Nat
  urg   : Bool
  granted : Bool
  cov   : List Nat
  stage : PktStage
  ageCyc : Nat := 0
  due   : Option Nat := none
  answer : Nat := 0
  deriving DecidableEq, Repr

/-- R440: a meter entry. `answer` is the answer travelling back (0 is a refusal). -/
structure Meter where
  rem : Int := 0
  cons : Nat := 0
  req : Bool := false
  answer : Option Nat := none
  refused : Bool := false
  deriving DecidableEq, Repr

/-- R426. `size` is the log2 of the block. -/
structure TlbEntry where
  ctx : Nat
  va : Nat
  size : Nat
  pa : Nat
  ipa : Nat
  r : Bool
  w : Bool
  x : Bool
  sup : Bool
  d : Bool
  deriving DecidableEq, Repr

/-- A core. `tlb` is its TLB of 64 entries (R426). `portAt` is the core cycle of the last event of its accumulate port (R333), `pairLoadBad` an error in the next data that a load
takes over the pair link (R289), and `damaged` the columns of its array that fail and have not been fenced (R222). `code` is memory as the instruction caches may still hold it, what it was when they were last invalidated, and
`fetched` lists the lines fetched since (R67). -/
structure Core where
  ageMax : Nat := 1024
  out    : List OutWrite := []
  l1     : List L1Line := []
  matq   : List MatOp := []
  fenced : Option Nat := none
  spare  : Option Nat := none
  matOff : Bool := false
  lastPass : Nat := 0
  copyq  : Tbl CopyQueue := []
  resid  : List Resid := []
  pkts   : List Packet := []
  meters : Tbl Meter := []
  pairBad : Bool := false
  xouts  : List XWrite := []
  code   : Option (List Host.Cell) := none
  fetched : List Nat := []
  portAt : Option Nat := none
  pairLoadBad : Bool := false
  damaged : List Nat := []
  tlb : List TlbEntry := []
  deriving DecidableEq, Repr

/-- R301: a cluster-barrier entry. -/
structure CbarEntry where
  ctx : Nat
  serial : Nat
  phase : Nat
  lanes : Tbl LaneMask
  deriving DecidableEq, Repr

structure Cluster where
  fused : Bool := false
  noXch : Bool := false
  lent  : Option Nat := none
  reclaim : Option Nat := none
  cbars : List CbarEntry := []
  tlb : List TlbEntry := []
  deriving DecidableEq, Repr

/-! ### Dies and home slices -/

inductive FutState where
  | free | queued | running | completed | orphaned
  deriving DecidableEq, Repr

/-- R362. -/
structure FutEntry where
  state : FutState := .free
  ctx : Nat := 0
  count : Nat := 0
  gen : Nat := 1
  results : List W32 := []
  child : Nat := 0
  deriving DecidableEq, Repr

inductive FillDone where
  | bar (team n : Nat)
  | tok (pa : Nat) (x : W32)
  deriving DecidableEq, Repr

/-- R253, R254. `ran` tells that its lines have been installed or skipped. -/
structure FillCmd where
  ctx : Nat
  team : Nat
  gang : Nat
  core : Nat
  level : Nat
  addr : W64
  len : Nat
  fin : FillDone
  ran : Bool := false
  deriving DecidableEq, Repr

/-- R427, R428: an invalidation that waits or is in progress: the value written, whether it is one of S2INV, and, once it has begun, what it
waits for: the flush of its contexts' accumulates and every access numbered before it, the Ladle's commands with a token, and the
collective operations (partition, group, number), that may have used an entry that it removed. -/
structure TlbReq where
  v : W64
  s2 : Bool
  begun : Option Nat := none
  fills : List FillDone := []
  colls : List (Nat × Nat × Nat) := []
  deriving DecidableEq, Repr

structure Die where
  classMap : W64 := 0
  rtr : Tbl W64 := []
  prate : Tbl W64 := []
  limiter : Tbl Int := []
  limAt : Tbl Nat := []
  failed : Bool := false
  ladle : List FillCmd := []
  tlb : List TlbEntry := []
  deriving DecidableEq, Repr

/-- R309, R324, R336. `refuse` holds the times of the grant, of the first and of the last refusal under (c). -/
structure DirEntry where
  line : Nat
  part : Nat
  sharers : BitVec 128
  owner : Option Nat
  dirty : Bool
  mon : Bool
  way : Option Nat
  stamp : Nat
  granted : Nat
  refuse : Option (Nat × Nat)
  deriving DecidableEq, Repr

/-- `refused` holds refusal-pending bits of lines that have left the directory (R336). `freedAt` is when an entry of the accept queue was last freed, or the queue last became non-empty (R334). -/
structure Slice where
  dir : List DirEntry := []
  bypass : List DirEntry := []
  accept : List (Nat × Nat) := []
  booking : List (Nat × Nat) := []
  grants : List Nat := []
  mask : Tbl (BitVec 16) := []
  occ : Tbl Nat := []
  spillMon : List (Nat × Nat) := []
  remoteBook : List (Nat × Nat) := []
  freedAt : Nat := 0
  refused : Tbl (Nat × Nat) := []
  deriving DecidableEq, Repr

/-! ### Partitions and contexts -/

/-- R543, R546: one operation of a collective group at this package. `dst` lists the stretches of the destination:
offset, physical address and length. Status 0 is an operation in flight. -/
structure CollOpn where
  k : Nat
  bcast : Bool
  op : CollOp
  root : Nat
  len : Nat
  ctx : Nat
  core : Nat
  dst : List (Nat × Nat × Nat)
  value : Option (List Byte)
  mism : Bool
  got : Nat
  sentUp : Bool
  deadline : Nat
  status : Nat
  deriving DecidableEq, Repr

/-- R546: a partial that arrives before this package has issued the operation. -/
structure EarlyPartial where
  k : Nat
  fromPkg : Nat
  bcast : Bool
  op : Option CollOp
  root : Nat
  len : Nat
  mism : Bool
  bytes : Option (List Byte)
  deriving DecidableEq, Repr

structure CollGroup where
  a : W64 := 0
  b : W64 := 0x0A00000000000000
  count : Nat := 0
  ops : List CollOpn := []
  early : List EarlyPartial := []
  deriving DecidableEq, Repr

structure Part where
  cfg : W64 := 0
  ext : Tbl W64 := []
  s2ctl : W64 := 0
  prqCap : Nat := 1024
  futCap : Nat := 1024
  enAllow : W64 := 0
  pceil : Nat := 0
  capceil : Nat := 0
  start : Nat := 0
  cur : Nat := 0
  target : Nat := 0
  busy : Option (Nat × Nat) := none
  pendT : Bool := false
  seq : Nat := 0
  remwin : Tbl W64 := []
  fabtag : W64 := 0
  shandler : W64 := 0
  slack : Nat := 10000000
  coll : Tbl CollGroup := []
  tenant : W64 := 0
  standing : Int := 0
  standStat : Int := 0
  standCorr : Int := 0
  closed : List (List Byte) := []
  recSeq : Nat := 1
  recFirst : Nat := 0
  exportReq : Bool := false
  hist : List (Nat × Nat) := []
  heldPrq : Nat := 0
  deriving DecidableEq, Repr

/-- What the host is told on vector 1 of a function beside traps (R275, R280, R361, R421, R471, R482, R495). -/
inductive Notice where
  | killed | watchdog | unsaved | disabled | functionReset | firmwareRecovered | reclaimRefused | saveAreaFull | badRecord
  deriving DecidableEq, Repr

/-- R460, R465. -/
structure Mark where
  time : Nat
  consumed : Int
  value : W64
  deriving DecidableEq, Repr

/-- `wdogNow` is WDOG as it stood at the last trap or rotation (R263). `dying` is the flush that a kill waits for (R347), and `why` what the host
is told of it. -/
structure Context where
  en : Bool := false
  vfRight : Bool := false
  s1root : W64 := 0
  khandler : W64 := 0
  kdeleg : BitVec 16 := 0x0E00
  rott : Nat := 20
  wdog : Nat := 0
  wdogNow : Nat := 0
  saveBase : W64 := 0
  saveSize : Nat := 0
  cap : Nat := 0
  refill : Nat := 0
  share : Nat := 256
  capNow : Nat := 0
  refillNow : Nat := 0
  shareNow : Nat := 256
  vfNow : Bool := false
  spillt : Nat := 40
  consumed : Int := 0
  level : Int := 0
  vj : Nat := 0
  vjFrac : Nat := 0
  vjDen : Nat := 1
  serial : Nat := 1
  wdStart : Option Nat := none
  wdDefer : Bool := false
  dyn : Nat := 0
  stat : Int := 0
  corr : Int := 0
  marks : List Mark := []
  dropped : Nat := 0
  dying : Option Nat := none
  why : Notice := .killed
  deriving DecidableEq, Repr

/-! ### The host interface -/

/-- R476 to R481: a packet taken from a ring. `waits` lists the packets that a joining FENCE waits for, `prq` the page
request that a LAUNCH waits for and `fail` its answer, `since` the time of the last test, `pa` the place that a
WAIT_MEM watches, and `woken` that its line has been written since. -/
structure PktRun where
  pos : Nat
  bytes : List Byte
  skip : Bool := false
  started : Bool := false
  code : Option (Nat × Nat) := none
  serial : Option Nat := none
  waits : List (Nat × Nat) := []
  prq : Option Nat := none
  fail : Bool := false
  since : Nat := 0
  pa : Option Nat := none
  woken : Bool := false
  deriving DecidableEq, Repr

/-- R472. `pos` of a packet is 2^32 × `epoch` + its ring position, so that packets that outlive a disabling are told apart.
`stopped` tells that its context has been disabled (R471). -/
structure Ring where
  base : W64 := 0
  en : Bool := false
  vec : Nat := 0
  log2n : Nat := 0
  headwb : W64 := 0
  tail : BitVec 32 := 0
  head : BitVec 32 := 0
  comp : BitVec 32 := 0
  err : Nat := 0
  wakeAgain : Bool := false
  waitSlot : Option Nat := none
  run : Bool := false
  epoch : Nat := 0
  wbDirty : Option Nat := none
  stopped : Bool := false
  pkts : List PktRun := []
  deriving DecidableEq, Repr

/-- R431, R466, R500, R555: a record ring in host memory. -/
structure RecRing where
  base : W64 := 0
  en : Bool := false
  vec : Nat := 0
  log2n : Nat := 0
  pos : Nat := 0
  waiting : List (List Byte) := []
  deriving DecidableEq, Repr

/-- R434: an entry of an MSI-X table, whose mask bit is in `msixMask`. -/
structure MsixEntry where
  addr : W64 := 0
  data : BitVec 32 := 0
  deriving DecidableEq, Repr

/-- The registers of a function. `credit` holds its rate tokens in parts of 1/2,400, as they stood at `refillAt` (R474), `flr` tells of a reset in progress, and `tlbq` holds its
invalidations, of which the first is in progress (R427). `msixOn` and `msixHeld` are MSI-X Enable and Function Mask (R434). -/
structure Func where
  rings : Tbl Ring := []
  prq : RecRing := {}
  mtr : RecRing := {}
  credit : Nat := 38400
  depth : Nat := 16
  rate : Nat := 4
  refillAt : Nat := 0
  flrDrop : BitVec 32 := 0
  tlbinv : W64 := 0
  tlbErr : Bool := false
  tlbq : List TlbReq := []
  prqresp : W64 := 0
  msixMask : BitVec 64 := 0xFFFFFFFFFFFFFFFF
  msixPend : BitVec 64 := 0
  msixTab : Tbl MsixEntry := []
  msixOn : Bool := false
  msixHeld : Bool := false
  usable : Bool := true
  flr : Bool := false
  deriving DecidableEq, Repr

/-- R429 to R432: an outstanding page request. `pos` is its ring position once its record is written. -/
structure PageReq where
  id : Nat
  fn : Nat
  part : Nat
  ctx : Nat
  page : Nat
  s2 : Bool
  flags : BitVec 8
  time : Nat
  pos : Option Nat
  deriving DecidableEq, Repr

/-- R486. `since` is the time of the message that stands. -/
structure Mailbox where
  data : Tbl Byte := []
  full : Bool := false
  sender : Nat := 0
  rcv : Nat := 0
  since : Nat := 0
  deriving DecidableEq, Repr

/-- R484 to R486, R495: a command core: whether it is held in reset, whether it runs an image of Vukesan's, its 512 KiB of RAM, its RV64GC
registers, and whether a mailbox has interrupted it. -/
structure CmdCore where
  held : Bool := false
  golden : Bool := true
  ram : Tbl Byte := []
  x : Tbl W64 := []
  f : Tbl W64 := []
  pc : W64 := 0
  fcsr : BitVec 32 := 0
  irq : Bool := false
  deriving DecidableEq, Repr

/-- R487: Agtur's fuses. -/
structure Fuses where
  hashes : List (List Byte) := []
  revoked : BitVec 4 := 0
  minimum : Nat := 0
  deriving DecidableEq, Repr

/-- R488, R496: a lease scrub in progress: its partition, or none for the package, the departing tenant, the TIME at which it began, and
whether its command came by the management port. -/
structure Scrub where
  scope : Option Nat
  tenant : W64
  since : Nat
  mgmt : Bool
  deriving DecidableEq, Repr

/-- R492: a start that is asked for: the step at which it is to fail, and whether a warm one keeps its tenant. -/
inductive StartReq where
  | cold (failStep : Nat)
  | warm (failStep : Nat) (kept : Bool)
  deriving DecidableEq, Repr

/-- R500: corrected events of one kind in this tick: source, die, unit, address of the first, its TIME, and their count. -/
structure Corrected where
  source : Nat
  die : Nat
  unit : Nat
  addr : Nat
  time : Nat
  count : Nat
  deriving DecidableEq, Repr

/-- R551. -/
structure Port where
  mode : Nat := 0
  state : Nat := 0
  lanes : Nat := 0
  replays : Nat := 0
  peerPkg : Nat := 0
  peerPort : Nat := 0
  deriving DecidableEq, Repr

/-- R454, R455, R503: the clock of a quarter. `cyc` counts its core cycles, `phase` carries the fraction, and `rate` is the rate, in
units of 100 MHz, at which the core cycle in progress began. `volts` counts the periods of this tick at each point's voltage, up to
`voltAt` (R516), and `off` tells that a drained quarter has been powered down (R498). -/
structure Quarter where
  rate  : Nat := 24
  phase : Nat := 0
  cyc : Nat := 0
  hot : Bool := false
  drained : Bool := false
  pool : Bool := false
  volts : Tbl Nat := []
  voltAt : Nat := 0
  off : Bool := false
  deriving DecidableEq, Repr

/-- A flit bundle that left for another package, in order (R534, R536). `offs` are the places of the bytes of a masked write,
`charge` is what a reply carries back, in 1/8 pJ, and `tag` what a request of a partition carries (R538). -/
structure FabricOut where
  pkg : Nat
  cls : Nat
  port : Nat
  pa : Nat
  bytes : List Byte
  offs : List Nat := []
  charge : Nat := 0
  tag : BitVec 16 := 0
  deriving DecidableEq, Repr

/-- R316 to R321: a packet on the mesh: the output ports that it has still to win, the first being the one at which it waits or
which it approaches, and the time at which it is there. -/
structure Flight where
  id    : Nat
  cls   : Nat
  flits : Nat
  ports : List Nat
  since : Nat
  deriving DecidableEq, Repr

/-- R316, R321: an output port of a router: when its link is free, and the deficits of TC2 to TC6. -/
structure Link where
  free    : Nat := 0
  deficit : List Nat := [0, 0, 0, 0, 0]
  deriving DecidableEq, Repr

/-! ### The package -/

/-- The run that issues, or has just issued, a word (R171). `paid` is the scaled charge that its word has been granted, with
whether it was to trap (R442), `others` are the other runs of its gang that were Ready with it (R180), and `ageing` the lanes that
the gang's issue cycle ages, once its first word has issued (R172). -/
structure Cur where
  team : Nat := 0
  gang : Nat := 0
  lanes : LaneMask := 0
  pc : W64 := 0
  paid : Option (Nat × Bool) := none
  others : List LaneMask := []
  ageing : LaneMask := 0
  deriving DecidableEq, Repr

/-- One turn of the schedule: the issue units move, one event happens, or the host writes its own memory, at a bus address of
a function (R468). -/
inductive Turn where
  | issue
  | event (i : Instr)
  | hostStore (fn addr : Nat) (bytes : List Byte)
  deriving DecidableEq, Repr

/-- R488, R494: what Agtur sends on the management port: the STATUS and DETAIL of a command, or the step at which a start failed. -/
inductive MgmtMsg where
  | answer (status detail : Nat)
  | startFailed (step : Nat)
  deriving DecidableEq, Repr

/-- What became of the word that was just tried: `held` (R171: it has not issued), `trapped` (R265), or `late`: a late trap
came before it (R258). -/
inductive Note where
  | none | held | trapped | late
  deriving DecidableEq, Repr

structure State where
  -- schedule (the model's own fields, notes/assumptions/2.md and 3.md): `choosing` lists, until the cores of a period have chosen what
  -- they issue, the quarters that have a core cycle in it, and `misses`, within a step, gathers the charges of misses that resolve later (R439)
  agenda : List Turn
  fuel : Nat
  cur : Cur
  issues : List Cur
  note : Note
  choosing : Option (List Nat)
  misses : Option (List Miss)
  nextId : Nat
  barTests : List (Nat × Nat)
  -- memory
  mem : List Host.Cell
  poison : List Nat
  host : List Host.Cell
  retiredCh : List Nat
  withdrawn : List Nat
  -- time and clocks
  time : Nat
  quarters : Tbl Quarter
  powered : Bool
  -- units
  teams : Tbl Team
  groups : List XGroup
  cores : Tbl Core
  clusters : Tbl Cluster
  dies : Tbl Die
  slices : Tbl Slice
  flights : List Flight
  links : Tbl Link
  futures : Tbl FutEntry
  parts : Tbl Part
  ctxs : Tbl Context
  -- energy
  weights : List Nat
  wtabVer : Nat
  wshadow : Option (List Nat × Nat)
  dyn : Tbl Nat
  resid : Tbl Nat
  pkgStanding : Int
  shareW : Nat
  rscale : Nat
  capcfg : W64
  capbudget : W64
  capReports : List (Nat × Nat × Nat)
  capShare : Option Nat
  capMissed : Nat
  capRefused : Bool
  capDone : Nat
  capDivided : Bool
  tick : Nat
  expInt : Nat
  -- host interface
  funcs : Tbl Func
  prqs : List PageReq
  prqWait : List PageReq
  parked : List (Nat × Nat)
  msgs : List (Nat × Nat × W64 × BitVec 32)
  notices : List (Nat × Nat × Notice)
  errRing : RecRing
  s2inv : W64
  ccload : W64
  mailboxes : Tbl Mailbox
  cmdCores : Tbl CmdCore
  -- Agtur
  bootstat : W64
  agtData : Tbl W64
  agtCtl : W64
  agtBuf : List Byte
  agtSeq : Nat
  leaseKeys : List (W64 × List Byte)
  pkgTenant : W64
  scrubSeq : Nat
  fwCopies : List (List Byte)
  answers : List MgmtMsg
  fuses : Fuses
  opHash : List Byte
  trims : List Byte
  golden : List (List Byte)
  running : List Byte
  scrubs : List Scrub
  startWaits : Option StartReq
  extTenant : Tbl W64
  corrected : List Corrected
  -- fabric
  pkgid : W64
  pkgSet : Bool
  ports : Tbl Port
  fabRoute : Tbl W64
  fabOut : List FabricOut
  remoteAcc : Tbl Nat
  deriving DecidableEq, Repr

/-- Why the machine stops: it has no reason to. What the spec calls a fault is a trap, a report or a kill, each with its next state. -/
inductive Fault where
  deriving DecidableEq, Repr

/-- Why a step has no meaning here. -/
inductive Refusal where
  /-- No meaning yet. No row is left without one; safe. -/
  | notModelled (mnemonic : String)
  deriving DecidableEq, Repr

/-- R492, R493: the package right after a completed cold start: every field at its Reset value; nothing enabled. The record of
the start's lease scrub waits for function 0's meter ring, and its vector 2 is pending (R496, R434). -/
def State.reset : State where
  agenda := []
  fuel := 0
  cur := {}
  issues := []
  note := .none
  choosing := none
  misses := none
  nextId := 1
  barTests := []
  mem := []
  poison := []
  host := []
  retiredCh := []
  withdrawn := []
  time := 0
  quarters := []
  powered := true
  teams := []
  groups := []
  cores := []
  clusters := []
  dies := []
  slices := []
  flights := []
  links := []
  futures := []
  parts := []
  ctxs := []
  weights := Config.defaultWeights
  wtabVer := 1
  wshadow := none
  dyn := []
  resid := []
  pkgStanding := 0
  shareW := 0
  rscale := 65536
  capcfg := 0
  capbudget := 0
  capReports := []
  capShare := none
  capMissed := 0
  capRefused := false
  capDone := 0
  capDivided := false
  tick := 0
  expInt := 50000
  funcs := [(0, { mtr := { waiting := [Config.coldRecord 0 1] }, msixPend := 4 })]
  prqs := []
  prqWait := []
  parked := []
  msgs := []
  notices := []
  errRing := {}
  s2inv := 0
  ccload := 0
  mailboxes := []
  cmdCores := (List.range 8).map (fun c => (c, { ram := Config.imageRam (Config.goldenImage c) }))
  bootstat := 1
  agtData := []
  agtCtl := 0
  agtBuf := []
  agtSeq := 0
  leaseKeys := []
  pkgTenant := 0
  scrubSeq := 2
  fwCopies := (List.range 2).map Config.agturCopy
  answers := []
  fuses := { hashes := (List.range 4).map Config.fuseHash, revoked := Config.fuseRevoked, minimum := Config.fuseMinimum }
  opHash := Config.operatorHash
  trims := Config.trims
  golden := (List.range 8).map Config.goldenImage
  running := Config.agturCopy 0
  scrubs := []
  startWaits := none
  extTenant := []
  corrected := []
  pkgid := 0
  pkgSet := false
  ports := []
  fabRoute := []
  fabOut := []
  remoteAcc := []

/-- The outcome type of every meaning. -/
abbrev Out := Host.Outcome State Fault Refusal

end Sys2Proof.Machine
end

