-- ==== Sys2Proof/Machine/Lanes.lean ====
section
/-! DEFINITION. Named access to the registers of lanes, gangs and teams (01 R26 to R34), to sets of lanes, and to the
units that hold them. Every register has one home here. -/

namespace Sys2Proof.Machine

/-! ### Sets of lanes -/

/-- Bits(S): the sum of 2^lane over the listed lanes (R190). -/
def bitsOf (ls : List Nat) : LaneMask := ls.foldl (fun m l => m ||| (1#64 <<< l)) 0

/-- The lanes of a set that lie below a gang width, in increasing order. -/
def lanesOf (m : LaneMask) (w : Nat) : List Nat := (upto w).filter (fun l => m.getLsbD l)

/-- The number of one bits of a word. -/
def onesOf {w : Nat} (x : BitVec w) : Nat := ((upto w).filter (fun i => x.getLsbD i)).length

/-- The mask of the lanes that a gang of a width has (R32). -/
def widthMask (w : Nat) : LaneMask := BitVec.ofNat 64 (2 ^ w - 1)

/-! ### Registers of a gang -/

/-- The key of per-lane register `r` of a lane in the gang's pool allocation (R31). -/
def poolKey (lane r : Nat) : Nat := r * 64 + lane

def Gang.readV (G : Gang) (lane r : Nat) : W32 := tget 0 G.pool (poolKey lane r)
/-- A write replaces the stored word and its check bits (R499). -/
def Gang.writeV (G : Gang) (lane r : Nat) (x : W32) : Gang :=
  { G with pool := tset 0 G.pool (poolKey lane r) x, bad := G.bad.erase (poolKey lane r) }

/-- A pair vN:vN+1, the low half in vN. -/
def Gang.readPair (G : Gang) (lane r : Nat) : W64 := (G.readV lane (r + 1)) ++ (G.readV lane r)
def Gang.writePair (G : Gang) (lane r : Nat) (x : W64) : Gang :=
  (G.writeV lane r (x.extractLsb' 0 32)).writeV lane (r + 1) (x.extractLsb' 32 32)

def Gang.readS (G : Gang) (r : Nat) : W64 := tget 0 G.s r
def Gang.writeS (G : Gang) (r : Nat) (x : W64) : Gang := { G with s := tset 0 G.s r x }

def Gang.predWord (G : Gang) (lane : Nat) : BitVec 16 := tget 0 G.preds lane
def Gang.readK (G : Gang) (lane k : Nat) : Bool := (G.predWord lane).getLsbD k
/-- Bit `k` of a predicate word replaced. -/
def setBit16 (w : BitVec 16) (k : Nat) (b : Bool) : BitVec 16 :=
  if b then w ||| (1#16 <<< k) else w &&& ~~~(1#16 <<< k)
def Gang.writeK (G : Gang) (lane k : Nat) (b : Bool) : Gang :=
  { G with preds := tset 0 G.preds lane (setBit16 (G.predWord lane) k b) }

/-- R32: bits of a mask register at or above the gang's width read as zero, and writes to them are ignored. -/
def Gang.readM (G : Gang) (m : Nat) : W64 := tget 0 G.m m &&& widthMask G.width
def Gang.writeM (G : Gang) (m : Nat) (x : W64) : Gang := { G with m := tset 0 G.m m (x &&& widthMask G.width) }

def Gang.readFstat (G : Gang) (lane : Nat) : BitVec 5 := tget 0 G.fstat lane
def Gang.writeFstat (G : Gang) (lane : Nat) (x : BitVec 5) : Gang := { G with fstat := tset 0 G.fstat lane x }
/-- R46: flags accumulate. -/
def Gang.orFstat (G : Gang) (lane : Nat) (x : BitVec 5) : Gang := G.writeFstat lane (G.readFstat lane ||| x)

def Gang.pc (G : Gang) (lane : Nat) : W64 := tget 0 G.pcs lane
def Gang.setPc (G : Gang) (lane : Nat) (x : W64) : Gang := { G with pcs := tset 0 G.pcs lane x }
def Gang.laneState (G : Gang) (lane : Nat) : LaneState := tget .ready G.lst lane
def Gang.setLane (G : Gang) (lane : Nat) (x : LaneState) : Gang := { G with lst := tset .ready G.lst lane x }
def Gang.callDepth (G : Gang) (lane : Nat) : Nat := tget 0 G.depth lane
def Gang.setDepth (G : Gang) (lane n : Nat) : Gang := { G with depth := tset 0 G.depth lane n }
def Gang.age (G : Gang) (lane : Nat) : Nat := tget 0 G.ages lane
def Gang.setAge (G : Gang) (lane n : Nat) : Gang := { G with ages := tset 0 G.ages lane n }

/-- Apply a change for each lane of a list in turn. -/
def Gang.eachLane (G : Gang) (ls : List Nat) (f : Gang → Nat → Gang) : Gang := ls.foldl f G

/-- Set the PC of every listed lane. -/
def Gang.setPcs (G : Gang) (ls : List Nat) (x : W64) : Gang := G.eachLane ls (fun G l => G.setPc l x)
/-- Set the state of every listed lane. -/
def Gang.setLanes (G : Gang) (ls : List Nat) (x : LaneState) : Gang := G.eachLane ls (fun G l => G.setLane l x)

/-- The lanes of the gang. -/
def Gang.allLanes (G : Gang) : List Nat := upto G.width
/-- The lanes that have not exited. -/
def Gang.liveLanes (G : Gang) : List Nat := G.allLanes.filter (fun l => decide (G.laneState l ≠ .exited))
/-- R189: every lane has exited. -/
def Gang.finished (G : Gang) : Bool := G.liveLanes.isEmpty

/-- A lane leaves Waiting: Ready at a PC with age zero (R172). -/
def Gang.release (G : Gang) (lane : Nat) (pc : W64) : Gang := ((G.setLane lane .ready).setPc lane pc).setAge lane 0

/-- R262: the handler level TSTAT.LEVEL. -/
def Gang.level (G : Gang) : Nat := (G.tstat.extractLsb' 0 2).toNat
/-- R264: code at LEVEL 2 is privileged. -/
def Gang.privileged (G : Gang) : Bool := decide (G.level = 2)

/-- R183: CSDEPTH.DEPTH. -/
def Gang.depthMax (G : Gang) : Nat := G.liveLanes.foldl (fun d l => max d (G.callDepth l)) 0
/-- R183: CSDEPTH.LOW. -/
def Gang.depthLow (G : Gang) : Nat :=
  match G.liveLanes with
  | [] => 0
  | l :: t => t.foldl (fun d x => min d (G.callDepth x)) (G.callDepth l)

/-- R200: the per-lane registers that one accumulator takes. -/
def accRegs (width : Nat) : Nat := 1024 / width

/-- R202: the gang's allocation in per-lane registers. -/
def poolRegs (L : Launch) (width : Nat) : Nat := L.v + L.a * accRegs width

/-- R202: the number of usable accumulators. -/
def usableAccs (L : Launch) (G : Gang) : Nat := min L.a ((poolRegs L G.width - G.vbnd) / accRegs G.width)

/-- R200: per-lane register `n` of accumulator `c`'s block. -/
def accReg (L : Launch) (width c n : Nat) : Nat := poolRegs L width - (c + 1) * accRegs width + n

/-- R200: element (i, j) of an accumulator. -/
def Gang.readAcc (G : Gang) (L : Launch) (c i j : Nat) : W32 :=
  G.readV ((32 * i + j) % G.width) (accReg L G.width c ((32 * i + j) / G.width))
def Gang.writeAcc (G : Gang) (L : Launch) (c i j : Nat) (x : W32) : Gang :=
  G.writeV ((32 * i + j) % G.width) (accReg L G.width c ((32 * i + j) / G.width)) x

/-! ### Units -/

def State.team (s : State) (t : Nat) : Team := tget {} s.teams t
def State.setTeam (s : State) (t : Nat) (T : Team) : State := { s with teams := tput s.teams t T }
def State.modTeam (s : State) (t : Nat) (f : Team → Team) : State := s.setTeam t (f (s.team t))

def Team.gang (T : Team) (g : Nat) : Gang := tget {} T.gangs g
def Team.setGang (T : Team) (g : Nat) (G : Gang) : Team := { T with gangs := tput T.gangs g G }

def State.gang (s : State) (t g : Nat) : Gang := (s.team t).gang g
def State.setGang (s : State) (t g : Nat) (G : Gang) : State := s.modTeam t (fun T => T.setGang g G)
def State.modGang (s : State) (t g : Nat) (f : Gang → Gang) : State := s.setGang t g (f (s.gang t g))

/-- The team, the gang and the lanes of the run that issues (R171). -/
def State.curTeam (s : State) : Team := s.team s.cur.team
def State.curGang (s : State) : Gang := s.gang s.cur.team s.cur.gang
def State.setCur (s : State) (G : Gang) : State := s.setGang s.cur.team s.cur.gang G
def State.runLanes (s : State) : List Nat := lanesOf s.cur.lanes s.curGang.width

def State.core (s : State) (c : Nat) : Core := tget {} s.cores c
def State.setCore (s : State) (c : Nat) (C : Core) : State := { s with cores := tput s.cores c C }
def State.modCore (s : State) (c : Nat) (f : Core → Core) : State := s.setCore c (f (s.core c))
def State.cluster (s : State) (c : Nat) : Cluster := tget {} s.clusters c
def State.modCluster (s : State) (c : Nat) (f : Cluster → Cluster) : State :=
  { s with clusters := tput s.clusters c (f (s.cluster c)) }
def State.dieOf (s : State) (d : Nat) : Die := tget {} s.dies d
def State.modDie (s : State) (d : Nat) (f : Die → Die) : State := { s with dies := tput s.dies d (f (s.dieOf d)) }
def State.slice (s : State) (n : Nat) : Slice := tget {} s.slices n
def State.modSlice (s : State) (n : Nat) (f : Slice → Slice) : State := { s with slices := tput s.slices n (f (s.slice n)) }
def State.future (s : State) (n : Nat) : FutEntry := tget {} s.futures n
def State.modFuture (s : State) (n : Nat) (f : FutEntry → FutEntry) : State :=
  { s with futures := tput s.futures n (f (s.future n)) }
def State.part (s : State) (p : Nat) : Part := tget {} s.parts p
def State.modPart (s : State) (p : Nat) (f : Part → Part) : State := { s with parts := tput s.parts p (f (s.part p)) }
def State.ctx (s : State) (c : Nat) : Context := tget {} s.ctxs c
def State.modCtx (s : State) (c : Nat) (f : Context → Context) : State := { s with ctxs := tput s.ctxs c (f (s.ctx c)) }
def State.func (s : State) (f : Nat) : Func := tget {} s.funcs f
def State.modFunc (s : State) (f : Nat) (g : Func → Func) : State := { s with funcs := tput s.funcs f (g (s.func f)) }
def State.quarter (s : State) (q : Nat) : Quarter := tget {} s.quarters q
def State.modQuarter (s : State) (q : Nat) (f : Quarter → Quarter) : State :=
  { s with quarters := tput s.quarters q (f (s.quarter q)) }

/-- A fresh number for a record of the model. -/
def State.freshId (s : State) : Nat × State := (s.nextId, { s with nextId := s.nextId + 1 })

/-- A free value (R554; notes/assumptions/3.md): nothing is known of it, and the next one is another. -/
def State.free (s : State) : W64 × State := (Config.freeWord s.fuel, { s with fuel := s.fuel + 1 })

/-- The die, the cluster and the quarter of a core (R40). -/
def dieOfCore (c : Nat) : Nat := c / 128
def clusterOfCore (c : Nat) : Nat := c / 4
def quarterOfCore (c : Nat) : Nat := c / 32

end Sys2Proof.Machine
end

