-- ==== Sys2Proof/Machine/Flags.lean ====
section
/-! DEFINITION. The five sticky floating-point flags of FSTAT and the trap enables of FMODE (02 R46, R47; 06 R134,
R135). Every flag computation of the lanes goes through these names. -/

namespace Sys2Proof.Machine

/-- FSTAT bits (R134). -/
abbrev Flg := BitVec 5

def flagNV : Flg := 16
def flagDZ : Flg := 8
def flagOF : Flg := 4
def flagUF : Flg := 2
def flagNX : Flg := 1

/-- A flag that is set when a condition holds. -/
def flagIf (b : Bool) (f : Flg) : Flg := if b then f else 0

/-- R135: the trap enables ENV, EDZ, EOF, EUF, ENX, in the order of the flags. -/
def trapEnables (fmode : W64) : Flg := fmode.extractLsb' 8 5

/-- R47: the conditions among `f` whose trap is enabled. -/
def trapping (fmode : W64) (f : Flg) : Bool := decide (f &&& trapEnables fmode ≠ 0)

/-- R44: the static rounding modes. -/
inductive Mode where
  | rne | rz | ru | rd
  deriving DecidableEq, Repr

/-- R135: FMODE.RM. -/
def fmodeMode (fmode : W64) : Mode :=
  match (fmode.extractLsb' 0 2).toNat with
  | 0 => .rne
  | 1 => .rz
  | 2 => .ru
  | _ => .rd

/-- R44, R151: the mode of a word, DYN taking FMODE.RM as it stands when the word issues. -/
def modeOf (rm : Rm) (fmode : W64) : Mode :=
  match rm with
  | .rne => .rne
  | .rz => .rz
  | .ru => .ru
  | .rd => .rd
  | .dyn => fmodeMode fmode

end Sys2Proof.Machine
end

