-- ==== Sys2Proof/Machine/Formats.lean ====
section
/-! DEFINITION. The number formats and exact arithmetic of 02: IEEE formats, GT8, q4 and h4, rounding, conversions,
block sums and scales. Exact reals are m × 2^e with a sign. -/

namespace Sys2Proof.Machine

/-- An IEEE format: exponent and fraction bits (R42). -/
structure Fmt where
  eb : Nat
  fb : Nat
  deriving DecidableEq, Repr

def fmtF32 : Fmt := ⟨8, 23⟩
def fmtF16 : Fmt := ⟨5, 10⟩
def fmtB16 : Fmt := ⟨8, 7⟩

def fmtOf : FFmt → Fmt
  | .f32 => fmtF32
  | .f16 => fmtF16
  | .b16 => fmtB16

def Fmt.bias (F : Fmt) : Int := 2 ^ (F.eb - 1) - 1
/-- The exponent of the least subnormal. -/
def Fmt.least (F : Fmt) : Int := 1 - F.bias - F.fb
def Fmt.infCode (F : Fmt) : Nat := (2 ^ F.eb - 1) * 2 ^ F.fb
/-- R45: the canonical quiet NaN. -/
def Fmt.nanCode (F : Fmt) : Nat := F.infCode + 2 ^ (F.fb - 1)
def Fmt.signBit (F : Fmt) (neg : Bool) : Nat := if neg then 2 ^ (F.eb + F.fb) else 0

/-- A value: a NaN (signalling or quiet), an infinity, or (−1)^neg × m × 2^e. -/
inductive FVal where
  | nan (sig : Bool)
  | inf (neg : Bool)
  | fin (neg : Bool) (m : Nat) (e : Int)
  deriving DecidableEq, Repr

/-- The value of a code of a format. -/
def Fmt.value (F : Fmt) (x : Nat) : FVal :=
  let neg := decide (x / 2 ^ (F.eb + F.fb) % 2 = 1)
  let ex := x / 2 ^ F.fb % 2 ^ F.eb
  let fr := x % 2 ^ F.fb
  if ex = 2 ^ F.eb - 1 then (if fr = 0 then .inf neg else .nan (decide (fr < 2 ^ (F.fb - 1))))
  else if ex = 0 then .fin neg fr F.least
  else .fin neg (2 ^ F.fb + fr) (F.least + (ex : Int) - 1)

def FVal.isNan : FVal → Bool
  | .nan _ => true
  | _ => false
def FVal.isSig : FVal → Bool
  | .nan b => b
  | _ => false
def FVal.isZero : FVal → Bool
  | .fin _ m _ => decide (m = 0)
  | _ => false
def FVal.isInf : FVal → Bool
  | .inf _ => true
  | _ => false
def FVal.neg : FVal → Bool
  | .nan _ => false
  | .inf n => n
  | .fin n _ _ => n
def FVal.negate : FVal → FVal
  | .nan b => .nan b
  | .inf n => .inf (!n)
  | .fin n m e => .fin (!n) m e

/-- m × 2^e as a multiple of 2^q, rounded to a natural number under a mode; the second component tells whether that
was inexact. -/
def roundNat (mode : Mode) (neg : Bool) (m : Nat) (e q : Int) : Nat × Bool :=
  if q ≤ e then (m * 2 ^ (e - q).toNat, false)
  else
    let sh := (q - e).toNat
    let n := m / 2 ^ sh
    let r := m % 2 ^ sh
    let up := match mode with
      | .rne => decide (2 * r > 2 ^ sh) || (decide (2 * r = 2 ^ sh) && decide (n % 2 = 1))
      | .rz => false
      | .ru => decide (r ≠ 0) && !neg
      | .rd => decide (r ≠ 0) && neg
    (if up then n + 1 else n, decide (r ≠ 0))

/-- The exponent of the leading bit of m × 2^e. -/
def leadExp (m : Nat) (e : Int) : Int := (Nat.log2 m : Int) + e

/-- R43: Round(x, fmt, mode) of a finite x, with the flags OF, UF and NX of R46. -/
def Fmt.round (F : Fmt) (mode : Mode) (neg : Bool) (m : Nat) (e : Int) : Nat × Flg :=
  if m = 0 then (F.signBit neg, 0)
  else
    let ul := leadExp m e - F.fb
    let q := max ul F.least
    let (n, nx) := roundNat mode neg m e q
    let code := n + (q - F.least).toNat * 2 ^ F.fb
    if F.infCode ≤ code then
      let toInf := match mode with
        | .rne => true
        | .rz => false
        | .ru => !neg
        | .rd => neg
      (F.signBit neg + (if toInf then F.infCode else F.infCode - 1), flagOF ||| flagNX)
    else
      let tiny := decide (ul < F.least) &&
        !(decide (ul + 1 = F.least) && decide ((roundNat mode neg m e ul).1 = 2 ^ (F.fb + 1)))
      (F.signBit neg + code, flagIf nx flagNX ||| flagIf (nx && tiny) flagUF)

/-- R45 to R46: deliver a value in a format; a signalling NaN sets NV. -/
def Fmt.deliver (F : Fmt) (mode : Mode) : FVal → Nat × Flg
  | .nan sig => (F.nanCode, flagIf sig flagNV)
  | .inf n => (F.signBit n + F.infCode, 0)
  | .fin n m e => F.round mode n m e

/-- The signed numerator of a finite value over 2^q, for q not above its exponent. -/
def scaled (neg : Bool) (m : Nat) (e q : Int) : Int :=
  let x : Int := (m * 2 ^ (e - q).toNat : Nat)
  if neg then -x else x

/-- The product of two values that are neither NaN nor 0 × ∞. -/
def mulFinite : FVal → FVal → FVal
  | .fin a m e, .fin b n f => .fin (a != b) (m * n) (e + f)
  | x, y => .inf (x.neg != y.neg)

/-- R61: 0 × ∞. -/
def badProduct (p : FVal × FVal) : Bool := (p.1.isZero && p.2.isInf) || (p.1.isInf && p.2.isZero)

/-- The exact sum of finite values: sign, magnitude and exponent. A zero sum takes its sign under R43: the common
sign when every term is a zero of that sign, else −0 under RD and +0 otherwise. -/
def sumFinite (mode : Mode) (ts : List FVal) : FVal :=
  let q : Int := ts.foldl (fun q t => match t with | .fin _ _ e => min q e | _ => q) 0
  let tot : Int := ts.foldl (fun a t => match t with | .fin n m e => a + scaled n m e q | _ => a) 0
  if tot = 0 then
    let zn := match ts with
      | [] => false
      | t :: r => if ts.all (fun x => x.isZero) && r.all (fun x => x.neg == t.neg) then t.neg else decide (mode = .rd)
    .fin zn 0 q
  else .fin (decide (tot < 0)) tot.natAbs q

/-- R43, R45, R46, R61, R137, R146: the exact sum of products and addends, with NV where it arises: infinities of both signs set it
beside a quiet NaN too (notes/assumptions/52.md). -/
def sumProducts (mode : Mode) (ps : List (FVal × FVal)) (zs : List FVal) : FVal × Flg :=
  let ops := ps.flatMap (fun p => [p.1, p.2]) ++ zs
  let nvS := ops.any FVal.isSig
  let bad := ps.any badProduct
  let ts := (ps.filter (fun p => !badProduct p && !p.1.isNan && !p.2.isNan)).map (fun p => mulFinite p.1 p.2) ++ zs.filter (fun z => !z.isNan)
  let infs := ts.filter FVal.isInf
  let clash := infs.any (fun x => x.neg) && infs.any (fun x => !x.neg)
  if bad || clash || ops.any FVal.isNan then (.nan false, flagIf (nvS || bad || clash) flagNV)
  else match infs with
    | [] => (sumFinite mode ts, 0)
    | t :: _ => (.inf t.neg, 0)

/-- The sum of products and addends, delivered in a format with one rounding. -/
def Fmt.sum (F : Fmt) (mode : Mode) (ps : List (FVal × FVal)) (zs : List FVal) : Nat × Flg :=
  let (v, f) := sumProducts mode ps zs
  let (x, g) := F.deliver mode v
  (x, f ||| g)

/-- R137, R145: add, subtract, multiply and fused multiply-add in a format, on codes. -/
def Fmt.add (F : Fmt) (mode : Mode) (x y : Nat) : Nat × Flg := F.sum mode [] [F.value x, F.value y]
def Fmt.sub (F : Fmt) (mode : Mode) (x y : Nat) : Nat × Flg := F.sum mode [] [F.value x, (F.value y).negate]
def Fmt.mul (F : Fmt) (mode : Mode) (x y : Nat) : Nat × Flg := F.sum mode [(F.value x, F.value y)] []
def Fmt.fma (F : Fmt) (mode : Mode) (x y z : Nat) : Nat × Flg := F.sum mode [(F.value x, F.value y)] [F.value z]

/-- R43: RoundNE32 of a sum of two f32 codes. -/
def addF32 (x y : W32) : W32 := BitVec.ofNat 32 (fmtF32.add .rne x.toNat y.toNat).1

/-- The order of codes that are not NaN, −0 below +0 (R138). -/
def Fmt.orderKey (F : Fmt) (x : Nat) : Int :=
  let mag : Int := ((x % 2 ^ (F.eb + F.fb) : Nat) : Int)
  if x / 2 ^ (F.eb + F.fb) % 2 = 1 then -mag - 1 else mag

/-- R138: minimumNumber and maximumNumber. -/
def Fmt.minMax (F : Fmt) (isMax : Bool) (x y : Nat) : Nat × Flg :=
  let vx := F.value x
  let vy := F.value y
  let nv := flagIf (vx.isSig || vy.isSig) flagNV
  if vx.isNan && vy.isNan then (F.nanCode, nv)
  else if vx.isNan then (y, nv)
  else if vy.isNan then (x, nv)
  else if decide (F.orderKey x ≤ F.orderKey y) != isMax then (x, nv) else (y, nv)

/-- R139: the order of two codes that are not NaN, with +0 equal to −0. -/
def Fmt.cmpKey (F : Fmt) (x : Nat) : Int :=
  let mag : Int := ((x % 2 ^ (F.eb + F.fb) : Nat) : Int)
  if x / 2 ^ (F.eb + F.fb) % 2 = 1 then -mag else mag

/-- R139. -/
def fcmpF32 (c : FCond) (x y : Nat) : Bool × Flg :=
  let vx := fmtF32.value x
  let vy := fmtF32.value y
  let nan := vx.isNan || vy.isNan
  let sig := flagIf (vx.isSig || vy.isSig) flagNV
  let any := flagIf nan flagNV
  let a := fmtF32.cmpKey x
  let b := fmtF32.cmpKey y
  match c with
  | .eq => (!nan && decide (a = b), sig)
  | .ne => (nan || decide (a ≠ b), sig)
  | .lt => (!nan && decide (a < b), any)
  | .le => (!nan && decide (a ≤ b), any)
  | .gt => (!nan && decide (a > b), any)
  | .ge => (!nan && decide (a ≥ b), any)
  | .un => (nan, sig)
  | .ord => (!nan, sig)

/-- R140. -/
def fclassF32 (x : Nat) : W32 :=
  match fmtF32.value x with
  | .nan true => 0x100
  | .nan false => 0x200
  | .inf true => 0x001
  | .inf false => 0x080
  | .fin n m _ =>
    if m = 0 then (if n then 0x008 else 0x010)
    else if m < 2 ^ 23 then (if n then 0x004 else 0x020)
    else (if n then 0x002 else 0x040)

/-- R141. -/
def frndF32 (mode : Mode) (x : Nat) : Nat × Flg :=
  match fmtF32.value x with
  | .nan sig => (fmtF32.nanCode, flagIf sig flagNV)
  | .inf _ => (x, 0)
  | .fin n m e =>
    if 0 ≤ e then (x, 0)
    else
      let (k, nx) := roundNat mode n m e 0
      ((fmtF32.round .rne n k 0).1, flagIf nx flagNX)

/-- R142: `fscale`. A scale beyond ±1,000 overflows or underflows as ±1,000 does, so it is taken as that. -/
def fscaleF32 (mode : Mode) (x : Nat) (n : Int) : Nat × Flg :=
  match fmtF32.value x with
  | .nan sig => (fmtF32.nanCode, flagIf sig flagNV)
  | .inf _ => (x, 0)
  | .fin s m e => if m = 0 then (x, 0) else fmtF32.round mode s m (e + max (-1000) (min 1000 n))

/-- R142: `fgetexp`, logB. -/
def fgetexpF32 (x : Nat) : Nat × Flg :=
  match fmtF32.value x with
  | .nan sig => (fmtF32.nanCode, flagIf sig flagNV)
  | .inf _ => (fmtF32.infCode, 0)
  | .fin _ m e =>
    if m = 0 then (fmtF32.signBit true + fmtF32.infCode, flagDZ)
    else
      let k := leadExp m e
      ((fmtF32.round .rne (decide (k < 0)) k.natAbs 0).1, 0)

/-! ### Integer conversions (R57, R144) -/

/-- A conversion of a value to an integer: round, then saturate to lo..hi. -/
def toInteger (mode : Mode) (v : FVal) (lo hi : Int) : Int × Flg :=
  match v with
  | .nan _ => (0, flagNV)
  | .inf n => (if n then lo else hi, flagNV)
  | .fin n m e =>
    let (k, nx) := roundNat mode n m e 0
    let x : Int := if n then -(k : Int) else k
    if x < lo then (lo, flagNV) else if hi < x then (hi, flagNV) else (x, flagIf nx flagNX)

/-- A conversion of an integer to a format. -/
def Fmt.ofInteger (F : Fmt) (mode : Mode) (x : Int) : Nat × Flg := F.round mode (decide (x < 0)) x.natAbs 0

/-- R54: a q4 code, with 1000b taken as 0. -/
def q4Value (c : Nat) : Int := if c = 8 then 0 else if c < 8 then (c : Int) else (c : Int) - 16

/-! ### GT8 (R48 to R53) -/

/-- R48: the magnitude of a body from 0x02 to 0x7F, as a multiple of 2^−19. -/
def gt8Mag (body : Nat) : Nat :=
  let bit (i : Nat) : Nat := body / 2 ^ i % 2
  if 0x40 ≤ body then (16 + body % 16) * 2 ^ (body / 16 % 4 + 13)
  else if 0x20 ≤ body then
    let e := body / 4 % 4
    if bit 4 = 1 then (4 + body % 4) * 2 ^ (e + 19) else (4 + body % 4) * 2 ^ (14 - e)
  else if 0x10 ≤ body then
    let e := body / 2 % 4
    if bit 3 = 1 then (2 + body % 2) * 2 ^ (e + 24) else (2 + body % 2) * 2 ^ (11 - e)
  else if 0x08 ≤ body then
    let e := body % 4
    if bit 2 = 1 then 2 ^ (29 + e) else 2 ^ (8 - e)
  else if 0x04 ≤ body then
    let e := body % 2
    if bit 1 = 1 then 2 ^ (33 + 2 * e) else 2 ^ (4 - 2 * e)
  else if body = 3 then 2 ^ 37
  else 1

/-- R48, R49: the value of a GT8 byte. NaR sets no flag when widened. -/
def gt8Value (x : Nat) : FVal :=
  let neg := decide (128 ≤ x % 256)
  let body := x % 128
  if body = 0 then (if neg then .nan false else .fin false 0 0)
  else if body = 1 then .inf neg
  else .fin neg (gt8Mag body) (-19)

/-- R50: G with the code of each value, as multiples of 2^−19. -/
def gt8Table : List (Nat × Nat) := (0, 0) :: ((upto 126).map (fun i => (gt8Mag (i + 2), i + 2)))

/-- R51. -/
def gt8Tie (lo hi : Nat × Nat) : Nat × Nat :=
  if lo.2 % 2 = hi.2 % 2 then lo else if lo.2 % 2 = 0 then lo else hi

/-- R50, R52: ToGT8, with its flags. -/
def toGT8 (v : FVal) (inf : Bool) : Nat × Flg :=
  match v with
  | .nan sig => (0x80, flagIf sig flagNV)
  | .inf n => ((if n then 0x80 else 0) + (if inf then 1 else 3), flagIf (!inf) flagNX)
  | .fin n m e =>
    let q := min e (-19)
    let a := m * 2 ^ (e - q).toNat
    let u := 2 ^ (-19 - q).toNat
    let sg := if n && decide (m ≠ 0) then 0x80 else 0
    if a > 2 ^ 37 * u then
      if inf && decide (a ≥ 3 * 2 ^ 36 * u) then (sg + 1, flagOF ||| flagNX) else (sg + 3, flagOF ||| flagNX)
    else
      let lo := gt8Table.foldl (fun b p => if p.1 * u ≤ a ∧ b.1 ≤ p.1 then p else b) (0, 0)
      let hi := gt8Table.foldl (fun b p => if a ≤ p.1 * u ∧ p.1 ≤ b.1 then p else b) (2 ^ 37, 3)
      let dl := a - lo.1 * u
      let dh := hi.1 * u - a
      let r := if dl < dh then lo else if dh < dl then hi else gt8Tie lo hi
      let nx := decide (r.1 * u ≠ a)
      let fl := flagIf nx flagNX ||| flagIf (decide (m ≠ 0) && decide (a < u)) flagUF
      if r.1 = 0 then (0, fl) else (sg + r.2, fl)

/-! ### Matrix arithmetic (R58 to R64) -/

/-- R204: the element formats of the array. -/
inductive ElemFmt where
  | g8 | i8 | q4 | h4 | f16 | b16 | f32
  deriving DecidableEq, Repr

/-- An element's exact value (R48, R54, R55); h4 codes denote n + 1/2. -/
def elemValue (f : ElemFmt) (c : Nat) : FVal :=
  match f with
  | .g8 => gt8Value c
  | .i8 => let x : Int := if c < 128 then c else (c : Int) - 256; .fin (decide (x < 0)) x.natAbs 0
  | .q4 => let x := q4Value c; .fin (decide (x < 0)) x.natAbs 0
  | .h4 => let x : Int := 2 * (if c < 8 then (c : Int) else (c : Int) - 16) + 1; .fin (decide (x < 0)) x.natAbs (-1)
  | .f16 => fmtF16.value c
  | .b16 => fmtB16.value c
  | .f32 => fmtF32.value c

/-- R61: BlockSum, +0 for a zero sum. -/
def blockSum (ps : List (FVal × FVal)) : FVal :=
  match (sumProducts .rne ps []).1 with
  | .fin n m e => if m = 0 then .fin false 0 0 else .fin n m e
  | v => v

/-- R59, R62: ScaleBlock. -/
def scaleBlock (skip : Bool) (v : FVal) (xa xb : Nat) : FVal :=
  if xa = 255 ∨ xb = 255 then (if skip then .fin false 0 0 else .nan false)
  else match v with
    | .fin n m e => if m = 0 then .fin false 0 0 else .fin n m (e + (xa : Int) + (xb : Int) - 254)
    | w => w

/-- R60: RoundNE32(E + V). -/
def chainAdd (e : W32) (v : FVal) : W32 := BitVec.ofNat 32 (fmtF32.sum .rne [] [fmtF32.value e.toNat, v]).1

/-- R60, R64: RoundNE32(C + RoundNE32(E + O)). -/
def finalise (c e o : W32) : W32 := addF32 c (addF32 e o)

end Sys2Proof.Machine
end

