-- ==== Sys2Proof/Decode.lean ====
section
/-! DEFINITION. Instruction words (03): the fields of a word, the decoder, total on every word and rejecting by name,
and the encoder, written from the same tables (R66 to R95, R117, R136, R152, R177, R205, R230, R267, R270, R295, R328,
R365, R458, R544). The register limits of R71 depend on the team and are checked when the word issues. -/

namespace Sys2Proof

/-- Why a word is no instruction: each is ILLEGAL_OP under checks 1 to 3 of R77. -/
inductive Reject where
  | short      -- fewer than eight bytes
  | opcode     -- an unassigned major opcode
  | function   -- an unassigned fn value
  | field      -- a reserved or unused field, class bit, type code, mode, scope or order that the word does not accept
  | lookahead  -- la on a word that is not lookahead-eligible (R82)
  | guard      -- gn or kg without ge (R69)
  | slot       -- an unassigned slot opcode or a field of a slot (R79)
  | pairRule   -- a rule of R80
  deriving DecidableEq, Repr

/-! ### Codes -/

def ITy.code : ITy → BitVec 3
  | .i8 => 0 | .i16 => 1 | .i32 => 2 | .i64 => 3 | .n8 => 4 | .n16 => 5 | .n32 => 6 | .n64 => 7
def ityOf : Nat → ITy
  | 0 => .i8 | 1 => .i16 | 2 => .i32 | 3 => .i64 | 4 => .n8 | 5 => .n16 | 6 => .n32 | _ => .n64
/-- R12: the width of a type in bits. -/
def ITy.width : ITy → Nat
  | .i8 => 8 | .n8 => 8 | .i16 => 16 | .n16 => 16 | .i32 => 32 | .n32 => 32 | .i64 => 64 | .n64 => 64
/-- R12: whether a type is signed. -/
def ITy.signed : ITy → Bool
  | .i8 => true | .i16 => true | .i32 => true | .i64 => true | _ => false
/-- R111, R112: whether vector fields name pairs. -/
def ITy.wide (t : ITy) : Bool := t == .i64 || t == .n64

def tyAny (_ : ITy) : Bool := true
def tyWord (t : ITy) : Bool := t == .i32 || t == .n32 || t == .i64 || t == .n64
def tyLogic (t : ITy) : Bool := t == .n32 || t == .n64
def tySwap (t : ITy) : Bool := t == .n16 || t == .n32 || t == .n64
def tySigned (t : ITy) : Bool := t.signed

def Cond.code : Cond → BitVec 6
  | .eq => 0 | .ne => 1 | .lt => 2 | .le => 3 | .gt => 4 | .ge => 5
def condOf : Nat → Cond
  | 0 => .eq | 1 => .ne | 2 => .lt | 3 => .le | 4 => .gt | _ => .ge
def FCond.code : FCond → BitVec 6
  | .eq => 0 | .ne => 1 | .lt => 2 | .le => 3 | .gt => 4 | .ge => 5 | .un => 6 | .ord => 7
def fcondOf : Nat → FCond
  | 0 => .eq | 1 => .ne | 2 => .lt | 3 => .le | 4 => .gt | 5 => .ge | 6 => .un | _ => .ord
def Rm.code : Rm → BitVec 3
  | .rne => 0 | .rz => 1 | .ru => 2 | .rd => 3 | .dyn => 4
def rmOf : Nat → Rm
  | 0 => .rne | 1 => .rz | 2 => .ru | 3 => .rd | _ => .dyn
def PlopOp.code : PlopOp → BitVec 3
  | .and => 0 | .or => 1 | .xor => 2 | .andn => 3 | .nand => 4 | .nor => 5 | .xnor => 6 | .orn => 7
def plopOf : Nat → PlopOp
  | 0 => .and | 1 => .or | 2 => .xor | 3 => .andn | 4 => .nand | 5 => .nor | 6 => .xnor | _ => .orn
def VoteMode.code : VoteMode → BitVec 3
  | .some => 0 | .every => 1 | .same => 2
def voteOf : Nat → VoteMode
  | 0 => .some | 1 => .every | _ => .same
def ShflMode.code : ShflMode → BitVec 6
  | .at => 0 | .lower => 1 | .upper => 2 | .mirror => 3
def shflOf : Nat → ShflMode
  | 0 => .at | 1 => .lower | 2 => .upper | _ => .mirror
def CvtKind.code : CvtKind → BitVec 6
  | .f32f16 => 0 | .f32b16 => 1 | .f16f32 => 2 | .b16f32 => 3 | .f16b16 => 4 | .b16f16 => 5
  | .f32g8 => 6 | .f16g8 => 7 | .b16g8 => 8 | .g8f32 => 9 | .g8f16 => 10 | .g8b16 => 11
def cvtOf : Nat → CvtKind
  | 0 => .f32f16 | 1 => .f32b16 | 2 => .f16f32 | 3 => .b16f32 | 4 => .f16b16 | 5 => .b16f16
  | 6 => .f32g8 | 7 => .f16g8 | 8 => .b16g8 | 9 => .g8f32 | 10 => .g8f16 | _ => .g8b16
/-- R143: which conversions round and which take `.inf`. -/
def cvtOk (k : CvtKind) (rm : Rm) (inf : Bool) : Bool :=
  match k with
  | .f32f16 => !inf | .f32b16 => !inf | .f16b16 => !inf | .b16f16 => !inf | .g8f16 => !inf
  | .f32g8 => rm == .rne | .f16g8 => rm == .rne | .b16g8 => rm == .rne
  | _ => rm == .rne && !inf
def FFmt.code : FFmt → BitVec 2
  | .f32 => 0 | .f16 => 1 | .b16 => 2
def ffmtOf : Nat → FFmt
  | 0 => .f32 | 1 => .f16 | _ => .b16
/-- R93: an integer type code, or 8 for q4. -/
def q4Code : Option ITy → BitVec 4
  | none => 8
  | some t => 0#1 ++ t.code
def ityOrQ4 (x : BitVec 4) : Option ITy := if x == 8 then none else some (ityOf x.toNat)
def Scope.code : Scope → BitVec 3
  | .gang => 0 | .team => 1 | .cluster => 2 | .die => 3 | .device => 4 | .system => 5
def scopeOf : Nat → Scope
  | 0 => .gang | 1 => .team | 2 => .cluster | 3 => .die | 4 => .device | _ => .system
def Space.code : Space → BitVec 2
  | .glob => 0 | .scratch => 1 | .const => 2 | .shadow => 3
def spaceOf : Nat → Space
  | 0 => .glob | 1 => .scratch | 2 => .const | _ => .shadow
def Size.code : Size → BitVec 2
  | .b => 0 | .h => 1 | .w => 2 | .d => 3
def sizeOf' : Nat → Size
  | 0 => .b | 1 => .h | 2 => .w | _ => .d
/-- R73: the access size in bytes. -/
def Size.bytes : Size → Nat
  | .b => 1 | .h => 2 | .w => 4 | .d => 8
def AtomOp.code : AtomOp → BitVec 4
  | .add => 0 | .min => 1 | .max => 2 | .and => 3 | .or => 4 | .xor => 5 | .xchg => 6 | .cas => 7 | .incw => 8 | .decw => 9
def atomOf : Nat → AtomOp
  | 0 => .add | 1 => .min | 2 => .max | 3 => .and | 4 => .or | 5 => .xor | 6 => .xchg | 7 => .cas | 8 => .incw | _ => .decw
def AtomOrd.code : AtomOrd → BitVec 2
  | .none => 0 | .acq => 1 | .rel => 2 | .acqRel => 3
def atomOrdOf : Nat → AtomOrd
  | 0 => .none | 1 => .acq | 2 => .rel | _ => .acqRel
def AccOpc.code : AccOpc → BitVec 6
  | .addF32 => 0 | .addI32 => 1 | .addI64 => 2 | .maxF32 => 3 | .minF32 => 4 | .addB16x2 => 5
def accOf : Nat → AccOpc
  | 0 => .addF32 | 1 => .addI32 | 2 => .addI64 | 3 => .maxF32 | 4 => .minF32 | _ => .addB16x2
def CollOp.code : CollOp → BitVec 3
  | .addF32 => 0 | .addB16x2 => 1 | .addI32 => 2 | .maxF32 => 3 | .minF32 => 4 | .maxI32 => 5 | .minI32 => 6
def collOf : Nat → CollOp
  | 0 => .addF32 | 1 => .addB16x2 | 2 => .addI32 | 3 => .maxF32 | 4 => .minF32 | 5 => .maxI32 | _ => .minI32
def SysDk.code : SysDk → BitVec 2
  | .vec => 0 | .pair => 1 | .scalar => 2
def dkOf : Nat → SysDk
  | 0 => .vec | 1 => .pair | _ => .scalar

/-! ### The fields of a single-form word (R68, R70, R72, R73, R75, R76) -/

structure Fields where
  op : BitVec 7
  la : BitVec 4
  ge : Bool
  gn : Bool
  kg : BitVec 4
  fn : BitVec 6
  d : BitVec 8
  a : BitVec 8
  b : BitVec 8
  c : BitVec 8
  m : BitVec 8
  deriving DecidableEq, Repr

/-- The fields of a word. -/
def splitWord (w : W64) : Fields where
  op := w.extractLsb' 56 7
  la := w.extractLsb' 52 4
  ge := w.getLsbD 51
  gn := w.getLsbD 50
  kg := w.extractLsb' 46 4
  fn := w.extractLsb' 40 6
  d := w.extractLsb' 32 8
  a := w.extractLsb' 24 8
  b := w.extractLsb' 16 8
  c := w.extractLsb' 8 8
  m := w.extractLsb' 0 8

/-- The single-form word of its fields: bit 63 is 0. -/
def joinWord (f : Fields) : W64 :=
  0#1 ++ f.op ++ f.la ++ BitVec.ofBool f.ge ++ BitVec.ofBool f.gn ++ f.kg ++ f.fn ++ f.d ++ f.a ++ f.b ++ f.c ++ f.m

/-- R70: the mod byte. -/
def modByte (ds as bs cs mx : Bool) (ty : BitVec 3) : BitVec 8 :=
  BitVec.ofBool ds ++ BitVec.ofBool as ++ BitVec.ofBool bs ++ BitVec.ofBool cs ++ BitVec.ofBool mx ++ ty

namespace Fields

def ds (f : Fields) : Bool := f.m.getLsbD 7
def as (f : Fields) : Bool := f.m.getLsbD 6
def bs (f : Fields) : Bool := f.m.getLsbD 5
def cs (f : Fields) : Bool := f.m.getLsbD 4
def mx (f : Fields) : Bool := f.m.getLsbD 3
def m0 (f : Fields) : Bool := f.m.getLsbD 0
def m1 (f : Fields) : Bool := f.m.getLsbD 1
def m2 (f : Fields) : Bool := f.m.getLsbD 2
def m3 (f : Fields) : Bool := f.m.getLsbD 3
def ty (f : Fields) : BitVec 3 := f.m.extractLsb' 0 3
def ity (f : Fields) : ITy := ityOf f.ty.toNat
/-- R91: the type of a word of opcodes 0x21 to 0x26. -/
def fty (f : Fields) : ITy := ityOf (f.fn.extractLsb' 3 3).toNat
def rm (f : Fields) : Rm := rmOf f.ty.toNat
/-- R44: the rounding modes that are not ILLEGAL_OP. -/
def rmOk (f : Fields) : Bool := decide (f.ty < 5)
def imm32 (f : Fields) : BitVec 32 := f.a ++ f.b ++ f.c ++ f.m
def imm24 (f : Fields) : BitVec 24 := f.b ++ f.c ++ f.m
def grd (f : Fields) : Grd := if f.ge then some ⟨f.gn, f.kg⟩ else none
def od (f : Fields) : Opd := ⟨f.ds, f.d⟩
def oa (f : Fields) : Opd := ⟨f.as, f.a⟩
def ob (f : Fields) : Opd := ⟨f.bs, f.b⟩
def oc (f : Fields) : Opd := ⟨f.cs, f.c⟩
/-- A field that the word does not use: zero with its class bit. -/
def zd (f : Fields) : Bool := f.d == 0 && !f.ds
def za (f : Fields) : Bool := f.a == 0 && !f.as
def zb (f : Fields) : Bool := f.b == 0 && !f.bs
def zc (f : Fields) : Bool := f.c == 0 && !f.cs
def zx (f : Fields) : Bool := !f.mx
def zt (f : Fields) : Bool := f.ty == 0
/-- A field that names a scalar register. -/
def sd (f : Fields) : Bool := f.ds
def sa (f : Fields) : Bool := f.as
def sb (f : Fields) : Bool := f.bs
def sc (f : Fields) : Bool := f.cs
/-- A field whose class bit must be 0. -/
def vd (f : Fields) : Bool := !f.ds
def va (f : Fields) : Bool := !f.as
def vb (f : Fields) : Bool := !f.bs
def vc (f : Fields) : Bool := !f.cs

end Fields

/-- R113: a scalar destination requires scalar sources. -/
def cls1 (d a : Opd) : Bool := !d.sc || a.sc
def cls2 (d a b : Opd) : Bool := !d.sc || (a.sc && b.sc)
def cls3 (d a b c : Opd) : Bool := !d.sc || (a.sc && b.sc && c.sc)
def Fields.cls1 (f : Fields) : Bool := Sys2Proof.cls1 f.od f.oa
def Fields.cls2 (f : Fields) : Bool := Sys2Proof.cls2 f.od f.oa f.ob
def Fields.cls3 (f : Fields) : Bool := Sys2Proof.cls3 f.od f.oa f.ob f.oc

/-- R205: the a field of `mma` and `mmap` outside its tile numbers. -/
def Fields.aTiles (f : Fields) : Bool := !f.a.getLsbD 3 && !f.a.getLsbD 7

/-- R243: what an atomic accepts: MX on `min` and `max`, c on `cas`, scalar operands with a scalar d. -/
def atomOk (op : AtomOp) (sgn : Bool) (d a b c : Opd) : Bool :=
  (!sgn || op == .min || op == .max) && (op == .cas || (c.n == 0 && !c.sc)) &&
  (!d.sc || (a.sc && b.sc && (c.sc || op != .cas)))

/-! ### Memory words (R73, R152) -/

/-- The rows of R152 and R295. -/
inductive MemKind where
  | load | loadSigned | loadFlat | loadScalar | loadScalarSigned | store | storeFlat | storeScalar | hint | shadow
  deriving DecidableEq, Repr

def ordOf (os : BitVec 4) : MemOrd :=
  if os == 0 then .none else if os.getLsbD 3 then .rel (scopeOf (os.extractLsb' 0 3).toNat)
  else .acq (scopeOf (os.extractLsb' 0 3).toNat)

def MemOrd.code : MemOrd → BitVec 4
  | .none => 0
  | .acq y => 0#1 ++ y.code
  | .rel y => 1#1 ++ y.code

namespace Fields

/-- R73: an OS value that is not ILLEGAL_OP in every word. -/
def osOk (f : Fields) : Bool :=
  f.fn.extractLsb' 2 4 == 0 || (f.fn.extractLsb' 2 3 != 0 && decide (f.fn.extractLsb' 2 3 < 6))

def mem (f : Fields) : MemOp where
  ord := ordOf (f.fn.extractLsb' 2 4)
  bv := f.fn.getLsbD 1
  scl := f.fn.getLsbD 0
  d := f.d
  base := f.a
  sz := sizeOf' (f.b.extractLsb' 6 2).toNat
  sp := spaceOf (f.b.extractLsb' 4 2).toNat
  off := f.b.extractLsb' 0 4 ++ f.c ++ f.m

end Fields

def MemOrd.isNone : MemOrd → Bool
  | .none => true
  | _ => false
def MemOrd.isAcq : MemOrd → Bool
  | .acq _ => true
  | _ => false
def MemOrd.isRel : MemOrd → Bool
  | .rel _ => true
  | _ => false

/-- R73, R152, R295: the sizes, spaces, bases and orders that a memory word accepts. -/
def memOk (k : MemKind) (m : MemOp) : Bool :=
  match k with
  | .load => m.sp != .shadow && !m.ord.isRel
  | .loadSigned => m.sp != .shadow && !m.ord.isRel && (m.sz == .b || m.sz == .h)
  | .loadFlat => !m.bv && m.sp != .shadow && !m.ord.isRel
  | .loadScalar => !m.bv && m.sp != .shadow && !m.ord.isRel
  | .loadScalarSigned => !m.bv && m.sp != .shadow && !m.ord.isRel && (m.sz == .b || m.sz == .h)
  | .store => (m.sp == .glob || m.sp == .scratch) && !m.ord.isAcq
  | .storeFlat => !m.bv && (m.sp == .glob || m.sp == .scratch) && !m.ord.isAcq
  | .storeScalar => !m.bv && (m.sp == .glob || m.sp == .scratch) && !m.ord.isAcq
  | .hint => m.d == 0 && m.ord.isNone && m.sp == .glob && (m.sz == .b || m.sz == .h)
  | .shadow => m.sp == .shadow && m.ord.isNone

/-- The fn field of a memory word. -/
def MemOp.fnBits (m : MemOp) : BitVec 6 := m.ord.code ++ BitVec.ofBool m.bv ++ BitVec.ofBool m.scl
/-- Bits 23:0 of a memory word. -/
def MemOp.low (m : MemOp) : BitVec 24 := m.sz.code ++ m.sp.code ++ m.off

/-! ### Pair words (R78 to R80) -/

/-- R79: the statement of a slot. -/
def decodeSlot (x : BitVec 31) : Except Reject Slot :=
  let d : BitVec 8 := x.extractLsb' 17 8
  let b : BitVec 8 := x.extractLsb' 9 8
  let sh (s : Slot) : Except Reject Slot := if b < 32 then .ok s else .error .slot
  let pr (s : Slot) : Except Reject Slot := if d < 16 ∧ b < 16 then .ok s else .error .slot
  if x.extractLsb' 0 9 ≠ 0 then .error .pairRule
  else
    match (x.extractLsb' 25 6).toNat with
    | 0x00 => if d = 0 ∧ b = 0 then .ok .nop else .error .slot
    | 0x01 => .ok (.iadd d b)
    | 0x02 => .ok (.isub d b)
    | 0x03 => .ok (.imul d b)
    | 0x04 => .ok (.iminI d b)
    | 0x05 => .ok (.imaxI d b)
    | 0x06 => .ok (.iminN d b)
    | 0x07 => .ok (.imaxN d b)
    | 0x08 => .ok (.iaddImm d b)
    | 0x09 => sh (.shlImm d b)
    | 0x0A => sh (.shrImm d b)
    | 0x0B => sh (.sarImm d b)
    | 0x0C => .ok (.and d b)
    | 0x0D => .ok (.or d b)
    | 0x0E => .ok (.xor d b)
    | 0x0F => .ok (.andn d b)
    | 0x10 => .ok (.mov d b)
    | 0x11 => .ok (.movi d b)
    | 0x12 => pr (.pmov d b)
    | 0x13 => pr (.plopAnd d b)
    | 0x14 => pr (.plopOr d b)
    | 0x15 => pr (.plopXor d b)
    | 0x18 => .ok (.fadd d b)
    | 0x19 => .ok (.fmul d b)
    | 0x1A => .ok (.ffma d b)
    | 0x1C => .ok (.hxadd d b)
    | 0x1D => .ok (.hxmul d b)
    | 0x1E => .ok (.hxfma d b)
    | 0x20 => .ok (.bxadd d b)
    | 0x21 => .ok (.bxmul d b)
    | 0x22 => .ok (.bxfma d b)
    | _ => .error .slot

/-- The slot opcode, SD and SB of a slot statement. -/
def Slot.parts : Slot → BitVec 6 × BitVec 8 × BitVec 8
  | .nop => (0x00, 0, 0)
  | .iadd d b => (0x01, d, b) | .isub d b => (0x02, d, b) | .imul d b => (0x03, d, b)
  | .iminI d b => (0x04, d, b) | .imaxI d b => (0x05, d, b) | .iminN d b => (0x06, d, b) | .imaxN d b => (0x07, d, b)
  | .iaddImm d b => (0x08, d, b) | .shlImm d b => (0x09, d, b) | .shrImm d b => (0x0A, d, b) | .sarImm d b => (0x0B, d, b)
  | .and d b => (0x0C, d, b) | .or d b => (0x0D, d, b) | .xor d b => (0x0E, d, b) | .andn d b => (0x0F, d, b)
  | .mov d b => (0x10, d, b) | .movi d b => (0x11, d, b)
  | .pmov d b => (0x12, d, b) | .plopAnd d b => (0x13, d, b) | .plopOr d b => (0x14, d, b) | .plopXor d b => (0x15, d, b)
  | .fadd d b => (0x18, d, b) | .fmul d b => (0x19, d, b) | .ffma d b => (0x1A, d, b)
  | .hxadd d b => (0x1C, d, b) | .hxmul d b => (0x1D, d, b) | .hxfma d b => (0x1E, d, b)
  | .bxadd d b => (0x20, d, b) | .bxmul d b => (0x21, d, b) | .bxfma d b => (0x22, d, b)

def encodeSlot (s : Slot) : BitVec 31 := s.parts.1 ++ s.parts.2.1 ++ s.parts.2.2 ++ 0#9

/-- R79: what the fields of a slot may hold. -/
def Slot.encodable : Slot → Bool
  | .shlImm _ b => decide (b < 32) | .shrImm _ b => decide (b < 32) | .sarImm _ b => decide (b < 32)
  | .pmov d b => decide (d < 16 ∧ b < 16) | .plopAnd d b => decide (d < 16 ∧ b < 16)
  | .plopOr d b => decide (d < 16 ∧ b < 16) | .plopXor d b => decide (d < 16 ∧ b < 16)
  | _ => true

/-- R80: the vector registers that a slot reads. -/
def Slot.reads : Slot → List Nat
  | .nop => [] | .pmov _ _ => [] | .plopAnd _ _ => [] | .plopOr _ _ => [] | .plopXor _ _ => []
  | .mov _ b => [b.toNat] | .movi _ _ => []
  | .iaddImm d _ => [d.toNat] | .shlImm d _ => [d.toNat] | .shrImm d _ => [d.toNat] | .sarImm d _ => [d.toNat]
  | s => [s.parts.2.1.toNat, s.parts.2.2.toNat]

/-- The predicate that a slot writes. -/
def Slot.predWrite : Slot → Option Nat
  | .pmov d _ => some d.toNat | .plopAnd d _ => some d.toNat | .plopOr d _ => some d.toNat | .plopXor d _ => some d.toNat
  | _ => none
/-- The vector register that a slot writes. -/
def Slot.vecWrite (s : Slot) : Option Nat :=
  match s with
  | .nop => none
  | _ => if s.predWrite.isSome then none else some s.parts.2.1.toNat

/-- R80: banks and destinations. -/
def pairRules (s0 s1 : Slot) : Bool :=
  s0.reads.all (fun x => s1.reads.all (fun y => x % 4 != y % 4)) &&
  (s0.vecWrite.isNone || s0.vecWrite != s1.vecWrite) && (s0.predWrite.isNone || s0.predWrite != s1.predWrite)

/-! ### The opcode map -/

/-- A word whose remaining checks hold is the instruction. -/
def word (ok : Bool) (i : Instr) : Except Reject Instr := if ok then .ok i else .error .field

/-- R87, R88: `rep`. -/
def decOp0C (f : Fields) : Except Reject Instr :=
  match f.fn.toNat with
  | 0 => word (!f.ge && f.d == 0 && f.a == 0 && f.b == 0 && f.c.extractLsb' 6 2 == 0)
      (.rep (f.c.extractLsb' 0 6) (f.m.extractLsb' 6 2) (f.m.extractLsb' 4 2) (f.m.extractLsb' 2 2) (f.m.extractLsb' 0 2))
  | _ => .error .function

def decOp01 (f : Fields) : Except Reject Instr :=
  match f.fn.toNat with
  | 0 => word (f.zd && f.za && f.zb && f.zc && f.zx && f.zt) (.nop f.grd)
  | _ => .error .function

def decOp02 (f : Fields) : Except Reject Instr :=
  match f.fn.toNat with
  | 0 => word (f.d == 0) (.bra f.grd f.imm32)
  | _ => .error .function

def decOp03 (f : Fields) : Except Reject Instr :=
  match f.fn.toNat with
  | 0 => word (f.zd && f.zb && f.zc && f.zx && f.zt) (.brx f.grd f.oa)
  | _ => .error .function

def decOp04 (f : Fields) : Except Reject Instr :=
  match f.fn.toNat with
  | 0 => word (f.d == 0) (.call f.grd f.imm32)
  | _ => .error .function

def decOp05 (f : Fields) : Except Reject Instr :=
  match f.fn.toNat with
  | 0 => word (f.zd && f.zb && f.zc && f.zx && f.zt) (.callv f.grd f.oa)
  | _ => .error .function

def decOp06 (f : Fields) : Except Reject Instr :=
  match f.fn.toNat with
  | 0 => word (f.zd && f.za && f.zb && f.zc && f.zx && f.zt) (.ret f.grd)
  | _ => .error .function

def decOp07 (f : Fields) : Except Reject Instr :=
  match f.fn.toNat with
  | 0 => word (f.zd && f.za && f.zb && f.zc && f.zx && f.zt) (.exit f.grd)
  | _ => .error .function

def decOp08 (f : Fields) : Except Reject Instr :=
  match f.fn.toNat with
  | 0 => word (f.za && f.zb && f.zc && f.zx && f.zt && f.vd) (.join f.grd f.d)
  | _ => .error .function

def decOp09 (f : Fields) : Except Reject Instr :=
  match f.fn.toNat with
  | 0 => word (f.za && f.zb && f.zc && f.zx && f.zt && f.vd) (.leave f.grd f.d)
  | _ => .error .function

def decOp0A (f : Fields) : Except Reject Instr :=
  match f.fn.toNat with
  | 0 => word (f.zd && f.zb && f.zc && f.zx && f.zt && f.va) (.waitm f.grd f.a)
  | _ => .error .function

def decOp0B (f : Fields) : Except Reject Instr :=
  match f.fn.toNat with
  | 0 => word (f.zb && f.zc && f.zt && f.vd && (if f.mx then f.za else f.sa)) (.mset f.grd f.mx f.d f.a)
  | 1 => word (f.zb && f.zc && f.zx && f.zt && f.va) (.mmov f.grd f.od f.a)
  | 2 => word (f.zc && f.zx && f.zt && f.vd && f.va && f.vb) (.mand f.grd f.d f.a f.b)
  | 3 => word (f.zc && f.zx && f.zt && f.vd && f.va && f.vb) (.mor f.grd f.d f.a f.b)
  | 4 => word (f.zb && f.zc && f.zx && f.zt && f.sd && f.va) (.mpop f.grd f.d f.a)
  | 5 => word (f.zb && f.zc && f.zx && f.zt && f.vd && f.va) (.mfromk f.grd f.d f.a)
  | _ => .error .function

def decOp0D (f : Fields) : Except Reject Instr :=
  match f.fn.toNat with
  | 0 => word (f.zd && f.za && f.zb && f.zc && f.zx && f.zt) (.yield f.grd)
  | _ => .error .function

def decOp10 (f : Fields) : Except Reject Instr :=
  match f.fn.toNat with
  | 0 => word (f.zc && f.zx && tyAny f.ity && f.cls2) (.iadd f.grd f.ity f.od f.oa f.ob)
  | 1 => word (f.zc && f.zx && tyAny f.ity && f.cls2) (.isub f.grd f.ity f.od f.oa f.ob)
  | 2 => word (f.zc && f.zx && tyAny f.ity && f.cls2) (.iaddsat f.grd f.ity f.od f.oa f.ob)
  | 3 => word (f.zc && f.zx && tyAny f.ity && f.cls2) (.isubsat f.grd f.ity f.od f.oa f.ob)
  | _ => .error .function

def decOp11 (f : Fields) : Except Reject Instr :=
  match f.fn.toNat with
  | 0 => word (f.zc && f.zx && tyAny f.ity && f.cls2) (.imul f.grd f.ity f.od f.oa f.ob)
  | 1 => word (f.zc && f.zx && tyWord f.ity && f.cls2) (.imulh f.grd f.ity f.od f.oa f.ob)
  | 2 => word (f.zx && tyAny f.ity && f.cls3) (.imad f.grd f.ity f.od f.oa f.ob f.oc)
  | _ => .error .function

def decOp12 (f : Fields) : Except Reject Instr :=
  match f.fn.toNat with
  | 0 => word (f.zc && f.zx && tyAny f.ity && f.cls2) (.idiv f.grd f.ity f.od f.oa f.ob)
  | 1 => word (f.zc && f.zx && tyAny f.ity && f.cls2) (.irem f.grd f.ity f.od f.oa f.ob)
  | _ => .error .function

def decOp13 (f : Fields) : Except Reject Instr :=
  match f.fn.toNat with
  | 0 => word (f.zc && f.zx && tyAny f.ity && f.cls2) (.imin f.grd f.ity f.od f.oa f.ob)
  | 1 => word (f.zc && f.zx && tyAny f.ity && f.cls2) (.imax f.grd f.ity f.od f.oa f.ob)
  | 2 => word (f.zb && f.zc && tySigned f.ity && f.cls1) (.iabs f.grd f.ity f.mx f.od f.oa)
  | 3 => word (f.zb && f.zc && tySigned f.ity && f.cls1) (.ineg f.grd f.ity f.mx f.od f.oa)
  | _ => .error .function

def decOp14 (f : Fields) : Except Reject Instr :=
  match f.fn.toNat with
  | 0 => word (f.zc && f.zx && tyLogic f.ity && f.cls2) (.and f.grd f.ity f.od f.oa f.ob)
  | 1 => word (f.zc && f.zx && tyLogic f.ity && f.cls2) (.or f.grd f.ity f.od f.oa f.ob)
  | 2 => word (f.zc && f.zx && tyLogic f.ity && f.cls2) (.xor f.grd f.ity f.od f.oa f.ob)
  | 3 => word (f.zb && f.zc && f.zx && tyLogic f.ity && f.cls1) (.not f.grd f.ity f.od f.oa)
  | 4 => word (f.zc && f.zx && tyLogic f.ity && f.cls2) (.andn f.grd f.ity f.od f.oa f.ob)
  | _ => .error .function

def decOp15 (f : Fields) : Except Reject Instr :=
  match f.fn.toNat with
  | 0 => word (f.zc && f.zx && tyWord f.ity && f.cls2) (.shl f.grd f.ity f.od f.oa f.ob)
  | 1 => word (f.zc && f.zx && tyWord f.ity && f.cls2) (.shr f.grd f.ity f.od f.oa f.ob)
  | 2 => word (f.zc && f.zx && tyWord f.ity && f.cls2) (.sar f.grd f.ity f.od f.oa f.ob)
  | 3 => word (f.zc && f.zx && tyWord f.ity && f.cls2) (.rotl f.grd f.ity f.od f.oa f.ob)
  | _ => .error .function

def decOp16 (f : Fields) : Except Reject Instr :=
  match f.fn.toNat with
  | 0 => word (f.zx && tyWord f.ity && f.cls3) (.bfx f.grd f.ity f.od f.oa f.ob f.oc)
  | 1 => word (f.zx && tyLogic f.ity && f.cls3) (.bfi f.grd f.ity f.od f.oa f.ob f.oc)
  | _ => .error .function

def decOp17 (f : Fields) : Except Reject Instr :=
  match f.fn.toNat with
  | 0 => word (f.zb && f.zc && f.zx && tyLogic f.ity && f.cls1) (.popc f.grd f.ity f.od f.oa)
  | 1 => word (f.zb && f.zc && f.zx && tyLogic f.ity && f.cls1) (.clz f.grd f.ity f.od f.oa)
  | 2 => word (f.zb && f.zc && f.zx && tyLogic f.ity && f.cls1) (.ctz f.grd f.ity f.od f.oa)
  | 3 => word (f.zb && f.zc && f.zx && tyLogic f.ity && f.cls1) (.brev f.grd f.ity f.od f.oa)
  | 4 => word (f.zb && f.zc && f.zx && tySwap f.ity && f.cls1) (.bswap f.grd f.ity f.od f.oa)
  | _ => .error .function

def decOp18 (f : Fields) : Except Reject Instr :=
  match f.fn.toNat with
  | 0 => word (f.zx && tyLogic f.ity && f.vd && f.vc) (.sel f.grd f.ity f.d f.oa f.ob f.c)
  | 1 => word (f.zb && f.zc && f.zx && tyLogic f.ity && f.cls1) (.mov f.grd f.ity f.od f.oa)
  | 2 => word (f.zx && tyWord f.ity && f.cls2 && f.vc && decide (f.c < 8)) (.lea f.grd f.ity f.od f.oa f.ob f.c)
  | _ => .error .function

def decOp19 (f : Fields) : Except Reject Instr :=
  word (decide (f.fn < 2)) (.movi f.grd ⟨f.fn == 1, f.d⟩ f.imm32)

def decOp1A (f : Fields) : Except Reject Instr :=
  word (decide (f.fn < 2)) (.movh f.grd ⟨f.fn == 1, f.d⟩ f.imm32)

def decOp1B (f : Fields) : Except Reject Instr :=
  word (f.zc && f.zx && f.vd && decide (f.fn < 6)) (.icmp f.grd (condOf f.fn.toNat) f.ity f.d f.oa f.ob)

def decOp1C (f : Fields) : Except Reject Instr :=
  match f.fn.toNat with
  | 0 => word (f.zc && f.zx && f.vd && f.va && f.vb) (.plop f.grd (plopOf f.ty.toNat) f.d f.a f.b)
  | 1 => word (f.zb && f.zc && f.zt && f.vd && f.va) (.pmov f.grd f.mx f.d f.a)
  | _ => .error .function

def decOp1D (f : Fields) : Except Reject Instr :=
  match f.fn.toNat with
  | 0 => word (f.zb && f.zc && f.zx && f.vd && f.va && decide (f.ty < 3)) (.vote f.grd (voteOf f.ty.toNat) f.d f.a)
  | 1 => word (f.zb && f.zc && f.zx && f.zt && f.sd && f.va) (.ballot f.grd f.d f.a)
  | _ => .error .function

/-- R129: `shfl` names vector registers: DS and AS are zero (notes/assumptions/55.md). -/
def decOp1E (f : Fields) : Except Reject Instr :=
  word (f.vd && f.va && f.vc && (f.mx || f.c == 0) && tyLogic f.ity && decide (f.fn < 4)) (.shfl f.grd (shflOf f.fn.toNat) f.ity f.d f.a f.ob (if f.mx then some f.c else none))

/-- R132: `idp4` and `idp8` take any mix of operands (notes/assumptions/55.md). -/
def decOp1F (f : Fields) : Except Reject Instr :=
  match f.fn.toNat with
  | 0 => word (f.cls3 && (f.ty == 0 || f.ty == 4)) (.idp4 f.grd (f.ty == 0) f.mx f.od f.oa f.ob f.oc)
  | 1 => word (f.zt && f.cls3) (.idp8 f.grd f.mx f.od f.oa f.ob f.oc)
  | _ => .error .function

def decOp20 (f : Fields) : Except Reject Instr :=
  match f.fn.toNat with
  | 0 => word (f.zc && f.zx && f.vd && f.va && f.sb && tyLogic f.ity) (.bcast f.grd f.ity f.d f.a f.b)
  | 1 => word (f.zc && f.zx && f.sd && f.va && f.sb && tyLogic f.ity) (.vrd f.grd f.ity f.d f.a f.b)
  | _ => .error .function

def decOp21 (f : Fields) : Except Reject Instr :=
  match (f.fn.extractLsb' 0 3).toNat with
  | 0 => word (tyAny f.fty) (.iaddImm f.grd false f.fty f.d f.a f.imm24)
  | 1 => word (tyAny f.fty) (.isubImm f.grd false f.fty f.d f.a f.imm24)
  | 2 => word (tyAny f.fty) (.imulImm f.grd false f.fty f.d f.a f.imm24)
  | 3 => word (tyAny f.fty) (.iminImm f.grd false f.fty f.d f.a f.imm24)
  | 4 => word (tyAny f.fty) (.imaxImm f.grd false f.fty f.d f.a f.imm24)
  | _ => .error .function

def decOp22 (f : Fields) : Except Reject Instr :=
  match (f.fn.extractLsb' 0 3).toNat with
  | 0 => word (tyLogic f.fty) (.andImm f.grd false f.fty f.d f.a f.imm24)
  | 1 => word (tyLogic f.fty) (.orImm f.grd false f.fty f.d f.a f.imm24)
  | 2 => word (tyLogic f.fty) (.xorImm f.grd false f.fty f.d f.a f.imm24)
  | 3 => word (tyWord f.fty && decide (f.imm24.toNat < f.fty.width)) (.shlImm f.grd false f.fty f.d f.a f.imm24)
  | 4 => word (tyWord f.fty && decide (f.imm24.toNat < f.fty.width)) (.shrImm f.grd false f.fty f.d f.a f.imm24)
  | 5 => word (tyWord f.fty && decide (f.imm24.toNat < f.fty.width)) (.sarImm f.grd false f.fty f.d f.a f.imm24)
  | 6 => word (tyWord f.fty && decide (f.imm24.toNat < f.fty.width)) (.rotlImm f.grd false f.fty f.d f.a f.imm24)
  | _ => .error .function

def decOp23 (f : Fields) : Except Reject Instr :=
  word (decide (f.fn.extractLsb' 0 3 < 6)) (.icmpImm f.grd false (condOf (f.fn.extractLsb' 0 3).toNat) f.fty f.d f.a f.imm24)

def decOp24 (f : Fields) : Except Reject Instr :=
  match (f.fn.extractLsb' 0 3).toNat with
  | 0 => word (tyAny f.fty) (.iaddImm f.grd true f.fty f.d f.a f.imm24)
  | 1 => word (tyAny f.fty) (.isubImm f.grd true f.fty f.d f.a f.imm24)
  | 2 => word (tyAny f.fty) (.imulImm f.grd true f.fty f.d f.a f.imm24)
  | 3 => word (tyAny f.fty) (.iminImm f.grd true f.fty f.d f.a f.imm24)
  | 4 => word (tyAny f.fty) (.imaxImm f.grd true f.fty f.d f.a f.imm24)
  | _ => .error .function

def decOp25 (f : Fields) : Except Reject Instr :=
  match (f.fn.extractLsb' 0 3).toNat with
  | 0 => word (tyLogic f.fty) (.andImm f.grd true f.fty f.d f.a f.imm24)
  | 1 => word (tyLogic f.fty) (.orImm f.grd true f.fty f.d f.a f.imm24)
  | 2 => word (tyLogic f.fty) (.xorImm f.grd true f.fty f.d f.a f.imm24)
  | 3 => word (tyWord f.fty && decide (f.imm24.toNat < f.fty.width)) (.shlImm f.grd true f.fty f.d f.a f.imm24)
  | 4 => word (tyWord f.fty && decide (f.imm24.toNat < f.fty.width)) (.shrImm f.grd true f.fty f.d f.a f.imm24)
  | 5 => word (tyWord f.fty && decide (f.imm24.toNat < f.fty.width)) (.sarImm f.grd true f.fty f.d f.a f.imm24)
  | 6 => word (tyWord f.fty && decide (f.imm24.toNat < f.fty.width)) (.rotlImm f.grd true f.fty f.d f.a f.imm24)
  | _ => .error .function

def decOp26 (f : Fields) : Except Reject Instr :=
  word (decide (f.fn.extractLsb' 0 3 < 6)) (.icmpImm f.grd true (condOf (f.fn.extractLsb' 0 3).toNat) f.fty f.d f.a f.imm24)

def decOp30 (f : Fields) : Except Reject Instr :=
  match f.fn.toNat with
  | 0 => word (f.zc && f.zx && f.vd && f.rmOk) (.fadd f.grd f.rm f.d f.oa f.ob)
  | 1 => word (f.zc && f.zx && f.vd && f.rmOk) (.fsub f.grd f.rm f.d f.oa f.ob)
  | 2 => word (f.zc && f.zx && f.vd && f.rmOk) (.fmul f.grd f.rm f.d f.oa f.ob)
  | _ => .error .function

def decOp31 (f : Fields) : Except Reject Instr :=
  match f.fn.toNat with
  | 0 => word (f.zx && f.vd && f.rmOk) (.ffma f.grd f.rm f.d f.oa f.ob f.oc)
  | _ => .error .function

def decOp32 (f : Fields) : Except Reject Instr :=
  match f.fn.toNat with
  | 0 => word (f.zc && f.zx && f.zt && f.vd) (.fmin f.grd f.d f.oa f.ob)
  | 1 => word (f.zc && f.zx && f.zt && f.vd) (.fmax f.grd f.d f.oa f.ob)
  | _ => .error .function

def decOp33 (f : Fields) : Except Reject Instr :=
  word (f.zc && f.zx && f.zt && f.vd && decide (f.fn < 8)) (.fcmp f.grd (fcondOf f.fn.toNat) f.d f.oa f.ob)

def decOp34 (f : Fields) : Except Reject Instr :=
  match f.fn.toNat with
  | 0 => word (f.zb && f.zc && f.zx && f.zt && f.vd) (.fclass f.grd f.d f.oa)
  | _ => .error .function

def decOp35 (f : Fields) : Except Reject Instr :=
  match f.fn.toNat with
  | 0 => word (f.zb && f.zc && f.zx && f.vd && f.rmOk) (.frnd f.grd f.rm f.d f.oa)
  | _ => .error .function

def decOp36 (f : Fields) : Except Reject Instr :=
  word (f.zb && f.zc && f.vd && decide (f.fn < 12) && f.rmOk && cvtOk (cvtOf f.fn.toNat) f.rm f.mx) (.fcvt f.grd (cvtOf f.fn.toNat) f.rm f.mx f.d f.oa)

def decOp37 (f : Fields) : Except Reject Instr :=
  word (f.zb && f.zc && f.zx && f.vd && f.rmOk && decide (f.fn.extractLsb' 4 2 < 3) && decide (f.fn.extractLsb' 0 4 < 9)) (.f2i f.grd (ffmtOf (f.fn.extractLsb' 4 2).toNat) (ityOrQ4 (f.fn.extractLsb' 0 4)) f.rm f.d f.oa)

def decOp38 (f : Fields) : Except Reject Instr :=
  word (f.zb && f.zc && f.zx && f.vd && f.rmOk && decide (f.fn.extractLsb' 4 2 < 3) && decide (f.fn.extractLsb' 0 4 < 9)) (.i2f f.grd (ffmtOf (f.fn.extractLsb' 4 2).toNat) (ityOrQ4 (f.fn.extractLsb' 0 4)) f.rm f.d f.oa)

def decOp39 (f : Fields) : Except Reject Instr :=
  match f.fn.toNat with
  | 0 => word (f.zc && f.zx && f.vd && f.rmOk) (.hxadd f.grd f.rm f.d f.oa f.ob)
  | 1 => word (f.zc && f.zx && f.vd && f.rmOk) (.hxmul f.grd f.rm f.d f.oa f.ob)
  | 2 => word (f.zx && f.vd && f.rmOk) (.hxfma f.grd f.rm f.d f.oa f.ob f.oc)
  | _ => .error .function

def decOp3A (f : Fields) : Except Reject Instr :=
  match f.fn.toNat with
  | 0 => word (f.zc && f.zx && f.vd && f.rmOk) (.bxadd f.grd f.rm f.d f.oa f.ob)
  | 1 => word (f.zc && f.zx && f.vd && f.rmOk) (.bxmul f.grd f.rm f.d f.oa f.ob)
  | 2 => word (f.zx && f.vd && f.rmOk) (.bxfma f.grd f.rm f.d f.oa f.ob f.oc)
  | _ => .error .function

def decOp3B (f : Fields) : Except Reject Instr :=
  match f.fn.toNat with
  | 0 => word (f.vd && f.rmOk) (.fdp2 f.grd f.mx f.rm f.d f.oa f.ob f.oc)
  | _ => .error .function

def decOp3C (f : Fields) : Except Reject Instr :=
  match f.fn.toNat with
  | 0 => word (f.zb && f.zc && f.zx && f.zt && f.vd) (.frcp f.grd f.la f.d f.oa)
  | 1 => word (f.zb && f.zc && f.zx && f.zt && f.vd) (.frsq f.grd f.la f.d f.oa)
  | 2 => word (f.zb && f.zc && f.zx && f.vd && f.rmOk) (.fsqrt f.grd f.la f.rm f.d f.oa)
  | 3 => word (f.zb && f.zc && f.zx && f.zt && f.vd) (.fexp2 f.grd f.la f.d f.oa)
  | 4 => word (f.zb && f.zc && f.zx && f.zt && f.vd) (.flog2 f.grd f.la f.d f.oa)
  | 5 => word (f.zb && f.zc && f.zx && f.zt && f.vd) (.fsin f.grd f.la f.d f.oa)
  | 6 => word (f.zb && f.zc && f.zx && f.zt && f.vd) (.fcos f.grd f.la f.d f.oa)
  | 7 => word (f.zb && f.zc && f.zx && f.zt && f.vd) (.ftanh f.grd f.la f.d f.oa)
  | _ => .error .function

def decOp3D (f : Fields) : Except Reject Instr :=
  match f.fn.toNat with
  | 0 => word (f.zc && f.zx && f.vd && f.rmOk) (.fscale f.grd f.rm f.d f.oa f.ob)
  | 1 => word (f.zb && f.zc && f.zx && f.zt && f.vd) (.fgetexp f.grd f.d f.oa)
  | _ => .error .function

def decOp3E (f : Fields) : Except Reject Instr :=
  match f.fn.toNat with
  | 0 => word (f.zb && f.zc && f.zt && f.vd && f.va) (.gpack f.grd f.mx f.d f.a)
  | 1 => word (f.zb && f.zc && f.zx && f.zt && f.vd) (.gunpack f.grd f.d f.oa)
  | _ => .error .function

def decOp50 (f : Fields) : Except Reject Instr :=
  word (f.osOk && memOk .load f.mem) (.ld f.grd f.la f.mem)

def decOp51 (f : Fields) : Except Reject Instr :=
  word (f.osOk && memOk .store f.mem) (.st f.grd f.mem)

def decOp52 (f : Fields) : Except Reject Instr :=
  word (f.osOk && memOk .loadFlat f.mem) (.ldv f.grd f.la f.mem)

def decOp53 (f : Fields) : Except Reject Instr :=
  word (f.osOk && memOk .storeFlat f.mem) (.stv f.grd f.mem)

def decOp54 (f : Fields) : Except Reject Instr :=
  word (f.osOk && memOk .loadScalar f.mem) (.lds f.grd f.la f.mem)

def decOp55 (f : Fields) : Except Reject Instr :=
  word (f.osOk && memOk .storeScalar f.mem) (.sts f.grd f.mem)

def decOp56 (f : Fields) : Except Reject Instr :=
  word (f.osOk && memOk .load f.mem) (.gath f.grd f.la f.mem)

def decOp57 (f : Fields) : Except Reject Instr :=
  word (f.osOk && memOk .store f.mem) (.scat f.grd f.mem)

def decOp58 (f : Fields) : Except Reject Instr :=
  word (f.osOk && memOk .hint f.mem) (.prf f.grd f.mem)

def decOp59 (f : Fields) : Except Reject Instr :=
  word (f.osOk && memOk .loadSigned f.mem) (.ldSigned f.grd f.la f.mem)

def decOp5A (f : Fields) : Except Reject Instr :=
  word (f.osOk && memOk .loadScalarSigned f.mem) (.ldsSigned f.grd f.la f.mem)

def decOp5B (f : Fields) : Except Reject Instr :=
  word (f.osOk && memOk .loadSigned f.mem) (.gathSigned f.grd f.la f.mem)

def decOp5C (f : Fields) : Except Reject Instr :=
  match f.fn.toNat with
  | 0 => word (f.zd && f.zc && f.zt && f.va && (if f.mx then f.sb else f.zb)) (.barSync f.grd f.a (if f.mx then some f.b else none))
  | 1 => word (f.zd && f.zc && f.zt && f.va && (if f.mx then f.sb else f.zb)) (.barArv f.grd f.a (if f.mx then some f.b else none))
  | 2 => word (f.zd && f.zb && f.zc && f.zx && f.zt && f.va) (.barWait f.grd f.a)
  | 3 => word (f.zd && f.zc && f.zx && f.zt && f.va && f.sb) (.barBytes f.grd f.a f.b)
  | _ => .error .function

def decOp5D (f : Fields) : Except Reject Instr :=
  match f.fn.toNat with
  | 0 => word (f.zd && f.zc && (f.ty == 6 || f.ty == 7)) (.waitA f.grd (f.ty == 7) f.mx f.oa f.ob)
  | 1 => word (f.vd && f.sc && (f.ty == 6 || f.ty == 7)) (.waitT f.grd (f.ty == 7) f.mx f.d f.oa f.ob f.c)
  | _ => .error .function

def decOp5E (f : Fields) : Except Reject Instr :=
  word (f.zd && f.za && f.zb && f.zc && f.zx && f.zt && decide (f.fn < 6)) (.fence f.grd (scopeOf f.fn.toNat))

def decOp5F (f : Fields) : Except Reject Instr :=
  word (decide (f.fn.extractLsb' 0 4 < 10) && decide (f.ty < 6) && atomOk (atomOf (f.fn.extractLsb' 0 4).toNat) f.mx f.od f.oa f.ob f.oc) (.atom32 f.grd f.la (atomOf (f.fn.extractLsb' 0 4).toNat) (atomOrdOf (f.fn.extractLsb' 4 2).toNat) (scopeOf f.ty.toNat) f.mx f.od f.oa f.ob f.oc)

def decOp60 (f : Fields) : Except Reject Instr :=
  word (decide (f.fn.extractLsb' 0 4 < 10) && decide (f.ty < 6) && atomOk (atomOf (f.fn.extractLsb' 0 4).toNat) f.mx f.od f.oa f.ob f.oc) (.atom64 f.grd f.la (atomOf (f.fn.extractLsb' 0 4).toNat) (atomOrdOf (f.fn.extractLsb' 4 2).toNat) (scopeOf f.ty.toNat) f.mx f.od f.oa f.ob f.oc)

def decOp61 (f : Fields) : Except Reject Instr :=
  match f.fn.toNat with
  | 0 => word (f.sa && f.sb && f.sc && (if f.mx then f.sd else f.zd) && decide (f.ty < 4)) (.cpGs f.grd (f.ty.extractLsb' 0 2) f.a f.b f.c (if f.mx then some f.d else none))
  | 1 => word (f.sa && f.sb && f.sc && (if f.mx then f.sd else f.zd) && decide (f.ty < 4)) (.cpSg f.grd (f.ty.extractLsb' 0 2) f.a f.b f.c (if f.mx then some f.d else none))
  | 2 => word (f.sa && f.sb && f.sc && (if f.mx then f.sd else f.zd) && decide (f.ty < 4)) (.cpGg f.grd (f.ty.extractLsb' 0 2) f.a f.b f.c (if f.mx then some f.d else none))
  | _ => .error .function

def decOp62 (f : Fields) : Except Reject Instr :=
  match f.fn.toNat with
  | 0 => word (f.za && f.zc && f.vb && (if f.mx then f.sd else f.zd) && decide (f.ty < 6) && decide (0 < f.b) && decide (f.b < 16)) (.cpFence f.grd (scopeOf f.ty.toNat) f.b (if f.mx then some f.d else none))
  | 1 => word (f.za && f.zb && f.zc && f.zx && f.zt && f.sd) (.cpPoll f.grd f.d)
  | _ => .error .function

def decOp63 (f : Fields) : Except Reject Instr :=
  match f.fn.toNat with
  | 0 => word (f.zd && f.zx && f.zt && f.sa && f.sb && f.vc) (.lfillBar f.grd f.c f.a f.b)
  | 1 => word (f.zx && f.zt && f.sd && f.sa && f.sb && f.sc) (.lfillTok f.grd f.d f.a f.b f.c)
  | _ => .error .function

def decOp68 (f : Fields) : Except Reject Instr :=
  match f.fn.toNat with
  | 0 => word (f.b == 0 && f.c == 0 && f.m == 0) (.tcfg f.grd f.d f.a)
  | _ => .error .function

def decOp69 (f : Fields) : Except Reject Instr :=
  match f.fn.toNat with
  | 0 => word (f.m.extractLsb' 1 7 == 0 && (f.m0 || f.c == 0)) (.tld f.grd f.la f.m0 f.d f.a f.b f.c)
  | _ => .error .function

def decOp6A (f : Fields) : Except Reject Instr :=
  match f.fn.toNat with
  | 0 => word (f.m.extractLsb' 2 2 == 0 && (f.m0 || f.c == 0) && (!f.m1 || f.m.extractLsb' 4 4 == 0)) (.tldg f.grd f.la f.m0 (if f.m1 then none else some (f.m.extractLsb' 4 4)) f.d f.a f.b f.c)
  | _ => .error .function

def decOp6B (f : Fields) : Except Reject Instr :=
  match f.fn.toNat with
  | 0 => word (f.m.extractLsb' 1 7 == 0 && (f.m0 || f.c == 0)) (.tst f.grd f.m0 f.d f.a f.b f.c)
  | _ => .error .function

def decOp6C (f : Fields) : Except Reject Instr :=
  match f.fn.toNat with
  | 0 => word (f.a == 0 && f.b == 0 && f.c == 0 && f.m == 0) (.tzero f.grd f.d)
  | 1 => word (f.c == 0 && f.m.extractLsb' 1 7 == 0) (.tmov f.grd f.m0 f.d f.a f.b)
  | _ => .error .function

def decOp6D (f : Fields) : Except Reject Instr :=
  match f.fn.toNat with
  | 0 => word (f.m.extractLsb' 3 5 == 0 && f.m.extractLsb' 0 2 != 3 && f.aTiles) (.mma f.grd f.la (f.m.extractLsb' 0 2) f.m2 f.d (f.a.extractLsb' 0 3) (f.a.extractLsb' 4 3) f.b f.c)
  | 1 => word (f.m.extractLsb' 4 4 == 0 && f.m.extractLsb' 0 2 != 3 && f.aTiles) (.mmap f.grd f.la (f.m.extractLsb' 0 2) f.m2 f.m3 f.d (f.a.extractLsb' 0 3) (f.a.extractLsb' 4 3) f.b f.c)
  | 2 => word (f.d == 0 && f.b == 0 && f.c == 0 && f.m == 0) (.mmac f.grd f.la f.a)
  | _ => .error .function

def decOp6E (f : Fields) : Except Reject Instr :=
  match f.fn.toNat with
  | 0 => word (f.a == 0 && f.b == 0 && f.c == 0 && f.m == 0) (.czero f.grd f.d)
  | 1 => if f.m == 1 then word (f.c == 0 && f.m == 1) (.cmovIn f.grd f.d f.a f.b)
    else word (f.c == 0 && f.m == 0) (.cmov f.grd f.d f.a f.b)
  | 2 => word (f.d == 0 && f.b == 0 && f.c == 0 && f.m == 0) (.vbnd f.grd f.a)
  | _ => .error .function

def decOp6F (f : Fields) : Except Reject Instr :=
  match f.fn.toNat with
  | 0 => word (f.a == 0 && f.b == 0 && f.c == 0 && f.m == 0) (.atest f.grd f.d)
  | _ => .error .function

def decOp70 (f : Fields) : Except Reject Instr :=
  word (f.osOk && memOk .shadow f.mem) (.xst f.grd f.mem)

def decOp71 (f : Fields) : Except Reject Instr :=
  match f.fn.toNat with
  | 0 => word (f.zd && f.za && f.zb && f.zc && f.zx && f.zt) (.xbar f.grd)
  | _ => .error .function

def decOp72 (f : Fields) : Except Reject Instr :=
  match f.fn.toNat with
  | 0 => word (f.za && f.zb && f.zc && f.zx && f.zt && f.vd) (.cbar f.grd f.d)
  | _ => .error .function

def decOp73 (f : Fields) : Except Reject Instr :=
  match f.fn.toNat with
  | 0 => word (f.za && f.zb && f.zc && f.zx && f.zt && f.sd) (.xpoll f.grd f.d)
  | _ => .error .function

def decOp74 (f : Fields) : Except Reject Instr :=
  word (f.zd && f.zc && f.zx && f.zt && decide (f.fn < 6)) (.acc f.grd (accOf f.fn.toNat) f.oa f.ob)

def decOp75 (f : Fields) : Except Reject Instr :=
  word (f.zd && f.zc && f.zx && f.zt && decide (f.fn < 6) && f.fn != 2 && f.vb) (.accv f.grd (accOf f.fn.toNat) f.oa f.b)

def decOp76 (f : Fields) : Except Reject Instr :=
  word (f.zd && f.za && f.zb && f.zc && f.zx && f.zt && decide (f.fn < 6)) (.accFlush f.grd (scopeOf f.fn.toNat))

def decOp77 (f : Fields) : Except Reject Instr :=
  match f.fn.toNat with
  | 0 => word (f.zb && f.zc && f.zx && f.zt && f.sd && f.sa) (.accProbe f.grd f.la f.d f.a)
  | _ => .error .function

def decOp78 (f : Fields) : Except Reject Instr :=
  match f.fn.toNat with
  | 0 => word (f.zx && f.zt && f.vd && f.sa && f.vc && decide (f.c < 9) && (if f.c == 0 then f.zb else f.sb)) (.futSpawn f.grd f.d f.a f.b f.c)
  | _ => .error .function

def decOp79 (f : Fields) : Except Reject Instr :=
  match f.fn.toNat with
  | 0 => word (f.zb && f.zc && f.zx && f.zt && f.vd && f.va) (.futDup f.grd f.d f.a)
  | 1 => word (f.za && f.zb && f.zc && f.zx && f.zt && f.vd) (.futDrop f.grd f.d)
  | 2 => word (f.za && f.zb && f.zc && f.zx && f.zt && f.sd) (.futSelf f.grd f.d)
  | 3 => word (f.zd && f.za && f.zb && f.zc && f.zx && f.zt) (.futCheck f.grd)
  | _ => .error .function

def decOp7A (f : Fields) : Except Reject Instr :=
  match f.fn.toNat with
  | 0 => word (f.zb && f.zx && f.zt && f.va && f.vc && decide (f.c < 9) && (f.c != 0 || f.la == 0) && (if f.c == 0 then f.zd else f.sd)) (.futGet f.grd f.la f.d f.a f.c)
  | 1 => word (f.zb && f.zc && f.zx && f.zt && f.vd && f.va) (.futPoll f.grd f.d f.a)
  | _ => .error .function

def decOp7B (f : Fields) : Except Reject Instr :=
  match f.fn.toNat with
  | 0 => word (f.zd && f.zc && f.zx && f.zt && f.sa && f.vb) (.futPark f.grd f.a f.b)
  | 1 => word (f.zb && f.zc && f.zx && f.zt && f.vd && f.sa) (.futUnpark f.grd f.d f.a)
  | 2 => word (f.zd && f.zb && f.zx && f.zt && f.vc && decide (f.c < 9) && (if f.c == 0 then f.za else f.sa)) (.futRet f.grd f.a f.c)
  | _ => .error .function

def decOp7C (f : Fields) : Except Reject Instr :=
  match f.fn.toNat with
  | 0 => word (f.za && f.zc && f.zx && f.zt && f.sd && f.vb && decide (f.b < 5)) (.enRead f.grd f.d f.b)
  | 1 => word (f.zd && f.zb && f.zc && f.zx && f.zt && f.sa) (.enMark f.grd f.a)
  | 2 => word (f.zb && f.zc && f.zx && f.zt && f.sd && f.sa) (.vfReq f.grd f.d f.a)
  | 3 => word (f.za && f.zb && f.zc && f.zx && f.zt && f.sd) (.vfStat f.grd f.d)
  | 16 => word (f.zx && f.sd && f.sa && f.sb && f.sc && decide (f.ty < 7)) (.collRed f.grd (collOf f.ty.toNat) f.d f.a f.b f.c)
  | 17 => word (f.zx && f.zt && f.sd && f.sa && f.sb && f.sc) (.collBcast f.grd f.d f.a f.b f.c)
  | 18 => word (f.zb && f.zc && f.zx && f.zt && f.sd && f.sa) (.collWait f.grd f.d f.a)
  | _ => .error .function

def decOp7D (f : Fields) : Except Reject Instr :=
  match f.fn.toNat with
  | 0 => word (f.zd && f.za && f.zc && f.zx && f.zt && f.vb) (.trap f.grd f.b)
  | 1 => word (f.zd && f.za && f.zc && f.zx && f.zt && f.vb) (.brk f.grd f.b)
  | 2 => word (f.zd && f.za && f.zb && f.zc && f.zt) (.rfe f.grd f.mx)
  | 3 => word (f.a == 0 && f.imm24.extractLsb' 12 12 == 0 && f.imm24.extractLsb' 10 2 != 3) (.sread f.grd (dkOf (f.imm24.extractLsb' 10 2).toNat) f.d (f.imm24.extractLsb' 0 10))
  | 4 => word (f.d == 0 && f.imm24.extractLsb' 12 12 == 0 && (f.imm24.extractLsb' 10 2 == 0 || f.imm24.extractLsb' 10 2 == 2)) (.swrite f.grd (dkOf (f.imm24.extractLsb' 10 2).toNat) f.a (f.imm24.extractLsb' 0 10))
  | 5 => word (f.zd && f.zb && f.zc && f.zx && f.zt && f.sa) (.ctxSave f.grd f.a)
  | 6 => word (f.zd && f.zb && f.zc && f.zx && f.zt && f.sa) (.ctxLoad f.grd f.a)
  | _ => .error .function

/-- R94: the opcode map. -/
def decodeOp (f : Fields) : Except Reject Instr :=
  match f.op.toNat with
  | 0x01 => decOp01 f
  | 0x02 => decOp02 f
  | 0x03 => decOp03 f
  | 0x04 => decOp04 f
  | 0x05 => decOp05 f
  | 0x06 => decOp06 f
  | 0x07 => decOp07 f
  | 0x08 => decOp08 f
  | 0x09 => decOp09 f
  | 0x0A => decOp0A f
  | 0x0B => decOp0B f
  | 0x0C => decOp0C f
  | 0x0D => decOp0D f
  | 0x10 => decOp10 f
  | 0x11 => decOp11 f
  | 0x12 => decOp12 f
  | 0x13 => decOp13 f
  | 0x14 => decOp14 f
  | 0x15 => decOp15 f
  | 0x16 => decOp16 f
  | 0x17 => decOp17 f
  | 0x18 => decOp18 f
  | 0x19 => decOp19 f
  | 0x1A => decOp1A f
  | 0x1B => decOp1B f
  | 0x1C => decOp1C f
  | 0x1D => decOp1D f
  | 0x1E => decOp1E f
  | 0x1F => decOp1F f
  | 0x20 => decOp20 f
  | 0x21 => decOp21 f
  | 0x22 => decOp22 f
  | 0x23 => decOp23 f
  | 0x24 => decOp24 f
  | 0x25 => decOp25 f
  | 0x26 => decOp26 f
  | 0x30 => decOp30 f
  | 0x31 => decOp31 f
  | 0x32 => decOp32 f
  | 0x33 => decOp33 f
  | 0x34 => decOp34 f
  | 0x35 => decOp35 f
  | 0x36 => decOp36 f
  | 0x37 => decOp37 f
  | 0x38 => decOp38 f
  | 0x39 => decOp39 f
  | 0x3A => decOp3A f
  | 0x3B => decOp3B f
  | 0x3C => decOp3C f
  | 0x3D => decOp3D f
  | 0x3E => decOp3E f
  | 0x50 => decOp50 f
  | 0x51 => decOp51 f
  | 0x52 => decOp52 f
  | 0x53 => decOp53 f
  | 0x54 => decOp54 f
  | 0x55 => decOp55 f
  | 0x56 => decOp56 f
  | 0x57 => decOp57 f
  | 0x58 => decOp58 f
  | 0x59 => decOp59 f
  | 0x5A => decOp5A f
  | 0x5B => decOp5B f
  | 0x5C => decOp5C f
  | 0x5D => decOp5D f
  | 0x5E => decOp5E f
  | 0x5F => decOp5F f
  | 0x60 => decOp60 f
  | 0x61 => decOp61 f
  | 0x62 => decOp62 f
  | 0x63 => decOp63 f
  | 0x68 => decOp68 f
  | 0x69 => decOp69 f
  | 0x6A => decOp6A f
  | 0x6B => decOp6B f
  | 0x6C => decOp6C f
  | 0x6D => decOp6D f
  | 0x6E => decOp6E f
  | 0x6F => decOp6F f
  | 0x70 => decOp70 f
  | 0x71 => decOp71 f
  | 0x72 => decOp72 f
  | 0x73 => decOp73 f
  | 0x74 => decOp74 f
  | 0x75 => decOp75 f
  | 0x76 => decOp76 f
  | 0x77 => decOp77 f
  | 0x78 => decOp78 f
  | 0x79 => decOp79 f
  | 0x7A => decOp7A f
  | 0x7B => decOp7B f
  | 0x7C => decOp7C f
  | 0x7D => decOp7D f
  | _ => .error .opcode

/-- R82, R94: the lookahead-eligible words. -/
def laEligible (f : Fields) : Bool :=
  match f.op.toNat with
  | 0x3C => true | 0x50 => true | 0x52 => true | 0x54 => true | 0x56 => true | 0x59 => true | 0x5A => true
  | 0x5B => true | 0x5F => true | 0x60 => true | 0x69 => true | 0x6A => true | 0x6D => true | 0x77 => true
  | 0x7A => f.fn == 0
  | _ => false

/-- R68, R69, R82: a single-form word of these fields. -/
def decodeFields (f : Fields) : Except Reject Instr :=
  if !f.ge && (f.gn || f.kg != 0) then .error .guard
  else if f.la != 0 && !laEligible f then .error .lookahead
  else decodeOp f

/-- R66, R77, R95: the instruction of a word. -/
def decode (w : W64) : Except Reject Instr :=
  if w.getLsbD 63 then
    if w.getLsbD 0 then .error .pairRule
    else
      match decodeSlot (w.extractLsb' 32 31), decodeSlot (w.extractLsb' 1 31) with
      | .ok s0, .ok s1 => if pairRules s0 s1 then .ok (.pairWord s0 s1) else .error .pairRule
      | .error e, _ => .error e
      | _, .error e => .error e
  else decodeFields (splitWord w)

/-- R14, R66: the word that bytes hold, the first byte at the lowest address; the rest is not touched. -/
def wordOfBytes : List Byte → Option (W64 × List Byte)
  | b0 :: b1 :: b2 :: b3 :: b4 :: b5 :: b6 :: b7 :: rest => some (b7 ++ b6 ++ b5 ++ b4 ++ b3 ++ b2 ++ b1 ++ b0, rest)
  | _ => none

/-- The decoder on bytes: the instruction and the bytes after it. -/
def decodeBytes (l : List Byte) : Except Reject (Instr × List Byte) :=
  match wordOfBytes l with
  | none => .error .short
  | some (w, rest) =>
    match decode w with
    | .ok i => .ok (i, rest)
    | .error e => .error e

/-! ### The encoder -/

/-- The fields of a word with a guard. -/
def fieldsOf (op : BitVec 7) (la : BitVec 4) (g : Grd) (fn : BitVec 6) (d a b c m : BitVec 8) : Fields :=
  match g with
  | none => ⟨op, la, false, false, 0, fn, d, a, b, c, m⟩
  | some x => ⟨op, la, true, x.neg, x.k, fn, d, a, b, c, m⟩

def encodeFields (i : Instr) : Option Fields :=
  match i with
  | .nop g => some (fieldsOf 0x01 0 g 0 0 0 0 0 0)
  | .bra g off => some (fieldsOf 0x02 0 g 0 0 (off.extractLsb' 24 8) (off.extractLsb' 16 8) (off.extractLsb' 8 8) (off.extractLsb' 0 8))
  | .brx g a => some (fieldsOf 0x03 0 g 0 0 a.n 0 0 (modByte false a.sc false false false 0))
  | .call g off => some (fieldsOf 0x04 0 g 0 0 (off.extractLsb' 24 8) (off.extractLsb' 16 8) (off.extractLsb' 8 8) (off.extractLsb' 0 8))
  | .callv g a => some (fieldsOf 0x05 0 g 0 0 a.n 0 0 (modByte false a.sc false false false 0))
  | .ret g => some (fieldsOf 0x06 0 g 0 0 0 0 0 0)
  | .exit g => some (fieldsOf 0x07 0 g 0 0 0 0 0 0)
  | .join g d => some (fieldsOf 0x08 0 g 0 d 0 0 0 0)
  | .leave g d => some (fieldsOf 0x09 0 g 0 d 0 0 0 0)
  | .waitm g a => some (fieldsOf 0x0A 0 g 0 0 a 0 0 0)
  | .mset g all d a => some (fieldsOf 0x0B 0 g 0 d a 0 0 (modByte false (!all) false false all 0))
  | .mmov g d a => some (fieldsOf 0x0B 0 g 1 d.n a 0 0 (modByte d.sc false false false false 0))
  | .mand g d a b => some (fieldsOf 0x0B 0 g 2 d a b 0 0)
  | .mor g d a b => some (fieldsOf 0x0B 0 g 3 d a b 0 0)
  | .mpop g d a => some (fieldsOf 0x0B 0 g 4 d a 0 0 (modByte true false false false false 0))
  | .mfromk g d a => some (fieldsOf 0x0B 0 g 5 d a 0 0 0)
  | .yield g => some (fieldsOf 0x0D 0 g 0 0 0 0 0 0)
  | .iadd g t d a b => some (fieldsOf 0x10 0 g 0 d.n a.n b.n 0 (modByte d.sc a.sc b.sc false false t.code))
  | .isub g t d a b => some (fieldsOf 0x10 0 g 1 d.n a.n b.n 0 (modByte d.sc a.sc b.sc false false t.code))
  | .iaddsat g t d a b => some (fieldsOf 0x10 0 g 2 d.n a.n b.n 0 (modByte d.sc a.sc b.sc false false t.code))
  | .isubsat g t d a b => some (fieldsOf 0x10 0 g 3 d.n a.n b.n 0 (modByte d.sc a.sc b.sc false false t.code))
  | .imul g t d a b => some (fieldsOf 0x11 0 g 0 d.n a.n b.n 0 (modByte d.sc a.sc b.sc false false t.code))
  | .imulh g t d a b => some (fieldsOf 0x11 0 g 1 d.n a.n b.n 0 (modByte d.sc a.sc b.sc false false t.code))
  | .imad g t d a b c => some (fieldsOf 0x11 0 g 2 d.n a.n b.n c.n (modByte d.sc a.sc b.sc c.sc false t.code))
  | .idiv g t d a b => some (fieldsOf 0x12 0 g 0 d.n a.n b.n 0 (modByte d.sc a.sc b.sc false false t.code))
  | .irem g t d a b => some (fieldsOf 0x12 0 g 1 d.n a.n b.n 0 (modByte d.sc a.sc b.sc false false t.code))
  | .imin g t d a b => some (fieldsOf 0x13 0 g 0 d.n a.n b.n 0 (modByte d.sc a.sc b.sc false false t.code))
  | .imax g t d a b => some (fieldsOf 0x13 0 g 1 d.n a.n b.n 0 (modByte d.sc a.sc b.sc false false t.code))
  | .iabs g t sat d a => some (fieldsOf 0x13 0 g 2 d.n a.n 0 0 (modByte d.sc a.sc false false sat t.code))
  | .ineg g t sat d a => some (fieldsOf 0x13 0 g 3 d.n a.n 0 0 (modByte d.sc a.sc false false sat t.code))
  | .and g t d a b => some (fieldsOf 0x14 0 g 0 d.n a.n b.n 0 (modByte d.sc a.sc b.sc false false t.code))
  | .or g t d a b => some (fieldsOf 0x14 0 g 1 d.n a.n b.n 0 (modByte d.sc a.sc b.sc false false t.code))
  | .xor g t d a b => some (fieldsOf 0x14 0 g 2 d.n a.n b.n 0 (modByte d.sc a.sc b.sc false false t.code))
  | .not g t d a => some (fieldsOf 0x14 0 g 3 d.n a.n 0 0 (modByte d.sc a.sc false false false t.code))
  | .andn g t d a b => some (fieldsOf 0x14 0 g 4 d.n a.n b.n 0 (modByte d.sc a.sc b.sc false false t.code))
  | .shl g t d a b => some (fieldsOf 0x15 0 g 0 d.n a.n b.n 0 (modByte d.sc a.sc b.sc false false t.code))
  | .shr g t d a b => some (fieldsOf 0x15 0 g 1 d.n a.n b.n 0 (modByte d.sc a.sc b.sc false false t.code))
  | .sar g t d a b => some (fieldsOf 0x15 0 g 2 d.n a.n b.n 0 (modByte d.sc a.sc b.sc false false t.code))
  | .rotl g t d a b => some (fieldsOf 0x15 0 g 3 d.n a.n b.n 0 (modByte d.sc a.sc b.sc false false t.code))
  | .bfx g t d a b c => some (fieldsOf 0x16 0 g 0 d.n a.n b.n c.n (modByte d.sc a.sc b.sc c.sc false t.code))
  | .bfi g t d a b c => some (fieldsOf 0x16 0 g 1 d.n a.n b.n c.n (modByte d.sc a.sc b.sc c.sc false t.code))
  | .popc g t d a => some (fieldsOf 0x17 0 g 0 d.n a.n 0 0 (modByte d.sc a.sc false false false t.code))
  | .clz g t d a => some (fieldsOf 0x17 0 g 1 d.n a.n 0 0 (modByte d.sc a.sc false false false t.code))
  | .ctz g t d a => some (fieldsOf 0x17 0 g 2 d.n a.n 0 0 (modByte d.sc a.sc false false false t.code))
  | .brev g t d a => some (fieldsOf 0x17 0 g 3 d.n a.n 0 0 (modByte d.sc a.sc false false false t.code))
  | .bswap g t d a => some (fieldsOf 0x17 0 g 4 d.n a.n 0 0 (modByte d.sc a.sc false false false t.code))
  | .sel g t d a b c => some (fieldsOf 0x18 0 g 0 d a.n b.n c (modByte false a.sc b.sc false false t.code))
  | .mov g t d a => some (fieldsOf 0x18 0 g 1 d.n a.n 0 0 (modByte d.sc a.sc false false false t.code))
  | .lea g t d a b sh => some (fieldsOf 0x18 0 g 2 d.n a.n b.n sh (modByte d.sc a.sc b.sc false false t.code))
  | .movi g d imm => some (fieldsOf 0x19 0 g (if d.sc then 1 else 0) d.n (imm.extractLsb' 24 8) (imm.extractLsb' 16 8) (imm.extractLsb' 8 8) (imm.extractLsb' 0 8))
  | .movh g d imm => some (fieldsOf 0x1A 0 g (if d.sc then 1 else 0) d.n (imm.extractLsb' 24 8) (imm.extractLsb' 16 8) (imm.extractLsb' 8 8) (imm.extractLsb' 0 8))
  | .icmp g cd t d a b => some (fieldsOf 0x1B 0 g cd.code d a.n b.n 0 (modByte false a.sc b.sc false false t.code))
  | .plop g op d a b => some (fieldsOf 0x1C 0 g 0 d a b 0 (modByte false false false false false op.code))
  | .pmov g neg d a => some (fieldsOf 0x1C 0 g 1 d a 0 0 (modByte false false false false neg 0))
  | .vote g mode d a => some (fieldsOf 0x1D 0 g 0 d a 0 0 (modByte false false false false false mode.code))
  | .ballot g d a => some (fieldsOf 0x1D 0 g 1 d a 0 0 (modByte true false false false false 0))
  | .shfl g mode t d a b pout => some (fieldsOf 0x1E 0 g mode.code d a b.n (pout.getD 0) (modByte false false b.sc false pout.isSome t.code))
  | .idp4 g sgn sat d a b c => some (fieldsOf 0x1F 0 g 0 d.n a.n b.n c.n (modByte d.sc a.sc b.sc c.sc sat (if sgn then 0 else 4)))
  | .idp8 g sat d a b c => some (fieldsOf 0x1F 0 g 1 d.n a.n b.n c.n (modByte d.sc a.sc b.sc c.sc sat 0))
  | .bcast g t d a b => some (fieldsOf 0x20 0 g 0 d a b 0 (modByte false false true false false t.code))
  | .vrd g t d a b => some (fieldsOf 0x20 0 g 1 d a b 0 (modByte true false true false false t.code))
  | .iaddImm g sc t d a imm => some (fieldsOf (if sc then 36 else 33) 0 g (t.code ++ 0#3) d a (imm.extractLsb' 16 8) (imm.extractLsb' 8 8) (imm.extractLsb' 0 8))
  | .isubImm g sc t d a imm => some (fieldsOf (if sc then 36 else 33) 0 g (t.code ++ 1#3) d a (imm.extractLsb' 16 8) (imm.extractLsb' 8 8) (imm.extractLsb' 0 8))
  | .imulImm g sc t d a imm => some (fieldsOf (if sc then 36 else 33) 0 g (t.code ++ 2#3) d a (imm.extractLsb' 16 8) (imm.extractLsb' 8 8) (imm.extractLsb' 0 8))
  | .iminImm g sc t d a imm => some (fieldsOf (if sc then 36 else 33) 0 g (t.code ++ 3#3) d a (imm.extractLsb' 16 8) (imm.extractLsb' 8 8) (imm.extractLsb' 0 8))
  | .imaxImm g sc t d a imm => some (fieldsOf (if sc then 36 else 33) 0 g (t.code ++ 4#3) d a (imm.extractLsb' 16 8) (imm.extractLsb' 8 8) (imm.extractLsb' 0 8))
  | .andImm g sc t d a imm => some (fieldsOf (if sc then 37 else 34) 0 g (t.code ++ 0#3) d a (imm.extractLsb' 16 8) (imm.extractLsb' 8 8) (imm.extractLsb' 0 8))
  | .orImm g sc t d a imm => some (fieldsOf (if sc then 37 else 34) 0 g (t.code ++ 1#3) d a (imm.extractLsb' 16 8) (imm.extractLsb' 8 8) (imm.extractLsb' 0 8))
  | .xorImm g sc t d a imm => some (fieldsOf (if sc then 37 else 34) 0 g (t.code ++ 2#3) d a (imm.extractLsb' 16 8) (imm.extractLsb' 8 8) (imm.extractLsb' 0 8))
  | .shlImm g sc t d a imm => some (fieldsOf (if sc then 37 else 34) 0 g (t.code ++ 3#3) d a (imm.extractLsb' 16 8) (imm.extractLsb' 8 8) (imm.extractLsb' 0 8))
  | .shrImm g sc t d a imm => some (fieldsOf (if sc then 37 else 34) 0 g (t.code ++ 4#3) d a (imm.extractLsb' 16 8) (imm.extractLsb' 8 8) (imm.extractLsb' 0 8))
  | .sarImm g sc t d a imm => some (fieldsOf (if sc then 37 else 34) 0 g (t.code ++ 5#3) d a (imm.extractLsb' 16 8) (imm.extractLsb' 8 8) (imm.extractLsb' 0 8))
  | .rotlImm g sc t d a imm => some (fieldsOf (if sc then 37 else 34) 0 g (t.code ++ 6#3) d a (imm.extractLsb' 16 8) (imm.extractLsb' 8 8) (imm.extractLsb' 0 8))
  | .icmpImm g sc cd t d a imm => some (fieldsOf (if sc then 0x26 else 0x23) 0 g (t.code ++ cd.code.extractLsb' 0 3) d a (imm.extractLsb' 16 8) (imm.extractLsb' 8 8) (imm.extractLsb' 0 8))
  | .fadd g rm d a b => some (fieldsOf 0x30 0 g 0 d a.n b.n 0 (modByte false a.sc b.sc false false rm.code))
  | .fsub g rm d a b => some (fieldsOf 0x30 0 g 1 d a.n b.n 0 (modByte false a.sc b.sc false false rm.code))
  | .fmul g rm d a b => some (fieldsOf 0x30 0 g 2 d a.n b.n 0 (modByte false a.sc b.sc false false rm.code))
  | .ffma g rm d a b c => some (fieldsOf 0x31 0 g 0 d a.n b.n c.n (modByte false a.sc b.sc c.sc false rm.code))
  | .fmin g d a b => some (fieldsOf 0x32 0 g 0 d a.n b.n 0 (modByte false a.sc b.sc false false 0))
  | .fmax g d a b => some (fieldsOf 0x32 0 g 1 d a.n b.n 0 (modByte false a.sc b.sc false false 0))
  | .fcmp g cd d a b => some (fieldsOf 0x33 0 g cd.code d a.n b.n 0 (modByte false a.sc b.sc false false 0))
  | .fclass g d a => some (fieldsOf 0x34 0 g 0 d a.n 0 0 (modByte false a.sc false false false 0))
  | .frnd g rm d a => some (fieldsOf 0x35 0 g 0 d a.n 0 0 (modByte false a.sc false false false rm.code))
  | .fcvt g kind rm inf d a => some (fieldsOf 0x36 0 g kind.code d a.n 0 0 (modByte false a.sc false false inf rm.code))
  | .f2i g src dst rm d a => some (fieldsOf 0x37 0 g (src.code ++ q4Code dst) d a.n 0 0 (modByte false a.sc false false false rm.code))
  | .i2f g dst src rm d a => some (fieldsOf 0x38 0 g (dst.code ++ q4Code src) d a.n 0 0 (modByte false a.sc false false false rm.code))
  | .hxadd g rm d a b => some (fieldsOf 0x39 0 g 0 d a.n b.n 0 (modByte false a.sc b.sc false false rm.code))
  | .hxmul g rm d a b => some (fieldsOf 0x39 0 g 1 d a.n b.n 0 (modByte false a.sc b.sc false false rm.code))
  | .hxfma g rm d a b c => some (fieldsOf 0x39 0 g 2 d a.n b.n c.n (modByte false a.sc b.sc c.sc false rm.code))
  | .bxadd g rm d a b => some (fieldsOf 0x3A 0 g 0 d a.n b.n 0 (modByte false a.sc b.sc false false rm.code))
  | .bxmul g rm d a b => some (fieldsOf 0x3A 0 g 1 d a.n b.n 0 (modByte false a.sc b.sc false false rm.code))
  | .bxfma g rm d a b c => some (fieldsOf 0x3A 0 g 2 d a.n b.n c.n (modByte false a.sc b.sc c.sc false rm.code))
  | .fdp2 g b16 rm d a b c => some (fieldsOf 0x3B 0 g 0 d a.n b.n c.n (modByte false a.sc b.sc c.sc b16 rm.code))
  | .frcp g la d a => some (fieldsOf 0x3C la g 0 d a.n 0 0 (modByte false a.sc false false false 0))
  | .frsq g la d a => some (fieldsOf 0x3C la g 1 d a.n 0 0 (modByte false a.sc false false false 0))
  | .fsqrt g la rm d a => some (fieldsOf 0x3C la g 2 d a.n 0 0 (modByte false a.sc false false false rm.code))
  | .fexp2 g la d a => some (fieldsOf 0x3C la g 3 d a.n 0 0 (modByte false a.sc false false false 0))
  | .flog2 g la d a => some (fieldsOf 0x3C la g 4 d a.n 0 0 (modByte false a.sc false false false 0))
  | .fsin g la d a => some (fieldsOf 0x3C la g 5 d a.n 0 0 (modByte false a.sc false false false 0))
  | .fcos g la d a => some (fieldsOf 0x3C la g 6 d a.n 0 0 (modByte false a.sc false false false 0))
  | .ftanh g la d a => some (fieldsOf 0x3C la g 7 d a.n 0 0 (modByte false a.sc false false false 0))
  | .fscale g rm d a b => some (fieldsOf 0x3D 0 g 0 d a.n b.n 0 (modByte false a.sc b.sc false false rm.code))
  | .fgetexp g d a => some (fieldsOf 0x3D 0 g 1 d a.n 0 0 (modByte false a.sc false false false 0))
  | .gpack g inf d a => some (fieldsOf 0x3E 0 g 0 d a 0 0 (modByte false false false false inf 0))
  | .gunpack g d a => some (fieldsOf 0x3E 0 g 1 d a.n 0 0 (modByte false a.sc false false false 0))
  | .ld g la m => some (fieldsOf 0x50 la g m.fnBits m.d m.base (m.low.extractLsb' 16 8) (m.low.extractLsb' 8 8) (m.low.extractLsb' 0 8))
  | .st g m => some (fieldsOf 0x51 0 g m.fnBits m.d m.base (m.low.extractLsb' 16 8) (m.low.extractLsb' 8 8) (m.low.extractLsb' 0 8))
  | .ldv g la m => some (fieldsOf 0x52 la g m.fnBits m.d m.base (m.low.extractLsb' 16 8) (m.low.extractLsb' 8 8) (m.low.extractLsb' 0 8))
  | .stv g m => some (fieldsOf 0x53 0 g m.fnBits m.d m.base (m.low.extractLsb' 16 8) (m.low.extractLsb' 8 8) (m.low.extractLsb' 0 8))
  | .lds g la m => some (fieldsOf 0x54 la g m.fnBits m.d m.base (m.low.extractLsb' 16 8) (m.low.extractLsb' 8 8) (m.low.extractLsb' 0 8))
  | .sts g m => some (fieldsOf 0x55 0 g m.fnBits m.d m.base (m.low.extractLsb' 16 8) (m.low.extractLsb' 8 8) (m.low.extractLsb' 0 8))
  | .gath g la m => some (fieldsOf 0x56 la g m.fnBits m.d m.base (m.low.extractLsb' 16 8) (m.low.extractLsb' 8 8) (m.low.extractLsb' 0 8))
  | .scat g m => some (fieldsOf 0x57 0 g m.fnBits m.d m.base (m.low.extractLsb' 16 8) (m.low.extractLsb' 8 8) (m.low.extractLsb' 0 8))
  | .prf g m => some (fieldsOf 0x58 0 g m.fnBits m.d m.base (m.low.extractLsb' 16 8) (m.low.extractLsb' 8 8) (m.low.extractLsb' 0 8))
  | .ldSigned g la m => some (fieldsOf 0x59 la g m.fnBits m.d m.base (m.low.extractLsb' 16 8) (m.low.extractLsb' 8 8) (m.low.extractLsb' 0 8))
  | .ldsSigned g la m => some (fieldsOf 0x5A la g m.fnBits m.d m.base (m.low.extractLsb' 16 8) (m.low.extractLsb' 8 8) (m.low.extractLsb' 0 8))
  | .gathSigned g la m => some (fieldsOf 0x5B la g m.fnBits m.d m.base (m.low.extractLsb' 16 8) (m.low.extractLsb' 8 8) (m.low.extractLsb' 0 8))
  | .xst g m => some (fieldsOf 0x70 0 g m.fnBits m.d m.base (m.low.extractLsb' 16 8) (m.low.extractLsb' 8 8) (m.low.extractLsb' 0 8))
  | .barSync g n cnt => some (fieldsOf 0x5C 0 g 0 0 n (cnt.getD 0) 0 (modByte false false cnt.isSome false cnt.isSome 0))
  | .barArv g n cnt => some (fieldsOf 0x5C 0 g 1 0 n (cnt.getD 0) 0 (modByte false false cnt.isSome false cnt.isSome 0))
  | .barWait g n => some (fieldsOf 0x5C 0 g 2 0 n 0 0 0)
  | .barBytes g n b => some (fieldsOf 0x5C 0 g 3 0 n b 0 (modByte false false true false false 0))
  | .waitA g wide scr a b => some (fieldsOf 0x5D 0 g 0 0 a.n b.n 0 (modByte false a.sc b.sc false scr (if wide then 7 else 6)))
  | .waitT g wide scr d a b c => some (fieldsOf 0x5D 0 g 1 d a.n b.n c (modByte false a.sc b.sc true scr (if wide then 7 else 6)))
  | .fence g y => some (fieldsOf 0x5E 0 g (0#3 ++ y.code) 0 0 0 0 0)
  | .atom32 g la op ord y sgn d a b c => some (fieldsOf 0x5F la g (ord.code ++ op.code) d.n a.n b.n c.n (modByte d.sc a.sc b.sc c.sc sgn y.code))
  | .atom64 g la op ord y sgn d a b c => some (fieldsOf 0x60 la g (ord.code ++ op.code) d.n a.n b.n c.n (modByte d.sc a.sc b.sc c.sc sgn y.code))
  | .cpGs g q a b c desc => some (fieldsOf 0x61 0 g 0 (desc.getD 0) a b c (modByte desc.isSome true true true desc.isSome (0#1 ++ q)))
  | .cpSg g q a b c desc => some (fieldsOf 0x61 0 g 1 (desc.getD 0) a b c (modByte desc.isSome true true true desc.isSome (0#1 ++ q)))
  | .cpGg g q a b c desc => some (fieldsOf 0x61 0 g 2 (desc.getD 0) a b c (modByte desc.isSome true true true desc.isSome (0#1 ++ q)))
  | .cpFence g y mask desc => some (fieldsOf 0x62 0 g 0 (desc.getD 0) 0 mask 0 (modByte desc.isSome false false false desc.isSome y.code))
  | .cpPoll g d => some (fieldsOf 0x62 0 g 1 d 0 0 0 (modByte true false false false false 0))
  | .lfillBar g n a b => some (fieldsOf 0x63 0 g 0 0 a b n (modByte false true true false false 0))
  | .lfillTok g d a b c => some (fieldsOf 0x63 0 g 1 d a b c (modByte true true true true false 0))
  | .tcfg g d a => some (fieldsOf 0x68 0 g 0 d a 0 0 0)
  | .tld g la sc d a b c => some (fieldsOf 0x69 la g 0 d a b c (0#7 ++ BitVec.ofBool sc))
  | .tldg g la sc bar d a b c => some (fieldsOf 0x6A la g 0 d a b c (bar.getD 0 ++ 0#2 ++ BitVec.ofBool bar.isNone ++ BitVec.ofBool sc))
  | .tst g sc d a b c => some (fieldsOf 0x6B 0 g 0 d a b c (0#7 ++ BitVec.ofBool sc))
  | .tzero g d => some (fieldsOf 0x6C 0 g 0 d 0 0 0 0)
  | .tmov g sc d a b => some (fieldsOf 0x6C 0 g 1 d a b 0 (0#7 ++ BitVec.ofBool sc))
  | .mma g la ring nosplit d ta tb f k => some (fieldsOf 0x6D la g 0 d (0#1 ++ tb ++ 0#1 ++ ta) f k (0#5 ++ BitVec.ofBool nosplit ++ ring))
  | .mmap g la ring nosplit wide d ta tb f k => some (fieldsOf 0x6D la g 1 d (0#1 ++ tb ++ 0#1 ++ ta) f k (0#4 ++ BitVec.ofBool wide ++ BitVec.ofBool nosplit ++ ring))
  | .mmac g la a => some (fieldsOf 0x6D la g 2 0 a 0 0 0)
  | .czero g d => some (fieldsOf 0x6E 0 g 0 d 0 0 0 0)
  | .cmov g d a n => some (fieldsOf 0x6E 0 g 1 d a n 0 0)
  | .cmovIn g d a n => some (fieldsOf 0x6E 0 g 1 d a n 0 1)
  | .vbnd g a => some (fieldsOf 0x6E 0 g 2 0 a 0 0 0)
  | .atest g d => some (fieldsOf 0x6F 0 g 0 d 0 0 0 0)
  | .trap g n => some (fieldsOf 0x7D 0 g 0 0 0 n 0 0)
  | .brk g n => some (fieldsOf 0x7D 0 g 1 0 0 n 0 0)
  | .rfe g skip => some (fieldsOf 0x7D 0 g 2 0 0 0 0 (modByte false false false false skip 0))
  | .sread g dk d num => some (fieldsOf 0x7D 0 g 3 d 0 0 (0#4 ++ dk.code ++ num.extractLsb' 8 2) (num.extractLsb' 0 8))
  | .swrite g dk a num => some (fieldsOf 0x7D 0 g 4 0 a 0 (0#4 ++ dk.code ++ num.extractLsb' 8 2) (num.extractLsb' 0 8))
  | .ctxSave g a => some (fieldsOf 0x7D 0 g 5 0 a 0 0 (modByte false true false false false 0))
  | .ctxLoad g a => some (fieldsOf 0x7D 0 g 6 0 a 0 0 (modByte false true false false false 0))
  | .xbar g => some (fieldsOf 0x71 0 g 0 0 0 0 0 0)
  | .cbar g d => some (fieldsOf 0x72 0 g 0 d 0 0 0 0)
  | .xpoll g d => some (fieldsOf 0x73 0 g 0 d 0 0 0 (modByte true false false false false 0))
  | .acc g op a b => some (fieldsOf 0x74 0 g op.code 0 a.n b.n 0 (modByte false a.sc b.sc false false 0))
  | .accv g op a b => some (fieldsOf 0x75 0 g op.code 0 a.n b 0 (modByte false a.sc false false false 0))
  | .accFlush g y => some (fieldsOf 0x76 0 g (0#3 ++ y.code) 0 0 0 0 0)
  | .accProbe g la d a => some (fieldsOf 0x77 la g 0 d a 0 0 (modByte true true false false false 0))
  | .futSpawn g d a b n => some (fieldsOf 0x78 0 g 0 d a b n (modByte false true (n != 0) false false 0))
  | .futDup g d a => some (fieldsOf 0x79 0 g 0 d a 0 0 0)
  | .futDrop g d => some (fieldsOf 0x79 0 g 1 d 0 0 0 0)
  | .futSelf g d => some (fieldsOf 0x79 0 g 2 d 0 0 0 (modByte true false false false false 0))
  | .futCheck g => some (fieldsOf 0x79 0 g 3 0 0 0 0 0)
  | .futGet g la d a n => some (fieldsOf 0x7A la g 0 d a 0 n (modByte (n != 0) false false false false 0))
  | .futPoll g d a => some (fieldsOf 0x7A 0 g 1 d a 0 0 0)
  | .futPark g a b => some (fieldsOf 0x7B 0 g 0 0 a b 0 (modByte false true false false false 0))
  | .futUnpark g d a => some (fieldsOf 0x7B 0 g 1 d a 0 0 (modByte false true false false false 0))
  | .futRet g a n => some (fieldsOf 0x7B 0 g 2 0 a 0 n (modByte false (n != 0) false false false 0))
  | .enRead g d sel => some (fieldsOf 0x7C 0 g 0 d 0 sel 0 (modByte true false false false false 0))
  | .enMark g a => some (fieldsOf 0x7C 0 g 1 0 a 0 0 (modByte false true false false false 0))
  | .vfReq g d a => some (fieldsOf 0x7C 0 g 2 d a 0 0 (modByte true true false false false 0))
  | .vfStat g d => some (fieldsOf 0x7C 0 g 3 d 0 0 0 (modByte true false false false false 0))
  | .collRed g op d a b c => some (fieldsOf 0x7C 0 g 16 d a b c (modByte true true true true false op.code))
  | .collBcast g d a b c => some (fieldsOf 0x7C 0 g 17 d a b c (modByte true true true true false 0))
  | .collWait g d a => some (fieldsOf 0x7C 0 g 18 d a 0 0 (modByte true true false false false 0))
  | _ => none

/-- The word of an instruction; none for what is not a word. -/
def encode (i : Instr) : Option W64 :=
  match i with
  | .rep cnt sd sa sb sc => some (joinWord (fieldsOf 0x0C 0 none 0 0 0 0 (0#2 ++ cnt) (sd ++ sa ++ sb ++ sc)))
  | .pairWord s0 s1 => some (1#1 ++ encodeSlot s0 ++ encodeSlot s1 ++ 0#1)
  | i => (encodeFields i).map joinWord

/-- The bytes of a word as memory holds them (R14). -/
def bytesOfWord (w : W64) : List Byte := (List.range 8).map (fun i => w.extractLsb' (8 * i) 8)

/-- The instruction that the decoder reads from a table row's word; the bits above `nbits` are zero. -/
def decodeTableWord (nbits w : Nat) : Option Instr :=
  match decodeBytes (bytesOfWord (BitVec.ofNat 64 (w % 2 ^ nbits))) with
  | .ok (i, _) => some i
  | .error _ => none

end Sys2Proof
end

