-- ==== Sys2Proof/Machine/Operands.lean ====
section
/-! DEFINITION. Operands: how a lane reads and writes registers by type (05 R111, R112), guards (03 R69), and the
registers that each word names, with their limits (03 R71, R77 check 4; 01 R28, R29; 09 R196, R202; 10 R230). -/

namespace Sys2Proof

open Machine

/-! ### Guards -/

/-- R69: whether a lane of the run takes part. -/
def Machine.guardHolds (G : Gang) (g : Grd) (lane : Nat) : Bool :=
  match g with
  | none => true
  | some x => G.readK lane x.k.toNat != x.neg

/-- R23, R69: the lanes of the issuing run whose guard holds, in increasing order. -/
def Machine.State.active (s : State) (g : Grd) : List Nat := s.runLanes.filter (guardHolds s.curGang g)

/-! ### Values -/

/-- The low `w` bits of `x`, read as two's complement or as natural. -/
def Machine.readBits (w : Nat) (signed : Bool) (x : W64) : Int :=
  let y : BitVec w := x.setWidth w
  if signed then y.toInt else y.toNat

/-- The register or pair that an operand names, for a lane; a vector operand is a pair when `wide`. -/
def Machine.Gang.rawOpd (G : Gang) (o : Opd) (wide : Bool) (lane : Nat) : W64 :=
  if o.sc then G.readS o.n.toNat
  else if wide then G.readPair lane o.n.toNat else (G.readV lane o.n.toNat).setWidth 64

/-- R111: ReadOp. -/
def Machine.Gang.readOp (G : Gang) (o : Opd) (t : ITy) (lane : Nat) : Int := readBits t.width t.signed (G.rawOpd o t.wide lane)

/-- An operand's 32-bit value: a scalar supplies its low 32 bits (R120, R133). -/
def Machine.Gang.read32 (G : Gang) (o : Opd) (lane : Nat) : W32 :=
  if o.sc then (G.readS o.n.toNat).setWidth 32 else G.readV lane o.n.toNat

/-- R111: the bits q[w−1:0], extended by the type's signedness. -/
def Machine.extendRes (t : ITy) (q : Int) : W64 :=
  let x := BitVec.ofInt t.width q
  if t.signed then x.signExtend 64 else x.setWidth 64

/-- Write a 64-bit result to a scalar register, a pair, or (its low half) a single vector register. -/
def Machine.Gang.writeRaw (G : Gang) (d : Opd) (wide : Bool) (lane : Nat) (x : W64) : Gang :=
  if d.sc then G.writeS d.n.toNat x
  else if wide then G.writePair lane d.n.toNat x else G.writeV lane d.n.toNat (x.setWidth 32)

/-- R111: WriteRes. -/
def Machine.Gang.writeRes (G : Gang) (d : Opd) (t : ITy) (lane : Nat) (q : Int) : Gang :=
  G.writeRaw d t.wide lane (extendRes t q)

def ITy.minVal (t : ITy) : Int := if t.signed then -(2 ^ (t.width - 1)) else 0
def ITy.maxVal (t : ITy) : Int := if t.signed then 2 ^ (t.width - 1) - 1 else 2 ^ t.width - 1
/-- R111: Saturate. -/
def Machine.saturate (t : ITy) (q : Int) : Int := if q < t.minVal then t.minVal else if t.maxVal < q then t.maxVal else q

/-! ### Lanes that read other lanes (R129, R130) -/

/-- R129: the lane that a lane reads, as an index that may lie outside the gang. -/
def Machine.shflSource (mode : ShflMode) (gw j n : Nat) : Int :=
  match mode with
  | .at => ((n % gw : Nat) : Int)
  | .lower => (j : Int) - n
  | .upper => (j : Int) + n
  | .mirror => ((Nat.xor j (n % gw) : Nat) : Int)

/-- R129: whether the value comes from the lane that the mode names, and the lane that it comes from. -/
def Machine.Gang.shflOk (G : Gang) (act : List Nat) (mode : ShflMode) (b : Opd) (l : Nat) : Bool :=
  let src := shflSource mode G.width l (G.read32 b l).toNat
  decide (0 ≤ src) && act.elem src.toNat
def Machine.Gang.shflLane (G : Gang) (act : List Nat) (mode : ShflMode) (b : Opd) (l : Nat) : Nat :=
  if G.shflOk act mode b l then (shflSource mode G.width l (G.read32 b l).toNat).toNat else l

/-- R130: the lane that `bcast` and `vrd` read, active or not. -/
def Machine.Gang.lanePick (G : Gang) (b : BitVec 8) : Nat := (G.readS b.toNat).toNat % G.width

/-- R131: the immediate of an arithmetic or compare form. -/
def Machine.immArith (t : ITy) (imm : BitVec 24) : Int := if t.signed then imm.toInt else imm.toNat

/-! ### The registers a word names -/

/-- A register operand with its shape. `run` and `srun` are consecutive registers without alignment. -/
inductive Machine.Ref where
  | v (n : Nat) | pair (n : Nat) | quad (n : Nat) | run (n k : Nat)
  | s (n : Nat) | srun (n k : Nat)
  | k (n : Nat) | m (n : Nat) | f (n : Nat) | t (n : Nat) | c (n : Nat) | bar (n : Nat)
  deriving DecidableEq, Repr

/-- R28, R29, R71, R149, R196, R202, R230, R328, R365: check 4 of R77. -/
def Machine.Ref.legal (L : Launch) (G : Gang) : Ref → Bool
  | .v n => decide (n < G.vbnd)
  | .pair n => decide (n % 2 = 0) && decide (n + 1 < G.vbnd)
  | .quad n => decide (n % 4 = 0) && decide (n + 3 < G.vbnd)
  | .run n cnt => decide (n + cnt ≤ G.vbnd)
  | .s n => decide (n < 64)
  | .srun n cnt => decide (n + cnt ≤ 64)
  | .k n => decide (n < 16)
  | .m n => decide (n < 12)
  | .f n => decide (n < 16)
  | .t n => decide (n < 8) && decide (n < L.tiles)
  | .c n => decide (n < usableAccs L G)
  | .bar n => decide (n < 16) && decide (n < L.bars)

/-- The atomic registers of an operand, as the window rules name them (R83, R84). -/
def Machine.Ref.regs : Ref → List Reg
  | .v n => [.v n]
  | .pair n => [.v n, .v (n + 1)]
  | .quad n => [.v n, .v (n + 1), .v (n + 2), .v (n + 3)]
  | .run n cnt => (upto cnt).map (fun i => .v (n + i))
  | .s n => [.s n]
  | .srun n cnt => (upto cnt).map (fun i => .s (n + i))
  | .k n => [.k n]
  | .m n => [.m n]
  | .f n => [.f n]
  | .t n => [.t n]
  | .c n => [.c n]
  | .bar _ => []

def Opd.ref (o : Opd) (wide : Bool) : Ref := if o.sc then .s o.n.toNat else if wide then .pair o.n.toNat else .v o.n.toNat
def Machine.vr (n : BitVec 8) (wide : Bool) : Ref := if wide then .pair n.toNat else .v n.toNat
def Machine.sr (n : BitVec 8) : Ref := .s n.toNat

def Machine.refs2 (t : ITy) (d a : Opd) : List Ref := [d.ref t.wide, a.ref t.wide]
def Machine.refs3 (t : ITy) (d a b : Opd) : List Ref := [d.ref t.wide, a.ref t.wide, b.ref t.wide]
/-- An immediate form, vector or scalar by opcode (R131). -/
def Machine.refsImm (sc : Bool) (t : ITy) (d a : BitVec 8) : List Ref := [Opd.ref ⟨sc, d⟩ t.wide, Opd.ref ⟨sc, a⟩ t.wide]
def Machine.refsF (d : BitVec 8) (l : List Opd) : List Ref := .v d.toNat :: l.map (fun o => o.ref false)

/-- R152, R153: the data register and the base of a memory word. -/
def MemOp.baseRef (m : MemOp) : Ref :=
  if m.bv then (if m.sp == .glob then .pair m.base.toNat else .v m.base.toNat) else .s m.base.toNat
def MemOp.dataRef (m : MemOp) : Ref := vr m.d (m.sz == .d)
def Machine.refsM (m : MemOp) : List Ref := [m.dataRef, m.baseRef]
def Machine.refsMS (m : MemOp) : List Ref := [sr m.d, m.baseRef]

/-- R237: the address operand of a wait: global a pair or scalar, scratch one register or scalar. -/
def Machine.waitRef (scr : Bool) (a : Opd) : Ref := a.ref (!scr)

def Machine.cvtWide (t : Option ITy) : Bool := t == some .i64 || t == some .n64

/-- The vector registers and predicates of a slot (R79). -/
def Slot.refs (x : Slot) : List Ref :=
  match x with
  | .nop => []
  | .pmov d b => [.k d.toNat, .k b.toNat] | .plopAnd d b => [.k d.toNat, .k b.toNat]
  | .plopOr d b => [.k d.toNat, .k b.toNat] | .plopXor d b => [.k d.toNat, .k b.toNat]
  | x => .v x.parts.2.1.toNat :: x.reads.map .v

/-- Every register operand of a word, sources and destinations, the destination first. Of a ring, the word names the first tile (notes/assumptions/57.md). -/
def Instr.refs (i : Instr) : List Ref :=
  match i with
  | .brx _ a => [a.ref true]
  | .callv _ a => [a.ref true]
  | .join _ d => [.m d.toNat]
  | .leave _ d => [.m d.toNat]
  | .waitm _ a => [.m a.toNat]
  | .mset _ all d a => .m d.toNat :: (if all then [] else [sr a])
  | .mmov _ d a => [if d.sc then .s d.n.toNat else .m d.n.toNat, .m a.toNat]
  | .mand _ d a b => [.m d.toNat, .m a.toNat, .m b.toNat]
  | .mor _ d a b => [.m d.toNat, .m a.toNat, .m b.toNat]
  | .mpop _ d a => [sr d, .m a.toNat]
  | .mfromk _ d a => [.m d.toNat, .k a.toNat]
  | .pairWord s0 s1 => s0.refs ++ s1.refs
  | .iadd _ t d a b => refs3 t d a b
  | .isub _ t d a b => refs3 t d a b
  | .iaddsat _ t d a b => refs3 t d a b
  | .isubsat _ t d a b => refs3 t d a b
  | .imul _ t d a b => refs3 t d a b
  | .imulh _ t d a b => refs3 t d a b
  | .imad _ t d a b c => refs3 t d a b ++ [c.ref t.wide]
  | .idiv _ t d a b => refs3 t d a b
  | .irem _ t d a b => refs3 t d a b
  | .imin _ t d a b => refs3 t d a b
  | .imax _ t d a b => refs3 t d a b
  | .iabs _ t _ d a => refs2 t d a
  | .ineg _ t _ d a => refs2 t d a
  | .and _ t d a b => refs3 t d a b
  | .or _ t d a b => refs3 t d a b
  | .xor _ t d a b => refs3 t d a b
  | .not _ t d a => refs2 t d a
  | .andn _ t d a b => refs3 t d a b
  | .shl _ t d a b => refs2 t d a ++ [b.ref false]
  | .shr _ t d a b => refs2 t d a ++ [b.ref false]
  | .sar _ t d a b => refs2 t d a ++ [b.ref false]
  | .rotl _ t d a b => refs2 t d a ++ [b.ref false]
  | .bfx _ t d a b c => refs2 t d a ++ [b.ref false, c.ref false]
  | .bfi _ t d a b c => refs2 t d a ++ [b.ref false, c.ref false]
  | .popc _ t d a => [d.ref false, a.ref t.wide]
  | .clz _ t d a => [d.ref false, a.ref t.wide]
  | .ctz _ t d a => [d.ref false, a.ref t.wide]
  | .brev _ t d a => refs2 t d a
  | .bswap _ t d a => refs2 t d a
  | .sel _ t d a b c => [vr d t.wide, a.ref t.wide, b.ref t.wide, .k c.toNat]
  | .mov _ t d a => refs2 t d a
  | .lea _ t d a b _ => [d.ref true, a.ref true, b.ref t.wide]
  | .movi _ d _ => [d.ref false]
  | .movh _ d _ => [d.ref true]
  | .icmp _ _ t d a b => [.k d.toNat, a.ref t.wide, b.ref t.wide]
  | .plop _ _ d a b => [.k d.toNat, .k a.toNat, .k b.toNat]
  | .pmov _ _ d a => [.k d.toNat, .k a.toNat]
  | .vote _ _ d a => [.k d.toNat, .k a.toNat]
  | .ballot _ d a => [sr d, .k a.toNat]
  | .shfl _ _ t d a b p => [vr d t.wide, vr a t.wide, b.ref false] ++ (p.map (fun k => Ref.k k.toNat)).toList
  | .idp4 _ _ _ d a b c => [d.ref false, a.ref false, b.ref false, c.ref false]
  | .idp8 _ _ d a b c => [d.ref false, a.ref false, b.ref false, c.ref false]
  | .bcast _ t d a b => [vr d t.wide, vr a t.wide, sr b]
  | .vrd _ t d a b => [sr d, vr a t.wide, sr b]
  | .iaddImm _ sc t d a _ => refsImm sc t d a
  | .isubImm _ sc t d a _ => refsImm sc t d a
  | .imulImm _ sc t d a _ => refsImm sc t d a
  | .iminImm _ sc t d a _ => refsImm sc t d a
  | .imaxImm _ sc t d a _ => refsImm sc t d a
  | .andImm _ sc t d a _ => refsImm sc t d a
  | .orImm _ sc t d a _ => refsImm sc t d a
  | .xorImm _ sc t d a _ => refsImm sc t d a
  | .shlImm _ sc t d a _ => refsImm sc t d a
  | .shrImm _ sc t d a _ => refsImm sc t d a
  | .sarImm _ sc t d a _ => refsImm sc t d a
  | .rotlImm _ sc t d a _ => refsImm sc t d a
  | .icmpImm _ sc _ t d a _ => [.k d.toNat, Opd.ref ⟨sc, a⟩ t.wide]
  | .fadd _ _ d a b => refsF d [a, b]
  | .fsub _ _ d a b => refsF d [a, b]
  | .fmul _ _ d a b => refsF d [a, b]
  | .ffma _ _ d a b c => refsF d [a, b, c]
  | .fmin _ d a b => refsF d [a, b]
  | .fmax _ d a b => refsF d [a, b]
  | .fcmp _ _ d a b => [.k d.toNat, a.ref false, b.ref false]
  | .fclass _ d a => refsF d [a]
  | .frnd _ _ d a => refsF d [a]
  | .fcvt _ _ _ _ d a => refsF d [a]
  | .f2i _ _ dst _ d a => [vr d (cvtWide dst), a.ref false]
  | .i2f _ _ src _ d a => [.v d.toNat, a.ref (cvtWide src)]
  | .hxadd _ _ d a b => refsF d [a, b]
  | .hxmul _ _ d a b => refsF d [a, b]
  | .hxfma _ _ d a b c => refsF d [a, b, c]
  | .bxadd _ _ d a b => refsF d [a, b]
  | .bxmul _ _ d a b => refsF d [a, b]
  | .bxfma _ _ d a b c => refsF d [a, b, c]
  | .fdp2 _ _ _ d a b c => refsF d [a, b, c]
  | .frcp _ _ d a => refsF d [a]
  | .frsq _ _ d a => refsF d [a]
  | .fsqrt _ _ _ d a => refsF d [a]
  | .fexp2 _ _ d a => refsF d [a]
  | .flog2 _ _ d a => refsF d [a]
  | .fsin _ _ d a => refsF d [a]
  | .fcos _ _ d a => refsF d [a]
  | .ftanh _ _ d a => refsF d [a]
  | .fscale _ _ d a b => refsF d [a, b]
  | .fgetexp _ d a => refsF d [a]
  | .gpack _ _ d a => [.v d.toNat, .quad a.toNat]
  | .gunpack _ d a => [.quad d.toNat, a.ref false]
  | .ld _ _ m => refsM m
  | .ldSigned _ _ m => refsM m
  | .st _ m => refsM m
  | .ldv _ _ m => refsM m
  | .stv _ m => refsM m
  | .lds _ _ m => refsMS m
  | .ldsSigned _ _ m => refsMS m
  | .sts _ m => refsMS m
  | .gath _ _ m => refsM m
  | .gathSigned _ _ m => refsM m
  | .scat _ m => refsM m
  | .prf _ m => [m.baseRef]
  | .xst _ m => refsM m
  | .barSync _ n cnt => .bar n.toNat :: (cnt.map sr).toList
  | .barArv _ n cnt => .bar n.toNat :: (cnt.map sr).toList
  | .barWait _ n => [.bar n.toNat]
  | .barBytes _ n b => [.bar n.toNat, sr b]
  | .waitA _ wide scr a b => [waitRef scr a, b.ref wide]
  | .waitT _ wide scr d a b c => [.k d.toNat, waitRef scr a, b.ref wide, sr c]
  | .atom32 _ _ op _ _ _ d a b c => [d.ref false, a.ref true, b.ref false] ++ (if op == .cas then [c.ref false] else [])
  | .atom64 _ _ op _ _ _ d a b c => [d.ref true, a.ref true, b.ref true] ++ (if op == .cas then [c.ref true] else [])
  | .cpGs _ _ a b c x => [sr a, sr b, sr c] ++ (x.map sr).toList
  | .cpSg _ _ a b c x => [sr a, sr b, sr c] ++ (x.map sr).toList
  | .cpGg _ _ a b c x => [sr a, sr b, sr c] ++ (x.map sr).toList
  | .cpFence _ _ _ x => (x.map sr).toList
  | .cpPoll _ d => [sr d]
  | .lfillBar _ n a b => [.bar n.toNat, sr a, sr b]
  | .lfillTok _ d a b c => [sr d, sr a, sr b, sr c]
  | .tcfg _ d a => [.t d.toNat, sr a]
  | .tld _ _ sc d a b c => [.t d.toNat, sr a, sr b] ++ (if sc then [sr c] else [])
  | .tldg _ _ sc bar d a b c =>
    [.t d.toNat, sr a, sr b] ++ (if sc then [sr c] else []) ++ (bar.map (fun n => Ref.bar n.toNat)).toList
  | .tst _ sc d a b c => [.t d.toNat, sr a, sr b] ++ (if sc then [sr c] else [])
  | .tzero _ d => [.t d.toNat]
  | .tmov _ _ d a b => [.t d.toNat, .v a.toNat, sr b]
  | .mma _ _ _ _ d ta tb f k => [.c d.toNat, .t ta.toNat, .t tb.toNat, .v f.toNat, sr k]
  | .mmap _ _ _ _ _ d ta tb f k => [.c d.toNat, .t ta.toNat, .t tb.toNat, .v f.toNat, sr k]
  | .mmac _ _ a => [sr a]
  | .czero _ d => [.c d.toNat]
  | .cmov _ d a _ => [.v d.toNat, .c a.toNat]
  | .cmovIn _ d a _ => [.c d.toNat, .v a.toNat]
  | .vbnd _ a => [sr a]
  | .atest _ d => [sr d]
  | .sread _ dk d _ => [match dk with | .vec => .v d.toNat | .pair => .pair d.toNat | .scalar => .s d.toNat]
  | .swrite _ dk a _ => [match dk with | .vec => .v a.toNat | .pair => .pair a.toNat | .scalar => .s a.toNat]
  | .ctxSave _ a => [sr a]
  | .ctxLoad _ a => [sr a]
  | .cbar _ d => [.k d.toNat]
  | .xpoll _ d => [sr d]
  | .acc _ op a b => [a.ref true, b.ref (op == .addI64)]
  | .accv _ _ a b => [a.ref true, .run b.toNat 4]
  | .accProbe _ _ d a => [sr d, sr a]
  | .futSpawn _ d a b n => [.f d.toNat, sr a, .srun b.toNat n.toNat]
  | .futDup _ d a => [.f d.toNat, .f a.toNat]
  | .futDrop _ d => [.f d.toNat]
  | .futSelf _ d => [sr d]
  | .futGet _ _ d a n => [.srun d.toNat n.toNat, .f a.toNat]
  | .futPoll _ d a => [.k d.toNat, .f a.toNat]
  | .futPark _ a b => [sr a, .f b.toNat]
  | .futUnpark _ d a => [.f d.toNat, sr a]
  | .futRet _ a n => [.srun a.toNat n.toNat]
  | .enRead _ d _ => [sr d]
  | .enMark _ a => [sr a]
  | .vfReq _ d a => [sr d, sr a]
  | .vfStat _ d => [sr d]
  | .collRed _ _ d a b c => [sr d, sr a, sr b, sr c]
  | .collBcast _ d a b c => [sr d, sr a, sr b, sr c]
  | .collWait _ d a => [sr d, sr a]
  | _ => []

/-- The guard of a word. -/
def Instr.grd (i : Instr) : Grd :=
  match encodeFields i with
  | some f => f.grd
  | none => none

/-- R86: the words that end every open window of the issuing lanes. -/
def Instr.endsWindow (i : Instr) : Bool :=
  match i with
  | .call _ _ => true | .callv _ _ => true | .ret _ => true | .exit _ => true | .waitm _ _ => true | .yield _ => true
  | .barSync _ _ _ => true | .barArv _ _ _ => true | .barWait _ _ => true | .barBytes _ _ _ => true
  | .waitA _ _ _ _ _ => true | .waitT _ _ _ _ _ _ _ => true | .xbar _ => true | .cbar _ _ => true
  | .collWait _ _ _ => true | .accFlush _ _ => true | .trap _ _ => true | .brk _ _ => true | .rfe _ _ => true
  | .ctxSave _ _ => true | .ctxLoad _ _ => true
  | _ => false

/-- R382, R385: the words that access memory, or order accesses of it. -/
def Instr.isAccess (i : Instr) : Bool :=
  match i with
  | .ld _ _ _ => true | .ldSigned _ _ _ => true | .st _ _ => true | .ldv _ _ _ => true | .stv _ _ => true | .lds _ _ _ => true
  | .ldsSigned _ _ _ => true | .sts _ _ => true | .gath _ _ _ => true | .gathSigned _ _ _ => true | .scat _ _ => true
  | .xst _ _ => true | .atom32 _ _ _ _ _ _ _ _ _ _ => true | .atom64 _ _ _ _ _ _ _ _ _ _ => true | .acc _ _ _ _ => true
  | .accv _ _ _ _ => true | .lfillBar _ _ _ _ => true | .lfillTok _ _ _ _ _ => true | .tld _ _ _ _ _ _ _ => true
  | .tst _ _ _ _ _ _ => true | .mmac _ _ _ => true | .fence _ _ => true | .cpGs _ _ _ _ _ _ => true | .cpSg _ _ _ _ _ _ => true
  | .cpGg _ _ _ _ _ _ => true | .cpFence _ _ _ _ => true | .tldg _ _ _ _ _ _ _ _ => true | .futSpawn _ _ _ _ _ => true | .futPark _ _ _ => true
  | .futUnpark _ _ _ => true | .collRed _ _ _ _ _ _ => true | .collBcast _ _ _ _ _ => true
  | _ => false

/-- R77 check 6: the words that only privileged code may issue (R223, R267). -/
def Instr.privileged (i : Instr) : Bool :=
  match i with
  | .atest _ _ => true | .ctxSave _ _ => true | .ctxLoad _ _ => true
  | _ => false

/-- The rows of the opcode table that are instruction words. -/
def Instr.isWord (i : Instr) : Bool :=
  match i with
  | .rep _ _ _ _ _ => true | .pairWord _ _ => true
  | i => (encodeFields i).isSome

end Sys2Proof
end

