-- ==== Sys2Proof/Machine/Mem.lean ====
section
/-! DEFINITION. Memory: bytes by physical address, words built from bytes in one place (00 R14), home slices (14 R308),
partitions and contexts (20 R414 to R416), two-stage translation (20 R422 to R426), page requests (20 R429 to R432) and
interrupt messages (20 R434, R435). -/

namespace Sys2Proof.Machine

/-! ### Bytes and words -/

/-- The canonical form of a memory: addresses strictly rising, and no entry equal to 0, which is what an unlisted byte
reads as (the cold-start scrub writes zeros, R492, R496). -/
abbrev Memory.wf (m : List Host.Cell) : Prop := twf (0 : Byte) m = true

/-- One byte of a table of bytes. -/
def readByte (m : Tbl Byte) (a : Nat) : Byte := tget 0 m a
def writeByte (m : Tbl Byte) (a : Nat) (x : Byte) : Tbl Byte := tset 0 m a x

/-- `n` bytes from an address. -/
def readBytes (m : Tbl Byte) (a n : Nat) : List Byte := (upto n).map (fun i => readByte m (a + i))
/-- Bytes to an address, the first lowest. -/
def writeBytes (m : Tbl Byte) : Nat → List Byte → Tbl Byte
  | _, [] => m
  | a, b :: t => writeBytes (writeByte m a b) (a + 1) t

/-- R14: the number that bytes hold, little-endian. -/
def numOfBytes : List Byte → Nat
  | [] => 0
  | b :: t => b.toNat + 256 * numOfBytes t
/-- R14: the low `n` bytes of a number. -/
def bytesOfNum : Nat → Nat → List Byte
  | 0, _ => []
  | n + 1, x => BitVec.ofNat 8 x :: bytesOfNum n (x / 256)

def readNum (m : Tbl Byte) (a n : Nat) : Nat := numOfBytes (readBytes m a n)
def writeNum (m : Tbl Byte) (a n x : Nat) : Tbl Byte := writeBytes m a (bytesOfNum n x)

/-! ### Geography -/

/-- R308: die, slice and set of the home of a physical address. -/
def homeSlice (pa : Nat) : Nat × Nat × Nat :=
  let g := pa / 4096 % 2 ^ 30
  let ch := g % 768
  let die := ch / 64 / 3
  let slice := Nat.xor (pa / 128 % 32) (ch % 32)
  (die, slice, (g / 768 * 192 + ch % 192) % 2048)

/-- The package number of a home slice: 32 × die + slice. -/
def homeOf (pa : Nat) : Nat := (homeSlice pa).1 * 32 + (homeSlice pa).2.1

/-- The 128-byte line of an address (R15). -/
def lineOf (a : Nat) : Nat := a / 128

/-- R40: this package's number. -/
def State.package (s : State) : Nat := s.pkgid.toNat % 1024

/-- R413: physical addresses of this package's memory. -/
def State.isLocal (s : State) (pa : Nat) : Bool := decide (pa / 2 ^ 42 = s.package)
def isMemory (pa : Nat) : Bool := decide (pa % 2 ^ 42 < 0xC000000000)

/-- R415: the fields of PARTCFG. -/
def Part.enabled (P : Part) : Bool := P.cfg.getLsbD 63
def Part.borrows (P : Part) : Bool := P.cfg.getLsbD 49
def Part.lends (P : Part) (q : Nat) : Bool := P.cfg.getLsbD (32 + q)
def Part.ctxBase (P : Part) : Nat := (P.cfg.extractLsb' 16 8).toNat
def Part.ctxCount (P : Part) : Nat := (P.cfg.extractLsb' 24 8).toNat
def Part.hasQuarter (P : Part) (q : Nat) : Bool := P.cfg.getLsbD q
def Part.hasCtx (P : Part) (c : Nat) : Bool := decide (P.ctxBase ≤ c ∧ c < P.ctxBase + P.ctxCount)
/-- R415: extent e belongs to the partition. -/
def Part.hasExtent (P : Part) (e : Nat) : Bool := (tget 0 P.ext (e / 64)).getLsbD (e % 64)
/-- The partition's extents in increasing number (R425). -/
def Part.extents (P : Part) : List Nat := (upto 768).filter P.hasExtent

/-- R416: the partition whose range holds a context; 16 if none does. -/
def State.partOf (s : State) (c : Nat) : Nat := ((upto 16).find? (fun p => (s.part p).hasCtx c)).getD 16
/-- R414: the partition that owns a quarter. -/
def State.ownerOf (s : State) (q : Nat) : Option Nat := (upto 16).find? (fun p => (s.part p).hasQuarter q)
/-- R414: partition p is served by function p + 1. -/
def fnOfPart (p : Nat) : Nat := p + 1

/-! ### Messages (R434, R435) -/

/-- Whether a vector of a function may send its message. -/
def Func.msixOpen (F : Func) (vec : Nat) : Bool := F.msixOn && !F.msixHeld && !F.msixMask.getLsbD vec

/-- The message of a vector: the function, the vector, and the address and data of its table entry. -/
def State.sendMsg (s : State) (fn vec : Nat) : State :=
  let E := tget {} (s.func fn).msixTab vec
  { s with msgs := s.msgs ++ [(fn, vec, E.addr, E.data)] }

/-- Signal a vector of a function: a message, or the pending bit of a masked vector. -/
def State.signal (s : State) (fn vec : Nat) : State :=
  if (s.func fn).msixOpen vec then s.sendMsg fn vec
  else s.modFunc fn (fun F => { F with msixPend := F.msixPend ||| (1#64 <<< vec) })

/-- The host is told something of a context on vector 1 of its partition's function. -/
def State.tellHost (s : State) (c : Nat) (n : Notice) : State :=
  let fn := fnOfPart (s.partOf c)
  ({ s with notices := s.notices ++ [(fn, c, n)] } : State).signal fn 1

/-! ### Host memory and record rings (R431, R466, R500, R555) -/

/-- R468: the key of a byte of host memory, under the bus addresses of a function. -/
def busKey (fn a : Nat) : Nat := fn * 2 ^ 65 + a

/-- Bytes to host memory at a bus address of a function. -/
def State.hostPut (s : State) (fn a : Nat) (bs : List Byte) : State := { s with host := writeBytes s.host (busKey fn a) bs }
def State.hostBytes (s : State) (fn a n : Nat) : List Byte := readBytes s.host (busKey fn a) n
def State.hostNum (s : State) (fn a n : Nat) : Nat := readNum s.host (busKey fn a) n

/-- The place of the record at a ring position. -/
def RecRing.slot (R : RecRing) (size pos : Nat) : Nat := R.base.toNat + size * (pos % 2 ^ R.log2n)

/-- R470: the waiting records that a ring has room for: every slot of it once, and then as the host has drained it
(notes/assumptions/67.md). -/
def RecRing.room (R : RecRing) (now : Nat) : Nat → List (List Byte) → Nat
  | _, [] => 0
  | n, _ :: t => if R.pos + n < 2 ^ R.log2n ∨ Config.ringRoom now (R.pos + n) then R.room now (n + 1) t + 1 else 0

/-- The first waiting records of a ring of a function are written in order; the flag tells whether any was. -/
def State.ringOut (s : State) (fn size : Nat) (R : RecRing) (n : Nat) : State × RecRing × Bool :=
  if R.en && decide (0 < n) then
    let s1 := ((upto n).zip R.waiting).foldl (fun s q => s.hostPut fn (R.slot size (R.pos + q.1)) q.2) s
    (s1, { R with pos := R.pos + n, waiting := R.waiting.drop n }, true)
  else (s, R, false)

/-- R500: waiting error records reach the error ring, then vector 1 of function 0 is signalled. -/
def State.flushErr (s : State) : State :=
  match s.ringOut 0 32 s.errRing s.errRing.waiting.length with
  | (s1, R, true) => ({ s1 with errRing := R } : State).signal 0 1
  | (_, _, false) => s

/-- R466: waiting meter records reach a function's meter ring, then its vector 2 is signalled. -/
def State.flushMtr (s : State) (fn : Nat) : State :=
  let R := (s.func fn).mtr
  match s.ringOut fn 1536 R (R.room s.time 0 R.waiting) with
  | (s1, R, true) => (s1.modFunc fn (fun F => { F with mtr := R })).signal fn 2
  | (_, _, false) => s

/-- R431, R555: the record of a page request, with the ring phase; a virtual address is whole, with its bits 63 to 57 (R156). -/
def PageReq.bytes (r : PageReq) (phase : Bool) : List Byte :=
  bytesOfNum 8 (if r.s2 then r.page else (BitVec.signExtend 64 (BitVec.ofNat 57 r.page)).toNat) ++ bytesOfNum 2 r.id ++ [BitVec.ofNat 8 r.ctx, r.flags ||| (if phase then 0x80 else 0)] ++ bytesOfNum 4 0 ++
    bytesOfNum 8 r.time ++ bytesOfNum 8 0

/-- R555: the oldest waiting page request of a function gets its place in the ring, if the ring has one for it. -/
def State.flushPrqOne (s : State) (fn : Nat) : State :=
  let R := (s.func fn).prq
  let n := 2 ^ R.log2n
  match s.prqWait.find? (fun r => decide (r.fn = fn)) with
  | none => s
  | some r =>
    let blocked := s.prqs.any (fun q => decide (q.fn = fn) && (match q.pos with
      | some m => decide (m + n ≤ R.pos)
      | none => false))
    if !R.en || blocked then s
    else
      let s1 := s.hostPut fn (R.slot 32 R.pos) (r.bytes (decide (R.pos / n % 2 = 0)))
      let s2 := { s1 with prqWait := s1.prqWait.filter (fun (q : PageReq) => decide (q.id ≠ r.id)),
                          prqs := s1.prqs.map (fun (q : PageReq) => if q.id = r.id then { q with pos := some R.pos } else q) }
      (s2.modFunc fn (fun F => { F with prq := { F.prq with pos := R.pos + 1 } })).signal fn 0
def State.flushPrq (s : State) (fn : Nat) : State := (upto s.prqWait.length).foldl (fun s _ => s.flushPrqOne fn) s

/-! ### Translation (R422 to R428) -/

/-- How a translation ends. `missing` carries the page, whether stage 2 missed, and whether a request is possible. -/
inductive Trans where
  | ok (pa : Nat)
  | missing (page : Nat) (s2 : Bool) (ask : Bool)
  | denied (isolation : Bool)
  deriving DecidableEq, Repr

/-- R425: what an access needs at a page with the given rights. -/
def rightsOk (acc : Access) (r w x : Bool) : Bool :=
  match acc with
  | .read => r
  | .write => w
  | .readWrite => r && w
  | .exec => x
  | .probe => true

def accWrites : Access → Bool
  | .write => true
  | .readWrite => true
  | _ => false

/-- R425 step 5: S pages and levels. -/
def levelOk (acc : Access) (sup : Bool) (level : Nat) : Bool :=
  decide (acc = .probe) || (if level = 2 then (decide (acc ≠ .exec) || sup) else !sup)

/-- R423: fields of a table entry. -/
def pteValid (e : W64) : Bool := e.getLsbD 0
def pteLeaf (e : W64) : Bool := e.getLsbD 1
def pteAddr (e : W64) : Nat := (e.extractLsb' 12 40).toNat * 4096
/-- R423: a valid entry that breaks a "must". -/
def pteMalformed (stage2 : Bool) (level : Nat) (e : W64) : Bool :=
  e.extractLsb' 52 12 != 0 || e.extractLsb' 9 3 != 0 ||
  (pteLeaf e && decide (2 < level)) || (!pteLeaf e && decide (level = 0)) ||
  (pteLeaf e && stage2 && e.getLsbD 5) ||
  (pteLeaf e && decide (level = 1) && e.extractLsb' 12 9 != 0) ||
  (pteLeaf e && decide (level = 2) && e.extractLsb' 12 18 != 0)

/-- log2 of the page that a leaf maps. -/
def leafSize (level : Nat) (e : W64) : Nat :=
  if level = 2 then 30 else if level = 1 then 21 else if e.getLsbD 8 then 16 else 12

/-- The table index of an address at a level. -/
def tableIndex (level a : Nat) : Nat := a / 2 ^ (12 + 9 * level) % 512

/-- R419, R537: whether an access of a context may reach a physical address: an extent of its partition, or a window
into another package. -/
def State.paAllowed (s : State) (p pa : Nat) : Bool :=
  if s.isLocal pa then isMemory pa && (s.part p).hasExtent (pa % 2 ^ 42 / 2 ^ 30)
  else isMemory pa && (s.part p).remwin.any (fun w =>
    w.2.getLsbD 63 && decide ((w.2.extractLsb' 42 10).toNat = pa / 2 ^ 42) &&
    decide ((w.2.extractLsb' 0 10).toNat ≤ pa % 2 ^ 42 / 2 ^ 30) &&
    decide (pa % 2 ^ 42 / 2 ^ 30 ≤ (w.2.extractLsb' 10 10).toNat))

/-- R424: set A, and D for a write, in a leaf at a physical address. -/
def State.markLeaf (s : State) (pa : Nat) (e : W64) (wr : Bool) : State × W64 :=
  let e' := e ||| 0x40 ||| (if wr then 0x80 else 0)
  if e' = e then (s, e) else ({ s with mem := writeNum s.mem pa 8 e'.toNat }, e')

/-- R424: the entry that a walk uses in place of the one at `ea`, with its address: the entries of a 64 KiB group should not differ,
and where they do any valid one may be used (notes/assumptions/59.md). -/
def State.tableEntry (s : State) (stage2 : Bool) (level ea : Nat) : Nat × W64 :=
  let e : W64 := BitVec.ofNat 64 (readNum s.mem ea 8)
  let group (e : W64) : Bool := decide (level = 0) && pteValid e && e.getLsbD 8 && !pteMalformed stage2 level e
  let eb := ea / 128 * 128 + 8 * (Config.groupEntry ea s.time % 16)
  let b : W64 := BitVec.ofNat 64 (readNum s.mem eb 8)
  if group e && group b then (eb, b) else (ea, e)

/-- The outcome of a stage-2 walk: physical address, page size and rights. -/
inductive S2Res where
  | ok (pa size : Nat) (r w x d : Bool)
  | missing (ask : Bool)
  | bad
  deriving DecidableEq, Repr

/-- R422, R423: a stage-2 table walk from the table at `tbl` over the listed levels. -/
def State.walkS2 (s : State) (p ipa : Nat) (wr : Bool) : List Nat → Nat → State × S2Res
  | [], _ => (s, .bad)
  | l :: ls, tbl =>
    let q := s.tableEntry true l (tbl + 8 * tableIndex l ipa)
    let ea := q.1
    let e := q.2
    if l = 4 && decide (16 ≤ tableIndex 4 ipa) then (s, .bad)
    else if !pteValid e then (s, .missing (!(s.part p).s2ctl.getLsbD 1))
    else if pteMalformed true l e then (s, .bad)
    else if pteLeaf e then
      let z := leafSize l e
      let (s', e') := s.markLeaf ea e wr
      (s', .ok (pteAddr e / 2 ^ z * 2 ^ z + ipa % 2 ^ z) z (e.getLsbD 2) (e.getLsbD 3) (e.getLsbD 4) (e'.getLsbD 7))
    else State.walkS2 s p ipa wr ls (pteAddr e)

/-- R425: stage 2 of a partition, in tables or, with S2EN = 0, by extents. -/
def State.stage2 (s : State) (p ipa : Nat) (wr : Bool) : State × S2Res :=
  let P := s.part p
  if P.s2ctl.getLsbD 0 then
    let r := s.walkS2 p ipa wr [4, 3, 2, 1, 0] ((P.s2ctl.extractLsb' 12 40).toNat * 4096)
    match r.2 with
    | .ok pa _ _ _ _ _ => if s.paAllowed p pa then r else (r.1, .bad)
    | _ => r
  else
    match P.extents[ipa / 2 ^ 30]? with
    | some e => (s, .ok (s.package * 2 ^ 42 + e * 2 ^ 30 + ipa % 2 ^ 30) 30 true true true true)
    | none => (s, .missing false)

/-- The outcome of a whole walk. -/
inductive WalkRes where
  | ok (e : TlbEntry)
  | missing (page : Nat) (s2 ask : Bool)
  | denied (isolation : Bool)
  deriving DecidableEq, Repr

/-- R422 to R425: a stage-1 walk over the listed levels, each table address taken through stage 2. -/
def State.walkS1 (s : State) (c p va : Nat) (acc : Access) (level : Nat) : List Nat → Nat → State × WalkRes
  | [], _ => (s, .denied false)
  | l :: ls, tbl =>
    let eip := tbl + 8 * tableIndex l va
    match s.stage2 p eip false with
    | (s1, .missing ask) => (s1, .missing (eip / 4096 * 4096) true ask)
    | (s1, .bad) => (s1, .denied true)
    | (s1, .ok ea0 _ _ w1 _ _) =>
      let q := s1.tableEntry false l ea0
      let ea := q.1
      let e := q.2
      if !pteValid e then (s1, .missing (va / 4096 * 4096) false true)
      else if pteMalformed false l e then (s1, .denied false)
      else if pteLeaf e then
        let z := leafSize l e
        let ipa := pteAddr e / 2 ^ z * 2 ^ z + va % 2 ^ z
        match s1.stage2 p ipa false with
        | (s2, .missing ask) => (s2, .missing (ipa / 4096 * 4096) true ask)
        | (s2, .bad) => (s2, .denied true)
        | (s2, .ok pa z2 r w x d2) =>
          let r' := r && e.getLsbD 2
          let w' := w && e.getLsbD 3
          let x' := x && e.getLsbD 4
          let sup := e.getLsbD 5
          let upd := decide (e ||| 0x40 ||| (if accWrites acc then 0x80 else 0) ≠ e)
          if upd && !w1 then (s2, .denied true)
          else if !rightsOk acc r' w' x' || !levelOk acc sup level then (s2, .denied false)
          else
            let s3 := if upd then (s2.stage2 p eip true).1 else s2
            let (s4, e') := s3.markLeaf ea e (accWrites acc)
            let zm := min z z2
            let s5 := if accWrites acc then (s4.stage2 p ipa true).1 else s4
            (s5, .ok ⟨c, va / 2 ^ zm * 2 ^ zm, zm, pa / 2 ^ zm * 2 ^ zm, ipa / 2 ^ zm * 2 ^ zm, r', w', x', sup,
              (d2 || accWrites acc) && e'.getLsbD 7⟩)
      else State.walkS1 s1 c p va acc level ls (pteAddr e)

/-- R156: a global address is canonical when bits 63:57 all equal bit 56. -/
def canonicalVA (a : W64) : Bool := a.extractLsb' 56 8 == 0 || a.extractLsb' 56 8 == 0xFF

/-- R426: the entry of a TLB for an address of a context. -/
def tlbFind (l : List TlbEntry) (c va : Nat) : Option TlbEntry :=
  l.find? (fun e => decide (e.ctx = c) && decide (e.va ≤ va ∧ va < e.va + 2 ^ e.size))

/-- R426: an entry enters a TLB of `n` entries. Which one a full TLB gives up is not known (notes/assumptions/29.md). -/
def tlbPut (n x : Nat) (l : List TlbEntry) (e : TlbEntry) : List TlbEntry :=
  let k := l.filter (fun y => !(decide (y.ctx = e.ctx) && decide (y.va = e.va)))
  e :: (if k.length < n then k else k.eraseIdx (x % k.length))

/-- R426: the cached translation of an address: of the core's TLB, of its cluster's, or of the die's. -/
def State.tlbHit (s : State) (core c va : Nat) : Option TlbEntry :=
  (tlbFind (s.core core).tlb c va <|> tlbFind (s.cluster (clusterOfCore core)).tlb c va) <|> tlbFind (s.dieOf (dieOfCore core)).tlb c va

/-- R426: a translation that a core has used is cached in its TLB of 64 entries and in its cluster's of 1,024. -/
def State.tlbKeep (s : State) (core : Nat) (e : TlbEntry) : State :=
  if (s.core core).tlb.elem e then s
  else
    let x := (Config.freeWord s.fuel).toNat
    let cl := clusterOfCore core
    let s1 := if 64 ≤ (s.core core).tlb.length ∨ 1024 ≤ (s.cluster cl).tlb.length then { s with fuel := s.fuel + 1 } else s
    let s2 := s1.modCore core (fun C => { C with tlb := tlbPut 64 x C.tlb e })
    if (s.cluster cl).tlb.elem e then s2 else s2.modCluster cl (fun C => { C with tlb := tlbPut 1024 x C.tlb e })

/-- R426: walk and, when the walk succeeds, cache the entry in the die's shared TLB of 32,768 entries. -/
def State.walk (s : State) (die c va : Nat) (acc : Access) (level : Nat) : State × WalkRes :=
  let p := s.partOf c
  match s.walkS1 c p va acc level [4, 3, 2, 1, 0] (((s.ctx c).s1root.extractLsb' 12 40).toNat * 4096) with
  | (s1, .ok e) =>
    let s2 := if 32768 ≤ (s1.dieOf die).tlb.length then { s1 with fuel := s1.fuel + 1 } else s1
    (s2.modDie die (fun D => { D with tlb := tlbPut 32768 (Config.freeWord s1.fuel).toNat D.tlb e }), .ok e)
  | (s1, .denied true) => (s1.signal 0 1, .denied true)
  | r => r

/-- R426: a core's access that no cached entry serves is translated by its die's walker. -/
def State.walkFor (s : State) (core c a : Nat) (acc : Access) (level : Nat) : State × Trans :=
  match s.walk (dieOfCore core) c a acc level with
  | (s1, .ok e) => (s1.tlbKeep core e, .ok (e.pa + (a - e.va)))
  | (s1, .missing p z k) => (s1, .missing p z k)
  | (s1, .denied i) => (s1, .denied i)

/-- R425, R426: translate a global address for an access of a core at a handler level: a cached entry that allows the access (and
has D set if the access writes) answers; otherwise the die's walker does. -/
def State.translate (s : State) (core c : Nat) (va : W64) (acc : Access) (level : Nat) : State × Trans :=
  let a := va.toNat % 2 ^ 57
  match s.tlbHit core c a with
  | some e =>
    if !rightsOk acc e.r e.w e.x || !levelOk acc e.sup level then (s, .denied false)
    else if accWrites acc && !e.d then s.walkFor core c a acc level
    else (s.tlbKeep core e, .ok (e.pa + (a - e.va)))
  | none => s.walkFor core c a acc level

/-! ### The reads of a walk (R424, R426) -/

/-- The table entries that a stage-2 walk reads from the table at `tbl`. -/
def State.s2Trace (s : State) (ipa : Nat) : List Nat → Nat → List Nat
  | [], _ => []
  | l :: ls, tbl =>
    let q := s.tableEntry true l (tbl + 8 * tableIndex l ipa)
    let ea := q.1
    let e := q.2
    if l = 4 && decide (16 ≤ tableIndex 4 ipa) then []
    else if !pteValid e || pteMalformed true l e || pteLeaf e then [ea]
    else ea :: State.s2Trace s ipa ls (pteAddr e)
def State.stage2Trace (s : State) (p ipa : Nat) : List Nat :=
  let P := s.part p
  if P.s2ctl.getLsbD 0 then s.s2Trace ipa [4, 3, 2, 1, 0] ((P.s2ctl.extractLsb' 12 40).toNat * 4096) else []

/-- The table entries that a whole walk reads, in order. -/
def State.s1Trace (s : State) (p va : Nat) : List Nat → Nat → List Nat
  | [], _ => []
  | l :: ls, tbl =>
    let eip := tbl + 8 * tableIndex l va
    s.stage2Trace p eip ++
    (match (s.stage2 p eip false).2 with
     | .ok ea0 _ _ _ _ _ =>
       let q := s.tableEntry false l ea0
       let ea := q.1
       let e := q.2
       ea :: (if !pteValid e || pteMalformed false l e then []
         else if pteLeaf e then s.stage2Trace p (pteAddr e / 2 ^ leafSize l e * 2 ^ leafSize l e + va % 2 ^ leafSize l e)
         else State.s1Trace s p va ls (pteAddr e))
     | _ => [])
def State.walkTrace (s : State) (c va : Nat) : List Nat :=
  s.s1Trace (s.partOf c) va [4, 3, 2, 1, 0] (((s.ctx c).s1root.extractLsb' 12 40).toNat * 4096)

/-- Whether an access walks: no entry, or one that lacks D for a write. -/
def State.walks (s : State) (core c va : Nat) (acc : Access) (level : Nat) : Bool :=
  match s.tlbHit core c va with
  | some e => rightsOk acc e.r e.w e.x && levelOk acc e.sup level && accWrites acc && !e.d
  | none => true

/-! ### Page requests (R429 to R432) -/

/-- A faulting page, as a gang remembers it: the page and whether stage 2 missed. -/
abbrev PageKey := Nat × Bool

/-- R430: the entries a partition holds. -/
def State.heldPrq (s : State) (p : Nat) : Nat := (s.prqs.filter (fun r => decide (r.part = p))).length

/-- R430: TakeEntry. -/
def State.prqRoom (s : State) (p : Nat) : Bool :=
  let held := s.heldPrq p
  let shared := ((upto 16).map (fun q => s.heldPrq q - 16)).foldl (· + ·) 0
  decide (held < 16) || (decide (held < (s.part p).prqCap) && decide (shared < 3840))

/-- The lowest request id not in use. -/
def State.freePrqId (s : State) : Nat := ((upto 4096).find? (fun i => s.prqs.all (fun r => r.id != i))).getD 0

/-- R431: the flags byte of a request, without the ring phase. -/
def prqFlags (s2 : Bool) (acc : Access) (engine : Bool) : BitVec 8 :=
  (if s2 then 1 else 0) ||| (if accWrites acc then 2 else 0) ||| (if acc = .exec then 4 else 0) ||| (if engine then 8 else 0)

/-- R429 to R431: queue a request for a page, or join an outstanding one. The answer is the request's id, or none when
the partition may take no entry. The record waits for the ring (R555). -/
def State.requestPage (s : State) (c page : Nat) (s2 : Bool) (acc : Access) (engine : Bool) : State × Option Nat :=
  let p := s.partOf c
  match s.prqs.find? (fun r => decide (r.ctx = c) && decide (r.page = page) && r.s2 == s2) with
  | some r => (s, some r.id)
  | none =>
    if s.prqRoom p then
      let id := s.freePrqId
      let r : PageReq := ⟨id, if s2 then 0 else fnOfPart p, p, c, page, s2, prqFlags s2 acc engine, s.time, none⟩
      (({ s with prqs := s.prqs ++ [r], prqWait := s.prqWait ++ [r] } : State).flushPrq r.fn, some id)
    else (s, none)

end Sys2Proof.Machine
end

