-- ==== Sys2Proof/Machine/Windows.lean ====
section
/-! DEFINITION. Lookahead windows and pending results (03 R83 to R86), the end of a word (08 R178; 03 R89), and the
release of Waiting lanes (08 R171, R172). -/

namespace Sys2Proof.Machine

/-! ### Lookahead windows -/

/-- Whether some lane of a run is inside the window. -/
def Pend.openFor (p : Pend) (run : List Nat) : Bool := run.any (fun l => decide (0 < tget 0 p.left l))
/-- Whether the window, open or just passed, still binds a lane of a run. -/
def Pend.binds (p : Pend) (run : List Nat) : Bool := run.any (fun l => (tfind p.left l).isSome)
/-- Whether a lane of a run has issued every word of the window (R85). -/
def Pend.spent (p : Pend) (run : List Nat) : Bool := run.any (fun l => decide (tfind p.left l = some 0))
def Pend.names (p : Pend) (rs : List Reg) : Bool := p.regs.any (fun r => rs.elem r)

/-- The registers that a word names (R84). -/
def regsNamed (i : Instr) : List Reg := i.refs.flatMap Ref.regs

/-- R83: a word of a run counts one position for each of its lanes; `ends` closes the window (R86). A position that
is spent stays listed until the results are written (R85). -/
def Pend.counted (p : Pend) (run : List Nat) (ends : Bool) : Pend :=
  { p with left := p.left.filterMap (fun q =>
      if run.elem q.1 then
        let n := if ends then 0 else q.2 - 1
        if n = 0 && p.done then none else some (q.1, n)
      else some q) }

/-- The lanes whose window ends with this word: their flags become visible (R151). -/
def Pend.ending (p : Pend) (run : List Nat) (ends : Bool) : List Nat :=
  run.filter (fun l => let n := tget 0 p.left l; decide (n = 1) || (ends && decide (0 < n)))

def Pend.over (p : Pend) : Bool := p.done && p.left.isEmpty

def Gang.countWindows (G : Gang) (run : List Nat) (ends : Bool) : Gang :=
  let G1 := G.pend.foldl (fun G p => G.eachLane (p.ending run ends) (fun G l => G.orFstat l (tget 0 p.flags l))) G
  { G1 with pend := (G.pend.map (fun p => p.counted run ends)).filter (fun p => !p.over) }

def Gang.applyWrite (G : Gang) (w : RegWrite) : Gang :=
  match w with
  | .v l r x => G.writeV l r x
  | .s r x => G.writeS r x
def Gang.applyWrites (G : Gang) (ws : List RegWrite) : Gang := ws.foldl Gang.applyWrite G

/-- The results of a long-latency instruction are written (R83, R85). -/
def Gang.complete (G : Gang) (id : Nat) : Gang :=
  match G.pend.find? (fun p => decide (p.id = id)) with
  | none => G
  | some p =>
    { G.applyWrites p.writes with
      pend := (G.pend.map (fun q => if q.id = id then { q with done := true, writes := [], left := q.left.filter (fun x => decide (x.2 ≠ 0)) } else q)).filter
        (fun q => !q.over) }

/-! ### The end of a word -/

/-- R178, R83: the lanes of the run move on, and the word counts in their windows. Inside a `rep` sequence a
repetition adds one to PIDX and counts nothing, though it may end windows (R86); the last one moves the lanes past the
prefixed word (R89). -/
def Gang.closeWord (G : Gang) (run : List Nat) (ends : Bool) (nextPc : Nat → W64) : Gang :=
  match G.prog with
  | some (.rep cnt _ _ _ _ _) =>
    if G.pidx.toNat + 1 < cnt then
      let G1 : Gang := { G with pidx := G.pidx + 1, failed := [] }
      if ends then G1.countWindows run true else G1
    else (({ G with pidx := 0, prog := none, failed := [] } : Gang).eachLane run (fun G l => G.setPc l (G.pc l + 16))).countWindows run ends
  | _ => (({ G with prog := none, failed := [] } : Gang).eachLane run (fun G l => G.setPc l (nextPc l))).countWindows run ends

/-! ### Leaving Waiting -/

def LaneState.isWaiting (x : LaneState) : Bool :=
  match x with
  | .waiting _ => true
  | _ => false

/-- The lanes of a gang whose Waiting state meets a test. -/
def Gang.waiters (G : Gang) (test : WaitOn → Bool) : List Nat :=
  G.allLanes.filter (fun l => match G.laneState l with
    | .waiting w => test w
    | _ => false)

/-- R172: the listed lanes leave Waiting, at the word after their own with age zero. Inside a `rep` sequence the
repetition ends when no lane of its run is Waiting any more (R89). -/
def Gang.leaveWait (G : Gang) (ls : List Nat) : Gang :=
  match G.prog with
  | some (.rep _ _ _ _ _ run) =>
    let G1 := G.eachLane ls (fun G l =>
      if run.getLsbD l then (G.setLane l .ready).setAge l 0 else G.release l (G.pc l + 8))
    let rl := lanesOf run G.width
    if ls.any (fun l => run.getLsbD l) && !rl.any (fun l => (G1.laneState l).isWaiting) then G1.closeWord rl false (G1.pc ·) else G1
  | _ => G.eachLane ls (fun G l => G.release l (G.pc l + 8))

/-- The predicate that a lane's wait writes when it is woken (R239, R302). -/
def wakePred (w : WaitOn) : Option Nat :=
  match w with
  | .memory _ _ (some k) _ => some k
  | .cbar k => some k
  | _ => none

/-- R172, R238, R302: release each lane whose Waiting state meets a test; a predicate that the wait names takes `v`. -/
def Gang.wake (G : Gang) (v : Bool) (test : WaitOn → Bool) : Gang :=
  let ls := G.waiters test
  (G.eachLane ls (fun G l => match G.laneState l with
    | .waiting w => (match wakePred w with
      | some k => G.writeK l k v
      | none => G)
    | _ => G)).leaveWait ls

/-- R370, R547: release each lane whose Waiting state meets a test at its own word, which it issues afresh. -/
def Gang.retryWait (G : Gang) (test : WaitOn → Bool) : Gang :=
  (G.waiters test).foldl (fun G l => G.release l (G.pc l)) G

end Sys2Proof.Machine
end

