-- ==== Sys2Proof/Machine/Meter.lean ====
section
/-! DEFINITION. Weights, charges and core meters (21 R436 to R444), accounts and virtual joules (R440, R452), operating
points (R454, R455), and error records (23 R500). -/

namespace Sys2Proof.Machine

/-- R436: a weight of the table in force, in 1/8 pJ. -/
def State.weight (s : State) (i : Nat) : Nat := s.weights.getD i 0

/-- R446: the domains: quarters 0 to 15, uncores 16 to 19, stacks 20 to 31, the I/O die and fabric 32. -/
def domUncore (die : Nat) : Nat := 16 + die
def domStack (pa : Nat) : Nat := 20 + pa / 4096 % 2 ^ 30 % 768 / 64
def domIO : Nat := 32

/-- R455: the point whose factor scales charges in a quarter: during a change, that of the higher voltage. An idle
quarter is at P0. -/
def State.chargePoint (s : State) (q : Nat) : Nat :=
  match s.ownerOf q with
  | none => 0
  | some p =>
    match (s.part p).busy with
    | some (_, nxt) => min (s.part p).cur nxt
    | none => (s.part p).cur

/-- R455: the point at which a quarter runs: during a change, the lower frequency. -/
def State.runPoint (s : State) (q : Nat) : Nat :=
  match s.ownerOf q with
  | none => 0
  | some p =>
    match (s.part p).busy with
    | some (_, nxt) => max (s.part p).cur nxt
    | none => (s.part p).cur

/-- R437: Scale(u, P). -/
def scaleCharge (u p : Nat) : Nat := (u * Config.pointFactor p + 32768) / 65536
def State.scaleAt (s : State) (core u : Nat) : Nat := scaleCharge u (s.chargePoint (quarterOfCore core))

def State.meter (s : State) (core ctx : Nat) : Meter := tget {} (s.core core).meters ctx
def State.modMeter (s : State) (core ctx : Nat) (f : Meter → Meter) : State :=
  s.modCore core (fun C => { C with meters := tput C.meters ctx (f (tget {} C.meters ctx)) })

/-- R447: D(c) of a domain, the scaled dynamic charges of a context in this tick. -/
def dynKey (dom ctx : Nat) : Nat := dom * 512 + ctx

/-- R534: work for another package: no core of this one, whose charges count in the domain under a number that is no context. -/
def noCore : Nat := 512
def remoteCtx : Nat := 256

/-- R440: take a scaled charge in a domain. The home's work for another package is charged there, and counts here in the domain
alone (R534). -/
def State.chargeOnly (s : State) (core ctx u dom : Nat) : State :=
  if core = noCore then { s with dyn := tput s.dyn (dynKey dom remoteCtx) (tget 0 s.dyn (dynKey dom remoteCtx) + u) }
  else
  let s1 := s.modMeter core ctx (fun M => { M with rem := M.rem - u, cons := M.cons + u })
  { s1 with dyn := tput s1.dyn (dynKey dom ctx) (tget 0 s1.dyn (dynKey dom ctx) + u) }

/-- R439: the charges of the lanes of a gather or scatter that have not been performed. -/
def Gang.unpaid (G : Gang) : Tbl Nat :=
  match G.prog with
  | some (.lanes _ left) => left
  | _ => []

/-- R452: VJ rises by n × 256 / SHARE, with the fraction carried, as vjFrac / vjDen, from one SHARE to the next; a refund does not take
it below zero. -/
def Context.addVJ (C : Context) (n : Int) : Context :=
  let sh := max 1 C.shareNow
  let den := Nat.lcm (max 1 C.vjDen) sh
  let tot : Int := (C.vj * den + C.vjFrac * (den / max 1 C.vjDen) : Nat) + n * 256 * (den / sh : Nat)
  if tot < 0 then { C with vj := 0, vjFrac := 0, vjDen := 1 }
  else
    let r := tot.toNat % den
    { C with vj := tot.toNat / den, vjFrac := r / Nat.gcd r den, vjDen := den / Nat.gcd r den }

/-- R440: a post moves whole nJ from CONS into the context's account. -/
def State.post (s : State) (core ctx : Nat) : State :=
  let n := (s.meter core ctx).cons / 8000
  let s1 := s.modMeter core ctx (fun M => { M with cons := M.cons % 8000 })
  s1.modCtx ctx (fun C => ({ C with consumed := C.consumed + n, dyn := C.dyn + n } : Context).addVJ n)

/-- R441: whether a meter requests a grant. -/
def Meter.wants (M : Meter) : Bool := decide (M.rem < 256000) && !M.req && !M.refused

/-- R439: a charge that goes back to the allowance. Charges already posted come back out of the account in whole nJ
(notes/assumptions/5.md). -/
def State.refund (s : State) (core ctx u : Nat) : State :=
  if u = 0 then s
  else
    let dom := quarterOfCore core
    let k := (u - (s.meter core ctx).cons + 7999) / 8000
    let s1 := s.modMeter core ctx (fun M => { M with rem := M.rem + u, cons := M.cons + 8000 * k - u })
    let s2 := if k = 0 then s1 else s1.modCtx ctx (fun C => ({ C with consumed := C.consumed - k, dyn := C.dyn - k } : Context).addVJ (-(k : Int)))
    { s2 with dyn := tput s2.dyn (dynKey dom ctx) (tget 0 s2.dyn (dynKey dom ctx) - u) }

/-- R439: a gather or scatter stops: what its lanes not performed were charged is returned. -/
def State.refundLanes (s : State) (t g : Nat) : State :=
  let G := s.gang t g
  match G.prog with
  | some (.lanes run (q :: left)) =>
    (s.setGang t g { G with prog := some (.lanes run []) }).refund G.core (s.team t).ctx
      (s.scaleAt G.core ((q :: left).foldl (fun n q => n + q.2) 0))
  | _ => s

/-- R440, R441: send a grant request if one is due; a meter posts when it sends one. -/
def State.wantGrant (s : State) (core ctx : Nat) : State :=
  if core ≠ noCore ∧ (s.meter core ctx).wants then (s.post core ctx).modMeter core ctx (fun M => { M with req := true }) else s

/-- R439, R441: a surcharge, scaled, in a domain. -/
def State.chargeRaw (s : State) (core ctx u dom : Nat) : State := (s.chargeOnly core ctx u dom).wantGrant core ctx

/-- R439: a charge of a miss is taken now, or gathered for the return of its data; it takes the weights then in force (R438). -/
def State.chargeMiss (s : State) (m : Miss) : State :=
  match s.misses with
  | some l => { s with misses := some (l ++ [m]) }
  | none => s.chargeRaw m.core m.ctx (m.count * s.weight m.index) m.dom
/-- R439: charges of misses are gathered from here on. -/
def State.holdMisses (s : State) : State := { s with misses := some [] }
/-- R439: the gathered charges, which are no longer gathered. -/
def State.takeMisses (s : State) : State × List Miss := ({ s with misses := none }, s.misses.getD [])
/-- R439: the charges of misses that resolve. -/
def State.chargeMisses (s : State) (l : List Miss) : State := l.foldl State.chargeMiss s

/-- A surcharge of weights that scale, in the core's quarter. -/
def State.surcharge (s : State) (core ctx u : Nat) : State :=
  s.chargeRaw core ctx (s.scaleAt core u) (quarterOfCore core)

/-- R442: how a charge that may wait ends. -/
inductive TakeRes where
  | taken | hold | stop
  deriving DecidableEq, Repr

/-- R442: Take(e), with e the unscaled estimate of a word or the weight of a k-block. -/
def State.take (s : State) (core ctx u : Nat) : State × TakeRes :=
  let e := s.scaleAt core u
  let M := s.meter core ctx
  if M.rem < e then
    if M.req then (s, .hold)
    else if M.refused then (s, .stop)
    else ((s.post core ctx).modMeter core ctx (fun M => { M with req := true }), .hold)
  else (s.chargeRaw core ctx e (quarterOfCore core), .taken)

/-! ### Meter entries (21 R444, 24 R506) -/

/-- R444, R507: whether a context still has a team, an engine command, an entry, a packet or a store on a core. -/
def State.busyOn (s : State) (core ctx : Nat) : Bool :=
  let C := s.core core
  let ofTeam (t : Nat) : Bool := decide ((s.team t).ctx = ctx)
  C.resid.any (fun e => decide (e.ctx = ctx)) || C.out.any (fun w => decide (w.ctx = ctx)) || C.pkts.any (fun p => decide (p.ctx = ctx)) ||
  s.teams.any (fun p => decide (p.2.ctx = ctx) && (decide (p.2.state = .placed) || decide (p.2.state = .saving)) &&
    p.2.gangs.any (fun q => decide (q.2.core = core))) ||
  C.copyq.any (fun q => q.2.entries.any (fun e => match e with
    | .copy _ t _ _ _ _ _ _ _ _ => ofTeam t
    | .fence _ t _ _ _ _ => ofTeam t)) ||
  s.dies.any (fun d => d.2.ladle.any (fun c => decide (c.core = core) && decide (c.ctx = ctx)))

/-- R444: an entry that nothing needs is returned: its charges are posted, and its allowance, with that of a grant on its
way, goes back to the bucket. -/
def State.returnMeter (s : State) (core ctx : Nat) : State :=
  if (tfind (s.core core).meters ctx).isNone || s.busyOn core ctx then s
  else
    let M := s.meter core ctx
    let n := M.cons / 8000 + (if M.cons % 8000 = 0 then 0 else 1)
    let s1 := s.modCtx ctx (fun C => ({ C with consumed := C.consumed + n, dyn := C.dyn + n, level := C.level + M.rem / 8000 + M.answer.getD 0 } : Context).addVJ n)
    s1.modCore core (fun C => { C with meters := terase C.meters ctx })

/-! ### Request limiters (14 R322, R323) -/

/-- R323: RATE and BURST of a partition on a die. -/
def Die.rate (D : Die) (p : Nat) : Nat := ((tget 0 D.prate p).extractLsb' 0 16).toNat
def Die.burst (D : Die) (p : Nat) : Nat := ((tget 0 D.prate p).extractLsb' 32 16).toNat

/-- R322: the flits of a request of a context on a core leave its partition's limiter. -/
def State.inject (s : State) (core ctx flits : Nat) : State :=
  let d := dieOfCore core
  let p := s.partOf ctx
  if (s.dieOf d).rate p = 0 then s
  else s.modDie d (fun D => { D with limiter := tput D.limiter p (tget 0 D.limiter p - flits) })

/-- R322: a request of the context finds fewer flits than it takes, and fewer than the limiter can hold. -/
def State.limited (s : State) (core ctx flits : Nat) : Bool :=
  let D := s.dieOf (dieOfCore core)
  let p := s.partOf ctx
  decide (0 < flits) && decide (D.rate p ≠ 0) && decide (tget 0 D.limiter p < (min flits (max 1 (D.burst p)) : Nat))

/-- R316: the flits of a write of `n` bytes. -/
def writeFlits (n : Nat) : Nat := 1 + (n + 31) / 32

/-! ### Error records -/

/-- R500: an error record, whose count field counts corrected events, written to the error ring when it has room; vector 1 of function 0 follows it. -/
def State.errorRecord (s : State) (time source severity part ctx die unit addr count : Nat) : State :=
  let rec_ := bytesOfNum 8 time ++ bytesOfNum 1 source ++ bytesOfNum 1 severity ++ bytesOfNum 1 part ++
    bytesOfNum 1 ctx ++ bytesOfNum 4 (die * 2 ^ 30 + unit) ++ bytesOfNum 8 addr ++ bytesOfNum 4 count ++ bytesOfNum 4 0
  ({ s with errRing := { s.errRing with waiting := s.errRing.waiting ++ [rec_] } } : State).flushErr

/-- R500: the record of one event of this TIME. -/
def State.report (s : State) (source severity part ctx die unit addr : Nat) : State :=
  s.errorRecord s.time source severity part ctx die unit addr (if severity = 1 then 1 else 0)

/-- R500: a corrected event, which is counted with those of its unit in the same tick. -/
def State.reportCorrected (s : State) (source die unit addr : Nat) : State :=
  let same (e : Corrected) : Bool := decide (e.source = source) && decide (e.die = die) && decide (e.unit = unit)
  if s.corrected.any same then { s with corrected := s.corrected.map (fun e => if same e then { e with count := e.count + 1 } else e) }
  else { s with corrected := s.corrected ++ [⟨source, die, unit, addr, s.time, 1⟩] }

/-- R500: the corrected events of a tick are recorded. -/
def State.flushCorrected (s : State) : State :=
  s.corrected.foldl (fun (s : State) e => s.errorRecord e.time e.source 1 255 255 e.die e.unit e.addr e.count) { s with corrected := [] }

end Sys2Proof.Machine
end

