-- ==== Sys2Proof/Machine/Mesh.lean ====
section
/-! DEFINITION. The mesh of a die and the ring of dies (14 R306, R307, R316 to R321, R323): sites, routes, traffic classes, and
the packets on their way, which the router outputs pass on one at a time. -/

namespace Sys2Proof.Machine

/-! ### Sites (R307) -/

/-- R307: column 0 to 7, west to east, and row 0 to 7, north to south. -/
structure Site where
  c : Nat
  r : Nat
  deriving DecidableEq, Repr

/-- R307, R317: a full router can turn packets; a half router forwards them straight and ejects them. -/
def fullRouter (c r : Nat) : Bool := decide ((c + r) % 2 = 0)

def clusterSite (n : Nat) : Site := ⟨2 * (n % 4) + n / 4 % 2, n / 4⟩
def sliceSite (n : Nat) : Site := ⟨2 * (n % 4) + 1 - n / 4 % 2, n / 4⟩
def memPortSite (p : Nat) : Site := if p < 4 then ⟨2 * p + 1, 0⟩ else ⟨2 * (p - 4), 7⟩
/-- R307: the four die-to-die ports on each side. -/
def eastPortSite (i : Nat) : Site := ⟨7, 2 * i⟩
def westPortSite (i : Nat) : Site := ⟨0, 2 * i + 1⟩
/-- R307: the link to the I/O die. -/
def ioSite : Site := ⟨0, 7⟩

/-- R307: the die-local channel of a pseudo-channel of a stack, and the memory port that serves it. -/
def dieChannel (stack pc : Nat) : Nat := 64 * (stack % 3) + pc
def memPortOf (channel : Nat) : Nat := channel / 24

/-! ### Routes (R317, R318) -/

/-- The directions in which a packet leaves a router; `out` is its ejection. -/
inductive Dir where
  | east | west | north | south | out
  deriving DecidableEq, Repr

/-- The routers that a packet leaves, and in which direction, along a row or a column. -/
def alongX (r a b : Nat) : List (Site × Dir) :=
  if a ≤ b then (upto (b - a)).map (fun k => (⟨a + k, r⟩, .east)) else (upto (a - b)).map (fun k => (⟨a - k, r⟩, .west))
def alongY (c a b : Nat) : List (Site × Dir) :=
  if a ≤ b then (upto (b - a)).map (fun k => (⟨c, a + k⟩, .south)) else (upto (a - b)).map (fun k => (⟨c, a - k⟩, .north))

/-- R317: the route between two sites of one die. -/
def route (s d : Site) : List (Site × Dir) :=
  if s.c = d.c then alongY s.c s.r d.r
  else if s.r = d.r then alongX s.r s.c d.c
  else if fullRouter d.c s.r then alongX s.r s.c d.c ++ alongY d.c s.r d.r
  else if fullRouter s.c d.r then alongY s.c s.r d.r ++ alongX d.r s.c d.c
  else
    let c1 := if s.c < d.c then s.c + 1 else s.c - 1
    alongX s.r s.c c1 ++ alongY c1 s.r d.r ++ alongX d.r c1 d.c

/-- R318: the way round the ring: the shorter one, and east when both are two dies long. -/
def ringEast (a b : Nat) : Bool := decide ((b + 4 - a) % 4 ≤ 2)
/-- R318: the site at which a packet in a row leaves its die, and the one at which it enters the next. -/
def exitSite (east : Bool) (r : Nat) : Site := if east then eastPortSite (r / 2) else westPortSite (r / 2)
def entrySite (east : Bool) (r : Nat) : Site := if east then westPortSite (r / 2) else eastPortSite (r / 2)
def nextDie (east : Bool) (d : Nat) : Nat := if east then (d + 1) % 4 else (d + 3) % 4

/-- R317, R318: the outputs that a packet takes from a site of a die to a site of another, `n` dies away at most. -/
def meshPath : Nat → Nat → Site → Nat → Site → List (Nat × Site × Dir)
  | 0, a, s, _, d => (route s d).map (fun q => (a, q.1, q.2)) ++ [(a, d, .out)]
  | n + 1, a, s, b, d =>
    if a = b then (route s d).map (fun q => (a, q.1, q.2)) ++ [(a, d, .out)]
    else
      let e := ringEast a b
      let x := exitSite e s.r
      (route s x).map (fun q => (a, q.1, q.2)) ++ (a, x, if e then .east else .west) :: meshPath n (nextDie e a) (entrySite e s.r) b d

/-- The number of a router, 64 × die + 8 r + c, and of an output port. -/
def routerOf (die : Nat) (s : Site) : Nat := 64 * die + 8 * s.r + s.c
def dirNumber : Dir → Nat
  | .east => 0 | .west => 1 | .north => 2 | .south => 3 | .out => 4
def portNumber (q : Nat × Site × Dir) : Nat := routerOf q.1 q.2.1 * 5 + dirNumber q.2.2

/-- The outputs between a core's cluster and the home of an address; what another package holds is reached by the I/O die. -/
def State.pathHome (s : State) (core pa : Nat) : List Nat :=
  let a := dieOfCore core
  let start := clusterSite (clusterOfCore core % 32)
  (if s.isLocal pa then meshPath 3 a start (homeSlice pa).1 (sliceSite (homeSlice pa).2.1) else meshPath 0 a start a ioSite).map portNumber
def State.pathBack (s : State) (core pa : Nat) : List Nat :=
  let a := dieOfCore core
  let end_ := clusterSite (clusterOfCore core % 32)
  (if s.isLocal pa then meshPath 3 (homeSlice pa).1 (sliceSite (homeSlice pa).2.1) a end_ else meshPath 0 a ioSite a end_).map portNumber

/-! ### Classes and weights (R320, R323) -/

/-- R320: the class of a context's requests on the die of a core: TC2 and the partition's value in CLASSMAP. -/
def State.requestClass (s : State) (core ctx : Nat) : Nat :=
  2 + ((s.dieOf (dieOfCore core)).classMap.extractLsb' (2 * s.partOf ctx) 2).toNat

/-- R323: RTRWEIGHT of a router, with its reset value. -/
def Die.weights (D : Die) (router : Nat) : W64 := tget 0x0810101010 D.rtr router
/-- R323: the weight of a class TC2 to TC6. -/
def weightOf (w : W64) (cls : Nat) : Nat := (w.extractLsb' (8 * (cls - 2)) 8).toNat

/-! ### Arbitration (R321) -/

/-- The packets that wait at an output, those of a class in the order in which they came. -/
def headOf (fs : List Flight) (cls : Nat) : Option Flight := (sortBy (fun a b => decide (a.since ≤ b.since)) (fs.filter (fun f => decide (f.cls = cls)))).head?

/-- R321: rounds of the deficit-weighted round robin: the first class in order whose head packet its deficit covers sends it;
where none is covered a round begins, which adds four times the weight for each class that has a packet waiting
(notes/assumptions/46.md). -/
def deficitRound (w : W64) (heads : Nat → Option Flight) : Nat → List Nat → Option Flight × List Nat
  | 0, d => (none, d)
  | n + 1, d =>
    let ok (c : Nat) : Bool := match heads c with
      | some f => decide (weightOf w c ≠ 0) && decide (f.flits ≤ d.getD (c - 2) 0)
      | none => false
    match [2, 3, 4, 5, 6].find? ok with
    | some c =>
      let f := heads c
      (f, (upto 5).map (fun k => if k + 2 = c then d.getD k 0 - (match f with | some x => x.flits | none => 0) else d.getD k 0))
    | none => deficitRound w heads n ((upto 5).map (fun k => if (heads (k + 2)).isSome then d.getD k 0 + 4 * weightOf w (k + 2) else 0))

/-- R321: what an output sends next, and the deficits that it leaves. -/
def arbitrate (w : W64) (deficit : List Nat) (fs : List Flight) (time : Nat) : Option Flight × List Nat :=
  let d := (upto 5).map (fun k => if (headOf fs (k + 2)).isSome then deficit.getD k 0 else 0)
  let waiting := [2, 3, 4, 5, 6].filter (fun c => (headOf fs c).isSome)
  match headOf fs 0 with
  | some f => (some f, d)
  | none => match headOf fs 1 with
  | some f => (some f, d)
  | none => match (headOf fs 7).filter (fun f => decide (f.since + 256 ≤ time)) with
  | some f => (some f, d)
  | none =>
    if waiting.isEmpty then (headOf fs 7, d)
    else if waiting.all (fun c => weightOf w c == 0) then ((waiting.head?.bind (headOf fs)), d)
    else deficitRound w (headOf fs) 16 d

/-! ### Packets on their way -/

/-- A packet enters the mesh. -/
def State.fly (s : State) (id cls flits : Nat) (ports : List Nat) : State := { s with flights := s.flights ++ [⟨id, cls, flits, ports, s.time⟩] }
/-- R319: a packet that has not yet been delivered. -/
def State.flying (s : State) (id : Nat) : Bool := s.flights.any (fun f => decide (f.id = id))
def State.land (s : State) (id : Nat) : State := { s with flights := s.flights.filter (fun f => decide (f.id ≠ id)) }

def Flight.atPort (f : Flight) (p time : Nat) : Bool := f.ports.head? == some p && decide (f.since ≤ time)
/-- R316: a hop takes two cycles, and an ejection one. -/
def Flight.hop (f : Flight) (p time : Nat) : Flight := { f with ports := f.ports.drop 1, since := time + (if p % 5 = 4 then 1 else 2) }

/-- R316, R321: an output whose link is free sends a packet, which takes the link for as many cycles as it has flits. -/
def State.portCycle (s : State) (p : Nat) : State :=
  let L := tget {} s.links p
  if s.time < L.free then s
  else
    match arbitrate ((s.dieOf (p / 320)).weights (p / 5 % 64)) L.deficit (s.flights.filter (fun f => f.atPort p s.time)) s.time with
    | (some f, d) =>
      { s with flights := s.flights.map (fun g => if g.id = f.id then g.hop p s.time else g), links := tput s.links p ⟨s.time + f.flits, d⟩ }
    | (none, d) => { s with links := tput s.links p { L with deficit := d } }

/-- R306, R316: one uncore cycle of the mesh: each output at which a packet waits, and then what has arrived. A class with nothing
waiting at an output has no deficit there (R321). -/
def State.meshCycle (s : State) : State :=
  let ps := dedup (s.flights.filterMap (fun f => if f.since ≤ s.time then f.ports.head? else none))
  let s1 := ps.foldl State.portCycle s
  { s1 with flights := s1.flights.filter (fun f => !(f.ports.isEmpty && decide (f.since ≤ s1.time)))
            links := s1.links.map (fun (q : Nat × Link) => (q.1, { q.2 with deficit := (upto 5).map (fun k =>
              if s1.flights.any (fun f => f.atPort q.1 s1.time && decide (f.cls = k + 2)) then q.2.deficit.getD k 0 else 0) })) }

end Sys2Proof.Machine
end

