-- ==== Sys2Proof/Machine/Remote.lean ====
section
/-! DEFINITION. What leaves for other packages: reachability and ports (27 R531, R536), flits and their charges (R534), and
accesses to remote memory (R539). What another package answers is not known here (notes/assumptions/3.md). -/

namespace Sys2Proof.Machine

/-- R533: a port carries a class: FC0 and FC5 in load-store and message mode, the others in load-store mode. -/
def Port.carries (P : Port) (cls : Nat) : Bool :=
  decide (P.state = 2) && (decide (P.mode = 1) || (decide (P.mode = 2) && (decide (cls = 0) || decide (cls = 5))))

/-- R536: the working ports to a package. -/
def State.portsTo (s : State) (pkg cls : Nat) : List Nat :=
  (upto 18).filter (fun p => (tget 0 s.fabRoute pkg).getLsbD p && (tget {} s.ports p).carries cls)

/-- R536: a package is unreachable when no port to it works. -/
def State.reachable (s : State) (pkg : Nat) : Bool := !(s.portsTo pkg 3).isEmpty

/-- R536: the fixed hash of a line over the working ports picks one. -/
def State.portOf (s : State) (pkg cls pa : Nat) : Nat :=
  let ps := s.portsTo pkg cls
  ps.getD (Config.portHash (pa / 128) ps.length % max 1 ps.length) 0

/-- A flit bundle leaves; for an unreachable package it is lost. -/
def State.sendFlits (s : State) (pkg cls pa : Nat) (bytes : List Byte) : State :=
  if (s.portsTo pkg cls).isEmpty then s
  else { s with fabOut := s.fabOut ++ [⟨pkg, cls, s.portOf pkg cls pa, pa, bytes, [], 0, 0⟩] }

/-- R538: a request of a context leaves, with its partition's tag. -/
def State.sendRequest (s : State) (ctx cls pa : Nat) (bytes : List Byte) (offs : List Nat) : State :=
  if (s.portsTo (pa / 2 ^ 42) cls).isEmpty then s
  else { s with fabOut := s.fabOut ++ [{ pkg := pa / 2 ^ 42, cls := cls, port := s.portOf (pa / 2 ^ 42) cls pa, pa := pa, bytes := bytes,
                                         offs := offs, tag := (s.part (s.partOf ctx)).fabtag.extractLsb' 0 16 }] }

/-- R534: an accumulate packet leaves for its block's home: the slots that it marks, each of four bytes. -/
def State.sendSlots (s : State) (ctx block : Nat) (slots : Tbl W32) : State :=
  s.sendRequest ctx 4 (block * 64) (slots.flatMap (fun q => bytesOfNum 4 q.2.toNat)) (slots.map (fun q => 4 * q.1))

/-- R534: flits are charged to the context whose request caused them. -/
def State.chargeFlits (s : State) (core ctx n : Nat) : State := s.chargeRaw core ctx (n * s.weight 17) domIO

/-- R534: the flits of a write, or of one hop of a collective, of n bytes. -/
def dataFlits (n : Nat) : Nat := max 1 ((n + 63) / 64)

/-- R441, R534: the charges that a reply carries back: a surcharge, unscaled, of no domain of this package. -/
def State.chargeReturned (s : State) (core ctx : Nat) : State :=
  ({ s.modMeter core ctx (fun M => { M with rem := M.rem - Config.remoteCharge s.fuel, cons := M.cons + Config.remoteCharge s.fuel })
    with fuel := s.fuel + 1 } : State).wantGrant core ctx

/-- R539: bytes of another package: nothing is known of them here. -/
def remoteBytes (n fuel : Nat) : List Byte := (upto n).map (fun i => Config.remoteByte fuel i)

/-- R538: a request that its target refused is reported here too. -/
def State.refusedThere (s : State) : State :=
  if Config.remoteRefused s.fuel then { s with fuel := s.fuel + 1 }.signal 0 1 else { s with fuel := s.fuel + 1 }

/-- R538, R539: a read of another package's memory: the bytes, and whether the reply is poisoned or none can come. `fresh`
tells that the line is asked for. -/
def State.remoteRead (s : State) (core ctx pa n : Nat) (fresh : Bool) : State × List Byte × Bool :=
  if s.reachable (pa / 2 ^ 42) then
    let s1 := if fresh then ((((s.sendRequest ctx 3 pa [] []).chargeFlits core ctx 3).chargeReturned core ctx).refusedThere) else s
    ({ s1 with fuel := s1.fuel + 1 }, remoteBytes n s1.fuel, Config.remoteBad s1.fuel || (fresh && Config.remoteRefused (s1.fuel - 1)))
  else (s, List.replicate n 0, true)

/-- R538, R539: a write to another package's memory; to one that is unreachable it is discarded and reported. -/
def State.remoteWrite (s : State) (core ctx : Nat) (cells : List Host.Cell) : State :=
  let pa := (cells.map (·.1)).headD 0
  let pkg := pa / 2 ^ 42
  if s.reachable pkg then
    let s1 := s.sendRequest ctx 3 pa (cells.map (·.2)) (cells.map (fun q => q.1 - pa))
    ((s1.chargeFlits core ctx (dataFlits cells.length + 1)).chargeReturned core ctx).refusedThere
  else s.signal 0 1

/-- R539: one lane's atomic at another package's home slice: its old value is not known here. -/
def State.remoteAtomic (s : State) (core ctx pa n : Nat) : State × Nat × Bool :=
  if s.reachable (pa / 2 ^ 42) then
    let s1 := (((s.sendRequest ctx 3 pa [] []).chargeFlits core ctx 2).chargeReturned core ctx).refusedThere
    ({ s1 with fuel := s1.fuel + 1 }, numOfBytes (remoteBytes n s1.fuel), Config.remoteBad s1.fuel || Config.remoteRefused (s1.fuel - 1))
  else (s, 0, true)

end Sys2Proof.Machine
end

