-- ==== Sys2Proof/Machine/Slices.lean ====
section
/-! DEFINITION. Home slices (14): the directory, fills under the Sieve, requests of cores, monitors and their wake-ups
(10 R237, R238; 14 R313), and the application of accepted accumulates (15 R330, R334, R335). -/

namespace Sys2Proof.Machine

/-! ### Waking lanes -/

/-- Change every gang of a team. -/
def Team.mapGangs (T : Team) (f : Nat → Gang → Gang) : Team := { T with gangs := T.gangs.map (fun p => (p.1, f p.1 p.2)) }
/-- Change every team. -/
def State.mapTeams (s : State) (f : Nat → Team → Team) : State := { s with teams := s.teams.map (fun p => (p.1, f p.1 p.2)) }

/-- R277, R357: a saved team is queued in class 1. -/
def State.relaunch (s : State) (t : Nat) : State :=
  let T := s.team t
  if T.state = .saved then
    { s.setTeam t { T with state := .queued, classIn := 1, order := s.nextId } with nextId := s.nextId + 1 }
  else s

/-- R240, R277: an event of R240 queues a team that was spilled with its lanes waiting. -/
def State.requeue (s : State) (t : Nat) : State :=
  let T := s.team t
  if T.reason ≠ 3 then s
  else if T.launch.xg = 0 then s.relaunch t
  else (s.teams.filter (fun p => decide (p.2.ctx = T.ctx) && decide (p.2.serial = T.serial) && decide (p.2.launch.xg ≠ 0) &&
    decide (p.2.index / T.launch.xg = T.index / T.launch.xg))).foldl (fun (s : State) p => s.relaunch p.1) s

/-- A team that holds its place on a core. -/
def Team.onDie (T : Team) : Bool := decide (T.state = .placed) || decide (T.state = .saving) || decide (T.state = .killed)

def onLine (line : Nat) : WaitOn → Bool
  | .memory false b _ _ => decide (b = line)
  | _ => false

/-- R238, R478: wake the lanes of teams that monitor a line of global memory, and packets that watch a word of it. -/
def State.wakeLine (s : State) (line : Nat) : State :=
  { s.mapTeams (fun _ T => if T.onDie then T.mapGangs (fun _ G => G.wake true (onLine line)) else T) with
    funcs := s.funcs.map (fun (F : Nat × Func) => (F.1, { F.2 with rings := F.2.rings.map (fun (r : Nat × Ring) =>
      (r.1, { r.2 with pkts := r.2.pkts.map (fun (p : PktRun) => if p.pa.any (fun a => decide (lineOf a = line)) then { p with woken := true } else p) })) })) }

/-- R238: wake the lanes of a team that monitor a block of scratch; a saved team is queued (R240). -/
def State.wakeScratch (s : State) (t block : Nat) : State :=
  let test : WaitOn → Bool := fun w => match w with
    | .memory true b _ _ => decide (b = block)
    | _ => false
  let T := s.team t
  if T.onDie then s.setTeam t (T.mapGangs (fun _ G => G.wake true test))
  else if T.gangs.any (fun p => p.2.allLanes.any (fun l => match p.2.laneState l with | .waiting w => test w | _ => false))
  then s.requeue t else s

/-- Numbers from here on stand for other packages in a spilled-monitor table (R539). -/
def remoteMonitor : Nat := 2 ^ 32

/-- R313: a change of a line queues the teams of its spilled monitors, and wakes other packages (R539). -/
def State.wakeSpilled (s : State) (line : Nat) : State :=
  let h := homeOf (line * 128)
  let ts := ((s.slice h).spillMon.filter (fun p => decide (p.1 = line))).map (·.2)
  let s1 := ts.foldl (fun (s : State) t => if remoteMonitor ≤ t then s.sendFlits (t - remoteMonitor) 0 (line * 128) [] else s.requeue t) s
  if ts.isEmpty then s1
  else s1.modSlice h (fun S => { S with spillMon := S.spillMon.filter (fun p => !decide (p.1 = line)) })

/-! ### L1 lines -/

/-- R291: the core whose L1 holds a line for a core: in a fused cluster, the slice that the line's address selects. -/
def State.l1Core (s : State) (core line : Nat) : Nat :=
  if (s.cluster (clusterOfCore core)).fused then clusterOfCore core * 4 + line % 4 else core

def State.l1Line (s : State) (core line : Nat) : Option L1Line :=
  (s.core (s.l1Core core line)).l1.find? (fun x => decide (x.line = line))

/-- R226: whether the L1 that serves a core holds a line exclusive. -/
def State.ownsLine (s : State) (core line : Nat) : Bool :=
  match s.l1Line core line with
  | some x => x.excl
  | none => false

/-- R226: a line that an L1 holds takes the state it has been granted. -/
def Core.setL1 (C : Core) (line : Nat) (excl : Bool) : Core :=
  if C.l1.any (fun x => decide (x.line = line)) then { C with l1 := C.l1.map (fun x => if x.line = line then { x with excl := excl } else x) }
  else { C with l1 := ⟨line, excl, false⟩ :: C.l1 }

/-- R237: the monitor bit of a line in the L1 that serves a core. -/
def State.monitorL1 (s : State) (core line : Nat) : State :=
  let c := s.l1Core core line
  let s1 := s.modCore c (fun C => { C with l1 := C.l1.map (fun x => if x.line = line then { x with mon := true } else x) })
  s1.modSlice (homeOf (line * 128)) (fun S =>
    { S with dir := S.dir.map (fun e => if e.line = line then { e with mon := true } else e),
             bypass := S.bypass.map (fun e => if e.line = line then { e with mon := true } else e) })

/-- R238: the L1 of a core has lost a line: wake the lanes that monitor it there. -/
def State.wakeLost (s : State) (core line : Nat) : State :=
  s.mapTeams (fun _ T => if T.onDie then T.mapGangs (fun _ G => if s.l1Core G.core line = core then G.wake true (onLine line) else G) else T)

/-- The cores whose L1 holds a line. -/
def State.holders (s : State) (line : Nat) : List Nat :=
  (s.cores.filter (fun p => p.2.l1.any (fun x => decide (x.line = line)))).map (·.1)

def Slice.modEntry (S : Slice) (line : Nat) (f : DirEntry → DirEntry) : Slice :=
  { S with dir := S.dir.map (fun e => if e.line = line then f e else e),
           bypass := S.bypass.map (fun e => if e.line = line then f e else e) }

def clusterBit (core : Nat) : BitVec 128 := 1#128 <<< clusterOfCore core

/-- R309: the home slice is told that a monitored line has left a core's L1. -/
def State.dropShare (s : State) (core line : Nat) : State :=
  s.modSlice (homeOf (line * 128)) (fun S => S.modEntry line (fun e =>
    { e with mon := s.cores.any (fun c => c.2.l1.any (fun x => decide (x.line = line) && x.mon)),
             sharers := if (s.holders line).any (fun c => decide (clusterOfCore c = clusterOfCore core)) then e.sharers
               else e.sharers &&& ~~~(clusterBit core) }))

/-- A line leaves a core's L1; a monitored line wakes its waiters, and its home slice is told (R238, R309, R311). -/
def State.dropL1 (s : State) (core line : Nat) : State :=
  let mon := (s.core core).l1.any (fun x => decide (x.line = line) && x.mon)
  let s1 := s.modCore core (fun C => { C with l1 := C.l1.filter (fun x => !decide (x.line = line)) })
  if mon then (s1.wakeLost core line).dropShare core line else s1

/-- Invalidate every L1 copy of a line but one core's. -/
def State.invalidate (s : State) (line : Nat) (keep : Option Nat) : State :=
  ((s.holders line).filter (fun c => !decide (some c = keep))).foldl (fun s c => s.dropL1 c line) s

/-! ### The directory -/

def Slice.entry (S : Slice) (line : Nat) : Option DirEntry :=
  match S.dir.find? (fun e => decide (e.line = line)) with
  | some e => some e
  | none => S.bypass.find? (fun e => decide (e.line = line))

/-- R336: a line's refusal-pending bit is cleared. -/
def Slice.clearRefusal (S : Slice) (line : Nat) : Slice := { S.modEntry line (fun e => { e with refuse := none }) with refused := terase S.refused line }

def setOf (line : Nat) : Nat := (homeSlice (line * 128)).2.2

/-- R325: SIEVEMASK of a partition. -/
def Slice.sieve (S : Slice) (p : Nat) : BitVec 16 := tget 0xFFFF S.mask p
def Slice.addOcc (S : Slice) (p : Nat) : Slice := { S with occ := tput S.occ p (tget 0 S.occ p + 1) }
def Slice.subOcc (S : Slice) (p : Nat) : Slice := { S with occ := tput S.occ p (tget 0 S.occ p - 1) }

/-- R324: the way that a fill takes: the lowest invalid way of the mask, or the least recently used one. -/
def Slice.victimWay (S : Slice) (p set : Nat) : Option Nat :=
  let ways := (upto 16).filter (fun w => (S.sieve p).getLsbD w)
  let inSet := S.dir.filter (fun e => decide (setOf e.line = set))
  match ways.find? (fun w => inSet.all (fun e => e.way != some w)) with
  | some w => some w
  | none =>
    let used := inSet.filter (fun e => match e.way with | some w => ways.elem w | none => false)
    match sortBy (fun a b => decide (a.stamp ≤ b.stamp)) used with
    | e :: _ => e.way
    | [] => none

/-- R326: charges of a slice to the context that it serves. -/
def State.chargeL2 (s : State) (core ctx line : Nat) : State :=
  s.chargeMiss ⟨core, ctx, 8, 1, domUncore (homeSlice (line * 128)).1⟩
def State.chargeBursts (s : State) (core ctx line : Nat) : State :=
  s.chargeMiss ⟨core, ctx, 9, 2, domStack (line * 128)⟩

/-- R310: an Exclusive owner's data comes home: the line is dirty, or for a bypassed line goes on to HBM4 (R312). Teams whose
monitors were moved to the slice are queued (R313). -/
def State.ownerData (s : State) (core ctx line : Nat) (e : DirEntry) : State :=
  if e.owner.isSome then
    let s1 := if e.way.isNone then s.chargeBursts core ctx line else s
    (s1.modSlice (homeOf (line * 128)) (fun S => S.modEntry line (fun e => { e with dirty := e.way.isSome }))).wakeSpilled line
  else s

/-- R311: evict a line: recall every copy, write a line that is dirty, or that its owner writes back, to memory, and free the
entry, though not a refusal of accumulates that it records (R336). A bypassed line holds no way, so it counts in no SIEVEOCC (R325). -/
def State.evict (s : State) (core ctx h : Nat) (e : DirEntry) : State :=
  let s1 := (s.ownerData core ctx e.line e).invalidate e.line none
  let s2 := if e.way.isSome && (e.dirty || e.owner.isSome) then s1.chargeBursts core ctx e.line else s1
  s2.modSlice h (fun S =>
    let S1 : Slice := { S with dir := S.dir.filter (fun x => !decide (x.line = e.line)),
                               bypass := S.bypass.filter (fun x => !decide (x.line = e.line)),
                               refused := match e.refuse with
                                 | some r => tput S.refused e.line r
                                 | none => S.refused }
    if e.way.isSome then S1.subOcc e.part else S1)

/-- R312: a bypass entry is freed when no L1 holds the line (and no refusal of accumulates is recorded in it, R336). -/
def State.freeBypass (s : State) (line : Nat) : State :=
  let h := homeOf (line * 128)
  if (s.slice h).bypass.any (fun e => decide (e.line = line) && e.refuse.isNone) && (s.holders line).isEmpty then
    s.modSlice h (fun S => { S with bypass := S.bypass.filter (fun e => !(decide (e.line = line))) })
  else s

/-- R310, R312, R324: bring an absent line in for a context: into a way of its partition's mask, or into the bypass
directory. A miss is charged the L2 weight and two bursts (R326). -/
def State.fill (s : State) (core ctx line : Nat) : State :=
  let h := homeOf (line * 128)
  let p := s.partOf ctx
  let set := setOf line
  let s1 := (s.chargeL2 core ctx line).chargeBursts core ctx line
  let old := tfind (s.slice h).refused line
  let s1 := if old.isNone then s1 else s1.modSlice h (fun S => { S with refused := terase S.refused line })
  let new (w : Option Nat) (n : Nat) : DirEntry := ⟨line, p, 0, none, false, false, w, n, 0, old⟩
  match (s1.slice h).victimWay p set with
  | some w =>
    let old := (s1.slice h).dir.find? (fun e => decide (setOf e.line = set) && e.way == some w)
    let s2 := match old with
      | some e => s1.evict core ctx h e
      | none => s1
    { s2.modSlice h (fun S => ({ S with dir := new (some w) s2.nextId :: S.dir } : Slice).addOcc p)
      with nextId := s2.nextId + 1 }
  | none =>
    let bl := (s1.slice h).bypass
    let s2 := if bl.length < 256 then s1 else
      match sortBy (fun a b => decide (a.stamp ≤ b.stamp)) bl with
      | e :: _ => s1.evict core ctx h e
      | [] => s1
    { s2.modSlice h (fun S => { S with bypass := new none s2.nextId :: S.bypass }) with nextId := s2.nextId + 1 }

/-- R324: a hit updates recency. -/
def State.recent (s : State) (line : Nat) : State :=
  { s.modSlice (homeOf (line * 128)) (fun S => S.modEntry line (fun e => { e with stamp := s.nextId })) with nextId := s.nextId + 1 }

/-- R324: a hit updates recency; a hit is charged the L2 weight, a bypassed access the bursts too (R326). -/
def State.hit (s : State) (core ctx line : Nat) (e : DirEntry) : State :=
  let s1 := s.chargeL2 core ctx line
  (if e.way.isNone then s1.chargeBursts core ctx line else s1).recent line

/-- Find a line at its home, or fill it. -/
def State.lookup (s : State) (core ctx line : Nat) : State :=
  match (s.slice (homeOf (line * 128))).entry line with
  | some e => s.hit core ctx line e
  | none => s.fill core ctx line

/-! ### Accumulates at the home slice -/

/-- R330: AccOp on one 32-bit word; `add.i64` is handled by slot pairs. -/
def accOp32 (op : AccOpc) (u x : W32) : W32 :=
  match op with
  | .addF32 => addF32 u x
  | .addI32 => u + x
  | .addI64 => u + x
  | .maxF32 => BitVec.ofNat 32 (fmtF32.minMax true u.toNat x.toNat).1
  | .minF32 => BitVec.ofNat 32 (fmtF32.minMax false u.toNat x.toNat).1
  | .addB16x2 =>
    let f (a b : BitVec 16) : BitVec 16 := BitVec.ofNat 16 (fmtB16.add .rne a.toNat b.toNat).1
    f (u.extractLsb' 16 16) (x.extractLsb' 16 16) ++ f (u.extractLsb' 0 16) (x.extractLsb' 0 16)

/-- R330, R338, R339: combine a packet's slots into others; `u` is a word's present value, `x` the value that comes to
it. Unlisted slots hold no value. -/
def mergeSlots (op : AccOpc) (base : Tbl W32) (new : Tbl W32) : Tbl W32 :=
  match op with
  | .addI64 =>
    (upto 8).foldl (fun b k =>
      match tfind new (2 * k), tfind new (2 * k + 1) with
      | some lo, some hi =>
        let u : W64 := match tfind b (2 * k), tfind b (2 * k + 1) with
          | some l, some h => h ++ l
          | _, _ => 0
        let r := u + (hi ++ lo)
        tput (tput b (2 * k) (r.extractLsb' 0 32)) (2 * k + 1) (r.extractLsb' 32 32)
      | _, _ => b) base
  | _ =>
    new.foldl (fun b p =>
      match tfind b p.1 with
      | some u => tput b p.1 (accOp32 op u p.2)
      | none => tput b p.1 p.2) base

/-- R334, R335: the words of a block after a packet's slots are applied. -/
def applySlots (mem : Tbl Byte) (block : Nat) (op : AccOpc) (slots : Tbl W32) : Tbl Byte :=
  let old : Tbl W32 := (upto 16).map (fun i => (i, BitVec.ofNat 32 (readNum mem (block * 64 + 4 * i) 4)))
  let new := mergeSlots op old slots
  slots.foldl (fun m p => writeNum m (block * 64 + 4 * p.1) 4 (tget 0 new p.1).toNat) mem

/-- The effects of bytes that are written in a line at its home on copies, directory and monitors (R310, R312, R313). The copy that
is kept is Shared after it. -/
def State.writtenLine (s : State) (core ctx line : Nat) (keep : Option Nat) : State :=
  let h := homeOf (line * 128)
  let s2 := match (s.slice h).entry line with
    | some e => s.ownerData core ctx line e
    | none => s
  let s3 := s2.invalidate line keep
  let s4 := match keep with
    | some c => s3.modCore c (fun C => { C with l1 := C.l1.map (fun (x : L1Line) => if x.line = line then { x with excl := false } else x) })
    | none => s3
  let s5 := s4.modSlice h (fun S => S.modEntry line (fun e =>
    { e with dirty := e.way.isSome, owner := none, sharers := match keep with
      | some c => e.sharers &&& clusterBit c
      | none => 0 }))
  ((s5.wakeLine line).wakeSpilled line).freeBypass line

/-- R310: a Write of a line at its home. -/
def State.sliceWriteLine (s : State) (core ctx line : Nat) (keep : Option Nat) : State := (s.lookup core ctx line).writtenLine core ctx line keep

/-- R315: poison that a write of bytes leaves: a unit that the write covers whole is cleared. -/
def clearPoison (poison : List Nat) (a n : Nat) : List Nat :=
  poison.filter (fun u => !(decide (a ≤ u * 16) && decide (u * 16 + 16 ≤ a + n)))

/-- R158: the bytes that the writes of one instruction leave, in order of address: the later lane's byte stands. -/
def putList (m : Tbl Byte) : Nat → List Byte → Tbl Byte
  | _, [] => m
  | a, b :: t => putList (tput m a b) (a + 1) t
def cellsOf (ws : List Write) : List Host.Cell := ws.foldl (fun m w => putList m w.addr w.bytes) []
/-- Consecutive bytes. -/
def cellsAt (a : Nat) (bs : List Byte) : List Host.Cell := ((upto bs.length).zip bs).map (fun q => (a + q.1, q.2))
def putCells (m : Tbl Byte) (cells : List Host.Cell) : Tbl Byte := cells.foldl (fun m q => writeByte m q.1 q.2) m
/-- R289, R315: a write that covers a whole 16-byte unit clears its poison. -/
def clearCells (poison : List Nat) (cells : List Host.Cell) : List Nat :=
  poison.filter (fun u => !(upto 16).all (fun i => cells.any (fun q => decide (q.1 = 16 * u + i))))

/-- The grants that a core has been given and has not been admitted on. -/
def Slice.granted (S : Slice) (core : Nat) : Nat := (S.grants.filter (fun c => decide (c = core))).length

/-- R342: a free queue entry goes to the first booking that has an entry with no grant. -/
def Slice.serveOne (S : Slice) : Slice :=
  if 64 ≤ S.accept.length + S.grants.length then S
  else match S.booking.find? (fun b => decide (S.granted b.1 < b.2)) with
  | some b => { S with grants := S.grants ++ [b.1] }
  | none => S
def Slice.serve (S : Slice) : Slice := (upto 64).foldl (fun S _ => S.serveOne) S

/-- A counted entry of a core's booking is admitted, or is gone (R339, R342). -/
def Slice.unbook (S : Slice) (core : Nat) : Slice :=
  { S with grants := S.grants.erase core,
           booking := (S.booking.map (fun b => if b.1 = core then (b.1, b.2 - 1) else b)).filter (fun b => decide (0 < b.2)) }

/-- R342: a late refusal books an entry of a core. -/
def Slice.book (S : Slice) (core : Nat) : Slice :=
  if S.booking.any (fun b => decide (b.1 = core)) then
    { S with booking := S.booking.map (fun b => if b.1 = core then (b.1, b.2 + 1) else b) }
  else { S with booking := S.booking ++ [(core, 1)] }

/-- A number has been given. -/
def State.nextNumber (s : State) : State := { s with nextId := s.nextId + 1 }

/-- Apply the accepted packet at the head of a slice's queue (R335); a poisoned unit stays poisoned and is reported, and the
acknowledgement is sent. -/
def State.applyHead (s : State) (h : Nat) : State :=
  match (s.slice h).accept with
  | [] => s
  | (core, id) :: rest =>
    let s0 := s.modSlice h (fun S => ({ S with accept := rest, freedAt := s.time } : Slice).serve)
    match (s.core core).pkts.find? (fun p => decide (p.id = id)) with
    | none => s0
    | some p =>
      let line := p.block / 2
      let s1 := s0.sliceWriteLine core p.ctx line none
      let s2 := { s1 with mem := applySlots s1.mem p.block p.op p.slots }
      let s3 := if p.slots.any (fun q => s2.poison.elem (p.block * 4 + q.1 / 4))
        then s2.report 4 2 p.part p.ctx (h / 32) (h % 32) (p.block * 64) else s2
      (s3.modCore core (fun C => { C with pkts := C.pkts.map (fun x => if x.id = id then { x with stage := .applied, answer := s3.nextId } else x) })).nextNumber.fly id 0 1
        (s3.pathBack core (p.block * 64))

/-- R334: a later request for a line waits until the queued accumulates of the line have been applied. -/
def State.settleLine (s : State) (line : Nat) : State :=
  let h := homeOf (line * 128)
  let isFor (s : State) (q : Nat × Nat) : Bool :=
    match (s.core q.1).pkts.find? (fun p => decide (p.id = q.2)) with
    | some p => decide (p.block / 2 = line)
    | none => false
  if (s.slice h).accept.any (isFor s) then
    (upto ((s.slice h).accept.length)).foldl (fun s _ => if (s.slice h).accept.any (isFor s) then s.applyHead h else s) s
  else s

/-- R310: a line is read at its home slice. An Exclusive owner is recalled to Shared with its data. -/
def State.readAt (s : State) (core ctx line : Nat) : State :=
  let h := homeOf (line * 128)
  let s1 := (s.settleLine line).lookup core ctx line
  match (s1.slice h).entry line with
  | some e =>
    match e.owner with
    | some o =>
      let s2 := (s1.ownerData core ctx line e).modCore o (fun C =>
        { C with l1 := C.l1.map (fun (x : L1Line) => if x.line = line then { x with excl := false } else x) })
      s2.modSlice h (fun S => S.modEntry line (fun e => { e with owner := none, sharers := e.sharers ||| clusterBit o }))
    | none => s1
  | none => s1

/-! ### Walks (20 R424, R426) -/

/-- The reads of a walk at their home slices, charged to the context on a core (R426). -/
def State.walkReads (s : State) (core c va : Nat) : State :=
  (s.walkTrace c va).foldl (fun (s : State) a => if s.isLocal a then (s.readAt core c (lineOf a)).freeBypass (lineOf a) else s) s

/-- R424: the leaves in which a walk has set A or D are written at their home slices; `s0` is the state before the walk. -/
def State.walkWrites (s0 : State) (core c va : Nat) (s : State) : State :=
  (dedup (((s0.walkTrace c va).filter (fun a => s0.isLocal a && decide (readNum s0.mem a 8 ≠ readNum s.mem a 8))).map lineOf)).foldl
    (fun (s : State) l => s.sliceWriteLine core c l none) s

/-- R425, R426: a translation for a core. -/
def State.translateAt (s : State) (core c : Nat) (va : W64) (acc : Access) (level : Nat) : State × Trans :=
  let a := va.toNat % 2 ^ 57
  if s.walks core c a acc level then
    let s0 := s.walkReads core c a
    let r := s0.translate core c va acc level
    (s0.walkWrites core c a r.1, r.2)
  else s.translate core c va acc level

/-! ### Write packets (R310, R316, R319) -/

/-- R316: the flits of a Write packet: its bytes with their mask. -/
def OutWrite.flits (w : OutWrite) : Nat := writeFlits w.cells.length

/-- A write to memory at its place, as the home slice or an exclusive line performs it (R315). -/
def State.putBytes (s : State) (cells : List Host.Cell) : State :=
  { s with mem := putCells s.mem cells, poison := clearCells s.poison cells }

/-- R310, R538: a Write reaches its home slice, or leaves for another package. The writing core's copy is kept (R226). -/
def State.writeHome (s : State) (core ctx line : Nat) (cells : List Host.Cell) : State :=
  if s.isLocal (line * 128) then
    let keep := match s.l1Line core line with
      | some _ => some (s.l1Core core line)
      | none => none
    let s1 := (s.settleLine line).sliceWriteLine core ctx line keep
    s1.putBytes cells
  else s.remoteWrite core ctx cells

/-- R319: packets of one class from one cluster to one slice arrive in the order sent: whether a store has an older one ahead. -/
def State.behind (s : State) (core : Nat) (w : OutWrite) : Bool :=
  s.cores.any (fun c => decide (clusterOfCore c.1 = clusterOfCore core) && c.2.out.any (fun v =>
    decide (v.id < w.id) && decide (homeOf (v.line * 128) = homeOf (w.line * 128)) && decide (v.line / 2 ^ 35 = w.line / 2 ^ 35) &&
    decide (s.requestClass core v.ctx = s.requestClass core w.ctx)))

/-- A store of a core on its way reaches its home slice. -/
def State.sendWrite (s : State) (core id : Nat) : State :=
  match (s.core core).out.find? (fun w => decide (w.id = id)) with
  | none => s
  | some w =>
    ((s.land id).modCore core (fun C => { C with out := C.out.filter (fun v => decide (v.id ≠ id)) })).writeHome core w.ctx w.line w.cells

/-- The stores on their way that meet a test, oldest first: core and packet. -/
def State.outWrites (s : State) (test : Nat → OutWrite → Bool) : List (Nat × OutWrite) :=
  sortBy (fun a b => decide (a.2.id ≤ b.2.id)) (s.cores.flatMap (fun c => (c.2.out.filter (test c.1)).map (fun w => (c.1, w))))

/-- R319: before a request of a context on a core reaches a home slice, the stores of its class that left the cluster for that
slice earlier have reached it. -/
def State.settleEndpoint (s : State) (core ctx line : Nat) : State :=
  (s.outWrites (fun c w => decide (clusterOfCore c = clusterOfCore core) && decide (homeOf (w.line * 128) = homeOf (line * 128)) &&
    s.isLocal (w.line * 128) && decide (s.requestClass core w.ctx = s.requestClass core ctx))).foldl
    (fun (s : State) q => (s.sendWrite q.1 q.2.id).returnMeter q.1 q.2.ctx) s

/-- Every store of a core reaches its home slice, in order. -/
def State.sendAll (s : State) (core : Nat) : State :=
  (s.core core).out.foldl (fun s w => s.sendWrite core w.id) s

/-! ### L1 capacity (R224 to R226) -/

/-- R224: banks on each core. -/
def Launch.banks (L : Launch) : Nat := L.scratch / 32768 * (if L.xg = 0 then 1 else 2)
def Team.uses (T : Team) (core : Nat) : Bool := T.onDie && (decide (T.core = core) || (T.launch.pair && decide (T.core + 1 = core)))

/-- R224: the lines of a core's L1: 256 in each of the twelve banks that no resident team holds. -/
def State.l1Room (s : State) (core : Nat) : Nat :=
  (12 - s.teams.foldl (fun n p => if p.2.uses core then n + p.2.launch.banks else n) 0) * 256

/-- R310: a write-back from an Exclusive eviction. -/
def State.sliceWriteBack (s : State) (core line : Nat) : State :=
  let s1 := s.dropL1 core line
  ((s1.modSlice (homeOf (line * 128)) (fun S => S.modEntry line (fun e =>
    { e with owner := none, sharers := 0, dirty := e.way.isSome }))).wakeSpilled line).freeBypass line

/-- A line leaves an L1 for want of room: one held exclusive is written back first (R225, R226). -/
def State.evictL1 (s : State) (core : Nat) (x : L1Line) : State :=
  if x.excl then s.sliceWriteBack core x.line else (s.dropL1 core x.line).freeBypass x.line

/-- A full L1 gives up a line. Which one is not known (notes/assumptions/29.md). -/
def State.makeRoom (s : State) (core line : Nat) : State :=
  let C := s.core core
  if C.l1.any (fun x => decide (x.line = line)) || decide (C.l1.length < s.l1Room core) then s
  else
    let s1 := s.free.2
    match C.l1[s.free.1.toNat % max 1 C.l1.length]? with
    | some x => s1.evictL1 core x
    | none => s1

/-- R226: a line comes into the L1 that serves a core. -/
def State.putL1 (s : State) (core line : Nat) (excl : Bool) : State :=
  let c := s.l1Core core line
  (s.makeRoom c line).modCore c (fun C => C.setL1 line excl)

/-- R225: banks of a core's L1 become scratch: the lines in them leave. Which lines those are is not known, but no more stay than
the other banks hold. -/
def State.takeBanks (s : State) (core : Nat) : State :=
  let ls := (s.core core).l1
  let lost (i : Nat) : Bool := (Config.freeWord (s.fuel + i / 64)).getLsbD (i % 64)
  let s1 : State := { s with fuel := s.fuel + (ls.length + 63) / 64 }
  let s2 := ((upto ls.length).zip ls).foldl (fun (s : State) q => if lost q.1 then s.evictL1 core q.2 else s) s1
  ((s2.core core).l1.drop (s2.l1Room core)).foldl (fun (s : State) x => s.evictL1 core x) s2

/-! ### Requests of cores (R310) -/

/-- R310: a Read. -/
def State.readLine (s : State) (core ctx line : Nat) : State := (s.inject core ctx 1).readAt core ctx line
/-- A Read that takes no copy: an engine's or a packet's. -/
def State.fetchLine (s : State) (core ctx line : Nat) : State := (s.readLine core ctx line).freeBypass line
/-- A Read by a core or by an engine of a core, which keeps its order behind the cluster's stores (R319). -/
def State.sliceFetch (s : State) (core ctx line : Nat) : State := (s.settleEndpoint core ctx line).fetchLine core ctx line

/-- R310: a Read: a load or prefetch miss, a fetch or a fill. -/
def State.sliceRead (s : State) (core ctx line : Nat) : State :=
  let s1 := (s.settleEndpoint core ctx line).readLine core ctx line
  (s1.modSlice (homeOf (line * 128)) (fun S => S.modEntry line (fun e => { e with sharers := e.sharers ||| clusterBit core }))).putL1 core line false

/-- R226: a load of a line: an L1 hit asks nothing of the home slice. -/
def State.touch (s : State) (core ctx line : Nat) : State :=
  match s.l1Line core line with
  | some _ => s
  | none => s.sliceRead core ctx line

/-- R336: whether an Own request for a line waits: accumulate refusals are pending and the core is not the owner. -/
def State.ownHeld (s : State) (core line : Nat) : Bool :=
  let S := s.slice (homeOf (line * 128))
  match S.entry line with
  | some e => e.refuse.isSome && !s.ownsLine core line
  | none => (tfind S.refused line).isSome

/-- R310: an Own request, for an atomic. -/
def State.sliceOwn (s : State) (core ctx line : Nat) : State :=
  if s.ownsLine core line then s
  else
    let h := homeOf (line * 128)
    let s1 := (((s.settleEndpoint core ctx line).inject core ctx 1).settleLine line).lookup core ctx line
    let c := s1.l1Core core line
    let s2 := match (s1.slice h).entry line with
      | some e => s1.ownerData core ctx line e
      | none => s1
    let s3 := s2.invalidate line (some c)
    let s4 := s3.modSlice h (fun S => S.modEntry line (fun e => { e with owner := some c, sharers := 0, granted := s3.time }))
    (s4.putL1 core line true).wakeSpilled line

end Sys2Proof.Machine
end

