-- ==== Sys2Proof/Machine/Ops.lean ====
section
/-! DEFINITION. The named operations that every meaning is made of: lookahead windows (03 R83 to R86), the end of a
word (08 R178; 03 R89, R90), taking a trap and returning from one (11 R256 to R269), access checks, replays, loads and
stores of a lane (07 R155 to R167; 10 R227, R228). -/

namespace Sys2Proof.Machine

/-! ### Whether and how a word issues -/

/-- R33, R85: the registers that lanes which have issued a get, a `coll.wait` or a `vf.stat` with no window are still to write. -/
def LaneState.awaited (x : LaneState) : List Reg :=
  match x with
  | .waiting (.future _ d n) => (upto n).map (fun i => .s (d + i))
  | .waiting (.coll _ d) => [.s d]
  | .point d => [.s d]
  | _ => []
def Gang.awaited (G : Gang) : List Reg := G.lst.flatMap (fun q => q.2.awaited)

/-- A get in its window (R370). -/
def PendKind.isGet (k : PendKind) : Bool :=
  match k with
  | .future _ _ _ => true
  | _ => false

/-- R33, R85, R86, R332: whether a word of the issuing run waits for a pending result, for a result that Waiting lanes are to write,
or for accumulates of the run that have not left the core's port. A word that ends windows waits for the results that bind its own
lanes (notes/assumptions/61.md), and an access of memory for the gets whose windows bind them, which it comes after (R86, R377, R385). -/
def Gang.waits (G : Gang) (run : List Nat) (i : Instr) : Bool :=
  (i.isAccess && G.pend.any (fun p => !p.done && p.kind.isGet && p.binds run)) ||
  G.port.any (fun a => run.any (fun l => a.lanes.getLsbD l)) ||
  (!G.awaited.isEmpty && (regsNamed i).any (fun r => G.awaited.elem r)) ||
  G.pend.any (fun p => !p.done &&
    (p.spent run || (i.endsWindow && p.binds run) || (!p.openFor run && p.names (regsNamed i))))

/-- R90, R162, R272: the words whose progress PIDX holds. -/
def keepsProgress (i : Instr) : Bool :=
  match i with
  | .rep _ _ _ _ _ => true | .gath _ _ _ => true | .gathSigned _ _ _ => true | .scat _ _ => true
  | _ => false

/-- What a trap records (R261, R262). -/
structure TrapRec where
  causes  : Tbl Nat
  addr    : W64 := 0
  code    : Nat := 0
  late    : Bool := false
  stepped : Bool := false
  keep    : Bool := false
  deriving DecidableEq, Repr

/-- The same cause for every listed lane. -/
def causeAll (ls : List Nat) (c : Nat) : Tbl Nat := ls.map (fun l => (l, c))

def trapAll (ls : List Nat) (c : Nat) (addr : W64) (i : Instr) : TrapRec :=
  { causes := causeAll ls c, addr := addr, keep := keepsProgress i }

/-- R499: the vector registers that a word reads: all that it names but its destination. Bit 7 of the last byte is DS, but in the
immediate formats of 0x19 to 0x1A and 0x21 to 0x22 it is a bit of the immediate (R72). `bfi` reads its destination (R121). -/
def regsRead (i : Instr) : List Reg :=
  match i with
  | .pairWord a b => (a.reads ++ b.reads).map .v
  | _ =>
  let destD : Bool := match encodeFields i with
    | none => false
    | some f =>
      let op := f.op.toNat
      let scalarD : Bool := if op = 0x19 ∨ op = 0x1A then f.fn == 1 else if op = 0x21 ∨ op = 0x22 then false else f.m.getLsbD 7
      !scalarD && !(match i with
        | .bfi _ _ _ _ _ _ => true
        | _ => false) && (decide (0x10 ≤ op ∧ op ≤ 0x1A) || op == 0x1E || op == 0x1F || op == 0x20 || op == 0x21 || op == 0x22 ||
        (decide (0x30 ≤ op ∧ op ≤ 0x3E) && op != 0x33) || op == 0x50 || op == 0x52 || op == 0x56 || op == 0x59 ||
        op == 0x5B || op == 0x5F || op == 0x60 || op == 0x6E || op == 0x7D)
  let d : Nat := match encodeFields i with
    | none => 256
    | some f => f.d.toNat
  let isD (r : Ref) : Bool := match r with
    | .v n => decide (n = d) | .pair n => decide (n = d) | .quad n => decide (n = d)
    | _ => false
  (if destD then removeFirst isD i.refs else i.refs).flatMap Ref.regs

/-- R129, R130: the lanes whose register `n` a word reads for a lane. -/
def Gang.lanesRead (G : Gang) (act : List Nat) (i : Instr) (l n : Nat) : List Nat :=
  match i with
  | .bcast _ _ _ _ b => [G.lanePick b]
  | .vrd _ _ _ _ b => [G.lanePick b]
  | .shfl _ mode t _ a b _ =>
    (if (vr a t.wide).regs.elem (.v n) then [G.shflLane act mode b l] else []) ++ (if !b.sc && decide (b.n.toNat = n) then [l] else [])
  | _ => [l]

/-- R499: the lanes of Active that read a register with an uncorrectable error. -/
def State.badLanes (s : State) (i : Instr) : List Nat :=
  let G := s.curGang
  if G.bad.isEmpty then []
  else
    let act := s.active i.grd
    let L := s.curTeam.launch
    act.filter (fun l => (regsRead i).any (fun r => match r with
    | .v n => (G.lanesRead act i l n).any (fun k => G.bad.elem (poolKey k n))
    | _ => false) || (match i with
    | .cmov _ _ a n => G.bad.elem (poolKey l (accReg L G.width a.toNat n.toNat))
    | _ => false))

/-- R77 checks 4 to 6, then the reads of registers (R499), of `prf` too (notes/assumptions/73.md). -/
def State.precheck (s : State) (i : Instr) : Option TrapRec :=
  let G := s.curGang
  let run := s.runLanes
  if !i.refs.all (Ref.legal s.curTeam.launch G) then some (trapAll run 1 0 i)
  else match (if i.endsWindow then none else G.pend.find? (fun p => p.openFor run && p.names (regsNamed i))) with
  | some p => some (trapAll run 3 p.word i)
  | none =>
    if i.privileged && !G.privileged then some (trapAll run 2 0 i)
    else match s.badLanes i with
    | [] => none
    | ls => some (trapAll ls 12 0 i)

/-- A word that waits for nothing and passes checks 4 to 6 of R77: its meaning is its own effect. -/
def State.clear (s : State) (i : Instr) : Bool := !s.curGang.waits s.runLanes i && (s.precheck i).isNone

/-- R171: the lanes of the run are Held: the word has not issued, and they try again. -/
def State.hold (s : State) : Out := .next { s with note := .held }

/-! ### The end of a word -/

/-- The word of the issuing run ends, and every lane of the run is at the next word. -/
def State.finish (s : State) (ends : Bool) : State :=
  s.setCur (s.curGang.closeWord s.runLanes ends (fun _ => s.cur.pc + 8))
/-- The word ends with lanes at the PCs that a function names. -/
def State.finishAt (s : State) (ends : Bool) (f : Nat → W64) : State :=
  s.setCur (s.curGang.closeWord s.runLanes ends f)

def State.next (s : State) : Out := .next (s.finish false)
def State.nextEnds (s : State) : Out := .next (s.finish true)

/-- R82, R83: the word's results are pending, with a window of `la` words for the lanes of its run. -/
def State.openWindow (s : State) (la : Nat) (regs : List Reg) (kind : PendKind) (ws : List RegWrite) (fl : Tbl Flg)
    (ecc : Option (LaneMask × W64)) : State :=
  let (s, ms) := s.takeMisses
  let p : Pend := ⟨s.nextId, s.cur.pc, regs, s.cur.lanes, s.runLanes.map (fun l => (l, la)), kind, ws, fl, ecc, false, ms, none⟩
  let s1 := s.finish false
  { s1.setCur { s1.curGang with pend := s1.curGang.pend ++ [p] } with nextId := s.nextId + 1 }

/-- A word with register results: written at once when la = 0, pending otherwise. -/
def State.results (s : State) (la : Nat) (regs : List Reg) (ws : List RegWrite) (fl : Tbl Flg) : State :=
  if la = 0 then
    let G := s.curGang.applyWrites ws
    (s.setCur (fl.foldl (fun G q => G.orFstat q.1 q.2) G)).finish false
  else s.openWindow la regs .data ws fl none

/-! ### Traps (R256 to R269) -/

/-- R261: four bits per lane. -/
def lanesWord (causes : Tbl Nat) (i : Nat) : W64 :=
  (causes.filter (fun q => decide (q.1 / 16 = i))).foldl (fun w q => w ||| (BitVec.ofNat 64 (q.2 % 16) <<< (4 * (q.1 % 16)))) 0

/-- R261: the lowest cause recorded. -/
def lowestCause (causes : Tbl Nat) : Nat :=
  match causes.map (·.2) with
  | [] => 0
  | c :: t => t.foldl min c

/-- R262, R265: TSTAT: STEP is kept, and LEVEL is what delivery gives; delivery to the host writes neither LEVEL nor NEST
(notes/assumptions/43.md). -/
def trapStat (old : W64) (x : TrapRec) (level : Nat) (host : Bool) : W64 :=
  (old &&& 0x80) ||| (if x.stepped then 0x40 else 0) ||| (if x.late then 0x10 else 0) |||
  (if host then old &&& 8 else if old &&& 3 = 0 then 0 else 8) ||| (if x.keep then 4 else 0) ||| BitVec.ofNat 64 level

/-- R261: the trap registers of a gang. -/
def Gang.record (G : Gang) (pc : W64) (x : TrapRec) (level : Nat) (host : Bool) : Gang :=
  { G with
    tcause := BitVec.ofNat 64 (x.code * 256 + lowestCause x.causes)
    tlanes := (upto 4).foldl (fun t i => tset 0 t i (lanesWord x.causes i)) []
    taddr := x.addr, tpc := pc, tstat := trapStat G.tstat x level host
    pidx := if x.keep then G.pidx else 0 }

/-- R265: where a trap goes: 1 the kernel handler, 2 the supervisor handler, 3 the host. -/
def State.handlerOf (s : State) (ctx level cause : Nat) : Nat :=
  if level = 0 ∧ (s.ctx ctx).kdeleg.getLsbD cause ∧ (s.ctx ctx).khandler ≠ 0 then 1
  else if level ≤ 1 ∧ (s.part (s.partOf ctx)).shandler ≠ 0 then 2
  else 3

/-- R263: a write of WDOG takes effect at the next trap or rotation of the context. -/
def State.latchWdog (s : State) (c : Nat) : State :=
  if (s.ctx c).wdogNow = (s.ctx c).wdog then s else s.modCtx c (fun C => { C with wdogNow := C.wdog })

/-- R272: the lanes of a `rep`, `gath` or `scat` that is in progress are among those of a mask. -/
def Gang.inProgress (G : Gang) (m : LaneMask) : Bool :=
  match G.prog with
  | some (.rep _ _ _ _ _ run) => decide (run &&& m ≠ 0)
  | some (.lanes run _) => decide (run &&& m ≠ 0)
  | none => false

/-- R265, R275, R276: the stop request of a trap that the host is to handle. In a save that has begun it merges with it: the save's bound
runs on, and the trap gives the reason (notes/assumptions/62.md). -/
def Team.trapRequest (T : Team) (g reason time : Nat) : StopReq :=
  match T.stopReq with
  | some r => if r.stopped.isSome then { r with reason := reason, forced := true, gang := some g }
    else { reason := reason, since := time, forced := true, stopped := none, gang := some g }
  | none => { reason := reason, since := time, forced := true, stopped := none, gang := some g }

/-- R265: taking a trap of a run of a gang whose first lane is at `pc`. A trap that the host is to handle asks for the save of
the team, and the host is told when it is done (R276). -/
def State.deliver (s : State) (t g : Nat) (run : List Nat) (pc : W64) (x : TrapRec) : State :=
  let T := s.team t
  let G := T.gang g
  let live := run.filter (fun l => decide (G.laneState l ≠ .exited))
  let n := s.handlerOf T.ctx G.level (lowestCause x.causes)
  let m := bitsOf run
  let G0 : Gang := { G with prog := none, stepArm := G.stepArm &&& ~~~m, stepped := G.stepped &&& ~~~m, stop := .none, failed := [] }
  let x := { x with keep := x.keep || G.inProgress m }
  let s := s.latchWdog T.ctx
  if n = 3 then
    s.setTeam t { T.setGang g { G0.record pc x G.level true with stop := .saved } with
      stopReq := some (T.trapRequest g (if G.level = 2 then 7 else 6) s.time) }
  else
    let h := if n = 1 then (s.ctx T.ctx).khandler else (s.part (s.partOf T.ctx)).shandler
    let G1 := G0.record pc x n false
    let G2 := G1.eachLane live (fun G l => ((G.setLane l .ready).setPc l h).setAge l 0)
    s.setTeam t (T.setGang g { G2 with hset := bitsOf live })

/-- R258: the cause of a late trap: ECC, or FUTURE for a get. -/
def Pend.cause (p : Pend) : Nat := if p.kind = .lost then 14 else 12

/-- R258: the late trap of a pending result: the run is the lanes of its word that share the PC of the lowest affected lane, with those
that are Waiting or Held at their next word. -/
def State.lateTrap (s : State) (t g : Nat) (p : Pend) (cause : Nat) (lanes : LaneMask) (addr : W64) : State :=
  let G := s.gang t g
  let ls := (lanesOf lanes G.width).filter (fun l => decide (G.laneState l ≠ .exited))
  let s1 := s.setGang t g ({ G with pend := G.pend.filter (fun q => decide (q.id ≠ p.id)) })
  match ls with
  | [] => s1
  | l0 :: _ =>
    let run := (lanesOf p.lanes G.width).filter (fun l => decide (G.laneState l ≠ .exited) && decide (G.pc l = G.pc l0))
    s1.deliver t g run (G.pc l0) { causes := causeAll ls cause, addr := addr, late := true }

/-- R86: the results that come by themselves are written. -/
def Gang.completeData (G : Gang) : Gang :=
  (G.pend.filter (fun p => decide (p.kind = .data) && p.ecc.isNone && !p.done)).foldl (fun G p => G.complete p.id) G

/-- R86, R439: the results of a gang that come by themselves are written, and the charges of their misses are taken. -/
def State.completeData (s : State) (t g : Nat) : State :=
  let G := s.gang t g
  (s.setGang t g G.completeData).chargeMisses ((G.pend.filter (fun p => decide (p.kind = .data) && p.ecc.isNone && !p.done)).flatMap (·.misses))

/-- R439: the charges of every miss that a team waits for. -/
def State.resolveMisses (s : State) (t : Nat) : State :=
  (s.team t).gangs.foldl (fun (s : State) g => s.chargeMisses ((g.2.pend.filter (fun p => !p.done)).flatMap (·.misses))) s

/-- R258: a result that will end in a late trap. -/
def Pend.late (p : Pend) : Bool := !p.done && p.ecc.isSome

/-- R86: nothing is pending but results that end in late traps. -/
def Gang.settled (G : Gang) : Bool := G.pend.all (fun p => p.done || p.late)

/-- R258: the first late trap of a gang is taken. -/
def State.takeLate (s : State) (t g : Nat) (p : Pend) : State :=
  match p.ecc with
  | some (m, a) => (s.chargeMisses p.misses).lateTrap t g p p.cause m a
  | none => s

/-- A trap of the issuing run. It waits for every pending result (R84, R86, R256); an earlier word's late trap comes first,
and the word has then not issued (R258). DESIGN CHOICE: it ends the windows of its lanes, so that their flags are in FSTAT for the handler
(notes/assumptions/65.md). -/
def State.trapRun (s : State) (x : TrapRec) : State :=
  let s1 := s.completeData s.cur.team s.cur.gang
  let G := s1.curGang
  if !G.settled then s1.setCur { G with stop := .trapWait s.cur.lanes }
  else match G.pend.find? Pend.late with
  | some p => { s1.takeLate s.cur.team s.cur.gang p with note := .late }
  | none =>
    let G1 := G.countWindows s.runLanes true
    { (s1.setCur G1).deliver s.cur.team s.cur.gang s.runLanes s.cur.pc x with note := .trapped }

/-- Run a word: it waits (R85, R86), or a check of R77 stops it, or its meaning follows. -/
def runWord (i : Instr) (s : State) (body : State → Out) : Out :=
  if s.curGang.waits s.runLanes i then s.hold
  else match s.precheck i with
  | some x => .next (s.trapRun x)
  | none => body s

/-- R33, R113: a gang-uniform change, once, if some lane is active. -/
def Gang.mapOnce (G : Gang) (act : List Nat) (f : Gang → Gang) : Gang := if act.isEmpty then G else f G

/-- A cause recorded in every lane of the run (R77). -/
def State.trapAllRun (s : State) (i : Instr) (c : Nat) (addr : W64) : State := s.trapRun (trapAll s.runLanes c addr i)
/-- A cause recorded in the listed lanes. -/
def State.trapLanes (s : State) (i : Instr) (ls : List Nat) (c : Nat) (addr : W64) : State := s.trapRun (trapAll ls c addr i)

/-- R269: the frozen lanes are released, and the handler ends; one that stood at an `rfe` issues it afresh. A set STEP lets the
returning lanes issue one word. -/
def Gang.endHandler (G : Gang) (back : List Nat) (release : List Nat) : Gang :=
  let frozen := G.allLanes.filter (fun l => !G.hset.getLsbD l)
  let thaw (G : Gang) (l : Nat) : Gang := match G.laneState l with
    | .rfe _ => (G.setLane l .ready).setAge l 0
    | _ => G.setAge l 0
  let G1 := (G.eachLane frozen thaw).eachLane back (fun G l =>
    let skip := match G.laneState l with
      | .rfe true => 8
      | _ => 0
    G.release l (G.tpc + skip))
  { G1 with tstat := G1.tstat &&& ~~~3#64, hset := 0,
            stepArm := if G.tstat.getLsbD 7 then G.stepArm ||| bitsOf release else G.stepArm }

/-- R269: a handler ends when every lane of HSET that has not exited is Held at `rfe`, or when every one has exited. -/
def Gang.tryEnd (G : Gang) : Gang :=
  if G.level = 0 then G
  else
    let live := G.liveLanes.filter (fun l => G.hset.getLsbD l)
    let atRfe (l : Nat) : Bool := match G.laneState l with
      | .rfe _ => true
      | _ => false
    if live.all atRfe then G.endHandler live live else G

/-! ### Access checks (R155, R156, R164) -/

/-- Where an access goes. `split` is bytes of a const image that cross from one line into the next, `n` of them in the first, `args` is
the arguments of a future child, `zero` the const space of a launch without an image. -/
inductive Loc where
  | mem (pa : Nat)
  | scr (a : Nat)
  | split (pa n pb : Nat)
  | args (o : Nat)
  | zero
  deriving DecidableEq, Repr

/-- The outcome of CheckAccess: a place, a cause, or a missing page. -/
inductive Chk where
  | ok (l : Loc)
  | bad (c : Nat)
  | page (k : PageKey) (ask : Bool)
  deriving DecidableEq, Repr

/-- R156: the scratchpad bytes of a team: both halves in a pair team. -/
def Launch.scratchSpace (L : Launch) : Nat := if L.pair then 2 * L.scratch else L.scratch

/-- R164 steps 3 and 4 for a global address. A page that has been refused is NOT_PRESENT (R166, R432). -/
def State.checkMapped (s : State) (t g : Nat) (va : W64) (acc : Access) : State × Chk :=
  let T := s.team t
  let G := T.gang g
  let page := va.toNat % 2 ^ 57 / 4096 * 4096
  if G.failed.elem (page, false) then (s, .page (page, false) false)
  else match s.translateAt G.core T.ctx va acc G.level with
  | (s1, .ok pa) => (s1, .ok (.mem pa))
  | (s1, .denied _) => (s1, .bad 7)
  | (s1, .missing p z ask) => (s1, if ask && !G.failed.elem (p, z) then .page (p, z) true else .page (p, z) false)

/-- R477, R524: a read of the const image, which need not be aligned as the access is. -/
def State.checkImage (s : State) (t g : Nat) (va : W64) (sz : Nat) (acc : Access) : State × Chk :=
  let n := 128 - va.toNat % 128
  match s.checkMapped t g va acc with
  | (s1, .ok (.mem pa)) =>
    if sz ≤ n then (s1, .ok (.mem pa))
    else match s1.checkMapped t g (va + BitVec.ofNat 64 n) acc with
      | (s2, .ok (.mem pb)) => (s2, .ok (.split pa n pb))
      | r => r
  | r => r

/-- R164, R294: CheckAccess for an access of `sz` bytes at an exact address of a space. -/
def State.checkAccess (s : State) (t g : Nat) (sp : Space) (a : Int) (sz : Nat) (acc : Access) : State × Chk :=
  let T := s.team t
  match sp with
  | .glob =>
    let va := BitVec.ofInt 64 a
    if !canonicalVA va then (s, .bad 5)
    else if va.toNat % sz ≠ 0 then (s, .bad 6)
    else s.checkMapped t g va acc
  | .scratch =>
    if a < 0 ∨ (T.launch.scratchSpace : Int) ≤ a then (s, .bad 5)
    else if a.toNat % sz ≠ 0 then (s, .bad 6)
    else (s, .ok (.scr a.toNat))
  | .shadow =>
    if a < 0 ∨ 2 ^ 23 ≤ a ∨ T.launch.xg ≤ a.toNat / 2 ^ 18 ∨ T.launch.scratchSpace ≤ a.toNat % 2 ^ 18 then (s, .bad 5)
    else if a.toNat % sz ≠ 0 then (s, .bad 6)
    else (s, .ok (.scr a.toNat))
  | .const =>
    if a < 0 ∨ ((256 + T.launch.cBytes : Nat) : Int) ≤ a then (s, .bad 5)
    else if a.toNat % sz ≠ 0 then (s, .bad 6)
    else if T.child then
      if a < 256 then (s, .ok (.args a.toNat))
      else s.checkImage t g (T.imgAddr + BitVec.ofInt 64 a - 256) sz acc
    else if T.launch.cAddr = 0 then (s, .ok .zero)
    else s.checkImage t g (T.launch.cAddr + BitVec.ofInt 64 a) sz acc

/-- What the checks of the lanes of one instruction found. -/
structure Checked where
  st     : State
  locs   : List (Nat × Loc) := []
  causes : Tbl Nat := []
  addrs  : Tbl W64 := []
  pages  : List (PageKey × Bool) := []

/-- R157, R165: check the lanes in increasing order; each lane has its exact address. -/
def State.checkLanes (s : State) (t g : Nat) (sp : Space) (sz : Nat) (acc : Access) (ls : List (Nat × Int)) : Checked :=
  ls.foldl (fun C q =>
    match C.st.checkAccess t g sp q.2 sz acc with
    | (s1, .ok l) => { C with st := s1, locs := C.locs ++ [(q.1, l)] }
    | (s1, .bad c) => { C with st := s1, causes := C.causes ++ [(q.1, c)], addrs := C.addrs ++ [(q.1, BitVec.ofInt 64 q.2)] }
    | (s1, .page k ask) =>
      { C with st := s1, causes := C.causes ++ [(q.1, 8)], addrs := C.addrs ++ [(q.1, BitVec.ofInt 64 q.2)],
               pages := C.pages ++ [(k, ask)] })
    { st := s }

/-- Requests for the pages that are missing: their ids, and the pages for which no entry was free. -/
def State.requestAll (s : State) (c : Nat) (keys : List (PageKey × Access)) : State × List Nat × List (PageKey × Access) :=
  keys.foldl (fun r k =>
    match r.1.requestPage c k.1.1 k.1.2 k.2 false with
    | (s1, some id) => (s1, r.2.1 ++ [id], r.2.2)
    | (s1, none) => (s1, r.2.1, r.2.2 ++ [k])) (s, [], [])

/-- R166, R430: the gang issues nothing until a request for each distinct missing page is resolved; pages that find no entry are
asked for again when one is free. Its lanes are Held, so their ages start afresh (R172). -/
def State.stallFor (s : State) (t g : Nat) (keys : List ((PageKey × Access) × W64)) : State :=
  let r := s.requestAll (s.team t).ctx (dedup (keys.map (·.1)))
  let s1 := r.1.modGang t g (fun G => { G with stop := .replay r.2.1 r.2.2, ages := [], asked := keys.map (fun k => (k.1.1, k.2)) })
  if r.2.2.isEmpty then s1 else { s1 with parked := s1.parked ++ [(t, g)] }

/-- A stall for pages, each with the address that needs it. -/
def State.stall (s : State) (t g : Nat) (acc : Access) (keys : List (PageKey × W64)) : State := s.stallFor t g (keys.map (fun k => ((k.1, acc), k.2)))

/-- R165, R166: what the checks lead to: the accesses, a trap, or a stall. `all` records the one cause in every lane
of Active (`lds`, `sts`). -/
def Checked.settle (C : Checked) (i : Instr) (acc : Access) (all : Option (List Nat)) (body : State → List (Nat × Loc) → Out) : Out :=
  if C.causes.isEmpty then body C.st C.locs
  else if C.causes.all (fun q => decide (q.2 = 8)) && C.pages.all (fun p => p.2) then
    .next (C.st.stall C.st.cur.team C.st.cur.gang acc ((C.pages.map (·.1)).zip (C.addrs.map (·.2))))
  else
    let c := lowestCause C.causes
    let a := match C.causes.find? (fun q => decide (q.2 = c)) with
      | some q => tget 0 C.addrs q.1
      | none => 0
    let causes := match all with
      | some ls => causeAll ls c
      | none => C.causes
    .next (C.st.trapRun { causes := causes, addr := a, keep := keepsProgress i })

/-! ### Loads (R157, R227, R228) -/

/-- The byte that a list of writes, oldest first, leaves at a place. -/
def writtenByte (tgt : WTarget) (a : Nat) (ws : List Write) : Option Byte :=
  ws.foldl (fun r w => if w.tgt = tgt ∧ w.addr ≤ a then (match w.bytes[a - w.addr]? with | some b => some b | none => r) else r) none

/-- The byte that stores on their way, oldest first, leave at a place. -/
def cellByte (a : Nat) (ws : List OutWrite) : Option Byte :=
  ws.foldl (fun r w => match tfind w.cells a with
    | some b => some b
    | none => r) none

/-- R227, R228, R384: a byte as a gang sees it, where it has written it and it is not yet at its place: its own queue, then the stores
that have left a queue of its core, which no other core sees, in a fused cluster either. -/
def State.aheadByte (s : State) (G : Gang) (pa : Nat) : Option Byte :=
  match writtenByte .mem pa G.queue.flatten with
  | some b => some b
  | none => cellByte pa (s.core G.core).out

/-- R227, R228: a byte as a gang sees it. -/
def State.byteAt (s : State) (G : Gang) (pa : Nat) : Byte := (s.aheadByte G pa).getD (readByte s.mem pa)

def State.scratchAt (s : State) (t : Nat) (G : Gang) (a : Nat) : Byte :=
  match writtenByte (.scratch t) a G.queue.flatten with
  | some b => b
  | none => readByte (s.team t).scratch a

/-- R167, R289, R315: whether bytes of a table lie in a poisoned 16-byte unit. -/
def poisoned (ps : List Nat) (a n : Nat) : Bool := ps.any (fun u => decide (u * 16 < a + n ∧ a < u * 16 + 16))

/-- R289: an address of scratch whose data reaches a gang over the pair link: it lies in the other core's half. -/
def Team.overLink (T : Team) (G : Gang) (a : Nat) : Bool :=
  T.launch.pair && (decide (T.launch.scratch ≤ a) != decide (G.core ≠ T.core))

/-- A load of bytes of one line of memory: those that the gang's own queue, or a store of the core's on its way, holds are forwarded
(R227), and only the others carry an error of memory. -/
def State.loadMem (s : State) (t g pa n : Nat) (fresh : Bool) : State × List Byte × Bool :=
  let T := s.team t
  let G := T.gang g
  if s.isLocal pa then
    let s1 := s.touch G.core T.ctx (lineOf pa)
    (s1, (upto n).map (fun i => s1.byteAt (s1.gang t g) (pa + i)),
     (upto n).any (fun i => (s1.aheadByte (s1.gang t g) (pa + i)).isNone && poisoned s1.poison (pa + i) 1))
  else
    match s.remoteRead G.core T.ctx pa n fresh with
    | (s1, bs, bad) => (s1, ((upto n).zip bs).map (fun q => (s.aheadByte G (pa + q.1)).getD q.2), bad)

/-- The bytes of an access, and whether they carry an uncorrectable error. `fresh` tells that no earlier lane of the
instruction asked for the line. -/
def State.loadLoc (s : State) (t g : Nat) (l : Loc) (n : Nat) (fresh : Bool) : State × List Byte × Bool :=
  let T := s.team t
  let G := T.gang g
  match l with
  | .mem pa => s.loadMem t g pa n fresh
  | .split pa k pb =>
    let r := s.loadMem t g pa k true
    let q := r.1.loadMem t g pb (n - k) true
    (q.1, r.2.1 ++ q.2.1, r.2.2 || q.2.2)
  | .scr a =>
    let bs := (upto n).map (fun i => s.scratchAt t G (a + i))
    if T.overLink G a && (s.core G.core).pairLoadBad then (s.modCore G.core (fun C => { C with pairLoadBad := false }), bs, true)
    else (s, bs, (upto n).any (fun i => (writtenByte (.scratch t) (a + i) G.queue.flatten).isNone && poisoned T.poison (a + i) 1))
  | .args o => (s, (upto n).map (fun i =>
      match T.args[(o + i) / 8]? with
      | some w => w.extractLsb' (8 * ((o + i) % 8)) 8
      | none => 0), false)
  | .zero => (s, List.replicate n 0, false)

/-- R157: the value of a load, zero- or sign-extended from its bytes to 64 bits. -/
def extendBytes (sgn : Bool) (bs : List Byte) : W64 :=
  let x : W64 := BitVec.ofNat 64 (numOfBytes bs)
  if sgn then (if bs.length = 1 then (x.setWidth 8).signExtend 64 else (x.setWidth 16).signExtend 64) else x

/-- Whether a lane is the first of its instruction on its line of memory. -/
def firstOnLine (locs : List (Nat × Loc)) (q : Nat × Loc) : Bool :=
  match q.2 with
  | .mem pa => !locs.any (fun x => decide (x.1 < q.1) && (match x.2 with
      | .mem pb => decide (lineOf pb = lineOf pa)
      | _ => false))
  | _ => true

/-- The loads of the checked lanes, in order: the values, and the lanes with an error. -/
def State.loadAll (s : State) (t g n : Nat) (sgn : Bool) (locs : List (Nat × Loc)) : State × List (Nat × W64) × List Nat :=
  locs.foldl (fun r q =>
    match r.1.loadLoc t g q.2 n (firstOnLine locs q) with
    | (s1, bs, bad) => (s1, r.2.1 ++ [(q.1, extendBytes sgn bs)], if bad then r.2.2 ++ [q.1] else r.2.2)) (s, [], [])

/-- The register writes of a load into v[d] or a pair. -/
def vecWrites (d : Nat) (wide : Bool) (vs : List (Nat × W64)) : List RegWrite :=
  vs.flatMap (fun q => .v q.1 d (q.2.extractLsb' 0 32) :: (if wide then [.v q.1 (d + 1) (q.2.extractLsb' 32 32)] else []))

/-- R389: the register writes of a load whose places are read now. -/
def Reread.writes (r : Reread) (s : State) (G : Gang) : List RegWrite :=
  let vs := r.places.map (fun q => (q.1, extendBytes r.sgn ((upto r.size).map (fun i => s.byteAt G (q.2 + i)))))
  if r.vec then vecWrites r.dest r.wide vs else vs.map (fun v => .s r.dest v.2)

/-- Whether a load has a byte in common with others of `n` bytes each. -/
def Reread.meets (r : Reread) (places : List (Nat × Nat)) (n : Nat) : Bool :=
  r.places.any (fun q => places.any (fun p => decide (q.2 < p.2 + n ∧ p.2 < q.2 + r.size)))

/-- The pending loads that a test holds for keep the bytes that they have read. -/
def Gang.keepRead (G : Gang) (test : Reread → Bool) : Gang :=
  { G with pend := G.pend.map (fun p => match p.again with
    | some r => if test r then { p with again := none } else p
    | none => p) }

/-- R383: no other gang stands on the core of the issuing gang. -/
def State.aloneOnCore (s : State) : Bool :=
  s.teams.all (fun T => !T.2.onDie || T.2.gangs.all (fun g => decide (g.2.core ≠ s.curGang.core) || decide (T.1 = s.cur.team ∧ g.1 = s.cur.gang)))

/-- R382, R383, R389: a plain load of global memory with a window, whose bytes are all in memory and whose gang is alone on its core,
may take effect as late as its data returns (notes/assumptions/46.md); the earlier loads of the gang from bytes of this one keep what they
have read. -/
def State.mayReread (s : State) (la : BitVec 4) (m : MemOp) (vec sgn : Bool) (locs : List (Nat × Loc)) : State :=
  if m.sp != .glob || locs.isEmpty then s
  else
    let ps := locs.filterMap (fun q => match q.2 with
      | .mem pa => some (q.1, pa)
      | _ => none)
    let n := m.sz.bytes
    let whole := decide (ps.length = locs.length)
    let late := decide (la ≠ 0) && m.ord == .none && whole && s.aloneOnCore &&
      ps.all (fun q => s.isLocal q.2 && (upto n).all (fun i => (s.aheadByte s.curGang (q.2 + i)).isNone))
    let G := s.curGang.keepRead (fun r => !whole || r.meets ps n)
    s.setCur { G with pend := G.pend.map (fun p =>
      if late && decide (p.id + 1 = s.nextId) then { p with again := some ⟨m.d.toNat, vec, m.sz == .d, n, sgn, ps⟩ } else p) }

/-- R389: a load whose data returns may read its places anew: a free value tells. -/
def State.reread (s : State) (t g : Nat) (p : Pend) : State :=
  match p.again with
  | none => s
  | some r =>
    let (w, s1) := s.free
    if w.getLsbD 0 && r.places.all (fun q => !poisoned s.poison q.2 r.size) then
      s1.modGang t g (fun G => { G with pend := G.pend.map (fun q => if q.id = p.id then { q with writes := r.writes s G } else q) })
    else s1

/-! ### Stores (R157, R158, R227, R228) -/

/-- R227: the store queue of a gang is full. -/
def Gang.queueFull (G : Gang) : Bool := decide (32 ≤ G.queue.length)

/-- A store instruction's writes enter the gang's store queue as one entry; one that writes nothing takes none. -/
def State.enqueue (s : State) (t g : Nat) (ws : SqEntry) : State :=
  if ws.isEmpty then s else s.modGang t g (fun G => { G with queue := G.queue ++ [ws] })

/-- The write of a place. -/
def locWrite (t : Nat) (l : Loc) (bs : List Byte) : List Write :=
  match l with
  | .mem pa => [⟨.mem, pa, bs⟩]
  | .scr a => [⟨.scratch t, a, bs⟩]
  | _ => []

/-- A write of consecutive bytes to memory at its place: whole poisoned units are cleared (R315). -/
def State.putMem (s : State) (pa : Nat) (bs : List Byte) : State :=
  { s with mem := writeBytes s.mem pa bs, poison := clearPoison s.poison pa bs.length }

/-- R238, R289: bytes are written to the scratch of a team; waiters on their blocks wake. -/
def State.putScratchCells (s : State) (t : Nat) (cells : List Host.Cell) : State :=
  (dedup (cells.map (fun q => q.1 / 128))).foldl (fun (s : State) b => s.wakeScratch t b)
    (s.modTeam t (fun T => { T with scratch := putCells T.scratch cells, poison := clearCells T.poison cells }))

def State.putScratch (s : State) (t a : Nat) (bs : List Byte) : State :=
  (s.modTeam t (fun T => { T with scratch := writeBytes T.scratch a bs, poison := clearPoison T.poison a bs.length })).wakeScratch t (a / 128)

/-- R296: bytes are written to the shadow banks of a team. -/
def State.putShadow (s : State) (t : Nat) (cells : List Host.Cell) : State :=
  s.modTeam t (fun T => { T with shadow := putCells T.shadow cells, shPoison := clearCells T.shPoison cells })

/-- The bytes of an entry for one target. -/
def entryCells (e : SqEntry) (tgt : WTarget) : List Host.Cell := cellsOf (e.filter (fun w => decide (w.tgt = tgt)))
/-- The bytes of an entry for memory, line by line. -/
def entryLines (e : SqEntry) : List (Nat × List Host.Cell) :=
  let cells := entryCells e .mem
  (dedup (cells.map (fun q => lineOf q.1))).map (fun l => (l, cells.filter (fun q => decide (lineOf q.1 = l))))

/-- R226: the bytes of an entry for one line leave a queue: into an exclusive line, after the stores on their way to it, or on
their way as one packet (R316). Monitors of the line, and those of spilled teams, see the write (R238, R240). -/
def State.leaveLine (s : State) (core ctx line : Nat) (cells : List Host.Cell) : State :=
  if s.isLocal (line * 128) && s.ownsLine core line then
    let s1 := (s.outWrites (fun c w => decide (clusterOfCore c = clusterOfCore core) && decide (w.line = line))).foldl
      (fun (s : State) q => s.sendWrite q.1 q.2.id) s
    ((s1.putBytes cells).wakeLine line).wakeSpilled line
  else
    let w : OutWrite := ⟨s.nextId, ctx, line, cells⟩
    { ((s.inject core ctx w.flits).modCore core (fun C => { C with out := C.out ++ [w] })).fly w.id (s.requestClass core ctx) w.flits (s.pathHome core (line * 128))
      with nextId := s.nextId + 1 }

/-- R322: the flits that an entry takes when it leaves. -/
def State.entryFlits (s : State) (core : Nat) (e : SqEntry) : Nat :=
  (entryLines e).foldl (fun n q => if s.isLocal (q.1 * 128) && s.ownsLine core q.1 then n else n + writeFlits q.2.length) 0

/-- R158, R226 to R228: an entry leaves the queue of a gang of team `t`: into scratch, on its way to the shadow banks of another
team, or towards memory. -/
def State.leaveQueue (s : State) (core t : Nat) (e : SqEntry) : State :=
  (dedup (e.map (fun w => w.tgt))).foldl (fun (s : State) tgt => match tgt with
    | .scratch u => s.putScratchCells u (entryCells e tgt)
    | .shadow u => s.modCore core (fun C => { C with xouts := C.xouts ++ [⟨t, u, entryCells e tgt, false⟩] })
    | .mem => (entryLines e).foldl (fun (s : State) q => s.leaveLine core (s.team t).ctx q.1 q.2) s) s

/-- R228: the oldest entry of a gang's queue leaves. -/
def State.drainOne (s : State) (t g : Nat) : State :=
  let G := s.gang t g
  match G.queue with
  | [] => s
  | e :: rest => (s.setGang t g { G with queue := rest }).leaveQueue G.core t e

/-- R158, R162: a scatter in progress is still to write into its entry, so that no observer sees a lower lane's byte. -/
def Gang.scattering (G : Gang) : Bool := decide (G.stop = .none) && decide (G.queue.length ≤ 1) && (match G.prog with
  | some (.lanes _ _) => true
  | _ => false)

/-- R162, R322: the oldest entry of a gang's queue is still being made, or finds too few flits left. -/
def State.drainHeld (s : State) (t g : Nat) : Bool :=
  let G := s.gang t g
  match G.queue with
  | [] => false
  | e :: _ => G.scattering || s.limited G.core (s.team t).ctx (s.entryFlits G.core e)

/-- Every entry of the queue leaves. -/
def State.drainAll (s : State) (t g : Nat) : State := (upto (s.gang t g).queue.length).foldl (fun s _ => s.drainOne t g) s

/-- R160, R242, R314, R381, R384, R387: whether earlier stores keep a release, barrier or fence at a scope waiting: until they have left
the queue for the gang's own core; for other cores, those of a fused cluster too, until each is at its home slice. -/
def State.storesPending (s : State) (t g : Nat) (y : Scope) : Bool :=
  let T := s.team t
  let G := T.gang g
  match y with
  | .gang => false
  | .team => !G.queue.isEmpty || (T.launch.pair && !(s.core G.core).out.isEmpty)
  | _ => !G.queue.isEmpty || !(s.core G.core).out.isEmpty

/-- R73: what the order modifier of a memory word waits for before its access. -/
def State.relPending (s : State) (o : MemOrd) : Bool :=
  match o with
  | .rel y => s.storesPending s.cur.team s.cur.gang y
  | _ => false

end Sys2Proof.Machine
end

