-- ==== Sys2Proof/Machine/Memory.lean ====
section
/-! DEFINITION. Lane memory instructions (07) and the return of their data. -/

namespace Sys2Proof.Machine

/-- R155: the exact address of a lane. `contig` is set for `ldv` and `stv`. -/
def laneAddr (G : Gang) (m : MemOp) (contig : Bool) (l : Nat) : Int :=
  let base : Int :=
    if m.bv then (if m.sp == .glob then ((G.readPair l m.base.toNat).toNat : Int) else ((G.readV l m.base.toNat).toNat : Int))
    else ((G.readS m.base.toNat).toNat : Int)
  let off := m.off.toInt * (if m.scl then (m.sz.bytes : Int) else 1) + (if contig then ((l * m.sz.bytes : Nat) : Int) else 0)
  let a := base + off
  if m.sp == .glob then a % 2 ^ 64 else a

/-- The lanes of Active with their addresses. -/
def State.laneAddrs (s : State) (g : Grd) (m : MemOp) (contig : Bool) : List (Nat × Int) :=
  (s.active g).map (fun l => (l, laneAddr s.curGang m contig l))

def addrOf (ls : List (Nat × Int)) (l : Nat) : W64 :=
  match ls.find? (fun q => decide (q.1 = l)) with
  | some q => BitVec.ofInt 64 q.2
  | none => 0

/-- R83, R167: the end of a load: its writes, at once or pending (R389: some may be read anew); one that writes no register opens no window
(notes/assumptions/54.md). An uncorrectable error is an ECC trap, late when the load has a window. `all` lists the lanes that record the one cause of a gang-uniform load. -/
def State.endLoad (s : State) (i : Instr) (la : BitVec 4) (regs : List Reg) (ws : List RegWrite) (bad : List Nat) (addr : W64)
    (again : State → State := id) : Out :=
  if bad.isEmpty then .next (again (s.results (if ws.isEmpty then 0 else la.toNat) regs ws []))
  else if la = 0 then .next (s.trapLanes i bad 12 addr)
  else .next (s.openWindow la.toNat regs .data [] [] (some (bitsOf bad, addr)))

/-- R439: the charges of a load with a window are taken when its data returns. -/
def State.later (s : State) (la : BitVec 4) (locs : List (Nat × Loc)) : State := if la = 0 ∨ locs.isEmpty then s else s.holdMisses

/-- R157: `ld` and `ldv`. -/
def loadWord (i : Instr) (g : Grd) (la : BitVec 4) (m : MemOp) (sgn contig : Bool) (s : State) : Out :=
  runWord i s (fun s =>
    let ls := s.laneAddrs g m contig
    (s.checkLanes s.cur.team s.cur.gang m.sp m.sz.bytes .read ls).settle i .read none (fun s locs =>
      match (s.later la locs).loadAll s.cur.team s.cur.gang m.sz.bytes sgn locs with
      | (s1, vs, bad) => s1.endLoad i la m.dataRef.regs (vecWrites m.d.toNat (m.sz == .d) vs) bad
          (addrOf ls (bad.headD 0)) (fun s => s.mayReread la m true sgn locs)))

def execLd (g : Grd) (la : BitVec 4) (m : MemOp) (s : State) : Out := loadWord (.ld g la m) g la m false false s
def execLdSigned (g : Grd) (la : BitVec 4) (m : MemOp) (s : State) : Out := loadWord (.ldSigned g la m) g la m true false s
def execLdv (g : Grd) (la : BitVec 4) (m : MemOp) (s : State) : Out := loadWord (.ldv g la m) g la m false true s

/-- R159: `lds`: one access for the run. -/
def loadScalar (i : Instr) (g : Grd) (la : BitVec 4) (m : MemOp) (sgn : Bool) (s : State) : Out :=
  runWord i s (fun s =>
    match s.laneAddrs g m false with
    | [] => s.next
    | q :: rest =>
      (s.checkLanes s.cur.team s.cur.gang m.sp m.sz.bytes .read [q]).settle i .read (some ((q :: rest).map (·.1))) (fun s locs =>
        match (s.later la locs).loadAll s.cur.team s.cur.gang m.sz.bytes sgn locs with
        | (s1, vs, bad) => s1.endLoad i la [.s m.d.toNat] (vs.map (fun v => .s m.d.toNat v.2))
            (if bad.isEmpty then [] else (q :: rest).map (·.1)) (addrOf [q] q.1) (fun s => s.mayReread la m false sgn locs)))

def execLds (g : Grd) (la : BitVec 4) (m : MemOp) (s : State) : Out := loadScalar (.lds g la m) g la m false s
def execLdsSigned (g : Grd) (la : BitVec 4) (m : MemOp) (s : State) : Out := loadScalar (.ldsSigned g la m) g la m true s

/-- R160, R227: whether a store is held: the queue is full, or a release waits for earlier stores. -/
def storeBusy (s : State) (m : MemOp) : Bool := s.curGang.queueFull || s.relPending m.ord

/-- R157: the bytes that a lane stores. -/
def storeData (G : Gang) (m : MemOp) (l : Nat) : List Byte :=
  bytesOfNum m.sz.bytes (if m.sz == .d then (G.readPair l m.d.toNat).toNat else (G.readV l m.d.toNat).toNat)

/-- R157: `st` and `stv`. -/
def storeWord (i : Instr) (g : Grd) (m : MemOp) (contig : Bool) (s : State) : Out :=
  runWord i s (fun s =>
    if storeBusy s m then s.hold
    else
      (s.checkLanes s.cur.team s.cur.gang m.sp m.sz.bytes .write (s.laneAddrs g m contig)).settle i .write none (fun s locs =>
        let ws := locs.flatMap (fun q => locWrite s.cur.team q.2 (storeData s.curGang m q.1))
        ((s.enqueue s.cur.team s.cur.gang ws)).next))

def execSt (g : Grd) (m : MemOp) (s : State) : Out := storeWord (.st g m) g m false s
def execStv (g : Grd) (m : MemOp) (s : State) : Out := storeWord (.stv g m) g m true s

/-- R159: `sts`. -/
def execSts (g : Grd) (m : MemOp) (s : State) : Out :=
  runWord (.sts g m) s (fun s =>
    if storeBusy s m then s.hold
    else
      match s.laneAddrs g m false with
      | [] => .next (s.finish false)
      | q :: rest =>
        (s.checkLanes s.cur.team s.cur.gang m.sp m.sz.bytes .write [q]).settle (.sts g m) .write (some ((q :: rest).map (·.1)))
          (fun s locs =>
            let ws := locs.flatMap (fun q => locWrite s.cur.team q.2 (bytesOfNum m.sz.bytes (s.curGang.readS m.d.toNat).toNat))
            (s.enqueue s.cur.team s.cur.gang ws).next))

/-! ### Gathers and scatters (R162) -/

/-- The lanes of Active from PIDX upwards. -/
def State.lanesLeft (s : State) (g : Grd) : List Nat := (s.active g).filter (fun l => decide (s.curGang.pidx.toNat ≤ l))

/-- R162, R272: PIDX moves past a lane; the instruction goes on with the next one, or ends with PIDX at zero. -/
def Gang.markLane (G : Gang) (run : LaneMask) (l : Nat) : Gang :=
  { G with pidx := BitVec.ofNat 64 (l + 1), prog := some (.lanes run (G.unpaid.filter (fun q => decide (l < q.1)))), failed := [] }

/-- One lane of a gather or scatter, checked; a stop records its cause for that lane only. -/
def gatherLane (i : Instr) (m : MemOp) (acc : Access) (s : State) (l : Nat) (body : State → Loc → Out) : Out :=
  let a := laneAddr s.curGang m false l
  let s0 := s.setCur { s.curGang with pidx := BitVec.ofNat 64 l, prog := some (.lanes s.cur.lanes s.curGang.unpaid) }
  (s0.checkLanes s.cur.team s.cur.gang m.sp m.sz.bytes acc [(l, a)]).settle i acc none (fun s locs =>
    match locs with
    | [] => .next s
    | q :: _ => body s q.2)

/-- R162: `gath`: one lane at a time. -/
def gatherWord (i : Instr) (g : Grd) (la : BitVec 4) (m : MemOp) (sgn : Bool) (s : State) : Out :=
  runWord i s (fun s =>
    match s.lanesLeft g with
    | [] => (s.setCur { s.curGang with pidx := 0 }).next
    | l :: rest =>
      gatherLane i m .read s l (fun s loc =>
        match s.loadLoc s.cur.team s.cur.gang loc m.sz.bytes true with
        | (s1, _, true) => .next (s1.trapLanes i [l] 12 (BitVec.ofInt 64 (laneAddr s.curGang m false l)))
        | (s1, bs, false) =>
          let G := s1.curGang.applyWrites (vecWrites m.d.toNat (m.sz == .d) [(l, extendBytes sgn bs)])
          if rest.isEmpty then .next ((s1.setCur { G with pidx := 0 }).results la.toNat m.dataRef.regs [] [])
          else .next (s1.setCur (G.markLane s.cur.lanes l))))

def execGath (g : Grd) (la : BitVec 4) (m : MemOp) (s : State) : Out := gatherWord (.gath g la m) g la m false s
def execGathSigned (g : Grd) (la : BitVec 4) (m : MemOp) (s : State) : Out := gatherWord (.gathSigned g la m) g la m true s

/-- R227: the lanes of one scatter share one queue entry while it stands in the queue. -/
def Gang.extendQueue (G : Gang) (started : Bool) (ws : SqEntry) : Gang :=
  match G.queue.getLast? with
  | some e => { G with queue := if started then G.queue.dropLast ++ [e ++ ws] else G.queue ++ [ws] }
  | none => { G with queue := [ws] }

/-- R162: `scat`. -/
def execScat (g : Grd) (m : MemOp) (s : State) : Out :=
  runWord (.scat g m) s (fun s =>
    let started := s.curGang.prog.isSome
    if !started && storeBusy s m then s.hold
    else
      match s.lanesLeft g with
      | [] => .next ((s.setCur { s.curGang with pidx := 0 }).finish false)
      | l :: rest =>
        gatherLane (.scat g m) m .write s l (fun s loc =>
          let ws := locWrite s.cur.team loc (storeData s.curGang m l)
          let G := if ws.isEmpty then s.curGang else s.curGang.extendQueue started ws
          if rest.isEmpty then .next ((s.setCur { G with pidx := 0 }).finish false)
          else .next (s.setCur (G.markLane s.cur.lanes l))))

/-! ### Prefetch (R163, R168) -/

/-- R163: one line of a prefetch into L1 or into its home slice; a line already there is charged nothing. -/
def State.prefetchLine (s : State) (core ctx line : Nat) (toL1 : Bool) : State :=
  if toL1 then
    match s.l1Line core line with
    | some _ => s
    | none => (s.sliceRead core ctx line).surcharge core ctx (s.weight 7)
  else
    match (s.slice (homeOf (line * 128))).entry line with
    | some _ => (s.inject core ctx 1).recent line
    | none => (((s.settleEndpoint core ctx line).inject core ctx 1).fill core ctx line).freeBypass line

/-- R163: the prefetch of one lane; a lane that fails a check is dropped. Its address is made with the scale of its SZ and its check
with size 1, for the manual gives it no access size (notes/assumptions/56.md). -/
def State.prefetchLane (s : State) (m : MemOp) (a : Int) : State :=
  match s.checkAccess s.cur.team s.cur.gang .glob a 1 .read with
  | (s1, .ok (.mem pa)) =>
    if s1.isLocal pa then s1.prefetchLine s1.curGang.core s1.curTeam.ctx (lineOf pa) (m.sz == .b) else s1
  | (s1, _) => s1

def execPrf (g : Grd) (m : MemOp) (s : State) : Out :=
  runWord (.prf g m) s (fun s => ((s.laneAddrs g m false).foldl (fun s q => s.prefetchLane m q.2) s).next)

/-! ### The return of data (R83, R167, R258) -/

/-- What comes back with the return of data: the result of a load, gather, atomic or special function, or a late trap (R222, R258). -/
def Pend.returns (p : Pend) : Bool :=
  !p.done && (match p.kind with
   | .data => true
   | .lost => true
   | .matrix _ => p.ecc.isSome
   | _ => false)

/-- The results of a load, gather, atomic or special function in its window are written (R389: what a load reads may be read now), and its
misses are charged (R439). -/
def execLoadDataReturn (team gang id : Nat) (s : State) : Out :=
  let G := s.gang team gang
  match G.pend.find? (fun p => decide (p.id = id) && p.returns) with
  | none => .next s
  | some p =>
    match p.ecc with
    | none =>
      let s1 := s.reread team gang p
      .next ((s1.setGang team gang ((s1.gang team gang).complete id)).chargeMisses p.misses)
    | some _ =>
      let s1 := s.completeData team gang
      if !(s1.gang team gang).settled then .next s1
      else .next (s1.takeLate team gang p)

end Sys2Proof.Machine
end

