-- ==== Sys2Proof/Machine/Sync.lean ====
section
/-! DEFINITION. Barriers, waits on memory, fences, atomics, the copy engine, the Ladle and store queues (10). -/

namespace Sys2Proof.Machine

/-! ### Waiting -/

/-- The lanes of Active become Waiting at their word; the other lanes of the run advance (R178). Inside a `rep`
sequence the repetition is not over until they leave (R89). `ends` tells that the word ends windows (R86). -/
def State.parkWith (s : State) (ends : Bool) (act : List Nat) (w : Nat → WaitOn) : State :=
  if act.isEmpty then s.finish ends
  else
    let s1 := match s.curGang.prog with
      | some (.rep _ _ _ _ _ _) => if ends then s.setCur (s.curGang.countWindows s.runLanes true) else s
      | _ => s.finishAt ends (fun l => if act.elem l then s.cur.pc else s.cur.pc + 8)
    s1.setCur (s1.curGang.eachLane act (fun G l => { G.setLane l (.waiting (w l)) with since := tset 0 G.since l s.time }))

/-- R86: a wait that ends windows. -/
def State.park (s : State) (act : List Nat) (w : Nat → WaitOn) : State := s.parkWith true act w

/-! ### Barriers (R232 to R236) -/

def State.bar (s : State) (t n : Nat) : Bar := tget {} (s.team t).bars n
def State.setBar (s : State) (t n : Nat) (B : Bar) : State := s.modTeam t (fun T => { T with bars := tput T.bars n B })

def onBar (n : Nat) : WaitOn → Bool
  | .bar m => decide (m = n)
  | _ => false

/-- R234: the gangs that TryFlip counts. -/
def Team.unfinished (T : Team) : List Nat := (T.gangs.filter (fun p => !p.2.finished)).map (·.1)

/-- R232: a flip releases the lanes that wait on the barrier: at once on the leader's core, and on the follower's, gang by gang,
after 0 to 4 core cycles. -/
def State.freeBar (s : State) (t n : Nat) : State :=
  (s.team t).gangs.foldl (fun (s : State) p =>
    let G := p.2
    if (G.waiters (onBar n)).isEmpty then s
    else if G.core = (s.team t).core then s.setGang t p.1 (G.wake true (onBar n))
    else
      let (x, s1) := s.free
      let k := x.toNat % 5
      if k = 0 then s1.setGang t p.1 (G.wake true (onBar n))
      else s1.setGang t p.1 (G.eachLane (G.waiters (onBar n)) (fun G l =>
        G.setLane l (.waiting (.delayed ((s.quarter (quarterOfCore G.core)).cyc + 1 + k)))))) s

/-- R232: the releases that reach their lanes by the present core cycle. -/
def State.freeDelayed (s : State) : State :=
  s.mapTeams (fun _ T => if T.gangs.all (fun p => p.2.core = T.core) then T else T.mapGangs (fun _ G =>
    G.wake true (fun w => match w with
      | .delayed c => decide (c ≤ (s.quarter (quarterOfCore G.core)).cyc)
      | _ => false)))

/-- R234: TryFlip. A flip of a barrier of a saved team queues the team (R240), whose lanes are released at the restore. -/
def State.tryFlip (s : State) (t n : Nat) : State :=
  let T := s.team t
  let B := s.bar t n
  let e := if B.exp ≠ 0 then B.exp else T.unfinished.length
  if 1 ≤ e ∧ e ≤ B.arr.toNat ∧ B.pend = 0 then
    let had := T.gangs.any (fun p => !(p.2.waiters (onBar n)).isEmpty)
    let T1 : Team := { T with bars := tput T.bars n { B with ph := 1 - B.ph, arr := 0, exp := 0 } }
    if T.onDie then (s.setTeam t T1).freeBar t n
    else
      let s1 := s.setTeam t { T1 with flips := n :: T1.flips }
      if had then s1.requeue t else s1
  else s

/-- R234: a barrier is tested once the changes of the cycle have all been applied. -/
def State.askFlip (s : State) (t n : Nat) : State := if s.barTests.elem (t, n) then s else { s with barTests := s.barTests ++ [(t, n)] }
/-- R234: the cycle ends: the barriers that changed are tested. -/
def State.settleBars (s : State) : State := s.barTests.foldl (fun (s : State) q => s.tryFlip q.1 q.2) { s with barTests := [] }

/-- R233: a gang has arrived once all its lanes that have not exited have. -/
def Bar.arrived (B : Bar) (g : Nat) (live : LaneMask) : Bar :=
  let la := tget 0 B.la g
  if live &&& ~~~la = 0 then { B with arr := B.arr + 1, la := tset 0 B.la g 0 } else B

/-- R233: `bar.arv` and the first half of `bar.sync`. -/
def State.arrive (s : State) (n : Nat) (act : List Nat) (cnt : Option Nat) : State :=
  let t := s.cur.team
  let g := s.cur.gang
  let B := s.bar t n
  let B1 : Bar := { B with la := tset 0 B.la g (tget 0 B.la g ||| bitsOf act), pg := tset 0 B.pg g B.ph }
  let B2 := match cnt with
    | some c => if B1.exp = 0 then { B1 with exp := c } else B1
    | none => B1
  s.setBar t n (B2.arrived g (bitsOf s.curGang.liveLanes))

/-- R189, R233, R234: exits count towards arrivals and towards E. -/
def State.barsAfterExit (s : State) (t g : Nat) : State :=
  (upto (s.team t).launch.bars).foldl (fun s n =>
    let B := s.bar t n
    let s1 := if tget 0 B.la g = 0 then s else s.setBar t n (B.arrived g (bitsOf (s.gang t g).liveLanes))
    s1.askFlip t n) s

/-- R233: the count operand, 1 to 16. -/
def barCount (G : Gang) (cnt : Option (BitVec 8)) : Option Nat := cnt.map (fun r => (G.readS r.toNat).toNat)
def badCount (c : Option Nat) : Bool :=
  match c with
  | some n => decide (n = 0) || decide (16 < n)
  | none => false

/-- R236: an arrival is a release at team scope. -/
def barBusy (s : State) : Bool := s.storesPending s.cur.team s.cur.gang .team

def execBarSync (g : Grd) (n : BitVec 8) (cnt : Option (BitVec 8)) (s : State) : Out :=
  runWord (.barSync g n cnt) s (fun s =>
    let act := s.active g
    if act.isEmpty then .next (s.finish true)
    else if badCount (barCount s.curGang cnt) then .next (s.trapLanes (.barSync g n cnt) act 1 0)
    else if barBusy s then s.hold
    else .next (((s.arrive n.toNat act (barCount s.curGang cnt)).park act (fun _ => .bar n.toNat)).askFlip s.cur.team n.toNat))

def execBarArv (g : Grd) (n : BitVec 8) (cnt : Option (BitVec 8)) (s : State) : Out :=
  runWord (.barArv g n cnt) s (fun s =>
    let act := s.active g
    if act.isEmpty then .next (s.finish true)
    else if badCount (barCount s.curGang cnt) then .next (s.trapLanes (.barArv g n cnt) act 1 0)
    else if barBusy s then s.hold
    else .next (((s.arrive n.toNat act (barCount s.curGang cnt)).finish true).askFlip s.cur.team n.toNat))

def execBarWait (g : Grd) (n : BitVec 8) (s : State) : Out :=
  runWord (.barWait g n) s (fun s =>
    let B := s.bar s.cur.team n.toNat
    if B.ph = tget 0 B.pg s.cur.gang then .next (s.park (s.active g) (fun _ => .bar n.toNat)) else .next (s.finish true))

/-- R235. -/
def State.addPend (s : State) (t n : Nat) (x : BitVec 32) : State :=
  (s.setBar t n { s.bar t n with pend := (s.bar t n).pend + x }).askFlip t n

/-- R235: a completion of counted bytes; a retired team takes none. -/
def State.subPend (s : State) (t n : Nat) (x : BitVec 32) : State :=
  if (s.team t).state = .retired then s else s.addPend t n (0 - x)

def execBarBytes (g : Grd) (n b : BitVec 8) (s : State) : Out :=
  runWord (.barBytes g n b) s (fun s =>
    if (s.active g).isEmpty then .next (s.finish true)
    else .next ((s.finish true).addPend s.cur.team n.toNat ((s.curGang.readS b.toNat).setWidth 32)))

/-! ### Waiting on memory (R237 to R239) -/

/-- R237: the exact address of a wait or an atomic in global space, or of a wait in scratch. -/
def waitAddr (G : Gang) (scr : Bool) (a : Opd) (l : Nat) : Int := (G.rawOpd a (!scr) l).toNat

def waitWidth (wide : Bool) : Nat := if wide then 8 else 4

/-- R237: the expected value as a natural number. -/
def waitExpected (G : Gang) (wide : Bool) (b : Opd) (l : Nat) : Nat := (G.readOp b (if wide then .n64 else .n32) l).toNat

/-- R237: the monitored block of a place. -/
def locBlock (l : Loc) : Nat :=
  match l with
  | .mem pa => lineOf pa
  | .scr a => a / 128
  | _ => 0

/-- R237: arm the monitor of a place, then load it. -/
def State.armAndLoad (s : State) (t g : Nat) (l : Loc) (n : Nat) : State × Nat × Bool :=
  match s.loadLoc t g l n true with
  | (s1, bs, bad) =>
    let s2 := match l with
      | .mem pa => if s1.isLocal pa then s1.monitorL1 (s1.gang t g).core (lineOf pa) else s1
      | _ => s1
    (s2, numOfBytes bs, bad)

/-- The lanes of a wait in order: lane, place, the word's value, and whether it could not be read. -/
def State.armAll (s : State) (t g n : Nat) (locs : List (Nat × Loc)) : State × List (Nat × Loc × Nat × Bool) :=
  locs.foldl (fun r q => match r.1.armAndLoad t g q.2 n with
    | (s1, x, bad) => (s1, r.2 ++ [(q.1, q.2, x, bad)])) (s, [])

/-- R238: a line that a later lane of the word took out of the L1 wakes those that wait for it. -/
def State.wakeGone (s : State) (core : Nat) (lines : List Nat) : State :=
  (dedup lines).foldl (fun (s : State) b => if s.isLocal (b * 128) && (s.l1Line core b).isNone then s.wakeLost (s.l1Core core b) b else s) s

/-- R237, R239: `wait.a` and `wait.t`. A lane whose word differs goes on; the others wait, unless the time is zero. -/
def waitWord (i : Instr) (g : Grd) (wide scr : Bool) (a b : Opd) (timed : Option (BitVec 8 × BitVec 8)) (s : State) : Out :=
  runWord i s (fun s =>
    let act := s.active g
    let ls := act.map (fun l => (l, waitAddr s.curGang scr a l))
    (s.checkLanes s.cur.team s.cur.gang (if scr then .scratch else .glob) (waitWidth wide) .read ls).settle i .read none (fun s locs =>
      match s.armAll s.cur.team s.cur.gang (waitWidth wide) locs with
      | (s1, vs) =>
        match (vs.filter (fun v => v.2.2.2)).map (·.1) with
        | l0 :: more => .next (s1.trapLanes i (l0 :: more) 12 (addrOf ls l0))
        | [] =>
          let G := s1.curGang
          let same := vs.filter (fun v => decide (v.2.2.1 = waitExpected G wide b v.1))
          let lines := if scr then [] else same.map (fun v => locBlock v.2.1)
          match timed with
          | none => .next ((s1.park (same.map (·.1)) (fun l => .memory scr (match same.find? (fun v => decide (v.1 = l)) with
              | some v => locBlock v.2.1
              | none => 0) none none)).wakeGone G.core lines)
          | some (d, c) =>
            let period := (G.readS c.toNat).toNat
            let sleep := if period = 0 then [] else same
            let out := act.filter (fun l => !(sleep.map (·.1)).elem l)
            let s2 := s1.setCur (G.eachLane out (fun G l => G.writeK l d.toNat (!(same.map (·.1)).elem l)))
            .next ((s2.park (sleep.map (·.1)) (fun l => .memory scr (match same.find? (fun v => decide (v.1 = l)) with
              | some v => locBlock v.2.1
              | none => 0) (some d.toNat) (some (s.time + period)))).wakeGone G.core lines)))

def execWaitA (g : Grd) (wide scr : Bool) (a b : Opd) (s : State) : Out := waitWord (.waitA g wide scr a b) g wide scr a b none s
def execWaitT (g : Grd) (wide scr : Bool) (d : BitVec 8) (a b : Opd) (c : BitVec 8) (s : State) : Out :=
  waitWord (.waitT g wide scr d a b c) g wide scr a b (some (d, c)) s

/-- R239, R240: the time of a `wait.t` has passed: k[d] := 0. A saved team is queued, and a deadline of 0 marks the lane
until it is restored. -/
def State.timeOut (s : State) (t g l : Nat) : State :=
  let G := s.gang t g
  match G.laneState l with
  | .waiting (.memory scr b (some k) (some dl)) =>
    if (s.team t).onDie then s.setGang t g ((G.writeK l k false).leaveWait [l])
    else if dl = 0 then s
    else (s.setGang t g (G.setLane l (.waiting (.memory scr b (some k) (some 0))))).requeue t
  | _ => s

/-- R239: the deadline of a lane is before a time. -/
def LaneState.lateAt (x : LaneState) (time : Nat) : Bool :=
  match x with
  | .waiting (.memory _ _ (some _) (some dl)) => decide (dl < time)
  | _ => false

/-- R239: a write in the cycle of the deadline wins, so the time of a wait has passed once its last period is over. -/
def execWaitTTimeout (team gang lane : Nat) (s : State) : Out :=
  if ((s.gang team gang).laneState lane).lateAt s.time then .next (s.timeOut team gang lane) else .next s

/-- R239: a period ends: the waits whose time it was, and that no write has ended, end. -/
def State.timeOuts (s : State) : State :=
  s.teams.foldl (fun (s : State) p => p.2.gangs.foldl (fun (s : State) q => q.2.lst.foldl (fun (s : State) l =>
    if l.2.lateAt s.time then s.timeOut p.1 q.1 l.1 else s) s) s) s

/-! ### Fences (R242) -/

def execFence (g : Grd) (y : Scope) (s : State) : Out :=
  runWord (.fence g y) s (fun s =>
    if !(s.active g).isEmpty && s.storesPending s.cur.team s.cur.gang y then s.hold else s.next)

/-! ### Atomics (R243 to R245) -/

/-- R244: the new value from the old one. `sgn` is MX. -/
def atomOp (op : AtomOp) (w : Nat) (sgn : Bool) (x y z : Nat) : Nat :=
  let sx (v : Nat) : Int := if sgn then (BitVec.ofNat w v).toInt else v
  match op with
  | .add => (x + y) % 2 ^ w
  | .min => if sx x ≤ sx y then x else y
  | .max => if sx x ≤ sx y then y else x
  | .and => Nat.land x y
  | .or => Nat.lor x y
  | .xor => Nat.xor x y
  | .xchg => y
  | .cas => if x = y then z else x
  | .incw => if y ≤ x then 0 else x + 1
  | .decw => if x = 0 ∨ y < x then y else x - 1

/-- R245: the release half of an order. -/
def atomRel (o : AtomOrd) : Bool :=
  match o with
  | .rel => true
  | .acqRel => true
  | _ => false

/-- R244: one atomic at a place: the line is exclusive in the core's L1, and the word is read and written as one step.
A write wakes the monitors of the line. An atomic on another package's memory is performed there (R539), and its old
value is not known here. -/
def State.atomicAt (s : State) (core ctx pa n : Nat) (f : Nat → Nat) : State × Nat × Bool :=
  if s.isLocal pa then
    let s1 := s.sliceOwn core ctx (lineOf pa)
    let x := readNum s1.mem pa n
    if poisoned s1.poison pa n then (s1, x, true)
    else (((s1.putMem pa (bytesOfNum n (f x))).wakeLine (lineOf pa)).wakeSpilled (lineOf pa), x, false)
  else s.remoteAtomic core ctx pa n

/-- R336: a place whose line another agent keeps from the core while accumulates have been refused. -/
def State.lineHeld (s : State) (core : Nat) (l : Loc) : Bool :=
  match l with
  | .mem pa => s.isLocal pa && s.ownHeld core (lineOf pa)
  | _ => false

/-- R244: earlier stores of the gang are in its queue, and an atomic waits for them to leave it. -/
def queueBusy (s : State) : Bool := !s.curGang.queue.isEmpty

/-- R167, R256: the lanes of an atomic whose word can not be read: none of its lanes then has an effect. -/
def State.badAtoms (s : State) (n : Nat) (locs : List (Nat × Loc)) : List Nat :=
  (locs.filter (fun q => match q.2 with
    | .mem pa => s.isLocal pa && poisoned s.poison pa n
    | _ => false)).map (·.1)

/-- R243 to R245: lanes of an atomic in increasing order. -/
def atomLanes (s : State) (n : Nat) (locs : List (Nat × Loc)) (f : Nat → Nat → Nat) : State × List (Nat × W64) × List Nat :=
  locs.foldl (fun r q => match q.2 with
    | .mem pa =>
      match r.1.atomicAt r.1.curGang.core r.1.curTeam.ctx pa n (f q.1) with
      | (s1, x, bad) => (s1, r.2.1 ++ [(q.1, BitVec.ofNat 64 x)], if bad then r.2.2 ++ [q.1] else r.2.2)
    | _ => r) (s, [], [])

/-- R382, R539: the lanes that go to other packages come first, for an error in one of their replies leaves this package's memory as
it is. -/
def State.atomAll (s : State) (n : Nat) (locs : List (Nat × Loc)) (f : Nat → Nat → Nat) : State × List (Nat × W64) × List Nat :=
  let far (q : Nat × Loc) : Bool := match q.2 with
    | .mem pa => !s.isLocal pa
    | _ => false
  match atomLanes s n (locs.filter far) f with
  | (s1, vs, []) =>
    match atomLanes s1 n (locs.filter (fun q => !far q)) f with
    | (s2, ws, bad) => (s2, vs ++ ws, bad)
  | r => r

def atomWord (i : Instr) (wide : Bool) (g : Grd) (la : BitVec 4) (op : AtomOp) (ord : AtomOrd) (y : Scope) (sgn : Bool)
    (d a b c : Opd) (s : State) : Out :=
  runWord i s (fun s =>
    let act := s.active g
    let who := if d.sc then act.take 1 else act
    let t : ITy := if wide then .n64 else .n32
    let n := waitWidth wide
    let ls := who.map (fun l => (l, waitAddr s.curGang false a l))
    if atomRel ord && !act.isEmpty && s.storesPending s.cur.team s.cur.gang y then s.hold
    else
      (s.checkLanes s.cur.team s.cur.gang .glob n .readWrite ls).settle i .readWrite (if d.sc then some act else none) (fun s locs =>
        if (!locs.isEmpty && queueBusy s) || locs.any (fun q => s.lineHeld s.curGang.core q.2) then s.hold
        else
          let G := s.curGang
          let bad0 := s.badAtoms n locs
          let r := if bad0.isEmpty then (s.later la locs).atomAll n locs (fun l x => atomOp op (8 * n) sgn x (G.readOp b t l).toNat (G.readOp c t l).toNat)
            else (s, locs.map (fun q => (q.1, 0)), bad0)
          match r with
          | (s1, vs, bad) =>
            s1.endLoad i la (d.ref wide).regs
              (if d.sc then vs.map (fun v => .s d.n.toNat v.2) else vecWrites d.n.toNat wide vs)
              (if d.sc && !bad.isEmpty then act else bad) (addrOf ls (bad.headD 0))))

def execAtom32 (g : Grd) (la : BitVec 4) (op : AtomOp) (ord : AtomOrd) (y : Scope) (sgn : Bool) (d a b c : Opd) (s : State) : Out :=
  atomWord (.atom32 g la op ord y sgn d a b c) false g la op ord y sgn d a b c s
def execAtom64 (g : Grd) (la : BitVec 4) (op : AtomOp) (ord : AtomOrd) (y : Scope) (sgn : Bool) (d a b c : Opd) (s : State) : Out :=
  atomWord (.atom64 g la op ord y sgn d a b c) true g la op ord y sgn d a b c s

/-! ### The copy engine (R246 to R252) -/

def gangKey (t g : Nat) : Nat := t * 16 + g

def State.copyQ (s : State) (core q : Nat) : CopyQueue := tget {} (s.core core).copyq q
def State.modCopyQ (s : State) (core q : Nat) (f : CopyQueue → CopyQueue) : State :=
  s.modCore core (fun C => { C with copyq := tput C.copyq q (f (tget {} C.copyq q)) })

/-- R156, R247: whether a range lies within its space. -/
def rangeOk (L : Launch) (scr : Bool) (a : W64) (n : Nat) : Bool :=
  if scr then decide (a.toNat + n ≤ L.scratchSpace)
  else canonicalVA a && decide (a.toNat + n ≤ 2 ^ 64) && (decide (n = 0) || canonicalVA (a + BitVec.ofNat 64 (n - 1))) &&
    (decide (n = 0) || decide ((a + BitVec.ofNat 64 (n - 1)).getLsbD 63 = a.getLsbD 63))

/-- R251: a fault of a queue that this gang is to be told of. -/
def State.queueFault (s : State) (core q : Nat) : Option (Nat × W64) :=
  ((s.copyQ core q).faults.find? (fun f => decide (f.2.2 = gangKey s.cur.team s.cur.gang))).map (fun f => (f.1, f.2.1))

/-- R247, R248: the checks of a copy at issue: the first cause with its address. -/
def copyCause (L : Launch) (srcScr dstScr : Bool) (src dst len : W64) (desc : Option W64) : Option (Nat × W64) :=
  let n := len.toNat
  let da : W64 := match desc with
    | some x => (x.setWidth 32).setWidth 64
    | none => 0
  if 2 ^ 30 < n then some (5, src)
  else if !rangeOk L srcScr src n then some (5, src)
  else if !rangeOk L dstScr dst n then some (5, dst)
  else if desc.isSome && !decide (da.toNat + 4 ≤ L.scratchSpace) then some (5, da)
  else if src.toNat % 16 ≠ 0 then some (6, src)
  else if dst.toNat % 16 ≠ 0 then some (6, dst)
  else if n % 16 ≠ 0 then some (6, src)
  else if desc.isSome && decide (da.toNat % 4 ≠ 0) then some (6, da)
  else none

/-- R247, R391: an engine reads memory after the earlier stores of the gang have left its store queue. -/
def engineWaits (s : State) : Bool := queueBusy s

/-- R250: the entries that a queue counts: those it holds, and those that have left in this cycle. -/
def CopyQueue.held (Q : CopyQueue) (time : Nat) : Nat := Q.entries.length + (if Q.gone.1 = time then Q.gone.2 else 0)

/-- R252: whether entries that a restored team brought back still wait for room in a queue of a core. -/
def Team.copiesWait (T : Team) (core q : Nat) : Bool := T.copies.any (fun x => decide (T.core + x.1 = core) && decide (x.2.1 = q))

/-- R246: whether an entry waits to enter a queue: it is full, or earlier entries of the team wait for it. -/
def queueClosed (s : State) (q : Nat) : Bool :=
  decide (16 ≤ (s.copyQ s.curGang.core q).held s.time) || s.curTeam.copiesWait s.curGang.core q

/-- R246, R247: whether a copy waits to enter a queue. -/
def copyBusy (s : State) (q : Nat) : Bool := queueClosed s q || engineWaits s

/-- R251: taking the trap of a queue's fault clears it; a trap that still waits for results leaves it. -/
def State.clearFault (s : State) (core q : Nat) : State :=
  if s.note = .trapped then s.modCopyQ core q (fun Q => { Q with faults := Q.faults.filter (fun f => decide (f.2.2 ≠ gangKey s.cur.team s.cur.gang)) }) else s

/-- R247: `cp.gs`, `cp.sg`, `cp.gg`. -/
def copyWord (i : Instr) (g : Grd) (q : BitVec 2) (srcScr dstScr : Bool) (a b c : BitVec 8) (desc : Option (BitVec 8)) (s : State) : Out :=
  runWord i s (fun s =>
    let act := s.active g
    let G := s.curGang
    let dw := desc.map (fun r => G.readS r.toNat)
    if act.isEmpty then s.next
    else match copyCause s.curTeam.launch srcScr dstScr (G.readS a.toNat) (G.readS b.toNat) (G.readS c.toNat) dw with
    | some (cs, ad) => .next (s.trapLanes i act cs ad)
    | none =>
      match s.queueFault G.core q.toNat with
      | some (cs, ad) => .next ((s.trapLanes i act cs ad).clearFault G.core q.toNat)
      | none =>
        if copyBusy s q.toNat then s.hold
        else
          let e := CopyEntry.copy s.nextId s.cur.team s.cur.gang G.level srcScr dstScr (G.readS a.toNat) (G.readS b.toNat)
            (G.readS c.toNat).toNat dw
          ({ s.modCopyQ G.core q.toNat (fun Q => { Q with entries := Q.entries ++ [e] }) with nextId := s.nextId + 1 } : State).next)

def execCpGs (g : Grd) (q : BitVec 2) (a b c : BitVec 8) (desc : Option (BitVec 8)) (s : State) : Out :=
  copyWord (.cpGs g q a b c desc) g q false true a b c desc s
def execCpSg (g : Grd) (q : BitVec 2) (a b c : BitVec 8) (desc : Option (BitVec 8)) (s : State) : Out :=
  copyWord (.cpSg g q a b c desc) g q true false a b c desc s
def execCpGg (g : Grd) (q : BitVec 2) (a b c : BitVec 8) (desc : Option (BitVec 8)) (s : State) : Out :=
  copyWord (.cpGg g q a b c desc) g q false false a b c desc s

def maskQueues (m : Nat) : List Nat := (upto 4).filter (fun q => m.testBit q)

/-- R249: `cp.fence`. -/
def execCpFence (g : Grd) (y : Scope) (mask : BitVec 8) (desc : Option (BitVec 8)) (s : State) : Out :=
  runWord (.cpFence g y mask desc) s (fun s =>
    let act := s.active g
    let G := s.curGang
    let qs := maskQueues mask.toNat
    let dw := desc.map (fun r => G.readS r.toNat)
    let da : W64 := match dw with
      | some x => (x.setWidth 32).setWidth 64
      | none => 0
    if act.isEmpty then s.next
    else if dw.isSome && !decide (da.toNat + 4 ≤ s.curTeam.launch.scratchSpace) then
      .next (s.trapLanes (.cpFence g y mask desc) act 5 da)
    else if dw.isSome && decide (da.toNat % 4 ≠ 0) then .next (s.trapLanes (.cpFence g y mask desc) act 6 da)
    else match qs.find? (fun q => (s.queueFault G.core q).isSome) with
    | some q =>
      match s.queueFault G.core q with
      | some (cs, ad) =>
        .next ((s.trapLanes (.cpFence g y mask desc) act cs ad).clearFault G.core q)
      | none => .next s
    | none =>
      if qs.any (queueClosed s) then s.hold
      else
        let e := CopyEntry.fence s.nextId s.cur.team s.cur.gang y mask.toNat dw
        let s1 := qs.foldl (fun s q => s.modCopyQ G.core q (fun Q => { Q with entries := Q.entries ++ [e] })) s
        ({ s1.setCur { s1.curGang with fenceId := s.nextId } with nextId := s.nextId + 1 } : State).next)

/-- R250: the state of the four queues. -/
def pollWord (s : State) (core : Nat) : W64 :=
  (upto 4).foldl (fun w q =>
    let Q := s.copyQ core q
    w ||| (BitVec.ofNat 64 (Q.held s.time + (if Q.faults.isEmpty then 0 else 2 ^ 14)) <<< (16 * q))) 0

def execCpPoll (g : Grd) (d : BitVec 8) (s : State) : Out :=
  runWord (.cpPoll g d) s (fun s =>
    (s.setCur (s.curGang.mapOnce (s.active g) (fun G => G.writeS d.toNat (pollWord s s.curGang.core)))).next)

/-- How a stretch of a copy ends. -/
inductive CopyEnd where
  | done
  | missing (key : Nat × Bool) (va : W64) (left : Nat)
  | waits (left : Nat)
  | failed (cause : Nat) (va : W64) (left : Nat)
  deriving DecidableEq, Repr

/-- The place of an address that an engine uses for a team. -/
def State.engineLoc (s : State) (t g level : Nat) (scr : Bool) (a : W64) (acc : Access) : State × Chk :=
  if scr then (s, .ok (.scr a.toNat))
  else
    let T := s.team t
    match s.translateAt ((T.gang g).core) T.ctx a acc level with
    | (s1, .ok pa) => (s1, .ok (.mem pa))
    | (s1, .denied _) => (s1, .bad 7)
    | (s1, .missing p z ask) => (s1, .page (p, z) ask)

/-- An engine's read of bytes of one line: past the store queues, with poison. `fresh` tells that the line is asked for, which is charged
once (R255, R326). -/
def State.engineRead (s : State) (core ctx t : Nat) (l : Loc) (n : Nat) (fresh : Bool) : State × List Byte × Bool :=
  match l with
  | .mem pa =>
    if s.isLocal pa then
      let s1 := if fresh then s.sliceFetch core ctx (lineOf pa) else s
      (s1, readBytes s1.mem pa n, poisoned s1.poison pa n)
    else s.remoteRead core ctx pa n fresh
  | .scr a => (s, readBytes (s.team t).scratch a n, poisoned (s.team t).poison a n)
  | _ => (s, List.replicate n 0, false)

/-- An engine's write: copies of its line go and monitors wake (R238, R310, R313), and poison travels with the bytes. `n` is what is
left to write, so that the packet of a `fresh` line takes the flits of its line (R316). -/
def State.engineWrite (s : State) (core ctx t : Nat) (l : Loc) (bs : List Byte) (n : Nat) (fresh bad : Bool) : State :=
  match l with
  | .mem pa =>
    if s.isLocal pa then
      let line := lineOf pa
      let s1 := if fresh then (((s.settleEndpoint core ctx line).inject core ctx (writeFlits (min n (128 - pa % 128)))).settleLine line).sliceWriteLine core ctx line none
        else (s.settleLine line).writtenLine core ctx line none
      let s2 := s1.putMem pa bs
      if bad then { s2 with poison := dedup ((pa / 16) :: s2.poison) } else s2
    else s.remoteWrite core ctx (cellsAt pa bs)
  | .scr a =>
    let s1 := s.putScratch t a bs
    if bad then s1.modTeam t (fun T => { T with poison := dedup ((a / 16) :: T.poison) }) else s1
  | _ => s

/-- R316: Write packets for consecutive bytes, one for each line. -/
def State.requestWrite (s : State) (core ctx pa : Nat) (bs : List Byte) : State :=
  let cells := cellsAt pa bs
  (dedup (cells.map (fun q => lineOf q.1))).foldl (fun (s : State) l =>
    let row := cells.filter (fun q => decide (lineOf q.1 = l))
    (if s.isLocal (l * 128) then s.inject core ctx (writeFlits row.length) else s).writeHome core ctx l row) s

/-- R316, R322: the flits that the next unit of a copy takes: a Read of a new line, and the Write of one. -/
def State.copyFlits (_ : State) (srcScr dstScr : Bool) (src dst : W64) (n : Nat) (first : Bool) : Nat :=
  (if !srcScr && (first || decide (src.toNat % 128 = 0)) then 1 else 0) +
  (if !dstScr && (first || decide (dst.toNat % 128 = 0)) then writeFlits (min (16 * n + 16) (128 - dst.toNat % 128)) else 0)

/-- R247, R251, R322: the units of a copy in increasing order. DESIGN CHOICE: scratch is charged for each aligned 128-byte block (R255,
notes/assumptions/79.md). -/
def State.copyUnits (core t g level : Nat) (srcScr dstScr : Bool) : Nat → State → W64 → W64 → Bool → State × CopyEnd
  | 0, s, _, _, _ => (s, .done)
  | n + 1, s, src, dst, first =>
    match s.engineLoc t g level srcScr src .read with
    | (s1, .bad c) => (s1, .failed c src (n + 1))
    | (s1, .page k ask) => (s1, if ask then .missing k src (n + 1) else .failed 8 src (n + 1))
    | (s1, .ok ls) =>
      match s1.engineLoc t g level dstScr dst .write with
      | (s2, .bad c) => (s2, .failed c dst (n + 1))
      | (s2, .page k ask) => (s2, if ask then .missing k dst (n + 1) else .failed 8 dst (n + 1))
      | (s2, .ok ld) =>
        let ctx := (s2.team t).ctx
        if s2.limited core ctx (s2.copyFlits srcScr dstScr src dst n first) then (s, .waits (n + 1))
        else
        match s2.engineRead core ctx t ls 16 (first || decide (src.toNat % 128 = 0)) with
        | (s3, bs, bad) =>
          let s4 := s3.engineWrite core ctx t ld bs (16 * n + 16) (first || decide (dst.toNat % 128 = 0)) bad
          let blocks := if (decide (src.toNat % 128 = 0) || first) && srcScr || (decide (dst.toNat % 128 = 0) || first) && dstScr then s4.weight 6 else 0
          let s5 := if blocks = 0 then s4 else s4.surcharge core ctx blocks
          State.copyUnits core t g level srcScr dstScr n s5 (src + 16) (dst + 16) false

/-- R248: the completion word. -/
def State.writeDesc (s : State) (t : Nat) (desc : Option W64) : State :=
  match desc with
  | some x => s.putScratch t (x.setWidth 32).toNat ((upto 4).map (fun i => x.extractLsb' (32 + 8 * i) 8))
  | none => s

def isFence (id : Nat) (e : CopyEntry) : Bool :=
  match e with
  | .fence i _ _ _ _ _ => decide (i = id)
  | _ => false

def CopyEntry.id (e : CopyEntry) : Nat :=
  match e with
  | .copy i _ _ _ _ _ _ _ _ _ => i
  | .fence i _ _ _ _ _ => i

/-- R251: the queue becomes FAULTED and its entries are cancelled, a fence in the other queues that it names too. Each gang is told of
the first of its copies that failed there. -/
def State.faultQueue (s : State) (core q t g c : Nat) (a : W64) : State :=
  let gone := (s.copyQ core q).entries
  let s1 := s.modCopyQ core q (fun Q => { Q with
    entries := [], missing := none, begun := false,
    faults := if Q.faults.any (fun f => decide (f.2.2 = gangKey t g)) then Q.faults else Q.faults ++ [(c, a, gangKey t g)] })
  s1.modCore core (fun C => { C with copyq := C.copyq.map (fun (p : Nat × CopyQueue) =>
    (p.1, { p.2 with entries := p.2.entries.filter (fun e => !gone.any (fun x => isFence x.id e)) })) })

/-- R250: the entries that fail a test leave a queue, and are counted for the rest of the cycle. -/
def CopyQueue.leave (Q : CopyQueue) (time : Nat) (keep : CopyEntry → Bool) : CopyQueue :=
  let es := Q.entries.filter keep
  { Q with entries := es, gone := (time, Q.held time - es.length) }

/-- R252: entries that a restored team brought back enter their queues, in order, as there is room. -/
def State.enterTeam (s : State) (t core : Nat) : State :=
  (s.team t).copies.foldl (fun (s : State) x =>
    let c := (s.team t).core + x.1
    if c = core && decide ((s.copyQ c x.2.1).held s.time < 16) && (s.team t).copies.find? (fun y => decide (y.1 = x.1) && decide (y.2.1 = x.2.1)) == some x then
      (s.modTeam t (fun T => { T with copies := T.copies.erase x })).modCopyQ c x.2.1 (fun Q => { Q with entries := Q.entries ++ [x.2.2] })
    else s) s
def State.enterCopies (s : State) (core : Nat) : State :=
  s.teams.foldl (fun (s : State) p => if p.2.onDie && !p.2.copies.isEmpty then s.enterTeam p.1 core else s) s

/-- R249: in a queue that a fence names, everything before it has completed. -/
def State.fenceReady (s : State) (core t id p : Nat) : Bool :=
  !(s.team t).copies.any (fun x => decide ((s.team t).core + x.1 = core) && decide (x.2.1 = p) && decide (x.2.2.id ≤ id)) &&
  match (s.copyQ core p).entries with
  | e :: rest => isFence id e || !rest.any (isFence id)
  | [] => true

/-- R249: whether entries that a gang's `tldg` comes after are still in the queues of its core. -/
def State.fenced (s : State) (t g : Nat) : Bool :=
  let G := s.gang t g
  decide (G.fenceId ≠ 0) && ((upto 4).any (fun q => (s.copyQ G.core q).entries.any (fun e => decide (e.id ≤ G.fenceId))) ||
    (s.team t).copies.any (fun x => decide (x.2.2.id ≤ G.fenceId)))

/-- R246 to R251: the oldest entry of a queue works until it completes, faults or waits for a page. -/
def execCopyEntryComplete (core q : Nat) (s : State) : Out :=
  match (s.copyQ core q).entries with
  | [] => .next s
  | .fence id t g y mask desc :: _ =>
    if (maskQueues mask).all (s.fenceReady core t id) && !s.storesPending t g y then
      .next ((((maskQueues mask).foldl (fun s p => s.modCopyQ core p (fun Q => Q.leave s.time (fun e => !isFence id e)))
        (s.writeDesc t desc)).enterCopies core).returnMeter core (s.team t).ctx)
    else .next s
  | .copy id t g level srcScr dstScr src dst len desc :: rest =>
    match State.copyUnits core t g level srcScr dstScr (len / 16) s src dst (!(s.copyQ core q).begun) with
    | (s1, .done) =>
      .next ((((s1.writeDesc t desc).modCopyQ core q (fun Q =>
        { Q.leave s.time (fun e => decide (e.id ≠ id)) with missing := none, begun := false })).enterCopies core).returnMeter core (s.team t).ctx)
    | (s1, .failed c a _) => .next (((s1.faultQueue core q t g c a).enterCopies core).returnMeter core (s.team t).ctx)
    | (s1, .waits left) =>
      let n := len - left * 16
      let skip := BitVec.ofNat 64 n
      let e := CopyEntry.copy id t g level srcScr dstScr (src + skip) (dst + skip) (left * 16) desc
      .next (s1.modCopyQ core q (fun Q => { Q with entries := e :: rest, missing := none, begun := Q.begun || decide (n ≠ 0) }))
    | (s1, .missing k a left) =>
      let n := len - left * 16
      let skip := BitVec.ofNat 64 n
      let e := CopyEntry.copy id t g level srcScr dstScr (src + skip) (dst + skip) (left * 16) desc
      let s2 := (s1.requestPage (s1.team t).ctx k.1 k.2 (if a = src + skip then .read else .write) true).1
      .next (s2.modCopyQ core q (fun Q => { Q with entries := e :: rest, missing := some (k, a), begun := Q.begun || decide (n ≠ 0) }))

/-! ### The Ladle (R253, R254) -/

/-- R253: the checks of `lfill` on its range. -/
def lfillCause (a len : W64) : Option (Nat × W64) :=
  if len.toNat = 0 ∨ 2 ^ 30 < len.toNat ∨ !rangeOk {} false a len.toNat then some (5, a) else none

/-- R254: a command beyond 64 on the die, or 8 of its context, is held. -/
def ladleBusy (s : State) : Bool :=
  let D := s.dieOf (dieOfCore s.curGang.core)
  decide (64 ≤ D.ladle.length) || decide (8 ≤ (D.ladle.filter (fun c => decide (c.ctx = s.curTeam.ctx))).length)

def State.enterLadle (s : State) (a : W64) (len : Nat) (fin : FillDone) : State :=
  let G := s.curGang
  s.modDie (dieOfCore G.core) (fun D => { D with ladle := D.ladle ++ [⟨s.curTeam.ctx, s.cur.team, s.cur.gang, G.core, G.level, a, len, fin, false⟩] })

def execLfillBar (g : Grd) (n a b : BitVec 8) (s : State) : Out :=
  runWord (.lfillBar g n a b) s (fun s =>
    let act := s.active g
    let G := s.curGang
    if act.isEmpty then s.next
    else match lfillCause (G.readS a.toNat) (G.readS b.toNat) with
    | some (c, ad) => .next (s.trapLanes (.lfillBar g n a b) act c ad)
    | none =>
      if ladleBusy s then s.hold
      else (s.enterLadle (G.readS a.toNat) (G.readS b.toNat).toNat (.bar s.cur.team n.toNat)).next)

def execLfillTok (g : Grd) (d a b c : BitVec 8) (s : State) : Out :=
  runWord (.lfillTok g d a b c) s (fun s =>
    let act := s.active g
    let G := s.curGang
    match act with
    | [] => s.next
    | l0 :: _ =>
      match lfillCause (G.readS a.toNat) (G.readS b.toNat) with
      | some (cs, ad) => .next (s.trapLanes (.lfillTok g d a b c) act cs ad)
      | none =>
        (s.checkLanes s.cur.team s.cur.gang .glob 4 .write [(l0, ((G.readS c.toNat).toNat : Int))]).settle (.lfillTok g d a b c) .write (some act)
          (fun s locs =>
            if ladleBusy s then s.hold
            else match locs with
              | (_, .mem pa) :: _ => (s.enterLadle (G.readS a.toNat) (G.readS b.toNat).toNat (.tok pa ((G.readS d.toNat).setWidth 32))).next
              | _ => s.next))

/-- R253, R312: a line is brought into a way. One that the bypass directory lists takes its copies and their owner along. -/
def State.install (s : State) (core ctx line : Nat) : State :=
  let h := homeOf (line * 128)
  match (s.slice h).bypass.find? (fun e => decide (e.line = line)) with
  | none => s.fill core ctx line
  | some b =>
    ((s.modSlice h (fun S => { S with bypass := S.bypass.filter (fun e => !(decide (e.line = line))) })).fill core ctx line).modSlice h
      (fun S => S.modEntry line (fun e => { e with sharers := b.sharers, owner := b.owner, mon := b.mon, granted := b.granted, refuse := b.refuse }))

/-- R253: one line of a fill: installed, or skipped. -/
def State.fillLine (s : State) (c : FillCmd) (va : W64) : State :=
  match s.translateAt c.core c.ctx va .read c.level with
  | (s1, .ok pa) =>
    if s1.isLocal pa then
      let line := lineOf pa
      match (s1.slice (homeOf (line * 128))).dir.find? (fun e => decide (e.line = line)) with
      | some e => s1.hit c.core c.ctx line e
      | none => if (s1.slice (homeOf (line * 128))).sieve (s1.partOf c.ctx) = 0 then s1 else s1.install c.core c.ctx line
    else s1
  | (s1, _) => s1

/-- R253: the lines of a command, unless they have been dealt with. -/
def State.runFill (s : State) (c : FillCmd) : State :=
  if c.ran then s
  else (upto ((c.addr.toNat % 128 + c.len + 127) / 128)).foldl
    (fun s k => s.fillLine c (c.addr - BitVec.ofNat 64 (c.addr.toNat % 128) + BitVec.ofNat 64 (128 * k))) s

/-- R253, R254: a command of the Ladle completes. The commands accepted before it have run; they may complete later. -/
def execLfillComplete (die idx : Nat) (s : State) : Out :=
  match (s.dieOf die).ladle[idx]? with
  | none => .next s
  | some c =>
    let s0 := ((s.dieOf die).ladle.take (idx + 1)).foldl (fun (s : State) c => s.runFill c) s
    let s1 := s0.modDie die (fun D => { D with ladle := ((D.ladle.take idx).map (fun c => { c with ran := true })) ++ D.ladle.drop (idx + 1) })
    match c.fin with
    | .bar t b => .next ((s1.subPend t b (BitVec.ofNat 32 c.len)).returnMeter c.core c.ctx)
    | .tok pa x => .next ((s1.writeHome c.core c.ctx (lineOf pa) (cellsAt pa ((upto 4).map (fun i => x.extractLsb' (8 * i) 8)))).returnMeter c.core c.ctx)

/-! ### Store queues (R227, R228) -/

/-- The oldest entry of a gang's store queue leaves, unless it waits for flits (R322). -/
def execStoreQueueDrain (team gang : Nat) (s : State) : Out := if s.drainHeld team gang then .next s else .next (s.drainOne team gang)

end Sys2Proof.Machine
end

