-- ==== Sys2Proof/Machine/Accumulate.lean ====
section
/-! DEFINITION. Accumulates (15): packets, the residual tile, the home slice's accept unit, flushes and probes. -/

namespace Sys2Proof.Machine

/-! ### Units -/

/-- The home of a block, for claims (R332): the slice, with the package of a remote one. -/
def homeKey (block : Nat) : Nat := block * 64 / 2 ^ 42 * 256 + homeOf (block * 64)

def sameBlock (ctx block c b : Nat) : Bool := decide (c = ctx) && decide (b = block)

def Core.entry (C : Core) (ctx block : Nat) : Option Resid := C.resid.find? (fun e => sameBlock ctx block e.ctx e.block)
def Core.unanswered (C : Core) (ctx block : Nat) : List Packet := C.pkts.filter (fun p => sameBlock ctx block p.ctx p.block)
def Core.setEntry (C : Core) (e : Resid) : Core :=
  { C with resid := if C.resid.any (fun x => sameBlock e.ctx e.block x.ctx x.block) then
      C.resid.map (fun x => if sameBlock e.ctx e.block x.ctx x.block then e else x) else C.resid ++ [e] }
def Core.dropEntry (C : Core) (ctx block : Nat) : Core :=
  { C with resid := C.resid.filter (fun x => !sameBlock ctx block x.ctx x.block) }

/-- R332: the claims of a core on a home slice. -/
def Core.claims (C : Core) (hk : Nat) : Nat :=
  (C.pkts.filter (fun p => decide (homeKey p.block = hk))).length + (C.resid.filter (fun e => decide (homeKey e.block = hk))).length
/-- R337, R346: entries neither held nor reserved. -/
def Core.tileFree (C : Core) : Nat := 128 - C.resid.length - C.pkts.length

/-- R17: the core cycles that a core's quarter has counted. -/
def State.cycle (s : State) (core : Nat) : Nat := (s.quarter (quarterOfCore core)).cyc

/-- R341: the latest core cycle at which values with an AGE and a RETRY are sent, when they come now. -/
def State.dueOf (s : State) (core : Nat) (urg : Bool) (retry ageCyc : Nat) : Nat :=
  if urg then s.cycle core
  else if retry = 0 then ageCyc + 16384
  else s.cycle core + min (16384 * 2 ^ retry) 65536

/-- R333: an event may still reach the accumulate port of a core in this core cycle. -/
def State.portFree (s : State) (core : Nat) : Bool := decide ((s.core core).portAt ≠ some (s.cycle core))
def State.takePort (s : State) (core : Nat) : State := s.modCore core (fun C => { C with portAt := some (s.cycle core) })

/-- R436, R350: a packet or bounce counts in the uncore of the home die. -/
def State.chargePacket (s : State) (core ctx block w : Nat) : State :=
  s.chargeRaw core ctx (s.weight w) (if s.isLocal (block * 64) then domUncore (homeSlice (block * 64)).1 else domIO)

/-- Slots of the first table that the second marks too, and those that it does not. -/
def slotsIn (a b : Tbl W32) : Tbl W32 := a.filter (fun q => (tfind b q.1).isSome)
def slotsOut (a b : Tbl W32) : Tbl W32 := a.filter (fun q => (tfind b q.1).isNone)

/-- R339, R342: an entry leaves the tile otherwise than on its grant. -/
def State.unbookEntry (s : State) (core : Nat) (e : Resid) : State :=
  if e.book && s.isLocal (e.block * 64) then s.modSlice (homeOf (e.block * 64)) (fun S => (S.unbook core).serve) else s

/-- R540: packets unanswered at a remote home slice. -/
def State.remoteRoom (s : State) (block : Nat) : Bool := s.isLocal (block * 64) || decide (tget 0 s.remoteAcc (homeKey block) < 8)

/-- A packet leaves the core (R331, R350). -/
def State.sendPacket (s : State) (core : Nat) (p : Packet) : State :=
  let n := writeFlits (4 * p.slots.length)
  let s1 := (((s.modCore core (fun C => { C with pkts := C.pkts ++ [p] })).inject core p.ctx n).chargePacket core p.ctx p.block 15).fly p.id 6 n
    (s.pathHome core (p.block * 64))
  if s.isLocal (p.block * 64) then s1
  else
    let s2 := (s1.sendSlots p.ctx p.block p.slots).chargeFlits core p.ctx 1
    { s2 with remoteAcc := tmod 0 s2.remoteAcc (homeKey p.block) (· + 1) }

/-! ### The accumulate port (R332, R339) -/

/-- R332, R339: one waiting packet is sent or placed, if it can be; the flag tells whether it was. -/
def State.leavePort (s : State) (core : Nat) (a : Addend) : State × Bool :=
  let C := s.core core
  let out := C.unanswered a.ctx a.block
  let ent := C.entry a.ctx a.block
  let hk := homeKey a.block
  match ent with
  | some e =>
    if e.op ≠ a.op then (s.modCore core (fun C => C.setEntry { e with urg := true, due := s.cycle core }), false)
    else if !out.isEmpty then
      if out.any (fun p => decide (p.op ≠ a.op)) then (s, false)
      else
        let e1 : Resid := { e with slots := mergeSlots a.op e.slots a.slots, urg := e.urg || !a.cov.isEmpty, cov := dedup (e.cov ++ a.cov) }
        (s.modCore core (fun C => C.setEntry { e1 with due := if e1.urg then s.cycle core else e.due }), true)
    else
      let rest := slotsOut e.slots a.slots
      let full := rest.isEmpty
      if 8 < C.claims hk + (if full then 0 else 1) ∨ C.tileFree + (if full then 1 else 0) < 1 ∨ !s.remoteRoom a.block ∨
          s.limited core a.ctx (writeFlits (4 * a.slots.length)) then (s, false)
      else
        let p : Packet := ⟨s.nextId, a.ctx, s.partOf a.ctx, a.block, a.op, mergeSlots a.op (slotsIn e.slots a.slots) a.slots,
          some e.age, e.retry, e.urg, false, dedup (e.cov ++ a.cov), .sent, e.ageCyc, some e.due, 0⟩
        let s1 := (if full then s.unbookEntry core e else s).modCore core (fun C =>
          if full then C.dropEntry a.ctx a.block else C.setEntry { e with slots := rest })
        (({ s1 with nextId := s.nextId + 1 } : State).sendPacket core p, true)
  | none =>
    if out.any (fun p => decide (p.op ≠ a.op)) then (s, false)
    else if !out.isEmpty then
      if 8 ≤ C.claims hk ∨ C.tileFree < 1 then (s, false)
      else
        let e : Resid := ⟨a.ctx, a.block, a.op, a.slots, s.time, 0, !a.cov.isEmpty, false,
          s.dueOf core (!a.cov.isEmpty) 0 (s.cycle core), a.cov, s.cycle core⟩
        (s.modCore core (fun C => C.setEntry e), true)
    else if 8 ≤ C.claims hk ∨ C.tileFree < 1 ∨ !s.remoteRoom a.block ∨ s.limited core a.ctx (writeFlits (4 * a.slots.length)) then (s, false)
    else
      let p : Packet := ⟨s.nextId, a.ctx, s.partOf a.ctx, a.block, a.op, a.slots, none, 0, false, false, a.cov, .sent, 0, none, 0⟩
      (({ s with nextId := s.nextId + 1 } : State).sendPacket core p, true)

/-- The packets that wait in a core's port, in issue order: team, gang and packet. -/
def State.portList (s : State) (core : Nat) : List (Nat × Nat × Addend) :=
  sortBy (fun a b => decide (a.2.2.seq ≤ b.2.2.seq)) (s.teams.flatMap (fun p =>
    (p.2.gangs.filter (fun q => decide (q.2.core = core))).flatMap (fun q => q.2.port.map (fun a => (p.1, q.1, a)))))

/-- R332, R348: the waiting packets of a core leave as soon as they can; those of one context and block in issue order. -/
def State.corePort (s : State) (core : Nat) : State :=
  ((s.portList core).foldl (fun (r : State × List Addend) x =>
    let a := x.2.2
    if r.2.any (fun b => sameBlock a.ctx a.block b.ctx b.block) then (r.1, r.2 ++ [a])
    else match r.1.leavePort core a with
      | (s1, true) => (s1.modGang x.1 x.2.1 (fun G => { G with port := G.port.filter (fun b => decide (b.seq ≠ a.seq)) }), r.2)
      | (s1, false) => (s1, r.2 ++ [a])) (s, [])).1

/-! ### Flushes (R344) -/

def Team.cores (T : Team) : List Nat := dedup (T.gangs.map (fun p => p.2.core))

/-- R344: a flush begins: every addend of the context on the cores is covered. -/
def State.startFlush (s : State) (ctx : Nat) (cores : List Nat) : State :=
  let f := s.nextId
  let s1 := { s with nextId := s.nextId + 1 }
  let s2 := cores.foldl (fun s c => s.modCore c (fun C => { C with
    resid := C.resid.map (fun e => if e.ctx = ctx then { e with cov := e.cov ++ [f], urg := true, due := s.cycle c } else e),
    pkts := C.pkts.map (fun p => if p.ctx = ctx then { p with cov := p.cov ++ [f] } else p) })) s1
  s2.mapTeams (fun _ T => if T.ctx = ctx then T.mapGangs (fun _ G =>
    if cores.elem G.core then { G with port := G.port.map (fun a => { a with cov := a.cov ++ [f] }) } else G) else T)

/-- R344: no covered addend remains. -/
def State.flushDone (s : State) (f : Nat) : Bool :=
  s.cores.all (fun c => c.2.resid.all (fun e => !e.cov.elem f) && c.2.pkts.all (fun p => !p.cov.elem f)) &&
  s.teams.all (fun t => t.2.gangs.all (fun g => g.2.port.all (fun a => !a.cov.elem f)))

/-- R344: the lanes whose flush has completed go on. -/
def Gang.endFlushes (G : Gang) (done : Nat → Bool) : Gang :=
  let ls := G.allLanes.filter (fun l => match G.laneState l with
    | .flush f => done f
    | _ => false)
  if ls.isEmpty then G else G.leaveWait ls

def State.endFlushes (s : State) : State :=
  s.mapTeams (fun _ T => if T.onDie then T.mapGangs (fun _ G => G.endFlushes s.flushDone) else T)

/-- What follows an answer at a core. -/
def State.afterAnswer (s : State) (core ctx : Nat) : State := ((s.corePort core).endFlushes).returnMeter core ctx

/-! ### Instructions -/

/-- R331: the addends of a lane: byte address and value of each word, or of a double word. -/
def laneAddend (op : AccOpc) (pa : Nat) (x : W64) : Tbl W32 :=
  let k := pa % 64 / 4
  match op with
  | .addI64 => [(k, x.extractLsb' 0 32), (k + 1, x.extractLsb' 32 32)]
  | _ => [(k, x.extractLsb' 0 32)]

/-- R331: lanes' addends combined in lane order, by block. -/
def combineAddends (op : AccOpc) (xs : List (Nat × Tbl W32)) : Tbl (Tbl W32) :=
  xs.foldl (fun b q => tput b (q.1 / 64) (mergeSlots op (tget [] b (q.1 / 64)) q.2)) []

/-- R329, R331 to R333, R340: `acc` and `accv`: checks, then packets, one instruction of a core in a cycle; a packet that can not
leave yet waits in the port. Those for an unreachable package are discarded and reported (R541). -/
def accWord (i : Instr) (g : Grd) (op : AccOpc) (a : Opd) (sz : Nat) (slots : Gang → Nat → Nat → Tbl W32) (s : State) : Out :=
  runWord i s (fun s =>
    let ls := (s.active g).map (fun l => (l, ((s.curGang.rawOpd a true l).toNat : Int)))
    (s.checkLanes s.cur.team s.cur.gang .glob sz .write ls).settle i .write none (fun s locs =>
      let G := s.curGang
      let core := G.core
      let ctx := s.curTeam.ctx
      let xs := locs.filterMap (fun q => match q.2 with
        | .mem pa => some (pa, slots G q.1 pa)
        | _ => none)
      let bs := combineAddends op xs
      if !bs.isEmpty && !s.portFree core then s.hold
      else
        let here (b : Nat × Tbl W32) : Bool := s.isLocal (b.1 * 64) || s.reachable (b.1 * 64 / 2 ^ 42)
        let sent := bs.filter here
        let adds := ((upto sent.length).zip sent).map (fun b => (⟨s.cur.lanes, ctx, b.2.1, op, b.2.2, [], s.nextId + b.1⟩ : Addend))
        let s0 : State := { (if bs.all here then s else s.signal 0 1) with nextId := s.nextId + sent.length }
        let s1 := (if bs.isEmpty then s0 else s0.takePort core).finish false
        .next ((s1.setCur { s1.curGang with port := s1.curGang.port ++ adds }).corePort core)))

def execAcc (g : Grd) (op : AccOpc) (a b : Opd) (s : State) : Out :=
  accWord (.acc g op a b) g op a (if op = .addI64 then 8 else 4)
    (fun G l pa => laneAddend op pa (if op = .addI64 then G.rawOpd b true l else (G.read32 b l).setWidth 64)) s

def execAccv (g : Grd) (op : AccOpc) (a : Opd) (b : BitVec 8) (s : State) : Out :=
  accWord (.accv g op a b) g op a 16
    (fun G l pa => (upto 4).flatMap (fun j => laneAddend op (pa + 4 * j) ((G.readV l (b.toNat + j)).setWidth 64))) s

/-- R344: `acc.flush`. -/
def execAccFlush (g : Grd) (y : Scope) (s : State) : Out :=
  runWord (.accFlush g y) s (fun s =>
    let act := s.active g
    if act.isEmpty then .next (s.finish true)
    else
      let f := s.nextId
      let s1 := s.startFlush s.curTeam.ctx s.curTeam.cores
      let s2 := match s1.curGang.prog with
        | some (.rep _ _ _ _ _ _) => s1.setCur (s1.curGang.countWindows s.runLanes true)
        | _ => s1.finishAt true (fun l => if act.elem l then s.cur.pc else s.cur.pc + 8)
      let s3 := s2.setCur (s2.curGang.setLanes act (.flush f))
      .next (s3.setCur (s3.curGang.endFlushes s3.flushDone)))

/-- R345: the word that `acc.probe` writes. -/
def probeWord (C : Core) (ctx block : Nat) : W64 :=
  let n := (C.resid.filter (fun e => decide (e.ctx = ctx))).length
  match C.entry ctx block with
  | some e => BitVec.ofNat 64 (n * 2 ^ 24 + (if e.book then 2 ^ 16 else 0) + e.slots.foldl (fun m q => m + 2 ^ q.1) 0)
  | none => BitVec.ofNat 64 (n * 2 ^ 24)

/-- R345: `acc.probe`. -/
def execAccProbe (g : Grd) (la : BitVec 4) (d a : BitVec 8) (s : State) : Out :=
  let i : Instr := .accProbe g la d a
  runWord i s (fun s =>
    match s.active g with
    | [] => s.next
    | l :: rest =>
      (s.checkLanes s.cur.team s.cur.gang .glob 1 .probe [(l, ((s.curGang.readS a.toNat).toNat : Int))]).settle i .probe (some (l :: rest))
        (fun s locs =>
          let C := s.core s.curGang.core
          let block := match locs with
            | (_, .mem pa) :: _ => pa / 64
            | _ => 0
          if !(C.unanswered s.curTeam.ctx block).isEmpty then s.hold
          else .next (s.results la.toNat [.s d.toNat] [.s d.toNat (probeWord C s.curTeam.ctx block)] [])))

/-! ### The accept unit (R334 to R336, R342) -/

def Core.setPacket (C : Core) (p : Packet) : Core := { C with pkts := C.pkts.map (fun x => if x.id = p.id then p else x) }

/-- R334 (c): an L1 holds the line Exclusive. -/
def State.heldExclusive (s : State) (line : Nat) : Bool := s.cores.any (fun c => c.2.l1.any (fun x => decide (x.line = line) && x.excl))

/-- R334 (b): the entries of the accept queue that a partition holds. -/
def State.acceptOf (s : State) (h part : Nat) : Nat :=
  ((s.slice h).accept.filter (fun q => (s.core q.1).pkts.any (fun p => decide (p.id = q.2) && decide (p.part = part)))).length

/-- R336: a refusal under (c) sets the refusal-pending bit. -/
def State.refusalPending (s : State) (line : Nat) : State :=
  s.modSlice (homeOf (line * 128)) (fun S => S.modEntry line (fun e => { e with refuse := match e.refuse with
    | some (a, _) => some (a, s.time)
    | none => some (s.time, s.time) }))

/-- R334: acceptance: the packet's place in the line's order. -/
def State.acceptPacket (s : State) (core : Nat) (p : Packet) : State :=
  let h := homeOf (p.block * 64)
  let s1 := s.modCore core (fun C => C.setPacket { p with stage := .accepted })
  s1.modSlice h (fun S =>
    let S1 := S.clearRefusal (p.block / 2)
    let S2 := { S1 with accept := S1.accept ++ [(core, p.id)], freedAt := if S1.accept.isEmpty then s.time else S1.freedAt }
    if p.granted then S2.unbook core else S2)

/-- R342: a packet that carries RETRY 3 or more, or URG. -/
def Packet.late (p : Packet) : Bool := p.urg || decide (3 ≤ p.retry)

/-- R319: an earlier packet of the same cluster for the same home slice is still on its way. -/
def State.packetBehind (s : State) (core : Nat) (p : Packet) : Bool :=
  s.cores.any (fun c => decide (clusterOfCore c.1 = clusterOfCore core) && c.2.pkts.any (fun q =>
    decide (q.id < p.id) && decide (q.stage = .sent) && decide (homeKey q.block = homeKey p.block)))

/-- R334: a refused packet is on its way back, with its values. -/
def State.bounceBack (s : State) (core : Nat) (p : Packet) : State :=
  s.nextNumber.fly p.id 0 (writeFlits (4 * p.slots.length)) (s.pathBack core (p.block * 64))

/-- R319: an answer that the same home slice sent earlier to the same cluster has not been taken. -/
def State.answerBehind (s : State) (core : Nat) (p : Packet) : Bool :=
  s.isLocal (p.block * 64) && s.cores.any (fun c => decide (clusterOfCore c.1 = clusterOfCore core) && c.2.pkts.any (fun q =>
    decide (homeKey q.block = homeKey p.block) && decide (q.answer < p.answer) && (match q.stage with
      | .applied => true
      | .refused _ => true
      | _ => false)))

/-- R319, R334, R342: a packet reaches its home slice, in its turn. A packet sent on a grant is held while its line is Exclusive. -/
def execAccumulatePacketArrival (core id : Nat) (s : State) : Out :=
  match (s.core core).pkts.find? (fun p => decide (p.id = id) && (decide (p.stage = .sent) || decide (p.stage = .held)) &&
      s.isLocal (p.block * 64)) with
  | none => .next s
  | some p =>
    let h := homeOf (p.block * 64)
    let S := s.slice h
    let excl := s.heldExclusive (p.block / 2)
    if s.flying id || s.packetBehind core p then .next s
    else if p.granted then
      if excl then .next ((s.refusalPending (p.block / 2)).modCore core (fun C => C.setPacket { p with stage := .held }))
      else .next (s.acceptPacket core p)
    else if 64 ≤ S.accept.length + S.grants.length ∨ 16 ≤ s.acceptOf h p.part ∨ excl then
      let p1 : Packet := { p with stage := .refused p.late, age := some (p.age.getD s.time), answer := s.nextId,
                                     ageCyc := if p.age.isSome then p.ageCyc else s.cycle core }
      let s1 := (s.modCore core (fun C => C.setPacket p1)).bounceBack core p
      let s2 := if excl then s1.refusalPending (p.block / 2) else s1
      .next (if p.late then s2.modSlice h (fun S => (S.book core).serve) else s2)
    else .next (s.acceptPacket core p)

/-- R334, R335: the oldest accepted packet of a slice is applied. -/
def execAccumulateApply (slice : Nat) (s : State) : Out := .next (s.applyHead slice)

/-- A packet is answered: its claim and its reservation end. -/
def State.answered (s : State) (core : Nat) (p : Packet) : State :=
  let s1 := s.modCore core (fun C => { C with pkts := C.pkts.filter (fun x => decide (x.id ≠ p.id)) })
  if s.isLocal (p.block * 64) then s1
  else { s1.chargeFlits core p.ctx 1 with remoteAcc := tmod 0 s1.remoteAcc (homeKey p.block) (· - 1) }

/-- R335: the acknowledgement reaches the core. A remote home slice (R540) answers when the outside says so. -/
def execAccumulateAckArrival (core id : Nat) (s : State) : Out :=
  match (s.core core).pkts.find? (fun p => decide (p.id = id) &&
      (decide (p.stage = .applied) || (decide (p.stage = .sent) && !s.isLocal (p.block * 64))) && !s.flying id && !s.answerBehind core p) with
  | none => .next s
  | some p => .next ((s.answered core p).afterAnswer core p.ctx)

/-- R338, R341: the entry that a bounce forms or merges into. Values that a packet took along without being a retry keep their
deadline. -/
def bounceEntry (s : State) (core : Nat) (p : Packet) (booked : Bool) : Resid :=
  let cyc := if p.age.isSome then p.ageCyc else s.cycle core
  let due (urg : Bool) (c : Nat) : Nat := if urg then s.cycle core else match p.due with
    | some d => d
    | none => s.dueOf core false p.retry c
  match (s.core core).entry p.ctx p.block with
  | some e =>
    let urg := e.urg || p.urg || !p.cov.isEmpty
    { e with slots := mergeSlots p.op e.slots p.slots, age := min e.age (p.age.getD s.time), ageCyc := min e.ageCyc cyc, retry := max e.retry p.retry,
             urg := urg, book := e.book || booked, cov := dedup (e.cov ++ p.cov), due := min e.due (due urg cyc) }
  | none =>
    let urg := p.urg || !p.cov.isEmpty
    ⟨p.ctx, p.block, p.op, p.slots, p.age.getD s.time, p.retry, urg, booked, due urg cyc, p.cov, cyc⟩

/-- R333, R338, R350: a bounce reaches the core, whose port takes one event in a cycle. -/
def execBounceArrival (core id : Nat) (s : State) : Out :=
  match (s.core core).pkts.find? (fun p => decide (p.id = id) && !s.flying id && !s.answerBehind core p && s.portFree core) with
  | none => .next s
  | some p =>
    let go (booked : Bool) : Out :=
      let s1 := ((s.takePort core).answered core p).chargePacket core p.ctx p.block 16
      let again := match (s1.core core).entry p.ctx p.block with
        | some e => e.book && booked
        | none => false
      let s2 := if again && s.isLocal (p.block * 64) then s1.modSlice (homeOf (p.block * 64)) (fun S => (S.unbook core).serve) else s1
      let e := bounceEntry s2 core p booked
      .next ((s2.modCore core (fun C => C.setEntry e)).afterAnswer core p.ctx)
    match p.stage with
    | .refused b => go b
    | .sent => if s.isLocal (p.block * 64) || p.granted then .next s else go p.late
    | _ => .next s

/-- R341: a held entry is sent as one packet, which frees the entry and reserves one. -/
def State.sendEntry (s : State) (core : Nat) (e : Resid) (granted : Bool) : State :=
  let p : Packet := ⟨s.nextId, e.ctx, s.partOf e.ctx, e.block, e.op, e.slots, some e.age, min 15 (e.retry + 1), e.urg, granted, e.cov, .sent, e.ageCyc, none, 0⟩
  ({ (s.takePort core).modCore core (fun C => C.dropEntry e.ctx e.block) with nextId := s.nextId + 1 } : State).sendPacket core p

/-- R341: a retry, or the sending of an urgent entry; a booked entry waits for its grant. -/
def execResidualRetry (core ctx block : Nat) (s : State) : Out :=
  match (s.core core).entry ctx block with
  | none => .next s
  | some e =>
    if e.book || !((s.core core).unanswered ctx block).isEmpty || !s.remoteRoom block || !s.portFree core ||
        s.limited core ctx (writeFlits (4 * e.slots.length)) then .next s
    else .next (s.sendEntry core e false)

/-- R342: grants of a slice that a core has not yet used. -/
def State.unusedGrants (s : State) (core h : Nat) : Nat :=
  (s.slice h).granted core - ((s.core core).pkts.filter (fun p => p.granted && s.isLocal (p.block * 64) && decide (homeOf (p.block * 64) = h))).length

/-- R341, R342: a booked entry is sent on its home slice's grant, and not before it; when that of another package comes is not known here
(R540, notes/assumptions/81.md). -/
def execGrantedSend (core ctx block : Nat) (s : State) : Out :=
  match (s.core core).entry ctx block with
  | none => .next s
  | some e =>
    if !e.book || !((s.core core).unanswered ctx block).isEmpty || !s.remoteRoom block || !s.portFree core ||
        s.limited core ctx (writeFlits (4 * e.slots.length)) then .next s
    else if s.isLocal (block * 64) then (if s.unusedGrants core (homeOf (block * 64)) = 0 then .next s else .next (s.sendEntry core e true))
    else if Config.remoteGrant s.fuel then .next (({ s with fuel := s.fuel + 1 } : State).sendEntry core e true)
    else .next { s with fuel := s.fuel + 1 }

/-- R336: the Exclusive owner of a line with refusals pending is recalled, with invalidation and write-back. -/
def execOwnerRecallDeadline (line : Nat) (s : State) : Out :=
  match (s.slice (homeOf (line * 128))).entry line with
  | none => .next s
  | some e =>
    match e.refuse, e.owner with
    | some _, some o => .next (s.sliceWriteBack o line)
    | _, _ => .next s

/-- R336: the bit is cleared 65,536 uncore cycles after the last refusal. -/
def execRefusalPendingClear (line : Nat) (s : State) : Out :=
  match (s.slice (homeOf (line * 128))).entry line with
  | none => .next s
  | some e =>
    match e.refuse with
    | some (_, last) =>
      if last + 65536 ≤ s.time then .next ((s.modSlice (homeOf (line * 128)) (fun S => S.clearRefusal line)).freeBypass line)
      else .next s
    | none => .next s

/-! ### What happens by itself in a cycle (R333, R334, R336, R341) -/

/-- What a row would do, when it answers a next state. -/
def Out.orElse (o : Out) (s : State) : State :=
  match o with
  | .next s1 => s1
  | _ => s

/-- R333, R341: what reaches a core's accumulate port in a cycle before its instructions: a bounce, or else an entry whose time has
come or whose grant has been given. -/
def State.portEvent (s : State) (core : Nat) : State :=
  let C := s.core core
  let back (p : Packet) : Bool := !s.flying p.id && !s.answerBehind core p && (match p.stage with
    | .refused _ => true
    | _ => false)
  if !s.portFree core then s
  else match C.pkts.find? back with
  | some p => (execBounceArrival core p.id s).orElse s
  | none =>
    let idle (e : Resid) : Bool := (C.unanswered e.ctx e.block).isEmpty && s.remoteRoom e.block && !s.limited core e.ctx (writeFlits (4 * e.slots.length))
    let ready (e : Resid) : Bool := idle e && (if e.book then !s.isLocal (e.block * 64) || s.unusedGrants core (homeOf (e.block * 64)) != 0
      else decide (e.due ≤ s.cycle core))
    match C.resid.find? ready with
    | some e => if e.book then (execGrantedSend core e.ctx e.block s).orElse s else s.sendEntry core e false
    | none => s

/-- R334, R336: the bounds of the home slices: an entry of an accept queue is freed every 64 uncore cycles, an Exclusive owner is
recalled, and a refusal is forgotten. -/
def State.sliceBounds (s : State) : State :=
  s.slices.foldl (fun (s : State) q =>
    let s1 := if !q.2.accept.isEmpty && decide (q.2.freedAt + 64 ≤ s.time) then s.applyHead q.1 else s
    (q.2.dir ++ q.2.bypass).foldl (fun (s : State) e => match e.refuse with
      | none => s
      | some (first, last) =>
        if last + 65536 ≤ s.time then (execRefusalPendingClear e.line s).orElse s
        else if e.owner.isSome ∧ max e.granted first + 4096 ≤ s.time then (execOwnerRecallDeadline e.line s).orElse s
        else s) (s1.modSlice q.1 (fun S => if S.refused.any (fun r => decide (r.2.2 + 65536 ≤ s.time)) then
          { S with refused := S.refused.filter (fun r => !decide (r.2.2 + 65536 ≤ s.time)) } else S))) s

end Sys2Proof.Machine
end

