-- ==== Sys2Proof/Machine/Cluster.lean ====
section
/-! DEFINITION. Exchange groups and cluster barriers (13). -/

namespace Sys2Proof.Machine

/-- R292: the group number and the position of a team. -/
def Team.groupNum (T : Team) : Nat := T.index / max 1 T.launch.xg
def Team.xpos (T : Team) : Nat := T.index % max 1 T.launch.xg

def Team.inGroup (T : Team) (ctx serial num : Nat) : Bool :=
  decide (T.launch.xg ≠ 0) && decide (T.ctx = ctx) && decide (T.serial = serial) && decide (T.groupNum = num)

/-- The teams of an exchange group. -/
def State.groupTeams (s : State) (ctx serial num : Nat) : List (Nat × Team) := s.teams.filter (fun p => p.2.inGroup ctx serial num)

/-- R303: a team and the rest of its exchange group that has not retired. -/
def State.mates (s : State) (t : Nat) : List Nat :=
  let T := s.team t
  if T.launch.xg = 0 then [t] else ((s.groupTeams T.ctx T.serial T.groupNum).filter (fun p => decide (p.2.state ≠ .retired))).map (·.1)

def XGroup.isOf (X : XGroup) (T : Team) : Bool :=
  decide (X.ctx = T.ctx) && decide (X.serial = T.serial) && decide (X.num = T.groupNum)

def State.groupOf (s : State) (T : Team) : XGroup :=
  (s.groups.find? (fun X => X.isOf T)).getD { ctx := T.ctx, serial := T.serial, num := T.groupNum }

def State.setGroup (s : State) (T : Team) (X : XGroup) : State := { s with groups := X :: s.groups.filter (fun Y => !Y.isOf T) }

def onXbar : WaitOn → Bool
  | .xbar => true
  | _ => false
def onCbar : WaitOn → Bool
  | .cbar _ => true
  | _ => false

/-- A set of lanes of gangs of teams covers every lane not exited of every unfinished gang of a team. -/
def coversTeam (arr : Tbl LaneMask) (t : Nat) (T : Team) : Bool :=
  T.gangs.all (fun p => (bitsOf p.2.liveLanes &&& ~~~(tget 0 arr (gangKey t p.1))) == 0)

def isShadow (w : Write) (t : Nat) : Bool := decide (w.tgt = .shadow t)

/-- R296, R298: the `xst` writes to a team that are not yet written. -/
def State.xstToTeam (s : State) (t : Nat) : Bool :=
  s.cores.any (fun c => c.2.xouts.any (fun w => decide (w.tgt = t))) ||
  s.teams.any (fun p => p.2.gangs.any (fun g => g.2.queue.any (fun e => e.any (fun w => isShadow w t))))

/-- R299, R302: the stores that the gangs of a team issued are performed at a scope. -/
def State.teamPerformed (s : State) (t : Nat) (y : Scope) : Bool := (s.team t).gangs.all (fun p => !s.storesPending t p.1 y)

/-- R298: TryExchange. A group that is being saved exchanges nothing (R303). The stores of teams that have arrived, those of their finished gangs too, come before the flip (R299). -/
def State.tryExchange (s : State) (T : Team) : State :=
  let X := s.groupOf T
  let ts := s.groupTeams T.ctx T.serial T.groupNum
  let here (k : Nat) : Bool := X.arrived.elem k || ts.any (fun p => decide (p.2.xpos = k) && decide (p.2.state = .retired))
  if !X.arrived.isEmpty && (upto T.launch.xg).all here && ts.all (fun p => decide (p.2.state ≠ .saving) && decide (p.2.state ≠ .saved)) && ts.all (fun p => !s.xstToTeam p.1 && (!p.2.onDie || s.teamPerformed p.1 .die)) then
    let s1 := s.setGroup T { X with arrived := [], lanes := [], swaps := X.swaps + 1 }
    s1.mapTeams (fun _ U =>
      if U.inGroup T.ctx T.serial T.groupNum && U.onDie then
        ({ U with scratch := U.shadow, shadow := U.scratch, poison := U.shPoison, shPoison := U.poison } : Team).mapGangs
          (fun _ G => G.wake true onXbar)
      else U)
  else s

/-- R298: a team whose lanes have all arrived joins the arrival set. -/
def State.tryArriveX (s : State) (t : Nat) : State :=
  let T := s.team t
  let X := s.groupOf T
  let s1 := if coversTeam X.lanes t T && !X.arrived.elem T.xpos && X.lanes.any (fun p => decide (p.1 / 16 = t))
    then s.setGroup T { X with arrived := insertBy (fun a b => decide (a ≤ b)) T.xpos X.arrived } else s
  s1.tryExchange T

/-- R299, R302: an arrival is a release at its scope. -/
def groupBusy (s : State) (y : Scope) : Bool := s.storesPending s.cur.team s.cur.gang y

/-- R295: outside an exchange group the words of the group are illegal after the checks of R77. -/
def outsideGroup (s : State) : Bool := decide (s.curTeam.launch.xg = 0)

/-- R294: the shadow write of a place. -/
def shadowWrite (s : State) (a : Nat) (bs : List Byte) : List Write :=
  let T := s.curTeam
  match (s.groupTeams T.ctx T.serial T.groupNum).find? (fun p => decide (p.2.xpos = a / 2 ^ 18)) with
  | some p => [⟨.shadow p.1, a % 2 ^ 18, bs⟩]
  | none => []

def execXst (g : Grd) (m : MemOp) (s : State) : Out :=
  runWord (.xst g m) s (fun s =>
    if outsideGroup s then .next (s.trapAllRun (.xst g m) 1 0)
    else if storeBusy s m then s.hold
    else
      (s.checkLanes s.cur.team s.cur.gang .shadow m.sz.bytes .write (s.laneAddrs g m false)).settle (.xst g m) .write none (fun s locs =>
        let ws := locs.flatMap (fun q => match q.2 with
          | .scr a => shadowWrite s a (storeData s.curGang m q.1)
          | _ => [])
        (s.enqueue s.cur.team s.cur.gang ws).next))

/-- R298: `xbar`. -/
def execXbar (g : Grd) (s : State) : Out :=
  runWord (.xbar g) s (fun s =>
    let act := s.active g
    if outsideGroup s then .next (s.trapAllRun (.xbar g) 1 0)
    else if act.isEmpty then .next (s.finish true)
    else if groupBusy s .die then s.hold
    else
      let X := s.groupOf s.curTeam
      let k := gangKey s.cur.team s.cur.gang
      let s1 := s.setGroup s.curTeam { X with lanes := tset 0 X.lanes k (tget 0 X.lanes k ||| bitsOf act) }
      .next ((s1.park act (fun _ => .xbar)).tryArriveX s.cur.team))

/-- R300: the state of the group. -/
def xpollWord (s : State) : W64 :=
  let T := s.curTeam
  let X := s.groupOf T
  let shadowOf (e : SqEntry) : Nat := (dedup (e.filterMap (fun w => match w.tgt with | .shadow u => some u | _ => none))).length
  let mine := s.cores.foldl (fun n c => n + (c.2.xouts.filter (fun w => decide (w.src = s.cur.team))).length) 0 +
    T.gangs.foldl (fun n p => n + p.2.queue.foldl (fun k e => k + shadowOf e) 0) 0
  (X.swaps ++ (0 : BitVec 16) ++ BitVec.ofNat 8 (min 255 mine) ++ (0 : BitVec 1) ++ BitVec.ofBool (X.arrived.elem T.xpos) ++
    BitVec.ofNat 6 X.arrived.length : BitVec 64)

def execXpoll (g : Grd) (d : BitVec 8) (s : State) : Out :=
  runWord (.xpoll g d) s (fun s =>
    if outsideGroup s then .next (s.trapAllRun (.xpoll g d) 1 0)
    else (s.setCur (s.curGang.mapOnce (s.active g) (fun G => G.writeS d.toNat (xpollWord s)))).next)

/-- R296 to R298: the oldest `xst` write of a core reaches its target. A retired target's write is discarded; one with an error
poisons what it writes. -/
def execXstWriteComplete (core : Nat) (s : State) : Out :=
  match (s.core core).xouts with
  | [] => .next s
  | w :: rest =>
    let s1 := s.modCore core (fun C => { C with xouts := rest })
    if (s1.team w.tgt).state = .retired then .next (s1.tryExchange (s1.team w.tgt))
    else
      let s2 := s1.putShadow w.tgt w.cells
      let s3 := if w.bad then s2.modTeam w.tgt (fun T => { T with shPoison := dedup (w.cells.map (fun q => q.1 / 16) ++ T.shPoison) }) else s2
      .next (s3.tryExchange (s3.team w.tgt))

/-! ### Cluster barriers (R301, R302) -/

def CbarEntry.isOf (E : CbarEntry) (T : Team) : Bool := decide (E.ctx = T.ctx) && decide (E.serial = T.serial)

/-- The entry of a team's launch on a cluster. -/
def State.cbarEntry (s : State) (cl : Nat) (T : Team) : CbarEntry :=
  ((s.cluster cl).cbars.find? (fun E => E.isOf T)).getD ⟨T.ctx, T.serial, 0, []⟩
def State.setCbar (s : State) (cl : Nat) (T : Team) (E : CbarEntry) : State :=
  s.modCluster cl (fun C => { C with cbars := E :: C.cbars.filter (fun F => !F.isOf T) })

/-- R301: the members: the launch's teams that are resident on the cluster. -/
def State.cbarMembers (s : State) (cl : Nat) (T : Team) : List (Nat × Team) :=
  s.teams.filter (fun p => p.2.onDie && decide (clusterOfCore p.2.core = cl) && decide (p.2.ctx = T.ctx) &&
    decide (p.2.serial = T.serial))

/-- R302: the entry flips when every member has arrived, but for one that is leaving. The members' stores come before the flip. -/
def State.tryCbar (s : State) (cl : Nat) (T : Team) (gone : Option Nat) : State :=
  let E := s.cbarEntry cl T
  let ms := (s.cbarMembers cl T).filter (fun p => decide (some p.1 ≠ gone))
  if !E.lanes.isEmpty && !ms.isEmpty && ms.all (fun p => coversTeam E.lanes p.1 p.2 && s.teamPerformed p.1 .cluster) then
    ms.foldl (fun s p => s.modTeam p.1 (fun U => U.mapGangs (fun _ G => G.wake true onCbar)))
      (s.setCbar cl T { E with lanes := [], phase := 1 - E.phase })
  else s

def execCbar (g : Grd) (d : BitVec 8) (s : State) : Out :=
  runWord (.cbar g d) s (fun s =>
    let act := s.active g
    if act.isEmpty then .next (s.finish true)
    else if groupBusy s .cluster then s.hold
    else
      let cl := clusterOfCore s.curGang.core
      let E := s.cbarEntry cl s.curTeam
      let k := gangKey s.cur.team s.cur.gang
      let s1 := s.setCbar cl s.curTeam { E with lanes := tset 0 E.lanes k (tget 0 E.lanes k ||| bitsOf act) }
      .next ((s1.park act (fun _ => .cbar d.toNat)).tryCbar cl s.curTeam none))

/-- R302: a member that leaves is removed together with its arrival. -/
def State.leaveCbar (s : State) (t : Nat) : State :=
  let T := s.team t
  let cl := clusterOfCore T.core
  let E := s.cbarEntry cl T
  if (s.cluster cl).cbars.any (fun F => F.isOf T) then
    (s.setCbar cl T { E with lanes := E.lanes.filter (fun p => !decide (p.1 / 16 = t)) }).tryCbar cl T (some t)
  else s

/-- R189, R233, R298, R302: what the exit of lanes completes. -/
def State.afterExit (s : State) (t g : Nat) : State :=
  let s1 := s.barsAfterExit t g
  let T := s1.team t
  let s2 := if T.launch.xg = 0 then s1 else s1.tryArriveX t
  if (s2.cluster (clusterOfCore T.core)).cbars.any (fun F => F.isOf T) then s2.tryCbar (clusterOfCore T.core) T none else s2

/-- R299, R302: arrivals that are complete but for stores on their way are tried again. -/
def State.settleGroups (s : State) : State :=
  let s1 := s.groups.foldl (fun (s : State) X =>
    if X.arrived.isEmpty then s
    else match s.teams.find? (fun p => p.2.inGroup X.ctx X.serial X.num) with
      | some p => s.tryExchange p.2
      | none => s) s
  s1.clusters.foldl (fun (s : State) c => c.2.cbars.foldl (fun (s : State) E =>
    if E.lanes.isEmpty then s
    else match s.teams.find? (fun p => p.2.onDie && decide (clusterOfCore p.2.core = c.1) && E.isOf p.2) with
      | some p => s.tryCbar c.1 p.2 none
      | none => s) s) s1

end Sys2Proof.Machine
end

