-- ==== Sys2Proof/Machine/Control.lean ====
section
/-! DEFINITION. Control, call-stack and mask instructions (08) and the `rep` prefix word (03 R87 to R90). -/

namespace Sys2Proof.Machine

/-! ### Branches -/

def execNop (g : Grd) (s : State) : Out := runWord (.nop g) s (fun s => s.next)

/-- R181, R182: lanes of Active go to their targets; the others advance. -/
def State.branch (s : State) (ends : Bool) (act : List Nat) (target : Nat → W64) : State :=
  s.finishAt ends (fun l => if act.elem l then target l else s.cur.pc + 8)

/-- R75, R101: the target of a relative branch. -/
def relTarget (pc : W64) (off : BitVec 32) : W64 := pc + off.signExtend 64 * 8

def execBra (g : Grd) (off : BitVec 32) (s : State) : Out :=
  runWord (.bra g off) s (fun s => .next (s.branch false (s.active g) (fun _ => relTarget s.cur.pc off)))
def execBrx (g : Grd) (a : Opd) (s : State) : Out :=
  runWord (.brx g a) s (fun s => .next (s.branch false (s.active g) (fun l => s.curGang.rawOpd a true l)))

/-! ### The call stack (R183 to R188) -/

/-- R183: the frames held on chip: from this number to DEPTH. -/
def frameLow (depth : Nat) : Nat := max 1 (depth - 3)

def frameKey (j lane : Nat) : Nat := j * 64 + lane
def Gang.slotOf (G : Gang) (j lane : Nat) : W64 := tget 0 G.frames (frameKey j lane)
def Gang.setSlot (G : Gang) (j lane : Nat) (x : W64) : Gang := { G with frames := tset 0 G.frames (frameKey j lane) x }

/-- R183: FrameSlot. -/
def frameSlot (G : Gang) (j lane : Nat) : W64 :=
  ((G.cstk &&& 0x01FFFFFFFFFFFF80).setWidth 57).signExtend 64 + BitVec.ofNat 64 ((j - 1) * 8 * G.width + 8 * lane)

/-- The slots of a frame as bytes in order of lanes. -/
def frameBytes (G : Gang) (j : Nat) : List Byte :=
  (upto G.width).flatMap (fun l => bytesOfNum 8 (G.slotOf j l).toNat)

/-- An access to the part of the call stack that lies in memory: the first byte, the size, and whether it writes. -/
structure StackAcc where
  addr  : W64
  bytes : Nat
  wr    : Bool
  deriving DecidableEq, Repr

/-- The lines of a frame. -/
def frameLines (G : Gang) (wr : Bool) (j : Nat) : List StackAcc :=
  (upto (G.width / 16)).map (fun k => ⟨frameSlot G j (16 * k), 128, wr⟩)

/-- The outcome of checking stack accesses: their places, a cause with its address, or missing pages. -/
inductive StackChk where
  | ok (pas : List Nat)
  | bad (c : Nat) (addr : W64)
  | pages (ks : List ((PageKey × Access) × W64))
  deriving DecidableEq, Repr

def StackAcc.access (a : StackAcc) : Access := if a.wr then .write else .read

/-- R188: every access checked in order; the first that fails gives the address. A page whose request failed, or can not be
made, is NOT_PRESENT as a replay under R166 finds it. -/
def State.checkStack (s : State) (t g : Nat) : List StackAcc → State × StackChk
  | [] => (s, .ok [])
  | a :: rest =>
    match s.checkAccess t g .glob a.addr.toNat (min a.bytes 8) a.access with
    | (s1, .bad _) => (s1, .bad 13 a.addr)
    | (s1, .page k ask) =>
      if ask then
        match State.checkStack s1 t g rest with
        | (s2, .ok _) => (s2, .pages [((k, a.access), a.addr)])
        | (s2, .pages ks) => (s2, .pages (((k, a.access), a.addr) :: ks))
        | (s2, .bad c b) => (s2, .bad c b)
      else (s1, .bad 8 a.addr)
    | (s1, .ok l) =>
      let pa := match l with
        | .mem pa => pa
        | _ => 0
      match State.checkStack s1 t g rest with
      | (s2, .ok pas) => (s2, .ok (pa :: pas))
      | r => r

/-- R187, R188: run a change of the call stack whose memory accesses are `accs`: a zero CSTK.BASE or a failing access is
CALLSTACK in every lane of Active, a missing page stalls the gang, and otherwise `body` takes the places in order. The word is
Held until its `entries` find room in the store queue (R227). -/
def withStack (i : Instr) (act : List Nat) (accs : List StackAcc) (entries : Nat) (s : State) (body : State → List Nat → Out) : Out :=
  if accs.isEmpty then body s []
  else if s.curGang.cstk &&& 0x01FFFFFFFFFFFF80 = 0 then .next (s.trapLanes i act 13 0)
  else if 32 < s.curGang.queue.length + entries then s.hold
  else
    match s.checkStack s.cur.team s.cur.gang accs with
    | (s1, .ok pas) => body s1 pas
    | (s1, .bad c a) => .next (s1.trapLanes i act c a)
    | (s1, .pages ks) => .next (s1.stallFor s.cur.team s.cur.gang ks)

/-- Read the listed places, with forwarding; the addresses of those that cannot be read. -/
def State.readStack (s : State) (t g n : Nat) (pas : List (W64 × Nat)) : State × List (List Byte) × List W64 :=
  pas.foldl (fun r q => match r.1.loadLoc t g (.mem q.2) n true with
    | (s1, bs, bad) => (s1, r.2.1 ++ [bs], if bad then r.2.2 ++ [q.1] else r.2.2)) (s, [], [])

/-- R168: each line of a spill or fill is charged at L1. -/
def State.chargeStack (s : State) (lines : Nat) : State :=
  if lines = 0 then s else s.surcharge s.curGang.core s.curTeam.ctx (lines * s.weight 7)

/-- R187: the frames that leave the window when DEPTH goes from one value to another, and those that enter it. -/
def spilledFrames (d0 d1 : Nat) : List Nat := (upto (frameLow d1)).filter (fun j => decide (frameLow d0 ≤ j))
def filledFrames (d0 d1 : Nat) : List Nat := ((upto (frameLow d0)).filter (fun j => decide (frameLow d1 ≤ j ∧ j ≤ d1))).reverse

/-- A filled frame from its bytes. -/
def Gang.fillFrame (G : Gang) (j : Nat) (bs : List Byte) : Gang :=
  (upto G.width).foldl (fun G l => G.setSlot j l (BitVec.ofNat 64 (numOfBytes ((bs.drop (8 * l)).take 8)))) G

/-- DEPTH after some lanes change depth or exit. -/
def newDepth (G : Gang) (exited : List Nat) (d : Nat → Nat) : Nat :=
  (G.liveLanes.filter (fun l => !exited.elem l)).foldl (fun m l => max m (d l)) 0

/-- R187: bring the window to its frames: fills read, then the change itself (`upd`), then spills enter the queue. A slot that no
return address was written to is spilled as 0, and frames above DEPTH read as 0 again (notes/assumptions/58.md). -/
def moveFrames (i : Instr) (act : List Nat) (d1 : Nat) (exited : Bool) (s : State) (fillAt : List (Nat × W64 × Nat)) (spillAt : List (Nat × Nat))
    (upd : State → State) : Out :=
  match s.readStack s.cur.team s.cur.gang 128 (fillAt.map (fun q => q.2)) with
  | (s1, bss, bad) =>
    match bad with
    | a :: _ => .next (s1.trapLanes i act 12 a)
    | [] =>
      let G := s1.curGang
      let js := dedup (fillAt.map (·.1))
      let G1 := js.foldl (fun G j => G.fillFrame j (((fillAt.map (·.1)).zip bss).flatMap (fun q => if q.1 = j then q.2 else []))) G
      let s2 := upd (s1.setCur G1)
      let G2 := s2.curGang
      let sj := dedup (spillAt.map (·.1))
      let s3 := sj.foldl (fun s j =>
        let lines := spillAt.filter (fun q => decide (q.1 = j))
        s.enqueue s.cur.team s.cur.gang ((lines.zip (upto lines.length)).map (fun q => ⟨.mem, q.1.2, ((frameBytes G2 j).drop (128 * q.2)).take 128⟩))) s2
      let keep := s3.curGang.frames.filter (fun q => decide (frameLow d1 ≤ q.1 / 64 ∧ q.1 / 64 ≤ d1))
      let s4 := (s3.setCur { s3.curGang with frames := keep }).chargeStack (fillAt.length + spillAt.length)
      .next (if exited then s4.afterExit s.cur.team s.cur.gang else s4)

/-- Pair each line of frames with its place. -/
def framePlaces (G : Gang) (js : List Nat) (pas : List Nat) : List (Nat × W64 × Nat) :=
  (js.flatMap (fun j => (frameLines G true j).map (fun a => (j, a.addr)))).zip pas |>.map (fun q => (q.1.1, q.1.2, q.2))

/-- R185, R187: `call` and `callv`. -/
def callWord (i : Instr) (g : Grd) (target : Gang → Nat → W64) (s : State) : Out :=
  runWord i s (fun s =>
    let act := s.active g
    let G := s.curGang
    if act.any (fun l => decide (1024 < G.callDepth l + 1)) then .next (s.trapLanes i act 13 0)
    else
      let d0 := G.depthMax
      let d1 := newDepth G [] (fun l => if act.elem l then G.callDepth l + 1 else G.callDepth l)
      let direct := act.filter (fun l => decide (G.callDepth l + 1 < frameLow d0))
      let spills := spilledFrames d0 d1
      let accs := direct.map (fun l => (⟨frameSlot G (G.callDepth l + 1) l, 8, true⟩ : StackAcc)) ++ spills.flatMap (frameLines G true)
      withStack i act accs (spills.length + (if direct.isEmpty then 0 else 1)) s (fun s pas =>
        let ret := s.cur.pc + 8
        let own := (direct.zip pas).map (fun q => (⟨.mem, q.2, bytesOfNum 8 ret.toNat⟩ : Write))
        let places := (framePlaces G spills (pas.drop direct.length)).map (fun q => (q.1, q.2.2))
        moveFrames i act d1 false s [] places (fun s =>
          let G1 := act.foldl (fun G l =>
            let n := G.callDepth l + 1
            (if direct.elem l then G else G.setSlot n l ret).setDepth l n) s.curGang
          let s1 := (s.setCur G1).enqueue s.cur.team s.cur.gang own
          s1.branch true act (target G))))

def execCall (g : Grd) (off : BitVec 32) (s : State) : Out := callWord (.call g off) g (fun _ _ => relTarget s.cur.pc off) s
def execCallv (g : Grd) (a : Opd) (s : State) : Out := callWord (.callv g a) g (fun G l => G.rawOpd a true l) s

/-- R186, R187: `ret`. -/
def execRet (g : Grd) (s : State) : Out :=
  runWord (.ret g) s (fun s =>
    let i : Instr := .ret g
    let act := s.active g
    let G := s.curGang
    if act.any (fun l => decide (G.callDepth l = 0)) then .next (s.trapLanes i act 13 0)
    else
      let d0 := G.depthMax
      let d1 := newDepth G [] (fun l => if act.elem l then G.callDepth l - 1 else G.callDepth l)
      let direct := act.filter (fun l => decide (G.callDepth l < frameLow d0))
      let fills := filledFrames d0 d1
      let accs := direct.map (fun l => (⟨frameSlot G (G.callDepth l) l, 8, false⟩ : StackAcc)) ++ fills.flatMap (frameLines G false)
      withStack i act accs 0 s (fun s pas =>
        match s.readStack s.cur.team s.cur.gang 8 ((direct.map (fun l => frameSlot G (G.callDepth l) l)).zip pas) with
        | (s1, bss, bad) =>
          match bad with
          | a :: _ => .next (s1.trapLanes i act 12 a)
          | [] =>
            let dest (l : Nat) : W64 := match (direct.zip bss).find? (fun q => decide (q.1 = l)) with
              | some q => BitVec.ofNat 64 (numOfBytes q.2)
              | none => G.slotOf (G.callDepth l) l
            moveFrames i act d1 false s1 (framePlaces G fills (pas.drop direct.length)) [] (fun s =>
              (s.setCur (act.foldl (fun G l => G.setDepth l (G.callDepth l - 1)) s.curGang)).branch true act dest)))

/-! ### Masks and reconvergence (R190 to R192) -/

def onMask (k : Nat) : WaitOn → Bool
  | .mask m => decide (m = k)
  | _ => false

/-- R191: a set is satisfied when every member that has not exited is Waiting on it. -/
def Gang.testMask (G : Gang) (k : Nat) : Gang :=
  let ws := G.waiters (onMask k)
  if !ws.isEmpty && G.liveLanes.all (fun l => !(G.readM k).getLsbD l || ws.elem l) then G.leaveWait ws else G

/-- Test every set (R191: a lane has exited). -/
def Gang.testMasks (G : Gang) : Gang := (upto 12).foldl (fun G k => G.testMask k) G

/-- R189, R236: an exit that may complete the gang's arrival at a barrier waits for the gang's stores as the arrival does. -/
def exitBusy (s : State) : Bool :=
  (upto s.curTeam.launch.bars).any (fun n => tget 0 (s.bar s.cur.team n).la s.cur.gang != 0) && barBusy s

/-- R189: `exit`. -/
def execExit (g : Grd) (s : State) : Out :=
  runWord (.exit g) s (fun s =>
    let i : Instr := .exit g
    let act := s.active g
    let G := s.curGang
    if act.isEmpty then .next (s.finish true)
    else if exitBusy s then s.hold
    else
      let d0 := G.depthMax
      let d1 := newDepth G act G.callDepth
      let fills := filledFrames d0 d1
      withStack i act (fills.flatMap (frameLines G false)) 0 s (fun s pas =>
        moveFrames i act d1 true s (framePlaces G fills pas) [] (fun s =>
          let s1 := s.branch true act (fun _ => s.cur.pc)
          s1.setCur ((s1.curGang.setLanes act .exited).testMasks.tryEnd))))

/-- A write of a mask register by the run, once, followed by the test of its set (R33, R191). -/
def maskWord (i : Instr) (g : Grd) (d : BitVec 8) (s : State) (f : Gang → List Nat → W64) : Out :=
  runWord i s (fun s =>
    let act := s.active g
    if act.isEmpty then s.next
    else
      let s1 := (s.setCur (s.curGang.writeM d.toNat (f s.curGang act))).finish false
      .next (s1.setCur (s1.curGang.testMask d.toNat)))

def execJoin (g : Grd) (d : BitVec 8) (s : State) : Out :=
  maskWord (.join g d) g d s (fun G act => G.readM d.toNat ||| bitsOf act)
def execLeave (g : Grd) (d : BitVec 8) (s : State) : Out :=
  maskWord (.leave g d) g d s (fun G act => G.readM d.toNat &&& ~~~bitsOf act)
def execMset (g : Grd) (all : Bool) (d a : BitVec 8) (s : State) : Out :=
  maskWord (.mset g all d a) g d s (fun G _ => if all then bitsOf G.liveLanes else G.readS a.toNat)
def execMand (g : Grd) (d a b : BitVec 8) (s : State) : Out :=
  maskWord (.mand g d a b) g d s (fun G _ => G.readM a.toNat &&& G.readM b.toNat)
def execMor (g : Grd) (d a b : BitVec 8) (s : State) : Out :=
  maskWord (.mor g d a b) g d s (fun G _ => G.readM a.toNat ||| G.readM b.toNat)
def execMfromk (g : Grd) (d a : BitVec 8) (s : State) : Out :=
  maskWord (.mfromk g d a) g d s (fun G act => bitsOf (act.filter (fun l => G.readK l a.toNat)))

/-- R192: `mmov` to a mask register or to a scalar register. -/
def execMmov (g : Grd) (d : Opd) (a : BitVec 8) (s : State) : Out :=
  if d.sc then
    runWord (.mmov g d a) s (fun s => (s.setCur (s.curGang.mapOnce (s.active g) (fun G => G.writeS d.n.toNat (G.readM a.toNat)))).next)
  else maskWord (.mmov g d a) g d.n s (fun G _ => G.readM a.toNat)

def execMpop (g : Grd) (d a : BitVec 8) (s : State) : Out :=
  runWord (.mpop g d a) s (fun s =>
    (s.setCur (s.curGang.mapOnce (s.active g) (fun G => G.writeS d.toNat (BitVec.ofNat 64 (onesOf (G.readM a.toNat)))))).next)

def execWaitm (g : Grd) (a : BitVec 8) (s : State) : Out :=
  runWord (.waitm g a) s (fun s =>
    let s1 := s.park (s.active g) (fun _ => .mask a.toNat)
    .next (s1.setCur (s1.curGang.testMask a.toNat)))

/-! ### Yield (R180) -/

/-- R171, R265, R269: whether a lane may issue: Ready, and not frozen by a handler. -/
def Gang.canIssue (G : Gang) (l : Nat) : Bool :=
  decide (G.laneState l = .ready) && (decide (G.level = 0) || G.hset.getLsbD l)

/-- The runs of a gang: the Ready lanes that hold each PC, as lane sets, lowest PC first (R171). -/
def Gang.runsOf (G : Gang) (ls : List Nat) : List (W64 × List Nat) :=
  (sortBy (fun a b : W64 => decide (a.toNat ≤ b.toNat)) (dedup (ls.map G.pc))).map (fun p => (p, ls.filter (fun l => decide (G.pc l = p))))

/-- R180: the yielded lanes wait until each other run of the gang has issued. DESIGN CHOICE: a run that issues in the yield's own cycle has
to issue again (notes/assumptions/74.md). -/
def execYield (g : Grd) (s : State) : Out :=
  runWord (.yield g) s (fun s =>
    let act := s.active g
    let run := s.runLanes
    let others := s.cur.others.filter (fun m => !run.any (fun l => m.getLsbD l))
    let s1 := s.finish true
    .next (if act.isEmpty || others.isEmpty then s1
      else s1.setCur { s1.curGang with yields := s1.curGang.yields ++ [⟨bitsOf act, others, 64⟩] }))

/-! ### Fetching a word (R66, R67, R259) -/

/-- The outcome of fetching a word: the word, a cause, or a missing page. -/
inductive Fetched where
  | word (w : W64)
  | fail (c : FetchCause)
  | page (k : PageKey)
  deriving DecidableEq, Repr

/-- R67, R310: the first fetch of a line since the instruction caches were invalidated may be a Read at its home slice; the line may
also be there already, prefetched or fetched by another core of the cluster, and which is not known. -/
def State.codeLine (s : State) (core ctx pa : Nat) : State :=
  let line := lineOf pa
  if (s.core core).code.isNone || (s.core core).fetched.elem line then s
  else
    let s1 := s.free.2.modCore core (fun C => { C with fetched := line :: C.fetched })
    if s.free.1.getLsbD 0 then
      (s1.sliceFetch core ctx line).modSlice (homeOf pa) (fun S => S.modEntry line (fun e => { e with sharers := e.sharers ||| clusterBit core }))
    else s1

/-- R67: the word at a place of memory as a core fetches it. The instruction caches do not observe stores: where memory has
changed since they were last invalidated, the core takes the old word or the new one, and which is not known. A word of
another package comes from its home there (R539). -/
def State.codeWord (s : State) (t g pa : Nat) : State × Option W64 :=
  let core := (s.gang t g).core
  if s.isLocal pa then
    let s := s.codeLine core (s.team t).ctx pa
    let new := readNum s.mem pa 8
    match (s.core core).code with
    | none => (s, some (BitVec.ofNat 64 new))
    | some m =>
      let old := readNum m pa 8
      if old = new then (s, some (BitVec.ofNat 64 new))
      else (s, some (BitVec.ofNat 64 (if Config.codeOld core pa s.time then old else new)))
  else
    match s.remoteRead core (s.team t).ctx pa 8 true with
    | (s1, _, true) => (s1, none)
    | (s1, bs, false) => (s1, some (BitVec.ofNat 64 (numOfBytes bs)))

/-- R259: fetch the word at a virtual address for a gang. -/
def State.fetchWord (s : State) (t g : Nat) (va : W64) : State × Fetched :=
  if va.toNat % 8 ≠ 0 then (s, .fail .misaligned)
  else if !canonicalVA va then (s, .fail .bounds)
  else
    match s.checkMapped t g va .exec with
    | (s1, .ok (.mem pa)) =>
      if s1.isLocal pa && poisoned s1.poison (lineOf pa * 128) 128 then (s1, .fail .ecc)
      else match s1.codeWord t g pa with
      | (s2, some w) => (s2, .word w)
      | (s2, none) => (s2, .fail .ecc)
    | (s1, .page k true) => (s1, .page k)
    | (s1, .page _ false) => (s1, .fail .notPresent)
    | (s1, _) => (s1, .fail .permission)

def fetchCode (c : FetchCause) : Nat :=
  match c with
  | .misaligned => 6 | .bounds => 5 | .notPresent => 8 | .permission => 7 | .ecc => 12

/-! ### The rep prefix (R87 to R90) -/

def stepOf (c : BitVec 2) : Nat :=
  match c.toNat with
  | 0 => 0 | 1 => 1 | 2 => 2 | _ => 4

/-- R88: the formats whose fields a step may name: which of d, a, b and c are register fields. -/
def repFields (op : Nat) : Bool × Bool × Bool × Bool :=
  if (0x50 ≤ op ∧ op ≤ 0x5B) ∨ op = 0x70 then (true, true, false, false)
  else if 0x21 ≤ op ∧ op ≤ 0x26 then (true, true, false, false)
  else if op = 0x19 ∨ op = 0x1A then (true, false, false, false)
  else (true, true, true, true)

/-- R88: the words that `rep` may prefix, with the steps given. -/
def repLegal (w : W64) (sd sa sb sc : Nat) : Bool :=
  let op := (w.extractLsb' 56 7).toNat
  let f := repFields op
  !w.getLsbD 63 &&
  !(decide (op ≤ 0x0F) || op == 0x5C || op == 0x5D || (decide (0x61 ≤ op) && decide (op ≤ 0x63)) || (decide (0x68 ≤ op) && decide (op ≤ 0x6F)) || op == 0x7D) &&
  !(op == 0x56 || op == 0x57 || op == 0x5B) &&
  w.extractLsb' 52 4 == 0 &&
  (sd == 0 || f.1) && (sa == 0 || f.2.1) && (sb == 0 || f.2.2.1) && (sc == 0 || f.2.2.2)

/-- R89: the word of a repetition: its fields stepped. A field past 255 is no register: none. -/
def repWord (w : W64) (i sd sa sb sc : Nat) : Option W64 :=
  let fld (lo : Nat) (st : Nat) : Nat := (w.extractLsb' lo 8).toNat + i * st
  let d := fld 32 sd
  let a := fld 24 sa
  let b := fld 16 sb
  let c := fld 8 sc
  if d < 256 ∧ a < 256 ∧ b < 256 ∧ c < 256 then
    some (w.extractLsb' 40 24 ++ BitVec.ofNat 8 d ++ BitVec.ofNat 8 a ++ BitVec.ofNat 8 b ++ BitVec.ofNat 8 c ++ w.extractLsb' 0 8)
  else none

/-- R87 to R90: `rep`: the prefixed word is checked, and the gang enters the sequence; each repetition is a step of its
own. A resumed sequence goes on from PIDX, and one that had finished completes at once. -/
def execRep (cnt : BitVec 6) (sd sa sb sc : BitVec 2) (s : State) : Out :=
  runWord (.rep cnt sd sa sb sc) s (fun s =>
    let i : Instr := .rep cnt sd sa sb sc
    let G := s.curGang
    if cnt.toNat + 1 ≤ G.pidx.toNat then
      let s1 := s.setCur { G with pidx := 0 }
      .next (s1.finishAt false (fun _ => s.cur.pc + 16))
    else
      match s.fetchWord s.cur.team s.cur.gang (s.cur.pc + 8) with
      | (s1, .fail c) => .next (s1.trapAllRun i (fetchCode c) (s.cur.pc + 8))
      | (s1, .page k) => .next (s1.stall s.cur.team s.cur.gang .exec [(k, s.cur.pc + 8)])
      | (s1, .word w) =>
        if repLegal w (stepOf sd) (stepOf sa) (stepOf sb) (stepOf sc) then
          .next (s1.setCur { s1.curGang with prog := some (.rep (cnt.toNat + 1) (stepOf sd) (stepOf sa) (stepOf sb) (stepOf sc) s.cur.lanes) })
        else .next (s1.trapAllRun i 1 0))

end Sys2Proof.Machine
end

