-- ==== Sys2Proof/Machine/Matrix.lean ====
section
/-! DEFINITION. Tiles, accumulators and the matrix array (09). -/

namespace Sys2Proof.Machine

/-! ### Tiles (R196 to R199, R208 to R210) -/

/-- R196: whether a gang runs on the follower core of its pair. -/
def onFollower (T : Team) (G : Gang) : Bool := T.launch.pair && decide (G.core ≠ T.core)

/-- The key of a core's tile in the team: the follower's tiles are numbered from 8. -/
def tileKey (follower : Bool) (n : Nat) : Nat := if follower then 8 + n else n
def Team.tile (T : Team) (k : Nat) : Tile := tget {} T.tiles k
def Team.setTile (T : Team) (k : Nat) (x : Tile) : Team := { T with tiles := tput T.tiles k x }

/-- R197: the value of TCFG. -/
def tcfgValue (x : Tile) : W64 :=
  BitVec.ofNat 64 ((if x.rdy then 2 ^ 32 else 0) + x.ew * 2 ^ 24 + x.rlen * 2 ^ 16 + x.rows)

/-- R197: a value that TCFG does not take. RDY of the written value is ignored. -/
def tcfgLegal (w : W64) : Bool :=
  let rows := (w.extractLsb' 0 7).toNat
  let rlen := (w.extractLsb' 16 8).toNat
  w.extractLsb' 33 31 == 0 && w.extractLsb' 26 6 == 0 && w.extractLsb' 7 9 == 0 &&
  decide (1 ≤ rows ∧ rows ≤ 64) && decide (1 ≤ rlen ∧ rlen ≤ 128)

def Tile.config (x : Tile) (w : W64) : Tile :=
  { x with rows := (w.extractLsb' 0 7).toNat, rlen := (w.extractLsb' 16 8).toNat, ew := (w.extractLsb' 24 2).toNat, rdy := true }

/-- R211: the tiles that an accepted operation reads, by key: in a pair operation, each array's own rings.
DESIGN CHOICE: a ring that an operation names and does not read is not held (notes/assumptions/76.md). -/
def MatOp.tilesA (o : MatOp) : List Nat :=
  (upto o.ring).map (fun k => tileKey (if o.pair then o.side && !o.wide else o.side) (o.ta + k))
def MatOp.tilesB (o : MatOp) : List Nat :=
  (upto o.ring).map (fun k => tileKey (if o.pair then o.side && o.wide else o.side) (o.tb + k))

/-- R199, R211, R212: whether a tile write waits: another write is in flight, or an accepted operation holds the tile. A
released tile is held again once it is ready (DESIGN CHOICE: notes/assumptions/77.md). -/
def State.tileBusy (s : State) (t : Nat) (follower : Bool) (n : Nat) : Bool :=
  let T := s.team t
  let k := tileKey follower n
  (T.tile k).busy.isSome ||
  ((T.tile k).rdy && s.cores.any (fun c => c.2.matq.any (fun o => decide (o.team = t) && (o.tilesA.elem k || o.tilesB.elem k))))

def curFollower (s : State) : Bool := onFollower s.curTeam s.curGang

/-- Change a tile of the issuing gang's core. -/
def State.modTile (s : State) (n : Nat) (f : Tile → Tile) : State :=
  let k := tileKey (curFollower s) n
  s.modTeam s.cur.team (fun T => T.setTile k (f (T.tile k)))

/-- A word that does nothing when Active is empty (R206). -/
def tileWord (i : Instr) (g : Grd) (s : State) (body : State → List Nat → Out) : Out :=
  runWord i s (fun s => if (s.active g).isEmpty then s.next else body s (s.active g))

def execTcfg (g : Grd) (d a : BitVec 8) (s : State) : Out :=
  tileWord (.tcfg g d a) g s (fun s act =>
    let w := s.curGang.readS a.toNat
    if !tcfgLegal w then .next (s.trapLanes (.tcfg g d a) act 1 0)
    else if s.tileBusy s.cur.team (curFollower s) d.toNat then s.hold
    else (s.modTile d.toNat (fun x => x.config w)).next)

/-- R204: bytes in a k-block of elements of a tile's width. -/
def tileKbb (ew : Nat) : Nat :=
  match ew with
  | 0 => 16 | 1 => 32 | 2 => 32 | _ => 16

/-- A stretch of bytes that a tile move touches: its exact address, its length, and where it lies in the tile. -/
structure Seg where
  addr : Int
  len  : Nat
  side : Bool
  off  : Nat
  deriving DecidableEq, Repr

/-- R208: the rows and the scale bytes of a move. DESIGN CHOICE: a pitch in scratch is unsigned (notes/assumptions/78.md). -/
def tileSegs (x : Tile) (base pitch scales : W64) (sc : Bool) : List Seg :=
  let nb := x.rlen / tileKbb x.ew
  (upto x.rows).map (fun r => ⟨(base.toNat : Int) + r * pitch.toNat, x.rlen, false, r * x.rlen⟩) ++
  (if sc then (upto x.rows).map (fun r => ⟨(scales.toNat : Int) + r * nb, nb, true, r * 8⟩) else [])

/-- The lowest byte of a stretch that lies outside its space. -/
def segBounds (L : Launch) (scr : Bool) (q : Seg) : Option Int :=
  if scr then
    if q.addr < 0 then some q.addr
    else if (L.scratchSpace : Int) ≤ q.addr then some q.addr
    else if (L.scratchSpace : Int) < q.addr + q.len then some (L.scratchSpace : Int) else none
  else
    ((upto q.len).find? (fun (k : Nat) => !canonicalVA (BitVec.ofInt 64 (q.addr + k)))).map (fun (k : Nat) => q.addr + k)

def lowestOf (l : List Int) : Option Int :=
  match l with
  | [] => none
  | x :: t => some (t.foldl min x)

/-- R208: the checks that need no translation: a cause and TADDR. -/
def tileCause (L : Launch) (scr : Bool) (x : Tile) (base pitch : W64) (sc : Bool) (segs : List Seg) : Option (Nat × W64) :=
  match lowestOf (segs.filterMap (segBounds L scr)) with
  | some a => some (5, BitVec.ofInt 64 a)
  | none =>
    if base.toNat % 16 ≠ 0 then some (6, base)
    else if pitch.toNat % 16 ≠ 0 then some (6, pitch)
    else if sc && decide (x.rlen % tileKbb x.ew ≠ 0) then some (6, 0)
    else none

/-- A stretch cut at page boundaries. -/
def Seg.pieces (q : Seg) : List Seg :=
  let a := (BitVec.ofInt 64 q.addr).toNat
  let n1 := 4096 - a % 4096
  if q.len ≤ n1 then [q] else [{ q with len := n1 }, { q with addr := q.addr + n1, len := q.len - n1, off := q.off + n1 }]

/-- R169, R208: the bytes of a scratch stretch, with the gang's own queued stores. -/
def State.scratchSeg (s : State) (t g : Nat) (q : Seg) : List Byte :=
  (upto q.len).map (fun k => s.scratchAt t (s.gang t g) (q.addr.toNat + k))

def Tile.land (x : Tile) (q : Seg) (bs : List Byte) : Tile :=
  if q.side then { x with side := writeBytes x.side q.off bs } else { x with data := writeBytes x.data q.off bs }

/-- R167, R208: the lowest byte of a stretch of scratch that lies in a poisoned unit. -/
def segError (poison : List Nat) (q : Seg) : Option Int :=
  ((upto q.len).find? (fun k => poisoned poison (q.addr.toNat + k) 1)).map (fun (k : Nat) => q.addr + k)

/-- R208: `tld`: the tile is written whole, once the scratch stores that the gang issued before have been performed. -/
def execTld (g : Grd) (la : BitVec 4) (sc : Bool) (d a b c : BitVec 8) (s : State) : Out :=
  let i : Instr := .tld g la sc d a b c
  tileWord i g s (fun s act =>
    let G := s.curGang
    let x := s.curTeam.tile (tileKey (curFollower s) d.toNat)
    let segs := tileSegs x (G.readS a.toNat) (G.readS b.toNat) (G.readS c.toNat) sc
    match tileCause s.curTeam.launch true x (G.readS a.toNat) (G.readS b.toNat) sc segs with
    | some (cs, ad) => .next (s.trapLanes i act cs ad)
    | none =>
      if s.tileBusy s.cur.team (curFollower s) d.toNat || !G.queue.isEmpty then s.hold
      else match lowestOf (segs.filterMap (segError s.curTeam.poison)) with
      | some ad => .next (s.trapLanes i act 12 (BitVec.ofInt 64 ad))
      | none =>
          let x1 := segs.foldl (fun x q => x.land q (s.scratchSeg s.cur.team s.cur.gang q)) x
          .next ((s.modTile d.toNat (fun _ => { x1 with rdy := true, ecc := false })).results la.toNat [.t d.toNat] [] []))

/-- A piece of a row at its place, cut where it passes into another line of memory. -/
def Seg.lines (q : Seg) (pa : Nat) : List (Seg × Nat) :=
  let n1 := 128 - pa % 128
  if q.len ≤ n1 then [(q, pa)]
  else [({ q with len := n1 }, pa), ({ q with addr := q.addr + n1, len := q.len - n1, off := q.off + n1 }, pa + n1)]

/-- R167: the place in bytes at a place of memory at which an error lies. -/
def State.errorAt (s : State) (pa n : Nat) : Nat := ((upto n).find? (fun k => poisoned s.poison (pa + k) 1)).getD 0

/-- Read the pieces of a `tldg` at the places that the checks found: each line of memory is asked for once (R310, R326). The last
part of the answer is the lowest address that can not be read. -/
def State.readPieces (s : State) (core ctx t : Nat) (ps : List (Seg × Loc)) : State × List (Seg × List Byte) × Option Int :=
  let parts := ps.flatMap (fun q => match q.2 with
    | .mem pa => q.1.lines pa
    | _ => [])
  let r := parts.foldl (fun (r : State × List (Seg × List Byte) × List Int × List Nat) q =>
    match r.1.engineRead core ctx t (.mem q.2) q.1.len (!r.2.2.2.elem (lineOf q.2)) with
    | (s1, bs, bad) => (s1, r.2.1 ++ [(q.1, bs)], if bad then r.2.2.1 ++ [q.1.addr + ((s1.errorAt q.2 q.1.len : Nat) : Int)] else r.2.2.1,
        lineOf q.2 :: r.2.2.2)) (s, [], [], [])
  (r.1, r.2.1, lowestOf r.2.2.1)

/-- R208, R209, R249: `tldg`: the bytes are on their way, RDY is 0, and the landing follows. -/
def execTldg (g : Grd) (la : BitVec 4) (sc : Bool) (bar : Option (BitVec 4)) (d a b c : BitVec 8) (s : State) : Out :=
  let i : Instr := .tldg g la sc bar d a b c
  tileWord i g s (fun s act =>
    let G := s.curGang
    let x := s.curTeam.tile (tileKey (curFollower s) d.toNat)
    let segs := tileSegs x (G.readS a.toNat) (G.readS b.toNat) (G.readS c.toNat) sc
    match tileCause s.curTeam.launch false x (G.readS a.toNat) (G.readS b.toNat) sc segs with
    | some (cs, ad) => .next (s.trapLanes i act cs ad)
    | none =>
      let ps := sortBy (fun p q : Seg => decide (p.addr ≤ q.addr)) (segs.flatMap Seg.pieces)
      let C := s.checkLanes s.cur.team s.cur.gang .glob 1 .read ((upto ps.length).zip (ps.map (·.addr)))
      C.settle i .read (some act) (fun s locs =>
        if s.tileBusy s.cur.team (curFollower s) d.toNat || engineWaits s || s.fenced s.cur.team s.cur.gang then s.hold
        else
          match s.holdMisses.readPieces G.core s.curTeam.ctx s.cur.team (ps.zip (locs.map (·.2))) with
          | (s1, _, some ad) => .next ((s1.takeMisses.1.chargeMisses s1.takeMisses.2).trapLanes i act 12 (BitVec.ofInt 64 ad))
          | (s1, bs, none) =>
            let x1 := bs.foldl (fun x q => x.land q.1 q.2) x
            let n := x.rows * x.rlen + (if sc then x.rows * (x.rlen / tileKbb x.ew) else 0)
            let s2 := s1.modTile d.toNat (fun _ => { x1 with rdy := false, busy := some s1.nextId, ecc := false })
            .next (s2.openWindow la.toNat [.t d.toNat] (.tile d.toNat (bar.map (·.toNat)) n) [] [] none)))

/-- R209: every byte has landed. -/
def execTldgLanding (team gang id : Nat) (s : State) : Out :=
  let T := s.team team
  let G := T.gang gang
  match G.pend.find? (fun p => decide (p.id = id) && !p.done) with
  | none => .next s
  | some p =>
    match p.kind with
    | .tile n bar bytes =>
      let k := tileKey (onFollower T G) n
      let s1 := (s.setTeam team ((T.setGang gang (G.complete id)).setTile k { T.tile k with rdy := true, busy := none })).chargeMisses p.misses
      match bar with
      | some b => .next (s1.subPend team b (BitVec.ofNat 32 bytes))
      | none => .next s1
    | _ => .next s

/-- R227: the row groups of a move: eight rows each, with their scale bytes (notes/assumptions/47.md). -/
def rowGroups (rows : Nat) (segs : List Seg) : List (List Seg) :=
  (upto ((rows + 7) / 8)).map (fun k => ((segs.take rows).drop (8 * k)).take 8 ++ ((segs.drop rows).drop (8 * k)).take 8)

/-- R208, R227: `tst`: the image, read while RDY is 1, enters the store queue, a row group in each entry. -/
def execTst (g : Grd) (sc : Bool) (d a b c : BitVec 8) (s : State) : Out :=
  let i : Instr := .tst g sc d a b c
  tileWord i g s (fun s act =>
    let G := s.curGang
    let x := s.curTeam.tile (tileKey (curFollower s) d.toNat)
    let segs := tileSegs x (G.readS a.toNat) (G.readS b.toNat) (G.readS c.toNat) sc
    match tileCause s.curTeam.launch true x (G.readS a.toNat) (G.readS b.toNat) sc segs with
    | some (cs, ad) => .next (s.trapLanes i act cs ad)
    | none =>
      let parts := rowGroups x.rows segs
      if !x.rdy || decide (32 < G.queue.length + parts.length) then s.hold
      else if x.ecc then .next (s.trapLanes i act 12 0)
      else
        let put (q : Seg) : Write := ⟨.scratch s.cur.team, q.addr.toNat, readBytes (if q.side then x.side else x.data) q.off q.len⟩
        (parts.foldl (fun s p => s.enqueue s.cur.team s.cur.gang (p.map put)) s).next)

def execTzero (g : Grd) (d : BitVec 8) (s : State) : Out :=
  tileWord (.tzero g d) g s (fun s _ =>
    if s.tileBusy s.cur.team (curFollower s) d.toNat then s.hold
    else (s.modTile d.toNat (fun x => { x with data := [], side := writeBytes [] 0 (List.replicate 512 127), rdy := true, ecc := false })).next)

/-- R210: `tmov`. Of a misaligned byte offset and one past the end, the second is the cause (notes/assumptions/48.md). -/
def execTmov (g : Grd) (sc : Bool) (d a b : BitVec 8) (s : State) : Out :=
  let i : Instr := .tmov g sc d a b
  tileWord i g s (fun s act =>
    let G := s.curGang
    let x := s.curTeam.tile (tileKey (curFollower s) d.toNat)
    let base := (G.readS b.toNat).toNat
    let size := if sc then x.rows * 8 else x.rows * x.rlen
    let off (l : Nat) : Nat := base + 4 * l
    match act.find? (fun l => decide (size < off l + 4)) with
    | some l => .next (s.trapLanes i act 5 (BitVec.ofNat 64 (max size (off l))))
    | none =>
      if base % 4 ≠ 0 then .next (s.trapLanes i act 6 (G.readS b.toNat))
      else if s.tileBusy s.cur.team (curFollower s) d.toNat then s.hold
      else (s.modTile d.toNat (fun x => act.foldl (fun x l =>
        x.land ⟨0, 4, sc, off l⟩ (bytesOfNum 4 (G.readV l a.toNat).toNat)) { x with rdy := true })).next)

/-! ### The format word (R203, R204) -/

def fmtOfCode (c : Nat) : Option ElemFmt :=
  match c with
  | 0 => some .g8 | 1 => some .i8 | 2 => some .q4 | 3 => some .f16 | 4 => some .b16 | 5 => some .f32 | _ => none

/-- R204: element width as TCFG.EW codes it, elements in a k-block, and k-block bytes. -/
def elemEw (f : ElemFmt) : Nat :=
  match f with
  | .q4 => 0 | .h4 => 0 | .g8 => 1 | .i8 => 1 | .f16 => 2 | .b16 => 2 | .f32 => 3
def elemCount (f : ElemFmt) : Nat :=
  match f with
  | .f16 => 16 | .b16 => 16 | .f32 => 4 | _ => 32
def elemKbb (f : ElemFmt) : Nat := tileKbb (elemEw f)
def elemNarrow (f : ElemFmt) : Bool := decide (elemCount f = 32)

def fmtA (w : W32) : Option ElemFmt := fmtOfCode (w.extractLsb' 0 3).toNat
def fmtB (w : W32) : Option ElemFmt := fmtOfCode (w.extractLsb' 3 3).toNat
def fmtScale (w : W32) : Bool := w.getLsbD 8
def fmtSkip (w : W32) : Bool := w.getLsbD 9
/-- R203: the H4 bit of a 32-column group of B. -/
def fmtH4 (w : W32) (group : Nat) : Bool := w.getLsbD (10 + group)

/-- R203, R204: a valid format word. -/
def fmtValid (w : W32) : Bool :=
  w.extractLsb' 12 20 == 0 && w.extractLsb' 6 2 == 0 &&
  match fmtA w, fmtB w with
  | some a, some b =>
    ((elemNarrow a && elemNarrow b) || decide (a = b)) && (!fmtScale w || (elemNarrow a && elemNarrow b)) &&
    ((!fmtH4 w 0 && !fmtH4 w 1) || decide (b = .q4))
  | _, _ => false

/-- R204: the weight of a k-block. -/
def kBlockWeight (s : State) (w : W32) : Nat :=
  match fmtA w, fmtB w with
  | some .f32, _ => s.weight 14
  | some .f16, _ => s.weight 13
  | some .b16, _ => s.weight 13
  | some .q4, some .q4 => s.weight 12
  | _, _ => s.weight 11

/-! ### Accepting operations (R211, R213, R214, R217) -/

/-- The pair gang of a leader gang (R213). -/
def partnerOf (g : Nat) : Nat := g + 1

/-- R213: why `mmap` is illegal here. -/
def mmapIllegal (T : Team) (g : Nat) : Bool :=
  !T.launch.pair || decide (g % 2 = 1) || onFollower T (T.gang g) || decide (T.launch.gangs ≤ g + 1) || (T.gang (partnerOf g)).finished

/-- R211: a ring's tiles pass the team's, or their TCFG values differ or do not suit the format. DESIGN CHOICE: RDY is no part of
this comparison (notes/assumptions/75.md). -/
def ringBad (T : Team) (follower : Bool) (t0 rl : Nat) (f : ElemFmt) : Bool :=
  let first := T.tile (tileKey follower t0)
  decide (T.launch.tiles < t0 + rl) ||
  (upto rl).any (fun k =>
    let x := T.tile (tileKey follower (t0 + k))
    decide (x.ew ≠ first.ew) || decide (x.rlen ≠ first.rlen) || decide (x.rows ≠ first.rows)) ||
  decide (first.ew ≠ elemEw f) || decide (first.rows ≠ 32) || decide (first.rlen % elemKbb f ≠ 0)

/-- R211: k-blocks in a tile of a ring. -/
def ringKt (T : Team) (follower : Bool) (t0 : Nat) (f : ElemFmt) : Nat := (T.tile (tileKey follower t0)).rlen / elemKbb f

/-- R211: the third check, on the rings of one core. -/
def ringsBad (T : Team) (follower : Bool) (w : W32) (ta tb rl : Nat) : Bool :=
  match fmtA w, fmtB w with
  | some a, some b =>
    (decide (ta < tb + rl) && decide (tb < ta + rl)) || ringBad T follower ta rl a || ringBad T follower tb rl b ||
    decide (ringKt T follower ta a ≠ ringKt T follower tb b)
  | _, _ => true

/-- R211, R213: the operand checks of an operation; a pair's rings are those of both cores, with one KT. -/
def operandsBad (T : Team) (g : Nat) (pair : Bool) (w : W32) (kb acc ta tb rl : Nat) : Bool :=
  decide (kb < 1) || decide (512 < kb) || ringsBad T (onFollower T (T.gang g)) w ta tb rl ||
  (pair && (ringsBad T true w ta tb rl || decide (usableAccs T.launch (T.gang (partnerOf g)) ≤ acc) ||
    (match fmtA w with
     | some a => decide (ringKt T false ta a ≠ ringKt T true ta a)
     | none => false)))

/-- R213, R214: whether an operation waits to be accepted. -/
def State.arrayBusy (s : State) (core : Nat) : Bool :=
  decide (4 ≤ (s.core core).matq.length) || (s.core core).matq.any (fun o => o.pair && o.side)
def followerCore (T : Team) : Nat := T.core + 1

def newOp (id team gang : Nat) (pair side wide nosplit : Bool) (ring ta tb acc : Nat) (fmt : W32) (kb p : Nat) (word : W64) : MatOp :=
  { id := id, team := team, gang := gang, pair := pair, side := side, partner := partnerOf gang, wide := wide, nosplit := nosplit,
    ring := ring, ta := ta, tb := tb, fmt := fmt, kb := kb, p := p, ran := false, acc := acc, word := word, e := [], o := [],
    paused := false, bad := false }

/-- An operation enters the queue of its array, or both queues of its pair; the partner's accumulator is pending. -/
def State.enterArray (s : State) (o : MatOp) : State :=
  let T := s.team o.team
  let G := T.gang o.gang
  let s1 := s.modCore G.core (fun C => { C with matq := C.matq ++ [{ o with side := !o.pair && onFollower T G }] })
  if o.pair then
    let s2 := s1.modCore (followerCore T) (fun C => { C with matq := C.matq ++ [{ o with side := true }] })
    let p : Pend := ⟨s.nextId, o.word, [.c o.acc], 0, [], .matrix o.id, [], [], none, false, [], none⟩
    { s2.modGang o.team o.partner (fun G => { G with pend := G.pend ++ [p] }) with nextId := s.nextId + 1 }
  else s1

def ringLen (r : BitVec 2) : Nat :=
  match r.toNat with
  | 0 => 1 | 1 => 2 | _ => 4

/-- R211, R213: the checks of a matrix word after those of R77, and its acceptance. -/
def matrixWord (i : Instr) (g : Grd) (la : BitVec 4) (ring : BitVec 2) (nosplit pair wide : Bool) (d : BitVec 8) (ta tb : BitVec 3)
    (f k : BitVec 8) (s : State) : Out :=
  tileWord i g s (fun s act =>
    let T := s.curTeam
    let G := s.curGang
    let P := T.gang (partnerOf s.cur.gang)
    let fw (l : Nat) : W32 := G.readV l f.toNat
    let w := fw (act.headD 0)
    let kb := (G.readS k.toNat).toNat
    if pair && mmapIllegal T s.cur.gang then .next (s.trapLanes i act 1 0)
    else if pair && P.pend.any (fun p => !p.done && p.names [.v f.toNat]) then s.hold
    else match act.filter (fun l => !fmtValid (fw l)) with
    | l :: more => .next (s.trapLanes i (l :: more) 1 0)
    | [] =>
      let diff := act.filter (fun l => decide (fw l ≠ w)) ++
        (if pair then (P.liveLanes.filter (fun l => decide (P.readV l f.toNat ≠ w))).map (fun l => l + 64) else [])
      match diff with
      | l :: _ => .next (s.trapLanes i act 4 (BitVec.ofNat 64 l))
      | [] =>
        if operandsBad T s.cur.gang pair w kb d.toNat ta.toNat tb.toNat (ringLen ring) then .next (s.trapLanes i act 1 0)
        else if (s.core G.core).matOff || (pair && (s.core (followerCore T)).matOff) then .next (s.trapLanes i act 12 0)
        else if s.arrayBusy G.core || (pair && s.arrayBusy (followerCore T)) then s.hold
        else
          let o := newOp s.nextId s.cur.team s.cur.gang pair false wide nosplit (ringLen ring) ta.toNat tb.toNat d.toNat w kb 0 s.cur.pc
          let s1 := ({ s with nextId := s.nextId + 1 } : State).enterArray o
          .next (s1.openWindow la.toNat [.c d.toNat] (.matrix o.id) [] [] none))

def execMma (g : Grd) (la : BitVec 4) (ring : BitVec 2) (nosplit : Bool) (d : BitVec 8) (ta tb : BitVec 3) (f k : BitVec 8) (s : State) : Out :=
  matrixWord (.mma g la ring nosplit d ta tb f k) g la ring nosplit false false d ta tb f k s
def execMmap (g : Grd) (la : BitVec 4) (ring : BitVec 2) (nosplit wide : Bool) (d : BitVec 8) (ta tb : BitVec 3) (f k : BitVec 8) (s : State) : Out :=
  matrixWord (.mmap g la ring nosplit wide d ta tb f k) g la ring nosplit true wide d ta tb f k s

/-- R216: a continuation block from its 64 bytes; none where R217 calls it illegal by itself. -/
def continOf (bs : List Byte) : Option Contin :=
  let n (o k : Nat) : Nat := numOfBytes ((bs.drop o).take k)
  let modb : BitVec 8 := BitVec.ofNat 8 (n 10 1)
  let afld : BitVec 8 := BitVec.ofNat 8 (n 9 1)
  if n 12 4 ≠ 0 ∨ n 24 40 ≠ 0 ∨ 1 < n 11 1 ∨ 15 < n 8 1 ∨ n 6 2 < 1 ∨ 512 < n 6 2 ∨ n 6 2 ≤ n 4 2 ∨
      !fmtValid (BitVec.ofNat 32 (n 0 4)) ∨ afld &&& 0x88 ≠ 0 ∨ modb &&& 0xF0 ≠ 0 ∨ modb &&& 3 = 3 ∨
      (n 11 1 = 0 ∧ modb.getLsbD 3) then none
  else some ⟨BitVec.ofNat 32 (n 0 4), n 4 2, n 6 2, n 8 1, afld, modb, decide (n 11 1 = 1), BitVec.ofNat 64 (n 16 8), 0⟩

def continBytes (c : Contin) : List Byte :=
  bytesOfNum 4 c.fmt.toNat ++ bytesOfNum 2 c.p ++ bytesOfNum 2 c.kb ++ bytesOfNum 1 c.acc ++ [c.afld] ++ [c.modb] ++
  [if c.pair then 1 else 0] ++ bytesOfNum 4 0 ++ bytesOfNum 8 c.word.toNat ++ List.replicate 40 0

/-- The operation that a continuation names. -/
def continOp (c : Contin) (id team gang : Nat) : MatOp :=
  newOp id team gang c.pair false (c.modb.getLsbD 3) (c.modb.getLsbD 2) (ringLen (c.modb.setWidth 2)) (c.afld.extractLsb' 0 3).toNat
    (c.afld.extractLsb' 4 3).toNat c.acc c.fmt c.kb c.p c.word

/-- R217: `mmac`: a continuation block from global memory is accepted as a command. The word names no accumulator, so one that is
pending already neither holds it nor traps (notes/assumptions/49.md). -/
def execMmac (g : Grd) (la : BitVec 4) (a : BitVec 8) (s : State) : Out :=
  let i : Instr := .mmac g la a
  tileWord i g s (fun s act =>
    let addr := s.curGang.readS a.toNat
    (s.checkLanes s.cur.team s.cur.gang .glob 64 .read [(act.headD 0, (addr.toNat : Int))]).settle i .read (some act) (fun s locs =>
      match locs with
      | [] => .next s
      | (_, loc) :: _ =>
        match s.loadLoc s.cur.team s.cur.gang loc 64 true with
        | (s1, _, true) => .next (s1.trapLanes i act 12 addr)
        | (s1, bs, false) =>
          let T := s1.curTeam
          let G := s1.curGang
          match continOf bs with
          | none => .next (s1.trapLanes i act 1 0)
          | some c =>
            let o := continOp c s1.nextId s.cur.team s.cur.gang
            if (c.pair && mmapIllegal T s.cur.gang) || decide (usableAccs T.launch G ≤ c.acc) ||
                operandsBad T s.cur.gang c.pair c.fmt c.kb c.acc o.ta o.tb o.ring then .next (s1.trapLanes i act 1 0)
            else if (s1.core G.core).matOff || (c.pair && (s1.core (followerCore T)).matOff) then .next (s1.trapLanes i act 12 0)
            else if s1.arrayBusy G.core || (c.pair && s1.arrayBusy (followerCore T)) then s1.hold
            else
              let s2 := ({ s1 with nextId := s1.nextId + 1 } : State).enterArray o
              .next (s2.openWindow la.toNat [.c c.acc] (.matrix o.id) [] [] none)))

/-! ### Running (R60, R212, R215) -/

/-- The formats that an array reads: B as h4 where the group's bit is set. -/
def MatOp.fmts (o : MatOp) : ElemFmt × ElemFmt :=
  let a := (fmtA o.fmt).getD .g8
  let b := (fmtB o.fmt).getD .g8
  (a, if fmtH4 o.fmt (if o.side && o.wide then 1 else 0) then .h4 else b)

/-- R56: the code of element `k` of a row that begins at a byte of a tile. -/
def elemCode (x : Tile) (f : ElemFmt) (row k : Nat) : Nat :=
  match elemEw f with
  | 0 => (readByte x.data (row + k / 2)).toNat / 16 ^ (k % 2) % 16
  | 1 => (readByte x.data (row + k)).toNat
  | 2 => readNum x.data (row + 2 * k) 2
  | _ => readNum x.data (row + 4 * k) 4

/-- The elements of one row of a k-block, and the row's scale code. -/
def rowBlock (x : Tile) (f : ElemFmt) (scl : Bool) (i kt : Nat) : List FVal × Nat :=
  ((upto (elemCount f)).map (fun k => elemValue f (elemCode x f (i * x.rlen + kt * elemKbb f) k)),
   if scl then (readByte x.side (i * 8 + kt)).toNat else 127)

/-- R60 to R62: one k-block added into a chain of the 32 × 32 block. -/
def addBlock (skip : Bool) (as bs : List (List FVal × Nat)) (chain : Tbl W32) : Tbl W32 :=
  let cell (i j : Nat) : W32 :=
    let a := as.getD i ([], 127)
    let b := bs.getD j ([], 127)
    chainAdd (tget 0 chain (32 * i + j)) (scaleBlock skip (blockSum (a.1.zip b.1)) a.2 b.2)
  (upto 1024).map (fun k => (k, cell (k / 32) (k % 32)))

/-- The k-blocks in a tile, by the configuration that its ring's first tile has at the time (notes/assumptions/50.md). -/
def MatOp.kt (o : MatOp) (T : Team) : Nat := (T.tile (o.tilesA.headD 0)).rlen / elemKbb o.fmts.1

/-- R212: the tiles of k-block p. -/
def MatOp.slotTiles (o : MatOp) (T : Team) : Nat × Nat :=
  let sl := o.p / max 1 (o.kt T) % o.ring
  (o.tilesA.getD sl 0, o.tilesB.getD sl 0)

/-- R212: whether the tiles of the next k-block are ready. -/
def MatOp.ready (o : MatOp) (T : Team) : Bool := (T.tile (o.slotTiles T).1).rdy && (T.tile (o.slotTiles T).2).rdy

/-- R212: run k-block p. -/
def MatOp.runBlock (o : MatOp) (T : Team) : MatOp :=
  let ts := o.slotTiles T
  let kt := o.p % max 1 (o.kt T)
  let x := T.tile ts.1
  let y := T.tile ts.2
  let as := (upto 32).map (fun i => rowBlock x o.fmts.1 (fmtScale o.fmt) i kt)
  let bs := (upto 32).map (fun j => rowBlock y o.fmts.2 (fmtScale o.fmt) j kt)
  let o1 : MatOp := { o with ran := true, paused := false, p := o.p + 1, bad := o.bad || x.ecc || y.ecc }
  if o.p % 2 = 0 then { o1 with e := addBlock (fmtSkip o.fmt) as bs o.e } else { o1 with o := addBlock (fmtSkip o.fmt) as bs o.o }

/-- R212: the tiles that are released after k-block p, for the next lap. -/
def MatOp.releases (o : MatOp) (T : Team) : List Nat :=
  let kt := max 1 (o.kt T)
  if o.p % kt = kt - 1 ∧ (o.p / kt + o.ring) * kt < o.kb then [(o.slotTiles T).1, (o.slotTiles T).2] else []

def Team.unready (T : Team) (ks : List Nat) : Team := ks.foldl (fun T k => T.setTile k { T.tile k with rdy := false }) T

/-- The head of an array's queue. -/
def State.arrayHead (s : State) (core : Nat) : Option MatOp := (s.core core).matq.head?
def State.setHead (s : State) (core : Nat) (o : MatOp) : State :=
  s.modCore core (fun C => { C with matq := o :: C.matq.drop 1 })

/-- R212, R213, R215: the array of a core starts its next k-block; a pair's two arrays start it together. A charge that
cannot be granted pauses the operation. -/
def execKBlockStart (core : Nat) (s : State) : Out :=
  match s.arrayHead core with
  | none => .next s
  | some o =>
    let T := s.team o.team
    let fc := followerCore T
    if (o.pair && o.side) || decide (o.kb ≤ o.p) then .next s
    else if !o.ready T then .next s
    else if !o.pair then
      match s.take core T.ctx (kBlockWeight s o.fmt) with
      | (s1, .hold) => .next s1
      | (s1, .stop) => .next (s1.setHead core { o with paused := true })
      | (s1, .taken) =>
        .next ((s1.setHead core (o.runBlock T)).modTeam o.team (fun T => T.unready (o.releases T)))
    else
      match s.arrayHead fc with
      | none => .next s
      | some q =>
        if q.id ≠ o.id ∨ !q.ready T then .next s
        else
          match s.take core T.ctx (kBlockWeight s o.fmt) with
          | (s1, .hold) => .next s1
          | (s1, .stop) => .next (s1.setHead core { o with paused := true })
          | (s1, .taken) =>
            match s1.take fc T.ctx (kBlockWeight s o.fmt) with
            | (_, .taken) =>
              let s2 := (s1.take fc T.ctx (kBlockWeight s o.fmt)).1
              .next (((s2.setHead core (o.runBlock T)).setHead fc (q.runBlock T)).modTeam o.team
                (fun T => T.unready (o.releases T ++ q.releases T)))
            | (_, .hold) => .next (s.take fc T.ctx (kBlockWeight s o.fmt)).1
            | (_, .stop) => .next ((s.setHead core { o with paused := true }).setHead fc { q with paused := true })

/-- R212, R216: the chains added into an accumulator of a gang. -/
def Gang.finaliseAcc (G : Gang) (L : Launch) (o : MatOp) : Gang :=
  (upto 1024).foldl (fun G k =>
    G.writeAcc L o.acc (k / 32) (k % 32) (finalise (G.readAcc L o.acc (k / 32) (k % 32)) (tget 0 o.e k) (tget 0 o.o k))) G

def Pend.isMatrix (p : Pend) : Bool :=
  match p.kind with
  | .matrix _ => true
  | _ => false

/-- The pending record of an operation in a gang. -/
def Gang.pendOf (G : Gang) (id : Nat) : Option Pend := G.pend.find? (fun p => decide (p.kind = .matrix id) && !p.done)

/-- The end of an operation for a gang: its accumulator is written, or the gang is to raise ECC, once for all that it has lost, when its
other results are in (R86, R222, R258, R499; notes/assumptions/71.md). -/
def State.endOp (s : State) (t g id : Nat) (rec_ : Option MatOp) (raise : Bool) : State :=
  let T := s.team t
  let G := T.gang g
  let G1 := match rec_ with
    | some o => G.finaliseAcc T.launch o
    | none => G
  match G.pendOf id with
  | none => s.setTeam t (T.setGang g G1)
  | some p =>
    if raise && !G1.pend.any (fun q => q.late && q.isMatrix) then
      s.setTeam t (T.setGang g { G1 with pend := G1.pend.map (fun q => if q.id = p.id then { q with ecc := some (p.lanes, 0) } else q) })
    else s.setTeam t (T.setGang g (G1.complete p.id))

/-- Remove an operation from every queue. -/
def State.dropOp (s : State) (id : Nat) : State :=
  { s with cores := s.cores.map (fun c => (c.1, { c.2 with matq := c.2.matq.filter (fun o => decide (o.id ≠ id)) })) }

/-- R212, R213: an operation whose k-blocks have all run retires. -/
def execMatrixRetire (core : Nat) (s : State) : Out :=
  match s.arrayHead core with
  | none => .next s
  | some o =>
    if (o.pair && o.side) || decide (o.p < o.kb) then .next s
    else
      let twin := if o.pair then s.arrayHead (followerCore (s.team o.team)) else none
      let bad := o.bad || (match twin with
        | some q => q.bad
        | none => false)
      let s1 := s.dropOp o.id
      let s2 := match twin with
        | some q => s1.endOp o.team o.partner o.id (if bad then none else some q) false
        | none => s1
      .next (s2.endOp o.team o.gang o.id (if bad then none else some o) bad)

/-! ### Accumulators and the pool boundary (R219 to R221) -/

def execCzero (g : Grd) (d : BitVec 8) (s : State) : Out :=
  tileWord (.czero g d) g s (fun s _ =>
    let L := s.curTeam.launch
    (s.setCur ((upto 1024).foldl (fun G k => G.writeAcc L d.toNat (k / 32) (k % 32) 0) s.curGang)).next)

def execCmov (g : Grd) (d a n : BitVec 8) (s : State) : Out :=
  runWord (.cmov g d a n) s (fun s =>
    let L := s.curTeam.launch
    let W := s.curGang.width
    if accRegs W ≤ n.toNat then .next (s.trapAllRun (.cmov g d a n) 1 0)
    else (s.setCur (s.curGang.eachLane (s.active g) (fun G l => G.writeV l d.toNat (G.readV l (accReg L W a.toNat n.toNat))))).next)

def execCmovIn (g : Grd) (d a n : BitVec 8) (s : State) : Out :=
  runWord (.cmovIn g d a n) s (fun s =>
    let L := s.curTeam.launch
    let W := s.curGang.width
    if accRegs W ≤ n.toNat then .next (s.trapAllRun (.cmovIn g d a n) 1 0)
    else (s.setCur (s.curGang.eachLane (s.active g) (fun G l => G.writeV l (accReg L W d.toNat n.toNat) (G.readV l a.toNat)))).next)

/-- R221: the gang's matrix operations that are queued or running, by accumulator. -/
def State.accsInUse (s : State) (t g : Nat) : List Nat :=
  s.cores.flatMap (fun c => (c.2.matq.filter (fun o => decide (o.team = t) &&
    (decide (o.gang = g) || (o.pair && decide (o.partner = g))))).map (fun o => o.acc))

/-- R221: the per-lane registers of a range are zeroed in every lane. -/
def Gang.zeroRange (G : Gang) (lo hi : Nat) : Gang :=
  { G with pool := G.pool.filter (fun p => !(decide (lo ≤ p.1 / 64) && decide (p.1 / 64 < hi))),
           bad := G.bad.filter (fun k => !(decide (lo ≤ k / 64) && decide (k / 64 < hi))) }

def vbndIllegal (s : State) (n : Nat) : Bool :=
  let G := s.curGang
  let L := s.curTeam.launch
  let P := poolRegs L G.width
  let lo := min n G.vbnd
  let hi := max n G.vbnd
  let inRange (r : Reg) : Bool := match r with
    | .v k => decide (lo ≤ k ∧ k < hi)
    | _ => false
  decide (n % 8 ≠ 0) || decide (n < 8) || decide (min P 256 < n) ||
  G.pend.any (fun p => p.regs.any inRange) ||
  (s.accsInUse s.cur.team s.cur.gang).any (fun c =>
    decide (lo < accReg L G.width c 0 + accRegs G.width) && decide (accReg L G.width c 0 < hi))

def execVbnd (g : Grd) (a : BitVec 8) (s : State) : Out :=
  tileWord (.vbnd g a) g s (fun s act =>
    let G := s.curGang
    let n := (G.readS a.toNat).toNat
    if vbndIllegal s n then .next (s.trapLanes (.vbnd g a) act 1 0)
    else (s.setCur { G.zeroRange (min n G.vbnd) (max n G.vbnd) with vbnd := n }).next)

/-! ### Self-test (R222, R223) -/

/-- R223: the result of `atest`: the core after the test, and whether the test passed. -/
def atestWord (C : Core) (passed : Bool) : W64 :=
  BitVec.ofNat 64 ((C.spare.getD 0) * 256 + (if C.matOff then 4 else 0) + (if C.spare.isSome then 2 else 0) + (if passed then 1 else 0))

/-- R222: a core becomes matrix-disabled: its queued operations are dropped and their gangs raise ECC; one that runs will end unrecorded,
with the same trap. -/
def State.disableArray (s : State) (core : Nat) : State :=
  let ops := (s.core core).matq.filter (fun o => !o.ran)
  let s1 := s.modCore core (fun C => { C with matOff := true, damaged := [], matq := C.matq.map (fun o => { o with bad := o.bad || o.ran }) })
  ops.foldl (fun s o =>
    let s2 := s.dropOp o.id
    let s3 := if o.pair then s2.endOp o.team o.partner o.id none false else s2
    s3.endOp o.team o.gang o.id none true) s1

/-- R222, R289: a failing column of a core's array. -/
def State.failColumn (s : State) (core col : Nat) : State :=
  let C := s.core core
  if C.matOff then s
  else
    match C.spare with
    | none => (s.modCore core (fun C => { C with spare := some col, damaged := C.damaged.filter (fun c => decide (c ≠ col)) })).report 8 1 255 255
        (dieOfCore core) (core % 128) C.lastPass
    | some _ => (s.disableArray core).report 8 4 255 255 (dieOfCore core) (core % 128) C.lastPass

/-- R222: the self-test of a core's array: a failing column is dealt with, or the test passes. A disabled array passes no test. -/
def State.selfTest (s : State) (core : Nat) : State × Bool :=
  let C := s.core core
  if C.matOff then (s, false)
  else match C.damaged with
    | c :: _ => (s.failColumn core c, false)
    | [] => (s.modCore core (fun C => { C with lastPass := s.time }), true)

/-- R222: a column of an array fails. -/
def State.damage (s : State) (core col : Nat) : State :=
  s.modCore core (fun C => if C.matOff || C.spare == some col || C.damaged.elem col then C else { C with damaged := C.damaged ++ [col] })

/-- R223: `atest`. -/
def execAtest (g : Grd) (d : BitVec 8) (s : State) : Out :=
  runWord (.atest g d) s (fun s =>
    let core := s.curGang.core
    if (s.active g).isEmpty then s.next
    else if !(s.core core).matq.isEmpty then s.hold
    else match s.selfTest core with
      | (s1, ok) => (s1.setCur (s1.curGang.writeS d.toNat (atestWord (s1.core core) ok))).next)

/-- R222: an operation of a core's array is under way. -/
def State.arrayRunning (s : State) (core : Nat) : Bool :=
  match s.arrayHead core with
  | some o => o.ran && decide (o.p < o.kb)
  | none => false

/-- R222: a self-test between two operations; `failing` is a column that has failed by then. -/
def execArraySelfTest (core : Nat) (failing : Option Nat) (s : State) : Out :=
  if s.arrayRunning core then .next s
  else match failing with
    | none => .next (s.selfTest core).1
    | some c => .next ((s.damage core (c % 32)).selfTest core).1

end Sys2Proof.Machine
end

