-- ==== Sys2Proof/Machine/System.lean ====
section
/-! DEFINITION. Trap and system instructions (11 R267 to R271), system registers (01 R35 to R41) and the gang control
block (11 R279). -/

namespace Sys2Proof.Machine

/-! ### Words and fetches that are no instruction -/

/-- R77, R95: an encoding that no row gives a meaning. -/
def execIllegalEncoding (_w : BitVec 64) (s : State) : Out := .next (s.trapRun { causes := causeAll s.runLanes 1 })

/-- R259: a word that cannot be fetched: its cause in every lane of the run, with TADDR the word's address. -/
def execFetchFault (c : FetchCause) (s : State) : Out :=
  .next (s.trapRun { causes := causeAll s.runLanes (fetchCode c), addr := match s.curGang.prog with
    | some (.rep _ _ _ _ _ _) => s.cur.pc + 8
    | _ => s.cur.pc })

/-! ### Traps and returns -/

/-- R268: `trap` and `brk`. -/
def trapWord (i : Instr) (g : Grd) (cause : Nat) (n : BitVec 8) (s : State) : Out :=
  runWord i s (fun s =>
    if (s.active g).isEmpty then .next (s.finish true)
    else .next (s.trapRun { causes := causeAll (s.active g) cause, code := n.toNat }))

def execTrap (g : Grd) (n : BitVec 8) (s : State) : Out := trapWord (.trap g n) g 11 n s
def execBrk (g : Grd) (n : BitVec 8) (s : State) : Out := trapWord (.brk g n) g 10 n s

/-- R269: `rfe`: the lanes of Active are Held at the word; the handler ends when its last lane arrives. -/
def execRfe (g : Grd) (skip : Bool) (s : State) : Out :=
  runWord (.rfe g skip) s (fun s =>
    if s.curGang.level = 0 ∨ s.curGang.tstat.getLsbD 3 then .next (s.trapAllRun (.rfe g skip) 1 0)
    else
      let act := s.active g
      let s1 := s.finishAt true (fun l => if act.elem l then s.cur.pc else s.cur.pc + 8)
      .next (s1.setCur ((s1.curGang.setLanes act (.rfe skip)).tryEnd)))

/-! ### System registers -/

/-- R35: how a register is read and written. -/
inductive SysAccess where
  | ro | rw | priv
  deriving DecidableEq, Repr

/-- R35: the table of system registers: Lane kind, and the access. -/
def sysReg (num : Nat) : Option (Bool × SysAccess) :=
  if num = 0 then some (true, .ro)
  else if num ≤ 9 then some (false, .ro)
  else if num = 0x10 then some (false, .ro)
  else if num = 0x11 then some (false, .priv)
  else if num = 0x12 then some (false, .rw)
  else if num = 0x13 then some (false, .ro)
  else if num = 0x14 then some (false, .priv)
  else if 0x20 ≤ num ∧ num ≤ 0x28 then some (false, .rw)
  else if num = 0x30 then some (true, .rw)
  else if num = 0x31 then some (false, .rw)
  else if 0x40 ≤ num ∧ num ≤ 0x47 then some (false, .rw)
  else if num = 0x50 ∨ num = 0x58 ∨ num = 0x60 ∨ num = 0x61 ∨ num = 0x62 ∨ num = 0x70 ∨ num = 0x71 then some (false, .ro)
  else none

/-- R40: X, Y and Z of an index or a size. -/
def dimWord (x y z : Nat) : W64 := BitVec.ofNat 64 (z * 2 ^ 44 + y * 2 ^ 24 + x)

/-- R40: TEAMID. -/
def teamIdWord (T : Team) : W64 :=
  let gx := max 1 T.launch.gx
  let gy := max 1 T.launch.gy
  dimWord (T.index % gx) (T.index / gx % gy) (T.index / gx / gy)

/-- R40: TEAMPOS. -/
def teamPosWord (s : State) (T : Team) (G : Gang) : W64 :=
  BitVec.ofNat 64 (T.launch.xg * 2 ^ 16 + (if T.launch.xg = 0 then 0 else T.index % T.launch.xg) * 2 ^ 8 +
    (if T.launch.xg = 0 then 0 else 8) + (if (s.cluster (clusterOfCore G.core)).fused then 4 else 0) +
    (if T.launch.pair then 2 else 0) + (if onFollower T G then 1 else 0))

/-- R201: VBND. -/
def vbndWord (L : Launch) (G : Gang) : W64 := BitVec.ofNat 64 (usableAccs L G * 2 ^ 16 + G.vbnd)
/-- R184: CSDEPTH. -/
def csdepthWord (G : Gang) : W64 := BitVec.ofNat 64 (G.depthLow * 2 ^ 16 + G.depthMax)

/-- R346: ACCQ for a context. -/
def accqWord (C : Core) (ctx : Nat) : W64 :=
  let mine := C.resid.filter (fun e => decide (e.ctx = ctx))
  BitVec.ofNat 64 ((mine.filter (fun e => e.book)).length * 2 ^ 24 + (128 - C.resid.length - C.pkts.length) * 2 ^ 16 +
    (C.pkts.filter (fun p => decide (p.ctx = ctx))).length * 2 ^ 8 + mine.length)

/-- R463: ENLOCAL. -/
def enlocalWord (M : Meter) : W64 :=
  (if M.refused then 1#64 <<< 63 else 0) ||| (if M.req then 1#64 <<< 62 else 0) ||| (BitVec.ofInt 48 M.rem).setWidth 64

/-- R457: VFSTAT of a partition. -/
def vfstatWord (s : State) (p : Nat) : W64 :=
  let P := s.part p
  let prog := match P.busy with
    | some (start, _) => min 10 ((s.time - start) / Config.usPeriods)
    | none => 0
  BitVec.ofNat 64 (P.seq % 256 * 2 ^ 32 + (if P.busy.isSome then 2 ^ 31 else 0) + (if P.pendT then 2 ^ 30 else 0) +
    max P.pceil P.capceil * 2 ^ 24 + P.target * 2 ^ 16 + P.cur * 2 ^ 8 + prog)

/-- R35, R37, R38: the value of a system register for a lane of a gang. Every core reads the same TIME, where R41 lets cores differ by up
to 4 (notes/assumptions/53.md). -/
def State.readSys (s : State) (t g l : Nat) (num : Nat) : W64 :=
  let T := s.team t
  let G := T.gang g
  match num with
  | 0x00 => BitVec.ofNat 64 ((G.base + l / 4) * 256 + l)
  | 0x01 => BitVec.ofNat 64 (G.slot * 256 + g)
  | 0x02 => teamIdWord T
  | 0x03 => teamPosWord s T G
  | 0x04 => dimWord T.launch.gx T.launch.gy T.launch.gz
  | 0x05 => BitVec.ofNat 64 G.width
  | 0x06 => BitVec.ofNat 64 (G.core % 128)
  | 0x07 => BitVec.ofNat 64 (G.core % 128 / 32 * 256 + G.core % 128 / 4)
  | 0x08 => BitVec.ofNat 64 (dieOfCore G.core)
  | 0x09 => s.pkgid
  | 0x10 => vbndWord T.launch G
  | 0x11 => BitVec.ofNat 64 (s.core G.core).ageMax
  | 0x12 => G.cstk
  | 0x13 => csdepthWord G
  | 0x14 => BitVec.ofNat 64 (s.ctx T.ctx).spillt
  | 0x20 => G.pidx
  | 0x21 => G.tcause
  | 0x22 => tget 0 G.tlanes 0
  | 0x23 => tget 0 G.tlanes 1
  | 0x24 => tget 0 G.tlanes 2
  | 0x25 => tget 0 G.tlanes 3
  | 0x26 => G.taddr
  | 0x27 => G.tpc
  | 0x28 => G.tstat
  | 0x30 => (G.readFstat l).setWidth 64
  | 0x31 => G.fmode
  | 0x50 => accqWord (s.core G.core) T.ctx
  | 0x58 => T.handle.setWidth 64
  | 0x60 => BitVec.ofInt 64 (s.ctx T.ctx).consumed
  | 0x61 => enlocalWord (s.meter G.core T.ctx)
  | 0x62 => vfstatWord s (s.partOf T.ctx)
  | 0x70 => BitVec.ofNat 64 s.time
  | 0x71 => BitVec.ofNat 64 (s.time / Config.tickPeriods)
  | n => if 0x40 ≤ n ∧ n - 0x40 < T.launch.tiles then tcfgValue (T.tile (tileKey (onFollower T G) (n - 0x40))) else 0

/-- R36, R37, R270: `sread`. -/
def execSread (g : Grd) (dk : SysDk) (d : BitVec 8) (num : BitVec 10) (s : State) : Out :=
  let i : Instr := .sread g dk d num
  runWord i s (fun s =>
    match sysReg num.toNat with
    | none => .next (s.trapAllRun i 1 0)
    | some (lane, _) =>
      if lane && dk == .scalar then .next (s.trapAllRun i 1 0)
      else
        let v (l : Nat) : W64 := s.readSys s.cur.team s.cur.gang l num.toNat
        match dk with
        | .scalar => (s.setCur (s.curGang.mapOnce (s.active g) (fun G => G.writeS d.toNat (v 0)))).next
        | .vec => (s.setCur (s.curGang.eachLane (s.active g) (fun G l => G.writeV l d.toNat ((v l).setWidth 32)))).next
        | .pair => (s.setCur (s.curGang.eachLane (s.active g) (fun G l => G.writePair l d.toNat (v l)))).next)

/-- The effect of `swrite` on a register of the gang, where it is one. -/
def Gang.writeSys (G : Gang) (num : Nat) (x : W64) : Gang :=
  match num with
  | 0x12 => { G with cstk := x &&& 0x01FFFFFFFFFFFF80 }
  | 0x20 => { G with pidx := x &&& 0xFFFF }
  | 0x21 => { G with tcause := x &&& 0xFF0F }
  | 0x22 => { G with tlanes := tset 0 G.tlanes 0 x }
  | 0x23 => { G with tlanes := tset 0 G.tlanes 1 x }
  | 0x24 => { G with tlanes := tset 0 G.tlanes 2 x }
  | 0x25 => { G with tlanes := tset 0 G.tlanes 3 x }
  | 0x26 => { G with taddr := x }
  | 0x27 => { G with tpc := x }
  | 0x28 => { G with tstat := (G.tstat &&& ~~~0x80#64) ||| (x &&& 0x80) }
  | 0x31 => { G with fmode := x &&& 0x1F03 }
  | _ => G

/-- R197: `swrite` to TCFG. -/
def writeTcfg (i : Instr) (act : List Nat) (n : Nat) (x : W64) (s : State) : Out :=
  if s.curTeam.launch.tiles ≤ n ∨ !tcfgLegal (x &&& ~~~0x100000000#64) then .next (s.trapLanes i act 1 0)
  else if s.tileBusy s.cur.team (curFollower s) n then s.hold
  else (s.modTile n (fun y => y.config x)).next

/-- R36, R38, R270: `swrite`. -/
def execSwrite (g : Grd) (dk : SysDk) (a : BitVec 8) (num : BitVec 10) (s : State) : Out :=
  let i : Instr := .swrite g dk a num
  runWord i s (fun s =>
    let act := s.active g
    let G := s.curGang
    match sysReg num.toNat with
    | none => .next (s.trapAllRun i 1 0)
    | some (lane, k) =>
      if k = .ro ∨ lane = (dk == .scalar) then .next (s.trapAllRun i 1 0)
      else if k = .priv ∧ !G.privileged then .next (s.trapAllRun i 2 0)
      else if act.isEmpty then s.next
      else if lane then (s.setCur (G.eachLane act (fun G l => G.writeFstat l ((G.readV l a.toNat).setWidth 5)))).next
      else
        let x := G.readS a.toNat
        if num = 0x11 then (s.modCore G.core (fun C => { C with ageMax := max 16 (x.toNat % 65536) })).next
        else if num = 0x14 then (s.modCtx s.curTeam.ctx (fun C => { C with spillt := x.toNat % 65536 })).next
        else if num = 0x12 ∧ 4 < G.depthMax then .next (s.trapLanes i act 13 0)
        else if 0x40 ≤ num.toNat then writeTcfg i act (num.toNat - 0x40) x s
        else (s.setCur (G.writeSys num.toNat x)).next)

/-! ### The gang control block (R271, R279) -/

/-- R279, R303: the state byte of a lane, without the yield mark. -/
def laneByte (x : LaneState) : Nat :=
  match x with
  | .exited => 3
  | .waiting (.mask k) => 1 + 16 * k
  | .waiting (.bar n) => 2 + 16 * n
  | .waiting (.memory _ _ p _) => 8 + 16 * p.getD 0
  | .waiting .xbar => 10
  | .waiting (.cbar k) => 10 + 16 * k
  | _ => 0

def Gang.yielded (G : Gang) (l : Nat) : Bool := G.yields.any (fun y => y.lanes.getLsbD l)

/-- R279: the block of a gang; `atTpc` tells that the lanes of HSET show TPC (R271). -/
def gangBlock (L : Launch) (G : Gang) (atTpc : Bool) : List Byte :=
  let ls := upto 64
  let inG (l : Nat) : Bool := decide (l < G.width)
  let win (k : Nat) : Nat := match G.conts[k]? with
    | some c => c.win
    | none => 0
  let cont (k : Nat) : List Byte := match G.conts[k]? with
    | some c => continBytes c
    | none => List.replicate 64 0
  ls.flatMap (fun l => bytesOfNum 8 (if atTpc && G.hset.getLsbD l then G.tpc.toNat else if inG l then (G.pc l).toNat else 0)) ++
  ls.flatMap (fun l => bytesOfNum 2 (G.callDepth l)) ++
  ls.map (fun l => BitVec.ofNat 8 (if inG l then laneByte (G.laneState l) + (if G.yielded l then 4 else 0) else 0)) ++
  ls.map (fun l => (G.readFstat l).setWidth 8) ++
  (upto 12).flatMap (fun k => bytesOfNum 8 (G.readM k).toNat) ++
  ([vbndWord L G, G.cstk, csdepthWord G, G.pidx, G.tcause, tget 0 G.tlanes 0, tget 0 G.tlanes 1, tget 0 G.tlanes 2,
    tget 0 G.tlanes 3, G.taddr, G.tpc, G.tstat, G.fmode] : List W64).flatMap (fun w => bytesOfNum 8 w.toNat) ++
  [BitVec.ofNat 8 (win 0), BitVec.ofNat 8 G.conts.length, BitVec.ofNat 8 (win 1), BitVec.ofNat 8 (win 2), BitVec.ofNat 8 (win 3)] ++
  List.replicate 3 0 ++ bytesOfNum 8 G.hset.toNat ++ List.replicate 40 0 ++ cont 0 ++
  ls.flatMap (fun l => bytesOfNum 2 (G.predWord l).toNat) ++ List.replicate 64 0 ++ (cont 1 ++ cont 2 ++ cont 3) ++ List.replicate 64 0

/-- A number of a block. -/
def blockNum (bs : List Byte) (o n : Nat) : Nat := numOfBytes ((bs.drop o).take n)

/-- R271, R277, R279: the state of a lane from its byte, and whether the lane is at the next word. A byte that names the
present state keeps it; an exited lane stays so; a wait on memory with no monitor is over. -/
def laneOfByte (old : LaneState) (b : Nat) : LaneState × Bool :=
  let n := b / 16
  let k := b % 4 + b / 8 % 2 * 8
  if old = .exited ∨ k + 16 * n = laneByte old then (old, false)
  else match k with
    | 1 => (.waiting (.mask n), false)
    | 2 => (.waiting (.bar n), false)
    | 3 => (.exited, false)
    | 8 => (.ready, true)
    | 10 => if n = 0 then (.waiting .xbar, false) else (.waiting (.cbar n), false)
    | _ => (.ready, false)

/-- One lane from a block. -/
def Gang.loadLane (G : Gang) (bs : List Byte) (l : Nat) : Gang :=
  let r := laneOfByte (G.laneState l) (blockNum bs (640 + l) 1)
  let pc : W64 := BitVec.ofNat 64 (blockNum bs (8 * l) 8)
  (G.setLane l r.1).setPc l (if r.2 then pc + 8 else pc)

/-- R180, R279: lanes marked yielded wait for the runs of the other lanes. -/
def Gang.loadYields (G : Gang) (bs : List Byte) (ls : List Nat) : Gang :=
  let ys := ls.filter (fun l => decide (blockNum bs (640 + l) 1 / 4 % 2 = 1) && decide (G.laneState l = .ready))
  let others := (G.runsOf (G.allLanes.filter (fun l => decide (G.laneState l = .ready) && !ys.elem l))).map (fun r => bitsOf r.2)
  let keep := G.yields.filter (fun y => (lanesOf y.lanes G.width).all (fun l => !ls.elem l))
  if ys.isEmpty || others.isEmpty then { G with yields := keep } else { G with yields := keep ++ [⟨bitsOf ys, others, 64⟩] }

/-- R271: the fields that a block replaces, for the lanes listed. -/
def Gang.loadBlock (G : Gang) (bs : List Byte) (ls : List Nat) : Gang :=
  let w (o : Nat) : W64 := BitVec.ofNat 64 (blockNum bs o 8)
  let G1 := G.eachLane ls (fun G l => G.loadLane bs l)
  let G2 := G1.eachLane G.allLanes (fun G l =>
    { G.writeFstat l (BitVec.ofNat 5 (blockNum bs (704 + l) 1)) with
      preds := tset 0 G.preds l (BitVec.ofNat 16 (blockNum bs (1088 + 2 * l) 2)) })
  let G3 := (upto 12).foldl (fun G k => G.writeM k (w (768 + 8 * k))) G2
  let G4 := [(0x12, 872), (0x20, 888), (0x21, 896), (0x22, 904), (0x23, 912), (0x24, 920), (0x25, 928), (0x26, 936), (0x27, 944),
    (0x28, 952)].foldl (fun (G : Gang) q => G.writeSys q.1 (w q.2)) G3
  G4.loadYields bs ls

/-- R271: the lines of the block. -/
def blockLines (a : W64) : List (Nat × Int) := (upto 12).map (fun k => (k, ((a.toNat + 128 * k : Nat) : Int)))

/-- R86, R151, R271: `ctx.save`. No window is open in what it saves: flags that wait for a window's end are in the block. -/
def execCtxSave (g : Grd) (a : BitVec 8) (s : State) : Out :=
  let i : Instr := .ctxSave g a
  runWord i s (fun s =>
    let act := s.active g
    if act.isEmpty then .next (s.finish true)
    else if s.curGang.queueFull then s.hold
    else
      (s.checkLanes s.cur.team s.cur.gang .glob 128 .write (blockLines (s.curGang.readS a.toNat))).settle i .write (some act) (fun s locs =>
        let bs := gangBlock s.curTeam.launch (s.curGang.countWindows s.curGang.allLanes true) true
        let ws := locs.flatMap (fun q => locWrite s.cur.team q.2 ((bs.drop (128 * q.1)).take 128))
        (s.enqueue s.cur.team s.cur.gang ws).nextEnds))

/-- R271: `ctx.load`. The frozen lanes take their new state; the lanes of HSET go on. -/
def execCtxLoad (g : Grd) (a : BitVec 8) (s : State) : Out :=
  let i : Instr := .ctxLoad g a
  runWord i s (fun s =>
    let act := s.active g
    if act.isEmpty then .next (s.finish true)
    else
      (s.checkLanes s.cur.team s.cur.gang .glob 128 .read (blockLines (s.curGang.readS a.toNat))).settle i .read (some act) (fun s locs =>
        match s.readStack s.cur.team s.cur.gang 128 (locs.filterMap (fun q => match q.2 with
          | .mem pa => some (s.curGang.readS a.toNat + BitVec.ofNat 64 (128 * q.1), pa)
          | _ => none)) with
        | (s1, _, ad :: _) => .next (s1.trapLanes i act 12 ad)
        | (s1, bss, []) =>
          let s2 := s1.finish true
          let G := s2.curGang
          let ls := G.allLanes.filter (fun l => !G.hset.getLsbD l)
          .next (s2.setCur ((G.loadBlock bss.flatten ls).testMasks))))

end Sys2Proof.Machine
end

