-- ==== Sys2Proof/Machine/Dispatcher.lean ====
section
/-! DEFINITION. The dispatcher's choices (16 R351 to R357; 13 R287, R290, R292): which launches are legal, which core a
team fits, which team is placed next, and the placement itself. -/

namespace Sys2Proof.Machine

/-! ### Limits of a launch (R351, R30, R103) -/

/-- R351: the first failing field after the context: 2 entry, 3 const image, 4 grid, 5 gang width and gangs, 6 V and A,
7 tiles, scratch and barriers, 8 pair, fuse and exchange group. -/
def launchBad (L : Launch) : Option Nat :=
  if L.entry.toNat % 8 ≠ 0 then some 2
  else if 65280 < L.cBytes ∨ (L.cAddr = 0 ∧ L.cBytes ≠ 0) then some 3
  else if L.gx < 1 ∨ 16777215 < L.gx ∨ L.gy < 1 ∨ 1048575 < L.gy ∨ L.gz < 1 ∨ 1048575 < L.gz then some 4
  else if (L.gw ≠ 16 ∧ L.gw ≠ 32 ∧ L.gw ≠ 64) ∨ L.gangs < 1 ∨ 16 < L.gangs then some 5
  else if L.v % 8 ≠ 0 ∨ L.v < 8 ∨ 256 < L.v ∨ 16 < L.a ∨ 65536 < L.v * L.gw * 4 + L.a * 4096 then some 6
  else if 8 < L.tiles ∨ L.scratch % 32768 ≠ 0 ∨ 262144 < L.scratch ∨ (L.xg ≠ 0 ∧ 131072 < L.scratch) ∨ 16 < L.bars then some 7
  else if L.xg = 1 ∨ 32 < L.xg ∨ (L.xg ≠ 0 ∧ L.gx * L.gy * L.gz % L.xg ≠ 0) then some 8
  else none

/-! ### Room on a core (R355) -/

def Launch.poolBytes (L : Launch) : Nat := L.v * L.gw * 4 + L.a * 4096
/-- R287: the gangs on the leader or follower core. -/
def Launch.share (L : Launch) (follower : Bool) : Nat :=
  if L.pair then (if follower then L.gangs / 2 else (L.gangs + 1) / 2) else L.gangs
/-- R287: the core of a gang. -/
def gangCore (L : Launch) (core g : Nat) : Nat := if L.pair && decide (g % 2 = 1) then core + 1 else core

def State.teamsOn (s : State) (core : Nat) : List (Nat × Team) := s.teams.filter (fun p => p.2.uses core)
def State.gangsOn (s : State) (core : Nat) : List (Launch × Gang) :=
  s.teams.flatMap (fun p => if p.2.onDie then (p.2.gangs.filter (fun q => decide (q.2.core = core))).map (fun q => (p.2.launch, q.2)) else [])

def sumBy {α : Type} (f : α → Nat) (l : List α) : Nat := l.foldl (fun n x => n + f x) 0

/-- First fit from the lowest address: `used` is the taken stretches in increasing order. -/
def firstFit (size : Nat) : Nat → List (Nat × Nat) → Option Nat
  | a, [] => if a + size ≤ 262144 then some a else none
  | a, (b, n) :: t => if a + size ≤ b then some a else firstFit size (max a (b + n)) t

def poolUsed (gs : List (Launch × Gang)) : List (Nat × Nat) :=
  sortBy (fun a b => decide (a.1 ≤ b.1)) (gs.map (fun q => (q.2.poolAt, q.1.poolBytes)))

/-- Pool places for `n` gangs. -/
def poolPlaces (size : Nat) : Nat → List (Nat × Nat) → Option (List Nat)
  | 0, _ => some []
  | n + 1, used =>
    match firstFit size 0 used with
    | none => none
    | some a =>
      match poolPlaces size n (sortBy (fun a b => decide (a.1 ≤ b.1)) ((a, size) :: used)) with
      | none => none
      | some l => some (a :: l)

/-- R355: whether a core has room for its share of a team. -/
def State.coreRoom (s : State) (L : Launch) (core : Nat) (follower : Bool) : Bool :=
  let ts := s.teamsOn core
  let gs := s.gangsOn core
  decide (ts.length < 16) && decide (gs.length + L.share follower ≤ 32) &&
  (poolPlaces L.poolBytes (L.share follower) (poolUsed gs)).isSome &&
  decide (sumBy (fun p : Nat × Team => p.2.launch.tiles) ts + L.tiles ≤ 16) &&
  decide (sumBy (fun p : Nat × Team => p.2.launch.banks) ts + L.banks ≤ 8) &&
  (follower || decide (sumBy (fun p : Nat × Team => if p.2.core = core then p.2.launch.bars else 0) ts + L.bars ≤ 32))

def coresOf (cluster : Nat) : List Nat := (upto 4).map (fun k => cluster * 4 + k)
def State.clusterTeams (s : State) (cl : Nat) : List (Nat × Team) :=
  s.teams.filter (fun p => p.2.onDie && decide (clusterOfCore p.2.core = cl))
def State.clusterIdle (s : State) (cl : Nat) : Bool := (s.clusterTeams cl).isEmpty
def State.clusterMatOff (s : State) (cl : Nat) : Bool := (coresOf cl).any (fun c => (s.core c).matOff)

/-- R355, R417, R420: whether a partition's teams may go to a cluster: it lies in the partition's quarters and is not
lent, or is lent to the partition; R421: and is not being reclaimed. -/
def State.clusterOpen (s : State) (p cl : Nat) : Bool :=
  let C := s.cluster cl
  let q := cl / 8
  !(s.dieOf (cl / 32)).failed && C.reclaim.isNone &&
  (match C.lent with
   | some b => decide (b = p)
   | none => (s.part p).hasQuarter q && !(s.quarter q).drained)

/-- R290, R292, R304: whether the cluster's mode suits the launch. -/
def State.clusterMode (s : State) (p : Nat) (L : Launch) (cl : Nat) : Bool :=
  let C := s.cluster cl
  let ts := s.clusterTeams cl
  if L.xg ≠ 0 then ts.isEmpty && !C.noXch && !(L.fuse && s.clusterMatOff cl)
  else
    ts.all (fun q => decide (q.2.launch.xg = 0)) &&
    (if L.fuse then
      (C.fused && ts.all (fun q => decide (s.partOf q.2.ctx = p))) || (ts.isEmpty && !s.clusterMatOff cl)
     else !C.fused || ts.isEmpty)

/-- R222, R287: conditions on the core itself. -/
def State.coreSuits (s : State) (L : Launch) (core : Nat) : Bool :=
  if L.pair then
    decide (core % 2 = 0) && !(s.core core).pairBad && !(s.core (core + 1)).pairBad &&
    !(decide (0 < L.a) && ((s.core core).matOff || (s.core (core + 1)).matOff))
  else !(decide (0 < L.a) && (s.core core).matOff)

/-- R355: whether a team fits on a core. -/
def State.fits (s : State) (p : Nat) (L : Launch) (core : Nat) : Bool :=
  s.clusterOpen p (clusterOfCore core) && s.clusterMode p L (clusterOfCore core) && s.coreSuits L core && s.coreRoom L core false &&
  (!L.pair || s.coreRoom L (core + 1) true)

/-- R352: whether a team, or its exchange group, could be placed with every other team gone. -/
def State.everFits (s : State) (p : Nat) (L : Launch) : Bool :=
  let bare : State := { s with teams := [] }
  let own (cl : Nat) : Bool := (s.part p).hasQuarter (cl / 8) && !(s.dieOf (cl / 32)).failed
  let ok (cl : Nat) : Bool := own cl && bare.clusterMode p L cl &&
    (coresOf cl).any (fun c => bare.coreSuits L c && bare.coreRoom L c false && (!L.pair || bare.coreRoom L (c + 1) true))
  (upto 4).any (fun d =>
    let n := ((upto 32).filter (fun k => ok (32 * d + k))).length
    decide (max 1 L.xg ≤ n))

/-! ### The save area (R361, R420) -/

def roundUp (n k : Nat) : Nat := (n + k - 1) / k * k

/-- R278: the sizes of the sections GANGS, TEAMREGS, TILES, BARRIERS, SCRATCH, COPIES and MONITORS. -/
def Team.sectionSizes (T : Team) : List Nat :=
  let L := T.launch
  let cores := if L.pair then 2 else 1
  [L.gangs * (2048 + L.poolBytes), 128, 8704 * L.tiles * cores,
   256 + 256 * L.bars + (if L.xg ≠ 0 ∧ T.index % max 1 L.xg = 0 then 256 else 0),
   L.scratchSpace * (if L.xg = 0 then 1 else 2), 4096 * cores, 16 * L.gw * L.gangs].map (fun n => roundUp n 128)
def Team.recordSize (T : Team) : Nat := 256 + T.sectionSizes.foldl (· + ·) 0

/-- The lowest aligned offset of the save area with room, given the stretches in use. -/
def areaFit (limit size : Nat) : Nat → List (Nat × Nat) → Option Nat
  | a, [] => if a + size ≤ limit then some a else none
  | a, (b, n) :: t => if a + size ≤ b then some a else areaFit limit size (max a (roundUp (b + n) 4096)) t

/-- R361: where a team's record would go. -/
def State.saveRoom (s : State) (t : Nat) : Option Nat :=
  let T := s.team t
  let used := s.teams.filterMap (fun p => if p.2.ctx = T.ctx then p.2.saveOff.map (fun o => (o, p.2.recordSize)) else none)
  match T.saveOff with
  | some o => some o
  | none => areaFit (s.ctx T.ctx).saveSize T.recordSize 0 (sortBy (fun a b => decide (a.1 ≤ b.1)) used)

/-- R420: a team on a lent cluster has room reserved. -/
def State.lentRoom (s : State) (t core : Nat) : Bool := (s.cluster (clusterOfCore core)).lent.isNone || (s.saveRoom t).isSome

/-- R301: a team's launch has a cluster-barrier entry, or finds one free. -/
def State.cbarRoom (s : State) (t core : Nat) : Bool :=
  let T := s.team t
  let ls := dedup ((s.clusterTeams (clusterOfCore core)).map (fun p => (p.2.ctx, p.2.serial)))
  ls.elem (T.ctx, T.serial) || decide (ls.length < 16)

/-- What a place must have beside room for the team itself. -/
def State.placeOk (s : State) (t core : Nat) : Bool := s.lentRoom t core && s.cbarRoom t core

/-! ### The order of placement (R354, R356, R357) -/

/-- R452: whether a context is runnable. -/
def State.runnable (s : State) (c : Nat) : Bool :=
  (s.ctx c).en && (s.ctx c).dying.isNone && decide (0 < (s.ctx c).level) && s.teams.any (fun p => decide (p.2.ctx = c) && (p.2.onDie || decide (p.2.state = .queued)))

/-- R362: the index and generation of a handle's entry. -/
def futKey (h : BitVec 32) : Nat := h.toNat / 2 ^ 18
def futGen (h : BitVec 32) : Nat := h.toNat % 2 ^ 18

/-- R374: the team is a child whose future is orphaned. -/
def State.orphan (s : State) (T : Team) : Bool :=
  T.child && decide (T.state ≠ .retired) && decide ((s.future (futKey T.handle)).state = .orphaned) &&
  decide ((s.future (futKey T.handle)).gen = futGen T.handle)

/-- R357, R359: whether a team waits on a die; a child whose future is orphaned waits for no place. -/
def State.waitsOn (s : State) (d : Nat) (T : Team) : Bool :=
  decide (T.state = .queued) && !s.orphan T &&
  (match T.die with
   | some e => decide (e = d)
   | none => (upto 4).any (fun q => (s.part (s.partOf T.ctx)).hasQuarter (4 * d + q)) ||
       (upto 32).any (fun k => (s.cluster (32 * d + k)).lent == some (s.partOf T.ctx)))

/-- R357: the order within a context's queue. -/
def queueBefore (a b : Nat × Team) : Bool :=
  decide (a.2.classIn < b.2.classIn) || (decide (a.2.classIn = b.2.classIn) && decide (a.2.order ≤ b.2.order))

/-- R357: the head of a context's queue on a die. -/
def State.headTeam (s : State) (d c : Nat) : Option (Nat × Team) :=
  (sortBy queueBefore (s.teams.filter (fun p => decide (p.2.ctx = c) && s.waitsOn d p.2))).head?

/-- R356: the core that the dispatcher of a die takes: fewest resident gangs, then the lowest. -/
def State.bestCore (s : State) (d p : Nat) (L : Launch) (ok : Nat → Bool) : Option Nat :=
  let cs := ((upto 128).map (fun k => 128 * d + k)).filter (fun c => ok c && s.fits p L c)
  (sortBy (fun a b => decide ((s.gangsOn a).length ≤ (s.gangsOn b).length)) cs).head?

/-- R292, R356: the clusters that an exchange group takes: the lowest-numbered idle ones that fit. -/
def State.groupClusters (s : State) (d p : Nat) (L : Launch) : List Nat :=
  (((upto 32).map (fun k => 32 * d + k)).filter (fun cl => (coresOf cl).any (fun c => s.fits p L c))).take L.xg

/-- R292, R354: the place of a team on a die, with the places of the rest of its exchange group: of all of them, or of none. -/
def State.placesFor (s : State) (d : Nat) (t : Nat) (T : Team) : Option (List (Nat × Nat)) :=
  let p := s.partOf T.ctx
  if T.launch.xg = 0 then (s.bestCore d p T.launch (s.placeOk t)).map (fun c => [(t, c)])
  else
    let ts := sortBy (fun a b : Nat × Team => decide (a.2.index ≤ b.2.index))
      ((s.groupTeams T.ctx T.serial T.groupNum).filter (fun q => decide (q.2.state ≠ .retired)))
    let cls := s.groupClusters d p T.launch
    let l := (ts.zip cls).filterMap (fun q =>
      (s.bestCore d p T.launch (fun c => decide (clusterOfCore c = q.2) && s.placeOk q.1.1 c)).map (fun c => (q.1.1, c)))
    if ts.all (fun q => decide (q.2.state = .queued)) && decide (ts.length ≤ cls.length) && decide (l.length = ts.length) then some l else none

/-- R357, R453: contexts in the dispatcher's order: least virtual joules, then the lowest number. -/
def State.contextOrder (s : State) : List Nat :=
  sortBy (fun a b => decide ((s.ctx a).vj ≤ (s.ctx b).vj)) ((s.ctxs.map (·.1)).filter s.runnable)

/-- R357: what a die's dispatcher places next: a team and its places. -/
def State.nextPlacement (s : State) (d : Nat) : Option (Nat × List (Nat × Nat)) :=
  s.contextOrder.findSome? (fun c =>
    match s.headTeam d c with
    | some (t, T) => (s.placesFor d t T).map (fun l => (t, l))
    | none => none)

/-! ### Placement (R34, R356, R225, R290) -/

/-- R170, R356: the slices of a gang. -/
def gangSlices (G : Gang) : List Nat := (upto (G.width / 4)).map (fun k => G.base + k)

/-- R356: the slice base of a gang. -/
def chooseBase (width : Nat) (others : List Gang) : Nat :=
  let n := width / 4
  let bases := (upto (32 / n)).map (fun k => k * n)
  let load (b : Nat) : Nat := (others.filter (fun G => (gangSlices G).any (fun x => decide (b ≤ x ∧ x < b + n)))).length
  ((sortBy (fun a b => decide (load a ≤ load b)) bases).head?).getD 0

/-- R34: a new gang. -/
def freshGang (L : Launch) : Gang :=
  { width := L.gw, vbnd := L.v, pcs := if L.entry = 0 then [] else (upto L.gw).map (fun l => (l, L.entry)) }

/-- R356: one gang of a team gets its core, slot, slices and pool allocation. -/
def State.placeGang (s : State) (t core g : Nat) (G : Gang) : State :=
  let T := s.team t
  let c := gangCore T.launch core g
  let gs := s.gangsOn c
  let slot := ((upto 32).find? (fun k => gs.all (fun q => q.2.slot != k))).getD 0
  let at_ := (firstFit T.launch.poolBytes 0 (poolUsed gs)).getD 0
  s.setTeam t (T.setGang g { G with core := c, slot := slot, poolAt := at_, base := chooseBase T.launch.gw (gs.map (·.2)) })

/-- R290: a cluster's mode changes: every exclusive line is written back and all L1s are invalidated. -/
def State.cleanCluster (s : State) (cl : Nat) (fused : Bool) : State :=
  let s1 := (coresOf cl).foldl (fun s c => ((s.core c).l1).foldl (fun s x => s.evictL1 c x) s) s
  s1.modCluster cl (fun C => { C with fused := fused })

/-- A team takes its place with the gangs given (R356); its waiting lanes keep their times. Banks that become scratch lose their
L1 lines (R225), and the loads of a gang that was alone on a core keep what they have read (R383). -/
def State.placeTeam (s : State) (t core : Nat) (gangs : List Gang) : State :=
  let s := s.mapTeams (fun _ T => { T with gangs := T.gangs.map (fun g =>
    if g.2.core = core ∨ g.2.core = core + 1 then (g.1, g.2.keepRead (fun _ => true)) else g) })
  let T := s.team t
  let cl := clusterOfCore core
  let s0 := if T.launch.fuse && !(s.cluster cl).fused then s.cleanCluster cl true
    else if !T.launch.fuse && (s.cluster cl).fused then s.cleanCluster cl false else s
  let s1 := s0.setTeam t { T with core := core, state := .placed, gangs := [], placed := s0.nextId, resFrom := s0.time,
                                  stopReq := none }
  let off := if (s0.cluster cl).lent.isSome then s0.saveRoom t else none
  let s1 := s1.modTeam t (fun T => { T with saveOff := off })
  let s2 := ((upto gangs.length).zip gangs).foldl (fun s q => s.placeGang t core q.1 q.2) { s1 with nextId := s0.nextId + 1 }
  let s3 := ((s2.team t).cores).foldl (fun s c => s.modMeter c T.ctx (fun M => M)) s2
  if T.launch.banks = 0 then s3 else (if T.launch.pair then [core, core + 1] else [core]).foldl (fun s c => s.takeBanks c) s3

/-- R67: the instruction caches of a core are invalidated before the first team of a launch comes to it. DESIGN CHOICE: also for a future
child, a restored team, and a team of the launch that finds no mate on the core (notes/assumptions/66.md). -/
def State.freshCode (s : State) (t core : Nat) : State :=
  let T := s.team t
  if (s.teamsOn core).any (fun p => decide (p.1 ≠ t) && decide (p.2.ctx = T.ctx) && decide (p.2.serial = T.serial) && !p.2.child && !T.child) then s
  else s.modCore core (fun C => { C with code := some s.mem, fetched := [] })

/-- R337: the residual tile of a core is cleared when its first team comes. -/
def State.freshTile (s : State) (core : Nat) : State :=
  if (s.core core).resid.isEmpty || !(s.teamsOn core).isEmpty then s else s.modCore core (fun C => { C with resid := [] })

/-- R34, R354: the first placement of a team; a future child becomes Running (R374). -/
def State.firstPlacement (s : State) (t core : Nat) : State :=
  let T := s.team t
  let s1 := s.setTeam t { T with f := [], tiles := [], bars := [], scratch := [], shadow := [], poison := [], shPoison := [] }
  let cs := if T.launch.pair then [core, core + 1] else [core]
  let s1 := cs.foldl (fun (s : State) c => (s.freshTile c).freshCode t c) s1
  let s2 := s1.placeTeam t core ((upto T.launch.gangs).map (fun _ => freshGang T.launch))
  if T.child then s2.modFuture (T.handle.toNat / 2 ^ 18) (fun E => if E.state = .queued then { E with state := .running } else E) else s2

end Sys2Proof.Machine
end

