-- ==== Sys2Proof/Machine/Futures.lean ====
section
/-! DEFINITION. Future instructions and the future tables (16 R362 to R376). -/

namespace Sys2Proof.Machine

/-! ### Entries -/

/-- R362: the entry that a handle names. -/
def handleOf (key gen : Nat) : BitVec 32 := BitVec.ofNat 32 (key * 2 ^ 18 + gen)

/-- R362: whether a handle names a live future of a context. -/
def State.futLive (s : State) (ctx : Nat) (h : BitVec 32) : Bool :=
  let E := s.future (futKey h)
  decide (E.state ≠ .free) && decide (E.gen = futGen h) && decide (E.ctx = ctx)

/-- R362, R367: FreeEntry. -/
def State.freeFuture (s : State) (key : Nat) : State :=
  s.modFuture key (fun E => { gen := if E.gen = 2 ^ 18 - 1 then 1 else E.gen + 1 })

/-- What a lane awaits in `fut.get`. -/
def onFuture (h : BitVec 32) : WaitOn → Bool
  | .future x _ _ => decide (x = h)
  | _ => false

/-- R370: the results of a get. -/
def getWrites (d n : Nat) (res : List W32) : List RegWrite := (upto n).map (fun i => .s (d + i) ((res.getD i 0).setWidth 64))

/-- R370: gets of a completed future end in a gang. -/
def Gang.getsDone (G : Gang) (h : BitVec 32) (res : List W32) : Gang :=
  let ls := G.waiters (onFuture h)
  let G1 := G.eachLane ls (fun G l => match G.laneState l with
    | .waiting (.future _ d n) => G.applyWrites (getWrites d n res)
    | _ => G)
  let G2 := if ls.isEmpty then G1 else G1.leaveWait ls
  (G2.pend.filter (fun p => !p.done)).foldl (fun G p => match p.kind with
    | .future x d n =>
      if x = h then ({ G with pend := G.pend.map (fun q => if q.id = p.id then { q with writes := getWrites d n res } else q) } : Gang).complete p.id else G
    | _ => G) G2

/-- R366: TADDR of a FUTURE trap. -/
def futAddr (reason : Nat) (v : W64) : W64 := (BitVec.ofNat 64 reason <<< 60) ||| (v &&& 0x0FFFFFFFFFFFFFFF)

/-- R370: gets of a future that died before it completed: the Waiting lanes are at their word again, which traps there;
a get in its window traps late (R258). -/
def Gang.getsLost (G : Gang) (h : BitVec 32) : Gang :=
  let ls := G.waiters (onFuture h)
  let G1 := (G.retryWait (onFuture h))
  { G1 with
    lost := ls.foldl (fun t l => tset 0 t l h) G1.lost
    pend := G1.pend.map (fun p => match p.kind with
      | .future x _ _ => if x = h ∧ !p.done then { p with kind := .lost, ecc := some (p.lanes, futAddr 2 (h.setWidth 64)) } else p
      | _ => p) }

/-- Whether a saved team awaits a future (R240). -/
def Team.awaits (T : Team) (test : WaitOn → Bool) : Bool :=
  decide (T.state = .saved) && T.gangs.any (fun g => !(g.2.waiters test).isEmpty)

/-- Every gang that may await a future; saved teams that do are queued (R240). -/
def State.tellGetters (s : State) (h : BitVec 32) (f : Gang → Gang) : State :=
  let wake := (s.teams.filter (fun p => p.2.awaits (onFuture h))).map (·.1)
  let s1 := s.mapTeams (fun _ T => if T.onDie then T.mapGangs (fun _ G => f G) else T)
  wake.foldl State.requeue s1

/-- R372, R374: a Running future completes. -/
def State.completeFuture (s : State) (h : BitVec 32) (res : List W32) : State :=
  if (s.future (futKey h)).state = .running then
    (s.modFuture (futKey h) (fun E => { E with state := .completed, results := res })).tellGetters h (fun G => G.getsDone h res)
  else s

/-- R374: every live lane of a gang is Waiting. -/
def Gang.allWaiting (G : Gang) : Bool := !G.finished && G.liveLanes.all (fun l => (G.laneState l).isWaiting)

/-- R374: a gang of an orphaned child that is Waiting or energy-stopped stops at once. -/
def Gang.stopsAtOnce (G : Gang) : Bool :=
  (decide (G.stop = .none) && G.allWaiting) || (match G.stop with
    | .energy _ _ => true
    | _ => false)
def Team.stopAtOnce (T : Team) : Team := T.mapGangs (fun _ G => if G.stopsAtOnce then { G with stop := .saved } else G)

/-- R359, R374: a child that is orphaned is not saved any more: gangs that have stopped for a save go on to their reclamation points. One
that a trap to the host has stopped stays so. -/
def Team.leaveStop (T : Team) : Team :=
  match T.stopReq with
  | none => T
  | some r => ({ T with stopReq := none } : Team).mapGangs (fun g G => if G.stop = .saved ∧ r.gang ≠ some g then { G with stop := .none } else G)

/-- R367: DropRef. A child that was never placed is retired at once (R374). -/
def State.dropRef (s : State) (h : BitVec 32) : State :=
  let key := futKey h
  let E := s.future key
  if 1 < E.count then s.modFuture key (fun E => { E with count := E.count - 1 })
  else match E.state with
    | .completed => s.freeFuture key
    | .queued => ((s.modTeam E.child (fun T => { T with state := .retired })).freeFuture key).tellGetters h (fun G => G.getsLost h)
    | .free => s
    | _ =>
      let s1 := s.modFuture key (fun E => { E with count := 0, state := .orphaned })
      (if (s.team E.child).state = .placed then s1.modTeam E.child (fun T => T.leaveStop.stopAtOnce) else s1).tellGetters h (fun G => G.getsLost h)

/-- R360, R367: a team's future registers are dropped in increasing number. -/
def State.dropRegs (s : State) (t : Nat) : State :=
  let fs := (s.team t).f
  fs.foldl (fun s q => if q.2 = 0 then s else s.dropRef q.2) (s.modTeam t (fun T => { T with f := [] }))

/-! ### Registers -/

def Team.readF (T : Team) (r : Nat) : BitVec 32 := tget 0 T.f r
def State.setF (s : State) (r : Nat) (h : BitVec 32) : State := s.modTeam s.cur.team (fun T => { T with f := tset 0 T.f r h })

/-- R366: a FUTURE trap in every lane of Active. -/
def State.futTrap (s : State) (i : Instr) (act : List Nat) (reason : Nat) (v : W64) : Out :=
  .next (s.trapLanes i act 14 (futAddr reason v))

/-- R365: a future instruction executes once, and only when Active is not empty. -/
def futWord (i : Instr) (g : Grd) (s : State) (body : State → List Nat → Out) : Out :=
  runWord i s (fun s => if (s.active g).isEmpty then s.next else body s (s.active g))

/-- R366: reasons 1 and 2 for a source register. -/
def State.badSource (s : State) (h : BitVec 32) : Option (Nat × W64) :=
  if h = 0 then some (1, 0)
  else if !s.futLive s.curTeam.ctx h then some (2, h.setWidth 64)
  else none

/-! ### Spawning (R363, R368) -/

/-- R363: entries of a die that are not Free, and those of a partition. -/
def State.futUsed (s : State) (d : Nat) : List (Nat × FutEntry) :=
  s.futures.filter (fun p => decide (p.1 / 4096 = d) && decide (p.2.state ≠ .free))
def State.futHeld (s : State) (d p : Nat) : Nat := ((s.futUsed d).filter (fun e => decide (s.partOf e.2.ctx = p))).length

/-- R363: whether a partition may take an entry of a die. -/
def State.futMay (s : State) (d p : Nat) : Bool :=
  let held := s.futHeld d p
  let free := 4096 - (s.futUsed d).length
  let others := ((upto 16).filter (fun q => decide (q ≠ p) && (s.part q).enabled)).foldl (fun n q => n + (64 - s.futHeld d q)) 0
  decide (0 < free) && decide (held < (s.part p).futCap) && (decide (held < 64) || decide (others < free))

/-- The lowest number at or above `i` that a rising list does not hold. -/
def firstGap : Nat → List Nat → Nat
  | i, [] => i
  | i, x :: t => if x = i then firstGap (i + 1) t else i

/-- R368: the fields of a spawn descriptor; none where it is malformed. -/
def spawnDesc (bs : List Byte) : Option (Launch × W64) :=
  let n (o k : Nat) : Nat := numOfBytes ((bs.drop o).take k)
  let L : Launch := { entry := BitVec.ofNat 64 (n 0 8), cAddr := BitVec.ofNat 64 (n 8 8), cBytes := n 16 4, scratch := n 20 4, v := n 24 2,
                      gw := n 26 1, gangs := n 27 1, a := n 28 1, tiles := n 29 1, bars := n 30 1, pair := decide (n 31 1 % 2 = 1),
                      fuse := decide (n 31 1 / 2 % 2 = 1) }
  if (launchBad L).isSome ∨ 3 < n 31 1 ∨ n 32 32 ≠ 0 then none else some (L, L.cAddr)

/-- R368: the lines of an image: the first byte of each. -/
def imageLines (a : W64) (n : Nat) : List (Nat × Int) :=
  let off := a.toNat % 128
  (upto ((off + n + 127) / 128)).map (fun k => (k, if k = 0 then (a.toNat : Int) else ((a.toNat - off + 128 * k : Nat) : Int)))

/-- R362, R363, R368: the entry is taken, and the child is queued on the spawning die. -/
def State.enterChild (s : State) (r : Nat) (L : Launch) (img : W64) (args : List W64) : State :=
  let d := dieOfCore s.curGang.core
  let ctx := s.curTeam.ctx
  let key := d * 4096 + firstGap 0 ((s.futUsed d).map (fun p => p.1 % 4096))
  let h := handleOf key (s.future key).gen
  let t := s.nextId
  let child : Team := { ctx := ctx, ref := 0x8000000000000000 ||| BitVec.ofNat 64 (ctx * 2 ^ 32) ||| h.setWidth 64, launch := L, die := some d,
                        serial := 2 ^ 32 + t, child := true, handle := h, args := args, imgAddr := img, order := t, classIn := 2 }
  let s1 := (s.modFuture key (fun E => { E with state := .queued, ctx := ctx, count := 1, results := [], child := t })).setF r h
  { s1.setTeam t child with nextId := t + 1 }

/-- R368: the first line of an image that can not be read: its place in the list. -/
def State.badImage (s : State) (locs : List (Nat × Loc)) : State × Option Nat :=
  locs.foldl (fun (r : State × Option Nat) q =>
    match r.2, q.2 with
    | none, .mem pa =>
      if r.1.isLocal pa then (r.1, if poisoned r.1.poison (lineOf pa * 128) 128 then some q.1 else none)
      else match r.1.remoteRead r.1.curGang.core r.1.curTeam.ctx pa 128 true with
        | (s1, _, bad) => (s1, if bad then some q.1 else none)
    | _, _ => r) (s, none)

/-- R368: `fut.spawn`. -/
def execFutSpawn (g : Grd) (d a b n : BitVec 8) (s : State) : Out :=
  let i : Instr := .futSpawn g d a b n
  futWord i g s (fun s act =>
    let addr := s.curGang.readS a.toNat
    (s.checkLanes s.cur.team s.cur.gang .glob 64 .read [(act.headD 0, (addr.toNat : Int))]).settle i .read (some act) (fun s locs =>
      match locs with
      | [] => s.hold
      | (_, loc) :: _ =>
        match s.loadLoc s.cur.team s.cur.gang loc 64 true with
        | (s1, _, true) => .next (s1.trapLanes i act 12 addr)
        | (s1, bs, false) =>
          match spawnDesc bs with
          | none => s1.futTrap i act 4 addr
          | some (L, img) =>
            if !s1.everFits (s1.partOf s1.curTeam.ctx) L then s1.futTrap i act 4 addr
            else if s1.curTeam.readF d.toNat ≠ 0 then s1.futTrap i act 6 0
            else
              let lines := if L.cBytes = 0 then [] else imageLines img L.cBytes
              (s1.checkLanes s.cur.team s.cur.gang .glob 1 .read lines).settle i .read (some act) (fun s locs =>
                match s.badImage locs with
                | (s, some k) => .next (s.trapLanes i act 12 (BitVec.ofInt 64 ((tfind lines k).getD 0)))
                | (s, none) =>
                  if s.storesPending s.cur.team s.cur.gang .device then s.hold
                  else if !s.futMay (dieOfCore s.curGang.core) (s.partOf s.curTeam.ctx) then s.hold
                  else (s.enterChild d.toNat L img ((upto n.toNat).map (fun k => s.curGang.readS (b.toNat + k)))).next)))

/-! ### References (R369, R373) -/

def execFutDup (g : Grd) (d a : BitVec 8) (s : State) : Out :=
  let i : Instr := .futDup g d a
  futWord i g s (fun s act =>
    let h := s.curTeam.readF a.toNat
    match s.badSource h with
    | some (r, v) => s.futTrap i act r v
    | none =>
      if 65535 ≤ (s.future (futKey h)).count then s.futTrap i act 3 (h.setWidth 64)
      else if s.curTeam.readF d.toNat ≠ 0 then s.futTrap i act 6 0
      else ((s.modFuture (futKey h) (fun E => { E with count := E.count + 1 })).setF d.toNat h).next)

def execFutDrop (g : Grd) (d : BitVec 8) (s : State) : Out :=
  let i : Instr := .futDrop g d
  futWord i g s (fun s act =>
    let h := s.curTeam.readF d.toNat
    match s.badSource h with
    | some (r, v) => s.futTrap i act r v
    | none => ((s.setF d.toNat 0).dropRef h).next)

def execFutSelf (g : Grd) (d : BitVec 8) (s : State) : Out :=
  futWord (.futSelf g d) g s (fun s _ => (s.setCur (s.curGang.writeS d.toNat (s.curTeam.handle.setWidth 64))).next)

/-- R373: `fut.check` is only a reclamation point. -/
def execFutCheck (g : Grd) (s : State) : Out := futWord (.futCheck g) g s (fun s _ => s.next)

/-! ### Results (R370, R372) -/

/-- R366: reasons 1, 2 and 9 for a get. -/
def State.badGet (s : State) (h : BitVec 32) : Option (Nat × W64) :=
  match s.badSource h with
  | some q => some q
  | none =>
    if (s.future (futKey h)).state = .orphaned then some (2, h.setWidth 64)
    else if h = s.curTeam.handle then some (9, h.setWidth 64) else none

/-- R370: `fut.get`. Accesses in its window wait for its result (notes/assumptions/80.md). -/
def execFutGet (g : Grd) (la : BitVec 4) (d a n : BitVec 8) (s : State) : Out :=
  let i : Instr := .futGet g la d a n
  futWord i g s (fun s act =>
    let G := s.curGang
    match act.filter (fun l => decide (tget 0 G.lost l ≠ 0)) with
    | l :: _ =>
      (s.setCur { G with lost := G.lost.filter (fun q => !act.elem q.1) }).futTrap i act 2 ((tget 0 G.lost l).setWidth 64)
    | [] =>
      let h := s.curTeam.readF a.toNat
      match s.badGet h with
      | some (r, v) => s.futTrap i act r v
      | none =>
        let E := s.future (futKey h)
        let regs : List Reg := (upto n.toNat).map (fun k => .s (d.toNat + k))
        if E.state = .completed then .next (s.results la.toNat regs (getWrites d.toNat n.toNat E.results) [])
        else if la = 0 then .next (s.parkWith false act (fun _ => .future h d.toNat n.toNat))
        else .next (s.openWindow la.toNat regs (.future h d.toNat n.toNat) [] [] none))

def execFutPoll (g : Grd) (d a : BitVec 8) (s : State) : Out :=
  let i : Instr := .futPoll g d a
  futWord i g s (fun s act =>
    let h := s.curTeam.readF a.toNat
    match s.badSource h with
    | some (r, v) => s.futTrap i act r v
    | none =>
      let b := decide ((s.future (futKey h)).state = .completed)
      (s.setCur (s.curGang.eachLane act (fun G l => G.writeK l d.toNat b))).next)

/-- R372: `fut.ret`: the results are kept, the accumulates are flushed, and every lane of the gang exits; the team's
retirement completes the future once the rest of R372 holds. -/
def execFutRet (g : Grd) (a n : BitVec 8) (s : State) : Out :=
  let i : Instr := .futRet g a n
  futWord i g s (fun s act =>
    let T := s.curTeam
    if !T.child then s.futTrap i act 8 0
    else if T.gangs.any (fun q => decide (q.1 ≠ s.cur.gang) && !q.2.finished) then s.hold
    else
      let res := (upto 8).map (fun k => if k < n.toNat then (s.curGang.readS (a.toNat + k)).setWidth 32 else 0)
      let s1 := s.finish true
      let s2 := s1.modTeam s.cur.team (fun T => { T with ret := some res })
      .next ((s2.setCur (s2.curGang.setLanes s2.curGang.allLanes .exited)).afterExit s.cur.team s.cur.gang))

/-! ### Parking (R371) -/

/-- R371, R378: the token word at a place, whose line is exclusive as for an atomic (R244). -/
def State.peekToken (s : State) (l : Loc) : State × BitVec 32 × Bool :=
  match l with
  | .mem pa =>
    if s.isLocal pa then
      let s1 := s.sliceOwn s.curGang.core s.curTeam.ctx (lineOf pa)
      (s1, BitVec.ofNat 32 (readNum s1.mem pa 4), poisoned s1.poison pa 4)
    else match s.remoteAtomic s.curGang.core s.curTeam.ctx pa 4 with
      | (s1, x, bad) => (s1, BitVec.ofNat 32 x, bad)
  | _ => (s, 0, false)

/-- R371: the exchange itself; at another package it was made there with the reading (R539). -/
def State.putToken (s : State) (l : Loc) (x : BitVec 32) : State :=
  match l with
  | .mem pa => if s.isLocal pa then (s.atomicAt s.curGang.core s.curTeam.ctx pa 4 (fun _ => x.toNat)).1 else s
  | _ => s

/-- R371: the address check and the waits that `fut.park` and `fut.unpark` share. The body has the state before the exchange, for
a trap, and the one in which the line is held. -/
def tokenWord (i : Instr) (g : Grd) (a : BitVec 8) (rel : Bool) (s : State) (body : State → State → List Nat → Loc → BitVec 32 → Out) : Out :=
  futWord i g s (fun s act =>
    let addr := s.curGang.readS a.toNat
    (s.checkLanes s.cur.team s.cur.gang .glob 4 .readWrite [(act.headD 0, (addr.toNat : Int))]).settle i .readWrite (some act) (fun s locs =>
      match locs with
      | [] => s.hold
      | (_, loc) :: _ =>
        if (rel && s.storesPending s.cur.team s.cur.gang .device) || queueBusy s || s.lineHeld s.curGang.core loc then s.hold
        else match s.peekToken loc with
          | (_, _, true) => .next (s.trapLanes i act 12 addr)
          | (s1, x, false) => body s s1 act loc x))

def execFutPark (g : Grd) (a b : BitVec 8) (s : State) : Out :=
  let i : Instr := .futPark g a b
  tokenWord i g a true s (fun s s1 act loc x =>
    let h := s.curTeam.readF b.toNat
    match s.badSource h with
    | some (r, v) => s.futTrap i act r v
    | none =>
      if x ≠ 0 then s.futTrap i act 7 (s.curGang.readS a.toNat)
      else ((s1.putToken loc h).setF b.toNat 0).next)

def execFutUnpark (g : Grd) (d a : BitVec 8) (s : State) : Out :=
  let i : Instr := .futUnpark g d a
  tokenWord i g a false s (fun s s1 act loc x =>
    if x ≠ 0 ∧ !s.futLive s.curTeam.ctx x then s.futTrap i act 5 (s.curGang.readS a.toNat)
    else if s.curTeam.readF d.toNat ≠ 0 then s.futTrap i act 6 0
    else if x = 0 then s1.next
    else ((s1.putToken loc 0).setF d.toNat x).next)

end Sys2Proof.Machine
end

