-- ==== Sys2Proof/Machine/Energy.lean ====
section
/-! DEFINITION. Energy: the energy instructions (21 R458 to R463), buckets and grants (R441, R449 to R452), the sampling
tick (R445 to R448, R516), meter records (R465, R466), operating points (R454 to R457, R461) and rack caps (R464; 27 R548,
R549). -/

namespace Sys2Proof.Machine

/-! ### Allowances (R450, R452) -/

/-- R450: CAPMAX and REFILLMAX. -/
def Part.capMax (P : Part) : Nat := (P.enAllow.extractLsb' 32 32).toNat
def Part.refillMax (P : Part) : Nat := (P.enAllow.extractLsb' 0 32).toNat

/-- R450: the effective capacity CAPE. -/
def State.cape (s : State) (c : Nat) : Nat := min (s.ctx c).capNow (s.part (s.partOf c)).capMax

/-- R450: ΣR over the partition's enabled contexts. -/
def State.refillSum (s : State) (p : Nat) : Nat :=
  (s.ctxs.filter (fun q => q.2.en && decide (s.partOf q.1 = p))).foldl (fun n q => n + q.2.refillNow) 0

/-- R450: r1. -/
def State.refillOne (s : State) (c : Nat) : Nat :=
  let p := s.partOf c
  let sum := s.refillSum p
  if sum ≤ (s.part p).refillMax then (s.ctx c).refillNow else (s.ctx c).refillNow * (s.part p).refillMax / sum

/-- R450: the effective refill RFE. -/
def State.rfe (s : State) (c : Nat) : Nat := s.refillOne c * s.rscale / 65536

/-- R460: a mark in the open record; one beyond the sixteenth is counted as dropped. -/
def Context.addMark (C : Context) (m : Mark) : Context :=
  if C.marks.length < 16 then { C with marks := C.marks ++ [m] } else { C with dropped := min 65535 (C.dropped + 1) }

/-! ### Operating points (R454 to R457) -/

/-- R456. -/
def Part.ceil (P : Part) : Nat := max P.pceil P.capceil

/-- R455: the point whose voltage is in force in a partition's quarters. -/
def Part.voltPoint (P : Part) : Nat :=
  match P.busy with
  | some (_, nxt) => min P.cur nxt
  | none => P.cur

/-- R446, R516: the point whose voltage is in force in a quarter; a quarter that no partition owns is at P0. -/
def State.voltPoint (s : State) (q : Nat) : Nat :=
  match s.ownerOf q with
  | some p => (s.part p).voltPoint
  | none => 0

/-- R516: the periods that every quarter has spent at the voltage in force are counted up to now. -/
def State.countVolts (s : State) : State :=
  (upto 16).foldl (fun (r : State) q => r.modQuarter q (fun Q =>
    { Q with volts := tmod 0 Q.volts (s.voltPoint q) (· + (s.time - Q.voltAt)), voltAt := s.time })) s

/-- R455: a change of point begins. -/
def Part.startChange (P : Part) (now nxt : Nat) : Part := { P with busy := some (now, nxt) }

/-- R456: a ceiling slower than the target starts a change, after the one in progress. -/
def Part.applyCeil (P : Part) (now : Nat) : Part :=
  if P.target < P.ceil then
    if P.busy.isSome then { P with target := P.ceil, pendT := true }
    else if P.ceil = P.cur then { P with target := P.ceil }
    else ({ P with target := P.ceil } : Part).startChange now P.ceil
  else P

/-- R461: the state and the status after a request for a point. -/
def Part.request (P : Part) (now : Nat) (right : Bool) (x : W64) : Part × Nat :=
  if !right then (P, 4)
  else if 7 < x.toNat then (P, 8)
  else
    let p := max x.toNat P.ceil
    let st := if p ≠ x.toNat then 1 else 0
    if P.busy.isSome then ({ P with target := p, pendT := true }, st + 2)
    else if p ≠ P.cur then (({ P with target := p } : Part).startChange now p, st)
    else (P, st)

/-- R455, R457: a change completes 10 µs after it began; a waiting target follows. -/
def Part.endChange (P : Part) (now : Nat) : Part :=
  match P.busy with
  | none => P
  | some (_, nxt) =>
    let P1 := { P with cur := nxt, busy := none, seq := P.seq + 1,
                                      hist := P.hist ++ [(now / Config.tickPeriods, nxt)] }
    let P2 := { P1 with pendT := false }
    if P1.pendT && decide (P1.target ≠ nxt) then P2.startChange now P1.target else P2

/-- R455. -/
def changePeriods : Nat := 10 * Config.usPeriods

/-- R462: the lanes of a gang that are Held in `vf.stat` write VFSTAT and go on. -/
def Gang.endPoints (G : Gang) (x : W64) : Gang :=
  let ds := G.allLanes.filterMap (fun l => match G.laneState l with
    | .point d => some (l, d)
    | _ => none)
  if ds.isEmpty then G else (ds.foldl (fun (G : Gang) q => G.writeS q.2 x) G).leaveWait (ds.map (·.1))

/-- R462: the lanes that wait for a partition's point go on when no change is in progress or waiting. -/
def State.endPoints (s : State) (p : Nat) : State :=
  if (s.part p).busy.isSome || (s.part p).pendT then s
  else s.mapTeams (fun _ T => if s.partOf T.ctx = p then T.mapGangs (fun _ G => G.endPoints (vfstatWord s p)) else T)

def execPointChangeComplete (part : Nat) (s : State) : Out :=
  match (s.part part).busy with
  | some (start, _) =>
    if start + changePeriods ≤ s.time then .next ((s.countVolts.modPart part (fun P => P.endChange s.time)).endPoints part) else .next s
  | none => .next s

/-! ### Energy instructions -/

/-- R458: an energy instruction executes once, and only when Active is not empty. -/
def energyWord (i : Instr) (g : Grd) (s : State) (body : State → Out) : Out :=
  runWord i s (fun s => if (s.active g).isEmpty then s.next else body s)

/-- R459: the value of `en.read`, after the post that sel 0 asks for. -/
def State.enValue (s : State) (c sel : Nat) : W64 :=
  let C := s.ctx c
  match sel with
  | 0 => BitVec.ofInt 64 C.consumed
  | 1 => BitVec.ofInt 64 C.level
  | 2 => BitVec.ofNat 64 (s.cape c)
  | 3 => BitVec.ofNat 64 (s.rfe c)
  | _ => BitVec.ofNat 64 (min C.vj (2 ^ 63 - 1))

/-- R459: `en.read`. -/
def execEnRead (g : Grd) (d sel : BitVec 8) (s : State) : Out :=
  energyWord (.enRead g d sel) g s (fun s =>
    let c := s.curTeam.ctx
    let s1 := if sel = 0 then s.post s.curGang.core c else s
    (s1.setCur (s1.curGang.writeS d.toNat (s1.enValue c sel.toNat))).next)

/-- R460: `en.mark`. -/
def execEnMark (g : Grd) (a : BitVec 8) (s : State) : Out :=
  energyWord (.enMark g a) g s (fun s =>
    let c := s.curTeam.ctx
    let s1 := s.post s.curGang.core c
    (s1.modCtx c (fun C => C.addMark ⟨s1.time, C.consumed, s1.curGang.readS a.toNat⟩)).next)

/-- R461: `vf.req`. -/
def execVfReq (g : Grd) (d a : BitVec 8) (s : State) : Out :=
  energyWord (.vfReq g d a) g s (fun s =>
    let c := s.curTeam.ctx
    let p := s.partOf c
    let r := (s.part p).request s.time (s.ctx c).vfNow (s.curGang.readS a.toNat)
    let s1 := s.countVolts.modPart p (fun _ => r.1)
    (s1.setCur (s1.curGang.writeS d.toNat (BitVec.ofNat 64 r.2))).next)

/-- R462: `vf.stat`: it issues, and its lanes are Held until the point stands. -/
def execVfStat (g : Grd) (d : BitVec 8) (s : State) : Out :=
  energyWord (.vfStat g d) g s (fun s =>
    let p := s.partOf s.curTeam.ctx
    if (s.part p).busy.isSome || (s.part p).pendT then
      let act := s.active g
      let s1 := match s.curGang.prog with
        | some (.rep _ _ _ _ _ _) => s
        | _ => s.finishAt false (fun l => if act.elem l then s.cur.pc else s.cur.pc + 8)
      .next (s1.setCur (s1.curGang.setLanes act (.point d.toNat)))
    else (s.setCur (s.curGang.writeS d.toNat (vfstatWord s p))).next)

/-! ### Grants (R441) -/

/-- R441: the answer of the bucket, and LEVEL after. -/
def bucketAnswer (level : Int) : Nat × Int :=
  if 64 ≤ level then (64, level - 64) else if 1 ≤ level then (level.toNat, 0) else (0, level)

/-- R441: the bucket serves the request of a core's meter. -/
def execBucketServeRequest (core ctx : Nat) (s : State) : Out :=
  let M := s.meter core ctx
  if M.req && M.answer.isNone then
    let r := bucketAnswer (s.ctx ctx).level
    let s1 := (s.modCtx ctx (fun C => { C with level := r.2 })).modMeter core ctx (fun M => { M with answer := some r.1 })
    .next (if r.1 = 0 then { s1 with capRefused := true } else s1)
  else .next s

/-- R442: an energy stop of the context's gangs on a core ends when REM covers the charge. -/
def State.endEnergyStops (s : State) (core ctx : Nat) : State :=
  let rem := (s.meter core ctx).rem
  s.mapTeams (fun _ T => if T.ctx = ctx then T.mapGangs (fun _ G =>
    match G.stop with
    | .energy need _ => if G.core = core ∧ (need : Int) ≤ rem then { G with stop := .none } else G
    | _ => G) else T)

/-- R441: the answer reaches the meter. -/
def execGrantAnswerArrival (core ctx : Nat) (s : State) : Out :=
  match (s.meter core ctx).answer with
  | none => .next s
  | some 0 => .next (s.modMeter core ctx (fun M => { M with req := false, refused := true, answer := none }))
  | some n =>
    let s1 := s.modMeter core ctx (fun M => { M with rem := M.rem + 8000 * n, req := false, answer := none })
    .next ((s1.endEnergyStops core ctx).wantGrant core ctx)

/-! ### The sampling tick (R445 to R448) -/

def domains : List Nat := upto 33

/-- R446: the quarters in a domain's scope. -/
def scopeOf (dom : Nat) : List Nat :=
  if dom < 16 then [dom]
  else if dom < 20 then (upto 4).map (fun k => 4 * (dom - 16) + k)
  else if dom < 32 then (upto 4).map (fun k => 4 * ((dom - 20) / 3) + k)
  else upto 16

/-- R446: the partition whose standing account takes the remainder. -/
def State.domOwner (s : State) (dom : Nat) : Option Nat := if dom < 16 then s.ownerOf dom else none

def residKey (quarter ctx : Nat) : Nat := quarter * 256 + ctx

/-- R446: H(c). -/
def State.residency (s : State) (dom c : Nat) : Nat := (scopeOf dom).foldl (fun n q => n + tget 0 s.resid (residKey q c)) 0

/-- R446: the slots of a team's gangs count up to now. -/
def State.countSlots (s : State) (t : Nat) : State :=
  let T := s.team t
  let n := s.time - T.resFrom
  let s1 := T.gangs.foldl (fun (s : State) q =>
    { s with resid := tmod 0 s.resid (residKey (quarterOfCore q.2.core) T.ctx) (· + n) }) s
  s1.setTeam t { T with resFrom := s.time }

/-- R446, R516: the static estimate of a domain for a tick. -/
def State.staticOf (s : State) (dom tick : Nat) : Nat :=
  if dom < 16 then (upto 8).foldl (fun n k => n + tget 0 (s.quarter dom).volts k * Config.staticRate dom k tick) 0 / Config.tickPeriods
  else Config.staticRate dom 0 tick

/-- R448 step 2: a static or correction charge of a context. -/
def Context.chargeTick (C : Context) (stat corr : Int) : Context :=
  { (C.addVJ stat).addVJ corr with
    consumed := C.consumed + stat + corr, level := C.level - stat - corr, stat := C.stat + stat, corr := C.corr + corr }

/-- R446: a charge to a standing account. -/
def State.chargeStanding (s : State) (dom : Nat) (stat corr : Int) : State :=
  match s.domOwner dom with
  | some p => s.modPart p (fun P =>
      { P with standing := P.standing + stat + corr, standStat := P.standStat + stat, standCorr := P.standCorr + corr })
  | none => { s with pkgStanding := s.pkgStanding + stat + corr }

/-- R446: static energy by residency. -/
def State.staticTick (s : State) (dom S : Nat) : State :=
  let hcap := (scopeOf dom).length * 1024 * Config.tickPeriods
  let cs := s.ctxs.map (·.1)
  let part (c : Nat) : Nat := S * s.residency dom c / hcap
  let s1 := cs.foldl (fun (r : State) c => r.modCtx c (fun C => C.chargeTick (part c) 0)) s
  s1.chargeStanding dom ((S : Int) - (cs.foldl (fun n c => n + part c) 0 : Nat)) 0

/-- The listed context with the greatest weight, the lowest on a tie. -/
def heaviest (ws : List (Nat × Nat)) : Option Nat := ((sortBy (fun a b => decide (b.2 ≤ a.2)) ws).head?).map (·.1)

/-- R447: Correct(d). What falls to the work for other packages goes to the package's standing account (R534). -/
def State.correctTick (s : State) (dom S tick : Nat) : State :=
  let cs := s.ctxs.map (·.1)
  let ds := cs.map (fun c => (c, tget 0 s.dyn (dynKey dom c)))
  let hs := cs.map (fun c => (c, s.residency dom c))
  let far := tget 0 s.dyn (dynKey dom remoteCtx)
  let sumD := sumBy (·.2) ds + far
  let R : Int := (Config.measured dom tick : Int) - S - (sumD / 8000 : Nat)
  let ws := if 0 < sumD then ds ++ [(remoteCtx, far)] else hs
  let tot := sumBy (·.2) ws
  match heaviest ws with
  | none => s.chargeStanding dom 0 R
  | some top =>
    if tot = 0 then s.chargeStanding dom 0 R
    else
      let part (w : Nat) : Int := R * w / tot
      let rest := R - (ws.map (fun q => part q.2)).foldl (· + ·) 0
      ws.foldl (fun (r : State) q =>
        let share := part q.2 + (if q.1 = top then rest else 0)
        if q.2 = 0 then r
        else if q.1 = remoteCtx then { r with pkgStanding := r.pkgStanding + share }
        else r.modCtx q.1 (fun C => C.chargeTick 0 share)) s

/-- R448 step 1. -/
def State.postAll (s : State) : State :=
  s.cores.foldl (fun s c => c.2.meters.foldl (fun s m => s.post c.1 m.1) s) s

/-- R449: descriptor changes take effect. -/
def Context.takeChanges (C : Context) : Context := { C with capNow := C.cap, refillNow := C.refill, shareNow := C.share, vfNow := C.vfRight }

/-- R448 step 3. -/
def State.refillAll (s : State) : State :=
  (s.ctxs.map (·.1)).foldl (fun (r : State) c =>
    r.modCtx c (fun C => if C.en then { C with level := min (s.cape c : Int) (C.level + s.rfe c) } else C)) s

/-- R448 step 5. -/
def State.clearRefusals (s : State) : State :=
  s.cores.foldl (fun s c => c.2.meters.foldl (fun (s : State) m =>
    if m.2.refused && decide (0 < (s.ctx m.1).level) then
      (s.post c.1 m.1).modMeter c.1 m.1 (fun M => { M with refused := false, req := true })
    else s) s) s

/-! ### Meter records (R465, R466) -/

def bytesOfInt (n : Nat) (x : Int) : List Byte := bytesOfNum n (x % (2 ^ (8 * n) : Nat)).toNat

/-- R465: bytes 0 to 559 of a record; the rest is filled when Agtur writes it. -/
def recordHead (s : State) (p who : Nat) (C : Context) (level : Int) (seq last : Nat) : List Byte :=
  let P := s.part p
  ([0x56, 0x4D, 0x52, 0x31] : List Byte) ++ bytesOfNum 2 1 ++ bytesOfNum 2 who ++ bytesOfNum 8 P.tenant.toNat ++
  bytesOfNum 1 p ++ bytesOfNum 1 C.marks.length ++ bytesOfNum 2 C.dropped ++ bytesOfNum 4 s.wtabVer ++ bytesOfNum 8 seq ++
  bytesOfNum 8 P.recFirst ++ bytesOfNum 8 last ++ bytesOfInt 8 (C.dyn + C.stat + C.corr) ++ bytesOfNum 8 C.dyn ++
  bytesOfInt 8 C.stat ++ bytesOfInt 8 C.corr ++ bytesOfInt 8 C.consumed ++ bytesOfInt 8 level ++
  bytesOfNum 8 Config.serial.toNat ++ bytesOfNum 8 0 ++
  (upto 8).flatMap (fun k => match P.hist[k]? with
    | some (t, pt) => bytesOfNum 8 (t * 256 + 0x80 + pt)
    | none => bytesOfNum 8 0) ++
  (upto 16).flatMap (fun k => match C.marks[k]? with
    | some m => bytesOfNum 8 m.time ++ bytesOfInt 8 m.consumed ++ bytesOfNum 8 m.value.toNat
    | none => List.replicate 24 0)

/-- A new record of a context begins. -/
def Context.newRecord (C : Context) : Context := { C with dyn := 0, stat := 0, corr := 0, marks := [], dropped := 0 }

/-- R466: whether a partition's records close at the boundary that ends a tick. -/
def State.recordsDue (s : State) (p last : Nat) : Bool :=
  let P := s.part p
  P.exportReq || (P.enabled && (decide (s.expInt ≤ last + 1 - P.recFirst) || decide (8 < P.hist.length)))

/-- R466: the records of a partition's contexts and of its standing account close together. -/
def State.closeRecords (s : State) (p last : Nat) : State :=
  let P := s.part p
  let cs := (s.ctxs.filter (fun q => P.hasCtx q.1 && (q.2.en || decide (q.2.dyn ≠ 0) || decide (q.2.stat ≠ 0) ||
    decide (q.2.corr ≠ 0) || !q.2.marks.isEmpty))).map (·.1)
  let own : Context := { dyn := 0, stat := P.standStat, corr := P.standCorr, consumed := P.standing }
  let recs := ((upto cs.length).zip cs).map (fun q => recordHead s p q.2 (s.ctx q.2) (s.ctx q.2).level (P.recSeq + q.1) last) ++
    [recordHead s p 0xFFFF own 0 (P.recSeq + cs.length) last]
  let s1 := cs.foldl (fun (r : State) c => r.modCtx c Context.newRecord) s
  s1.modPart p (fun P => { P with closed := P.closed ++ recs, recSeq := P.recSeq + cs.length + 1, recFirst := last + 1,
                                  exportReq := false, hist := [(last + 1, P.cur)], standStat := 0, standCorr := 0 })

/-- R465: the whole record, with the TIME at which Agtur begins writing it, its key and its signature. -/
def State.signRecord (s : State) (head : List Byte) : List Byte :=
  let body := head ++ bytesOfNum 8 s.time ++ bytesOfNum 8 Config.keyId.toNat ++ List.replicate 448 0
  body ++ (Config.sign body ++ List.replicate 512 0).take 512

def State.putMtr (s : State) (fn : Nat) (recs : List (List Byte)) : State :=
  (s.modFunc fn (fun F => { F with mtr := { F.mtr with waiting := F.mtr.waiting ++ recs } })).flushMtr fn

/-- R466: Agtur writes a partition's closed records to the rings of function 0 and of the partition's function. -/
def execMeterRecordClose (part : Nat) (s : State) : Out :=
  let recs := (s.part part).closed.map s.signRecord
  if recs.isEmpty then .next s
  else .next (((s.modPart part (fun P => { P with closed := [] })).putMtr 0 recs).putMtr (fnOfPart part) recs)

/-! ### Rotation by share (R453) -/

/-- R263, R273, R421: a stop request on a team that has none, or the reason of a reclaim for one that is to be pre-empted already. An
orphaned child is not saved (R359). WDOG and ROTT take the values that they have at the request. -/
def State.askOne (s : State) (t reason : Nat) (forced : Bool) (stopped : Option Nat) : State :=
  let T := s.team t
  if T.state ≠ .placed ∨ s.orphan T then s
  else match T.stopReq with
  | none => (s.latchWdog T.ctx).modTeam t (fun T => { T with stopReq := some ⟨reason, s.time, forced, stopped, none, (s.ctx T.ctx).rott⟩ })
  | some r => if reason = 5 ∧ r.reason < 5 then s.modTeam t (fun T => { T with stopReq := some { r with reason := 5 } }) else s

/-- R273, R303: a stop request on a team and on its exchange group. -/
def State.askStop (s : State) (t reason : Nat) : State := (s.mates t).foldl (fun (s : State) u => s.askOne u reason false none) s

/-- R453: the team of a context placed most recently on a die. -/
def State.latestTeam (s : State) (d c : Nat) : Option Nat :=
  ((sortBy (fun (a b : Nat × Team) => decide (b.2.placed < a.2.placed) || (decide (b.2.placed = a.2.placed) && decide (a.2.core ≤ b.2.core)))
    (s.teams.filter (fun q => decide (q.2.ctx = c) && decide (q.2.state = .placed) && decide (dieOfCore q.2.core = d)))).head?).map (·.1)

/-- R453: the choice of a die's dispatcher for the contexts of one partition. -/
def State.shareRotation (s : State) (d p : Nat) : State :=
  let mine := s.contextOrder.filter (fun c => decide (s.partOf c = p))
  let y := mine.find? (fun c => match s.headTeam d c with
    | some (t, T) => (s.placesFor d t T).isNone
    | none => false)
  let here := (s.ctxs.map (·.1)).filter (fun c => decide (s.partOf c = p) && (s.latestTeam d c).isSome)
  let x := heaviest (here.map (fun c => (c, (s.ctx c).vj)))
  match x, y with
  | some x, some y =>
    if (s.part p).slack < (s.ctx x).vj - (s.ctx y).vj then
      match s.latestTeam d x with
      | some t => s.askStop t 1
      | none => s
    else s
  | _, _ => s

/-! ### The tick boundary -/

/-- R438: the shadow weight table is installed. -/
def State.takeWeights (s : State) : State :=
  match s.wshadow with
  | some (w, v) => { s with weights := w, wtabVer := v, wshadow := none }
  | none => s

/-- R448: the boundary that ends the oldest tick not yet processed. -/
def execTickBoundary (s : State) : Out :=
  if s.time / Config.tickPeriods ≤ s.tick then .next s
  else
    let n := s.tick
    let s1 := (s.teams.filter (fun q => q.2.onDie)).foldl (fun (r : State) q => r.countSlots q.1) s.postAll
    let s2 := s1.countVolts
    let s3 := domains.foldl (fun (r : State) dom => (r.staticTick dom (s2.staticOf dom n)).correctTick dom (s2.staticOf dom n) n) s2
    let s4 := { s3 with dyn := [], resid := [], tick := n + 1,
                        quarters := s3.quarters.map (fun (q : Nat × Quarter) => (q.1, { q.2 with volts := [] })),
                        ctxs := s3.ctxs.map (fun (q : Nat × Context) => (q.1, q.2.takeChanges)) }
    let s5 := s4.refillAll
    let s6 := ((upto 16).filter (fun p => s5.recordsDue p n)).foldl (fun (r : State) p => r.closeRecords p n) s5
    let s7 := s6.takeWeights.clearRefusals.flushCorrected
    .next ((upto 4).foldl (fun (r : State) d => (upto 16).foldl (fun (r : State) p => r.shareRotation d p) r) s7)

/-! ### Rack caps (R464; 27 R548, R549) -/

/-- R548: fields of CAPCFG. -/
def State.capRole (s : State) : Nat := (s.capcfg.extractLsb' 14 2).toNat
def State.capDomain (s : State) : Nat := (s.capcfg.extractLsb' 48 16).toNat
def State.capFloor (s : State) : Nat := (s.capcfg.extractLsb' 32 16).toNat
def State.capFailsafe (s : State) : Nat := (s.capcfg.extractLsb' 16 16).toNat
def State.capCoord (s : State) : Nat := (s.capcfg.extractLsb' 0 10).toNat

/-- R549: TIME periods in a cap period. -/
def capPeriods : Nat := 2400000

/-- R464: RSCALE under a share. -/
def State.newScale (s : State) (share : Nat) : Nat :=
  let e := share * 20000
  let stat := sumBy (fun d => Config.staticRate d (if d < 16 then s.chargePoint d else 0) s.tick) domains
  let f := sumBy (fun (q : Nat × Context) => if q.2.en then s.refillOne q.1 else 0) s.ctxs
  if f = 0 ∨ share = 0 then 65536 else min 65536 (65536 * (e - stat) / f)

/-- R447, R464: the measured energy of the package over a period of 1 ms, in nJ: that of its domains over 50 ticks. -/
def periodEnergy (k : Nat) : Nat := (upto 50).foldl (fun n i => n + sumBy (fun d => Config.measured d (50 * k + i)) domains) 0

/-- R464: CAPCEIL after a period of the measured energy, in nJ. -/
def capCeilAfter (ceil share energy : Nat) : Nat :=
  if share = 0 then 0 else if share * 1000000 < energy then min 7 (ceil + 1) else if 10 * energy < 9 * (share * 1000000) then ceil - 1 else ceil

/-- R549: the demand that is reported, in W, for a period of the measured energy. -/
def capDemand (energy : Nat) (refused : Bool) : Nat := min 2400 (if refused then (energy * 11 + 9999999) / 10000000 else energy / 1000000)

/-- R549: a report at a coordinator. -/
def State.takeReport (s : State) (pkg flr demand : Nat) : State :=
  { s with capReports := s.capReports.filter (fun q => decide (q.1 ≠ pkg)) ++ [(pkg, flr, demand)] }

/-- R549 step 1: the report of this package. -/
def State.sendReport (s : State) (energy : Nat) : State :=
  let d := capDemand energy s.capRefused
  let s1 := { s with capRefused := false }
  if s.capCoord = s.package then s1.takeReport s.package s.capFloor d
  else s1.sendFlits s.capCoord 0 0 (bytesOfNum 2 s.capDomain ++ bytesOfNum 2 s.capFloor ++ bytesOfNum 2 d)

/-- R549 step 3: the share of this period. -/
def State.takeShare (s : State) : State :=
  if s.capRole = 0 then { s with shareW := 0, capShare := none, capMissed := 0 }
  else match s.capShare with
    | some w => { s with shareW := w, capShare := none, capMissed := 0 }
    | none =>
      if 2 ≤ s.capMissed then { s with shareW := s.capFailsafe, capMissed := s.capMissed + 1 } else { s with capMissed := s.capMissed + 1 }

/-- R464, R549: a 1 ms period begins; a change of a cap is signalled on vector 2 of function 0 (R434). -/
def execCapPeriodStart (s : State) : Out :=
  if s.time / capPeriods ≤ s.capDone then .next s
  else
    let energy := periodEnergy s.capDone
    let s1 := { s.countVolts.takeShare with capDone := s.capDone + 1, capDivided := false, capReports := [] }
    let s2 := { s1 with rscale := s1.newScale s1.shareW,
                        parts := s1.parts.map (fun (q : Nat × Part) =>
                          (q.1, ({ q.2 with capceil := capCeilAfter q.2.capceil s1.shareW energy } : Part).applyCeil s.time)) }
    let s3 := if s2.parts.any (fun q => decide (q.2.capceil ≠ (s.part q.1).capceil)) then s2.signal 0 2 else s2
    .next (if s.capRole = 0 then s3 else s3.sendReport energy)

/-- R549 step 2: the watts of one member under λ. -/
def capShareOf (l : Nat) (q : Nat × Nat × Nat) : Nat := q.2.1 + min (max q.2.1 q.2.2 - q.2.1) l

/-- R549 step 2: watts left over go one each, in package order, to the members below their demand. -/
def capLeftOver (l : Nat) : Nat → List (Nat × Nat × Nat) → List (Nat × Nat)
  | _, [] => []
  | n, q :: t =>
    if 0 < n ∧ capShareOf l q < max q.2.1 q.2.2 then (q.1, capShareOf l q + 1) :: capLeftOver l (n - 1) t
    else (q.1, capShareOf l q) :: capLeftOver l n t

/-- R549 step 2: the shares of the members that reported. -/
def capShares (budget : Nat) (reports : List (Nat × Nat × Nat)) : List (Nat × Nat) :=
  let rs := sortBy (fun (a b : Nat × Nat × Nat) => decide (a.1 ≤ b.1)) reports
  let floors := sumBy (fun (q : Nat × Nat × Nat) => q.2.1) rs
  if budget < floors then rs.map (fun q => (q.1, q.2.1 * budget / floors))
  else
    let sum (l : Nat) : Nat := sumBy (capShareOf l) rs
    let l := ((upto 2401).filter (fun l => decide (sum l ≤ budget))).foldl max 0
    capLeftOver l (budget - sum l) rs

/-- R549 step 2: at 200 µs into the period the coordinator divides its budget. -/
def execCapDivision (s : State) : Out :=
  if s.capRole ≠ 2 ∨ s.capDivided ∨ s.time % capPeriods < 480000 then .next s
  else
    let s1 := { s with capDivided := true }
    .next ((capShares (s.capbudget.extractLsb' 0 32).toNat s.capReports).foldl (fun (r : State) q =>
      if q.1 = r.package then { r with capShare := some q.2 }
      else r.sendFlits q.1 0 0 (bytesOfNum 2 r.capDomain ++ bytesOfNum 2 q.2)) s1)

/-- R549: a share reaches this package. -/
def execCapShareArrival (domain share : Nat) (s : State) : Out :=
  .next (if s.capRole ≠ 0 ∧ domain = s.capDomain then { s with capShare := some share } else s)

/-- R549: a report reaches this package, the coordinator of the domain. -/
def execCapReportArrival (pkg domain flr demand : Nat) (s : State) : Out :=
  .next (if s.capRole = 2 ∧ domain = s.capDomain then s.takeReport pkg flr demand else s)

end Sys2Proof.Machine
end

