-- ==== Sys2Proof/Machine/Collectives.lean ====
section
/-! DEFINITION. Collectives (27 R543 to R547). -/

namespace Sys2Proof.Machine

/-! ### Groups (R543) -/

def CollGroup.enabled (G : CollGroup) : Bool := G.a.getLsbD 63
def CollGroup.rank (G : CollGroup) : Nat := (G.a.extractLsb' 32 10).toNat
def CollGroup.members (G : CollGroup) : Nat := (G.a.extractLsb' 16 11).toNat
def CollGroup.gtag (G : CollGroup) : Nat := (G.a.extractLsb' 0 16).toNat
/-- R543: the timeout in TIME periods. -/
def CollGroup.timeout (G : CollGroup) : Nat := max 1 (G.b.extractLsb' 56 8).toNat * 2400000
def CollGroup.parent (G : CollGroup) : Nat := (G.b.extractLsb' 0 10).toNat
def CollGroup.hasParent (G : CollGroup) : Bool := G.b.getLsbD 34
/-- The packages of the children that exist. -/
def CollGroup.kids (G : CollGroup) : List Nat :=
  (if G.b.getLsbD 33 then [(G.b.extractLsb' 10 10).toNat] else []) ++ (if G.b.getLsbD 32 then [(G.b.extractLsb' 20 10).toNat] else [])
/-- The packages at the other ends of the tree links. -/
def CollGroup.links (G : CollGroup) : List Nat := G.kids ++ (if G.rank ≠ 0 then [G.parent] else [])
/-- R545: operations in flight. -/
def CollGroup.flying (G : CollGroup) : Nat := (G.ops.filter (fun o => decide (o.status = 0))).length

def State.group (s : State) (p g : Nat) : CollGroup := tget {} (s.part p).coll g
def State.modGroup (s : State) (p g : Nat) (f : CollGroup → CollGroup) : State :=
  s.modPart p (fun P => { P with coll := tput P.coll g (f (tget {} P.coll g)) })
def State.collOp (s : State) (p g k : Nat) : Option CollOpn := (s.group p g).ops.find? (fun o => decide (o.k = k))
def State.modCollOp (s : State) (p g k : Nat) (f : CollOpn → CollOpn) : State :=
  s.modGroup p g (fun G => { G with ops := G.ops.map (fun o => if o.k = k then f o else o) })

/-! ### Combining (R546) -/

/-- R546: Combine on one 32-bit word. -/
def collWord32 (op : CollOp) (u x : W32) : W32 :=
  match op with
  | .addF32 => accOp32 .addF32 u x
  | .addB16x2 => accOp32 .addB16x2 u x
  | .addI32 => accOp32 .addI32 u x
  | .maxF32 => accOp32 .maxF32 u x
  | .minF32 => accOp32 .minF32 u x
  | .maxI32 => if u.toInt < x.toInt then x else u
  | .minI32 => if x.toInt < u.toInt then x else u

def combineWords (op : CollOp) : List Byte → List Byte → List Byte
  | a :: b :: c :: d :: t, e :: f :: g :: h :: u =>
    let w (l : List Byte) : W32 := BitVec.ofNat 32 (numOfBytes l)
    bytesOfNum 4 (collWord32 op (w [a, b, c, d]) (w [e, f, g, h])).toNat ++ combineWords op t u
  | _, _ => []

/-- R546: a child's partial is combined into an operation. -/
def CollOpn.combine (o : CollOpn) (q : EarlyPartial) : CollOpn :=
  let same := q.bcast == o.bcast && (o.bcast || decide (q.op = some o.op)) && decide (q.len = o.len) && decide (q.root = o.root) && !q.mism
  { o with
    got := o.got + 1
    mism := o.mism || !same
    value := if !same then o.value
      else if o.bcast then (match o.value with | some v => some v | none => q.bytes)
      else match o.value, q.bytes with
        | some v, some x => some (combineWords o.op v x)
        | v, _ => v }

/-! ### Completion -/

/-- R546: a ticket. -/
def ticketOf (g k : Nat) : W64 := BitVec.ofNat 64 (g * 2 ^ 32 + k % 2 ^ 32)
/-- R547: the status word. -/
def collStatus (ticket : W64) (st : Nat) : W64 := BitVec.ofNat 64 (ticket.toNat % 2 ^ 32 * 2 ^ 32 + st)

def onTicket (x : W64) : WaitOn → Bool
  | .coll y _ => decide (y = x)
  | _ => false

/-- R547: the lanes that wait on an operation take its status and go on. -/
def Gang.collDone (G : Gang) (x : W64) (st : Nat) : Gang :=
  let ls := G.waiters (onTicket x)
  let G1 := G.eachLane ls (fun G l => match G.laneState l with
    | .waiting (.coll _ d) => G.writeS d (collStatus x st)
    | _ => G)
  if ls.isEmpty then G else G1.leaveWait ls

/-- R547: the waiters of a partition are told; saved teams are queued. -/
def State.tellWaiters (s : State) (p : Nat) (x : W64) (st : Nat) : State :=
  let wake := (s.teams.filter (fun q => q.2.awaits (onTicket x) && decide (s.partOf q.2.ctx = p))).map (·.1)
  let s1 := s.mapTeams (fun _ T => if T.onDie && decide (s.partOf T.ctx = p) then T.mapGangs (fun _ G => G.collDone x st) else T)
  wake.foldl State.requeue s1

/-- An operation completes with a status. -/
def State.endColl (s : State) (p g k st : Nat) : State :=
  (s.modCollOp p g k (fun o => { o with status := st })).tellWaiters p (ticketOf g k) st

/-- The flits of a collective leave for a package (R533, R534). The payload here is the model's own: group, sequence,
whether the value is a mismatch, and its bytes. -/
def State.sendColl (s : State) (g : Nat) (o : CollOpn) (pkg : Nat) : State :=
  let body := bytesOfNum 2 g ++ bytesOfNum 8 o.k ++ bytesOfNum 1 (if o.mism then 1 else 0) ++ (if o.mism then [] else o.value.getD [])
  ((s.sendFlits pkg 1 0 body).chargeFlits o.core o.ctx (dataFlits (o.value.getD []).length)).returnMeter o.core o.ctx

/-- R546: the result R reaches the children and the destination. -/
def State.finishColl (s : State) (p g : Nat) (o : CollOpn) : State :=
  let s1 := (s.group p g).kids.foldl (fun (s : State) c => s.sendColl g o c) s
  if o.mism then s1.endColl p g o.k 2
  else
    let v := o.value.getD []
    let s2 := o.dst.foldl (fun (s : State) q => s.requestWrite o.core o.ctx q.2.1 ((v.drop q.1).take q.2.2)) s1
    (s2.returnMeter o.core o.ctx).endColl p g o.k 1

/-- R546: what an operation does once every child's partial has come. -/
def State.advanceColl (s : State) (p g k : Nat) : State :=
  let G := s.group p g
  match s.collOp p g k with
  | none => s
  | some o =>
    if o.status ≠ 0 ∨ o.sentUp ∨ o.got < G.kids.length then s
    else if G.rank ≠ 0 then (s.sendColl g o G.parent).modCollOp p g k (fun o => { o with sentUp := true })
    else s.finishColl p g o

/-! ### Instructions (R544, R545, R547) -/

/-- R545: the control word: BYTES, GROUP and ROOT. -/
def ctrlBytes (w : W64) : Nat := (w.extractLsb' 0 9).toNat
def ctrlGroup (w : W64) : Nat := (w.extractLsb' 16 4).toNat
def ctrlRoot (w : W64) : Nat := (w.extractLsb' 32 10).toNat
def ctrlLegal (bcast : Bool) (members : Nat) (w : W64) : Bool :=
  decide (w &&& ~~~0x3FF000F01FF#64 = 0) && decide (ctrlBytes w % 4 = 0) && decide (4 ≤ ctrlBytes w) && decide (ctrlBytes w ≤ 256) &&
  (if bcast then decide (ctrlRoot w < members) else decide (ctrlRoot w = 0))

/-- R545: the stretches of a range by line: offset and length. -/
def rangePieces (a : W64) (n : Nat) : List (Nat × Nat) :=
  let o := a.toNat % 128
  (upto ((o + n + 127) / 128)).map (fun k =>
    let lo := 128 * k - o
    (lo, min n (128 * (k + 1) - o) - lo))
def pieceAddrs (a : W64) (n : Nat) : List (Nat × Int) := (rangePieces a n).map (fun q => (q.1, ((a + BitVec.ofNat 64 q.1).toNat : Int)))

/-- R545: the first cause of the addresses themselves, BOUNDS before MISALIGNED. -/
def collCause (as : List W64) (n : Nat) : Option (Nat × W64) :=
  match as.find? (fun a => !rangeOk {} false a n) with
  | some a => some (5, a)
  | none => (as.find? (fun a => decide (a.toNat % 16 ≠ 0))).map (fun a => (6, a))

/-- R545: a stretch outside this package's memory. -/
def State.awayPiece (s : State) (locs : List (Nat × Loc)) : Option Nat :=
  (locs.find? (fun q => match q.2 with
    | .mem pa => !s.isLocal pa
    | _ => true)).map (·.1)

/-- R546: the operation begins at this member; partials that came early are combined. -/
def State.beginColl (s : State) (p g : Nat) (o : CollOpn) : State :=
  let G := s.group p g
  let mine := G.early.filter (fun q => decide (q.k = o.k))
  let o1 := mine.foldl CollOpn.combine o
  let s1 := s.modGroup p g (fun G => { G with
    count := o.k, early := G.early.filter (fun q => decide (q.k ≠ o.k)),
    ops := G.ops.filter (fun q => decide (q.status = 0) || decide (o.k ≤ q.k + 256)) ++ [o1] })
  if !G.enabled then s1.endColl p g o.k 6
  else if G.links.any (fun c => !s.reachable c) then s1.endColl p g o.k 3
  else s1.advanceColl p g o.k

/-- R545, R546: the bytes of the source; the lane's address of a poisoned stretch. -/
def State.collSource (s : State) (src : W64) (n : Nat) (locs : List (Nat × Loc)) : State × List Byte × Option W64 :=
  locs.foldl (fun r q =>
    let len := ((rangePieces src n).find? (fun x => decide (x.1 = q.1))).elim 0 (·.2)
    match r.1.loadLoc s.cur.team s.cur.gang q.2 len true with
    | (s1, bs, bad) => (s1, r.2.1 ++ bs, if bad && r.2.2.isNone then some (src + BitVec.ofNat 64 q.1) else r.2.2)) (s, [], none)

/-- R544 to R546: `coll.red` and `coll.bcast`. -/
def collWord (i : Instr) (gd : Grd) (bcast : Bool) (op : CollOp) (d a b c : BitVec 8) (s : State) : Out :=
  energyWord i gd s (fun s =>
    let act := s.active gd
    let G := s.curGang
    let src := G.readS a.toNat
    let dst := G.readS b.toNat
    let w := G.readS c.toNat
    let n := ctrlBytes w
    let p := s.partOf s.curTeam.ctx
    let g := ctrlGroup w
    let grp := s.group p g
    let reads := !bcast || decide (grp.rank = ctrlRoot w)
    if !ctrlLegal bcast grp.members w then .next (s.trapLanes i act 1 0)
    else match collCause (if reads then [src, dst] else [dst]) n with
    | some (cs, ad) => .next (s.trapLanes i act cs ad)
    | none =>
      (s.checkLanes s.cur.team s.cur.gang .glob 4 .read (if reads then pieceAddrs src n else [])).settle i .read (some act) (fun s sl =>
        match s.awayPiece sl with
        | some o => .next (s.trapLanes i act 7 (src + BitVec.ofNat 64 o))
        | none =>
          (s.checkLanes s.cur.team s.cur.gang .glob 4 .write (pieceAddrs dst n)).settle i .write (some act) (fun s dl =>
            match s.awayPiece dl with
            | some o => .next (s.trapLanes i act 7 (dst + BitVec.ofNat 64 o))
            | none =>
              if s.storesPending s.cur.team s.cur.gang .system then s.hold
              else if 4 ≤ grp.flying then s.hold
              else match s.collSource src n sl with
              | (s1, _, some ad) => .next (s1.trapLanes i act 12 ad)
              | (s1, bs, none) =>
                let k := grp.count + 1
                let places := dl.filterMap (fun q => match q.2 with
                  | .mem pa => ((rangePieces dst n).find? (fun x => decide (x.1 = q.1))).map (fun x => (q.1, pa, x.2))
                  | _ => none)
                let o : CollOpn := ⟨k, bcast, op, ctrlRoot w, n, s1.curTeam.ctx, s1.curGang.core, places, if reads then some bs else none,
                  false, 0, false, s1.time + grp.timeout, 0⟩
                let s2 := s1.setCur (s1.curGang.writeS d.toNat (ticketOf g k))
                (s2.beginColl p g o).next)))

def execCollRed (g : Grd) (op : CollOp) (d a b c : BitVec 8) (s : State) : Out := collWord (.collRed g op d a b c) g false op d a b c s
def execCollBcast (g : Grd) (d a b c : BitVec 8) (s : State) : Out := collWord (.collBcast g d a b c) g true .addI32 d a b c s

/-- R547: the status of a ticket at a group, or none while its operation is in flight. -/
def CollGroup.statusOf (G : CollGroup) (x : W64) : Option Nat :=
  let back := (G.count + 2 ^ 32 - x.toNat % 2 ^ 32) % 2 ^ 32
  if 16 ≤ x.toNat / 2 ^ 32 ∨ 2 ^ 31 ≤ back ∨ G.count < back then some 5
  else if 256 < back then some 4
  else match G.ops.find? (fun o => decide (o.k + back = G.count)) with
    | none => some 5
    | some o => if o.status = 0 then none else some o.status

/-- R547: `coll.wait`. -/
def execCollWait (g : Grd) (d a : BitVec 8) (s : State) : Out :=
  runWord (.collWait g d a) s (fun s =>
    let act := s.active g
    let x := s.curGang.readS a.toNat
    if act.isEmpty then .next (s.finish true)
    else match (s.group (s.partOf s.curTeam.ctx) (x.toNat / 2 ^ 32 % 16)).statusOf x with
    | some st => (s.setCur (s.curGang.writeS d.toNat (collStatus x st))).nextEnds
    | none => .next (s.park act (fun _ => .coll x d.toNat)))

/-! ### Arrivals and timeouts (R543, R546) -/

/-- R543: whether a group accepts a flit from a package. -/
def CollGroup.accepts (G : CollGroup) (gtag : Nat) (from_ : List Nat) (pkg : Nat) : Bool :=
  G.enabled && decide (G.gtag = gtag) && from_.elem pkg

/-- R543, R546: a child's partial arrives; one that no group accepts is discarded and reported. -/
def execCollPartialArrival (part grp k fromPkg : Nat) (bcast : Bool) (op : Option CollOp) (root : Nat) (mism : Bool)
    (bytes : Option (List Byte)) (gtag len : Nat) (s : State) : Out :=
  let G := s.group part grp
  let q : EarlyPartial := ⟨k, fromPkg, bcast, op, root, len, mism, bytes⟩
  if !G.accepts gtag G.kids fromPkg then .next (s.signal 0 1)
  else if G.count < k then .next (s.modGroup part grp (fun G => { G with early := G.early ++ [q] }))
  else match s.collOp part grp k with
  | some o =>
    if o.status = 0 ∧ o.got < G.kids.length then .next ((s.modCollOp part grp k (fun o => o.combine q)).advanceColl part grp k)
    else .next s
  | none => .next s

/-- R546: the result comes down from the parent. -/
def execCollResultArrival (part grp k fromPkg : Nat) (mism : Bool) (bytes : List Byte) (gtag : Nat) (s : State) : Out :=
  let G := s.group part grp
  if !G.accepts gtag (if G.hasParent then [G.parent] else []) fromPkg then .next (s.signal 0 1)
  else match s.collOp part grp k with
  | some o =>
    if o.status = 0 ∧ o.sentUp then .next (s.finishColl part grp { o with mism := mism, value := some bytes }) else .next s
  | none => .next s

/-- R546: an operation that has not completed in time completes here with status 3. -/
def execCollectiveTimeout (part grp k : Nat) (s : State) : Out :=
  match s.collOp part grp k with
  | some o => if o.status = 0 ∧ o.deadline ≤ s.time then .next (s.endColl part grp k 3) else .next s
  | none => .next s

/-- R546: a tree link that becomes unreachable ends the operations of its group. -/
def State.collUnreachable (s : State) : State :=
  s.parts.foldl (fun (s : State) P => P.2.coll.foldl (fun (s : State) q =>
    if q.2.links.any (fun c => !s.reachable c) then
      (q.2.ops.filter (fun o => decide (o.status = 0))).foldl (fun (s : State) o => s.endColl P.1 q.1 o.k 3) s
    else s) s) s

end Sys2Proof.Machine
end

