-- ==== Sys2Proof/Machine/Rings.lean ====
section
/-! DEFINITION. Packets and their completion (22 R472, R476, R480), page requests that end (20 R430, R432), and the
watchdog's work (11 R280). -/

namespace Sys2Proof.Machine

/-! ### Rings and packets -/

/-- R469: the partition that a virtual function serves. -/
def partOfFn (fn : Nat) : Nat := fn - 1

/-- R470: ring 8 i + r of a function is ring r of context CTXBASE + i. -/
def State.ringCtx (s : State) (fn ring : Nat) : Nat := (s.part (partOfFn fn)).ctxBase + ring / 8

def State.ring (s : State) (fn ring : Nat) : Ring := tget {} (s.func fn).rings ring
def State.modRing (s : State) (fn ring : Nat) (f : Ring → Ring) : State :=
  s.modFunc fn (fun F => { F with rings := tput F.rings ring (f (tget {} F.rings ring)) })

def Ring.slots (R : Ring) : Nat := 2 ^ R.log2n
def Ring.pkt (R : Ring) (pos : Nat) : Option PktRun := R.pkts.find? (fun p => decide (p.pos = pos))
def State.modPkt (s : State) (fn ring pos : Nat) (f : PktRun → PktRun) : State :=
  s.modRing fn ring (fun R => { R with pkts := R.pkts.map (fun p => if p.pos = pos then f p else p) })

/-- The number that bytes of a packet hold. -/
def PktRun.num (p : PktRun) (o n : Nat) : Nat := numOfBytes ((p.bytes.drop o).take n)
/-- R476. -/
def PktRun.irq (p : PktRun) : Bool := decide (p.num 5 1 % 2 = 1)
def PktRun.status (p : PktRun) : Bool := decide (p.num 5 1 / 2 % 2 = 1)

/-- R475: HEAD and COMP in the write-back block. -/
def State.writeBackHead (s : State) (fn ring : Nat) : State :=
  let R := s.ring fn ring
  ((s.hostPut fn R.headwb.toNat (bytesOfNum 4 R.head.toNat)).hostPut fn (R.headwb.toNat + 4) (bytesOfNum 4 R.comp.toNat)).modRing fn ring
    (fun R => { R with wbDirty := none })
def State.writeBackComp (s : State) (fn ring : Nat) : State :=
  let R := s.ring fn ring
  s.hostPut fn (R.headwb.toNat + 4) (bytesOfNum 4 R.comp.toNat)

/-- R480 step 2: COMP advances over every leading completed position. Completed packets from before the ring's last
enabling are forgotten. -/
def Ring.advanceOne (R : Ring) : Ring :=
  match R.pkts.find? (fun p => decide (p.pos = R.epoch * 2 ^ 32 + R.comp.toNat) && p.code.isSome) with
  | some p => { R with comp := R.comp + 1, pkts := R.pkts.filter (fun q => decide (q.pos ≠ p.pos)) }
  | none => R
def Ring.advance (R : Ring) : Ring :=
  let R1 := (upto R.pkts.length).foldl (fun R _ => R.advanceOne) R
  { R1 with pkts := R1.pkts.filter (fun p => decide (p.pos / 2 ^ 32 = R1.epoch) || p.code.isNone) }

/-! ### The watchdog's work (R280) -/

/-- R280: whether a context has a packet that has started and not completed, or a team that keeps it at work. -/
def State.hasWork (s : State) (c : Nat) : Bool :=
  s.funcs.any (fun f => f.2.rings.any (fun r => decide (s.ringCtx f.1 r.1 = c) && decide (f.1 ≠ 0) &&
    r.2.pkts.any (fun p => p.started && p.code.isNone))) ||
  s.teams.any (fun p => decide (p.2.ctx = c) && decide (p.2.state ≠ .retired) &&
    !(decide (p.2.state = .saved) && (decide (p.2.reason = 6) || decide (p.2.reason = 8))))

/-- R280: the watchdog starts when work appears, with WDOG as it stands, and stops when none is left or the context is being killed. -/
def State.watch (s : State) (c : Nat) : State :=
  if s.hasWork c && (s.ctx c).dying.isNone then
    s.modCtx c (fun C => if C.wdStart.isNone then { C with wdStart := some s.time, wdogNow := C.wdog } else C)
  else s.modCtx c (fun C => { C with wdStart := none, wdDefer := false })

/-- R280, R479: a completion restarts it with a full period. -/
def State.restartWatch (s : State) (c : Nat) : State :=
  (s.modCtx c (fun C => { C with wdStart := C.wdStart.map (fun _ => s.time) })).watch c

/-! ### Completion (R480) -/

/-- R480: a packet completes with a code and a detail. -/
def State.completePkt (s : State) (fn ring pos code detail : Nat) : State :=
  match (s.ring fn ring).pkt pos with
  | none => s
  | some p =>
    if p.code.isSome then s
    else
      let s1 := if p.status && decide (p.num 8 8 % 8 = 0) then s.hostPut fn (p.num 8 8) (bytesOfNum 8 (p.num 0 4 * 2 ^ 32 + detail * 256 + code)) else s
      let s2 := s1.modPkt fn ring pos (fun p => { p with code := some (code, detail), started := true })
      let old := (s2.ring fn ring).comp
      let s3 := s2.modRing fn ring Ring.advance
      let s4 := if (s3.ring fn ring).comp = old then s3 else s3.writeBackComp fn ring
      let v := (s4.ring fn ring).vec
      let s5 := if p.irq && decide (8 ≤ v ∧ v < 64) then s4.signal fn v else s4
      s5.restartWatch (s5.ringCtx fn ring)

/-- R480: the packets of a killed context complete with code 6. -/
def State.killPackets (s : State) (c : Nat) : State :=
  s.funcs.foldl (fun (s : State) f => f.2.rings.foldl (fun (s : State) r =>
    if f.1 ≠ 0 ∧ s.ringCtx f.1 r.1 = c then r.2.pkts.foldl (fun (s : State) p => s.completePkt f.1 r.1 p.pos 6 0) s else s) s) s

/-! ### The end of a page request (R430, R432) -/

/-- R430: the oldest parked gang of a partition asks for the pages that found no entry. -/
def State.releaseParked (s : State) (p : Nat) : State :=
  match s.parked.find? (fun q => decide (s.partOf (s.team q.1).ctx = p)) with
  | none => s
  | some q =>
    match (s.gang q.1 q.2).stop with
    | .replay ids want =>
      let r := s.requestAll (s.team q.1).ctx want
      let s1 := r.1.modGang q.1 q.2 (fun G => { G with stop := .replay (ids ++ r.2.1) r.2.2 })
      if r.2.2.isEmpty then { s1 with parked := s1.parked.erase q } else s1
    | _ => { s with parked := s.parked.erase q }

/-- R430, R555: a request's entry is freed, with its place in the ring. -/
def State.freePrq (s : State) (id : Nat) : State :=
  match s.prqs.find? (fun r => decide (r.id = id)) with
  | none => s
  | some r =>
    (({ s with prqs := s.prqs.filter (fun q => decide (q.id ≠ id)), prqWait := s.prqWait.filter (fun q => decide (q.id ≠ id)) } : State).releaseParked
      r.part).flushPrq r.fn

/-- R432: a kill frees the requests of a context. -/
def State.killPrqs (s : State) (c : Nat) : State :=
  (s.prqs.filter (fun r => decide (r.ctx = c))).foldl (fun (s : State) r => s.freePrq r.id) s

/-- R166, R432: a gang that waited on a request goes on once none of its requests is left; `fail` tells what it was answered, which holds
for every address of the word that asked for the page. -/
def Gang.prqDone (G : Gang) (id : Nat) (key : PageKey) (fail : Bool) : Gang :=
  match G.stop with
  | .replay ids want =>
    if ids.elem id then
      let rest := ids.filter (fun k => decide (k ≠ id))
      { G with stop := if rest.isEmpty && want.isEmpty then .none else .replay rest want, failed := if fail then G.failed ++ key :: (G.asked.filter (fun q => decide (q.1 = key))).map (fun q => (q.2.toNat % 2 ^ 57 / 4096 * 4096, false))
          else G.failed }
    else G
  | _ => G

/-- R251: the queues whose engine waited on a failed page become FAULTED. -/
def CopyEntry.teamGang (e : CopyEntry) : Nat × Nat :=
  match e with
  | .copy _ t g _ _ _ _ _ _ _ => (t, g)
  | .fence _ t g _ _ _ => (t, g)

def State.failCopies (s : State) (c : Nat) (key : PageKey) : State :=
  s.cores.foldl (fun (s : State) C => C.2.copyq.foldl (fun (s : State) q =>
    match q.2.missing, q.2.entries with
    | some (k, va), e :: _ =>
      if k = key ∧ (s.team e.teamGang.1).ctx = c then s.faultQueue C.1 q.1 e.teamGang.1 e.teamGang.2 8 va else s
    | _, _ => s) s) s

/-- R432: software's answer: the entry is freed, and every joined access is replayed or told NOT_PRESENT. -/
def State.answerPrq (s : State) (id : Nat) (fail : Bool) : State :=
  match s.prqs.find? (fun r => decide (r.id = id)) with
  | none => s
  | some r =>
    let key : PageKey := (r.page, r.s2)
    let s1 := s.mapTeams (fun _ T => if T.ctx = r.ctx then T.mapGangs (fun _ G => G.prqDone id key fail) else T)
    let s2 := if fail then s1.failCopies r.ctx key else s1
    let s3 := { s2 with funcs := s2.funcs.map (fun (f : Nat × Func) => (f.1, { f.2 with rings := f.2.rings.map (fun (g : Nat × Ring) =>
      (g.1, { g.2 with pkts := g.2.pkts.map (fun (p : PktRun) =>
        if p.prq = some id then { p with prq := none, fail := p.fail || fail } else p) })) })) }
    s3.freePrq id

end Sys2Proof.Machine
end

