-- ==== Sys2Proof/Machine/Saves.lean ====
section
/-! DEFINITION. Stopping, saving and restoring teams (11 R272 to R279; 09 R215 to R218; 10 R240, R252; 13 R303; 16 R361,
R376). -/

namespace Sys2Proof.Machine

/-! ### Stopping (R273) -/

/-- R193, R275: fully reconverged: one PC, no lane in `waitm`, and in a handler no frozen lane. -/
def Gang.reconverged (G : Gang) : Bool :=
  match G.liveLanes with
  | [] => true
  | l0 :: ls =>
    ls.all (fun l => decide (G.pc l = G.pc l0)) &&
    (l0 :: ls).all (fun l => match G.laneState l with
      | .waiting (.mask _) => false
      | _ => decide (G.level = 0) || G.hset.getLsbD l)

/-- R232: lanes of a barrier that has flipped, whose release is still on its way. -/
def Gang.delayed (G : Gang) : Bool := G.liveLanes.any (fun l => match G.laneState l with
  | .waiting (.delayed _) => true
  | _ => false)

/-- R462: a lane is Held in `vf.stat`. -/
def Gang.inPoint (G : Gang) : Bool := G.allLanes.any (fun l => match G.laneState l with
  | .point _ => true
  | _ => false)

/-- R273: whether a gang stops where it is. A gang at LEVEL 2 does not, and a trap in progress, a release on its way or a `vf.stat` that
has issued comes first. -/
def Gang.mayStop (G : Gang) (forced : Bool) : Bool :=
  decide (G.level ≠ 2) && (forced || G.reconverged) && !G.delayed && !G.inPoint &&
  (match G.stop with
   | .trapWait _ => false
   | _ => true)

/-- R218: a matrix operation of a team that may not be split. -/
def State.nosplitOp (s : State) (t : Nat) : Bool := s.cores.any (fun c => c.2.matq.any (fun o => decide (o.team = t) && o.nosplit))

/-- R273: the gangs of a team that has been asked to stop do so at the first boundary that serves. While a `.nosplit`
operation keeps the save waiting, they issue (R218). -/
def State.markStops (s : State) (t : Nat) : State :=
  let T := s.team t
  match T.stopReq with
  | none => s
  | some r =>
    if (r.stopped.isSome && (s.mates t).any s.nosplitOp) || s.orphan T then s
    else
      let s1 := s.setTeam t (T.mapGangs (fun _ G =>
        if !G.finished && G.mayStop r.forced && !(decide (G.stop = .saved)) then { G with stop := .saved } else G))
      T.gangs.foldl (fun (s : State) p => if (s.gang t p.1).stop = .saved then s.refundLanes t p.1 else s) s1

/-- R86, R275: the results that a stop waits for: all that are pending but those of matrix operations, which are split. -/
def Gang.resultsIn (G : Gang) : Bool := G.pend.all (fun p => p.done || (match p.kind with
  | .matrix _ => p.ecc.isNone
  | _ => false))

/-- R273, R275: every gang has stopped, and no result is pending; a gang whose live lanes all wait counts. -/
def Team.allStopped (T : Team) : Bool :=
  T.gangs.all (fun p => p.2.resultsIn &&
    (p.2.finished || decide (p.2.stop = .saved) || (p.2.allWaiting && decide (p.2.level ≠ 2) && !p.2.delayed)))

def Team.allFinished (T : Team) : Bool := T.gangs.all (fun p => p.2.finished)

/-- R360, R343: a team whose gangs have finished, and which no trap to the host has stopped. -/
def Team.ended (T : Team) : Bool := T.allFinished && !(match T.stopReq with
  | some r => r.gang.isSome
  | none => false)

/-! ### Matrix operations (R215, R216, R218) -/

/-- R216: the continuation of an operation. -/
def MatOp.contin (o : MatOp) (win : Nat) : Contin :=
  ⟨o.fmt, o.p, o.kb, o.acc, BitVec.ofNat 8 (o.ta + 16 * o.tb),
   BitVec.ofNat 8 ((if o.ring = 1 then 0 else if o.ring = 2 then 1 else 2) + (if o.nosplit then 4 else 0) + (if o.wide then 8 else 0)),
   o.pair, o.word, win⟩

/-- The window that an operation has left. -/
def Gang.winOf (G : Gang) (id : Nat) : Nat :=
  match G.pendOf id with
  | some p => p.left.foldl (fun n q => max n q.2) 0
  | none => 0

/-- The pending record of an operation goes without a result. -/
def Gang.dropPend (G : Gang) (id : Nat) : Gang := { G with pend := G.pend.filter (fun p => decide (p.kind ≠ .matrix id)) }

/-- R216: one operation is split at its boundary: what has run is added in, and the rest is a continuation. -/
def State.splitOp (s : State) (core : Nat) (o : MatOp) : State :=
  let T := s.team o.team
  let twin := if o.pair then (s.core (core + 1)).matq.find? (fun q => decide (q.id = o.id)) else none
  let c := o.contin ((T.gang o.gang).winOf o.id)
  let fin (G : Gang) (q : MatOp) : Gang := (if q.ran then G.finaliseAcc T.launch q else G).dropPend o.id
  let s1 := (s.dropOp o.id).modGang o.team o.gang (fun G => { fin G o with conts := G.conts ++ [c] })
  match twin with
  | some q => s1.modGang o.team o.partner (fun G => fin G q)
  | none => s1

/-- R215: the operations of a team are split, in queue order. One whose k-blocks have all run has no boundary left, and retires. -/
def State.splitTeam (s : State) (t : Nat) : State :=
  (s.team t).cores.foldl (fun (s : State) c =>
    ((s.core c).matq.filter (fun o => decide (o.team = t) && !(o.pair && o.side) && decide (o.p < o.kb))).foldl (fun (s : State) o => s.splitOp c o) s) s

/-! ### The record (R278, R279) -/

/-- R278: the offsets of the sections. -/
def Team.sectionOffsets (T : Team) : List Nat :=
  (T.sectionSizes.foldl (fun (r : List Nat × Nat) n => (r.1 ++ [r.2], r.2 + n)) ([], 256)).1

def padTo (n : Nat) (bs : List Byte) : List Byte := (bs ++ List.replicate (n - bs.length) 0).take n

/-- R31, R278: the pool allocation of a gang. -/
def poolBytesOf (L : Launch) (G : Gang) : List Byte :=
  (upto (poolRegs L G.width)).flatMap (fun r => (upto G.width).flatMap (fun l => bytesOfNum 4 (G.readV l r).toNat))

def gangSection (L : Launch) (G : Gang) : List Byte :=
  gangBlock L G false ++ (upto 64).flatMap (fun r => bytesOfNum 8 (G.readS r).toNat) ++ poolBytesOf L G

def regsSection (T : Team) : List Byte :=
  (upto 16).flatMap (fun r => bytesOfNum 4 (T.readF r).toNat) ++
  (upto 8).flatMap (fun n => bytesOfNum 8 (if n < T.launch.tiles then tcfgValue (T.tile n) else 0).toNat)

/-- R196, R278: the tiles of a team in record order: those of the leader core, then those of the follower. -/
def Team.tileKeys (T : Team) : List Nat :=
  upto T.launch.tiles ++ (if T.launch.pair then (upto T.launch.tiles).map (fun n => tileKey true n) else [])

def tilesSection (T : Team) : List Byte :=
  T.tileKeys.flatMap (fun k => readBytes (T.tile k).data 0 8192 ++ readBytes (T.tile k).side 0 512)

def scratchSection (T : Team) : List Byte :=
  readBytes T.scratch 0 T.launch.scratchSpace ++ (if T.launch.xg = 0 then [] else readBytes T.shadow 0 T.launch.scratchSpace)

/-- R278: a section whose form only the S9 reads. -/
def ownSection (key o n : Nat) : List Byte := (upto n).map (fun i => Config.saveByte key (o + i))

def recordHeader (T : Team) (reason time : Nat) : List Byte :=
  bytesOfNum 8 1 ++ bytesOfNum 8 T.ref.toNat ++ bytesOfNum 8 (teamIdWord T).toNat ++ bytesOfNum 1 reason ++ bytesOfNum 1 T.gangs.length ++
  bytesOfNum 1 0 ++ bytesOfNum 5 0 ++ bytesOfNum 8 time ++ T.sectionOffsets.flatMap (fun o => bytesOfNum 8 o) ++ List.replicate 160 0

/-- R278: the whole record, SAVEVALID included. -/
def recordBytes (T : Team) (reason time key : Nat) : List Byte :=
  let z := T.sectionSizes
  let o := T.sectionOffsets
  let own (k : Nat) : List Byte := ownSection key (o.getD k 0) (z.getD k 0)
  recordHeader T reason time ++
  padTo (z.getD 0 0) (T.gangs.flatMap (fun p => gangSection T.launch p.2)) ++
  padTo (z.getD 1 0) (regsSection T) ++ padTo (z.getD 2 0) (tilesSection T) ++ own 3 ++
  padTo (z.getD 4 0) (scratchSection T) ++ own 5 ++ own 6

/-! ### Writing and reading the save area -/

/-- The lines of the save area that a team's record takes: offset in the record and address. -/
def State.recordLines (s : State) (t : Nat) : List (Nat × W64) :=
  let T := s.team t
  (upto (roundUp T.recordSize 128 / 128)).map (fun k =>
    (128 * k, (s.ctx T.ctx).saveBase + BitVec.ofNat 64 (T.saveOff.getD 0 + 128 * k)))

/-- The places of the lines; a page that is missing is asked for. -/
def State.recordPlaces (s : State) (t core : Nat) (acc : Access) : State × Option (List (Nat × Nat)) :=
  (s.recordLines t).foldl (fun (r : State × Option (List (Nat × Nat))) q =>
    match r.1.translateAt core (s.team t).ctx q.2 acc 2 with
    | (s1, .ok pa) => (s1, r.2.map (fun l => l ++ [(q.1, pa)]))
    | (s1, .missing p z true) => ((s1.requestPage (s.team t).ctx p z acc false).1, none)
    | (s1, _) => (s1, none)) (s, some [])

/-- R276 steps 3 and 4: the record, with SAVEVALID written last. -/
def State.putRecord (s : State) (core ctx : Nat) (places : List (Nat × Nat)) (bs : List Byte) : State :=
  let put (s : State) (q : Nat × Nat) : State :=
    let row := (bs.drop q.1).take 128
    if q.1 = 0 then s.requestWrite core ctx (q.2 + 8) (row.drop 8) else s.requestWrite core ctx q.2 row
  let s1 := places.foldl put s
  match places with
  | (_, pa) :: _ => s1.requestWrite core ctx pa (bs.take 8)
  | [] => s1

/-! ### Saving (R276) -/

/-- R240, R313: the lines of global memory that a team's lanes monitor. -/
def Team.monitorLines (T : Team) : List Nat :=
  dedup (T.gangs.flatMap (fun p => p.2.allLanes.filterMap (fun l => match p.2.laneState l with
    | .waiting (.memory false b _ _) => some b
    | _ => none)))

/-- R313: teams that are to be spilled, with those whose spill has been asked for. -/
def State.spilling (s : State) (ts : List Nat) : List Nat :=
  dedup (ts ++ (s.teams.filter (fun p => p.2.onDie && (match p.2.stopReq with
    | some r => decide (r.reason = 3)
    | none => false))).map (·.1))

/-- R313: whether every monitor of the teams that are to be spilled together finds a free entry. -/
def State.monitorRoom (s : State) (ts : List Nat) : Bool :=
  let ls := (ts.flatMap (fun t => (s.team t).monitorLines)).filter (fun b => s.isLocal (b * 128))
  ls.all (fun b => decide ((s.slice (homeOf (b * 128))).spillMon.length +
    (ls.filter (fun c => decide (homeOf (c * 128) = homeOf (b * 128)))).length ≤ 1024))

def State.spillMonitors (s : State) (t : Nat) : State :=
  ((s.team t).monitorLines.filter (fun b => s.isLocal (b * 128))).foldl (fun (s : State) b =>
    s.modSlice (homeOf (b * 128)) (fun S => { S with spillMon := S.spillMon ++ [(b, t)] })) s

/-- R361: a save that finds no room: the rotation is skipped, or the privileged save ends. A team that a trap to the host stopped
stays stopped, and its save is tried again later. -/
def State.skipSave (s : State) (t : Nat) : State :=
  let T := s.team t
  match T.stopReq with
  | some r =>
    if r.gang.isSome then s.setTeam t { T with stopReq := some { r with stopped := some s.time }, tried := s.time }
    else s.setTeam t (({ T with stopReq := none } : Team).mapGangs (fun _ G => if G.stop = .saved then { G with stop := .none } else G))
  | none => s

/-- R276 step 2 begins for a team with its room reserved: matrix operations split, accumulates are flushed. -/
def State.beginSave (s : State) (t : Nat) : State :=
  let T := s.team t
  let s1 := s.splitTeam t
  let f := s1.nextId
  let s2 := (s1.startFlush T.ctx T.cores).modTeam t (fun T => { T with state := .saving, flush := some f })
  { s2 with parked := s2.parked.filter (fun q => decide (q.1 ≠ t)) }

/-- R361: room in the save area for the records of all the listed teams, or for none. -/
def State.reserveAll : List Nat → State → Option State
  | [], s => some s
  | t :: ts, s =>
    match s.saveRoom t with
    | none => none
    | some off => State.reserveAll ts (s.modTeam t (fun T => { T with saveOff := some off }))

/-- R218: while a `.nosplit` operation keeps the save waiting, the gangs issue; a gang that a trap to the host has stopped does not. -/
def State.letIssue (s : State) (t : Nat) : State :=
  s.modTeam t (fun T => T.mapGangs (fun g G =>
    if G.stop = .saved ∧ T.stopReq.bind (fun r => r.gang) ≠ some g then { G with stop := .none } else G))

/-- R273, R303: every gang of a team and of the rest of its exchange group has stopped: their saves begin together, unless a
`.nosplit` operation of one of them keeps them waiting (R218), or not all records have room, of which the host is told (R361). -/
def State.beginSaves (s : State) (t : Nat) : State :=
  let ts := (s.mates t).filter (fun u => decide ((s.team u).state = .placed) && !(s.team u).ended)
  let s1 := ts.foldl (fun (s : State) u => s.modTeam u (fun T =>
    { T with stopReq := T.stopReq.map (fun r => { r with stopped := some (r.stopped.getD s.time) }) })) s
  if ts.any s1.nosplitOp then ts.foldl (fun (s : State) u => s.letIssue u) s1
  else match State.reserveAll ts s1 with
  | some s2 => ts.foldl (fun (s : State) u => s.beginSave u) s2
  | none => (ts.foldl (fun (s : State) u => s.skipSave u) s1).tellHost (s.team t).ctx .saveAreaFull

def CopyEntry.ofTeam (t : Nat) (e : CopyEntry) : Bool := decide (e.teamGang.1 = t)

/-- R252: a started copy of a team: it has moved bytes, or the engine waits for a page of it. -/
def State.copyStarted (s : State) (t : Nat) : Bool :=
  s.cores.any (fun c => c.2.copyq.any (fun q => (q.2.missing.isSome || q.2.begun) && (match q.2.entries with
    | e :: _ => e.ofTeam t
    | [] => false)))

def State.flushedTeam (s : State) (T : Team) : Bool :=
  match T.flush with
  | some f => s.flushDone f
  | none => false

/-- R372, R377, R387, R395: the stores of a context that have left queues of a team's cores are at their home slices, and so are the
stores of other contexts there that left before a flush of the team began. -/
def State.storesHome (s : State) (T : Team) : Bool :=
  T.cores.all (fun c => (s.core c).out.all (fun w => decide (w.ctx ≠ T.ctx) && (match T.flush with
    | some f => decide (f ≤ w.id)
    | none => true)))

/-- R276 step 2, R303, R395: what the save waits for. -/
def State.drained (s : State) (t : Nat) : Bool :=
  let T := s.team t
  T.gangs.all (fun p => p.2.pend.all (fun q => q.done) && p.2.queue.isEmpty && p.2.port.isEmpty) &&
  s.storesHome T && !s.copyStarted t && s.flushedTeam T &&
  (decide (T.launch.xg = 0) || (s.groupTeams T.ctx T.serial T.groupNum).all (fun p => !s.xstToTeam p.1))

/-- R252: the copy entries of a team leave the queues for its record: core of the team, queue and entry. -/
def State.takeCopies (s : State) (t : Nat) : State :=
  let T := s.team t
  let found := s.cores.flatMap (fun c => c.2.copyq.flatMap (fun q =>
    (q.2.entries.filter (fun e => e.ofTeam t)).map (fun e => (c.1 - T.core, q.1, e))))
  let s1 := { s with cores := s.cores.map (fun (c : Nat × Core) => (c.1, { c.2 with copyq := c.2.copyq.map (fun (q : Nat × CopyQueue) =>
    (q.1, { q.2 with entries := q.2.entries.filter (fun e => !e.ofTeam t) })) })) }
  s1.modTeam t (fun T => { T with copies := found ++ T.copies })

/-- R420: the TLBs of a cluster and of its cores are emptied. -/
def State.emptyTlbs (s : State) (cl : Nat) : State :=
  (coresOf cl).foldl (fun (s : State) c => s.modCore c (fun C => { C with tlb := [] })) (s.modCluster cl (fun C => { C with tlb := [] }))

/-- R290, R420, R421: a cluster that its last team has left is unfused, and a reclaimed one goes back to its lender. -/
def State.settleCluster (s : State) (cl : Nat) : State :=
  if !s.clusterIdle cl then s
  else
    let C := s.cluster cl
    if C.reclaim.isSome then ((s.cleanCluster cl false).emptyTlbs cl).modCluster cl (fun C => { C with lent := none, reclaim := none })
    else if C.fused then s.cleanCluster cl false else s

/-- What a team leaves behind when it gives up its place. -/
def State.leavePlace (s : State) (t core : Nat) (cores : List Nat) : State :=
  let s1 := s.settleCluster (clusterOfCore core)
  cores.foldl (fun (s : State) c => (s.enterCopies c).returnMeter c (s.team t).ctx) s1

/-- R277: the reasons that relaunch a team at once, and a waiter that has been released meanwhile. -/
def State.afterSave (s : State) (t : Nat) : State :=
  let T := s.team t
  if T.reason = 1 ∨ T.reason = 2 ∨ T.reason = 4 ∨ T.reason = 5 then s.relaunch t
  else if T.reason = 3 ∧ (!T.flips.isEmpty ∨ T.gangs.any (fun p => !p.2.finished && !p.2.allWaiting)) then s.requeue t
  else s

/-- R86, R151: the windows of a stopped gang are over, and the flags that waited for their end are set. -/
def Gang.endWindows (G : Gang) : Gang := G.countWindows G.allLanes true

/-- R276 steps 3 to 5: the record is written and the team's resources are freed. The host is told of a trap that asked for the save
once it is done (R265). -/
def State.finishSave (s : State) (t : Nat) : State :=
  let s := s.modTeam t (fun T => T.mapGangs (fun _ G => G.endWindows))
  let T := s.team t
  let reason := match T.stopReq with
    | some r => r.reason
    | none => 1
  match s.recordPlaces t T.core .write with
  | (s1, none) => s1
  | (s1, some places) =>
    let key := s1.nextId
    let s2 := ({ s1 with nextId := key + 1 } : State).putRecord T.core T.ctx places (recordBytes T reason s1.time key)
    let s3 := ((s2.countSlots t).takeCopies t).leaveCbar t
    let s4 := if reason = 3 then s3.spillMonitors t else s3
    let s5 := s4.modTeam t (fun T => { T with
      state := .saved, reason := reason, saveKey := key, flush := none, stopReq := none, trapGang := T.stopReq.bind (fun r => r.gang) })
    let s6 := (s5.leavePlace t T.core T.cores).afterSave t
    if (T.stopReq.bind (fun r => r.gang)).isSome then s6.signal (fnOfPart (s.partOf T.ctx)) 1 else s6

/-! ### Restoring (R277) -/

/-- The fields of a record in memory. -/
structure Record where
  bytes : List Byte
  deriving DecidableEq, Repr

def Record.num (r : Record) (o n : Nat) : Nat := blockNum r.bytes o n
def Record.part (r : Record) (o n : Nat) : List Byte := (r.bytes.drop o).take n

/-- R278: the offset of a gang's block in the record. -/
def gangOffset (T : Team) (g : Nat) : Nat := T.sectionOffsets.getD 0 0 + g * (2048 + T.launch.poolBytes)

/-- R216, R279: the continuations of a gang's block with their windows; none where one is malformed. -/
def blockConts (bs : List Byte) : Option (List Contin) :=
  let places := [(1024, 968), (1280, 970), (1344, 971), (1408, 972)]
  (places.take (blockNum bs 969 1 % 8)).foldr (fun q r =>
    match r, continOf ((bs.drop q.1).take 64) with
    | some l, some c => some ({ c with win := blockNum bs q.2 1 % 16 } :: l)
    | _, _ => none) (some [])

/-- R211, R217: a continuation of a gang passes the checks that `mmac` makes. -/
def contOk (T : Team) (g : Nat) (G : Gang) (c : Contin) : Bool :=
  let o := continOp c 0 0 g
  !(c.pair && (!T.launch.pair || decide (g % 2 = 1) || decide (T.launch.gangs ≤ g + 1))) && decide (c.acc < usableAccs T.launch G) &&
  !operandsBad T g c.pair c.fmt c.kb c.acc o.ta o.tb o.ring

/-- R201: a value that VBND may hold (notes/assumptions/51.md). -/
def vbndLegal (L : Launch) (width n : Nat) : Bool := decide (n % 8 = 0) && decide (8 ≤ n) && decide (n ≤ min (poolRegs L width) 256)

/-- The VBND of a gang's block. -/
def blockVbnd (bs : List Byte) : Nat := blockNum bs 864 8 % 512

/-- R277, R376: whether a record in memory is valid for a team; `T1` is the team with what the record holds. -/
def recordValid (T T1 : Team) (r : Record) : Bool :=
  let o := T.sectionOffsets
  let z := T.sectionSizes
  let own (k : Nat) : Bool := decide (r.part (o.getD k 0) (z.getD k 0) = ownSection T.saveKey (o.getD k 0) (z.getD k 0))
  decide (r.num 0 8 = 1) && decide (r.num 8 8 = T.ref.toNat) && decide (r.num 24 1 ≠ 7) && decide (r.num 25 1 = T.gangs.length) &&
  decide (r.part 40 56 = o.flatMap (fun x => bytesOfNum 8 x)) && own 3 && own 5 && own 6 &&
  (upto 16).all (fun k => decide (r.num (o.getD 1 0 + 4 * k) 4 = (T.readF k).toNat)) &&
  (upto T.launch.tiles).all (fun k => tcfgLegal (BitVec.ofNat 64 (r.num (o.getD 1 0 + 64 + 8 * k) 8) &&& ~~~0x100000000#64)) &&
  let T2 := T1.mapGangs (fun g G => { G with vbnd := blockVbnd (r.part (gangOffset T g) 1536) })
  T.gangs.all (fun p =>
    let b := r.part (gangOffset T p.1) 1536
    decide (blockNum b 952 1 % 4 < 2) && decide (blockNum b 969 1 % 8 ≤ 4) && vbndLegal T.launch p.2.width (blockVbnd b) &&
    (match blockConts b with
     | some cs => cs.all (contOk T2 p.1 (T2.gang p.1))
     | none => false))

/-- R277: lanes that were Held, or Waiting on a future or a collective, issue their word afresh. -/
def Gang.unhold (G : Gang) : Gang :=
  G.eachLane G.allLanes (fun G l => match G.laneState l with
    | .waiting (.future _ _ _) => G.setLane l .ready
    | .waiting (.coll _ _) => G.setLane l .ready
    | .flush _ => G.setLane l .ready
    | .point _ => G.setLane l .ready
    | .rfe _ => G.setLane l .ready
    | _ => G)

def onMemory (timedOut : Bool) : WaitOn → Bool
  | .memory _ _ _ dl => decide (dl = some 0) == timedOut
  | _ => false

/-- R265, R277: RESUME skips the word at TPC for the lanes of the run that trapped. -/
def Gang.resumeAt (G : Gang) (old : Gang) (skip : Bool) : Gang :=
  G.eachLane (G.liveLanes.filter (fun l => decide (old.pc l = old.tpc) && decide (old.laneState l = .ready)))
    (fun G l => G.setPc l (if skip then G.tpc + 8 else G.tpc))

/-- R89, R90: the repetition that a restored gang is in, while lanes of it wait in the prefixed word. -/
def Gang.keepRep (G : Gang) (old : Option Progress) : Option Progress :=
  match old with
  | some (.rep n sd sa sb sc run) => if (lanesOf run G.width).any (fun l => (G.laneState l).isWaiting) then some (.rep n sd sa sb sc run) else none
  | _ => none

/-- R277, R279: a gang from its part of the record. Check errors of its registers stay (R499). `trapped` tells that its trap stopped the team. -/
def Gang.restore (G : Gang) (L : Launch) (bs : List Byte) (flips : List Nat) (trapped skip : Bool) : Gang :=
  let w (o : Nat) : W64 := BitVec.ofNat 64 (blockNum bs o 8)
  let G0 : Gang := { G.unhold with stop := .none, prog := none, pend := [], queue := [], port := [], failed := [], lost := [], yields := [],
                                   conts := (blockConts (bs.take 1536)).getD [] }
  let G1 := (G0.loadBlock (bs.take 1536) G.allLanes).writeSys 0x31 (w 960)
  let G2 : Gang := { G1 with
    tstat := w 952 &&& 0xDF, hset := w 976, vbnd := blockVbnd bs
    depth := (upto G.width).foldl (fun t l => tset 0 t l (blockNum bs (512 + 2 * l) 2 % 2048)) [] }
  let G3 := (upto 64).foldl (fun G r => G.writeS r (BitVec.ofNat 64 (blockNum bs (1536 + 8 * r) 8))) G2
  let pool := bs.drop 2048
  let G4 := (upto (poolRegs L G.width)).foldl (fun G r => (upto G.width).foldl (fun G l =>
    G.writeV l r (BitVec.ofNat 32 (blockNum pool (4 * (r * G.width + l)) 4))) G) G3
  let G5 := if trapped then G4.resumeAt G skip else G4
  let G5 : Gang := { G5 with prog := G5.keepRep G.prog }
  let G6 := ((G5.wake true (onMemory false)).wake false (onMemory true)).wake false onCbar
  let G7 := flips.foldl (fun G n => G.wake true (onBar n)) G6
  { G7 with ages := [], bad := G.bad }.testMasks

def tableOf (bs : List Byte) : Tbl Byte := writeBytes [] 0 bs

/-- R197, R278: a tile from the record; the follower's TCFG is the S9's own. -/
def restoreTile (T : Team) (r : Record) (j k : Nat) : Tile :=
  let o := T.sectionOffsets.getD 2 0 + 8704 * j
  let x := T.tile k
  let w : W64 := BitVec.ofNat 64 (r.num (T.sectionOffsets.getD 1 0 + 64 + 8 * j) 8)
  let y : Tile := if j < T.launch.tiles then { x.config w with rdy := w.getLsbD 32 } else x
  { y with data := tableOf (r.part o 8192), side := tableOf (r.part (o + 8192) 512), busy := none }

/-- The team with what its record holds. A poisoned unit stays poisoned, for no store has covered it (R289, R297). -/
def Team.restore (T : Team) (r : Record) : Team :=
  let o := T.sectionOffsets.getD 4 0
  let n := T.launch.scratchSpace
  let ks := T.tileKeys
  { T with
    tiles := ((upto ks.length).zip ks).foldl (fun t q => tput t q.2 (restoreTile T r q.1 q.2)) []
    scratch := tableOf (r.part o n)
    shadow := if T.launch.xg = 0 then [] else tableOf (r.part (o + n) n)
    flips := [] }

/-- R277: the bytes of a record, once its pages are present. -/
def State.readRecord (s : State) (t core : Nat) : State × Option (List (Nat × Nat) × Record) :=
  match s.recordPlaces t core .readWrite with
  | (s1, none) => (s1, none)
  | (s1, some places) =>
    let ctx := (s.team t).ctx
    let r := places.foldl (fun (r : State × List Byte) q =>
      if r.1.isLocal q.2 then
        let s1 := r.1.sliceRead core ctx (lineOf q.2)
        (s1, r.2 ++ readBytes s1.mem q.2 128)
      else match r.1.remoteRead core ctx q.2 128 true with
        | (s1, bs, _) => (s1, r.2 ++ bs)) (s1, [])
    (r.1, some (places, ⟨r.2⟩))

/-- The monitors of a team are gone. -/
def State.dropMonitors (s : State) (t : Nat) : State :=
  { s with slices := s.slices.map (fun (q : Nat × Slice) => (q.1, { q.2 with spillMon := q.2.spillMon.filter (fun m => decide (m.2 ≠ t)) })) }

/-- R277: a team is loaded from its valid record onto a core. Its copy entries enter the queues of its cores as there is room (R246, R252). -/
def State.loadTeam (s : State) (t core : Nat) (places : List (Nat × Nat)) (r : Record) : State :=
  let T := s.team t
  let gangs := T.gangs.map (fun p => p.2.restore T.launch (r.part (gangOffset T p.1) (2048 + T.launch.poolBytes)) T.flips
    (decide (T.reason = 6) && T.trapGang == some p.1) (decide (r.num 26 1 = 1)))
  let s1 := match places with
    | (_, pa) :: _ => s.requestWrite core T.ctx pa (List.replicate 8 0)
    | [] => s
  let s2 := (s1.dropMonitors t).setTeam t { T.restore r with saveOff := none, reason := 0, trapGang := none }
  let s3 := (if T.launch.pair then [core, core + 1] else [core]).foldl (fun (s : State) c => s.freshCode t c) (s2.placeTeam t core gangs)
  (s3.team t).cores.foldl (fun (s : State) c => s.enterCopies c) s3

/-- R277: a record that is not valid: the team does not run, and the host is told. -/
def State.badRecord (s : State) (t : Nat) : State :=
  (s.modTeam t (fun T => { T with state := .saved, reason := 7 })).tellHost (s.team t).ctx .badRecord

/-! ### Continuations (R216) -/

/-- R216, R217, R222: the next saved continuation of a gang is accepted, if its array has room. The record's check (R277) has made the
other checks of R211 on it; one for an array that has been disabled meanwhile ends in ECC, once for the gang. -/
def State.acceptConts (s : State) (t g : Nat) : State :=
  let G := s.gang t g
  match G.conts with
  | [] => s
  | c :: rest =>
    let T := s.team t
    let pend (id : Nat) (ecc : Option (LaneMask × W64)) : Pend :=
      ⟨id, c.word, [.c c.acc], bitsOf G.liveLanes, G.liveLanes.map (fun l => (l, c.win)), .matrix (id - 1), [], [], ecc, false, [], none⟩
    if (s.core G.core).matOff || (c.pair && (s.core (followerCore T)).matOff) then
      { s.modGang t g (fun G => { G with
          conts := rest, pend := if G.pend.any (fun q => q.late && q.isMatrix) then G.pend else G.pend ++ [pend (s.nextId + 1) (some (bitsOf G.liveLanes, 0))] })
        with nextId := s.nextId + 2 }
    else if s.arrayBusy G.core || (c.pair && s.arrayBusy (followerCore T)) then s
    else
      let o := continOp c s.nextId t g
      let s1 := ({ s with nextId := s.nextId + 1 } : State).enterArray o
      let p : Pend := { pend s1.nextId none with kind := .matrix o.id }
      { s1.modGang t g (fun G => { G with conts := rest, pend := G.pend ++ [p] }) with nextId := s1.nextId + 1 }

end Sys2Proof.Machine
end

