-- ==== Sys2Proof/Machine/Teams.lean ====
section
/-! DEFINITION. The life of teams (16 R354, R358 to R360, R374, R375; 10 R240; 11 R273 to R277, R280, R281; 20 R420, R421). -/

namespace Sys2Proof.Machine

/-! ### Discarding a team's work -/

/-- R218: the matrix operations of a team are discarded. -/
def State.dropOps (s : State) (t : Nat) : State :=
  { s with cores := s.cores.map (fun (c : Nat × Core) => (c.1, { c.2 with matq := c.2.matq.filter (fun o => decide (o.team ≠ t)) })) }

/-- A queue without the entries of a team; `started` keeps the entry on which the engine works. -/
def CopyQueue.without (Q : CopyQueue) (t : Nat) (started : Bool) : CopyQueue :=
  match Q.entries with
  | [] => Q
  | e :: rest =>
    let keep := !e.ofTeam t || (started && (Q.missing.isSome || Q.begun))
    { Q with entries := (if keep then [e] else []) ++ rest.filter (fun x => !x.ofTeam t), missing := if keep then Q.missing else none,
             begun := keep && Q.begun }

def State.dropCopies (s : State) (t : Nat) (started : Bool) : State :=
  { s.modTeam t (fun T => { T with copies := [] }) with cores := s.cores.map (fun (c : Nat × Core) =>
    (c.1, { c.2 with copyq := c.2.copyq.map (fun (q : Nat × CopyQueue) => (q.1, q.2.without t started)) })) }

/-- R251: faults of copies that no gang has been told of are told to the host when the team ends. -/
def State.dropFaults (s : State) (t : Nat) (tell : Bool) : State :=
  let mine (q : CopyQueue) : Bool := q.faults.any (fun f => decide (f.2.2 / 16 = t))
  let any := s.cores.any (fun c => c.2.copyq.any (fun q => mine q.2))
  let s1 : State := { s with cores := s.cores.map (fun (c : Nat × Core) =>
    (c.1, { c.2 with copyq := c.2.copyq.map (fun (q : Nat × CopyQueue) => (q.1, { q.2 with faults := q.2.faults.filter (fun f => decide (f.2.2 / 16 ≠ t)) })) })) }
  if any && tell then s1.signal (fnOfPart (s.partOf (s.team t).ctx)) 1 else s1

def State.dropLadle (s : State) (t : Nat) : State :=
  { s with dies := s.dies.map (fun (d : Nat × Die) => (d.1, { d.2 with ladle := d.2.ladle.filter (fun c => decide (c.team ≠ t)) })) }

/-- The page requests that a gang waits for. -/
def Gang.requests (G : Gang) : List Nat :=
  match G.stop with
  | .replay ids _ => ids
  | _ => []

/-- R375: the page requests that only this team waits for are dropped. -/
def State.dropRequests (s : State) (t : Nat) : State :=
  let mine := dedup ((s.team t).gangs.flatMap (fun g => g.2.requests))
  let others (id : Nat) : Bool :=
    s.teams.any (fun p => decide (p.1 ≠ t) && p.2.gangs.any (fun g => g.2.requests.elem id)) ||
    s.funcs.any (fun f => f.2.rings.any (fun r => r.2.pkts.any (fun p => decide (p.prq = some id))))
  (mine.filter (fun id => !others id)).foldl State.freePrq { s with parked := s.parked.filter (fun q => decide (q.1 ≠ t)) }

/-- What the engines of the die still do for a team (R360). -/
def State.engineWork (s : State) (t : Nat) : Bool :=
  s.cores.any (fun c => c.2.matq.any (fun o => decide (o.team = t)) || c.2.copyq.any (fun q => q.2.entries.any (fun e => e.ofTeam t))) ||
  !(s.team t).copies.isEmpty || s.dies.any (fun d => d.2.ladle.any (fun c => decide (c.team = t)))

/-! ### Placement (R354, R356) -/

/-- R353: the launch reference of a team of a grid launch. -/
def gridRef (ctx serial : Nat) : W64 := BitVec.ofNat 64 (serial % 2 ^ 32 * 256 + ctx)

/-- R354: the team of an index of a launch joins the queues; `T` is any team of the launch. -/
def State.queueIndex (s : State) (T : Team) (k : Nat) : State :=
  if T.launch.gx * T.launch.gy * T.launch.gz ≤ k then s
  else
    { s.setTeam s.nextId { ctx := T.ctx, ref := T.ref, launch := T.launch, index := k, serial := T.serial, grid := T.grid,
                           imgAddr := T.imgAddr, order := T.order } with nextId := s.nextId + 1 }

/-- R354: the next team of a launch, or its next exchange group. -/
def State.queueNext (s : State) (T : Team) (k : Nat) : State :=
  if T.grid.isNone then s else (upto (max 1 T.launch.xg)).foldl (fun (s : State) i => s.queueIndex T (k + i)) s

/-- Whether a queued team comes from a save record. -/
def Team.hasRecord (T : Team) : Bool := decide (T.state = .queued) && decide (T.saveKey ≠ 0)

/-- R354, R356: what the dispatcher of a die chose, when it is this team on this core. -/
def State.chosenPlaces (s : State) (die team core : Nat) (saved : Bool) : List (Nat × Nat) :=
  match s.nextPlacement die with
  | some (_, l) => if l.elem (team, core) && l.all (fun q => (s.team q.1).hasRecord == saved) then l else []
  | none => []

def execTeamPlacement (die team core : Nat) (s : State) : Out :=
  match s.chosenPlaces die team core false with
  | [] => .next s
  | l =>
    let T := s.team team
    let s1 := l.foldl (fun (s : State) q => s.firstPlacement q.1 q.2) s
    let k := l.foldl (fun n q => max n (s.team q.1).index) 0
    .next ((s1.queueNext T (k + 1)).watch T.ctx)

/-! ### Retirement (R360, R372, R374) -/

/-- R374: what becomes of a child's future entry when the child has ended. -/
def State.endFuture (s : State) (T : Team) : State :=
  if !T.child then s
  else
    let E := s.future (futKey T.handle)
    if E.gen ≠ futGen T.handle then s
    else if E.state = .running then s.completeFuture T.handle (T.ret.getD (List.replicate 8 0))
    else if E.state = .orphaned then s.freeFuture (futKey T.handle)
    else s

/-- R478: a launch completes when its last team has retired. -/
def State.endLaunch (s : State) (T : Team) : State :=
  match T.grid with
  | some (fn, ring, pos) =>
    if s.teams.any (fun p => decide (p.2.ctx = T.ctx) && decide (p.2.serial = T.serial) && decide (p.2.state ≠ .retired)) then s
    else s.completePkt fn ring pos 1 0
  | none => s

/-- An exchange group whose teams have all ended is forgotten. -/
def State.endGroup (s : State) (T : Team) : State :=
  if T.launch.xg = 0 then s
  else if (s.groupTeams T.ctx T.serial T.groupNum).all (fun p => decide (p.2.state = .retired)) then
    { s with groups := s.groups.filter (fun X => !X.isOf T) }
  else s.tryExchange T

/-- R360: a team leaves. `placed` tells that it holds a place. -/
def State.endTeam (s : State) (t : Nat) (placed : Bool) : State :=
  let T := s.team t
  let cores := T.cores
  let s1 := if placed then s.countSlots t else s
  let s2 := ((s1.endFuture T).dropRegs t).dropMonitors t
  let s3 := if placed then s2.leaveCbar t else s2
  let s4 := s3.modTeam t (fun T => { T with state := .retired, gangs := [], stopReq := none, saveOff := none, flush := none, copies := [] })
  let s5 := (s4.endGroup T).endLaunch T
  (if placed then s5.leavePlace t T.core cores else s5).watch T.ctx

/-- R360: whether nothing of a finished team is left but its accumulates. -/
def Team.storesDone (T : Team) : Bool :=
  T.gangs.all (fun p => p.2.queue.isEmpty && p.2.port.isEmpty)

/-- R360, R372: a team whose gangs have all finished: its accumulates are flushed first, and it retires when nothing of it is left. One
that ended in `fut.ret` has released its stores at device scope. -/
def execTeamRetire (team : Nat) (s : State) : Out :=
  let T := s.team team
  if T.state ≠ .placed ∨ !T.ended then .next s
  else match T.flush with
    | none => .next ((s.startFlush T.ctx T.cores).modTeam team (fun T => { T with flush := some s.nextId }))
    | some f =>
      if s.flushDone f && T.storesDone && (T.ret.isNone || s.storesHome T) && !s.engineWork team then .next ((s.dropFaults team true).endTeam team true)
      else .next s

/-! ### The end of a context's teams (R280) -/

/-- R218, R280, R395: a team of a killed context stops with no save, and the stores in its queues are made no more
(notes/assumptions/22.md). A team that holds a place keeps it
until the accumulates of the context are delivered (R347). -/
def State.killTeam (s : State) (t : Nat) : State :=
  let T := s.team t
  let s1 := if T.onDie then (s.resolveMisses t).modTeam t (fun T => T.mapGangs (fun _ G => { G with queue := [] })) else s
  let s2 := (((s1.dropOps t).dropCopies t false).dropFaults t false).dropLadle t
  (s2.modTeam t (fun T => { T with state := if T.onDie then .killed else .retired, stopReq := none, saveOff := none, flush := none,
                                   copies := [], f := [] })).dropMonitors t

/-- R280: the place of a team of a killed context is freed. -/
def State.freeKilled (s : State) (t : Nat) : State :=
  let T := s.team t
  let s1 := if T.onDie then (s.countSlots t).leaveCbar t else s
  let s2 := s1.modTeam t (fun T => { T with state := .retired, gangs := [], stopReq := none, saveOff := none, flush := none, copies := [], f := [] })
  if T.onDie then s2.leavePlace t T.core T.cores else s2

/-- The teams of a context that have not retired. -/
def State.liveTeams (s : State) (c : Nat) : List (Nat × Team) :=
  s.teams.filter (fun p => decide (p.2.ctx = c) && decide (p.2.state ≠ .retired))

/-- R280, R374, R432, R434, R480: the kill of a context ends: everything that it holds is freed, and the host is told on vector 1 of the
partition's function. -/
def State.endKill (s : State) (c : Nat) : State :=
  let ts := s.liveTeams c
  let cores := dedup (ts.flatMap (fun p => p.2.cores))
  let s2 := ts.foldl (fun (s : State) p => s.freeKilled p.1) s
  let s3 : State := { s2 with
    futures := s2.futures.map (fun (p : Nat × FutEntry) =>
      if p.2.state ≠ .free ∧ p.2.ctx = c then (p.1, { gen := if p.2.gen = 2 ^ 18 - 1 then 1 else p.2.gen + 1 }) else p)
    groups := s2.groups.filter (fun X => decide (X.ctx ≠ c))
    clusters := s2.clusters.map (fun (p : Nat × Cluster) => (p.1, { p.2 with cbars := p.2.cbars.filter (fun E => decide (E.ctx ≠ c)) })) }
  let s4 := (s3.killPrqs c).killPackets c
  let s5 := cores.foldl (fun (s : State) k => s.returnMeter k c) s4
  (s5.modCtx c (fun C => { C with wdStart := none, wdDefer := false, dying := none, why := .killed })).tellHost c (s.ctx c).why

/-- R347: the kills whose accumulates have been delivered end. -/
def State.settleKills (s : State) : State :=
  s.ctxs.foldl (fun (s : State) q => match (s.ctx q.1).dying with
    | some f => if s.flushDone f then s.endKill q.1 else s
    | none => s) s

/-- R280, R347: a context is killed: its teams stop, and once its accumulates are delivered all that it holds is freed and the host is
told why. -/
def State.killFor (s : State) (c : Nat) (why : Notice) : State :=
  if (s.ctx c).dying.isSome then s
  else
    let f := s.nextId
    let s0 : State := { s with parked := s.parked.filter (fun q => decide ((s.team q.1).ctx ≠ c)) }
    let s1 := s0.startFlush c (s.cores.map (·.1))
    let s2 := (s.liveTeams c).foldl (fun (s : State) p => s.killTeam p.1) s1
    (s2.modCtx c (fun C => { C with wdStart := none, wdDefer := false, dying := some f, why := why })).settleKills

def State.killTold (s : State) (c : Nat) : State := s.killFor c .killed

/-- R335, R336, R347: values reach their block in memory; a poisoned unit stays poisoned and is reported. -/
def State.deliverSlots (s : State) (core ctx block : Nat) (op : AccOpc) (slots : Tbl W32) : State :=
  if s.isLocal (block * 64) then
    let h := homeOf (block * 64)
    let s0 := (s.settleLine (block / 2)).sliceWriteLine core ctx (block / 2) none
    let s1 := s0.modSlice h (fun S => S.clearRefusal (block / 2))
    let s2 : State := { s1 with mem := applySlots s1.mem block op slots }
    if slots.any (fun q => s2.poison.elem (block * 4 + q.1 / 4)) then s2.report 4 2 (s.partOf ctx) ctx (h / 32) (h % 32) (block * 64) else s2
  else s.sendSlots ctx block slots

/-- R347: every accumulate of a context is delivered, within one step of the model (notes/assumptions/1.md). -/
def State.deliverAll (s : State) (c : Nat) : State :=
  s.cores.foldl (fun (s : State) k =>
    let C := s.core k.1
    let pkts := C.pkts.filter (fun p => decide (p.ctx = c))
    let s1 := (pkts.filter (fun p => decide (p.stage = .accepted))).foldl (fun (s : State) p => s.settleLine (p.block / 2)) s
    let s2 := (pkts.filter (fun p => decide (p.stage ≠ .accepted) && decide (p.stage ≠ .applied))).foldl
      (fun (s : State) p => (if p.granted && s.isLocal (p.block * 64) then s.modSlice (homeOf (p.block * 64)) (fun S => (S.unbook k.1).serve) else s).deliverSlots
        k.1 c p.block p.op p.slots) s1
    let s3 := (C.resid.filter (fun e => decide (e.ctx = c))).foldl (fun (s : State) e =>
      ((s.unbookEntry k.1 e).chargePacket k.1 c e.block 15).deliverSlots k.1 c e.block e.op e.slots) s2
    let s4 := ((s3.portList k.1).filter (fun x => decide (x.2.2.ctx = c))).foldl (fun (s : State) x =>
      (s.chargePacket k.1 c x.2.2.block 15).deliverSlots k.1 c x.2.2.block x.2.2.op x.2.2.slots) s3
    s4.modCore k.1 (fun C => { C with pkts := C.pkts.filter (fun p => decide (p.ctx ≠ c)), resid := C.resid.filter (fun e => decide (e.ctx ≠ c)) })) s

/-- R280, R496: a kill that ends within one step of the model. -/
def State.killNow (s : State) (c : Nat) (why : Notice) : State :=
  let s1 := s.killFor c why
  if (s1.ctx c).dying.isSome then (s1.deliverAll c).endKill c else s1

/-! ### Spills (R240, R274) -/

/-- R240: waits that may be spilled. -/
def spillWait : WaitOn → Bool
  | .bar _ => true
  | .memory _ _ _ _ => true
  | .future _ _ _ => true
  | .coll _ _ => true
  | _ => false

/-- R240: every live lane of a gang has waited long enough. -/
def Gang.longWait (G : Gang) (now lim : Nat) : Bool :=
  decide (G.stop = .none) && G.liveLanes.all (fun l => (match G.laneState l with
    | .waiting w => spillWait w
    | _ => false) && decide (tget 0 G.since l + lim ≤ now))

/-- R274: an energy stop has lasted long enough. -/
def Gang.longStop (G : Gang) (now lim : Nat) : Bool :=
  match G.stop with
  | .energy _ since => decide (since + lim ≤ now)
  | _ => false

/-- R240, R274: the reason for which a team may be spilled. -/
def State.spillReason (s : State) (t : Nat) : Option Nat :=
  let T := s.team t
  let lim := (s.ctx T.ctx).spillt * Config.usPeriods
  let gs := T.gangs.filter (fun p => !p.2.finished)
  if T.state ≠ .placed ∨ T.stopReq.isSome ∨ lim = 0 ∨ gs.isEmpty ∨ gs.any (fun p => decide (p.2.level = 2)) then none
  else if gs.all (fun p => p.2.longWait s.time lim) then some 3
  else if gs.all (fun p => p.2.longWait s.time lim || p.2.longStop s.time lim) then some 4
  else none

/-- R240, R357: the dispatcher of a die holds a team queued for placement. -/
def State.teamQueued (s : State) (d : Nat) : Bool := s.contextOrder.any (fun c => (s.headTeam d c).isSome)

/-- R215: an operation of a team has run its last k-block, and has no boundary left at which it could be split. -/
def State.opsEnd (s : State) (t : Nat) : Bool := s.cores.any (fun c => c.2.matq.any (fun o => decide (o.team = t) && decide (o.kb ≤ o.p)))

/-- R273: whether the team, and its whole group, has stopped. -/
def State.groupStopped (s : State) (t : Nat) : Bool :=
  (s.mates t).all (fun u => decide ((s.team u).state ≠ .placed) ||
    ((s.team u).stopReq.isSome && (s.team u).allStopped && !s.opsEnd u))

/-- R273, R303: the gangs of a team and of its group stop where they may, and once all have, the saves begin. -/
def State.goOnStopping (s : State) (t : Nat) : State :=
  let s1 := (s.mates t).foldl (fun (s : State) u => s.markStops u) s
  if s1.groupStopped t then s1.beginSaves t else s1

/-- R240, R303, R313, R361: the test of a team. -/
def execSpillTest (team : Nat) (s : State) : Out :=
  let T := s.team team
  let s1 := s.modTeam team (fun T => { T with tried := s.time })
  let ts := s.mates team
  let rs := ts.filterMap s.spillReason
  match rs with
  | [] => .next s1
  | r :: _ =>
    if rs.length < ts.length ∨ rs.any (fun x => decide (x ≠ r)) ∨ !s.teamQueued (dieOfCore T.core) ∨ !s.monitorRoom (s.spilling ts) then .next s1
    else .next ((ts.foldl (fun (s : State) u => s.askOne u r true none) s1).goOnStopping team)

/-! ### Pre-emption and saves (R273 to R276) -/

def execRotationPreemption (team : Nat) (s : State) : Out := .next (s.askStop team 1)

/-- R278: a context save by privileged command. -/
def execPrivilegedContextSave (ctx : Nat) (s : State) : Out :=
  .next ((s.teams.filter (fun p => decide (p.2.ctx = ctx) && decide (p.2.state = .placed))).foldl (fun (s : State) p => s.askStop p.1 8) s)

/-- R273: ROTT has passed since the request: every gang stops at its next boundary. -/
def execRotationTimeout (team : Nat) (s : State) : Out :=
  let T := s.team team
  match T.stopReq with
  | none => .next s
  | some r =>
    if T.state ≠ .placed ∨ r.forced ∨ r.stopped.isSome ∨ s.time < r.since + r.limit * Config.usPeriods then .next s
    else .next ((s.modTeam team (fun T => { T with stopReq := some { r with forced := true, reason := if r.reason = 1 then 2 else r.reason } })).markStops team)

/-- R303: a stop of one team of an exchange group is a stop of all. -/
def State.askMates (s : State) (t : Nat) (r : StopReq) : State :=
  (s.mates t).foldl (fun (s : State) u => s.askOne u r.reason r.forced none) s

/-- R280: a deferred kill follows the save. -/
def State.deferredKill (s : State) (c : Nat) : State :=
  if (s.ctx c).wdDefer && !s.teams.any (fun p => decide (p.2.ctx = c) && decide (p.2.state = .saving)) then s.killFor c .watchdog else s

/-- R276: a stop of a team goes on: its gangs stop, the save begins, and the record is written once all is drained. -/
def execTeamSave (team : Nat) (s : State) : Out :=
  let T := s.team team
  if T.state = .placed ∧ s.orphan T then .next s
  else if T.state = .saving then
    if s.drained team then
      let s1 := s.finishSave team
      if (s1.team team).state = .saving then .next (s1.modTeam team (fun T => { T with tried := s.time }))
      else .next ((s1.deferredKill T.ctx).watch T.ctx)
    else .next s
  else match T.stopReq with
  | none => .next s
  | some r =>
    if T.state ≠ .placed ∨ T.ended then .next s else .next ((s.askMates team r).goOnStopping team)

/-- R277: a team comes back from its record; an exchange group comes back whole. -/
def execTeamRestore (die team core : Nat) (s : State) : Out :=
  match s.chosenPlaces die team core true with
  | [] => .next s
  | l =>
    let r := l.foldl (fun (r : State × List ((Nat × Nat) × Option (List (Nat × Nat) × Record))) q =>
      match r.1.readRecord q.1 q.2 with
      | (s1, x) => (s1, r.2 ++ [(q, x)])) (s, [])
    if r.2.any (fun q => q.2.isNone) then
      .next (l.foldl (fun (s1 : State) q => s1.modTeam q.1 (fun T => { T with tried := s.time })) r.1)
    else
      let got := r.2.filterMap (fun q => q.2.map (fun x => (q.1, x)))
      if got.all (fun q => recordValid (r.1.team q.1.1) ((r.1.team q.1.1).restore q.2.2) q.2.2) then
        .next ((got.foldl (fun (s : State) q => s.loadTeam q.1.1 q.1.2 q.2.1 q.2.2) r.1).watch (s.team team).ctx)
      else .next (got.foldl (fun (s : State) q => s.badRecord q.1.1) r.1)

/-- R280: the watchdog of a context expires; a save in progress defers the kill. -/
def execWatchdogExpiry (ctx : Nat) (s : State) : Out :=
  let C := s.ctx ctx
  match C.wdStart with
  | none => .next s
  | some t0 =>
    if C.wdogNow = 0 ∨ s.time < t0 + C.wdogNow * 1000 * Config.usPeriods then .next s
    else if s.teams.any (fun p => decide (p.2.ctx = ctx) && (decide (p.2.state = .saving) || (match p.2.stopReq with
        | some r => r.stopped.isSome
        | none => false))) then .next (s.modCtx ctx (fun C => { C with wdDefer := true }))
    else .next (s.killFor ctx .watchdog)

/-- R281: the bytes that a save which is not complete has written of its record: some of its rows (notes/assumptions/70.md), with
SAVEVALID 0. -/
def State.partRecord (s : State) (t : Nat) : State :=
  let T := s.team t
  if T.state ≠ .saving then s
  else match s.recordPlaces t T.core .write with
  | (_, none) => s
  | (s1, some places) =>
    let bs := List.replicate 8 0 ++ (recordBytes T ((T.stopReq.map (·.reason)).getD 1) s1.time s1.nextId).drop 8
    let written (i : Nat) : Bool := i = 0 || (Config.freeWord (s1.fuel + i / 64)).getLsbD (i % 64)
    ({ s1 with fuel := s1.fuel + (places.length + 63) / 64, nextId := s1.nextId + 1 } : State).putRecord T.core T.ctx
      ((((upto places.length).zip places).filter (fun q => written q.1)).map (·.2)) bs

/-- R281: 500 µs after every gang stopped, the save is not complete. -/
def execSaveBoundExpiry (team : Nat) (s : State) : Out :=
  let T := s.team team
  match T.stopReq with
  | none => .next s
  | some r =>
    match r.stopped with
    | some t0 => if T.onDie && decide (t0 + 500 * Config.usPeriods ≤ s.time) then .next ((s.partRecord team).killFor T.ctx .unsaved) else .next s
    | none => .next s

/-! ### Lending (R420, R421) -/

/-- R496: a lease scrub of a quarter is in progress. -/
def State.scrubbing (s : State) (q : Nat) : Bool := s.scrubs.any (fun x => match x.scope with
  | some p => (s.part p).hasQuarter q
  | none => true)

/-- R420: whether a cluster may be lent. -/
def State.lendable (s : State) (cl : Nat) : Bool :=
  let C := s.cluster cl
  let q := cl / 8
  !s.scrubbing q && !(s.dieOf (cl / 32)).failed && C.lent.isNone && C.reclaim.isNone && !C.fused && s.clusterIdle cl && !(s.quarter q).drained &&
  (match s.ownerOf q with
   | none => (s.quarter q).pool
   | some o => (s.part o).lends (q % 16) &&
       !s.teams.any (fun p => decide (p.2.state = .queued) && decide (s.partOf p.2.ctx = o) && s.runnable p.2.ctx && s.waitsOn (cl / 32) p.2))

/-- The head team of a context of a partition that a die cannot place. -/
def State.stuckHead (s : State) (d p : Nat) (test : Nat → Bool) : Bool :=
  s.contextOrder.any (fun c => decide (s.partOf c = p) && (match s.headTeam d c with
    | some (t, T) => (s.placesFor d t T).isNone && test t
    | none => false))

/-- R420: the dispatcher of a die lends a cluster to a partition. -/
def execClusterLend (cluster part : Nat) (s : State) : Out :=
  if s.lendable cluster && (s.part part).borrows && decide (s.ownerOf (cluster / 8) ≠ some part) &&
      s.stuckHead (cluster / 32) part (fun t => (s.saveRoom t).isSome) then
    .next ((s.cleanCluster cluster false).modCluster cluster (fun C => { C with lent := some part }))
  else .next s

/-- R421: a reclaim begins: the borrower's teams are pre-empted. -/
def State.startReclaim (s : State) (cl : Nat) : State :=
  let C := s.cluster cl
  if C.lent.isNone ∨ C.reclaim.isSome then s
  else
    let s1 := s.modCluster cl (fun C => { C with reclaim := some s.time })
    ((s.clusterTeams cl).foldl (fun (s : State) p => s.askStop p.1 5) s1).settleCluster cl

/-- R421: a team of the lending partition cannot be placed on its unlent clusters. -/
def execClusterReclaim (cluster : Nat) (s : State) : Out :=
  match s.ownerOf (cluster / 8) with
  | some o => if s.stuckHead (cluster / 32) o (fun _ => true) then .next (s.startReclaim cluster) else .next s
  | none => .next s

/-- R421: a gang at LEVEL 2 has kept a reclaim waiting for 1 ms. -/
def execReclaimRefusedTimeout (team : Nat) (s : State) : Out :=
  let T := s.team team
  match T.stopReq with
  | none => .next s
  | some r =>
    if T.state = .placed ∧ r.reason = 5 ∧ (s.mates team).any (fun u => match (s.cluster (clusterOfCore (s.team u).core)).reclaim with
          | some t0 => decide (t0 + 1000 * Config.usPeriods ≤ s.time)
          | none => false) ∧
        T.gangs.any (fun p => !p.2.finished && decide (p.2.level = 2)) then .next (s.killFor T.ctx .reclaimRefused)
    else .next s

/-! ### Reclamation of futures (R374, R375) -/

/-- R374: a gang that has stopped for the reclamation. -/
def Gang.reclaimable (G : Gang) : Bool :=
  G.finished || G.allWaiting || (match G.stop with
    | .saved => true
    | .energy _ _ => true
    | _ => false)

/-- R374, R375: a child in a record ends. The gangs of a child on a die that Wait, are Held in a spawn or are energy-stopped stop at once;
once all have stopped it loses what it has not started, and retires under R360. -/
def execFutureReclaim (team : Nat) (s : State) : Out :=
  let T := s.team team
  if !s.orphan T then .next s
  else if T.state = .saved ∨ T.state = .queued then .next (s.endTeam team false)
  else if T.state = .placed ∧ !T.allFinished ∧ !T.stopAtOnce.gangs.all (fun p => p.2.reclaimable) then .next (s.setTeam team T.stopAtOnce)
  else if T.state = .placed ∧ !T.allFinished then
    let s1 := T.gangs.foldl (fun (s : State) g => s.drainAll team g.1) (s.resolveMisses team)
    let s2 := ((s1.dropOps team).dropCopies team true).dropRequests team
    .next (s2.modTeam team (fun T => ({ T with stopReq := none } : Team).mapGangs (fun _ G =>
      { (G.endWindows).setLanes G.allLanes .exited with stop := .none, pend := [], prog := none, conts := [] })))
  else .next s

/-! ### Request limiters (R322) -/

/-- R322: RATE flits for every 1,024 uncore cycles, up to BURST. -/
def execLimiterRefill (die part : Nat) (s : State) : Out :=
  let D := s.dieOf die
  let n := s.time / 1024 - tget 0 D.limAt part / 1024
  if n = 0 then .next s
  else .next (s.modDie die (fun D => { D with
    limiter := tput D.limiter part (min (D.burst part : Int) (tget 0 D.limiter part + n * D.rate part))
    limAt := tput D.limAt part s.time }))

end Sys2Proof.Machine
end

