-- ==== Sys2Proof/Machine/Fabric.lean ====
section
/-! DEFINITION. Fabric events (27 R531, R532, R536, R538 to R541, R551) and lost homes (15 R343). -/

namespace Sys2Proof.Machine

/-! ### Homes that are lost (R343, R541) -/

/-- R343, R265: a save or a retirement that waits on a lost addend raises ECC with the block's physical address. The team has stopped
or finished, so no lane enters a handler, and the host handles the trap of its first gang that has not finished, or of its first
gang: the record holds it, with reason 6 (notes/assumptions/60.md). An orphan has none (R359). -/
def State.saveEcc (s : State) (t pa : Nat) : State :=
  let T := s.team t
  match T.gangs.find? (fun p => T.allFinished || !p.2.finished) with
  | none => s
  | some (g, G) =>
    if s.orphan T then s
    else
      let ls := if T.allFinished then G.allLanes else G.liveLanes
      let pc := G.pc (ls.headD 0)
      let run := ls.filter (fun l => decide (G.pc l = pc))
      s.setTeam t { T.setGang g (G.record pc { causes := causeAll run 12, addr := BitVec.ofNat 64 pa } G.level true) with
        flush := if T.state = .saving then T.flush else none, stopReq := some (T.trapRequest g 6 s.time) }

/-- R343: an `acc.flush` that waits on a lost addend raises ECC with the block's physical address, and so does a save or a
retirement. -/
def State.flushEcc (s : State) (f pa : Nat) : State :=
  s.teams.foldl (fun (s : State) T =>
    let s1 := if T.2.flush = some f then s.saveEcc T.1 pa else s
    T.2.gangs.foldl (fun (s : State) g =>
      let G := s.gang T.1 g.1
      let run := G.liveLanes.filter (fun l => decide (G.laneState l = .flush f))
      match run with
      | [] => s
      | l0 :: _ => (s.setGang T.1 g.1 (G.setLanes run .ready)).deliver T.1 g.1 run (G.pc l0) { causes := causeAll run 12, addr := BitVec.ofNat 64 pa }) s1) s

/-- R343, R541: entries, unanswered packets and waiting addends of lost homes are discarded and reported. -/
def State.discardAddends (s : State) (lost : Nat → Bool) (source : Nat) : State :=
  s.cores.foldl (fun (s : State) c =>
    let C := s.core c.1
    let es := C.resid.filter (fun e => lost (e.block * 64))
    let ps := C.pkts.filter (fun p => lost (p.block * 64))
    let gs := (s.portList c.1).filter (fun x => lost (x.2.2.block * 64))
    let covs := es.flatMap (fun e => e.cov.map (fun f => (f, e.block * 64))) ++ ps.flatMap (fun p => p.cov.map (fun f => (f, p.block * 64))) ++
      gs.flatMap (fun x => x.2.2.cov.map (fun f => (f, x.2.2.block * 64)))
    let s1 := s.modCore c.1 (fun C => { C with
      resid := C.resid.filter (fun e => !lost (e.block * 64)), pkts := C.pkts.filter (fun p => !lost (p.block * 64)) })
    let s2 := ps.foldl (fun (s : State) p => if s.isLocal (p.block * 64) then s
      else { s with remoteAcc := tmod 0 s.remoteAcc (homeKey p.block) (· - 1) }) s1
    let s3 := gs.foldl (fun (s : State) q => s.modGang q.1 q.2.1 (fun G => { G with port := G.port.filter (fun a => !lost (a.block * 64)) })) s2
    let blocks := dedup (es.map (fun e => (e.ctx, e.block * 64)) ++ ps.map (fun p => (p.ctx, p.block * 64)))
    let s4 := blocks.foldl (fun (s : State) b => s.report source 2 (s.partOf b.1) b.1 (dieOfCore c.1) (c.1 % 128) b.2) s3
    let s5 := covs.foldl (fun (s : State) q => s.flushEcc q.1 q.2) s4
    s5.corePort c.1) s

/-- R536, R541, R546: what a package that has become unreachable takes with it. -/
def State.loseUnreachable (s : State) : State :=
  let away (pa : Nat) : Bool := !s.isLocal pa && !s.reachable (pa / 2 ^ 42)
  ((s.discardAddends away 10).collUnreachable).endFlushes

/-! ### Ports (R532, R536, R551) -/

def State.port (s : State) (p : Nat) : Port := tget {} s.ports p

/-- R551: every change of STATE is signalled on vector 1 of function 0. -/
def State.setPortState (s : State) (p st : Nat) : State :=
  if (s.port p).state = st then s
  else ({ s with ports := tput s.ports p { (s.port p) with state := st } } : State).signal 0 1

/-- R551: the flits of a port that goes down leave by another port of their destination; those of an unreachable package
are lost. -/
def State.moveFlits (s : State) (p : Nat) : State :=
  { s with fabOut := s.fabOut.filterMap (fun (f : FabricOut) =>
      if f.port ≠ p then some f
      else if (s.portsTo f.pkg f.cls).isEmpty then none
      else some { f with port := s.portOf f.pkg f.cls f.pa }) }

/-- R551: a port fails. -/
def execPortFailure (port : Nat) (s : State) : Out :=
  if 18 ≤ port then .next s
  else .next (((s.setPortState port 3).moveFlits port).loseUnreachable)

/-- R551: a flit whose check fails is replayed. -/
def execFlitReplay (port : Nat) (s : State) : Out :=
  if 18 ≤ port then .next s
  else .next { s with ports := tput s.ports port { (s.port port) with replays := min 65535 ((s.port port).replays + 1) } }

/-- R531: a port that has trained is up, but for a load-store port of a package without a number, which stays down. -/
def State.raisePort (s : State) (p : Nat) : State :=
  let P := s.port p
  s.setPortState p (if P.mode = 1 ∧ !s.pkgSet then 0 else if P.mode = 1 ∨ P.mode = 2 then 2 else 0)

/-- R531, R532: a medium is identified: its port trains and takes its mode; one that fails stays unpowered. -/
def execMediumIdentify (port : Nat) (ok : Bool) (s : State) : Out :=
  if 18 ≤ port then .next s
  else if ok then
    let P : Port := { (s.port port) with mode := Config.portMode port % 3, lanes := 8, peerPkg := (Config.peer port).1 % 1024,
                                         peerPort := (Config.peer port).2 % 18 }
    .next (({ s with ports := tput s.ports port P } : State).raisePort port)
  else .next (((s.setPortState port 3).moveFlits port).loseUnreachable)

/-- R498, R551: a port is drained, trains again and comes back. -/
def State.retrain (s : State) (p : Nat) : State := ((s.setPortState p 4).moveFlits p).raisePort p

/-- R531: the package gets its numbers, and its load-store ports come up. -/
def State.assignNumbers (s : State) (v : W64) : State :=
  (upto 18).foldl (fun (s : State) p => if (s.port p).lanes ≠ 0 ∧ (s.port p).state = 0 then s.raisePort p else s)
    { s with pkgid := v &&& 0xFFFFF, pkgSet := true }

/-! ### Requests of other packages (R538 to R540) -/

/-- R538: whether a request is admitted: the partition that holds the extent. -/
def State.admits (s : State) (tag pa : Nat) : Option Nat :=
  (upto 16).find? (fun p =>
    let P := s.part p
    let imp (k : Nat) : Nat := (P.fabtag.extractLsb' (16 * k) 16).toNat
    P.enabled && s.isLocal pa && isMemory pa && P.hasExtent (pa % 2 ^ 42 / 2 ^ 30) && decide (tag ≠ 0) &&
    [1, 2, 3].any (fun k => decide (imp k = tag)))

/-- R534: the charges so far of this package's work for others. -/
def State.chargesForOthers (s : State) : Nat := domains.foldl (fun n d => n + tget 0 s.dyn (dynKey d remoteCtx)) 0

/-- R534: a reply leaves, with the charges of the work since an earlier state. -/
def State.reply (s before : State) (pkg pa : Nat) (bytes : List Byte) : State :=
  if (s.portsTo pkg 2).isEmpty then s
  else { s with fabOut := s.fabOut ++ [⟨pkg, 2, s.portOf pkg 2 pa, pa, bytes, [], s.chargesForOthers - before.chargesForOthers, 0⟩] }

/-- The context under whose partition a line is filled. -/
def State.ownerCtx (s : State) (p : Nat) : Nat := (s.part p).ctxBase

/-- R539: a write at its home slice. -/
def State.homeStore (s : State) (p pa : Nat) (bs : List Byte) : State :=
  ((s.settleLine (lineOf pa)).sliceWriteLine noCore (s.ownerCtx p) (lineOf pa) none).putMem pa bs

/-- A booking of a package's late packets (R540). -/
def Slice.remoteBooked (S : Slice) (pkg : Nat) : Nat := ((S.remoteBook.find? (fun b => decide (b.1 = pkg))).map (·.2)).getD 0
def Slice.bookRemote (S : Slice) (pkg n : Nat) : Slice :=
  { S with remoteBook := if n = 0 then S.remoteBook.filter (fun b => decide (b.1 ≠ pkg))
      else if S.remoteBooked pkg = 0 then S.remoteBook ++ [(pkg, n)]
      else S.remoteBook.map (fun b => if b.1 = pkg then (pkg, n) else b) }

/-- R334 to R336, R540: an accumulate packet of another package: accepted and applied, or refused; a late one is booked, and a booked
one finds a place of its own. A poisoned unit stays so and is reported. -/
def State.remoteAccum (s : State) (pkg p pa : Nat) (op : AccOpc) (slots : Tbl W32) (late : Bool) : State :=
  let line := lineOf pa
  let h := homeOf pa
  let S := s.slice h
  let full := decide (64 ≤ S.accept.length + S.grants.length) && !(late && decide (0 < S.remoteBooked pkg))
  if s.heldExclusive line || full then
    let s1 := if s.heldExclusive line then s.refusalPending line else s
    let s2 := if late then s1.modSlice h (fun S => S.bookRemote pkg (min 8 (S.remoteBooked pkg + 1))) else s1
    s2.reply s pkg pa []
  else
    let s0 := (s.settleLine line).sliceWriteLine noCore (s.ownerCtx p) line none
    let s1 := { s0 with mem := applySlots s0.mem (pa / 64) op slots }
    let s2 := if slots.any (fun q => s1.poison.elem (pa / 64 * 4 + q.1 / 4)) then s1.report 4 2 p 255 (h / 32) (h % 32) pa else s1
    (s2.modSlice h (fun S => (S.clearRefusal line).bookRemote pkg (S.remoteBooked pkg - 1))).reply s pkg pa []

/-- R336: an Own of another package waits while accumulate refusals of the line are pending. -/
def State.ownWaits (s : State) (pa : Nat) : Bool :=
  match (s.slice (homeOf pa)).entry (lineOf pa) with
  | some e => e.refuse.isSome
  | none => (tfind (s.slice (homeOf pa)).refused (lineOf pa)).isSome

/-- R538 to R540: a request of another package. -/
def execRemoteRequestAdmission (pkg tag pa : Nat) (req : RemoteReq) (s : State) : Out :=
  match req with
  | .wake =>
    let line := lineOf pa
    let s1 := s.wakeLine line
    .next ((s1.teams.filter (fun T => decide (T.2.state = .saved) && T.2.gangs.any (fun g => !(g.2.waiters (onLine line)).isEmpty))).foldl
      (fun (s : State) T => s.requeue T.1) s1)
  | _ =>
    match s.admits tag pa with
    | none =>
      let s1 := s.signal 0 1
      .next (s1.reply s pkg pa [])
    | some p =>
      match req with
      | .read n =>
        let s1 := s.sliceFetch noCore (s.ownerCtx p) (lineOf pa)
        .next (s1.reply s pkg pa (if poisoned s1.poison pa n then [] else readBytes s1.mem pa n))
      | .write bs => .next ((s.homeStore p pa bs).reply s pkg pa [])
      | .atomic op wide sgn y z =>
        let n := if wide then 8 else 4
        if s.ownWaits pa then .next s
        else
        let s1 := (s.settleLine (lineOf pa)).invalidate (lineOf pa) none
        let x := readNum s1.mem pa n
        if poisoned s1.poison pa n then .next (s1.reply s pkg pa [])
        else .next ((s1.homeStore p pa (bytesOfNum n (atomOp op (8 * n) sgn x y.toNat z.toNat))).reply s pkg pa (bytesOfNum n x))
      | .accum op slots late => .next (s.remoteAccum pkg p pa op slots late)
      | .monitor =>
        if (s.slice (homeOf pa)).spillMon.length < 1024 then
          .next (s.modSlice (homeOf pa) (fun S => { S with spillMon := S.spillMon ++ [(lineOf pa, remoteMonitor + pkg)] }))
        else .next (s.sendFlits pkg 0 pa [])
      | .wake => .next s

/-! ### Exchange ports and pair links (R304) -/

/-- R304: an exchange port fails: its cluster takes no group again, and contexts with a group there are killed. -/
def execExchangePortFailure (cluster : Nat) (s : State) : Out :=
  let cs := dedup (((s.clusterTeams cluster).filter (fun p => decide (p.2.launch.xg ≠ 0))).map (fun p => p.2.ctx))
  let s1 := s.modCluster cluster (fun C => { C with noXch := true })
  .next ((cs.foldl (fun (s : State) c => s.killTold c) s1).report 7 4 255 255 (cluster / 32) (cluster % 32) 0)

/-- R304: a pair link fails: both cores take no pair team again. -/
def execPairLinkFailure (pair : Nat) (s : State) : Out :=
  .next (((s.modCore (2 * pair) (fun C => { C with pairBad := true })).modCore (2 * pair + 1) (fun C => { C with pairBad := true })).report
    6 4 255 255 (dieOfCore (2 * pair)) (2 * pair % 128) 0)

end Sys2Proof.Machine
end

