-- ==== Sys2Proof/Machine/Integer.lean ====
section
/-! DEFINITION. Integer, address, bit and predicate instructions (05). -/

namespace Sys2Proof.Machine

/-- R113: a change made in each lane of Active, or, for a gang-uniform destination, once if Active is not empty. -/
def Gang.mapActive (G : Gang) (ls : List Nat) (once : Bool) (f : Gang → Nat → Gang) : Gang :=
  match ls with
  | [] => G
  | l :: t => if once then f G l else (l :: t).foldl f G

/-- A word that changes only registers of its gang and never traps after the checks of R77. -/
def regWord (i : Instr) (g : Grd) (once : Bool) (s : State) (f : Gang → Nat → Gang) : Out :=
  runWord i s (fun s => (s.setCur (s.curGang.mapActive (s.active g) once f)).next)

/-! ### The operations of R118 to R122 -/

/-- An operation on two operands, with its result by type. -/
def bin (t : ITy) (d a b : Opd) (f : Int → Int → Int) (G : Gang) (l : Nat) : Gang :=
  G.writeRes d t l (f (G.readOp a t l) (G.readOp b t l))
def una (t : ITy) (d a : Opd) (f : Int → Int) (G : Gang) (l : Nat) : Gang := G.writeRes d t l (f (G.readOp a t l))
/-- An operation with an immediate second operand (R131). -/
def imm (t : ITy) (sc : Bool) (d a : BitVec 8) (y : Int) (f : Int → Int → Int) (G : Gang) (l : Nat) : Gang :=
  G.writeRes ⟨sc, d⟩ t l (f (G.readOp ⟨sc, a⟩ t l) y)

def idivOp (x y : Int) : Int := if y = 0 then -1 else x.tdiv y
def iremOp (x y : Int) : Int := if y = 0 then x else x - y * (x.tdiv y)
def imulhOp (t : ITy) (x y : Int) : Int := (x * y) / 2 ^ t.width
def iabsOp (t : ITy) (sat : Bool) (x : Int) : Int := if sat then saturate t x.natAbs else x.natAbs
def inegOp (t : ITy) (sat : Bool) (x : Int) : Int := if sat then saturate t (-x) else -x

/-- R119: a bitwise operation on w-bit patterns. -/
def bitOp (t : ITy) (f : W64 → W64 → W64) (x y : Int) : Int := (f (BitVec.ofInt 64 x) (BitVec.ofInt 64 y)).toNat % 2 ^ t.width

/-- The w bits of an operand read as natural, and as signed. -/
def asNat (t : ITy) (x : Int) : Nat := (BitVec.ofInt t.width x).toNat
def asInt (t : ITy) (x : Int) : Int := (BitVec.ofInt t.width x).toInt

/-- R120. -/
def shlOp (t : ITy) (x : Int) (n : Nat) : Int := if n < t.width then (asNat t x * 2 ^ n : Nat) else 0
def shrOp (t : ITy) (x : Int) (n : Nat) : Int := if n < t.width then (asNat t x / 2 ^ n : Nat) else 0
def sarOp (t : ITy) (x : Int) (n : Nat) : Int := if n < t.width then asInt t x / 2 ^ n else if asInt t x < 0 then -1 else 0
def rotlOp (t : ITy) (x : Int) (n : Nat) : Int := ((BitVec.ofInt t.width x).rotateLeft (n % t.width)).toNat

/-- R121. -/
def bfxOp (t : ITy) (x : Int) (pos len : Nat) : Int :=
  if len = 0 ∨ t.width ≤ pos then 0
  else
    let n := min len (t.width - pos)
    let f := asNat t x / 2 ^ pos % 2 ^ n
    if t.signed ∧ 2 ^ (n - 1) ≤ f then (f : Int) - 2 ^ n else f
def bfiOp (t : ITy) (od x : Int) (pos len : Nat) : Int :=
  if len = 0 ∨ t.width ≤ pos then asNat t od
  else
    let n := min len (t.width - pos)
    (asNat t od : Int) - (asNat t od / 2 ^ pos % 2 ^ n : Nat) * 2 ^ pos + (asNat t x % 2 ^ n : Nat) * 2 ^ pos

/-- R122. -/
def popcOp (t : ITy) (x : Int) : Int := onesOf (BitVec.ofInt t.width x)
def clzOp (t : ITy) (x : Int) : Int :=
  let y := BitVec.ofInt t.width x
  (((upto t.width).reverse.takeWhile (fun k => !y.getLsbD k)).length : Nat)
def ctzOp (t : ITy) (x : Int) : Int :=
  let y := BitVec.ofInt t.width x
  (((upto t.width).takeWhile (fun k => !y.getLsbD k)).length : Nat)
def brevOp (t : ITy) (x : Int) : Int :=
  let y := BitVec.ofInt t.width x
  ((upto t.width).foldl (fun r k => 2 * r + (y.getLsbD k).toNat) 0 : Nat)
def bswapOp (t : ITy) (x : Int) : Int :=
  let n := asNat t x
  ((upto (t.width / 8)).foldl (fun r k => 256 * r + n / 256 ^ k % 256) 0 : Nat)

/-- R126: a comparison. -/
def condHolds (c : Cond) (x y : Int) : Bool :=
  match c with
  | .eq => decide (x = y) | .ne => decide (x ≠ y) | .lt => decide (x < y)
  | .le => decide (x ≤ y) | .gt => decide (y < x) | .ge => decide (y ≤ x)

/-- R127. -/
def plopBit (op : PlopOp) (x y : Bool) : Bool :=
  match op with
  | .and => x && y | .or => x || y | .xor => x != y | .andn => x && !y
  | .nand => !(x && y) | .nor => !(x || y) | .xnor => x == y | .orn => x || !y

/-! ### Arithmetic (R118) -/

def execIadd (g : Grd) (t : ITy) (d a b : Opd) (s : State) : Out :=
  regWord (.iadd g t d a b) g d.sc s (bin t d a b (fun x y => x + y))
def execIsub (g : Grd) (t : ITy) (d a b : Opd) (s : State) : Out :=
  regWord (.isub g t d a b) g d.sc s (bin t d a b (fun x y => x - y))
def execIaddsat (g : Grd) (t : ITy) (d a b : Opd) (s : State) : Out :=
  regWord (.iaddsat g t d a b) g d.sc s (bin t d a b (fun x y => saturate t (x + y)))
def execIsubsat (g : Grd) (t : ITy) (d a b : Opd) (s : State) : Out :=
  regWord (.isubsat g t d a b) g d.sc s (bin t d a b (fun x y => saturate t (x - y)))
def execImul (g : Grd) (t : ITy) (d a b : Opd) (s : State) : Out :=
  regWord (.imul g t d a b) g d.sc s (bin t d a b (fun x y => x * y))
def execImulh (g : Grd) (t : ITy) (d a b : Opd) (s : State) : Out :=
  regWord (.imulh g t d a b) g d.sc s (bin t d a b (imulhOp t))
def execImad (g : Grd) (t : ITy) (d a b c : Opd) (s : State) : Out :=
  regWord (.imad g t d a b c) g d.sc s (fun G l => bin t d a b (fun x y => x * y + G.readOp c t l) G l)
def execIdiv (g : Grd) (t : ITy) (d a b : Opd) (s : State) : Out :=
  regWord (.idiv g t d a b) g d.sc s (bin t d a b idivOp)
def execIrem (g : Grd) (t : ITy) (d a b : Opd) (s : State) : Out :=
  regWord (.irem g t d a b) g d.sc s (bin t d a b iremOp)
def execImin (g : Grd) (t : ITy) (d a b : Opd) (s : State) : Out :=
  regWord (.imin g t d a b) g d.sc s (bin t d a b min)
def execImax (g : Grd) (t : ITy) (d a b : Opd) (s : State) : Out :=
  regWord (.imax g t d a b) g d.sc s (bin t d a b max)
def execIabs (g : Grd) (t : ITy) (sat : Bool) (d a : Opd) (s : State) : Out :=
  regWord (.iabs g t sat d a) g d.sc s (una t d a (iabsOp t sat))
def execIneg (g : Grd) (t : ITy) (sat : Bool) (d a : Opd) (s : State) : Out :=
  regWord (.ineg g t sat d a) g d.sc s (una t d a (inegOp t sat))

/-! ### Logic, shifts and bit fields (R119 to R122) -/

def execAnd (g : Grd) (t : ITy) (d a b : Opd) (s : State) : Out :=
  regWord (.and g t d a b) g d.sc s (bin t d a b (bitOp t (· &&& ·)))
def execOr (g : Grd) (t : ITy) (d a b : Opd) (s : State) : Out :=
  regWord (.or g t d a b) g d.sc s (bin t d a b (bitOp t (· ||| ·)))
def execXor (g : Grd) (t : ITy) (d a b : Opd) (s : State) : Out :=
  regWord (.xor g t d a b) g d.sc s (bin t d a b (bitOp t (· ^^^ ·)))
def execNot (g : Grd) (t : ITy) (d a : Opd) (s : State) : Out :=
  regWord (.not g t d a) g d.sc s (una t d a (fun x => bitOp t (fun u _ => ~~~u) x 0))
def execAndn (g : Grd) (t : ITy) (d a b : Opd) (s : State) : Out :=
  regWord (.andn g t d a b) g d.sc s (bin t d a b (bitOp t (fun u v => u &&& ~~~v)))
def execShl (g : Grd) (t : ITy) (d a b : Opd) (s : State) : Out :=
  regWord (.shl g t d a b) g d.sc s (fun G l => una t d a (fun x => shlOp t x (G.read32 b l).toNat) G l)
def execShr (g : Grd) (t : ITy) (d a b : Opd) (s : State) : Out :=
  regWord (.shr g t d a b) g d.sc s (fun G l => una t d a (fun x => shrOp t x (G.read32 b l).toNat) G l)
def execSar (g : Grd) (t : ITy) (d a b : Opd) (s : State) : Out :=
  regWord (.sar g t d a b) g d.sc s (fun G l => una t d a (fun x => sarOp t x (G.read32 b l).toNat) G l)
def execRotl (g : Grd) (t : ITy) (d a b : Opd) (s : State) : Out :=
  regWord (.rotl g t d a b) g d.sc s (fun G l => una t d a (fun x => rotlOp t x (G.read32 b l).toNat) G l)
def execBfx (g : Grd) (t : ITy) (d a b c : Opd) (s : State) : Out :=
  regWord (.bfx g t d a b c) g d.sc s (fun G l =>
    una t d a (fun x => bfxOp t x ((G.read32 b l).toNat % 256) ((G.read32 c l).toNat % 256)) G l)
def execBfi (g : Grd) (t : ITy) (d a b c : Opd) (s : State) : Out :=
  regWord (.bfi g t d a b c) g d.sc s (fun G l =>
    una t d a (fun x => bfiOp t (G.readOp d t l) x ((G.read32 b l).toNat % 256) ((G.read32 c l).toNat % 256)) G l)
/-- A count is an n32 value whatever the width counted (R122). -/
def count (t : ITy) (d a : Opd) (f : Int → Int) (G : Gang) (l : Nat) : Gang := G.writeRes d .n32 l (f (G.readOp a t l))
def execPopc (g : Grd) (t : ITy) (d a : Opd) (s : State) : Out :=
  regWord (.popc g t d a) g d.sc s (count t d a (popcOp t))
def execClz (g : Grd) (t : ITy) (d a : Opd) (s : State) : Out :=
  regWord (.clz g t d a) g d.sc s (count t d a (clzOp t))
def execCtz (g : Grd) (t : ITy) (d a : Opd) (s : State) : Out :=
  regWord (.ctz g t d a) g d.sc s (count t d a (ctzOp t))
def execBrev (g : Grd) (t : ITy) (d a : Opd) (s : State) : Out :=
  regWord (.brev g t d a) g d.sc s (una t d a (brevOp t))
def execBswap (g : Grd) (t : ITy) (d a : Opd) (s : State) : Out :=
  regWord (.bswap g t d a) g d.sc s (una t d a (bswapOp t))

/-! ### Moves, selection and addresses (R123 to R125) -/

def execSel (g : Grd) (t : ITy) (d : BitVec 8) (a b : Opd) (c : BitVec 8) (s : State) : Out :=
  regWord (.sel g t d a b c) g false s (fun G l =>
    G.writeRes ⟨false, d⟩ t l (if G.readK l c.toNat then G.readOp a t l else G.readOp b t l))
def execMov (g : Grd) (t : ITy) (d a : Opd) (s : State) : Out :=
  regWord (.mov g t d a) g d.sc s (una t d a (fun x => x))
/-- R124: the index: 32 bits extended by the type, or 64 bits. -/
def leaIndex (G : Gang) (t : ITy) (b : Opd) (l : Nat) : Int :=
  readBits t.width t.signed (G.rawOpd b t.wide l)
def execLea (g : Grd) (t : ITy) (d a b : Opd) (sh : BitVec 8) (s : State) : Out :=
  regWord (.lea g t d a b sh) g d.sc s (fun G l =>
    G.writeRaw d true l (BitVec.ofInt 64 ((G.rawOpd a true l).toNat + leaIndex G t b l * 2 ^ sh.toNat)))
def execMovi (g : Grd) (d : Opd) (imm : BitVec 32) (s : State) : Out :=
  regWord (.movi g d imm) g d.sc s (fun G l => G.writeRaw d false l (imm.signExtend 64))
/-- `movh` replaces the upper half of a scalar register or of a pair (R125). -/
def execMovh (g : Grd) (d : Opd) (imm : BitVec 32) (s : State) : Out :=
  regWord (.movh g d imm) g d.sc s (fun G l =>
    if d.sc then G.writeS d.n.toNat (imm ++ (G.readS d.n.toNat).extractLsb' 0 32) else G.writeV l (d.n.toNat + 1) imm)

/-! ### Compare and predicate logic (R126, R127) -/

def execIcmp (g : Grd) (cd : Cond) (t : ITy) (d : BitVec 8) (a b : Opd) (s : State) : Out :=
  regWord (.icmp g cd t d a b) g false s (fun G l => G.writeK l d.toNat (condHolds cd (G.readOp a t l) (G.readOp b t l)))
def execPlop (g : Grd) (op : PlopOp) (d a b : BitVec 8) (s : State) : Out :=
  regWord (.plop g op d a b) g false s (fun G l => G.writeK l d.toNat (plopBit op (G.readK l a.toNat) (G.readK l b.toNat)))
def execPmov (g : Grd) (neg : Bool) (d a : BitVec 8) (s : State) : Out :=
  regWord (.pmov g neg d a) g false s (fun G l => G.writeK l d.toNat (G.readK l a.toNat != neg))

/-! ### Votes and lane exchange (R128 to R130) -/

/-- R128: the reduction of k[a] over lanes. -/
def voteOp (mode : VoteMode) (bs : List Bool) : Bool :=
  match mode with
  | .some => bs.any id
  | .every => bs.all id
  | .same => bs.all id || !bs.any id
def execVote (g : Grd) (mode : VoteMode) (d a : BitVec 8) (s : State) : Out :=
  runWord (.vote g mode d a) s (fun s =>
    let v := voteOp mode ((s.active g).map (fun l => s.curGang.readK l a.toNat))
    (s.setCur (s.curGang.eachLane (s.active g) (fun G l => G.writeK l d.toNat v))).next)
def execBallot (g : Grd) (d a : BitVec 8) (s : State) : Out :=
  runWord (.ballot g d a) s (fun s =>
    let v := bitsOf ((s.active g).filter (fun l => s.curGang.readK l a.toNat))
    (s.setCur (s.curGang.mapActive (s.active g) true (fun G _ => G.writeS d.toNat v))).next)

/-- R129: `shfl`, of vector registers only (notes/assumptions/55.md). -/
def execShfl (g : Grd) (mode : ShflMode) (t : ITy) (d a : BitVec 8) (b : Opd) (pout : Option (BitVec 8)) (s : State) : Out :=
  runWord (.shfl g mode t d a b pout) s (fun s =>
    let G := s.curGang
    let act := s.active g
    let vals := act.map (fun l => (l, G.readOp ⟨false, a⟩ t (G.shflLane act mode b l), G.shflOk act mode b l))
    (s.setCur (vals.foldl (fun G q =>
      let G1 := G.writeRes ⟨false, d⟩ t q.1 q.2.1
      match pout with
      | some k => G1.writeK q.1 k.toNat q.2.2
      | none => G1) G)).next)
def execBcast (g : Grd) (t : ITy) (d a b : BitVec 8) (s : State) : Out :=
  runWord (.bcast g t d a b) s (fun s =>
    let G := s.curGang
    let x := G.readOp ⟨false, a⟩ t (G.lanePick b)
    (s.setCur (G.eachLane (s.active g) (fun G l => G.writeRes ⟨false, d⟩ t l x))).next)
def execVrd (g : Grd) (t : ITy) (d a b : BitVec 8) (s : State) : Out :=
  runWord (.vrd g t d a b) s (fun s =>
    let G := s.curGang
    let x := G.readOp ⟨false, a⟩ t (G.lanePick b)
    (s.setCur (G.mapActive (s.active g) true (fun G l => G.writeRes ⟨true, d⟩ t l x))).next)

/-! ### Dot products (R132) -/

/-- Element j of a packed register. -/
def elem8 (sgn : Bool) (x : W32) (j : Nat) : Int :=
  let e : BitVec 8 := x.extractLsb' (8 * j) 8
  if sgn then e.toInt else e.toNat
def elem4 (x : W32) (j : Nat) : Int := q4Value ((x.extractLsb' (4 * j) 4).toNat)
def dotSum (n : Nat) (f : Nat → Int) : Int := (upto n).foldl (fun q j => q + f j) 0
def idpEnd (sat : Bool) (q : Int) : Int := if sat then saturate .i32 q else q
/-- R132: `idp4`, of any mix of operands that R113 allows (notes/assumptions/55.md). -/
def execIdp4 (g : Grd) (sgn sat : Bool) (d a b c : Opd) (s : State) : Out :=
  regWord (.idp4 g sgn sat d a b c) g d.sc s (fun G l =>
    G.writeRes d .i32 l (idpEnd sat (G.readOp c .i32 l +
      dotSum 4 (fun j => elem8 sgn (G.read32 a l) j * elem8 sgn (G.read32 b l) j))))
def execIdp8 (g : Grd) (sat : Bool) (d a b c : Opd) (s : State) : Out :=
  regWord (.idp8 g sat d a b c) g d.sc s (fun G l =>
    G.writeRes d .i32 l (idpEnd sat (G.readOp c .i32 l +
      dotSum 8 (fun j => elem4 (G.read32 a l) j * elem4 (G.read32 b l) j))))

/-! ### Immediate forms (R131) -/

def execIaddImm (g : Grd) (sc : Bool) (t : ITy) (d a : BitVec 8) (im : BitVec 24) (s : State) : Out :=
  regWord (.iaddImm g sc t d a im) g sc s (imm t sc d a (immArith t im) (fun x y => x + y))
def execIsubImm (g : Grd) (sc : Bool) (t : ITy) (d a : BitVec 8) (im : BitVec 24) (s : State) : Out :=
  regWord (.isubImm g sc t d a im) g sc s (imm t sc d a (immArith t im) (fun x y => x - y))
def execImulImm (g : Grd) (sc : Bool) (t : ITy) (d a : BitVec 8) (im : BitVec 24) (s : State) : Out :=
  regWord (.imulImm g sc t d a im) g sc s (imm t sc d a (immArith t im) (fun x y => x * y))
def execIminImm (g : Grd) (sc : Bool) (t : ITy) (d a : BitVec 8) (im : BitVec 24) (s : State) : Out :=
  regWord (.iminImm g sc t d a im) g sc s (imm t sc d a (immArith t im) min)
def execImaxImm (g : Grd) (sc : Bool) (t : ITy) (d a : BitVec 8) (im : BitVec 24) (s : State) : Out :=
  regWord (.imaxImm g sc t d a im) g sc s (imm t sc d a (immArith t im) max)
def execAndImm (g : Grd) (sc : Bool) (t : ITy) (d a : BitVec 8) (im : BitVec 24) (s : State) : Out :=
  regWord (.andImm g sc t d a im) g sc s (imm t sc d a im.toInt (bitOp t (· &&& ·)))
def execOrImm (g : Grd) (sc : Bool) (t : ITy) (d a : BitVec 8) (im : BitVec 24) (s : State) : Out :=
  regWord (.orImm g sc t d a im) g sc s (imm t sc d a im.toInt (bitOp t (· ||| ·)))
def execXorImm (g : Grd) (sc : Bool) (t : ITy) (d a : BitVec 8) (im : BitVec 24) (s : State) : Out :=
  regWord (.xorImm g sc t d a im) g sc s (imm t sc d a im.toInt (bitOp t (· ^^^ ·)))
def execShlImm (g : Grd) (sc : Bool) (t : ITy) (d a : BitVec 8) (im : BitVec 24) (s : State) : Out :=
  regWord (.shlImm g sc t d a im) g sc s (imm t sc d a 0 (fun x _ => shlOp t x im.toNat))
def execShrImm (g : Grd) (sc : Bool) (t : ITy) (d a : BitVec 8) (im : BitVec 24) (s : State) : Out :=
  regWord (.shrImm g sc t d a im) g sc s (imm t sc d a 0 (fun x _ => shrOp t x im.toNat))
def execSarImm (g : Grd) (sc : Bool) (t : ITy) (d a : BitVec 8) (im : BitVec 24) (s : State) : Out :=
  regWord (.sarImm g sc t d a im) g sc s (imm t sc d a 0 (fun x _ => sarOp t x im.toNat))
def execRotlImm (g : Grd) (sc : Bool) (t : ITy) (d a : BitVec 8) (im : BitVec 24) (s : State) : Out :=
  regWord (.rotlImm g sc t d a im) g sc s (imm t sc d a 0 (fun x _ => rotlOp t x im.toNat))
def execIcmpImm (g : Grd) (sc : Bool) (cd : Cond) (t : ITy) (d a : BitVec 8) (im : BitVec 24) (s : State) : Out :=
  regWord (.icmpImm g sc cd t d a im) g false s (fun G l =>
    G.writeK l d.toNat (condHolds cd (G.readOp ⟨sc, a⟩ t l) (immArith t im)))

end Sys2Proof.Machine
end

