-- ==== Sys2Proof/Machine/Special.lean ====
section
/-! DEFINITION. The special functions of opcode 0x3C (06 R147, R148). `fsqrt` is correctly rounded. For the others
the manual states a bound and no value: the result is the part's own choice (`Config.special`) where that lies within
the bound, and the correctly rounded value, which always lies within it, where it does not. The exact value is held as
m × 2^e to about 100 bits, computed in fixed point. -/

namespace Sys2Proof.Machine

/-- The greatest natural number whose square is at most `n`, below 2^`k`. -/
def isqrtBits : Nat → Nat → Nat → Nat
  | 0, _, r => r
  | k + 1, n, r => if (r + 2 ^ k) * (r + 2 ^ k) ≤ n then isqrtBits k n (r + 2 ^ k) else isqrtBits k n r

def isqrt (n : Nat) : Nat := isqrtBits 72 n 0

/-- One in fixed point. -/
def fx1 : Nat := 2 ^ 128
def fxMul (a b : Nat) : Nat := a * b / fx1
/-- ln 2 in fixed point, and π × 2^300. -/
def fxLn2 : Nat := 1113844574712631719546256151097547306333272293549090750737802 / 2 ^ 72
def piScaled : Nat :=
  6399537258350533404498902296276095619968599404742382956244570183135712832137875919436931981

/-- e^t for t in 0..1 in fixed point: the sum of the first terms of its series. -/
def fxExpTerms : Nat → Nat → Nat → Nat → Nat → Nat
  | 0, _, _, _, acc => acc
  | k + 1, i, t, term, acc =>
    let next := fxMul term t / i
    fxExpTerms k (i + 1) t next (acc + next)
def fxExp (t : Nat) : Nat := fxExpTerms 40 1 t fx1 fx1

/-- The alternating series with ratio t² / (i (i + 1)), for sine (first term t) and cosine (first term 1). -/
def fxAltTerms : Nat → Nat → Nat → Int → Int → Int
  | 0, _, _, _, acc => acc
  | k + 1, i, t2, term, acc =>
    let next := -(term * t2 / fx1 / (i * (i + 1) : Nat))
    fxAltTerms k (i + 2) t2 next (acc + next)
def fxSin (t : Nat) : Nat := (fxAltTerms 24 2 (fxMul t t) t t).toNat
def fxCos (t : Nat) : Nat := (fxAltTerms 24 1 (fxMul t t) fx1 fx1).toNat

/-- 2 artanh z = ln((1 + z) / (1 − z)) for z in 0..1/3. -/
def fxAtanhTerms : Nat → Nat → Nat → Nat → Nat → Nat
  | 0, _, _, _, acc => acc
  | k + 1, i, z2, p, acc =>
    let p' := fxMul p z2
    fxAtanhTerms k (i + 2) z2 p' (acc + p' / i)
def fxLnMant (M : Nat) : Nat :=
  let z := (M - fx1) * fx1 / (M + fx1)
  2 * fxAtanhTerms 44 3 (fxMul z z) z z

/-- An exact value, or one known to about 100 bits: sign, m × 2^e, and whether it is exact. -/
structure Approx where
  neg : Bool
  m : Nat
  e : Int
  exact : Bool
  deriving DecidableEq, Repr

/-- A value strictly between m and m + 1 units. -/
def Approx.between (neg : Bool) (m : Nat) (e : Int) : Approx := ⟨neg, 2 * m + 1, e - 1, false⟩

def recipApprox (neg : Bool) (m : Nat) (e : Int) : Approx :=
  if 2 ^ 80 % m = 0 then ⟨neg, 2 ^ 80 / m, -80 - e, true⟩ else .between neg (2 ^ 80 / m) (-80 - e)

/-- m × 2^e with an even exponent. -/
def evenExp (m : Nat) (e : Int) : Nat × Int := if e % 2 = 0 then (m, e) else (2 * m, e - 1)

def rsqrtApprox (m : Nat) (e : Int) : Approx :=
  let (M, h) := evenExp m e
  let n := isqrt (2 ^ 120 / M)
  if n * n * M = 2 ^ 120 then ⟨false, n, -60 - h / 2, true⟩ else .between false n (-60 - h / 2)

def sqrtApprox (m : Nat) (e : Int) : Approx :=
  let (M, h) := evenExp m e
  let n := isqrt (M * 2 ^ 80)
  if n * n = M * 2 ^ 80 then ⟨false, n, h / 2 - 40, true⟩ else .between false n (h / 2 - 40)

/-- m × 2^e as a multiple of 2^−128, rounded down. -/
def toFx (m : Nat) (e : Int) : Nat := if 0 ≤ e + 128 then m * 2 ^ (e + 128).toNat else m / 2 ^ (-(e + 128)).toNat

def exp2Approx (neg : Bool) (m : Nat) (e : Int) : Approx :=
  let x := toFx m e
  let whole := decide (x % fx1 = 0) && decide (x ≠ 0)
  if whole then ⟨false, 1, (if neg then -((x / fx1 : Nat) : Int) else (x / fx1 : Nat)), true⟩
  else
    let X : Int := if neg then -(x : Int) - 1 else x
    let n := X / fx1
    let f := (X % fx1).toNat
    .between false (fxExp (fxMul f fxLn2)) (n - 128)

def log2Approx (m : Nat) (e : Int) : Approx :=
  let l := leadExp m e
  if m = 2 ^ Nat.log2 m then ⟨decide (l < 0), l.natAbs, 0, true⟩
  else
    let M := m * 2 ^ (128 - Nat.log2 m)
    let v : Int := l * fx1 + (fxLnMant M * fx1 / fxLn2 : Nat)
    .between (decide (v < 0)) v.natAbs (-128)

/-- x (1 − x² a / b) less a last unit, for small x. -/
def smallOdd (neg : Bool) (m : Nat) (e : Int) (a b : Nat) : Approx :=
  let x2 := toFx (m * m) (2 * e)
  ⟨neg, m * (fx1 - x2 * a / b - 1), e - 128, false⟩

/-- The quadrant of |x| and its remainder modulo π / 2, in fixed point. -/
def quadrant (m : Nat) (e : Int) : Nat × Nat :=
  let a := m * 2 ^ (e + 300).toNat
  (a / (piScaled / 2) % 4, a % (piScaled / 2) / 2 ^ 172)

def sinApprox (neg : Bool) (m : Nat) (e : Int) : Approx :=
  if leadExp m e < -12 then smallOdd neg m e 1 6
  else match quadrant m e with
    | (0, r) => .between neg (fxSin r) (-128)
    | (1, r) => .between neg (fxCos r) (-128)
    | (2, r) => .between (!neg) (fxSin r) (-128)
    | (_, r) => .between (!neg) (fxCos r) (-128)

def cosApprox (m : Nat) (e : Int) : Approx :=
  match quadrant m e with
  | (0, r) => .between false (fxCos r - 1) (-128)
  | (1, r) => .between true (fxSin r) (-128)
  | (2, r) => .between true (fxCos r - 1) (-128)
  | (_, r) => .between false (fxSin r) (-128)

def tanhApprox (neg : Bool) (m : Nat) (e : Int) : Approx :=
  if leadExp m e < -12 then smallOdd neg m e 1 3
  else if 5 < leadExp m e then ⟨neg, 2 ^ 200 - 1, -200, false⟩
  else
    let t := 2 * toFx m e
    let n := t / fxLn2
    let u := fx1 * fx1 / fxExp (t % fxLn2) / 2 ^ n
    .between neg ((fx1 - u) * fx1 / (fx1 + u)) (-128)

/-- R147: whether a value lies within `num` × 2^be of an approximated one. -/
def within (a : Approx) (v : FVal) (num : Nat) (be : Int) : Bool :=
  match v with
  | .fin n m e =>
    let slack := leadExp a.m a.e - 90
    let q := min (min e a.e) (min be slack)
    let d := scaled n m e q - scaled a.neg a.m a.e q
    decide (d.natAbs ≤ num * 2 ^ (be - q).toNat + 2 ^ (slack - q).toNat)
  | _ => false

/-- R147: the exponent of one ulp of the exact value. -/
def ulpExp (a : Approx) : Int := max (leadExp a.m a.e - 23) (-149)

/-- R147, R148: the result for an operand outside the table of special operands, with its flags. `flip` tells that the
operand was negated (an odd or even function). DESIGN CHOICE: UF and OF look at the nearest-even rounding of the exact value
(notes/assumptions/72.md). -/
def specialResult (fn : Nat) (flip : Bool) (x : W32) (a : Approx) (num : Nat) (be : Int) : Nat × Flg :=
  let (code, fl) := fmtF32.round .rne a.neg a.m a.e
  if a.exact || decide (code % 2 ^ 31 = fmtF32.infCode) then (code, fl)
  else
    let y := (Config.special fn x).toNat
    let y' := if flip then (y + 2 ^ 31) % 2 ^ 32 else y
    if within a (fmtF32.value y') num be then (y', fl) else (code, fl)

def negInfF32 : Nat := 0xFF800000

/-- R147, R148: the special functions, in fn order. -/
def specialF32 (fn : Nat) (mode : Mode) (xw : W32) : Nat × Flg :=
  let x := xw.toNat
  let mag : W32 := xw &&& 0x7FFFFFFF
  match fmtF32.value x with
  | .nan sig => (fmtF32.nanCode, flagIf sig flagNV)
  | .inf n =>
    match fn with
    | 0 => (fmtF32.signBit n, 0)
    | 1 => if n then (fmtF32.nanCode, flagNV) else (0, 0)
    | 2 => if n then (fmtF32.nanCode, flagNV) else (x, 0)
    | 3 => if n then (0, 0) else (x, 0)
    | 4 => if n then (fmtF32.nanCode, flagNV) else (x, 0)
    | 5 => (fmtF32.nanCode, flagNV)
    | 6 => (fmtF32.nanCode, flagNV)
    | _ => (fmtF32.signBit n + 0x3F800000, 0)
  | .fin n m e =>
    if m = 0 then
      match fn with
      | 0 => (fmtF32.signBit n + fmtF32.infCode, flagDZ)
      | 1 => (fmtF32.signBit n + fmtF32.infCode, flagDZ)
      | 2 => (x, 0)
      | 3 => (0x3F800000, 0)
      | 4 => (negInfF32, flagDZ)
      | 6 => (0x3F800000, 0)
      | _ => (x, 0)
    else
      match fn with
      | 0 => let a := recipApprox n m e; specialResult 0 false xw a 1 (ulpExp a)
      | 1 =>
        if n then (fmtF32.nanCode, flagNV)
        else let a := rsqrtApprox m e; specialResult 1 false xw a 1 (ulpExp a)
      | 2 => if n then (fmtF32.nanCode, flagNV) else let a := sqrtApprox m e; fmtF32.round mode false a.m a.e
      | 3 =>
        if !n && decide (m * 2 ^ (e + 200).toNat ≥ 128 * 2 ^ 200) then (fmtF32.infCode, flagOF ||| flagNX)
        else if n && decide (m * 2 ^ (e + 200).toNat > 149 * 2 ^ 200) then (0, flagUF ||| flagNX)
        else let a := exp2Approx n m e; specialResult 3 false xw a 2 (ulpExp a)
      | 4 =>
        if n then (fmtF32.nanCode, flagNV)
        else
          let a := log2Approx m e
          if -2 ≤ leadExp a.m a.e then specialResult 4 false xw a 2 (ulpExp a) else specialResult 4 false xw a 1 (-24)
      | 5 => specialResult 5 n mag (sinApprox n m e) 1 (-21)
      | 6 => specialResult 6 false mag (cosApprox m e) 1 (-21)
      | _ => let a := tanhApprox n m e; specialResult 7 n mag a 2 (ulpExp a)

end Sys2Proof.Machine
end

