-- ==== Sys2Proof/Machine/Float.lean ====
section
/-! DEFINITION. Floating-point and special-function instructions (06), and pair words (03 R78 to R81). -/

namespace Sys2Proof.Machine

/-- What a lane of a floating instruction computes: its writes and its flags. -/
abbrev LaneEff := (Gang → Gang) × Flg

/-- R46, R47: the lanes that meet an enabled condition trap and nothing is written; otherwise every lane writes and its
flags accumulate. -/
def State.floatEffects (s : State) (i : Instr) (rs : List (Nat × LaneEff)) : Out :=
  let G := s.curGang
  match (rs.filter (fun q => trapping G.fmode q.2.2)).map (·.1) with
  | [] => (s.setCur (rs.foldl (fun G q => (q.2.1 G).orFstat q.1 q.2.2) G)).next
  | ls => .next (s.trapLanes i ls 9 0)

def floatWord (i : Instr) (g : Grd) (s : State) (comp : Gang → Nat → LaneEff) : Out :=
  runWord i s (fun s => s.floatEffects i ((s.active g).map (fun l => (l, comp s.curGang l))))

/-- A 32-bit result for v[d] of a lane. -/
def toV (d : BitVec 8) (l : Nat) (r : Nat × Flg) : LaneEff := (fun G => G.writeV l d.toNat (BitVec.ofNat 32 r.1), r.2)

/-! ### Arithmetic (R137 to R142) -/

def fop2 (F : Fmt) (op : Fmt → Mode → Nat → Nat → Nat × Flg) (rm : Rm) (d : BitVec 8) (a b : Opd) (G : Gang) (l : Nat) : LaneEff :=
  toV d l (op F (modeOf rm G.fmode) (G.read32 a l).toNat (G.read32 b l).toNat)

def execFadd (g : Grd) (rm : Rm) (d : BitVec 8) (a b : Opd) (s : State) : Out :=
  floatWord (.fadd g rm d a b) g s (fop2 fmtF32 Fmt.add rm d a b)
def execFsub (g : Grd) (rm : Rm) (d : BitVec 8) (a b : Opd) (s : State) : Out :=
  floatWord (.fsub g rm d a b) g s (fop2 fmtF32 Fmt.sub rm d a b)
def execFmul (g : Grd) (rm : Rm) (d : BitVec 8) (a b : Opd) (s : State) : Out :=
  floatWord (.fmul g rm d a b) g s (fop2 fmtF32 Fmt.mul rm d a b)
def execFfma (g : Grd) (rm : Rm) (d : BitVec 8) (a b c : Opd) (s : State) : Out :=
  floatWord (.ffma g rm d a b c) g s (fun G l =>
    toV d l (fmtF32.fma (modeOf rm G.fmode) (G.read32 a l).toNat (G.read32 b l).toNat (G.read32 c l).toNat))
def execFmin (g : Grd) (d : BitVec 8) (a b : Opd) (s : State) : Out :=
  floatWord (.fmin g d a b) g s (fun G l => toV d l (fmtF32.minMax false (G.read32 a l).toNat (G.read32 b l).toNat))
def execFmax (g : Grd) (d : BitVec 8) (a b : Opd) (s : State) : Out :=
  floatWord (.fmax g d a b) g s (fun G l => toV d l (fmtF32.minMax true (G.read32 a l).toNat (G.read32 b l).toNat))
def execFcmp (g : Grd) (cd : FCond) (d : BitVec 8) (a b : Opd) (s : State) : Out :=
  floatWord (.fcmp g cd d a b) g s (fun G l =>
    let r := fcmpF32 cd (G.read32 a l).toNat (G.read32 b l).toNat
    (fun G => G.writeK l d.toNat r.1, r.2))
def execFclass (g : Grd) (d : BitVec 8) (a : Opd) (s : State) : Out :=
  floatWord (.fclass g d a) g s (fun G l => (fun G1 => G1.writeV l d.toNat (fclassF32 (G.read32 a l).toNat), 0))
def execFrnd (g : Grd) (rm : Rm) (d : BitVec 8) (a : Opd) (s : State) : Out :=
  floatWord (.frnd g rm d a) g s (fun G l => toV d l (frndF32 (modeOf rm G.fmode) (G.read32 a l).toNat))
def execFscale (g : Grd) (rm : Rm) (d : BitVec 8) (a b : Opd) (s : State) : Out :=
  floatWord (.fscale g rm d a b) g s (fun G l =>
    toV d l (fscaleF32 (modeOf rm G.fmode) (G.read32 a l).toNat (G.read32 b l).toInt))
def execFgetexp (g : Grd) (d : BitVec 8) (a : Opd) (s : State) : Out :=
  floatWord (.fgetexp g d a) g s (fun G l => toV d l (fgetexpF32 (G.read32 a l).toNat))

/-! ### Conversions (R143, R144) -/

/-- R143: one conversion, on the operand's 32 bits. -/
def cvtOp (kind : CvtKind) (mode : Mode) (inf : Bool) (x : Nat) : Nat × Flg :=
  let v16 := fmtF16.value (x % 65536)
  let vb := fmtB16.value (x % 65536)
  match kind with
  | .f32f16 => fmtF16.deliver mode (fmtF32.value x)
  | .f32b16 => fmtB16.deliver mode (fmtF32.value x)
  | .f16f32 => fmtF32.deliver .rne v16
  | .b16f32 => fmtF32.deliver .rne vb
  | .f16b16 => fmtB16.deliver mode v16
  | .b16f16 => fmtF16.deliver mode vb
  | .f32g8 => toGT8 (fmtF32.value x) inf
  | .f16g8 => toGT8 v16 inf
  | .b16g8 => toGT8 vb inf
  | .g8f32 => fmtF32.deliver .rne (gt8Value (x % 256))
  | .g8f16 => fmtF16.deliver mode (gt8Value (x % 256))
  | .g8b16 => fmtB16.deliver .rne (gt8Value (x % 256))

def execFcvt (g : Grd) (kind : CvtKind) (rm : Rm) (inf : Bool) (d : BitVec 8) (a : Opd) (s : State) : Out :=
  floatWord (.fcvt g kind rm inf d a) g s (fun G l => toV d l (cvtOp kind (modeOf rm G.fmode) inf (G.read32 a l).toNat))

/-- The code of a lone operand of a lane format. -/
def laneCode (f : FFmt) (x : W32) : Nat :=
  match f with
  | .f32 => x.toNat
  | _ => x.toNat % 65536

def execF2i (g : Grd) (src : FFmt) (dst : Option ITy) (rm : Rm) (d : BitVec 8) (a : Opd) (s : State) : Out :=
  floatWord (.f2i g src dst rm d a) g s (fun G l =>
    let v := (fmtOf src).value (laneCode src (G.read32 a l))
    let m := modeOf rm G.fmode
    match dst with
    | some t =>
      let r := toInteger m v t.minVal t.maxVal
      (fun G1 => G1.writeRes ⟨false, d⟩ t l r.1, r.2)
    | none =>
      let r := toInteger m v (-7) 7
      (fun G1 => G1.writeV l d.toNat (BitVec.ofInt 32 (r.1 % 16)), r.2))

def execI2f (g : Grd) (dst : FFmt) (src : Option ITy) (rm : Rm) (d : BitVec 8) (a : Opd) (s : State) : Out :=
  floatWord (.i2f g dst src rm d a) g s (fun G l =>
    let x : Int := match src with
      | some t => G.readOp a t l
      | none => q4Value ((G.read32 a l).toNat % 16)
    toV d l ((fmtOf dst).ofInteger (modeOf rm G.fmode) x))

/-! ### Packed and dot forms (R145, R146) -/

def half (x : W32) (j : Nat) : Nat := (x.extractLsb' (16 * j) 16).toNat
/-- Two 16-bit elements, each computed on its own; the flags of both. -/
def packed (f : Nat → Nat × Flg) : Nat × Flg :=
  ((f 0).1 + 65536 * (f 1).1, (f 0).2 ||| (f 1).2)
def pk2 (F : Fmt) (op : Fmt → Mode → Nat → Nat → Nat × Flg) (m : Mode) (x y : W32) : Nat × Flg :=
  packed (fun j => op F m (half x j) (half y j))
def pk3 (F : Fmt) (m : Mode) (x y z : W32) : Nat × Flg := packed (fun j => F.fma m (half x j) (half y j) (half z j))

def execHxadd (g : Grd) (rm : Rm) (d : BitVec 8) (a b : Opd) (s : State) : Out :=
  floatWord (.hxadd g rm d a b) g s (fun G l => toV d l (pk2 fmtF16 Fmt.add (modeOf rm G.fmode) (G.read32 a l) (G.read32 b l)))
def execHxmul (g : Grd) (rm : Rm) (d : BitVec 8) (a b : Opd) (s : State) : Out :=
  floatWord (.hxmul g rm d a b) g s (fun G l => toV d l (pk2 fmtF16 Fmt.mul (modeOf rm G.fmode) (G.read32 a l) (G.read32 b l)))
def execHxfma (g : Grd) (rm : Rm) (d : BitVec 8) (a b c : Opd) (s : State) : Out :=
  floatWord (.hxfma g rm d a b c) g s (fun G l =>
    toV d l (pk3 fmtF16 (modeOf rm G.fmode) (G.read32 a l) (G.read32 b l) (G.read32 c l)))
def execBxadd (g : Grd) (rm : Rm) (d : BitVec 8) (a b : Opd) (s : State) : Out :=
  floatWord (.bxadd g rm d a b) g s (fun G l => toV d l (pk2 fmtB16 Fmt.add (modeOf rm G.fmode) (G.read32 a l) (G.read32 b l)))
def execBxmul (g : Grd) (rm : Rm) (d : BitVec 8) (a b : Opd) (s : State) : Out :=
  floatWord (.bxmul g rm d a b) g s (fun G l => toV d l (pk2 fmtB16 Fmt.mul (modeOf rm G.fmode) (G.read32 a l) (G.read32 b l)))
def execBxfma (g : Grd) (rm : Rm) (d : BitVec 8) (a b c : Opd) (s : State) : Out :=
  floatWord (.bxfma g rm d a b c) g s (fun G l =>
    toV d l (pk3 fmtB16 (modeOf rm G.fmode) (G.read32 a l) (G.read32 b l) (G.read32 c l)))

/-- R146: a two-term dot product with one rounding. -/
def fdp2Op (F : Fmt) (m : Mode) (x y z : W32) : Nat × Flg :=
  fmtF32.sum m [(F.value (half x 0), F.value (half y 0)), (F.value (half x 1), F.value (half y 1))] [fmtF32.value z.toNat]
def execFdp2 (g : Grd) (b16 : Bool) (rm : Rm) (d : BitVec 8) (a b c : Opd) (s : State) : Out :=
  floatWord (.fdp2 g b16 rm d a b c) g s (fun G l =>
    toV d l (fdp2Op (if b16 then fmtB16 else fmtF16) (modeOf rm G.fmode) (G.read32 a l) (G.read32 b l) (G.read32 c l)))

/-! ### Special functions (R147, R148) -/

/-- R82, R258: a special function, with its window unless a trap enable of FMODE is set. -/
def specialWord (i : Instr) (fn : Nat) (g : Grd) (la : BitVec 4) (rm : Rm) (d : BitVec 8) (a : Opd) (s : State) : Out :=
  runWord i s (fun s =>
    let G := s.curGang
    let rs := (s.active g).map (fun l => (l, specialF32 fn (modeOf rm G.fmode) (G.read32 a l)))
    match (rs.filter (fun q => trapping G.fmode q.2.2)).map (·.1) with
    | [] => .next (s.results (if trapEnables G.fmode = 0 ∧ !rs.isEmpty then la.toNat else 0) [.v d.toNat]
        (rs.map (fun q => .v q.1 d.toNat (BitVec.ofNat 32 q.2.1))) (rs.map (fun q => (q.1, q.2.2))))
    | ls => .next (s.trapLanes i ls 9 0))

def execFrcp (g : Grd) (la : BitVec 4) (d : BitVec 8) (a : Opd) (s : State) : Out := specialWord (.frcp g la d a) 0 g la .rne d a s
def execFrsq (g : Grd) (la : BitVec 4) (d : BitVec 8) (a : Opd) (s : State) : Out := specialWord (.frsq g la d a) 1 g la .rne d a s
def execFsqrt (g : Grd) (la : BitVec 4) (rm : Rm) (d : BitVec 8) (a : Opd) (s : State) : Out :=
  specialWord (.fsqrt g la rm d a) 2 g la rm d a s
def execFexp2 (g : Grd) (la : BitVec 4) (d : BitVec 8) (a : Opd) (s : State) : Out := specialWord (.fexp2 g la d a) 3 g la .rne d a s
def execFlog2 (g : Grd) (la : BitVec 4) (d : BitVec 8) (a : Opd) (s : State) : Out := specialWord (.flog2 g la d a) 4 g la .rne d a s
def execFsin (g : Grd) (la : BitVec 4) (d : BitVec 8) (a : Opd) (s : State) : Out := specialWord (.fsin g la d a) 5 g la .rne d a s
def execFcos (g : Grd) (la : BitVec 4) (d : BitVec 8) (a : Opd) (s : State) : Out := specialWord (.fcos g la d a) 6 g la .rne d a s
def execFtanh (g : Grd) (la : BitVec 4) (d : BitVec 8) (a : Opd) (s : State) : Out := specialWord (.ftanh g la d a) 7 g la .rne d a s

/-! ### GT8 packing (R149) -/

def execGpack (g : Grd) (inf : Bool) (d a : BitVec 8) (s : State) : Out :=
  floatWord (.gpack g inf d a) g s (fun G l =>
    let r (j : Nat) : Nat × Flg := toGT8 (fmtF32.value (G.readV l (a.toNat + j)).toNat) inf
    toV d l ((r 0).1 + 256 * (r 1).1 + 65536 * (r 2).1 + 16777216 * (r 3).1, (r 0).2 ||| (r 1).2 ||| (r 2).2 ||| (r 3).2))
def execGunpack (g : Grd) (d : BitVec 8) (a : Opd) (s : State) : Out :=
  floatWord (.gunpack g d a) g s (fun G l =>
    let x := (G.read32 a l).toNat
    (fun G1 => (upto 4).foldl (fun G1 j =>
      G1.writeV l (d.toNat + j) (BitVec.ofNat 32 (fmtF32.deliver .rne (gt8Value (x / 256 ^ j % 256))).1)) G1, 0))

/-! ### Pair words (R78 to R81) -/

def vOpd (n : BitVec 8) : Opd := ⟨false, n⟩

/-- R79, R81: a slot as the full instruction it performs, for one lane: every source is read from `G`. Floating slots
round RNE. -/
def slotEffect (G : Gang) (x : Slot) (l : Nat) : LaneEff :=
  let i2 (t : ITy) (d b : BitVec 8) (f : Int → Int → Int) : LaneEff :=
    let q := f (G.readOp (vOpd d) t l) (G.readOp (vOpd b) t l)
    (fun G1 => G1.writeRes (vOpd d) t l q, 0)
  let ii (t : ITy) (d : BitVec 8) (f : Int → Int) : LaneEff :=
    let q := f (G.readOp (vOpd d) t l)
    (fun G1 => G1.writeRes (vOpd d) t l q, 0)
  let pk (d b : BitVec 8) (op : PlopOp) : LaneEff :=
    let q := plopBit op (G.readK l d.toNat) (G.readK l b.toNat)
    (fun G1 => G1.writeK l d.toNat q, 0)
  let v (n : BitVec 8) : W32 := G.readV l n.toNat
  match x with
  | .nop => (fun G1 => G1, 0)
  | .iadd d b => i2 .i32 d b (fun x y => x + y)
  | .isub d b => i2 .i32 d b (fun x y => x - y)
  | .imul d b => i2 .i32 d b (fun x y => x * y)
  | .iminI d b => i2 .i32 d b min
  | .imaxI d b => i2 .i32 d b max
  | .iminN d b => i2 .n32 d b min
  | .imaxN d b => i2 .n32 d b max
  | .iaddImm d im => ii .i32 d (fun x => x + im.toInt)
  | .shlImm d im => ii .n32 d (fun x => shlOp .n32 x im.toNat)
  | .shrImm d im => ii .n32 d (fun x => shrOp .n32 x im.toNat)
  | .sarImm d im => ii .i32 d (fun x => sarOp .i32 x im.toNat)
  | .and d b => i2 .n32 d b (bitOp .n32 (· &&& ·))
  | .or d b => i2 .n32 d b (bitOp .n32 (· ||| ·))
  | .xor d b => i2 .n32 d b (bitOp .n32 (· ^^^ ·))
  | .andn d b => i2 .n32 d b (bitOp .n32 (fun u w => u &&& ~~~w))
  | .mov d b => (fun G1 => G1.writeV l d.toNat (v b), 0)
  | .movi d im => (fun G1 => G1.writeV l d.toNat (im.signExtend 32), 0)
  | .pmov d b => let q := G.readK l b.toNat; (fun G1 => G1.writeK l d.toNat q, 0)
  | .plopAnd d b => pk d b .and
  | .plopOr d b => pk d b .or
  | .plopXor d b => pk d b .xor
  | .fadd d b => toV d l (fmtF32.add .rne (v d).toNat (v b).toNat)
  | .fmul d b => toV d l (fmtF32.mul .rne (v d).toNat (v b).toNat)
  | .ffma d b => toV d l (fmtF32.fma .rne (v b).toNat (v b).toNat (v d).toNat)
  | .hxadd d b => toV d l (pk2 fmtF16 Fmt.add .rne (v d) (v b))
  | .hxmul d b => toV d l (pk2 fmtF16 Fmt.mul .rne (v d) (v b))
  | .hxfma d b => toV d l (pk3 fmtF16 .rne (v b) (v b) (v d))
  | .bxadd d b => toV d l (pk2 fmtB16 Fmt.add .rne (v d) (v b))
  | .bxmul d b => toV d l (pk2 fmtB16 Fmt.mul .rne (v d) (v b))
  | .bxfma d b => toV d l (pk3 fmtB16 .rne (v b) (v b) (v d))

/-- R81: both slots of a lane, read before either writes. -/
def pairEffect (s0 s1 : Slot) (G : Gang) (l : Nat) : LaneEff :=
  let e0 := slotEffect G s0 l
  let e1 := slotEffect G s1 l
  (fun G1 => e1.1 (e0.1 G1), e0.2 ||| e1.2)

def execPairWord (s0 s1 : Slot) (s : State) : Out := floatWord (.pairWord s0 s1) none s (pairEffect s0 s1)

end Sys2Proof.Machine
end

