-- ==== Sys2Proof/Machine/Home.lean ====
section
/-! DEFINITION. Requests that reach a home slice, and walks, as events of their own (14 R310; 20 R424). -/

namespace Sys2Proof.Machine

/-- R310, R322: a Read request; it waits while the limiter has too few flits. -/
def execSliceReadRequest (core ctx line : Nat) (s : State) : Out :=
  if s.limited core ctx 1 then .next s else .next (s.sliceRead core ctx line)

/-- R310, R322, R336: an Own request; it waits while accumulate refusals of the line are pending, or the limiter has too few flits. -/
def execSliceOwnRequest (core ctx line : Nat) (s : State) : Out :=
  if s.ownHeld core line || s.limited core ctx 1 then .next s else .next (s.sliceOwn core ctx line)

/-- R310: a store of a core reaches its home slice; the stores of one core to one slice arrive in order (R319). -/
def execSliceWriteRequest (core idx : Nat) (s : State) : Out :=
  match (s.core core).out[idx]? with
  | none => .next s
  | some w => if s.flying w.id || s.behind core w then .next s else .next ((s.sendWrite core w.id).returnMeter core w.ctx)

/-- R310: an Exclusive owner's write-back. -/
def execSliceWriteback (core line : Nat) (s : State) : Out :=
  if (s.core core).l1.any (fun x => decide (x.line = line) && x.excl) then .next (s.sliceWriteBack core line) else .next s

/-- The core whose meter takes the charges of work that no core asked for: the lowest core of the partition's quarters
(notes/assumptions/5.md). -/
def State.chargeCore (s : State) (c : Nat) : Nat :=
  (((upto 16).find? (fun q => (s.part (s.partOf c)).hasQuarter q)).getD 0) * 32

/-- R424, R426: the walker of a die makes a translation. -/
def execPageWalk (die ctx : Nat) (va : BitVec 64) (acc : Access) (level : Nat) (s : State) : Out :=
  let core := s.chargeCore ctx
  let a := va.toNat % 2 ^ 57
  let s0 := s.walkReads core ctx a
  .next ((s0.walkWrites core ctx a (s0.walk die ctx a acc level).1).returnMeter core ctx)

end Sys2Proof.Machine
end

