-- ==== Sys2Proof/Machine/Host.lean ====
section
/-! DEFINITION. The host interface: register pages (22 R470, R471), rings and notifies (R472 to R475), packets (R476 to R481),
TLB invalidations (20 R427), page-request answers (R432), command cores and mailboxes (22 R484 to R486). -/

namespace Sys2Proof.Machine

/-! ### Command cores (R484, R485) -/

def State.cmdCore (s : State) (c : Nat) : CmdCore := tget {} s.cmdCores c

/-- The work of a command core (R484) under an image of Vukesan's: nothing while the core is held in reset, and nothing of itself under
another image, whose work reaches the machine as the core's own writes (notes/assumptions/68.md). -/
def State.onCore (s : State) (c : Nat) (body : State → Out) : Out :=
  if (s.cmdCore c).held || !(s.cmdCore c).golden then .next s else body s

/-- R498: packets that have started complete under any image. -/
def State.onPacket (s : State) (c : Nat) (started : Bool) (body : State → Out) : Out :=
  if (s.cmdCore c).held || !((s.cmdCore c).golden || started) then .next s else body s

/-! ### Writes to a function's page (R470, R483, R496) -/

/-- R483: a write that arrives during a reset is discarded, and FLRDROP counts it, up to 2^32 − 1. -/
def State.dropWrite (s : State) (fn : Nat) : State :=
  s.modFunc fn (fun F => { F with flrDrop := if F.flrDrop = 0xFFFFFFFF then F.flrDrop else F.flrDrop + 1 })

/-- R470, R483: a write to the page of a function: performed, or discarded and counted while the function is reset. -/
def State.pageWrite (s : State) (fn : Nat) (body : State → Out) : Out :=
  if 16 < fn then .next s else if (s.func fn).usable then body s else .next (s.dropWrite fn)

/-! ### Record rings (R472, R555, R466, R500) -/

/-- R472: a write of a base register. -/
def RecRing.writeBase (R : RecRing) (v : W64) : RecRing := if R.en then R else { R with base := v &&& ~~~0xFFF#64 }
/-- R472, R555: a write of a control register. The flag tells whether it enabled the ring. -/
def RecRing.writeCtl (R : RecRing) (v : W64) : RecRing × Bool :=
  let log := (v.extractLsb' 0 5).toNat
  let vec := (v.extractLsb' 16 8).toNat
  if R.en then (if v.getLsbD 31 then R else { R with en := false }, false)
  else if v.getLsbD 31 then
    (if 3 ≤ log ∧ log ≤ 16 then ({ R with en := true, vec := vec, log2n := log, pos := 0 }, true) else (R, false))
  else ({ R with vec := vec, log2n := log }, false)
def RecRing.readCtl (R : RecRing) : W64 := BitVec.ofNat 64 ((if R.en then 2 ^ 31 else 0) + R.vec * 2 ^ 16 + R.log2n)

def State.writePrqCtl (s : State) (fn : Nat) (v : W64) : State :=
  let r := (s.func fn).prq.writeCtl v
  let s1 := s.modFunc fn (fun F => { F with prq := r.1 })
  if r.2 then
    ({ s1 with prqs := s1.prqs.map (fun (q : PageReq) => if q.fn = fn then { q with pos := none } else q) } : State).flushPrq fn
  else s1
def State.writeMtrCtl (s : State) (fn : Nat) (v : W64) : State :=
  (s.modFunc fn (fun F => { F with mtr := (F.mtr.writeCtl v).1 })).flushMtr fn
def State.writeErrCtl (s : State) (v : W64) : State := ({ s with errRing := (s.errRing.writeCtl v).1 } : State).flushErr

/-! ### Rings (R472 to R475) -/

/-- R470: ring numbers of a function. -/
def State.ringOk (s : State) (fn ring : Nat) : Bool :=
  decide (1 ≤ fn ∧ fn ≤ 16) && decide (ring < 8 * (s.part (partOfFn fn)).ctxCount)

/-- R472: EN becomes 0: packets that have not started are forgotten. -/
def Ring.disable (R : Ring) : Ring :=
  { R with en := false, stopped := false, waitSlot := none, pkts := R.pkts.filter (fun p => p.started) }

/-- R472: a write of RINGCTL. -/
def Ring.writeCtl (R : Ring) (v : W64) : Ring :=
  let log := (v.extractLsb' 0 5).toNat
  let vec := (v.extractLsb' 16 8).toNat
  if R.en then (if v.getLsbD 31 then R else R.disable)
  else if v.getLsbD 31 then
    (if 3 ≤ log ∧ log ≤ 16 then
      { R with en := true, vec := vec, log2n := log, head := 0, tail := 0, comp := 0, err := 0, wakeAgain := false, epoch := R.epoch + 1 }
     else R)
  else { R with vec := vec, log2n := log }
def Ring.readCtl (R : Ring) : W64 := BitVec.ofNat 64 ((if R.en then 2 ^ 31 else 0) + R.vec * 2 ^ 16 + R.log2n)
def Ring.readStat (R : Ring) : W64 :=
  BitVec.ofNat 64 (R.head.toNat * 2 ^ 32 + R.err * 256 + (if R.wakeAgain then 4 else 0) + (if R.waitSlot.isSome then 2 else 0) +
    (if R.run then 1 else 0))

/-- R472: the ring is enabled. -/
def execRingEnable (fn ring : Nat) (v : BitVec 64) (s : State) : Out :=
  s.pageWrite fn (fun s => if s.ringOk fn ring then .next (s.modRing fn ring (fun R => R.writeCtl (v ||| 0x80000000#64))) else .next s)

/-- R472: the ring is disabled. -/
def execRingDisable (fn ring : Nat) (s : State) : Out :=
  s.pageWrite fn (fun s => if s.ringOk fn ring then .next (s.modRing fn ring (fun R => if R.en then R.disable else R)) else .next s)

/-- R474: the rate tokens of a function at a time, in parts of 1/2,400: RATE tokens for every µs, up to DEPTH. -/
def Func.creditAt (F : Func) (now : Nat) : Nat := min (F.depth * Config.usPeriods) (F.credit + (now - F.refillAt) * F.rate)

/-- R474: a token is taken; RATE 0 is unlimited. -/
def Func.takeToken (F : Func) (now : Nat) : Option Func :=
  if F.rate = 0 then some F
  else if Config.usPeriods ≤ F.creditAt now then some { F with credit := F.creditAt now - Config.usPeriods, refillAt := now }
  else none

/-- R475: a wake: an idle parser starts, and one that waits for a slot reads it again. -/
def Ring.wake (R : Ring) : Ring := { R with run := true, waitSlot := none }

/-- R473: whether a notify is a new tail, and whether it overruns. -/
def Ring.newer (R : Ring) (v : BitVec 32) : Bool := decide (1 ≤ (v - R.tail).toNat ∧ (v - R.tail).toNat ≤ 2 ^ 31 - 1)
def Ring.overrun (R : Ring) (v : BitVec 32) : Bool := decide (R.slots < (v - R.head).toNat)

/-- R473: a write of NOTIFY. -/
def State.notify (s : State) (fn ring : Nat) (v : BitVec 32) : State :=
  let R := s.ring fn ring
  if !R.en then s
  else if R.newer v && R.overrun v then
    (s.modRing fn ring (fun R => { R.disable with err := 1 })).signal fn 1
  else
    let s1 := if R.newer v then s.modRing fn ring (fun R => { R with tail := v }) else s
    match (s1.func fn).takeToken s1.time with
    | some F => (s1.modFunc fn (fun _ => F)).modRing fn ring Ring.wake
    | none => s1.modRing fn ring (fun R => { R with wakeAgain := true })

def execNotifyWrite (fn ring : Nat) (v : BitVec 32) (s : State) : Out :=
  s.pageWrite fn (fun s => if s.ringOk fn ring then .next (s.notify fn ring v) else .next s)

/-- R474: the rings of a function that wait for a token, in increasing context and ring number. -/
def State.waitingRings (s : State) (fn : Nat) : List Nat :=
  ((s.func fn).rings.filter (fun r => r.2.wakeAgain && !r.2.run)).map (·.1)

/-- R474: waiting rings take the tokens there are, one each. -/
def State.serveTokens (s : State) (fn : Nat) : State :=
  (s.waitingRings fn).foldl (fun (s : State) r =>
    match (s.func fn).takeToken s.time with
    | some F => (s.modFunc fn (fun _ => F)).modRing fn r (fun R => { R.wake with wakeAgain := false })
    | none => s) s

/-- R474: a token has become available, and a waiting ring takes it at once. -/
def execTokenRefill (fn : Nat) (s : State) : Out := .next (s.serveTokens fn)

/-- R474: a write of NOTIFYRATE of a function. -/
def State.writeRate (s : State) (fn : Nat) (v : W64) : State :=
  let d := max 1 (v.extractLsb' 16 8).toNat
  (s.modFunc fn (fun F => { F with depth := d, rate := (v.extractLsb' 0 16).toNat, credit := d * Config.usPeriods, refillAt := s.time })).serveTokens fn
def execNotifyrateWrite (fn : Nat) (v : BitVec 64) (s : State) : Out :=
  s.pageWrite 0 (fun s => if 1 ≤ fn ∧ fn ≤ 16 then .next (s.writeRate fn v) else .next s)

/-! ### Packets: their form (R476, R477) -/

def allZero (bs : List Byte) : Bool := bs.all (fun b => decide (b = 0))

/-- The field of a slot. -/
def slotNum (bs : List Byte) (o n : Nat) : Nat := numOfBytes ((bs.drop o).take n)
/-- Bytes `a` to `b - 1` are zero. -/
def slotZero (bs : List Byte) (a b : Nat) : Bool := allZero ((bs.drop a).take (b - a))
def slotType (bs : List Byte) : Nat := slotNum bs 4 1

def sizeOk (n : Nat) : Bool := decide (n = 4) || decide (n = 8)

/-- R477: the body of WAIT_MEM and of PREDICATE. -/
def testBody (bs : List Byte) : Bool :=
  decide (slotNum bs 40 1 < 4) && sizeOk (slotNum bs 41 1) && decide (slotNum bs 42 1 < 2) && decide (slotNum bs 16 8 % slotNum bs 41 1 = 0)

/-- R476, R477, R480: whether a packet is well formed: its type is known, its zero bytes are zero, and its sizes,
alignments and counts are legal. -/
def packetOk (bs : List Byte) : Bool :=
  let f := slotNum bs 5 1
  decide (f < 4) && slotZero bs 6 8 && (decide (f < 2) || decide (slotNum bs 8 8 % 8 = 0)) &&
  (match slotType bs with
   | 1 => decide (slotNum bs 59 1 < 4) && slotZero bs 61 64
   | 2 => decide (slotNum bs 40 1 < 4) && slotZero bs 41 64 && decide (16 ≤ slotNum bs 32 8 ∧ slotNum bs 32 8 ≤ 2 ^ 32 ∧ slotNum bs 32 8 % 16 = 0)
   | 3 => testBody bs && slotZero bs 43 64
   | 4 => sizeOk (slotNum bs 32 1) && decide (slotNum bs 33 1 < 2) && slotZero bs 34 64 && decide (slotNum bs 16 8 % slotNum bs 32 1 = 0)
   | 5 => decide (slotNum bs 16 1 < 2) && slotZero bs 17 64
   | 6 => slotZero bs 24 64
   | 7 => decide (slotNum bs 24 1 < 2) && slotZero bs 25 64 && decide (slotNum bs 16 8 % 8 = 0)
   | 8 => testBody bs && slotZero bs 45 64
   | 9 => slotZero bs 24 64
   | _ => false)

/-- R478: LAUNCH, COPY and RELAUNCH start once every earlier packet has started. -/
def overlaps (bs : List Byte) : Bool := decide (slotType bs = 1) || decide (slotType bs = 2) || decide (slotType bs = 9)

/-- R478: whether a packet may start. -/
def Ring.mayStart (R : Ring) (pos : Nat) : Bool :=
  match R.pkt pos with
  | none => false
  | some p =>
    let old := R.pkts.takeWhile (fun q => decide (q.pos ≠ pos))
    !p.started && p.code.isNone &&
    old.all (fun q => q.code.isSome || (q.started && overlaps q.bytes && overlaps p.bytes))

/-! ### The parser (R475, R481) -/

/-- The slot of a ring position in host memory. -/
def State.readSlot (s : State) (fn : Nat) (R : Ring) (pos : BitVec 32) : List Byte := s.hostBytes fn (R.base.toNat + 64 * (pos.toNat % R.slots)) 64
def seqOk (bs : List Byte) (pos : BitVec 32) : Bool := decide (slotNum bs 0 4 = pos.toNat)

def Ring.key (R : Ring) (pos : BitVec 32) : Nat := R.epoch * 2 ^ 32 + pos.toNat

/-- R475: a packet is copied out, and HEAD passes it. -/
def State.takeSlots (s : State) (fn ring : Nat) (slots : List (List Byte)) : State :=
  s.modRing fn ring (fun R => { R with
    pkts := R.pkts ++ ((upto slots.length).zip slots).map (fun q => { pos := R.key (R.head + BitVec.ofNat 32 q.1), bytes := q.2 })
    head := R.head + BitVec.ofNat 32 slots.length
    wbDirty := some (R.wbDirty.getD s.time) })

/-- R480: packets that can not run complete with code 7. -/
def State.refuseAll (s : State) (fn ring : Nat) (keys : List Nat) : State :=
  keys.foldl (fun (s : State) k => s.completePkt fn ring k 7 0) s

/-- R481: how many arms a PREDICATE takes with it: none where they can not all be published. -/
def Ring.arms (R : Ring) (bs : List Byte) : Nat :=
  if slotType bs = 8 then
    let n := slotNum bs 43 1 + slotNum bs 44 1
    if R.slots < 1 + n then 0 else n
  else 0

/-- R475, R481: the parser takes the packet at HEAD with its arms, or waits for a slot. -/
def State.parseHead (s : State) (fn ring : Nat) : State :=
  let R := s.ring fn ring
  let bs := s.readSlot fn R R.head
  let wait := s.modRing fn ring (fun R => { R with waitSlot := some s.time })
  if !seqOk bs R.head then wait
  else
    let n := R.arms bs
    let ps := (upto n).map (fun k => R.head + BitVec.ofNat 32 (k + 1))
    let arms := ps.map (fun p => s.readSlot fn R p)
    if (R.tail - R.head).toNat < 1 + n ∨ (ps.zip arms).any (fun q => !seqOk q.2 q.1) then wait
    else
      let s1 := s.takeSlots fn ring (bs :: arms)
      let keys := (upto (1 + n)).map (fun k => R.key (R.head + BitVec.ofNat 32 k))
      let tooMany := decide (slotType bs = 8) && decide (R.slots < 1 + (slotNum bs 43 1 + slotNum bs 44 1))
      let broken := !packetOk bs || tooMany || decide (64 < n) || arms.any (fun a => decide (slotType a = 8))
      let s2 := if broken then s1.refuseAll fn ring keys
        else s1.refuseAll fn ring (((keys.drop 1).zip arms).filterMap (fun q => if packetOk q.2 then none else some q.1))
      s2.watch (s2.ringCtx fn ring)

/-- R475: one turn of the parser's loop. -/
def State.drainRing (s : State) (fn ring : Nat) : State :=
  let R := s.ring fn ring
  if !R.run ∨ R.waitSlot.isSome ∨ !(s.func fn).usable then s
  else if R.en ∧ R.head ≠ R.tail ∧ !R.stopped then s.parseHead fn ring
  else
    (s.writeBackHead fn ring).modRing fn ring (fun R => if R.wakeAgain then { R with wakeAgain := false } else { R with run := false })

def execParserDrain (fn ring : Nat) (s : State) : Out := s.onCore 0 (fun s => .next (s.drainRing fn ring))

/-- R475: 2 µs after a slot was not ready it is read again. -/
def execParserRetry (fn ring : Nat) (s : State) : Out :=
  s.onCore 0 (fun s =>
    match (s.ring fn ring).waitSlot with
    | some t => if t + 2 * Config.usPeriods ≤ s.time then .next (s.modRing fn ring (fun R => { R with waitSlot := none })) else .next s
    | none => .next s)

/-- R475: HEAD is written back at least every 20 µs. -/
def execHeadWritebackTimer (fn ring : Nat) (s : State) : Out :=
  s.onCore 0 (fun s =>
    match (s.ring fn ring).wbDirty with
    | some t => if t + 20 * Config.usPeriods ≤ s.time then .next (s.writeBackHead fn ring) else .next s
    | none => .next s)

/-! ### The accesses of packets (R164, R425, R477) -/

/-- How an access of a packet ends: a place, a wait for a page, or a cause. -/
inductive PktAcc where
  | ok (pa : Nat)
  | wait (id : Option Nat)
  | bad (cause : Nat)
  deriving DecidableEq, Repr

/-- R425, R429: an access of a packet to a virtual address of its context, at LEVEL 0. -/
def State.pktAccess (s : State) (c : Nat) (p : PktRun) (va : W64) (acc : Access) : State × PktAcc :=
  if !canonicalVA va then (s, .bad 5)
  else if p.fail then (s, .bad 8)
  else
    match s.translateAt (s.chargeCore c) c va acc 0 with
    | (s1, .ok pa) => (s1, .ok pa)
    | (s1, .denied _) => (s1, .bad 7)
    | (s1, .missing _ _ false) => (s1, .bad 8)
    | (s1, .missing page z true) => let r := s1.requestPage c page z acc true; (r.1, .wait r.2)

/-- The accesses of all the lines of a range; the first that waits or fails decides. -/
def State.pktLines (s : State) (c : Nat) (p : PktRun) (acc : Access) : List (W64 × Nat) → State × List (Nat × Nat) × Option PktAcc
  | [] => (s, [], none)
  | (va, n) :: t =>
    match s.pktAccess c p va acc with
    | (s1, .ok pa) =>
      let r := s1.pktLines c p acc t
      (r.1, (pa, n) :: r.2.1, r.2.2)
    | (s1, x) => (s1, [], some x)

/-- The stretches of a range of virtual addresses, line by line. -/
def linePieces (a : W64) (n : Nat) : List (W64 × Nat) :=
  let off := a.toNat % 128
  (upto ((off + n + 127) / 128)).map (fun k =>
    if k = 0 then (a, min n (128 - off)) else (a + BitVec.ofNat 64 (128 * k - off), min 128 (off + n - 128 * k)))

/-- A packet's read of device memory. The flag tells of an uncorrectable error. -/
def State.pktRead (s : State) (c pa n : Nat) : State × List Byte × Bool :=
  let k := s.chargeCore c
  if s.isLocal pa then
    let s1 := s.sliceFetch k c (lineOf pa)
    (s1, readBytes s1.mem pa n, poisoned s1.poison pa n)
  else s.remoteRead k c pa n true

def State.pktReads (s : State) (c : Nat) (ps : List (Nat × Nat)) : State × List Byte × Bool :=
  ps.foldl (fun (r : State × List Byte × Bool) q =>
    match r.1.pktRead c q.1 q.2 with
    | (s1, bs, bad) => (s1, r.2.1 ++ bs, r.2.2 || bad)) (s, [], false)

/-- A packet's writes to device memory. -/
def State.pktWrites (s : State) (c : Nat) : List (Nat × Nat) → List Byte → State
  | [], _ => s
  | (pa, n) :: t, bs => State.pktWrites (s.requestWrite (s.chargeCore c) c pa (bs.take n)) c t (bs.drop n)

/-- The charges of a packet's accesses are posted at once (notes/assumptions/5.md). -/
def State.pktEnd (s : State) (c : Nat) : State := s.returnMeter (s.chargeCore c) c

/-- What a packet does when an access waits or fails. -/
def State.pktStop (s : State) (fn ring pos : Nat) (x : PktAcc) : State :=
  let c := s.ringCtx fn ring
  match x with
  | .bad k => (s.completePkt fn ring pos 5 k).pktEnd c
  | .wait id => ((s.modPkt fn ring pos (fun p => { p with prq := id, since := s.time })).pktEnd c)
  | .ok _ => s

/-- A packet acts when its turn has come, or goes on if it has started. -/
def State.pktTurn (s : State) (fn ring pos : Nat) : Option PktRun :=
  let R := s.ring fn ring
  match R.pkt pos with
  | some p => if (s.func fn).usable && p.code.isNone && p.prq.isNone && (p.started || R.mayStart pos) then some p else none
  | none => none

/-- R280: a packet starts. -/
def State.startPkt (s : State) (fn ring pos : Nat) : State :=
  (s.modPkt fn ring pos (fun p => { p with started := true })).watch (s.ringCtx fn ring)

/-- A packet of a type acts on its turn. -/
def State.pktOf (s : State) (fn ring pos ty : Nat) (body : State → PktRun → State) : State :=
  match s.pktTurn fn ring pos with
  | some p => if slotType p.bytes = ty then body (s.startPkt fn ring pos) p else s
  | none => s

/-- R498: whether a packet has started. -/
def State.pktStarted (s : State) (fn ring pos : Nat) : Bool := ((s.ring fn ring).pkt pos).any (fun p => p.started)
/-- The row of a packet of a type, which a command core serves. -/
def State.servePkt (s : State) (c fn ring pos ty : Nat) (body : State → PktRun → State) : Out :=
  s.onPacket c (s.pktStarted fn ring pos) (fun s => .next (s.pktOf fn ring pos ty body))

/-! ### LAUNCH (R351, R352, R477, R478) -/

def launchOf (p : PktRun) : Launch :=
  { entry := BitVec.ofNat 64 (p.num 16 8), cAddr := BitVec.ofNat 64 (p.num 24 8), cBytes := p.num 32 4,
    gx := p.num 36 4, gy := p.num 40 4, gz := p.num 44 4, scratch := p.num 48 4, v := p.num 52 2, gw := p.num 54 1,
    gangs := p.num 55 1, a := p.num 56 1, tiles := p.num 57 1, bars := p.num 58 1, pair := decide (p.num 59 1 % 2 = 1),
    fuse := decide (p.num 59 1 / 2 = 1), xg := p.num 60 1 }

/-- R351, R354, R416: the grid goes to the dispatchers. -/
def State.beginLaunch (s : State) (fn ring pos : Nat) (L : Launch) : State :=
  let c := s.ringCtx fn ring
  let n := (s.ctx c).serial
  let T : Team := { ctx := c, ref := gridRef c n, launch := L, serial := n, grid := some (fn, ring, pos), imgAddr := L.cAddr, order := s.nextId }
  let s1 := { s with nextId := s.nextId + 1 }.modCtx c (fun C => { C with serial := n + 1 })
  ((s1.modPkt fn ring pos (fun p => { p with serial := some n })).queueNext T 0).watch c

/-- R501: no launch is accepted once a die has failed. -/
def State.dieDown (s : State) : Bool := s.dies.any (fun d => d.2.failed)

def State.launchPkt (s : State) (fn ring pos : Nat) (p : PktRun) : State :=
  let c := s.ringCtx fn ring
  let L := launchOf p
  if p.serial.isSome then s
  else if !(s.ctx c).en then s.completePkt fn ring pos 3 1
  else match launchBad L with
  | some row => s.completePkt fn ring pos 3 row
  | none =>
    if !s.everFits (s.partOf c) L then s.completePkt fn ring pos 4 0
    else if L.cAddr = 0 then s.beginLaunch fn ring pos L
    else
      match s.pktLines c p .read (linePieces L.cAddr (256 + L.cBytes)) with
      | (s1, _, some x) => s1.pktStop fn ring pos x
      | (s1, ps, none) =>
        let r := s1.pktReads c ps
        if r.2.2 then r.1.pktStop fn ring pos (.bad 12) else (r.1.pktEnd c).beginLaunch fn ring pos L

def execLaunch (fn ring pos : Nat) (s : State) : Out :=
  if s.dieDown then .next s else s.servePkt 1 fn ring pos 1 (fun s p => s.launchPkt fn ring pos p)

/-! ### COPY -/

def PktRun.srcHost (p : PktRun) : Bool := decide (p.num 40 1 % 2 = 1)
def PktRun.dstHost (p : PktRun) : Bool := decide (p.num 40 1 / 2 % 2 = 1)

def execCopy (fn ring pos : Nat) (s : State) : Out := s.servePkt 0 fn ring pos 2 (fun s _ => s)

/-- R478, R479: the bytes move, and the packet completes. -/
def State.copyPkt (s : State) (fn ring pos : Nat) (p : PktRun) : State :=
  let c := s.ringCtx fn ring
  let src : W64 := BitVec.ofNat 64 (p.num 16 8)
  let dst : W64 := BitVec.ofNat 64 (p.num 24 8)
  let n := p.num 32 8
  let a := if p.srcHost then (s, [], none) else s.pktLines c p .read (linePieces src n)
  match a.2.2 with
  | some x => a.1.pktStop fn ring pos x
  | none =>
    let b := if p.dstHost then (a.1, [], none) else a.1.pktLines c p .write (linePieces dst n)
    match b.2.2 with
    | some x => b.1.pktStop fn ring pos x
    | none =>
      let r := if p.srcHost then (b.1, b.1.hostBytes fn src.toNat n, false) else b.1.pktReads c a.2.1
      if r.2.2 then r.1.pktStop fn ring pos (.bad 12)
      else
        let s1 := if p.dstHost then r.1.hostPut fn dst.toNat r.2.1 else r.1.pktWrites c b.2.1 r.2.1
        (s1.pktEnd c).completePkt fn ring pos 1 0

def execCopyPacketComplete (fn ring pos : Nat) (s : State) : Out :=
  s.onPacket 0 (s.pktStarted fn ring pos) (fun s => match s.pktTurn fn ring pos with
    | some p => if p.started ∧ slotType p.bytes = 2 then .next (s.copyPkt fn ring pos p) else .next s
    | none => .next s)

/-! ### WAIT_MEM, WRITE_MEM, FENCE, ENERGY_MARK, TIMESTAMP -/

/-- R477: the comparison of a test. -/
def testHolds (p : PktRun) (w : Nat) : Bool :=
  let n := p.num 41 1
  let x := Nat.land w (p.num 32 8) % 2 ^ (8 * n)
  let v := p.num 24 8
  match p.num 40 1 with
  | 0 => decide (x = v)
  | 1 => decide (x ≠ v)
  | 2 => decide (v ≤ x)
  | _ => decide (x < v)

def PktRun.testHost (p : PktRun) : Bool := decide (p.num 42 1 = 1)

/-- R477, R479: the word of a test: its value once it can be read; the place of a device word is monitored. -/
def State.testRead (s : State) (fn ring pos : Nat) (p : PktRun) : State × Option Nat :=
  let c := s.ringCtx fn ring
  let n := p.num 41 1
  if p.testHost then (s, some (s.hostNum fn (p.num 16 8) n))
  else match s.pktAccess c p (BitVec.ofNat 64 (p.num 16 8)) .read with
    | (s1, .ok pa) =>
      let r := s1.pktRead c pa n
      if r.2.2 then (r.1.pktStop fn ring pos (.bad 12), none)
      else ((r.1.pktEnd c).modPkt fn ring pos (fun p => { p with pa := some pa, woken := false }), some (numOfBytes r.2.1))
    | (s1, x) => (s1.pktStop fn ring pos x, none)

/-- R478: a wait reads its word, and completes when the test holds. -/
def State.waitPkt (s : State) (fn ring pos : Nat) (p : PktRun) : State :=
  match s.testRead fn ring pos p with
  | (s1, some w) => if testHolds p w then s1.completePkt fn ring pos 1 0 else s1.modPkt fn ring pos (fun p => { p with since := s.time })
  | (s1, none) => s1

def execWaitMem (fn ring pos : Nat) (s : State) : Out :=
  s.servePkt 0 fn ring pos 3 (fun s p => s.waitPkt fn ring pos p)

/-- R478: host memory is read again every 1 µs. -/
def execWaitMemHostPoll (fn ring pos : Nat) (s : State) : Out :=
  s.onPacket 0 (s.pktStarted fn ring pos) (fun s => match s.pktTurn fn ring pos with
    | some p =>
      if p.started ∧ slotType p.bytes = 3 ∧ p.testHost ∧ p.since + Config.usPeriods ≤ s.time then .next (s.waitPkt fn ring pos p) else .next s
    | none => .next s)

/-- A packet's write of bytes to host or device memory. -/
def State.writePkt (s : State) (fn ring pos : Nat) (p : PktRun) (host : Bool) (bs : List Byte) : State :=
  let c := s.ringCtx fn ring
  let a := p.num 16 8
  if host then (s.hostPut fn a bs).completePkt fn ring pos 1 0
  else match s.pktAccess c p (BitVec.ofNat 64 a) .write with
    | (s1, .ok pa) => ((s1.requestWrite (s1.chargeCore c) c pa bs).pktEnd c).completePkt fn ring pos 1 0
    | (s1, x) => s1.pktStop fn ring pos x

def execWriteMem (fn ring pos : Nat) (s : State) : Out :=
  s.servePkt 0 fn ring pos 4 (fun s p => s.writePkt fn ring pos p (decide (p.num 33 1 = 1)) (bytesOfNum (p.num 32 1) (p.num 24 8)))

/-- R478: the packets of the context's other rings that a joining FENCE waits for. -/
def State.joinSet (s : State) (fn ring : Nat) : List (Nat × Nat) :=
  (s.func fn).rings.flatMap (fun r =>
    if r.1 / 8 = ring / 8 ∧ r.1 ≠ ring then (r.2.pkts.filter (fun p => p.started && p.code.isNone)).map (fun p => (r.1, p.pos)) else [])

def State.fencePkt (s : State) (fn ring pos : Nat) (p : PktRun) : State :=
  let ws := if p.started then p.waits else if p.num 16 1 = 1 then s.joinSet fn ring else []
  let left := ws.filter (fun w => match (s.ring fn w.1).pkt w.2 with
    | some q => q.code.isNone
    | none => false)
  if left.isEmpty then s.completePkt fn ring pos 1 0 else s.modPkt fn ring pos (fun p => { p with waits := left })

def execFencePacket (fn ring pos : Nat) (s : State) : Out :=
  s.servePkt 0 fn ring pos 5 (fun s p => s.fencePkt fn ring pos p)

/-- R460: the mark of a packet. -/
def execEnergyMark (fn ring pos : Nat) (s : State) : Out :=
  s.servePkt 0 fn ring pos 6 (fun s p =>
    (s.modCtx (s.ringCtx fn ring) (fun C => C.addMark ⟨s.time, C.consumed, BitVec.ofNat 64 (p.num 16 8)⟩)).completePkt fn ring pos 1 0)

def execTimestamp (fn ring pos : Nat) (s : State) : Out :=
  s.servePkt 0 fn ring pos 7 (fun s p => s.writePkt fn ring pos p (decide (p.num 24 1 = 1)) (bytesOfNum 8 s.time))

/-! ### PREDICATE (R481) -/

/-- R480, R481: skipped packets complete with code 2. -/
def State.skipAll (s : State) (fn ring : Nat) (keys : List Nat) : State :=
  keys.foldl (fun (s : State) k => s.completePkt fn ring k 2 0) s

def State.predicatePkt (s : State) (fn ring pos : Nat) (p : PktRun) : State :=
  match s.testRead fn ring pos p with
  | (s1, some w) =>
    let A := p.num 43 1
    let B := p.num 44 1
    let key (k : Nat) : Nat := pos / 2 ^ 32 * 2 ^ 32 + (pos + 1 + k) % 2 ^ 32
    let first := (upto A).map key
    let last := (upto B).map (fun k => key (A + k))
    (s1.skipAll fn ring (if testHolds p w then last else first)).completePkt fn ring pos 1 0
  | (s1, none) => s1

def execPredicate (fn ring pos : Nat) (s : State) : Out :=
  s.servePkt 0 fn ring pos 8 (fun s p => s.predicatePkt fn ring pos p)

/-! ### RELAUNCH (R277, R478) -/

/-- R478: the team of the context that a record's address names. -/
def State.savedAt (s : State) (c : Nat) (a : W64) : Option Nat :=
  (s.teams.find? (fun q => decide (q.2.ctx = c) && decide (q.2.state = .saved) && (decide (q.2.reason = 6) || decide (q.2.reason = 8)) &&
    (match q.2.saveOff with
     | some o => decide ((s.ctx c).saveBase + BitVec.ofNat 64 o = a)
     | none => false))).map (·.1)

/-- R277, R478: a named record that is valid queues its team; an exchange group is queued whole (R303). -/
def State.relaunchPkt (s : State) (fn ring pos : Nat) (p : PktRun) : State :=
  let c := s.ringCtx fn ring
  match s.savedAt c (BitVec.ofNat 64 (p.num 16 8)) with
  | none => s.completePkt fn ring pos 7 0
  | some t =>
    match s.readRecord t (s.chargeCore c) with
    | (s1, none) => (s1.modPkt fn ring pos (fun p => { p with since := s.time })).pktEnd c
    | (s1, some (_, r)) =>
      if recordValid (s1.team t) ((s1.team t).restore r) r then
        (((s1.mates t).foldl (fun (s : State) u => if (s.team u).reason = (s.team t).reason then s.relaunch u else s) (s1.pktEnd c)).completePkt
          fn ring pos 1 0).watch c
      else (s1.pktEnd c).completePkt fn ring pos 7 0

def execRelaunch (fn ring pos : Nat) (s : State) : Out :=
  s.servePkt 1 fn ring pos 9 (fun s p => s.relaunchPkt fn ring pos p)

/-! ### TLB invalidation (R427, R428) -/

/-- R428: entries that meet a test leave every TLB, at every level. -/
def State.dropTlb (s : State) (test : TlbEntry → Bool) : State :=
  { s with
    dies := s.dies.map (fun (d : Nat × Die) => (d.1, { d.2 with tlb := d.2.tlb.filter (fun e => !test e) }))
    clusters := s.clusters.map (fun (c : Nat × Cluster) => (c.1, { c.2 with tlb := c.2.tlb.filter (fun e => !test e) }))
    cores := s.cores.map (fun (c : Nat × Core) => (c.1, { c.2 with tlb := c.2.tlb.filter (fun e => !test e) })) }

/-- R427: the block of a request: its base and size. -/
def tlbSize (v : W64) : Nat := [12, 16, 21, 30].getD (v.extractLsb' 8 2).toNat 12
def tlbBase (v : W64) : Nat := (v.extractLsb' 12 45).toNat * 4096 / 2 ^ tlbSize v * 2 ^ tlbSize v
def meets (a n b m : Nat) : Bool := decide (a < b + m ∧ b < a + n)
def tlbCtx (v : W64) : Nat := (v.extractLsb' 0 8).toNat

def tlbMode (v : W64) : Nat := (v.extractLsb' 10 2).toNat

/-- R427: the contexts that a request of a function covers. -/
def State.tlbCovers (s : State) (fn : Nat) (q : TlbReq) (c : Nat) : Bool :=
  if q.s2 then decide (s.partOf c = (q.v.extractLsb' 0 4).toNat)
  else if tlbMode q.v = 2 then decide (s.partOf c = partOfFn fn) else decide (c = tlbCtx q.v)

/-- R427, R428: the entries that a request removes. -/
def State.tlbRemoves (s : State) (fn : Nat) (q : TlbReq) (e : TlbEntry) : Bool :=
  s.tlbCovers fn q e.ctx && (decide (tlbMode q.v ≠ 0) || meets (if q.s2 then e.ipa else e.va) (2 ^ e.size) (tlbBase q.v) (2 ^ tlbSize q.v))

/-- R427: whether the context of a request lies in the function's partition. -/
def State.tlbCtxOk (s : State) (fn : Nat) (v : W64) : Bool :=
  decide (1 ≤ fn ∧ fn ≤ 16) && (s.part (partOfFn fn)).hasCtx (tlbCtx v)

def State.tlbReject (s : State) (fn : Nat) : State := s.modFunc fn (fun F => { F with tlbErr := true })

/-- R428: an invalidation begins: its entries leave the TLBs; what used them is noted, the stores of its contexts among it, and packets
that watch a word translate its address afresh. -/
def State.tlbBegin (s : State) (fn : Nat) (q : TlbReq) : State × TlbReq :=
  let on (c : Nat) : Bool := s.tlbCovers fn q c
  let s1 := s.teams.foldl (fun (s : State) T => if on T.2.ctx && T.2.onDie then
    T.2.gangs.foldl (fun (s : State) g => s.drainAll T.1 g.1) s else s) s
  let f := s1.nextId
  let s2 : State := { s1.dropTlb (s.tlbRemoves fn q) with nextId := f + 1 }
  let s3 : State := { s2 with
    cores := s2.cores.map (fun (c : Nat × Core) => (c.1, { c.2 with
      resid := c.2.resid.map (fun (e : Resid) => if on e.ctx then { e with cov := e.cov ++ [f] } else e)
      pkts := c.2.pkts.map (fun (p : Packet) => if on p.ctx then { p with cov := p.cov ++ [f] } else p) }))
    funcs := s2.funcs.map (fun (F : Nat × Func) => (F.1, { F.2 with rings := F.2.rings.map (fun (r : Nat × Ring) =>
      (r.1, { r.2 with pkts := r.2.pkts.map (fun (p : PktRun) => if on (s.ringCtx F.1 r.1) then { p with woken := true } else p) })) })) }
  let s4 := s3.mapTeams (fun _ T => if on T.ctx then T.mapGangs (fun _ G => { G with port := G.port.map (fun a => { a with cov := a.cov ++ [f] }) }) else T)
  (s4, { q with
    begun := some f
    fills := s.dies.flatMap (fun d => (d.2.ladle.filter (fun c => on c.ctx && (match c.fin with
      | .tok _ _ => true
      | .bar _ _ => false))).map (fun c => c.fin))
    colls := s.parts.flatMap (fun p => p.2.coll.flatMap (fun g => (g.2.ops.filter (fun o => on o.ctx && decide (o.status = 0))).map (fun o => (p.1, g.1, o.k)))) })

/-- R428: nothing is left that used a removed entry: loads have their data, and writes, atomics and accumulates are in their places. -/
def State.tlbClear (s : State) (fn : Nat) (q : TlbReq) (f : Nat) : Bool :=
  let on (c : Nat) : Bool := s.tlbCovers fn q c
  s.flushDone f &&
  s.cores.all (fun C => C.2.out.all (fun w => decide (f ≤ w.id) || !on w.ctx)) &&
  s.teams.all (fun T => !on T.2.ctx || T.2.gangs.all (fun g => g.2.pend.all (fun p => decide (f ≤ p.id) || p.done || (match p.kind with
    | .data => false
    | .tile _ _ _ => false
    | _ => true)))) &&
  q.fills.all (fun x => s.dies.all (fun d => d.2.ladle.all (fun c => decide (c.fin ≠ x)))) &&
  q.colls.all (fun x => (s.group x.1 x.2.1).ops.all (fun o => decide (o.k ≠ x.2.2) || decide (o.status ≠ 0)))

/-- R427, R428: the invalidation in progress of a function ends, if it can, and the next one begins. -/
def State.tlbStep (s : State) (fn : Nat) : State :=
  let begin (s : State) : List TlbReq → State
    | [] => s.modFunc fn (fun F => { F with tlbq := [] })
    | q :: t => let r := s.tlbBegin fn q; r.1.modFunc fn (fun F => { F with tlbq := r.2 :: t })
  match (s.func fn).tlbq with
  | [] => s
  | q :: t =>
    match q.begun with
    | none => begin s (q :: t)
    | some f => if s.tlbClear fn q f then begin s t else s

/-- R427: a valid write waits its turn; the seventeenth behind one in progress is discarded. -/
def State.tlbAsk (s : State) (fn : Nat) (q : TlbReq) : State :=
  let l := (s.func fn).tlbq
  if 17 ≤ l.length then s.tlbReject fn
  else
    let s1 := s.modFunc fn (fun F => { F with tlbq := F.tlbq ++ [q] })
    if l.isEmpty then s1.tlbStep fn else s1

/-- R427: a write of TLBINV; a context outside the function's partition, or mode 11b, is rejected. -/
def State.writeTlbinv (s : State) (fn : Nat) (v : W64) : State :=
  let s1 := s.modFunc fn (fun F => { F with tlbinv := v &&& 0x01FFFFFFFFFFFFFF })
  if tlbMode v = 3 ∨ !s.tlbCtxOk fn v then s1.tlbReject fn else s1.tlbAsk fn { v := v, s2 := false }

def execTlbinvBlock (fn : Nat) (v : BitVec 64) (s : State) : Out :=
  s.pageWrite fn (fun s => s.onCore 2 (fun s => .next (s.writeTlbinv fn (v &&& ~~~0xC00#64))))
def execTlbinvContext (fn : Nat) (v : BitVec 64) (s : State) : Out :=
  s.pageWrite fn (fun s => s.onCore 2 (fun s => .next (s.writeTlbinv fn ((v &&& ~~~0xC00#64) ||| 0x400))))
def execTlbinvPartition (fn : Nat) (v : BitVec 64) (s : State) : Out :=
  s.pageWrite fn (fun s => s.onCore 2 (fun s => .next (s.writeTlbinv fn ((v &&& ~~~0xC00#64) ||| 0x800))))

/-- R427: a write of S2INV, among the invalidations of function 0. -/
def State.writeS2inv (s : State) (v : W64) : State :=
  let s1 := { s with s2inv := v &&& 0x01FFFFFFFFFFFFFF }
  if tlbMode v = 3 then s1.tlbReject 0 else s1.tlbAsk 0 { v := v, s2 := true }
def execS2inv (v : BitVec 64) (s : State) : Out :=
  s.pageWrite 0 (fun s => s.onCore 2 (fun s => .next (s.writeS2inv v)))

/-! ### Answers to page requests (R432) -/

/-- R432: an answer counts only in the function of its request. -/
def State.respond (s : State) (fn id : Nat) (fail : Bool) : State :=
  let s1 := s.modFunc fn (fun F => { F with prqresp := BitVec.ofNat 64 (id % 4096 + (if fail then 2 ^ 16 else 0)) })
  if s1.prqs.any (fun r => decide (r.id = id) && decide (r.fn = fn)) then s1.answerPrq id fail else s1
def execPrqResponseOk (fn id : Nat) (s : State) : Out :=
  s.pageWrite fn (fun s => s.onCore 2 (fun s => .next (s.respond fn id false)))
def execPrqResponseFail (fn id : Nat) (s : State) : Out :=
  s.pageWrite fn (fun s => s.onCore 2 (fun s => .next (s.respond fn id true)))

/-! ### EXPORT (R466) -/

def State.askExport (s : State) (fn : Nat) : State :=
  if fn = 0 then (upto 16).foldl (fun (s : State) p => if (s.part p).enabled then s.modPart p (fun P => { P with exportReq := true }) else s) s
  else s.modPart (partOfFn fn) (fun P => { P with exportReq := true })
def execExportRequest (fn : Nat) (s : State) : Out := s.pageWrite fn (fun s => .next (s.askExport fn))

/-! ### Contexts (R449, R452, R471) -/

/-- R471: the enabled rings of a context stop consuming when it is disabled, and go on when it is enabled
(notes/assumptions/82.md). -/
def State.stopRings (s : State) (c : Nat) (stop : Bool) : State :=
  let fn := fnOfPart (s.partOf c)
  let mine (r : Nat) : Bool := decide (s.ringCtx fn r = c)
  s.modFunc fn (fun F => { F with rings := F.rings.map (fun (r : Nat × Ring) => (r.1, if mine r.1 then { r.2 with stopped := stop && r.2.en } else r.2)) })

/-- R449, R452: a context is enabled; one that is being killed is not, until the kill has ended (R347, notes/assumptions/1.md). -/
def State.enableCtx (s : State) (c : Nat) : State :=
  if (s.ctx c).en || (s.ctx c).dying.isSome then s
  else
    let others := s.contextOrder.filter (fun d => decide (s.partOf d = s.partOf c) && decide (d ≠ c))
    let v := match others with
      | d :: _ => (s.ctx d).vj
      | [] => 0
    (s.modCtx c (fun C => { C with en := true, level := 0, consumed := 0, vj := v, vjFrac := 0, vjDen := 1 })).stopRings c false

/-- R471: a context is disabled: it is killed, and the host is told. -/
def State.disableCtx (s : State) (c : Nat) : State :=
  if (s.ctx c).en then ((s.modCtx c (fun C => { C with en := false })).stopRings c true).killFor c .disabled else s

/-- R470: a context with a descriptor in the page of a function that takes writes. -/
def State.ctxOk (s : State) (c : Nat) : Bool := decide (s.partOf c < 16) && (s.func (fnOfPart (s.partOf c))).usable
/-- R471: a write of EN. -/
def State.enWrite (s : State) (c : Nat) (body : State → State) : Out :=
  if s.partOf c < 16 then s.pageWrite (fnOfPart (s.partOf c)) (fun s => s.onCore 2 (fun s => .next (body s))) else .next s
def execContextEnable (ctx : Nat) (s : State) : Out := s.enWrite ctx (fun s => s.enableCtx ctx)
def execContextDisable (ctx : Nat) (s : State) : Out := s.enWrite ctx (fun s => s.disableCtx ctx)

/-- R471: the 8 bytes of a descriptor at an offset. -/
def Context.read (C : Context) (o : Nat) : W64 :=
  match o with
  | 0 => BitVec.ofNat 64 ((if C.en then 1 else 0) + (if C.vfRight then 2 else 0))
  | 8 => C.s1root
  | 16 => C.khandler
  | 24 => BitVec.ofNat 64 (C.kdeleg.toNat + C.rott * 2 ^ 16 + C.wdog * 2 ^ 32)
  | 32 => C.saveBase
  | 40 => BitVec.ofNat 64 C.saveSize
  | 48 => BitVec.ofNat 64 C.cap
  | 56 => BitVec.ofNat 64 (C.refill + C.share * 2 ^ 32)
  | _ => 0

/-- R471: a write of 8 bytes of a descriptor, but for EN. -/
def Context.write (C : Context) (o : Nat) (v : W64) : Context :=
  match o with
  | 0 => { C with vfRight := v.getLsbD 1 }
  | 8 => { C with s1root := v &&& 0x000FFFFFFFFFF000 }
  | 16 => { C with khandler := v }
  | 24 => { C with kdeleg := v.extractLsb' 0 16, rott := min 1000 (max 1 (v.extractLsb' 16 16).toNat), wdog := (v.extractLsb' 32 32).toNat }
  | 32 => if C.en then C else { C with saveBase := v &&& ~~~0xFFF#64 }
  | 40 => if C.en then C else { C with saveSize := v.toNat }
  | 48 => { C with cap := (v.extractLsb' 0 40).toNat }
  | 56 => { C with refill := (v.extractLsb' 0 32).toNat, share := (v.extractLsb' 32 16).toNat }
  | _ => C

def State.writeDescriptor (s : State) (c o : Nat) (v : W64) : State :=
  let s1 := s.modCtx c (fun C => C.write o v)
  if o = 0 then (if v.getLsbD 0 then s1.enableCtx c else s1.disableCtx c) else s1

/-! ### Images (R485, R491) -/

/-- R491: the signed image at a bus address of function 0: header, body and signature. -/
def State.imageAt (s : State) (addr : W64) : List Byte :=
  s.hostBytes 0 addr.toNat (1024 + Config.imageBody (s.hostBytes 0 addr.toNat 1024) + 512)

/-- The parts of an image. -/
def imageHead (img : List Byte) : List Byte := img.take 1024
def imageBody (img : List Byte) : List Byte := (img.drop 1024).take (Config.imageBody (imageHead img))
def imageSig (img : List Byte) : List Byte := img.drop (1024 + Config.imageBody (imageHead img))

/-- R491: the form of an image: the magic bytes, the zeros, the lengths, and the SHA-512 of the body. -/
def imageForm (img : List Byte) : Bool :=
  decide (img.take 4 = [0x49, 0x4D, 0x47, 0x31]) && Config.imageZeros (imageHead img) &&
  decide (img.length = 1024 + Config.imageBody (imageHead img) + 512) && decide (Config.sha512 (imageBody img) = Config.imageHash (imageHead img))

/-- R491: an image is signed by a key whose SHA-512 is given. -/
def imageUnder (img hash : List Byte) : Bool := Config.verify hash (imageHead img ++ imageBody img) (imageSig img)

/-- R487, R491: an image is signed by a Vukesan key, whose slot is not revoked. -/
def Fuses.signed (F : Fuses) (img : List Byte) : Bool :=
  (upto 4).any (fun k => !F.revoked.getLsbD k && imageUnder img (F.hashes.getD k []))

/-- R491: Agtur firmware is accepted. -/
def State.agturImage (s : State) (img : List Byte) : Bool :=
  imageForm img && Config.imageForAgtur (imageHead img) && s.fuses.signed img && decide (s.fuses.minimum ≤ (Config.imageVersion (imageHead img)).toNat)

/-- R491: the lease keys enrolled for the current tenant identifier. -/
def State.tenantKeys (s : State) : List (List Byte) := (s.leaseKeys.filter (fun k => decide (k.1 = s.pkgTenant))).map (·.2)

/-- R491: a command-core image is accepted for a core: under a Vukesan key, or under a lease key of the current tenant. -/
def State.coreImage (s : State) (core : Nat) (img : List Byte) : Bool :=
  imageForm img && (Config.imageCores (imageHead img)).getLsbD core &&
  (s.fuses.signed img || s.tenantKeys.any (fun k => imageUnder img (Config.sha512 k)))

/-- R485: an image enters a command core's RAM, from its first byte on (notes/assumptions/68.md), and the core starts. -/
def CmdCore.start (img : List Byte) (golden : Bool) : CmdCore :=
  { golden := golden, ram := Config.imageRam img }

/-- R485, R491: an image is loaded into a command core: it runs once it is accepted; a refused one leaves the core held. -/
def State.loadImage (s : State) (core : Nat) (addr : W64) : State × Bool :=
  let img := s.imageAt addr
  let ok := s.coreImage core img
  ({ s with cmdCores := tput s.cmdCores core (if ok then CmdCore.start img (s.fuses.signed img) else { (s.cmdCore core) with held := true }) }, ok)

/-- R485: a write of CCLOAD. With GO it starts a load, in which the core is held; while one is in progress it is ignored. -/
def State.writeCcload (s : State) (v : W64) : State :=
  if s.ccload.getLsbD 3 then s
  else
    let keep := v &&& 0xFFFFFFFFFFFFF007
    let c := (v.extractLsb' 0 3).toNat
    if v.getLsbD 3 then { s with ccload := keep ||| 0x408, cmdCores := tput s.cmdCores c { (s.cmdCore c) with held := true } }
    else { s with ccload := keep ||| (s.ccload &&& 0xC00) }
def execCcload (v : BitVec 64) (s : State) : Out := s.pageWrite 0 (fun s => .next (s.writeCcload v))

/-- R485: the load in progress ends. -/
def State.endLoading (s : State) : State :=
  if s.ccload.getLsbD 3 then
    let r := s.loadImage (s.ccload.extractLsb' 0 3).toNat (s.ccload &&& ~~~0xFFF#64)
    { r.1 with ccload := (s.ccload &&& 0xFFFFFFFFFFFFF007) ||| (if r.2 then 0x800 else 0xC00) }
  else s

/-! ### Mailboxes (R486) -/

def State.mailbox (s : State) (m : Nat) : Mailbox := tget { rcv := m % 8 } s.mailboxes m
def State.setMailbox (s : State) (m : Nat) (M : Mailbox) : State := { s with mailboxes := tput s.mailboxes m M }

/-- R486: the final write of a message interrupts the receiver. -/
def State.interruptCore (s : State) (c : Nat) : State := { s with cmdCores := tput s.cmdCores c { (s.cmdCore c) with irq := true } }

/-- R486: a core writes bytes 56 to 63 of a mailbox, which publishes the message; while FULL = 1 it is discarded, but for that of a
lower-numbered core in the cycle in which another published. -/
def State.publish (s : State) (sender m : Nat) (v : W64) : State :=
  let M := s.mailbox m
  if M.full ∧ !(decide (M.since = s.time) && decide (sender < M.sender)) then s
  else (s.setMailbox m { M with data := writeBytes M.data 56 (bytesOfNum 8 v.toNat), full := true, sender := sender, since := s.time }).interruptCore M.rcv

def execMailboxPublish (sender m : Nat) (v : BitVec 64) (s : State) : Out :=
  if m < 16 ∧ sender < 8 ∧ !(s.cmdCore sender).held then .next (s.publish sender m v) else .next s

/-- R486: only the receiver clears FULL. -/
def State.clearMailbox (s : State) (core m : Nat) : State :=
  if core = (s.mailbox m).rcv then
    { (s.setMailbox m { (s.mailbox m) with full := false }) with cmdCores := tput s.cmdCores core { (s.cmdCore core) with irq := false } }
  else s
def execMailboxClear (core m : Nat) (s : State) : Out :=
  if m < 16 ∧ core < 8 ∧ !(s.cmdCore core).held then .next (s.clearMailbox core m) else .next s

/-- R486: a core's write to a mailbox: its data, while FULL = 0, or MBCTL. -/
def State.mailboxWrite (s : State) (core m o size : Nat) (v : W64) : State :=
  let M := s.mailbox m
  if o = 56 ∧ size = 8 then s.publish core m v
  else if o < 64 then (if M.full then s else s.setMailbox m { M with data := writeBytes M.data o (bytesOfNum size v.toNat) })
  else if o = 64 then
    let s1 := if v.getLsbD 7 then s.clearMailbox core m else s
    s1.setMailbox m { (s1.mailbox m) with rcv := (v.extractLsb' 0 3).toNat }
  else s

def Mailbox.ctl (M : Mailbox) : W64 := BitVec.ofNat 64 ((if M.full then 128 else 0) + M.sender * 16 + M.rcv)

/-! ### Register pages (R470) -/

/-- R415: FNINFO. -/
def State.fnInfo (s : State) (fn : Nat) : W64 :=
  if fn = 0 then 0
  else
    let P := s.part (partOfFn fn)
    BitVec.ofNat 64 (fn + partOfFn fn * 2 ^ 8 + P.ctxBase * 2 ^ 16 + P.ctxCount * 2 ^ 24)

/-- R470, R472: the registers of a ring. -/
def Ring.read (R : Ring) (o : Nat) : W64 :=
  match o with
  | 0 => R.base
  | 8 => R.readCtl
  | 16 => R.headwb
  | 24 => R.tail.setWidth 64
  | 32 => R.readStat
  | _ => 0

def State.vfRead (s : State) (fn off : Nat) : W64 :=
  let p := partOfFn fn
  let n := (s.part p).ctxCount
  if off = 0x800 then (s.part p).shandler
  else if off = 0x808 then BitVec.ofNat 64 (s.part p).slack
  else if 0x1000 ≤ off ∧ off < 0x1100 then
    (if off % 16 = 0 then (s.group p ((off - 0x1000) / 16)).a else (s.group p ((off - 0x1000) / 16)).b)
  else if 0x10000 ≤ off ∧ off < 0x10000 + 256 * n then (s.ctx ((s.part p).ctxBase + (off - 0x10000) / 256)).read (off % 256)
  else if 0x20000 ≤ off ∧ off < 0x20000 + 512 * n then (s.ring fn ((off - 0x20000) / 64)).read (off % 64)
  else 0

/-- R493: BOOTSTAT, with the version of the running Agtur firmware. -/
def State.bootStatus (s : State) : W64 := s.bootstat ||| ((Config.imageVersion (imageHead s.running)).setWidth 64 <<< 16)

def State.pfRead (s : State) (off : Nat) : W64 :=
  if 0x800000 ≤ off ∧ off < 0x800080 then
    BitVec.ofNat 64 ((s.func ((off - 0x800000) / 8 + 1)).depth * 2 ^ 16 + (s.func ((off - 0x800000) / 8 + 1)).rate)
  else if 0x800100 ≤ off ∧ off < 0x800188 then (s.func ((off - 0x800100) / 8)).flrDrop.setWidth 64
  else if off = 0x800200 then s.ccload
  else if 0x800400 ≤ off ∧ off < 0x800480 then (s.part ((off - 0x800400) / 8)).s2ctl
  else if off = 0x800500 then s.s2inv
  else if off = 0x800638 then s.agtCtl
  else if off = 0x800680 then s.bootStatus
  else if off = 0x800700 then s.errRing.base
  else if off = 0x800708 then s.errRing.readCtl
  else 0

/-- R470: the value of the register at an offset of a page. -/
def State.regRead (s : State) (fn off : Nat) : W64 :=
  let F := s.func fn
  if off % 8 ≠ 0 then 0
  else if off = 0 then s.fnInfo fn
  else if off = 0x100 then F.tlbinv
  else if off = 0x108 then BitVec.ofNat 64 ((if F.tlbErr then 2 else 0) + (if F.tlbq.isEmpty then 0 else 1))
  else if off = 0x200 then F.prqresp
  else if off = 0x300 then F.prq.base
  else if off = 0x308 then F.prq.readCtl
  else if off = 0x310 then F.mtr.base
  else if off = 0x318 then F.mtr.readCtl
  else if fn = 0 then s.pfRead off
  else s.vfRead fn off

/-- R470: a read of 8 bytes, or of 4 to either half, of a function's page; any other returns zero. -/
def State.pageRead (s : State) (fn off size : Nat) : W64 :=
  if size = 8 ∧ off % 8 = 0 then s.regRead fn off
  else if size = 4 ∧ off % 4 = 0 then (s.regRead fn (off / 8 * 8) >>> (if off % 8 = 0 then 0 else 32)) &&& 0xFFFFFFFF
  else 0

/-- R469: the function page, with the offset in it, at a package physical address. -/
def pageAt (a : Nat) : Option (Nat × Nat) :=
  if 0xC000000000 ≤ a ∧ a < 0xC000000000 + 17 * 0x1000000 then some ((a - 0xC000000000) / 0x1000000, a % 0x1000000) else none
/-- R486: the mailbox, with the offset in it, at a package physical address. -/
def mailboxAt (a : Nat) : Option (Nat × Nat) :=
  if 0xC100000000 ≤ a ∧ a < 0xC100000000 + 16 * 128 then some ((a - 0xC100000000) / 128, a % 128) else none

/-- R469, R486: a command core's read at a package physical address of device register space. -/
def State.coreRead (s : State) (a size : Nat) : W64 :=
  match pageAt a, mailboxAt a with
  | some q, _ => s.pageRead q.1 q.2 size
  | none, some q => if q.2 = 64 then (s.mailbox q.1).ctl else BitVec.ofNat 64 (readNum (s.mailbox q.1).data q.2 (if q.2 + size ≤ 64 then size else 0))
  | none, none => 0

/-- R551: PORTSTAT. -/
def Port.stat (P : Port) : W64 :=
  BitVec.ofNat 64 (P.peerPkg * 2 ^ 44 + P.peerPort * 2 ^ 39 + P.replays * 2 ^ 16 + P.lanes * 2 ^ 8 + P.mode * 2 ^ 4 + P.state)

/-- The registers without an offset that the partition supervisor reads (R323, R325, R415, R438, R536, R537, R548, R551; notes/assumptions/11.md). -/
inductive SupReg where
  | classMap (die : Nat) | rtrWeight (die router : Nat) | pRate (die part : Nat) | sieveMask (slice part : Nat)
  | sieveOcc (slice part : Nat) | portStat (port : Nat) | wtab (n : Nat) | wtabVer
  | fabRoute (pkg : Nat) | remWin (part n : Nat) | capCfg | capBudget | partCfg (part : Nat) | extMap (part n : Nat)
  deriving DecidableEq, Repr

/-- R323, R325, R415, R438, R536, R537, R548, R551: what a read of such a register returns. Reads of PORTSTAT clear REPLAYS, which is a row of its own (R18). -/
def State.supervisorRead (s : State) (r : SupReg) : W64 :=
  match r with
  | .classMap d => (s.dieOf d).classMap
  | .rtrWeight d k => (s.dieOf d).weights k
  | .pRate d p => tget 0 (s.dieOf d).prate p
  | .sieveMask h p => ((s.slice h).sieve p).setWidth 64
  | .sieveOcc h p => BitVec.ofNat 64 (tget 0 (s.slice h).occ p)
  | .portStat p => (tget {} s.ports p).stat
  | .wtab n => BitVec.ofNat 64 (numOfBytes ((upto 4).flatMap (fun j => bytesOfNum 2 (s.weight (4 * n + j)))))
  | .wtabVer => BitVec.ofNat 64 s.wtabVer
  | .fabRoute k => tget 0 s.fabRoute k
  | .remWin p n => tget 0 (s.part p).remwin n
  | .capCfg => s.capcfg
  | .capBudget => s.capbudget
  | .partCfg p => (s.part p).cfg
  | .extMap p n => tget 0 (s.part p).ext n

/-- R18: a read of an RC field returns it and clears it: FLRDROP, by an access to its lower half; under function number 25,
PORTSTAT.REPLAYS of a port, for which the manual gives no offset (notes/assumptions/11.md). -/
def execReadClearRegister (fn off : Nat) (s : State) : Out :=
  if fn = 0 ∧ 0x800100 ≤ off ∧ off < 0x800188 ∧ off % 8 = 0 then .next (s.modFunc ((off - 0x800100) / 8) (fun F => { F with flrDrop := 0 }))
  else if fn = 25 ∧ off < 18 then .next { s with ports := tput s.ports off { (tget {} s.ports off) with replays := 0 } }
  else .next s

/-- R543: a group register, ignored while an operation is in flight. -/
def State.writeColl (s : State) (p g : Nat) (b : Bool) (v : W64) : State :=
  if (s.group p g).flying = 0 then
    s.modGroup p g (fun G => if b then { G with b := v &&& 0xFF0000073FFFFFFF } else { G with a := v &&& 0x800003FF07FFFFFF })
  else s

def State.vfWrite (s : State) (fn off : Nat) (v : W64) (low : Bool) : State :=
  let p := partOfFn fn
  let n := (s.part p).ctxCount
  if off = 0x800 then s.modPart p (fun P => { P with shandler := v })
  else if off = 0x808 then s.modPart p (fun P => { P with slack := v.toNat })
  else if 0x1000 ≤ off ∧ off < 0x1100 then s.writeColl p ((off - 0x1000) / 16) (off % 16 = 8) v
  else if 0x10000 ≤ off ∧ off < 0x10000 + 256 * n then s.writeDescriptor ((s.part p).ctxBase + (off - 0x10000) / 256) (off % 256) v
  else if 0x20000 ≤ off ∧ off < 0x20000 + 512 * n then
    let r := (off - 0x20000) / 64
    match off % 64 with
    | 0 => s.modRing fn r (fun R => if R.en then R else { R with base := v &&& ~~~0xFFF#64 })
    | 8 => s.modRing fn r (fun R => R.writeCtl v)
    | 16 => s.modRing fn r (fun R => if R.en then R else { R with headwb := v &&& ~~~0xF#64 })
    | 24 => if low then s.notify fn r (v.extractLsb' 0 32) else s
    | _ => s
  else s

/-- R425: S2CTL by function 0's driver. -/
def State.writeS2ctl (s : State) (p : Nat) (v : W64) : State :=
  s.modPart p (fun P => if P.s2ctl.getLsbD 1 then P else { P with s2ctl := v &&& 0x000FFFFFFFFFF001 })

def State.pfWrite (s : State) (off : Nat) (v : W64) : State :=
  if 0x800000 ≤ off ∧ off < 0x800080 then s.writeRate ((off - 0x800000) / 8 + 1) v
  else if off = 0x800200 then s.writeCcload v
  else if 0x800400 ≤ off ∧ off < 0x800480 then s.writeS2ctl ((off - 0x800400) / 8) v
  else if off = 0x800500 then s.writeS2inv v
  else if 0x800600 ≤ off ∧ off < 0x800638 then { s with agtData := tput s.agtData ((off - 0x800600) / 8) v }
  else if off = 0x800700 then { s with errRing := s.errRing.writeBase v }
  else if off = 0x800708 then s.writeErrCtl v
  else s

/-- R470: a write of the register at an aligned offset; `low` tells that its low half is written. -/
def State.regPut (s : State) (fn off : Nat) (v : W64) (low : Bool) : State :=
  if off = 0x100 then s.writeTlbinv fn v
  else if off = 0x108 then (if v.getLsbD 1 then s.modFunc fn (fun F => { F with tlbErr := false }) else s)
  else if off = 0x200 then (if low then s.respond fn (v.extractLsb' 0 12).toNat (v.getLsbD 16) else s)
  else if off = 0x300 then s.modFunc fn (fun F => { F with prq := F.prq.writeBase v })
  else if off = 0x308 then s.writePrqCtl fn v
  else if off = 0x310 then s.modFunc fn (fun F => { F with mtr := F.mtr.writeBase v })
  else if off = 0x318 then s.writeMtrCtl fn v
  else if off = 0x400 then (if low && v.getLsbD 0 then s.askExport fn else s)
  else if fn = 0 then s.pfWrite off v
  else s.vfWrite fn off v low

/-- R490: an offset of AGTCMD0 to AGTCMD6, which read as zero and hold what is written. -/
def isAgtData (fn off : Nat) : Bool := decide (fn = 0 ∧ 0x800600 ≤ off ∧ off < 0x800638)

/-- R470: the whole register that a write of 4 bytes makes. TLBINVSTAT's other half counts as zero, so that no bit is
cleared by it (R18). -/
def State.merged (s : State) (fn off size : Nat) (v : W64) : W64 :=
  if size = 8 then v
  else
    let old := if off / 8 * 8 = 0x108 then 0
      else if isAgtData fn off then tget 0 s.agtData ((off - 0x800600) / 8) else s.regRead fn (off / 8 * 8)
    if off % 8 = 0 then (old &&& 0xFFFFFFFF00000000) ||| (v &&& 0xFFFFFFFF) else (old &&& 0xFFFFFFFF) ||| (v <<< 32)

/-- R434, R435: a pending message is delivered once its vector is open. -/
def State.sendPending (s : State) (fn vec : Nat) : State :=
  if (s.func fn).msixPend.getLsbD vec ∧ (s.func fn).msixOpen vec then
    (s.modFunc fn (fun F => { F with msixPend := F.msixPend &&& ~~~(1#64 <<< vec) })).sendMsg fn vec
  else s

/-- R434: a write of 4 or 8 bytes to the MSI-X structures of a function: an entry of the table (address, data, mask bit), or, after the
table, Message Control with MSI-X Enable and Function Mask (notes/assumptions/69.md). -/
def State.msixWrite (s : State) (fn off size : Nat) (v : W64) : State :=
  let k := off / 16
  let E := tget {} (s.func fn).msixTab k
  let put (E : MsixEntry) (s : State) : State := s.modFunc fn (fun F => { F with msixTab := tput F.msixTab k E })
  let mask (b : Bool) (s : State) : State := s.modFunc fn (fun F =>
    { F with msixMask := if b then F.msixMask ||| (1#64 <<< k) else F.msixMask &&& ~~~(1#64 <<< k) })
  let s1 : State :=
    if off < 1024 then
      match off % 16 with
      | 0 => put { E with addr := if size = 8 then v else (E.addr &&& 0xFFFFFFFF00000000) ||| (v &&& 0xFFFFFFFF) } s
      | 4 => put { E with addr := (E.addr &&& 0xFFFFFFFF) ||| (v <<< 32) } s
      | 8 => let s2 := put { E with data := v.setWidth 32 } s; if size = 8 then mask (v.getLsbD 32) s2 else s2
      | _ => mask (v.getLsbD 0) s
    else if off = 1024 then s.modFunc fn (fun F => { F with msixOn := v.getLsbD 15, msixHeld := v.getLsbD 14 })
    else s
  (upto 64).foldl (fun (s : State) k => s.sendPending fn k) s1

/-- R435: a mask is cleared: a pending message is delivered. -/
def execMsixMaskClear (fn vec : Nat) (s : State) : Out :=
  if 16 < fn ∨ 64 ≤ vec then .next s
  else .next ((s.modFunc fn (fun F => { F with msixMask := F.msixMask &&& ~~~(1#64 <<< vec) })).sendPending fn vec)

end Sys2Proof.Machine
end

