-- ==== Sys2Proof/Machine/Life.lean ====
section
/-! DEFINITION. Agtur (23 R487 to R491), starts and recovery (R492 to R495), lease scrubs (R496, R497), maintenance (R498, 20
R412), function-level resets (22 R482, R483), soft errors and failures (R499, R501), and the thermal limits (R503). -/

namespace Sys2Proof.Machine

/-! ### Command images (R488 to R490) -/

def agturMagic : List Byte := [0x41, 0x43, 0x4D, 0x31]

/-- R489: the signed bytes of a command. -/
def commandBytes (c : Command) : List Byte :=
  agturMagic ++ bytesOfNum 2 c.code ++ bytesOfNum 2 c.body.length ++ bytesOfNum 8 c.seq ++ bytesOfNum 8 c.serial.toNat ++
    bytesOfNum 8 c.zero.toNat ++ c.body

def bodyNum (c : Command) (o n : Nat) : Nat := numOfBytes ((c.body.drop o).take n)
def bodyZero (c : Command) (a b : Nat) : Bool := allZero ((c.body.drop a).take (b - a))

/-- R489: the body layout of each command. -/
def commandLayout (c : Command) : Bool :=
  let n := c.body.length
  match c.code with
  | 0x0001 => decide (n = 0)
  | 0x0002 => decide (n = 0)
  | 0x0003 => decide (n = 0)
  | 0x0010 => decide (16 ≤ n ∧ n ≤ 2048 ∧ n % 16 = 0)
  | 0x0011 => decide (n = 8)
  | 0x0012 => decide (n = 16) && decide (bodyNum c 0 1 < 16) && bodyZero c 1 8
  | 0x0013 => decide (n = 528)
  | 0x0020 => decide (n = 72) && bodyZero c 68 72
  | 0x0021 => decide (n = 8) && decide (bodyNum c 0 2 < 768) && bodyZero c 2 8
  | 0x0022 => decide (n = 8) && decide (bodyNum c 0 1 < 16) && bodyZero c 1 8
  | 0x0023 => decide (n = 8) && decide (bodyNum c 0 1 < 18) && bodyZero c 1 8
  | 0x0024 => decide (n = 16) && decide (bodyNum c 0 1 < 8) && bodyZero c 1 8
  | 0x0025 => decide (n = 8) && decide (bodyNum c 0 1 < 4) && bodyZero c 1 4
  | 0x0026 => decide (n = 8) && decide (bodyNum c 0 8 < 2 ^ 20)
  | 0x0030 => decide (n = 16) && decide (bodyNum c 0 1 < 2) && bodyZero c 1 8
  | _ => false

/-- R488, R489: the status with which Agtur refuses a command, if it does. -/
def State.refuses (s : State) (c : Command) : Option Nat :=
  if !c.magic ∨ 2048 < c.body.length ∨ c.body.length % 8 ≠ 0 ∨ c.zero ≠ 0 ∨ !commandLayout c then some 6
  else if c.serial ≠ Config.serial then some 5
  else if !Config.verify s.opHash (commandBytes c) c.sig then some 4
  else if c.seq ≤ s.agtSeq then some 5
  else none

/-! ### Register writes (R489) -/

/-- R415: whether two partitions share no quarter, extent or context number. -/
def State.partsApart (s : State) (p : Nat) : Bool :=
  let P := s.part p
  (upto 16).all (fun q => decide (q = p) || (
    let Q := s.part q
    (upto 16).all (fun k => !(P.hasQuarter k && Q.hasQuarter k)) &&
    (upto 12).all (fun k => tget 0 P.ext k &&& tget 0 Q.ext k == 0) &&
    (decide (P.ctxCount = 0) || decide (Q.ctxCount = 0) || decide (P.ctxBase + P.ctxCount ≤ Q.ctxBase) ||
      decide (Q.ctxBase + Q.ctxCount ≤ P.ctxBase)))) &&
  decide (P.ctxBase + P.ctxCount ≤ 256)

/-- R415: every context of a partition has retired: it has no work, no team is left, not even in a record, and no kill is in progress. -/
def State.partIdle (s : State) (p : Nat) : Bool :=
  s.ctxs.all (fun c => !(s.part p).hasCtx c.1 || (!s.hasWork c.1 && c.2.dying.isNone)) &&
  s.teams.all (fun t => !(s.part p).hasCtx t.2.ctx || decide (t.2.state = .retired))

/-- R415, R454, R466: what a write of PARTCFG brings about beside the field. -/
def Part.enable (P : Part) (tick : Nat) : Part :=
  { P with cur := max P.start P.ceil, target := max P.start P.ceil, busy := none, pendT := false,
           recFirst := tick, hist := [(tick, max P.start P.ceil)] }

/-- R415: the extents of a partition that is enabled are its tenant's, until a lease scrub (notes/assumptions/84.md). -/
def State.holdExtents (s : State) (p : Nat) : State :=
  { s with extTenant := (s.part p).extents.foldl (fun t e => tput t e (s.part p).tenant) s.extTenant }

/-- R415: PARTCFG. -/
def State.writePartcfg (s : State) (p : Nat) (v : W64) : Option State :=
  let P := s.part p
  let w := v &&& 0x8002FFFFFFFFFFFF
  let s1 := s.modPart p (fun P => { P with cfg := w })
  let frozen : W64 := 0x00000000FFFF0000 ||| 0xFFFF
  if 16 ≤ p ∨ !s1.partsApart p then none
  else if P.enabled then
    (if (w ^^^ P.cfg) &&& frozen ≠ 0 then none
     else if w.getLsbD 63 then some s1
     else if s.partIdle p then some (s1.modPart p (fun P => { P with exportReq := true })) else none)
  else some (if w.getLsbD 63 then ((s.countVolts.modPart p (fun P => { P with cfg := w })).modPart p (fun P => P.enable s.tick)).holdExtents p else s1)

/-- R415: an extent may hold another tenant's data, for no lease scrub has followed it. -/
def State.foreignExtent (s : State) (p e : Nat) : Bool :=
  match tfind s.extTenant e with
  | some t => decide (t ≠ (s.part p).tenant)
  | none => false

/-- R415, R412: EXTMAP. A new tenant's extents are set only after the lease scrub of the old one's. -/
def State.writeExtmap (s : State) (p n : Nat) (v : W64) : Option State :=
  let s1 := s.modPart p (fun P => { P with ext := tset 0 P.ext n v })
  if 16 ≤ p ∨ (s.part p).enabled ∨ !s1.partsApart p ∨ !s.scrubs.isEmpty ∨
      (upto 64).any (fun k => v.getLsbD k && (s.withdrawn.elem (64 * n + k) || s.foreignExtent p (64 * n + k))) then none else some s1

/-- R489: one register write: none where it breaks a limit of its rule. -/
def State.writeAgtur (s : State) (kind inst : Nat) (v : W64) : Option State :=
  let ok (b : Bool) (s1 : State) : Option State := if b then some s1 else none
  let part : Bool := decide (inst < 16)
  match kind with
  | 0x0001 => s.writePartcfg inst v
  | 0x0002 => s.writeExtmap (inst / 12) (inst % 12) v
  | 0x0003 => ok (decide (inst < 16) && (s.ownerOf inst).isNone) (s.modQuarter inst (fun Q => { Q with pool := v.getLsbD 0 }))
  | 0x0004 => ok part (s.modPart inst (fun P => { P with enAllow := v }))
  | 0x0005 => ok part (s.modPart inst (fun P =>
      ({ P with pceil := (v.extractLsb' 12 3).toNat, start := (v.extractLsb' 0 3).toNat } : Part).applyCeil s.time))
  | 0x0006 => ok (part && decide (16 ≤ (v.extractLsb' 0 11).toNat ∧ (v.extractLsb' 0 11).toNat ≤ 1024))
      (s.modPart inst (fun P => { P with prqCap := (v.extractLsb' 0 11).toNat }))
  | 0x0007 => ok (part && decide (64 ≤ (v.extractLsb' 0 13).toNat ∧ (v.extractLsb' 0 13).toNat ≤ 4096))
      (s.modPart inst (fun P => { P with futCap := (v.extractLsb' 0 13).toNat }))
  | 0x0008 => ok (decide (inst < 4)) (s.modDie inst (fun D => { D with classMap := v &&& 0xFFFFFFFF }))
  | 0x0009 => ok (decide (inst < 256)) (s.modDie (inst / 64) (fun D => { D with rtr := tput D.rtr (inst % 64) (v &&& 0xFFFFFFFFFF) }))
  | 0x000A => ok (decide (inst < 64)) (s.modDie (inst / 16) (fun D =>
      { D with prate := tput D.prate (inst % 16) (v &&& 0xFFFF0000FFFF), limAt := tput D.limAt (inst % 16) s.time }))
  | 0x000B => ok (decide (inst < 2048)) (s.modSlice (inst / 16) (fun S => { S with mask := tput S.mask (inst % 16) (v.extractLsb' 0 16) }))
  | 0x000C => ok (decide (inst < 1024)) { s with fabRoute := tset 0 s.fabRoute inst (v &&& 0x3FFFF) }
  | 0x000D => ok (decide (inst < 256) && decide ((v.extractLsb' 0 10).toNat < 768) && decide ((v.extractLsb' 10 10).toNat < 768))
      (s.modPart (inst / 16) (fun P => { P with remwin := tput P.remwin (inst % 16) (v &&& 0x800FFC00000FFFFF) }))
  | 0x000E => ok part (s.modPart inst (fun P => { P with fabtag := v }))
  | 0x000F =>
    if inst = 0 then ok (decide ((v.extractLsb' 14 2).toNat ≠ 3)) { s with capcfg := v &&& 0xFFFFFFFFFFFFC3FF }
    else ok (decide (inst = 1)) { s with capbudget := v &&& 0xFFFFFFFF }
  | 0x0010 => ok part (s.modPart inst (fun P => { P with s2ctl := (P.s2ctl &&& ~~~2#64) ||| (v &&& 2) }))
  | 0x0011 => ok (decide (inst = 0)) { s with expInt := v.toNat }
  | _ => none

/-- R489: the pairs of a register-write command. -/
def regPairs (c : Command) : List (Nat × W64) := (upto (c.body.length / 16)).map (fun i => (bodyNum c (16 * i) 8, BitVec.ofNat 64 (bodyNum c (16 * i + 8) 8)))

/-- R489: one pair. -/
def State.writePair (s : State) (q : Nat × W64) : Option State :=
  if q.1 / 2 ^ 32 % 65536 ≠ 0 then none else s.writeAgtur (q.1 / 2 ^ 48) (q.1 % 2 ^ 32) q.2

/-- R489: the pairs from index i in order, and the index of the first that fails. -/
def State.applyPairs (s : State) : Nat → List (Nat × W64) → State ⊕ Nat
  | _, [] => .inl s
  | i, q :: t =>
    match s.writePair q with
    | some s1 => s1.applyPairs (i + 1) t
    | none => .inr i

/-- R489: every pair is checked, on the registers as they stand, before any is applied; a pair that fails only after the pairs before it
fails too (notes/assumptions/64.md). -/
def State.writePairs (s : State) (l : List (Nat × W64)) : State ⊕ Nat :=
  match ((upto l.length).zip l).find? (fun q => (s.writePair q.2).isNone) with
  | some q => .inr q.1
  | none => s.applyPairs 0 l

/-! ### Recovery (R495) -/

/-- Every context that is enabled or has work. -/
def State.liveCtxs (s : State) : List Nat := (s.ctxs.filter (fun c => c.2.en || s.hasWork c.1)).map (·.1)

def State.killAll (s : State) : State := s.liveCtxs.foldl (fun (s : State) c => s.killTold c) s
def State.killAllNow (s : State) (why : Notice) : State := s.liveCtxs.foldl (fun (s : State) c => s.killNow c why) s

/-- R492, R495: a golden image verifies for its core. -/
def State.goldenOk (s : State) (c : Nat) : Bool := s.coreImage c (s.golden.getD c [])

/-- R495: every command core runs its golden image; one whose image does not verify stays held. -/
def State.goldenCores (s : State) : Tbl CmdCore :=
  (upto 8).map (fun c => (c, if s.goldenOk c then CmdCore.start (s.golden.getD c []) true else { held := true }))

/-- R495: the cores are held, every context is killed, RAM and mailboxes are cleared, a load in progress is refused, and the golden images
run. -/
def State.recover (s : State) : State :=
  let s1 := s.killAllNow .firmwareRecovered
  { s1 with cmdCores := s1.goldenCores, mailboxes := [],
            ccload := if s1.ccload.getLsbD 3 then (s1.ccload &&& ~~~0x408#64) ||| 0xC00 else s1.ccload }

/-! ### Lease scrub (R496, R497) -/

/-- The quarters, and the physical addresses, of a scope: a partition, or the package. -/
def State.scopeQuarter (s : State) (scope : Option Nat) (q : Nat) : Bool :=
  match scope with
  | some p => (s.part p).hasQuarter q
  | none => true
def State.scopeAddr (s : State) (scope : Option Nat) (pa : Nat) : Bool :=
  match scope with
  | some p => (s.part p).hasExtent (pa % 2 ^ 42 / 2 ^ 30)
  | none => true
def State.scopeCtx (s : State) (scope : Option Nat) (c : Nat) : Bool :=
  match scope with
  | some p => decide (s.partOf c = p)
  | none => true

/-- R496 steps 2 and 4: a core of the scope's quarters. -/
def Core.scrub (C : Core) : Core :=
  { C with out := [], l1 := [], matq := [], copyq := [], resid := [], pkts := [], meters := [], xouts := [], code := none, fetched := [], tlb := [] }

/-- R496 step 2: a home slice without the lines of a scope. -/
def Slice.scrub (S : Slice) (drop : Nat → Bool) (scope : Option Nat) : Slice :=
  match scope with
  | none => { S with dir := [], bypass := [], accept := [], booking := [], grants := [], occ := [], spillMon := [], remoteBook := [] }
  | some p =>
    { S with dir := S.dir.filter (fun e => !drop (e.line * 128)), bypass := S.bypass.filter (fun e => !drop (e.line * 128)),
             occ := terase ((S.dir.filter (fun e => drop (e.line * 128))).foldl (fun S e => S.subOcc e.part) S).occ p, spillMon := S.spillMon.filter (fun m => !drop (m.1 * 128)) }

/-- R496: the storage and memory of a scope. -/
def State.clearScope (s : State) (scope : Option Nat) : State :=
  let drop (pa : Nat) : Bool := s.scopeAddr scope pa
  let ctx (c : Nat) : Bool := s.scopeCtx scope c
  let s1 := (s.prqs.filter (fun r => ctx r.ctx)).foldl (fun (s : State) r => s.freePrq r.id) s
  { s1 with
    cores := s1.cores.map (fun (c : Nat × Core) =>
      if s.scopeQuarter scope (quarterOfCore c.1) then (c.1, c.2.scrub)
      else (c.1, { c.2 with l1 := c.2.l1.filter (fun x => !drop (x.line * 128)), resid := c.2.resid.filter (fun e => !ctx e.ctx),
                            tlb := c.2.tlb.filter (fun e => !ctx e.ctx) }))
    clusters := s1.clusters.map (fun (c : Nat × Cluster) => (c.1, { c.2 with tlb := c.2.tlb.filter (fun e => !ctx e.ctx) }))
    slices := s1.slices.map (fun (x : Nat × Slice) => (x.1, x.2.scrub drop scope))
    dies := s1.dies.map (fun (d : Nat × Die) => (d.1, { d.2 with tlb := d.2.tlb.filter (fun e => !ctx e.ctx), ladle := d.2.ladle.filter (fun c => !ctx c.ctx) }))
    futures := s1.futures.filter (fun f => !ctx f.2.ctx || decide (f.2.state = .free && scope.isSome))
    mem := s1.mem.filter (fun b => !drop b.1)
    poison := s1.poison.filter (fun u => !drop (u * 16))
    parts := if scope.isNone then s1.parts.map (fun (P : Nat × Part) => (P.1, { P.2 with
        coll := P.2.coll.map (fun (g : Nat × CollGroup) => (g.1, { g.2 with ops := [], early := [] })) })) else s1.parts
    leaseKeys := []
    extTenant := s1.extTenant.filter (fun e => !drop (e.1 * 2 ^ 30)) }

/-- R493: BOOTSTAT's version of the running Agtur firmware. -/
def State.agturVersion (s : State) : Nat := (Config.imageVersion (imageHead s.running)).toNat

/-- R496 step 5, R497: the record of a scrub goes to function 0's meter ring. -/
def State.scrubDone (s : State) (scope : Option Nat) (tenant : W64) (t0 : Nat) : State :=
  let ext (e : Nat) : Bool := match scope with
    | some p => (s.part p).hasExtent e
    | none => true
  let head := Config.scrubHead (if scope.isSome then 1 else 0) (scope.getD 0xFF) tenant s.scrubSeq t0 s.time (if scope.isSome then 0x5FF else 0x7FF)
    ext s.agturVersion
  ({ s with scrubSeq := s.scrubSeq + 1 } : State).putMtr 0 [Config.scrubRecord head]

/-- The functions of a scope. -/
def scopeFuncs (scope : Option Nat) : List Nat :=
  match scope with
  | some p => [fnOfPart p]
  | none => upto 17

/-- R496: a lease scrub begins: the contexts of the scope are killed, its functions take no writes, and clusters of its quarters that are
lent come back. A whole-package scrub also performs a recovery. -/
def State.startScrub (s : State) (scope : Option Nat) (tenant : W64) (mgmt : Bool) : State :=
  let s1 := (s.liveCtxs.filter (s.scopeCtx scope)).foldl (fun (s : State) c => s.killNow c (if scope.isNone then .firmwareRecovered else .killed)) s
  let s2 := if scope.isNone then s1.recover else s1
  let s3 := (scopeFuncs scope).foldl (fun (s : State) f => s.modFunc f (fun F => { F with usable := false })) s2
  let s4 : State := { s3 with scrubs := s3.scrubs ++ [⟨scope, tenant, s3.time, mgmt⟩] }
  ((upto 128).filter (fun cl => s4.scopeQuarter scope (cl / 8) && (s4.cluster cl).lent.isSome)).foldl (fun (s : State) cl => s.startReclaim cl) s4

/-- R496: a scrub can end: its period is over, and no cluster of its quarters is lent. -/
def State.scrubReady (s : State) (x : Scrub) : Bool :=
  decide (x.since < s.time) && (upto 128).all (fun cl => !s.scopeQuarter x.scope (cl / 8) || (s.cluster cl).lent.isNone)

/-- R496: a scrub ends: the storage of its scope is cleared, the record is written, and only then its functions take writes again. -/
def State.endScrub (s : State) (x : Scrub) : State :=
  let s1 := ({ s with scrubs := s.scrubs.erase x } : State).clearScope x.scope
  let s2 := (s1.scrubDone x.scope x.tenant x.since).signal 0 2
  (scopeFuncs x.scope).foldl (fun (s : State) f =>
    if s.scrubs.any (fun y => (scopeFuncs y.scope).elem f) then s else s.modFunc f (fun F => { F with usable := !F.flr })) s2

/-! ### Starts (R492 to R494) -/

/-- R492 step 1: the copy from which Agtur runs: A, or B if A fails. -/
def State.bootCopy (s : State) : Option Nat := (upto 2).find? (fun k => s.agturImage (s.fwCopies.getD k []))

/-- R492: the step at which a start fails, 0 if none does: step 1 and step 6 by what they verify, the others as told. -/
def State.failAt (s : State) (booted : Bool) (told : Nat) : Nat :=
  if !booted then 1
  else if 2 ≤ told ∧ told ≤ 5 then told
  else if !(upto 8).all s.goldenOk then 6
  else if told = 7 then 7 else 0

/-- R493: BOOTSTAT after a start, but for AGTVER: FAILSTEP, AGTB, WARM, RECOV, READY. -/
def bootWord (copyB warm : Bool) (failStep : Nat) : W64 :=
  BitVec.ofNat 64 (failStep * 2 ^ 32 + (if copyB then 8 else 0) + (if warm then 4 else 0) + (if failStep = 1 then 2 else 0) + (if failStep = 0 then 1 else 0))

/-- What no start touches: the schedule, the host's memory and messages, the fuses, and Agtur's non-volatile store and flash. -/
def State.keepOutside (s r : State) : State :=
  { r with agenda := s.agenda, fuel := s.fuel, nextId := s.nextId, host := s.host, msgs := s.msgs, notices := s.notices, retiredCh := s.retiredCh,
           withdrawn := s.withdrawn, agtSeq := s.agtSeq, pkgTenant := s.pkgTenant, scrubSeq := s.scrubSeq, fwCopies := s.fwCopies, answers := s.answers,
           fuses := s.fuses, opHash := s.opHash, trims := s.trims, golden := s.golden }

/-- R492: whether a start came as far as a step. -/
def reaches (failStep k : Nat) : Bool := decide (failStep = 0) || decide (k ≤ failStep)

/-- R492 steps 5 to 7: the end of a start: its scrub, the command cores, and READY; a step that failed is reported on the management
port (R494). -/
def State.endStart (s : State) (scrub : Bool) (failStep : Nat) (boot : W64) : State :=
  let s1 := { s with bootstat := boot, cmdCores := if reaches failStep 7 then s.goldenCores else (upto 8).map (fun c => (c, { held := true })) }
  let s2 := if scrub && reaches failStep 6 then s1.scrubDone none s1.pkgTenant s1.time else s1
  if failStep = 0 then s2.signal 0 2
  else if failStep = 1 then s2
  else { s2 with answers := s2.answers ++ [.startFailed failStep] }

/-- R492, R494: a cold start from an Agtur image, if there is one that verifies. What memory holds before its scrub is what it held. -/
def State.coldFrom (s : State) (img : Option (List Byte)) (copyB : Bool) (told : Nat) : State :=
  let f := s.failAt img.isSome told
  let done := reaches f 6
  (s.keepOutside { State.reset with
    funcs := [], running := img.getD [], powered := reaches f 3, mem := if done then [] else s.mem, poison := if done then [] else s.poison,
    leaseKeys := if done then [] else s.leaseKeys, extTenant := if done then [] else s.extTenant }).endStart true f (bootWord copyB false f)

/-- R492: a cold start. -/
def State.startCold (s : State) (told : Nat) : State :=
  s.coldFrom (s.bootCopy.map (fun k => s.fwCopies.getD k [])) (s.bootCopy == some 1) told

/-- R492: what a warm start leaves of a partition: Agtur's tables and meter sequence numbers. -/
def Part.afterWarm (P : Part) : Part :=
  { cfg := P.cfg, ext := P.ext, s2ctl := if P.s2ctl.getLsbD 1 then P.s2ctl else 0, prqCap := P.prqCap, futCap := P.futCap, enAllow := P.enAllow,
    pceil := P.pceil, start := P.start, cur := max P.start P.pceil, target := max P.start P.pceil,
    remwin := P.remwin, fabtag := P.fabtag, tenant := P.tenant, standing := P.standing, standStat := P.standStat, standCorr := P.standCorr,
    closed := P.closed, recSeq := P.recSeq, recFirst := P.recFirst, hist := P.hist }

/-- R492 step 4: ports that have a medium and are not up are trained. -/
def State.trainPorts (s : State) : State :=
  (upto 18).foldl (fun (s : State) p => if (s.port p).lanes ≠ 0 ∧ (s.port p).state ≠ 2 then s.raisePort p else s) s

/-- R492: a warm start; `kept` tells that the tenant identifier is unchanged, so that step 5 is skipped. -/
def State.startWarm (s : State) (told : Nat) (kept : Bool) : State :=
  let s := s.countVolts
  let copy := s.bootCopy
  let f := s.failAt copy.isSome told
  let held := kept || !reaches f 6
  let r : State := s.keepOutside { State.reset with
    funcs := [], time := s.time, tick := s.tick,
    quarters := s.quarters.map (fun (q : Nat × Quarter) => (q.1, { phase := q.2.phase, hot := q.2.hot, pool := q.2.pool, volts := q.2.volts, voltAt := s.time })),
    parts := s.parts.map (fun (p : Nat × Part) => (p.1, p.2.afterWarm)),
    dies := s.dies.map (fun (d : Nat × Die) => (d.1, { classMap := d.2.classMap, rtr := d.2.rtr, prate := d.2.prate, limAt := d.2.limAt, failed := d.2.failed })),
    slices := s.slices.map (fun (x : Nat × Slice) => (x.1, { mask := x.2.mask })),
    weights := s.weights, wtabVer := s.wtabVer, wshadow := s.wshadow, pkgStanding := s.pkgStanding, capcfg := s.capcfg, capbudget := s.capbudget, capReports := s.capReports,
    capShare := s.capShare, capMissed := s.capMissed, capRefused := s.capRefused, capDone := s.capDone, capDivided := s.capDivided, expInt := s.expInt,
    pkgid := s.pkgid, pkgSet := s.pkgSet, ports := s.ports.map (fun (p : Nat × Port) => (p.1, { p.2 with replays := 0 })), fabRoute := s.fabRoute, powered := s.powered,
    running := (copy.map (fun k => s.fwCopies.getD k [])).getD [],
    mem := if held then s.mem else [], poison := if held then s.poison else [], leaseKeys := if held then s.leaseKeys else [],
    extTenant := if held then s.extTenant else [] }
  (if reaches f 5 then r.trainPorts else r).endStart (!kept) f (bootWord (copy == some 1) true f)

/-- R492, R496: a start by power or reset. Loss of power abandons a scrub; a warm start waits for it. -/
def execColdStart (failStep : Nat) (s : State) : Out := .next (s.startCold failStep)
def execWarmStart (failStep : Nat) (kept : Bool) (s : State) : Out :=
  if !s.powered then .next s
  else if s.scrubs.isEmpty then .next (s.startWarm failStep kept) else .next { s with startWaits := some (.warm failStep kept) }

/-- R494: in the recovery state an image from the management port that verifies is started. -/
def execTrivetAgturImage (image : List Byte) (s : State) : Out :=
  if s.bootstat.getLsbD 1 && s.agturImage image then .next (s.coldFrom (some image) false (Config.startFails s.time % 8)) else .next s

/-! ### Maintenance (R498, R412, R421) -/

/-- R498: a drained quarter whose cores have nothing left is powered down. -/
def State.quarterDown (s : State) (q : Nat) : State :=
  let cls := (upto 8).map (fun k => 8 * q + k)
  let idle (cl : Nat) : Bool := s.clusterIdle cl && (coresOf cl).all (fun c =>
    (s.core c).out.isEmpty && (s.core c).resid.isEmpty && (s.core c).pkts.isEmpty && (s.core c).xouts.isEmpty)
  if (s.quarter q).drained && !(s.quarter q).off && cls.all idle then
    (cls.foldl (fun (s : State) cl => (s.cleanCluster cl false).emptyTlbs cl) s).modQuarter q (fun Q => { Q with off := true })
  else s

/-- R498: a quarter takes no more teams, and its teams are saved. -/
def State.drainQuarter (s : State) (q : Nat) : State :=
  let s1 := s.modQuarter q (fun Q => { Q with drained := true })
  ((s1.teams.filter (fun p => decide (p.2.state = .placed) && decide (quarterOfCore p.2.core = q))).map (·.1)).foldl (fun (s : State) t => s.askStop t 5) s1

/-- R412: the free extents, highest first. -/
def State.freeExtents (s : State) : List Nat :=
  ((upto 768).filter (fun e => !s.withdrawn.elem e && (upto 16).all (fun p => !(s.part p).hasExtent e))).reverse

/-- R412: a pseudo-channel retires: the donors are withdrawn. The detail of a refusal is 1 or 2. -/
def State.retireChannel (s : State) (ch : Nat) : State ⊕ Nat :=
  if s.freeExtents.length < 5 then .inr 1
  else if 2 ≤ (s.retiredCh.filter (fun c => decide (c / 192 = ch / 192))).length ∨ s.retiredCh.elem ch then .inr 2
  else .inl (({ s with retiredCh := s.retiredCh ++ [ch], withdrawn := s.withdrawn ++ s.freeExtents.take 5 } : State).signal 0 2)

/-- R498: a running image writes its state, whose form is its own, to its handover mailbox. -/
def State.handOver (s : State) (core : Nat) : State :=
  if (s.cmdCore core).held then s
  else (upto 8).foldl (fun (s : State) i => let r := s.free; r.2.mailboxWrite core (8 + core) (8 * i) 8 r.1) s

/-- R498, R485: the image of one command core is replaced in service. -/
def State.replaceImage (s : State) (core : Nat) (addr : W64) : State ⊕ Nat :=
  let r := (s.handOver core).loadImage core addr
  if r.2 then .inl r.1 else .inr 0

/-- R489, R491: a firmware copy is written once it verifies. -/
def State.writeFirmware (s : State) (copy : Nat) (addr : W64) : State ⊕ Nat :=
  let img := s.imageAt addr
  if s.agturImage img then
    .inl { s with fwCopies := (upto 2).map (fun k => if k = copy then img else s.fwCopies.getD k []) }
  else .inr 0

/-- R421: the operator reclaims clusters of a die. -/
def State.reclaimMask (s : State) (die mask : Nat) : State :=
  ((upto 32).filter (fun k => mask.testBit k)).foldl (fun (s : State) k => s.startReclaim (32 * die + k)) s

/-! ### Running a command -/

/-- R496: a start, which waits for a scrub in progress. -/
def State.startOrWait (s : State) (r : StartReq) : State :=
  if !s.scrubs.isEmpty then { s with startWaits := some r }
  else match r with
  | .cold f => s.startCold f
  | .warm f kept => s.startWarm f kept

/-- What an accepted command does: a state, or the detail of a refusal by the command. -/
def State.runCommand (s : State) (c : Command) : State ⊕ Nat :=
  let n (o k : Nat) : Nat := bodyNum c o k
  let w (o : Nat) : W64 := BitVec.ofNat 64 (n o 8)
  match c.code with
  | 0x0001 => .inl (s.startOrWait (.cold (Config.startFails s.time % 8)))
  | 0x0002 => if s.powered then .inl (s.startOrWait (.warm (Config.startFails s.time % 8) true)) else .inr 0
  | 0x0003 => .inl s.recover
  | 0x0010 => s.writePairs (regPairs c)
  | 0x0011 => .inl (({ s with pkgTenant := w 0 } : State).startScrub none s.pkgTenant c.mgmt)
  | 0x0012 =>
    let p := n 0 1
    .inl ((s.modPart p (fun P => { P with tenant := w 8, recSeq := 1 })).startScrub (some p) (s.part p).tenant c.mgmt)
  | 0x0013 => .inl { s with leaseKeys := s.leaseKeys ++ [(w 0, c.body.drop 8)] }
  | 0x0020 => .inl { s with wshadow := some ((upto 32).map (fun i => n (2 * i) 2), n 64 4) }
  | 0x0021 => s.retireChannel (n 0 2)
  | 0x0022 => .inl (s.drainQuarter (n 0 1))
  | 0x0023 => .inl (s.retrain (n 0 1))
  | 0x0024 => s.replaceImage (n 0 1) (w 8)
  | 0x0025 => .inl (s.reclaimMask (n 0 1) (n 4 4))
  | 0x0026 => .inl (s.assignNumbers (w 0))
  | 0x0030 => s.writeFirmware (n 0 1) (w 8)
  | _ => .inl s

/-- R488: Agtur checks a command, accepts its sequence number, and runs it: the state, STATUS and DETAIL. -/
def State.agtur (s : State) (c : Command) : State × Nat × Nat :=
  match s.refuses c with
  | some st => (s, st, 0)
  | none =>
    let s1 := { s with agtSeq := c.seq }
    match s1.runCommand c with
    | .inl s2 => (s2, 3, 0)
    | .inr d => (s1, 7, d)

/-- R489: a start command, and one that changes a tenant identifier. -/
def isStart (c : Command) : Bool := decide (c.code = 0x0001) || decide (c.code = 0x0002)
def isScrub (c : Command) : Bool := decide (c.code = 0x0011) || decide (c.code = 0x0012)

/-- R490: STATUS and DETAIL of the mailbox, whose LAST and FRAG stand as written. -/
def State.agtStatus (s : State) (st detail : Nat) : State :=
  { s with agtCtl := (s.agtCtl &&& 0x403F) ||| BitVec.ofNat 64 (st * 2 ^ 40 + detail * 2 ^ 32), agtBuf := [] }

/-- R490: a command that was taken whole ends: STATUS, DETAIL, and vector 2 of function 0. -/
def State.agtEnd (s : State) (st detail : Nat) : State := (s.agtStatus st detail).signal 0 2

/-- R488: Agtur's answer on the management port. -/
def State.answer (s : State) (st detail : Nat) : State := { s with answers := s.answers ++ [.answer st detail] }

/-- R488, R490: the end of a command is told on its path. -/
def State.tell (s : State) (mgmt : Bool) (st detail : Nat) : State := if mgmt then s.answer st detail else s.agtEnd st detail

/-- R488, R489: a command runs, and its STATUS and DETAIL are told: those of a start before it begins, and those of a scrub when it ends;
until then the mailbox reads STATUS 2. -/
def State.runTold (s : State) (c : Command) : State :=
  let r := s.agtur c
  if isStart c ∧ r.2.1 = 3 then
    match (({ s with agtSeq := c.seq } : State).tell c.mgmt 3 0).runCommand c with
    | .inl t => t
    | .inr _ => r.1
  else if isScrub c ∧ r.2.1 = 3 then (if c.mgmt then r.1 else r.1.agtStatus 2 0)
  else r.1.tell c.mgmt r.2.1 r.2.2

/-- R494: the package is in the recovery state, in which no firmware of Agtur's runs. -/
def State.recovering (s : State) : Bool := s.bootstat.getLsbD 1

/-- R488: a command on the management port finds Agtur receiving one in the mailbox, or running one. A start waits for a scrub (R496). -/
def State.agtBusy (s : State) (c : Command) : Bool :=
  !s.agtBuf.isEmpty || s.agtCtl.getLsbD 15 || (!s.scrubs.isEmpty && !isStart c)

/-- The command codes of R489. -/
def agturCodes : List Nat := [0x01, 0x02, 0x03, 0x10, 0x11, 0x12, 0x13, 0x20, 0x21, 0x22, 0x23, 0x24, 0x25, 0x26, 0x30]

/-- A command as it arrives on the management port (R488), and its answer. One of an unknown code may come in any row. -/
def State.command (s : State) (c : Command) (code : Nat) : State :=
  if (c.code ≠ code ∧ agturCodes.elem c.code) ∨ !c.mgmt ∨ s.recovering then s
  else if s.agtBusy c then s.answer 8 0
  else s.runTold c

def execColdStartCommand (c : Command) (s : State) : Out := .next (s.command c 0x0001)
def execWarmStartCommand (c : Command) (s : State) : Out := .next (s.command c 0x0002)
def execRecovery (c : Command) (s : State) : Out := .next (s.command c 0x0003)
def execWriteAgturRegisters (c : Command) (s : State) : Out := .next (s.command c 0x0010)
def execSetPackageTenant (c : Command) (s : State) : Out := .next (s.command c 0x0011)
def execSetPartitionTenant (c : Command) (s : State) : Out := .next (s.command c 0x0012)
def execEnrolLeaseKey (c : Command) (s : State) : Out := .next (s.command c 0x0013)
def execInstallWeightTable (c : Command) (s : State) : Out := .next (s.command c 0x0020)
def execRetirePseudoChannel (c : Command) (s : State) : Out := .next (s.command c 0x0021)
def execDrainQuarter (c : Command) (s : State) : Out := .next (s.command c 0x0022)
def execRetrainFabricPort (c : Command) (s : State) : Out := .next (s.command c 0x0023)
def execReplaceCommandCoreImage (c : Command) (s : State) : Out := .next (s.command c 0x0024)
def execReclaimLentClusters (c : Command) (s : State) : Out := .next (s.command c 0x0025)
def execAssignPkgid (c : Command) (s : State) : Out := .next (s.command c 0x0026)
def execWriteAgturFirmware (c : Command) (s : State) : Out := .next (s.command c 0x0030)

/-! ### The command mailbox (R490) -/

/-- R489: the command in an image: none where its length is wrong. -/
def parseImage (bs : List Byte) : Option Command :=
  let n (o k : Nat) : Nat := numOfBytes ((bs.drop o).take k)
  let L := n 6 2
  if bs.length < 544 + L ∨ 2048 < L then none
  else some ⟨false, n 4 2, n 8 8, BitVec.ofNat 64 (n 16 8), BitVec.ofNat 64 (n 24 8), (bs.drop 32).take L, (bs.drop (32 + L)).take 512,
    decide (bs.take 4 = agturMagic)⟩

/-- R490: the fields of a write of AGTCMDCTL. -/
def ctlFrag (v : W64) : Nat := (v.extractLsb' 0 6).toNat

/-- R490: LAST and FRAG are written. -/
def State.putFrag (s : State) (v : W64) : State := { s with agtCtl := (s.agtCtl &&& ~~~0x403F#64) ||| (v &&& 0x403F) }

/-- R490: a write of AGTCMDCTL. With GO it posts a fragment, which Agtur takes by the end of the period (notes/assumptions/63.md); one
while GO reads 1 ends the command. -/
def State.postFragment (s : State) (v : W64) : State :=
  if !v.getLsbD 15 then s.putFrag v
  else if s.agtCtl.getLsbD 15 then (s.putFrag v).agtStatus 6 0
  else let s1 := s.putFrag v; { s1 with agtCtl := s1.agtCtl ||| 0x8000 }

/-- R490: Agtur takes the fragment that is posted. -/
def State.takeFragment (s : State) : State :=
  let v := s.agtCtl
  if ctlFrag v * 56 ≠ s.agtBuf.length ∨ 46 < ctlFrag v then s.agtStatus 6 0
  else
    let buf := s.agtBuf ++ (upto 7).flatMap (fun i => bytesOfNum 8 (tget 0 s.agtData i).toNat)
    if !v.getLsbD 14 then { s with agtBuf := buf, agtCtl := BitVec.ofNat 64 (2 ^ 40) ||| (v &&& 0x403F) }
    else match parseImage buf with
      | none => s.agtEnd 6 0
      | some c => ({ s.agtStatus 2 0 with agtBuf := [] } : State).runTold c

/-- R488, R490: a posted fragment is taken, unless Agtur runs the mailbox's command before it; during one of the other path it is answered. -/
def State.settleAgtur (s : State) : State :=
  if !s.agtCtl.getLsbD 15 || s.recovering || s.scrubs.any (fun x => !x.mgmt) then s
  else if !s.scrubs.isEmpty then s.agtStatus 8 0
  else s.takeFragment

/-- R496: the scrubs that are due end, and their commands with them; then a start that has waited for them begins. -/
def State.settleScrubs (s : State) : State :=
  let s1 := (s.scrubs.filter s.scrubReady).foldl (fun (s : State) x => (s.endScrub x).tell x.mgmt 3 0) s
  match s1.startWaits with
  | some i => if s1.scrubs.isEmpty then ({ s1 with startWaits := none } : State).startOrWait i else s1
  | none => s1

/-- What Agtur and the command cores have done by the end of a period. -/
def State.settlePeriod (s : State) : State :=
  let s1 := (s.settleAgtur.settleScrubs).endLoading
  let s2 := s1.funcs.foldl (fun (s : State) f => if f.2.tlbq.isEmpty then s else s.tlbStep f.1) s1
  (upto 16).foldl (fun (s : State) q => s.quarterDown q) s2

def execAgtcmdFragment (v : BitVec 64) (s : State) : Out :=
  s.pageWrite 0 (fun s => .next (s.postFragment (v ||| 0x8000)))

/-! ### Writes of registers (R470) -/

/-- R484, R485: writes whose effect is the work of command core 2: TLBINV, PRQRESP, S2INV and the context descriptors. -/
def coreTwo (fn off : Nat) : Bool :=
  decide (off / 8 * 8 = 0x100) || decide (off / 8 * 8 = 0x200) || (decide (fn = 0) && decide (off / 8 * 8 = 0x800500)) ||
    (decide (fn ≠ 0) && decide (0x10000 ≤ off ∧ off < 0x20000))

/-- R470: the effect of a write on a page that takes it. -/
def State.writeReg (s : State) (fn off size : Nat) (v : W64) : Out :=
  let low := decide (size = 8) || decide (off % 8 = 0)
  if fn = 0 ∧ off / 8 * 8 = 0x800638 then .next (if low then s.postFragment (v &&& 0xC03F) else s)
  else
    let body (s : State) : Out := .next (s.regPut fn (off / 8 * 8) (s.merged fn off size v) low)
    if coreTwo fn off then s.onCore 2 body else body s

/-- R469, R486: a command core's write at a package physical address of device register space: a function's page, or a mailbox. -/
def State.coreWrite (s : State) (core a size : Nat) (v : W64) : Out :=
  if (s.cmdCore core).held then .next s
  else match pageAt a, mailboxAt a with
  | some q, _ => s.pageWrite q.1 (fun s => s.writeReg q.1 q.2 size v)
  | none, some q => .next (s.mailboxWrite core q.1 q.2 size v)
  | none, none => .next s

/-- R470, R483: a write of 4 or 8 bytes to a function's page. A write during a reset is discarded and counted. Function numbers 17 to 24
stand for writes of command cores 0 to 7 at a package physical address, and 32 on for the MSI-X structures of function 0 on
(notes/assumptions/11.md, notes/assumptions/69.md). -/
def execRegisterWrite (fn off size : Nat) (v : BitVec 64) (s : State) : Out :=
  if !((size = 8 ∧ off % 8 = 0) ∨ (size = 4 ∧ off % 4 = 0)) then .next s
  else if fn ≤ 16 then (if off < 0x1000000 then s.pageWrite fn (fun s => s.writeReg fn off size v) else .next s)
  else if fn ≤ 24 then s.coreWrite (fn - 17) off size v
  else if 32 ≤ fn ∧ fn ≤ 48 then s.pageWrite (fn - 32) (fun s => .next (s.msixWrite (fn - 32) off size v))
  else .next s

/-! ### Function-level reset (R482, R483) -/

/-- R19, R482: what a reset leaves of a function's page: FLRDROP, its rate and records that wait for a ring stay. -/
def Func.afterReset (F : Func) (now : Nat) : Func :=
  { depth := F.depth, rate := F.rate, credit := F.depth * Config.usPeriods, refillAt := now, flrDrop := F.flrDrop, mtr := { waiting := F.mtr.waiting } }

/-- R19, R471, R482: the descriptors and the partition control block. Agtur's tables and the meters stay. -/
def Context.afterReset (C : Context) : Context :=
  { consumed := C.consumed, dyn := C.dyn, stat := C.stat, corr := C.corr, marks := C.marks, dropped := C.dropped, serial := C.serial, vj := C.vj,
    vjFrac := C.vjFrac, vjDen := C.vjDen, dying := C.dying }
def Part.afterReset (P : Part) : Part := { P with shandler := 0, slack := 10000000, coll := [] }

/-- R482 step 1: the function takes no writes from here on and its rings and pending messages are dropped; the contexts of its partition
are killed. -/
def State.beginReset (s : State) (p : Nat) : State :=
  let s1 := s.modFunc (fnOfPart p) (fun F => { F with usable := false, flr := true, msixPend := 0 })
  (s1.liveCtxs.filter (fun c => decide (s.partOf c = p))).foldl (fun (s : State) c => s.killFor c .functionReset) s1

/-- R482 steps 2 and 3. A scrub that is in progress keeps the function unusable (R496). -/
def State.endReset (s : State) (p : Nat) : State :=
  let fn := fnOfPart p
  let s1 := s.modFunc fn (fun F => { F.afterReset s.time with usable := !s.scrubs.any (fun x => (scopeFuncs x.scope).elem fn) })
  let s2 := s1.modPart p Part.afterReset
  { s2 with ctxs := s2.ctxs.map (fun (c : Nat × Context) => (c.1, if (s2.part p).hasCtx c.1 then c.2.afterReset else c.2)) }

/-- R482: the accumulates of a partition have been delivered, and its kills have ended. -/
def State.delivered (s : State) (p : Nat) : Bool :=
  s.cores.all (fun c => c.2.resid.all (fun e => decide (s.partOf e.ctx ≠ p)) && c.2.pkts.all (fun q => decide (s.partOf q.ctx ≠ p))) &&
  s.teams.all (fun t => t.2.gangs.all (fun g => g.2.port.all (fun a => decide (s.partOf a.ctx ≠ p)))) &&
  s.ctxs.all (fun c => c.2.dying.isNone || decide (s.partOf c.1 ≠ p))

/-- R482: the functions that a reset of a function resets. -/
def resetParts (fn : Nat) : List Nat := if fn = 0 then upto 16 else [partOfFn fn]

/-- R482: function 0's own registers after its reset. The rates that it gives the others are among them. -/
def State.resetZero (s : State) : State :=
  { s with
    ccload := 0, s2inv := 0, agtCtl := 0, agtData := [], agtBuf := [], errRing := { waiting := s.errRing.waiting },
    parts := s.parts.map (fun (p : Nat × Part) => (p.1, { p.2 with s2ctl := if p.2.s2ctl.getLsbD 1 then p.2.s2ctl else 0 })),
    funcs := (s.modFunc 0 (fun F => { F.afterReset s.time with usable := !s.scrubs.any (fun x => x.scope.isNone) })).funcs.map (fun (f : Nat × Func) =>
      (f.1, { f.2 with depth := 16, rate := 4, credit := 16 * Config.usPeriods, refillAt := s.time })) }

/-- R482, R483: a reset begins, with its kills, and ends once the accumulates are delivered. -/
def execFunctionLevelReset (fn : Nat) (s : State) : Out :=
  if 16 < fn then .next s
  else if !(s.func fn).flr then
    let s1 := (resetParts fn).foldl (fun (s : State) p => s.beginReset p) s
    .next (s1.modFunc fn (fun F => { F with usable := false, flr := true, msixPend := 0 }))
  else if (resetParts fn).all s.delivered then
    let s1 := (resetParts fn).foldl (fun (s : State) p => s.endReset p) s
    .next (if fn = 0 then s1.resetZero else s1)
  else .next s

/-! ### Soft errors and failures (R499, R501) -/

def State.addPoison (s : State) (u : Nat) : State := { s with poison := dedup (u :: s.poison) }

/-- R499: an uncorrectable error in a piece of storage. -/
def execSoftError (site : ErrSite) (s : State) : Out :=
  let unit (core : Nat) : Nat := core % 128
  let rep (s : State) (src sev ctx core addr : Nat) : State := s.report src sev (s.partOf ctx) ctx (dieOfCore core) (unit core) addr
  match site with
  | .register t g l r =>
    let T := s.team t
    if T.onDie then .next (rep (s.modGang t g (fun G => { G with bad := dedup (poolKey l r :: G.bad) })) 1 2 T.ctx (T.gang g).core 0) else .next s
  | .tile t follower n =>
    let T := s.team t
    if T.onDie ∧ n < T.launch.tiles then
      .next (rep (s.modTeam t (fun T => { T with tiles := tmod {} T.tiles (tileKey follower n) (fun x => { x with ecc := true }) })) 2 2 T.ctx T.core 0)
    else .next s
  | .scratch t a =>
    let T := s.team t
    if T.onDie then .next (rep (s.modTeam t (fun T => { T with poison := dedup (a / 16 :: T.poison) })) 3 2 T.ctx T.core a) else .next s
  | .l1clean core line => .next (s.reportCorrected 3 (dieOfCore core) (unit core) (line * 128))
  | .l1excl core line =>
    if (s.core core).l1.any (fun x => decide (x.line = line) && x.excl) then
      let s1 := (upto 8).foldl (fun (s : State) k => s.addPoison (line * 8 + k)) (s.sliceWriteBack core line)
      .next (s1.report 3 2 255 255 (dieOfCore core) (unit core) (line * 128))
    else .next s
  | .icache core line => .next (s.reportCorrected 3 (dieOfCore core) (unit core) (line * 128))
  | .memory u => .next ((s.addPoison u).report 5 2 255 255 (homeSlice (u * 16)).1 (domStack (u * 16) - 20) (u * 16))
  | .l2 u => .next ((s.addPoison u).report 4 2 255 255 (homeSlice (u * 16)).1 (homeSlice (u * 16)).2.1 (u * 16))
  | .corrected source die u a => .next (s.reportCorrected source die u a)
  | .residual core ctx => .next (rep (s.killTold ctx) 3 3 ctx core 0)
  | .future d i =>
    let E := s.future (d * 4096 + i)
    if E.state = .free then .next s else .next ((s.killTold E.ctx).report 3 3 (s.partOf E.ctx) E.ctx d 0 0)
  | .commandRam c =>
    if c < 8 then .next (({ s.killAll with cmdCores := tput s.cmdCores c { (s.cmdCore c) with held := true } } : State).report 11 3 255 255 0 c 0)
    else .next s
  | .pairLinkStore t a =>
    let T := s.team t
    if T.onDie ∧ T.launch.pair then
      .next (rep (s.modTeam t (fun T => { T with poison := dedup (a / 16 :: T.poison) })) 6 2 T.ctx T.core a)
    else .next s
  | .pairLinkMatrix core =>
    let r := s.free
    .next ((r.2.failColumn (core / 2 * 2) (r.1.toNat % 32)).report 6 2 255 255 (dieOfCore core) (unit core) 0)
  | .pairLinkLoad core => .next ((s.modCore core (fun C => { C with pairLoadBad := true })).report 6 2 255 255 (dieOfCore core) (unit core) 0)
  | .exchange core k =>
    .next ((s.modCore core (fun C => { C with xouts := ((upto C.xouts.length).zip C.xouts).map (fun q => if q.1 = k then { q.2 with bad := true } else q.2) })).report
      7 2 255 255 (dieOfCore core) (unit core) 0)
  | .arrayColumn core col => .next (s.damage core (col % 32))

/-- R501, R343: a die fails. -/
def execDieFailure (die : Nat) (s : State) : Out :=
  let s1 := s.modDie die (fun D => { D with failed := true })
  let s2 := s1.discardAddends (fun pa => s1.isLocal pa && decide ((homeSlice pa).1 = die)) 9
  .next (s2.killAll.report 9 4 255 255 die 0 0)

/-- R503: a quarter is hot, or has cooled. -/
def execThermalThrottle (quarter : Nat) (hot : Bool) (s : State) : Out :=
  if (s.quarter quarter).hot = hot then .next s
  else .next ((s.modQuarter quarter (fun Q => { Q with hot := hot })).report 12 1 255 255 (quarter / 4) (quarter % 4) 0)

/-- R492, R503: after a thermal trip the compute dies and stacks have no power, but Agtur, the registers of the host
interface and the ports do: the rows that still act. -/
def worksUnpowered (i : Instr) : Bool :=
  match i with
  | .coldStart _ => true
  | .warmStart _ _ => true
  | .trivetAgturImage _ => true
  | .coldStartCommand _ => true
  | .warmStartCommand _ => true
  | .recovery _ => true
  | .writeAgturRegisters _ => true
  | .setPackageTenant _ => true
  | .setPartitionTenant _ => true
  | .enrolLeaseKey _ => true
  | .installWeightTable _ => true
  | .retirePseudoChannel _ => true
  | .drainQuarter _ => true
  | .retrainFabricPort _ => true
  | .replaceCommandCoreImage _ => true
  | .reclaimLentClusters _ => true
  | .assignPkgid _ => true
  | .writeAgturFirmware _ => true
  | .agtcmdFragment _ => true
  | .registerWrite _ _ _ _ => true
  | .readClearRegister _ _ => true
  | .ccload _ => true
  | .mailboxPublish _ _ _ => true
  | .mailboxClear _ _ => true
  | .notifyrateWrite _ _ => true
  | .msixMaskClear _ _ => true
  | .functionLevelReset _ => true
  | .mediumIdentify _ _ => true
  | .portFailure _ => true
  | .flitReplay _ => true
  | _ => false

/-- R503, R496: the package trips: every context is killed and the dies lose power, which abandons a scrub. -/
def execThermalTrip (s : State) : Out :=
  .next { (s.killAllNow .killed).report 12 4 255 255 0 0 0 with powered := false, scrubs := [], startWaits := none }

end Sys2Proof.Machine
end

