-- ==== Sys2Proof/Machine/Dispatch.lean ====
section
/-! DEFINITION. One arm for each instruction and event: the meaning that it runs. -/

namespace Sys2Proof.Machine

def exec (i : Instr) (s : State) : Host.Outcome State Fault Refusal :=
  match i with
  | .nop g => Sys2Proof.Machine.execNop g s
  | .bra g off => Sys2Proof.Machine.execBra g off s
  | .brx g a => Sys2Proof.Machine.execBrx g a s
  | .call g off => Sys2Proof.Machine.execCall g off s
  | .callv g a => Sys2Proof.Machine.execCallv g a s
  | .ret g => Sys2Proof.Machine.execRet g s
  | .exit g => Sys2Proof.Machine.execExit g s
  | .join g d => Sys2Proof.Machine.execJoin g d s
  | .leave g d => Sys2Proof.Machine.execLeave g d s
  | .waitm g a => Sys2Proof.Machine.execWaitm g a s
  | .mset g all d a => Sys2Proof.Machine.execMset g all d a s
  | .mmov g d a => Sys2Proof.Machine.execMmov g d a s
  | .mand g d a b => Sys2Proof.Machine.execMand g d a b s
  | .mor g d a b => Sys2Proof.Machine.execMor g d a b s
  | .mpop g d a => Sys2Proof.Machine.execMpop g d a s
  | .mfromk g d a => Sys2Proof.Machine.execMfromk g d a s
  | .rep cnt sd sa sb sc => Sys2Proof.Machine.execRep cnt sd sa sb sc s
  | .yield g => Sys2Proof.Machine.execYield g s
  | .pairWord s0 s1 => Sys2Proof.Machine.execPairWord s0 s1 s
  | .iadd g t d a b => Sys2Proof.Machine.execIadd g t d a b s
  | .isub g t d a b => Sys2Proof.Machine.execIsub g t d a b s
  | .iaddsat g t d a b => Sys2Proof.Machine.execIaddsat g t d a b s
  | .isubsat g t d a b => Sys2Proof.Machine.execIsubsat g t d a b s
  | .imul g t d a b => Sys2Proof.Machine.execImul g t d a b s
  | .imulh g t d a b => Sys2Proof.Machine.execImulh g t d a b s
  | .imad g t d a b c => Sys2Proof.Machine.execImad g t d a b c s
  | .idiv g t d a b => Sys2Proof.Machine.execIdiv g t d a b s
  | .irem g t d a b => Sys2Proof.Machine.execIrem g t d a b s
  | .imin g t d a b => Sys2Proof.Machine.execImin g t d a b s
  | .imax g t d a b => Sys2Proof.Machine.execImax g t d a b s
  | .iabs g t sat d a => Sys2Proof.Machine.execIabs g t sat d a s
  | .ineg g t sat d a => Sys2Proof.Machine.execIneg g t sat d a s
  | .and g t d a b => Sys2Proof.Machine.execAnd g t d a b s
  | .or g t d a b => Sys2Proof.Machine.execOr g t d a b s
  | .xor g t d a b => Sys2Proof.Machine.execXor g t d a b s
  | .not g t d a => Sys2Proof.Machine.execNot g t d a s
  | .andn g t d a b => Sys2Proof.Machine.execAndn g t d a b s
  | .shl g t d a b => Sys2Proof.Machine.execShl g t d a b s
  | .shr g t d a b => Sys2Proof.Machine.execShr g t d a b s
  | .sar g t d a b => Sys2Proof.Machine.execSar g t d a b s
  | .rotl g t d a b => Sys2Proof.Machine.execRotl g t d a b s
  | .bfx g t d a b c => Sys2Proof.Machine.execBfx g t d a b c s
  | .bfi g t d a b c => Sys2Proof.Machine.execBfi g t d a b c s
  | .popc g t d a => Sys2Proof.Machine.execPopc g t d a s
  | .clz g t d a => Sys2Proof.Machine.execClz g t d a s
  | .ctz g t d a => Sys2Proof.Machine.execCtz g t d a s
  | .brev g t d a => Sys2Proof.Machine.execBrev g t d a s
  | .bswap g t d a => Sys2Proof.Machine.execBswap g t d a s
  | .sel g t d a b c => Sys2Proof.Machine.execSel g t d a b c s
  | .mov g t d a => Sys2Proof.Machine.execMov g t d a s
  | .lea g t d a b sh => Sys2Proof.Machine.execLea g t d a b sh s
  | .movi g d imm => Sys2Proof.Machine.execMovi g d imm s
  | .movh g d imm => Sys2Proof.Machine.execMovh g d imm s
  | .icmp g cd t d a b => Sys2Proof.Machine.execIcmp g cd t d a b s
  | .plop g op d a b => Sys2Proof.Machine.execPlop g op d a b s
  | .pmov g neg d a => Sys2Proof.Machine.execPmov g neg d a s
  | .vote g mode d a => Sys2Proof.Machine.execVote g mode d a s
  | .ballot g d a => Sys2Proof.Machine.execBallot g d a s
  | .shfl g mode t d a b pout => Sys2Proof.Machine.execShfl g mode t d a b pout s
  | .idp4 g sgn sat d a b c => Sys2Proof.Machine.execIdp4 g sgn sat d a b c s
  | .idp8 g sat d a b c => Sys2Proof.Machine.execIdp8 g sat d a b c s
  | .bcast g t d a b => Sys2Proof.Machine.execBcast g t d a b s
  | .vrd g t d a b => Sys2Proof.Machine.execVrd g t d a b s
  | .iaddImm g sc t d a imm => Sys2Proof.Machine.execIaddImm g sc t d a imm s
  | .isubImm g sc t d a imm => Sys2Proof.Machine.execIsubImm g sc t d a imm s
  | .imulImm g sc t d a imm => Sys2Proof.Machine.execImulImm g sc t d a imm s
  | .iminImm g sc t d a imm => Sys2Proof.Machine.execIminImm g sc t d a imm s
  | .imaxImm g sc t d a imm => Sys2Proof.Machine.execImaxImm g sc t d a imm s
  | .andImm g sc t d a imm => Sys2Proof.Machine.execAndImm g sc t d a imm s
  | .orImm g sc t d a imm => Sys2Proof.Machine.execOrImm g sc t d a imm s
  | .xorImm g sc t d a imm => Sys2Proof.Machine.execXorImm g sc t d a imm s
  | .shlImm g sc t d a imm => Sys2Proof.Machine.execShlImm g sc t d a imm s
  | .shrImm g sc t d a imm => Sys2Proof.Machine.execShrImm g sc t d a imm s
  | .sarImm g sc t d a imm => Sys2Proof.Machine.execSarImm g sc t d a imm s
  | .rotlImm g sc t d a imm => Sys2Proof.Machine.execRotlImm g sc t d a imm s
  | .icmpImm g sc cd t d a imm => Sys2Proof.Machine.execIcmpImm g sc cd t d a imm s
  | .fadd g rm d a b => Sys2Proof.Machine.execFadd g rm d a b s
  | .fsub g rm d a b => Sys2Proof.Machine.execFsub g rm d a b s
  | .fmul g rm d a b => Sys2Proof.Machine.execFmul g rm d a b s
  | .ffma g rm d a b c => Sys2Proof.Machine.execFfma g rm d a b c s
  | .fmin g d a b => Sys2Proof.Machine.execFmin g d a b s
  | .fmax g d a b => Sys2Proof.Machine.execFmax g d a b s
  | .fcmp g cd d a b => Sys2Proof.Machine.execFcmp g cd d a b s
  | .fclass g d a => Sys2Proof.Machine.execFclass g d a s
  | .frnd g rm d a => Sys2Proof.Machine.execFrnd g rm d a s
  | .fcvt g kind rm inf d a => Sys2Proof.Machine.execFcvt g kind rm inf d a s
  | .f2i g src dst rm d a => Sys2Proof.Machine.execF2i g src dst rm d a s
  | .i2f g dst src rm d a => Sys2Proof.Machine.execI2f g dst src rm d a s
  | .hxadd g rm d a b => Sys2Proof.Machine.execHxadd g rm d a b s
  | .hxmul g rm d a b => Sys2Proof.Machine.execHxmul g rm d a b s
  | .hxfma g rm d a b c => Sys2Proof.Machine.execHxfma g rm d a b c s
  | .bxadd g rm d a b => Sys2Proof.Machine.execBxadd g rm d a b s
  | .bxmul g rm d a b => Sys2Proof.Machine.execBxmul g rm d a b s
  | .bxfma g rm d a b c => Sys2Proof.Machine.execBxfma g rm d a b c s
  | .fdp2 g b16 rm d a b c => Sys2Proof.Machine.execFdp2 g b16 rm d a b c s
  | .frcp g la d a => Sys2Proof.Machine.execFrcp g la d a s
  | .frsq g la d a => Sys2Proof.Machine.execFrsq g la d a s
  | .fsqrt g la rm d a => Sys2Proof.Machine.execFsqrt g la rm d a s
  | .fexp2 g la d a => Sys2Proof.Machine.execFexp2 g la d a s
  | .flog2 g la d a => Sys2Proof.Machine.execFlog2 g la d a s
  | .fsin g la d a => Sys2Proof.Machine.execFsin g la d a s
  | .fcos g la d a => Sys2Proof.Machine.execFcos g la d a s
  | .ftanh g la d a => Sys2Proof.Machine.execFtanh g la d a s
  | .fscale g rm d a b => Sys2Proof.Machine.execFscale g rm d a b s
  | .fgetexp g d a => Sys2Proof.Machine.execFgetexp g d a s
  | .gpack g inf d a => Sys2Proof.Machine.execGpack g inf d a s
  | .gunpack g d a => Sys2Proof.Machine.execGunpack g d a s
  | .ld g la m => Sys2Proof.Machine.execLd g la m s
  | .ldSigned g la m => Sys2Proof.Machine.execLdSigned g la m s
  | .st g m => Sys2Proof.Machine.execSt g m s
  | .ldv g la m => Sys2Proof.Machine.execLdv g la m s
  | .stv g m => Sys2Proof.Machine.execStv g m s
  | .lds g la m => Sys2Proof.Machine.execLds g la m s
  | .ldsSigned g la m => Sys2Proof.Machine.execLdsSigned g la m s
  | .sts g m => Sys2Proof.Machine.execSts g m s
  | .gath g la m => Sys2Proof.Machine.execGath g la m s
  | .gathSigned g la m => Sys2Proof.Machine.execGathSigned g la m s
  | .scat g m => Sys2Proof.Machine.execScat g m s
  | .prf g m => Sys2Proof.Machine.execPrf g m s
  | .loadDataReturn team gang id => Sys2Proof.Machine.execLoadDataReturn team gang id s
  | .barSync g n cnt => Sys2Proof.Machine.execBarSync g n cnt s
  | .barArv g n cnt => Sys2Proof.Machine.execBarArv g n cnt s
  | .barWait g n => Sys2Proof.Machine.execBarWait g n s
  | .barBytes g n b => Sys2Proof.Machine.execBarBytes g n b s
  | .waitA g wide scr a b => Sys2Proof.Machine.execWaitA g wide scr a b s
  | .waitT g wide scr d a b c => Sys2Proof.Machine.execWaitT g wide scr d a b c s
  | .waitTTimeout team gang lane => Sys2Proof.Machine.execWaitTTimeout team gang lane s
  | .fence g y => Sys2Proof.Machine.execFence g y s
  | .atom32 g la op ord y sgn d a b c => Sys2Proof.Machine.execAtom32 g la op ord y sgn d a b c s
  | .atom64 g la op ord y sgn d a b c => Sys2Proof.Machine.execAtom64 g la op ord y sgn d a b c s
  | .cpGs g q a b c desc => Sys2Proof.Machine.execCpGs g q a b c desc s
  | .cpSg g q a b c desc => Sys2Proof.Machine.execCpSg g q a b c desc s
  | .cpGg g q a b c desc => Sys2Proof.Machine.execCpGg g q a b c desc s
  | .cpFence g y mask desc => Sys2Proof.Machine.execCpFence g y mask desc s
  | .cpPoll g d => Sys2Proof.Machine.execCpPoll g d s
  | .copyEntryComplete core q => Sys2Proof.Machine.execCopyEntryComplete core q s
  | .lfillBar g n a b => Sys2Proof.Machine.execLfillBar g n a b s
  | .lfillTok g d a b c => Sys2Proof.Machine.execLfillTok g d a b c s
  | .lfillComplete die idx => Sys2Proof.Machine.execLfillComplete die idx s
  | .storeQueueDrain team gang => Sys2Proof.Machine.execStoreQueueDrain team gang s
  | .tcfg g d a => Sys2Proof.Machine.execTcfg g d a s
  | .tld g la sc d a b c => Sys2Proof.Machine.execTld g la sc d a b c s
  | .tldg g la sc bar d a b c => Sys2Proof.Machine.execTldg g la sc bar d a b c s
  | .tldgLanding team gang id => Sys2Proof.Machine.execTldgLanding team gang id s
  | .tst g sc d a b c => Sys2Proof.Machine.execTst g sc d a b c s
  | .tzero g d => Sys2Proof.Machine.execTzero g d s
  | .tmov g sc d a b => Sys2Proof.Machine.execTmov g sc d a b s
  | .mma g la ring nosplit d ta tb f k => Sys2Proof.Machine.execMma g la ring nosplit d ta tb f k s
  | .mmap g la ring nosplit wide d ta tb f k => Sys2Proof.Machine.execMmap g la ring nosplit wide d ta tb f k s
  | .mmac g la a => Sys2Proof.Machine.execMmac g la a s
  | .kBlockStart core => Sys2Proof.Machine.execKBlockStart core s
  | .matrixRetire core => Sys2Proof.Machine.execMatrixRetire core s
  | .czero g d => Sys2Proof.Machine.execCzero g d s
  | .cmov g d a n => Sys2Proof.Machine.execCmov g d a n s
  | .cmovIn g d a n => Sys2Proof.Machine.execCmovIn g d a n s
  | .vbnd g a => Sys2Proof.Machine.execVbnd g a s
  | .atest g d => Sys2Proof.Machine.execAtest g d s
  | .arraySelfTest core failing => Sys2Proof.Machine.execArraySelfTest core failing s
  | .trap g n => Sys2Proof.Machine.execTrap g n s
  | .brk g n => Sys2Proof.Machine.execBrk g n s
  | .rfe g skip => Sys2Proof.Machine.execRfe g skip s
  | .sread g dk d num => Sys2Proof.Machine.execSread g dk d num s
  | .swrite g dk a num => Sys2Proof.Machine.execSwrite g dk a num s
  | .ctxSave g a => Sys2Proof.Machine.execCtxSave g a s
  | .ctxLoad g a => Sys2Proof.Machine.execCtxLoad g a s
  | .xst g m => Sys2Proof.Machine.execXst g m s
  | .xbar g => Sys2Proof.Machine.execXbar g s
  | .cbar g d => Sys2Proof.Machine.execCbar g d s
  | .xpoll g d => Sys2Proof.Machine.execXpoll g d s
  | .acc g op a b => Sys2Proof.Machine.execAcc g op a b s
  | .accv g op a b => Sys2Proof.Machine.execAccv g op a b s
  | .accFlush g y => Sys2Proof.Machine.execAccFlush g y s
  | .accProbe g la d a => Sys2Proof.Machine.execAccProbe g la d a s
  | .accumulatePacketArrival core id => Sys2Proof.Machine.execAccumulatePacketArrival core id s
  | .accumulateApply slice => Sys2Proof.Machine.execAccumulateApply slice s
  | .accumulateAckArrival core id => Sys2Proof.Machine.execAccumulateAckArrival core id s
  | .bounceArrival core id => Sys2Proof.Machine.execBounceArrival core id s
  | .residualRetry core ctx block => Sys2Proof.Machine.execResidualRetry core ctx block s
  | .grantedSend core ctx block => Sys2Proof.Machine.execGrantedSend core ctx block s
  | .ownerRecallDeadline line => Sys2Proof.Machine.execOwnerRecallDeadline line s
  | .refusalPendingClear line => Sys2Proof.Machine.execRefusalPendingClear line s
  | .futSpawn g d a b n => Sys2Proof.Machine.execFutSpawn g d a b n s
  | .futDup g d a => Sys2Proof.Machine.execFutDup g d a s
  | .futDrop g d => Sys2Proof.Machine.execFutDrop g d s
  | .futSelf g d => Sys2Proof.Machine.execFutSelf g d s
  | .futCheck g => Sys2Proof.Machine.execFutCheck g s
  | .futGet g la d a n => Sys2Proof.Machine.execFutGet g la d a n s
  | .futPoll g d a => Sys2Proof.Machine.execFutPoll g d a s
  | .futPark g a b => Sys2Proof.Machine.execFutPark g a b s
  | .futUnpark g d a => Sys2Proof.Machine.execFutUnpark g d a s
  | .futRet g a n => Sys2Proof.Machine.execFutRet g a n s
  | .futureReclaim team => Sys2Proof.Machine.execFutureReclaim team s
  | .enRead g d sel => Sys2Proof.Machine.execEnRead g d sel s
  | .enMark g a => Sys2Proof.Machine.execEnMark g a s
  | .vfReq g d a => Sys2Proof.Machine.execVfReq g d a s
  | .vfStat g d => Sys2Proof.Machine.execVfStat g d s
  | .collRed g op d a b c => Sys2Proof.Machine.execCollRed g op d a b c s
  | .collBcast g d a b c => Sys2Proof.Machine.execCollBcast g d a b c s
  | .collWait g d a => Sys2Proof.Machine.execCollWait g d a s
  | .collPartialArrival part grp k fromPkg bcast op root mism bytes gtag len => Sys2Proof.Machine.execCollPartialArrival part grp k fromPkg bcast op root mism bytes gtag len s
  | .collResultArrival part grp k fromPkg mism bytes gtag => Sys2Proof.Machine.execCollResultArrival part grp k fromPkg mism bytes gtag s
  | .collectiveTimeout part grp k => Sys2Proof.Machine.execCollectiveTimeout part grp k s
  | .bucketServeRequest core ctx => Sys2Proof.Machine.execBucketServeRequest core ctx s
  | .grantAnswerArrival core ctx => Sys2Proof.Machine.execGrantAnswerArrival core ctx s
  | .tickBoundary => Sys2Proof.Machine.execTickBoundary s
  | .meterRecordClose part => Sys2Proof.Machine.execMeterRecordClose part s
  | .pointChangeComplete part => Sys2Proof.Machine.execPointChangeComplete part s
  | .capPeriodStart => Sys2Proof.Machine.execCapPeriodStart s
  | .capDivision => Sys2Proof.Machine.execCapDivision s
  | .capShareArrival domain share => Sys2Proof.Machine.execCapShareArrival domain share s
  | .sliceReadRequest core ctx line => Sys2Proof.Machine.execSliceReadRequest core ctx line s
  | .sliceOwnRequest core ctx line => Sys2Proof.Machine.execSliceOwnRequest core ctx line s
  | .sliceWriteRequest core idx => Sys2Proof.Machine.execSliceWriteRequest core idx s
  | .sliceWriteback core line => Sys2Proof.Machine.execSliceWriteback core line s
  | .pageWalk die ctx va acc level => Sys2Proof.Machine.execPageWalk die ctx va acc level s
  | .teamPlacement die team core => Sys2Proof.Machine.execTeamPlacement die team core s
  | .teamRetire team => Sys2Proof.Machine.execTeamRetire team s
  | .spillTest team => Sys2Proof.Machine.execSpillTest team s
  | .rotationPreemption team => Sys2Proof.Machine.execRotationPreemption team s
  | .rotationTimeout team => Sys2Proof.Machine.execRotationTimeout team s
  | .teamSave team => Sys2Proof.Machine.execTeamSave team s
  | .teamRestore die team core => Sys2Proof.Machine.execTeamRestore die team core s
  | .watchdogExpiry ctx => Sys2Proof.Machine.execWatchdogExpiry ctx s
  | .saveBoundExpiry team => Sys2Proof.Machine.execSaveBoundExpiry team s
  | .clusterLend cluster part => Sys2Proof.Machine.execClusterLend cluster part s
  | .clusterReclaim cluster => Sys2Proof.Machine.execClusterReclaim cluster s
  | .reclaimRefusedTimeout team => Sys2Proof.Machine.execReclaimRefusedTimeout team s
  | .limiterRefill die part => Sys2Proof.Machine.execLimiterRefill die part s
  | .remoteRequestAdmission pkg tag pa req => Sys2Proof.Machine.execRemoteRequestAdmission pkg tag pa req s
  | .notifyWrite fn ring v => Sys2Proof.Machine.execNotifyWrite fn ring v s
  | .ringEnable fn ring v => Sys2Proof.Machine.execRingEnable fn ring v s
  | .ringDisable fn ring => Sys2Proof.Machine.execRingDisable fn ring s
  | .tokenRefill fn => Sys2Proof.Machine.execTokenRefill fn s
  | .parserDrain fn ring => Sys2Proof.Machine.execParserDrain fn ring s
  | .parserRetry fn ring => Sys2Proof.Machine.execParserRetry fn ring s
  | .headWritebackTimer fn ring => Sys2Proof.Machine.execHeadWritebackTimer fn ring s
  | .launch fn ring pos => Sys2Proof.Machine.execLaunch fn ring pos s
  | .copy fn ring pos => Sys2Proof.Machine.execCopy fn ring pos s
  | .copyPacketComplete fn ring pos => Sys2Proof.Machine.execCopyPacketComplete fn ring pos s
  | .waitMem fn ring pos => Sys2Proof.Machine.execWaitMem fn ring pos s
  | .waitMemHostPoll fn ring pos => Sys2Proof.Machine.execWaitMemHostPoll fn ring pos s
  | .writeMem fn ring pos => Sys2Proof.Machine.execWriteMem fn ring pos s
  | .fencePacket fn ring pos => Sys2Proof.Machine.execFencePacket fn ring pos s
  | .energyMark fn ring pos => Sys2Proof.Machine.execEnergyMark fn ring pos s
  | .timestamp fn ring pos => Sys2Proof.Machine.execTimestamp fn ring pos s
  | .predicate fn ring pos => Sys2Proof.Machine.execPredicate fn ring pos s
  | .relaunch fn ring pos => Sys2Proof.Machine.execRelaunch fn ring pos s
  | .tlbinvBlock fn v => Sys2Proof.Machine.execTlbinvBlock fn v s
  | .tlbinvContext fn v => Sys2Proof.Machine.execTlbinvContext fn v s
  | .tlbinvPartition fn v => Sys2Proof.Machine.execTlbinvPartition fn v s
  | .s2inv v => Sys2Proof.Machine.execS2inv v s
  | .prqResponseOk fn id => Sys2Proof.Machine.execPrqResponseOk fn id s
  | .prqResponseFail fn id => Sys2Proof.Machine.execPrqResponseFail fn id s
  | .exportRequest fn => Sys2Proof.Machine.execExportRequest fn s
  | .notifyrateWrite fn v => Sys2Proof.Machine.execNotifyrateWrite fn v s
  | .contextEnable ctx => Sys2Proof.Machine.execContextEnable ctx s
  | .contextDisable ctx => Sys2Proof.Machine.execContextDisable ctx s
  | .ccload v => Sys2Proof.Machine.execCcload v s
  | .mailboxPublish sender m v => Sys2Proof.Machine.execMailboxPublish sender m v s
  | .mailboxClear core m => Sys2Proof.Machine.execMailboxClear core m s
  | .agtcmdFragment v => Sys2Proof.Machine.execAgtcmdFragment v s
  | .readClearRegister fn off => Sys2Proof.Machine.execReadClearRegister fn off s
  | .registerWrite fn off size v => Sys2Proof.Machine.execRegisterWrite fn off size v s
  | .coldStartCommand c => Sys2Proof.Machine.execColdStartCommand c s
  | .warmStartCommand c => Sys2Proof.Machine.execWarmStartCommand c s
  | .recovery c => Sys2Proof.Machine.execRecovery c s
  | .writeAgturRegisters c => Sys2Proof.Machine.execWriteAgturRegisters c s
  | .setPackageTenant c => Sys2Proof.Machine.execSetPackageTenant c s
  | .setPartitionTenant c => Sys2Proof.Machine.execSetPartitionTenant c s
  | .enrolLeaseKey c => Sys2Proof.Machine.execEnrolLeaseKey c s
  | .installWeightTable c => Sys2Proof.Machine.execInstallWeightTable c s
  | .retirePseudoChannel c => Sys2Proof.Machine.execRetirePseudoChannel c s
  | .drainQuarter c => Sys2Proof.Machine.execDrainQuarter c s
  | .retrainFabricPort c => Sys2Proof.Machine.execRetrainFabricPort c s
  | .replaceCommandCoreImage c => Sys2Proof.Machine.execReplaceCommandCoreImage c s
  | .reclaimLentClusters c => Sys2Proof.Machine.execReclaimLentClusters c s
  | .assignPkgid c => Sys2Proof.Machine.execAssignPkgid c s
  | .writeAgturFirmware c => Sys2Proof.Machine.execWriteAgturFirmware c s
  | .coldStart failStep => Sys2Proof.Machine.execColdStart failStep s
  | .warmStart failStep kept => Sys2Proof.Machine.execWarmStart failStep kept s
  | .functionLevelReset fn => Sys2Proof.Machine.execFunctionLevelReset fn s
  | .thermalThrottle quarter hot => Sys2Proof.Machine.execThermalThrottle quarter hot s
  | .thermalTrip => Sys2Proof.Machine.execThermalTrip s
  | .softError site => Sys2Proof.Machine.execSoftError site s
  | .dieFailure die => Sys2Proof.Machine.execDieFailure die s
  | .exchangePortFailure cluster => Sys2Proof.Machine.execExchangePortFailure cluster s
  | .pairLinkFailure pair => Sys2Proof.Machine.execPairLinkFailure pair s
  | .portFailure port => Sys2Proof.Machine.execPortFailure port s
  | .mediumIdentify port ok => Sys2Proof.Machine.execMediumIdentify port ok s
  | .xstWriteComplete core => Sys2Proof.Machine.execXstWriteComplete core s
  | .flitReplay port => Sys2Proof.Machine.execFlitReplay port s
  | .msixMaskClear fn vec => Sys2Proof.Machine.execMsixMaskClear fn vec s
  | .privilegedContextSave ctx => Sys2Proof.Machine.execPrivilegedContextSave ctx s
  | .trivetAgturImage image => Sys2Proof.Machine.execTrivetAgturImage image s
  | .capReportArrival pkg domain flr demand => Sys2Proof.Machine.execCapReportArrival pkg domain flr demand s
  | .illegalEncoding w => Sys2Proof.Machine.execIllegalEncoding w s
  | .fetchFault c => Sys2Proof.Machine.execFetchFault c s

end Sys2Proof.Machine
end

