-- ==== Sys2Proof/Machine/Charge.lean ====
section
/-! DEFINITION. The estimate of a word: every charge that its chapter attributes to its issue (21 R439; 03 R81, R90; 05 R115;
06 R150; 07 R168; 08 R177; 09 R206; 10 R255; 11 R265, R267; 13 R305; 15 R349; 16 R378; 21 R458; 27 R547). -/

namespace Sys2Proof.Machine

/-- The weight classes of an issue. -/
inductive IssueClass where
  | issue | int | pred | float | special | scalar
  deriving DecidableEq, Repr

/-- R115, R117, R136, R177, R206, R255, R267, R305, R349, R378, R458: the class of a word, from its fields. A scalar
destination makes an integer form Scalar (R115). -/
def issueClass (f : Fields) : IssueClass :=
  let op := f.op.toNat
  if op = 0x08 ∨ op = 0x09 ∨ op = 0x0B then .scalar
  else if 0x10 ≤ op ∧ op ≤ 0x18 ∨ op = 0x1F then (if f.m.getLsbD 7 then .scalar else .int)
  else if op = 0x19 ∨ op = 0x1A then (if f.fn = 1 then .scalar else .int)
  else if op = 0x1B ∨ op = 0x1C then .pred
  else if op = 0x1D then (if f.fn = 1 then .scalar else .pred)
  else if op = 0x1E then .int
  else if op = 0x20 then (if f.fn = 1 then .scalar else .int)
  else if op = 0x21 ∨ op = 0x22 then .int
  else if op = 0x24 ∨ op = 0x25 then .scalar
  else if op = 0x23 ∨ op = 0x26 then .pred
  else if op = 0x3C then .special
  else if 0x30 ≤ op ∧ op ≤ 0x3E then .float
  else if op = 0x54 ∨ op = 0x55 ∨ op = 0x5A then .scalar
  else if op = 0x5F ∨ op = 0x60 then (if f.m.getLsbD 7 then .scalar else .int)
  else if op = 0x61 ∨ op = 0x63 then .scalar
  else if op = 0x6C then (if f.fn = 1 then .int else .issue)
  else if op = 0x6E then (if f.fn = 1 then .int else .issue)
  else if op = 0x73 ∨ op = 0x77 ∨ (0x78 ≤ op ∧ op ≤ 0x7C) then .scalar
  else if op = 0x74 ∨ op = 0x75 then .int
  else if op = 0x7D then (if (f.fn = 3 ∨ f.fn = 4) ∧ f.c.extractLsb' 2 2 = 2 then .scalar else .issue)
  else .issue

/-- The weight of a class for `n` lanes of Active. -/
def State.classWeight (s : State) (c : IssueClass) (n : Nat) : Nat :=
  match c with
  | .issue => s.weight 0
  | .int => s.weight 0 + n * s.weight 1
  | .pred => s.weight 0 + n * s.weight 2
  | .float => s.weight 0 + n * s.weight 3
  | .special => s.weight 0 + n * s.weight 4
  | .scalar => s.weight 5

/-- R81: the per-lane weight of a slot. -/
def State.slotWeight (s : State) (x : Slot) : Nat :=
  let op := x.parts.1.toNat
  if op = 0 then 0
  else if 0x12 ≤ op ∧ op ≤ 0x15 then s.weight 2
  else if 0x18 ≤ op then s.weight 3
  else s.weight 1

/-- R168: the weight of the distinct lines, or scratchpad blocks, that hold the listed addresses. -/
def State.linesWeight (s : State) (scr : Bool) (as : List Int) : Nat :=
  (dedup (as.map (fun a => a / 128))).length * s.weight (if scr then 6 else 7)

def onScratch (sp : Space) : Bool := sp == .scratch || sp == .shadow

/-- The lines of a stretch of bytes. -/
def stretch (a : Int) (n : Nat) : List Int := if n = 0 then [] else (upto ((n + 127) / 128)).map (fun k => a + (128 * k : Nat)) ++ [a + (n : Int) - 1]

/-- R162, R439: what each lane of a gather or scatter from PIDX upwards adds to the estimate: a line or block that an
earlier lane of it does not touch. -/
def State.laneCosts (s : State) (g : Grd) (m : MemOp) : Tbl Nat :=
  let ls := s.lanesLeft g
  let blk (l : Nat) : Int := laneAddr s.curGang m false l / 128
  ls.map (fun l => (l, if ls.any (fun k => decide (k < l) && decide (blk k = blk l)) then 0 else s.weight (if onScratch m.sp then 6 else 7)))

def sumCosts (l : Tbl Nat) : Nat := l.foldl (fun n q => n + q.2) 0

/-- R206: the bytes that a tile move touches, as stretches. -/
def State.tileMove (s : State) (sc : Bool) (d a b c : BitVec 8) : List Seg :=
  let G := s.curGang
  tileSegs (s.curTeam.tile (tileKey (curFollower s) d.toNat)) (G.readS a.toNat) (G.readS b.toNat) (G.readS c.toNat) sc
def State.tileWeight (s : State) (segs : List Seg) : Nat := (segs.foldl (fun n q => n + q.len) 0 + 127) / 128 * s.weight 10
def segLines (segs : List Seg) : List Int := segs.flatMap (fun q => stretch q.addr q.len)

/-- R168, R206, R255, R267, R305, R378, R547: the lines, blocks and tile loads of a word, for lanes of Active. -/
def extraWeight (i : Instr) (s : State) : Nat :=
  let G := s.curGang
  let mem (g : Grd) (m : MemOp) (contig : Bool) : Nat := s.linesWeight (onScratch m.sp) ((s.laneAddrs g m contig).map (·.2))
  let first (g : Grd) (m : MemOp) : Nat := s.linesWeight (onScratch m.sp) (((s.laneAddrs g m false).take 1).map (·.2))
  let some_ (g : Grd) (n : Nat) : Nat := if (s.active g).isEmpty then 0 else n
  let waits (g : Grd) (scr : Bool) (a : Opd) : Nat := s.linesWeight scr ((s.active g).map (fun l => waitAddr G scr a l))
  let atoms (g : Grd) (d a : Opd) : Nat :=
    s.linesWeight false ((if d.sc then (s.active g).take 1 else s.active g).map (fun l => waitAddr G false a l))
  match i with
  | .ld g _ m => mem g m false
  | .ldSigned g _ m => mem g m false
  | .st g m => mem g m false
  | .ldv g _ m => mem g m true
  | .stv g m => mem g m true
  | .xst g m => mem g m false
  | .lds g _ m => first g m
  | .ldsSigned g _ m => first g m
  | .sts g m => first g m
  | .gath g _ m => sumCosts (s.laneCosts g m)
  | .gathSigned g _ m => sumCosts (s.laneCosts g m)
  | .scat g m => sumCosts (s.laneCosts g m)
  | .waitA g _ scr a _ => waits g scr a
  | .waitT g _ scr _ a _ _ => waits g scr a
  | .atom32 g _ _ _ _ _ d a _ _ => atoms g d a
  | .atom64 g _ _ _ _ _ d a _ _ => atoms g d a
  | .tld g _ sc d a b c => some_ g (s.tileWeight (s.tileMove sc d a b c))
  | .tldg g _ sc _ d a b c => some_ g (s.tileWeight (s.tileMove sc d a b c) + s.linesWeight false (segLines (s.tileMove sc d a b c)))
  | .tst g sc d a b c => some_ g (s.tileWeight (s.tileMove sc d a b c) + s.linesWeight true (segLines (s.tileMove sc d a b c)))
  | .ctxSave g a => some_ g (s.linesWeight false ((blockLines (G.readS a.toNat)).map (·.2)))
  | .ctxLoad g a => some_ g (s.linesWeight false ((blockLines (G.readS a.toNat)).map (·.2)))
  | .futSpawn g _ _ _ _ => some_ g (s.weight 7)
  | .futPark g _ _ => some_ g (s.weight 7)
  | .futUnpark g _ _ => some_ g (s.weight 7)
  | .collRed g _ _ a b c =>
    let n := ctrlBytes (G.readS c.toNat)
    some_ g (s.linesWeight false (stretch (G.readS a.toNat).toNat n) + s.linesWeight false (stretch (G.readS b.toNat).toNat n))
  | .collBcast g _ a b c =>
    let w := G.readS c.toNat
    let n := ctrlBytes w
    let reads := decide ((s.group (s.partOf s.curTeam.ctx) (ctrlGroup w)).rank = ctrlRoot w)
    some_ g ((if reads then s.linesWeight false (stretch (G.readS a.toNat).toNat n) else 0) +
      s.linesWeight false (stretch (G.readS b.toNat).toNat n))
  | _ => 0

/-- R439: the unscaled estimate of a word; a `rep` word itself is charged nothing (R90). -/
def estimate (i : Instr) (s : State) : Nat :=
  match i with
  | .rep _ _ _ _ _ => 0
  | .pairWord a b => s.weight 0 + s.runLanes.length * (s.slotWeight a + s.slotWeight b)
  | i =>
    match encodeFields i with
    | some f => s.classWeight (issueClass f) (s.active f.grd).length + extraWeight i s
    | none => 0

/-- R162: a word that goes lane by lane. -/
def byLane (i : Instr) : Option (Grd × MemOp) :=
  match i with
  | .gath g _ m => some (g, m)
  | .gathSigned g _ m => some (g, m)
  | .scat g m => some (g, m)
  | _ => none

end Sys2Proof.Machine
end

