-- ==== Sys2Proof/Machine/Schedule.lean ====
section
/-! DEFINITION. Which event of the engines, slices, dispatchers, timers and command cores happens next when the schedule names
none (notes/assumptions/2.md): the first one, in a fixed order, that is due and changes the state. -/

namespace Sys2Proof.Machine

/-- An event that would change the state. -/
def tryEvent (s : State) (o : Out) : Option Out :=
  match o with
  | .next s1 => if s1 = s then none else some o
  | _ => some o

/-- A due event, when a condition holds. -/
def dueIf (s : State) (c : Bool) (o : State → Out) : Option Out := if c then tryEvent s (o s) else none

/-- Whether a command core does its work. -/
def State.coreUp (s : State) (c : Nat) : Bool := !(s.cmdCore c).held && (s.cmdCore c).golden

/-- R498: whether a command core serves a packet: one that has started completes under any image. -/
def State.packetUp (s : State) (c : Nat) (started : Bool) : Bool := !(s.cmdCore c).held && ((s.cmdCore c).golden || started)

/-- A time since which 1 µs has passed; 0 stands for never. -/
def State.waited (s : State) (t : Nat) : Bool := decide (t = 0) || decide (t + Config.usPeriods ≤ s.time)

/-! ### Gangs and teams -/

def State.duePend (s : State) (t g : Nat) (G : Gang) (p : Pend) : Option Out :=
  if p.done then none
  else match p.kind with
  | .tile _ _ _ => tryEvent s (execTldgLanding t g p.id s)
  | .matrix _ => if p.ecc.isSome then dueIf s (G.pend.all (fun q => q.done || decide (q.id = p.id))) (execLoadDataReturn t g p.id) else none
  | .future _ _ _ => none
  | _ => dueIf s (p.ecc.isNone || G.pend.all (fun q => q.done || decide (q.id = p.id))) (execLoadDataReturn t g p.id)

def State.dueGang (s : State) (t g : Nat) (T : Team) (G : Gang) : Option Out :=
  (G.pend.findSome? (fun p => s.duePend t g G p)) <|>
  dueIf s (T.onDie && !G.queue.isEmpty) (execStoreQueueDrain t g) <|>
  dueIf s (decide (T.state = .placed) && decide (G.stop = .none) && !G.conts.isEmpty) (fun s => .next (s.acceptConts t g))

/-- R276: a save goes on; one that finds no room has been told of, and is tried again later (R361). -/
def State.saveDue (s : State) (t : Nat) (T : Team) : Bool :=
  match T.state with
  | .saving => s.waited T.tried && s.drained t
  | .placed => !T.ended && (match T.stopReq with
    | some r => r.gang.isNone || r.stopped.isNone || s.waited T.tried
    | none => false)
  | _ => false

def State.dueTeam (s : State) (t : Nat) (T : Team) : Option Out :=
  if T.state = .retired then none
  else
    (T.gangs.findSome? (fun p => s.dueGang t p.1 T p.2)) <|>
    dueIf s (s.orphan T) (execFutureReclaim t) <|>
    dueIf s (decide (T.state = .placed) && T.allFinished) (execTeamRetire t) <|>
    dueIf s T.stopReq.isSome (execReclaimRefusedTimeout t) <|>
    dueIf s T.stopReq.isSome (execSaveBoundExpiry t) <|>
    dueIf s T.stopReq.isSome (execRotationTimeout t) <|>
    dueIf s (s.saveDue t T) (execTeamSave t) <|>
    dueIf s (s.waited T.tried && (s.spillReason t).isSome) (execSpillTest t)

/-! ### Cores -/

/-- A packet that arrives, or is answered. Bounces and retries come to the core's port at the beginning of a cycle (R333). -/
def State.duePacket (s : State) (c : Nat) (p : Packet) : Option Out :=
  match p.stage with
  | .sent => dueIf s (s.isLocal (p.block * 64)) (execAccumulatePacketArrival c p.id)
  | .held => dueIf s (!s.heldExclusive (p.block / 2)) (execAccumulatePacketArrival c p.id)
  | .applied => tryEvent s (execAccumulateAckArrival c p.id s)
  | _ => none

def State.dueCopyQ (s : State) (c q : Nat) (Q : CopyQueue) : Option Out :=
  match Q.entries with
  | [] => none
  | e :: _ =>
    let ctx := (s.team e.teamGang.1).ctx
    let ready := match Q.missing with
      | some (k, _) => !s.prqs.any (fun r => decide (r.ctx = ctx) && decide (r.page = k.1) && r.s2 == k.2) && s.prqRoom (s.partOf ctx)
      | none => true
    dueIf s ready (execCopyEntryComplete c q)

/-- The oldest store of a core that has reached its home slice, in its turn (R319). -/
def State.dueStore (s : State) (c : Nat) (C : Core) : Option Out :=
  match (upto C.out.length).find? (fun i => match C.out[i]? with
      | some w => !s.flying w.id && !s.behind c w
      | none => false) with
  | some i => tryEvent s (execSliceWriteRequest c i s)
  | none => none

/-- R222: 10 ms without a self-test. -/
def selfTestPeriods : Nat := 10000 * Config.usPeriods

def State.dueCore (s : State) (c : Nat) (C : Core) : Option Out :=
  (C.meters.findSome? (fun m =>
    dueIf s (m.2.req && m.2.answer.isNone) (execBucketServeRequest c m.1) <|> dueIf s m.2.answer.isSome (execGrantAnswerArrival c m.1))) <|>
  s.dueStore c C <|>
  dueIf s (!C.xouts.isEmpty) (execXstWriteComplete c) <|>
  (C.pkts.findSome? (fun p => s.duePacket c p)) <|>
  dueIf s (!(s.portList c).isEmpty) (fun s => .next (s.corePort c)) <|>
  (C.copyq.findSome? (fun q => s.dueCopyQ c q.1 q.2)) <|>
  dueIf s (!C.matq.isEmpty) (execMatrixRetire c) <|>
  dueIf s (!C.matOff && !(s.quarter (quarterOfCore c)).off && decide (C.lastPass + selfTestPeriods ≤ s.time)) (execArraySelfTest c none) <|>
  dueIf s (!C.matq.isEmpty) (execKBlockStart c)

/-- R222: the self-tests of cores that nothing has used yet. -/
def State.dueTests (s : State) : Option Out :=
  if s.time < selfTestPeriods then none
  else (upto 512).findSome? (fun c => dueIf s (s.cores.all (fun p => decide (p.1 ≠ c))) (execArraySelfTest c none))

/-! ### Dies and slices -/

def State.duePlacement (s : State) (d : Nat) : Option Out :=
  match s.nextPlacement d with
  | none => none
  | some (t, l) =>
    let T := s.team t
    match l.find? (fun q => decide (q.1 = t)) with
    | none => none
    | some q => if T.hasRecord then dueIf s (s.waited T.tried) (execTeamRestore d t q.2) else tryEvent s (execTeamPlacement d t q.2 s)

def State.dueDie (s : State) (d : Nat) (D : Die) : Option Out :=
  ((upto D.ladle.length).findSome? (fun i => match D.ladle[i]? with
    | some _ => tryEvent s (execLfillComplete d i s)
    | none => none)) <|>
  (D.prate.findSome? (fun p => dueIf s (decide (D.rate p.1 ≠ 0) && decide (tget 0 D.limAt p.1 / 1024 < s.time / 1024)) (execLimiterRefill d p.1)))

def State.dueSlice (s : State) (n : Nat) (S : Slice) : Option Out := dueIf s (!S.accept.isEmpty) (execAccumulateApply n)

/-! ### Functions, rings and packets -/

/-- A packet that watches a device word reads it again once its line has been written (R478). -/
def State.watchHolds (s : State) (p : PktRun) : Bool :=
  match p.pa with
  | some _ => p.woken
  | none => s.waited p.since

def State.duePkt (s : State) (fn ring : Nat) (p : PktRun) : Option Out :=
  match s.pktTurn fn ring p.pos with
  | none => none
  | some p =>
    let again := !p.started || s.waited p.since
    match slotType p.bytes with
    | 1 => dueIf s (s.packetUp 1 p.started && again) (execLaunch fn ring p.pos)
    | 2 => if p.started then dueIf s (s.packetUp 0 p.started && again) (execCopyPacketComplete fn ring p.pos) else dueIf s (s.packetUp 0 p.started) (execCopy fn ring p.pos)
    | 3 =>
      if p.started && p.testHost then dueIf s (s.packetUp 0 p.started) (execWaitMemHostPoll fn ring p.pos)
      else dueIf s (s.packetUp 0 p.started && (!p.started || s.watchHolds p)) (execWaitMem fn ring p.pos)
    | 4 => dueIf s (s.packetUp 0 p.started && again) (execWriteMem fn ring p.pos)
    | 5 => dueIf s (s.packetUp 0 p.started) (execFencePacket fn ring p.pos)
    | 6 => dueIf s (s.packetUp 0 p.started) (execEnergyMark fn ring p.pos)
    | 7 => dueIf s (s.packetUp 0 p.started && again) (execTimestamp fn ring p.pos)
    | 8 => dueIf s (s.packetUp 0 p.started && again) (execPredicate fn ring p.pos)
    | 9 => dueIf s (s.packetUp 1 p.started && again) (execRelaunch fn ring p.pos)
    | _ => none

def State.dueRing (s : State) (fn ring : Nat) (R : Ring) : Option Out :=
  dueIf s (s.coreUp 0 && R.waitSlot.isSome) (execParserRetry fn ring) <|>
  dueIf s (s.coreUp 0 && R.run) (execParserDrain fn ring) <|>
  dueIf s (s.coreUp 0 && R.wbDirty.isSome) (execHeadWritebackTimer fn ring) <|>
  (R.pkts.findSome? (fun p => s.duePkt fn ring p))

def State.dueFunc (s : State) (fn : Nat) (F : Func) : Option Out :=
  dueIf s F.flr (execFunctionLevelReset fn) <|>
  dueIf s ((decide (F.rate = 0) || decide (Config.usPeriods ≤ F.creditAt s.time)) && !(s.waitingRings fn).isEmpty) (execTokenRefill fn) <|>
  dueIf s (F.mtr.en && !F.mtr.waiting.isEmpty) (fun s => .next (s.flushMtr fn)) <|>
  (F.rings.findSome? (fun r => s.dueRing fn r.1 r.2))

/-! ### Partitions, energy and lending -/

def State.duePart (s : State) (p : Nat) (P : Part) : Option Out :=
  dueIf s (!P.closed.isEmpty) (execMeterRecordClose p) <|>
  dueIf s P.busy.isSome (execPointChangeComplete p) <|>
  (P.coll.findSome? (fun g => g.2.ops.findSome? (fun o =>
    dueIf s (decide (o.status = 0) && decide (o.deadline ≤ s.time)) (execCollectiveTimeout p g.1 o.k))))

def State.dueEnergy (s : State) : Option Out :=
  dueIf s (decide (s.tick < s.time / Config.tickPeriods)) execTickBoundary <|>
  dueIf s (decide (s.capDone < s.time / capPeriods)) execCapPeriodStart <|>
  dueIf s (decide (s.capRole = 2)) execCapDivision

def State.dueLending (s : State) : Option Out :=
  (s.clusters.findSome? (fun c => dueIf s (c.2.lent.isSome && c.2.reclaim.isNone) (execClusterReclaim c.1))) <|>
  (s.parts.findSome? (fun p =>
    if p.2.borrows && s.teams.any (fun t => decide (t.2.state = .queued) && decide (s.partOf t.2.ctx = p.1)) then
      (upto 128).findSome? (fun cl => tryEvent s (execClusterLend cl p.1 s))
    else none))

/-! ### The choice -/

/-- The event that happens next by itself, if one is due. -/
def State.dueEvent (s : State) : Option Out :=
  s.dueEnergy <|>
  (s.teams.findSome? (fun p => s.dueTeam p.1 p.2)) <|>
  (s.cores.findSome? (fun p => s.dueCore p.1 p.2)) <|>
  s.dueTests <|>
  (s.dies.findSome? (fun p => s.dueDie p.1 p.2)) <|>
  (s.slices.findSome? (fun p => s.dueSlice p.1 p.2)) <|>
  (s.funcs.findSome? (fun p => s.dueFunc p.1 p.2)) <|>
  (s.parts.findSome? (fun p => s.duePart p.1 p.2)) <|>
  (s.ctxs.findSome? (fun p => dueIf s p.2.wdStart.isSome (execWatchdogExpiry p.1))) <|>
  ((upto 4).findSome? (fun d => s.duePlacement d)) <|>
  s.dueLending

end Sys2Proof.Machine
end

