-- ==== Sys2Proof/Machine/Issue.lean ====
section
/-! DEFINITION. The issue units: fetching and decoding the next word of a run (03 R66, R67, R77, R95; 11 R259), its charge
(21 R439, R442; 03 R90), single steps (11 R269), reclamation points (16 R374), and the choice of runs and gangs in a core
cycle (08 R171 to R175, R180; 21 R454). -/

namespace Sys2Proof.Machine

/-! ### The next word of a run -/

/-- What a run has to do at its PC. -/
inductive NextWord where
  | word (i : Instr)
  | illegal (w : W64)
  | fault (c : FetchCause)
  | page (k : PageKey)
  deriving DecidableEq, Repr

/-- R77 checks 1 to 3, R95: a fetched word is an instruction, or ILLEGAL_OP. -/
def wordOf (w : W64) : NextWord :=
  match decode w with
  | .ok i => .word i
  | .error _ => .illegal w

/-- R89: the word of the next repetition, or the word at the PC. -/
def State.nextWord (s : State) : State × NextWord :=
  let t := s.cur.team
  let g := s.cur.gang
  let read (va : W64) (f : W64 → NextWord) : State × NextWord :=
    match s.fetchWord t g va with
    | (s1, .word w) => (s1, f w)
    | (s1, .fail c) => (s1, .fault c)
    | (s1, .page k) => (s1, .page k)
  match s.curGang.prog with
  | some (.rep _ sd sa sb sc _) =>
    read (s.cur.pc + 8) (fun w => match repWord w s.curGang.pidx.toNat sd sa sb sc with
      | some x => wordOf x
      | none => .illegal w)
  | _ => read s.cur.pc wordOf

/-- The effect of what a run has to do, as its own row gives it. -/
def State.runNext (s : State) (w : NextWord) : Out :=
  match w with
  | .word i => exec i s
  | .illegal w => execIllegalEncoding w s
  | .fault c => execFetchFault c s
  | .page k => .next (s.stall s.cur.team s.cur.gang .exec [(k, match s.curGang.prog with
    | some (.rep _ _ _ _ _ _) => s.cur.pc + 8
    | _ => s.cur.pc)])

/-! ### The charge of a word (R439, R442) -/

/-- R370: a get that was woken because its future died is issued again only to raise its trap. -/
def State.lostGet (s : State) (i : Instr) : Bool :=
  match i with
  | .futGet g _ _ _ _ => (s.active g).any (fun l => decide (tget 0 s.curGang.lost l ≠ 0))
  | _ => false

/-- R90, R162: words that are charged nothing, or have been charged: a `rep` word, the later lanes of a gather or scatter. -/
def State.freeWord (s : State) (w : NextWord) : Bool :=
  match w with
  | .word (.rep _ _ _ _ _) => true
  | .word i => s.lostGet i || ((byLane i).isSome && !s.curGang.unpaid.isEmpty)
  | _ => false

/-- R265, R439: the estimate; a word that traps is charged one gang issue. -/
def State.estimateOf (s : State) (w : NextWord) (trapped : Bool) : Nat :=
  match w with
  | .word i => if trapped then s.weight 0 else estimate i s
  | _ => s.weight 0

/-- R442: Take, for the word of the issuing run. -/
def State.payWord (s : State) (w : NextWord) (trapped : Bool) : State × TakeRes :=
  if s.freeWord w then (s, .taken) else s.take s.curGang.core s.curTeam.ctx (s.estimateOf w trapped)

/-- What `payWord` takes, scaled. -/
def State.priceOf (s : State) (w : NextWord) (trapped : Bool) : Nat :=
  if s.freeWord w then 0 else s.scaleAt s.curGang.core (s.estimateOf w trapped)

/-- R442, R274: a word whose charge can not be granted stops the gang before it issues. Its lanes are Held, so their ages start
afresh (R172, R195). -/
def State.energyStop (s : State) (u : Nat) : State :=
  s.setCur { s.curGang with stop := .energy (s.scaleAt s.curGang.core u) s.time, ages := [] }

/-- The word has not issued: its gang stopped for a page, or for results that a trap waits for. -/
def GangStop.before (x : GangStop) : Bool :=
  match x with
  | .replay _ _ => true
  | .trapWait _ => true
  | _ => false

/-- R162, R439: what the lanes of a gather or scatter that are still to come were charged. -/
def State.keepLanes (s old : State) (w : NextWord) : State :=
  match w with
  | .word i =>
    match byLane i with
    | none => s
    | some (g, m) =>
      let costs := if old.curGang.unpaid.isEmpty then old.laneCosts g m else old.curGang.unpaid
      match s.curGang.prog with
      | some (.lanes run _) =>
        s.setCur { s.curGang with prog := some (.lanes run (costs.filter (fun q => decide (s.curGang.pidx.toNat ≤ q.1)))) }
      | _ =>
        if s.note = .trapped ∧ !old.curGang.unpaid.isEmpty then
          s.refund old.curGang.core old.curTeam.ctx (s.scaleAt old.curGang.core (sumCosts old.curGang.unpaid))
        else s
  | _ => s

/-- R269: lanes released with STEP set have issued their one word; a `rep` with its repetitions counts as one. -/
def State.keepStep (s old : State) : State :=
  let m := old.curGang.stepArm &&& s.curGang.stepArm &&& old.cur.lanes
  if s.note = .none ∧ s.curGang.prog.isNone ∧ m ≠ 0 then
    s.setCur { s.curGang with stepArm := s.curGang.stepArm &&& ~~~m, stepped := s.curGang.stepped ||| m }
  else s

/-! ### What comes before a word -/

/-- R269: the lanes of the run that are to raise BREAK with STEPPED. -/
def State.stepLanes (s : State) : List Nat := s.runLanes.filter (fun l => s.curGang.stepped.getLsbD l)

/-- R374: the reclamation points. -/
def State.reclaimPoint (s : State) (w : NextWord) : Bool :=
  let below (i : Instr) : Bool := match exec i s with
    | .next s1 => decide (s1.note = .none) && s.runLanes.any (fun l => decide ((s1.curGang.pc l).toNat < s.cur.pc.toNat))
    | _ => false
  match w with
  | .word i =>
    match i with
    | .bra _ _ => below i
    | .brx _ _ => below i
    | .call _ _ => below i
    | .callv _ _ => below i
    | .ret _ => below i
    | .barSync _ _ _ => true
    | .barArv _ _ _ => true
    | .barWait _ _ => true
    | .barBytes _ _ _ => true
    | .waitA _ _ _ _ _ => true
    | .waitT _ _ _ _ _ _ _ => true
    | .waitm _ _ => true
    | .xbar _ => true
    | .cbar _ _ => true
    | .accFlush _ _ => true
    | .fence _ _ => true
    | .futCheck _ => true
    | .futSpawn _ _ _ _ _ => true
    | .futGet _ _ _ _ _ => true
    | _ => false
  | _ => false

/-! ### A word is tried, paid for and issued -/

/-- What the trial of a run's next word shows: it is Held, with what it asked for kept; something takes its place that is not
charged (a page stall, a wait for results, a late trap, a step's BREAK, a reclamation); it is ready, with whether it traps and
what it does; or it ends the run of the machine. -/
inductive Trial where
  | held (s : State)
  | instead (s : State)
  | ready (s : State) (w : NextWord) (trapped : Bool) (s1 : State)
  | ends (o : Out)

/-- R322: the requests of a word find too few flits (notes/assumptions/45.md): the word waits until the limiter holds what they
take, or is full. -/
def State.flitsShort (s s1 : State) : Bool :=
  let d := dieOfCore s.curGang.core
  let p := s.partOf s.curTeam.ctx
  let D := s.dieOf d
  let need := tget 0 D.limiter p - tget 0 (s1.dieOf d).limiter p
  decide (0 < need) && decide (tget 0 D.limiter p < min need (max 1 (D.burst p)))

/-- R171, R166, R256, R322: the word of the issuing run is tried. -/
def State.tryWord (s : State) (w : NextWord) : Trial :=
  match s.runNext w with
  | .next s1 =>
    if s1.note = .held then .held s1
    else if s1.note = .late then .instead s1
    else if s1.curGang.stop.before then .instead (s1.refundLanes s.cur.team s.cur.gang)
    else if s.flitsShort s1 then .held s
    else .ready s w (decide (s1.note = .trapped)) s1
  | o => .ends o

/-- The issuing run is tried: a BREAK of single stepping, a reclamation, or one word (one repetition, one lane of a gather or
scatter). -/
def State.tryCur (s : State) : Trial :=
  match s.stepLanes with
  | l :: ls => .instead (s.trapRun { causes := causeAll (l :: ls) 10, stepped := true })
  | [] =>
    match s.nextWord with
    | (s1, w) =>
      if s.flitsShort s1 then .held s
      else if s1.orphan s1.curTeam && s1.reclaimPoint w then
        .instead ((s1.setCur { s1.curGang with stop := .saved }).refundLanes s.cur.team s.cur.gang)
      else s1.tryWord w

/-- A charge that was taken for a word that has not issued goes back. -/
def State.repay (s : State) (c : Cur) : State :=
  match c.paid with
  | some (n, _) => s.refund s.curGang.core s.curTeam.ctx n
  | none => s

/-- R172, R180: an issue cycle of the gang: lanes that were Ready age, and the yield marks of earlier cycles count down. -/
def Gang.issueCycle (G : Gang) (ageing : List Nat) (marks : List Yield) : Gang :=
  let G1 := G.eachLane ageing (fun G l => G.setAge l (G.age l + 1))
  let ys := G1.yields.map (fun y => if marks.elem y then { y with left := y.left - 1 } else y)
  { G1 with yields := ys.filter (fun y => decide (0 < y.left)) }

/-- R172, R180: lanes that issue have age zero, and their run no longer holds a yielded one. -/
def Gang.ranLanes (G : Gang) (run : List Nat) (marks : List Yield) : Gang :=
  let G1 := G.eachLane run (fun G l => G.setAge l 0)
  let ys := G1.yields.map (fun y => if marks.elem y then { y with runs := y.runs.filter (fun m => !run.any (fun l => m.getLsbD l)) } else y)
  { G1 with yields := ys.filter (fun y => !y.runs.isEmpty) }

/-- R172: the issue cycle of a gang, with the first word that it issues in the cycle. -/
def State.ageGang (s3 s2 : State) : State :=
  let c := s2.cur
  let G := s3.gang c.team c.gang
  let G1 := if c.ageing = 0 then G else G.issueCycle (lanesOf c.ageing G.width) s2.curGang.yields
  let s4 := s3.setGang c.team c.gang (G1.ranLanes s2.runLanes G1.yields)
  { s4 with issues := s4.issues.map (fun d => if d.team = c.team ∧ d.gang = c.gang then { d with ageing := 0 } else d) }

/-- The words beside which a pending load may still take effect: those of registers, branches, and plain loads, which take care of
their own bytes (R389). -/
def leavesReads (i : Instr) : Bool :=
  match i with
  | .ld _ _ m => m.ord == .none | .ldSigned _ _ m => m.ord == .none | .ldv _ _ m => m.ord == .none
  | .lds _ _ m => m.ord == .none | .ldsSigned _ _ m => m.ord == .none
  | .pairWord _ _ => true
  | i => match encodeFields i with
    | some f => f.op == 0x01 || f.op == 0x02 || f.op == 0x03 || f.op == 0x0B || decide (0x10 ≤ f.op.toNat ∧ f.op.toNat ≤ 0x3E)
    | none => false

/-- R382, R389: after any other word the pending loads of the gang keep what they have read. -/
def State.settleReads (s : State) (w : NextWord) : State :=
  let on := match w with
    | .word i => leavesReads i
    | _ => false
  if on then s else s.setCur (s.curGang.keepRead (fun _ => true))

/-- The word issues: what follows its own effect. -/
def State.issued (s3 s2 : State) (w : NextWord) : State := (((s3.keepLanes s2 w).settleReads w).keepStep s2).ageGang s2

/-- R442, R274: the word of the issuing run is charged and issues. A charge taken when the run was chosen stands (R467). -/
def State.payAndIssue (s : State) (w : NextWord) (trapped : Bool) (s1 : State) : Out :=
  match s.cur.paid with
  | some (_, tr) =>
    if tr = trapped then .next (s1.issued s w)
    else
      match (s.repay s.cur).payWord w trapped with
      | (s2, .hold) => .next { s2 with note := .held }
      | (s2, .stop) => .next (s2.energyStop (s2.estimateOf w trapped))
      | (s2, .taken) =>
        match s2.runNext w with
        | .next s3 => .next (s3.issued s2 w)
        | o => o
  | none =>
    match s.payWord w trapped with
    | (s2, .hold) => .next { s2 with note := .held }
    | (s2, .stop) => .next (s2.energyStop (s2.estimateOf w trapped))
    | (s2, .taken) =>
      match s2.runNext w with
      | .next s3 => .next (s3.issued s2 w)
      | o => o

/-- The issuing run goes on by one word (or one repetition, or one lane of a gather or scatter). -/
def State.issueCur (s : State) : Out :=
  match s.tryCur with
  | .held s1 => .next (s1.repay s.cur)
  | .instead s1 => .next (s1.repay s.cur)
  | .ready s0 w trapped s1 => s0.payAndIssue w trapped s1
  | .ends o => o

/-! ### The choice of runs (R171 to R173, R180) -/

/-- R86, R258: a trap that waited for results goes on when none is left but those of late traps. -/
def Gang.trapReady (G : Gang) : Option LaneMask :=
  match G.stop with
  | .trapWait m => if G.settled then some m else none
  | _ => none

/-- R90, R162: the run that a sequence in progress reserves the gang for. -/
def Gang.reserved (G : Gang) : Option LaneMask :=
  match G.prog with
  | some (.rep _ _ _ _ _ m) => some m
  | some (.lanes m _) => some m
  | none => none

/-- The runs that may be chosen: each as its PC and lanes, lowest PC first. -/
def Gang.readyRuns (G : Gang) : List (W64 × List Nat) :=
  match G.trapReady with
  | some m => G.runsOf (lanesOf m G.width)
  | none =>
    if G.stop ≠ .none ∨ !G.conts.isEmpty then []
    else match G.reserved with
      | some m => G.runsOf (lanesOf m G.width)
      | none => G.runsOf (G.allLanes.filter (fun l => G.canIssue l && !G.yielded l))

/-- R180: the yielded lanes, which are Ready but are not chosen. -/
def Gang.yieldedRuns (G : Gang) : List (W64 × List Nat) :=
  if G.stop ≠ .none ∨ !G.conts.isEmpty ∨ G.reserved.isSome then []
  else G.runsOf (G.allLanes.filter (fun l => G.canIssue l && G.yielded l))

def curOf (t g : Nat) (r : W64 × List Nat) : Cur := { team := t, gang := g, lanes := bitsOf r.2, pc := r.1 }

/-- A run is about to issue. -/
def State.atRun (s : State) (c : Cur) : State :=
  let s1 := { s with cur := c }
  match s1.curGang.stop with
  | .trapWait _ => s1.setCur { s1.curGang with stop := .none }
  | _ => s1

/-- R171, R85: of the lanes at one PC, those whose own next word waits for no pending result. A sequence in progress, and a trap
that has waited, keep their lanes. -/
def State.freeLanes (s : State) (t g : Nat) (q : W64 × List Nat) : List Nat :=
  let G := s.gang t g
  if G.reserved.isSome || G.trapReady.isSome || G.pend.isEmpty && G.port.isEmpty then q.2
  else match ({ s with cur := curOf t g q } : State).nextWord.2 with
  | .word i => q.2.filter (fun l => !G.waits [l] i)
  | _ => q.2

/-- R171: a run whose word is Held is not Ready; what its trial asked for (a grant, a translation) is kept. -/
def State.tryRun (s : State) (c : Cur) : State × Bool :=
  match (s.atRun c).tryCur with
  | .held s1 => ({ s1 with note := .none, cur := s.cur }, false)
  | _ => (s, true)

/-- Of the groups of lanes at one PC, the Ready runs of a gang. -/
def State.openRuns (s : State) (t g : Nat) (groups : List (W64 × List Nat)) : State × List (W64 × List Nat) :=
  groups.foldl (fun r q =>
    match r.1.freeLanes t g q with
    | [] => r
    | ls => match r.1.tryRun (curOf t g (q.1, ls)) with
      | (s1, true) => (s1, r.2 ++ [(q.1, ls)])
      | (s1, false) => (s1, r.2)) (s, [])

def Gang.runAge (G : Gang) (r : W64 × List Nat) : Nat := r.2.foldl (fun n l => max n (G.age l)) 0
def Gang.runSlices (G : Gang) (r : W64 × List Nat) : List Nat := dedup (r.2.map (fun l => G.base + l / 4))

/-- R173: aged runs first by greatest age, then by increasing PC. -/
def Gang.runBefore (G : Gang) (ageMax : Nat) (a b : W64 × List Nat) : Bool :=
  let x := G.runAge a
  let y := G.runAge b
  if ageMax < x then (if ageMax < y then decide (y < x) || (decide (x = y) && decide (a.1.toNat ≤ b.1.toNat)) else true)
  else if ageMax < y then false else decide (a.1.toNat ≤ b.1.toNat)

/-- R90, R162: whether the word of a run starts a sequence: a `rep`, or a gather or scatter, whose lanes issue in later cycles
here (notes/assumptions/44.md). -/
def State.startsSeq (s : State) (t g : Nat) (r : W64 × List Nat) : Bool :=
  match ({ s with cur := curOf t g r } : State).nextWord.2 with
  | .word (.rep _ _ _ _ _) => true
  | .word i => (byLane i).isSome
  | _ => false

/-- R173: ChooseRuns. A run that starts a sequence is never second, and keeps a second run of a higher PC from issuing. -/
def State.chooseRuns (s : State) (t g : Nat) (runs : List (W64 × List Nat)) : List (W64 × List Nat) :=
  let G := s.gang t g
  match sortBy (G.runBefore (s.core G.core).ageMax) runs with
  | [] => []
  | first :: rest =>
    if G.reserved.isSome then [first]
    else match rest.find? (fun q => !(G.runSlices q).any (fun x => (G.runSlices first).elem x) && !s.startsSeq t g q) with
      | some q =>
        if first.1.toNat < q.1.toNat then (if s.startsSeq t g first then [first] else [first, q]) else [q, first]
      | none => [first]

/-- R172, R195: lanes that are not Ready lose their age. -/
def Gang.keepAges (G : Gang) (ready : List Nat) : Gang := { G with ages := G.ages.filter (fun q => ready.elem q.1) }

/-- R90, R172: the runs that would be Ready, were it not for a sequence in progress: their ages keep counting
(notes/assumptions/44.md). -/
def State.waitingRuns (s : State) (t g : Nat) : List (W64 × List Nat) :=
  let G := s.gang t g
  match G.reserved with
  | some m => ((s.modGang t g (fun G => { G with prog := none })).openRuns t g
      (G.runsOf (G.allLanes.filter (fun l => G.canIssue l && !m.getLsbD l)))).2
  | none => []

/-! ### A core cycle (R174, R454) -/

/-- R174: the gangs of a core in this cycle's priority order, from the slot on top: slot 0 in the first core cycle. -/
def State.gangOrder (s : State) (c : Nat) : List (Nat × Nat) :=
  let cyc := (s.quarter (quarterOfCore c)).cyc + 31
  let gs := s.teams.flatMap (fun p => if p.2.state = .placed then
    (p.2.gangs.filter (fun q => decide (q.2.core = c))).map (fun q => ((q.2.slot + 32 - cyc % 32) % 32, p.1, q.1)) else [])
  (sortBy (fun a b : Nat × Nat × Nat => decide (a.1 ≤ b.1)) gs).map (·.2)

/-- R442, R467: a chosen run takes its charge, in the order of the priority. A run whose charge waits holds its gang; the flags
tell whether it goes on to issue, and whether it issues a word. -/
def State.payRun (s : State) (c : Cur) : State × Option Cur × Bool :=
  match (s.atRun c).tryCur with
  | .ready s0 w trapped _ =>
    let n := s0.priceOf w trapped
    match s0.payWord w trapped with
    | (s2, .taken) => ({ s2 with cur := s.cur }, some { c with paid := some (n, trapped) }, true)
    | (s2, .hold) => ({ s2 with cur := s.cur }, none, false)
    | (_, .stop) => (s, some c, false)
  | .held _ => (s, none, false)
  | _ => (s, some c, false)

/-- R173, R174: one gang in a core cycle: its chosen runs are to issue when none of their slices is taken by words that issue. The
list grows by the runs to issue. -/
def State.takeGang (s : State) (t g : Nat) (taken : List Nat) (todo : List Cur) : State × List Nat × List Cur :=
  let G0 := s.gang t g
  match s.openRuns t g G0.readyRuns with
  | (s0, runs) =>
    match s0.openRuns t g G0.yieldedRuns with
    | (s1, marked) =>
      let G := s1.gang t g
      let chosen := s1.chooseRuns t g runs
      let ageing := (runs ++ marked ++ s1.waitingRuns t g).flatMap (·.2)
      let G1 := G.keepAges ageing
      if chosen.isEmpty || (chosen.flatMap G.runSlices).any (fun x => taken.elem x) then
        (if G1.ages = G.ages then s1 else s1.setGang t g G1, taken, todo)
      else
        let more := match G.prog with
          | some (.lanes _ _) => true
          | _ => false
        let start (r : State × List Cur × List Nat × Bool) (q : W64 × List Nat) : State × List Cur × List Nat × Bool :=
          if r.2.2.2 then r
          else
            let others := ((runs ++ marked).filter (fun x => decide (x ≠ q))).map (fun x => bitsOf x.2)
            match r.1.payRun { curOf t g q with others := others, ageing := if more then 0 else bitsOf ageing } with
            | (s2, some c, true) => (s2, r.2.1 ++ [c], r.2.2.1 ++ G.runSlices q, false)
            | (s2, some c, false) => (s2, r.2.1 ++ [c], r.2.2.1, true)
            | (s2, none, _) => (s2, r.2.1, r.2.2.1, true)
        match chosen.foldl start (s1.setGang t g G1, [], [], false) with
        | (s2, cs, slices, _) =>
          (if cs.isEmpty then s2.modGang t g (fun G => { G with ages := [] }) else s2, taken ++ slices, todo ++ cs)

/-- R174: the gangs of a core take their turns in priority order. -/
def State.coreCycle (s : State) (c : Nat) : State :=
  match (s.gangOrder c).foldl (fun (r : State × List Nat × List Cur) q => r.1.takeGang q.1 q.2 r.2.1 r.2.2) (s, [], []) with
  | (s1, _, todo) => { s1 with issues := s1.issues ++ todo }

/-- Whether a chosen run is about to issue a `vf.req`. -/
def State.asksPoint (s : State) (c : Cur) : Bool :=
  match ({ s with cur := c } : State).nextWord.2 with
  | .word (.vfReq _ _ _) => true
  | _ => false

/-- The chosen runs, gang by gang. -/
def gangBlocks : List Cur → List (List Cur)
  | [] => []
  | c :: rest =>
    match gangBlocks rest with
    | (d :: ds) :: bs => if d.team = c.team ∧ d.gang = c.gang then (c :: d :: ds) :: bs else [c] :: (d :: ds) :: bs
    | bs => [c] :: bs

/-- A list whose marked members are replaced, in their places, by the members of another. -/
def putMarked {α : Type} (f : α → Bool) : List α → List α → List α
  | [], _ => []
  | x :: xs, ys => if f x then (match ys with
      | y :: t => y :: putMarked f xs t
      | [] => x :: putMarked f xs []) else x :: putMarked f xs ys

/-- R199, R333, R365, R461: what is issued in one period is ordered by gang slot, and within a gang by PC; gangs that ask for a point
take each other's places so that the lower context number comes first. -/
def State.orderIssues (s : State) : State :=
  let slot (x : Cur) : Nat := (s.gang x.team x.gang).slot
  let core (x : Cur) : Nat := (s.gang x.team x.gang).core
  let key (x : Cur) : Nat := (slot x * 512 + core x)
  let ctx (b : List Cur) : Nat := ((b.map (fun x => (s.team x.team).ctx)).head?).getD 0
  let bs := gangBlocks (sortBy (fun a b => decide (key a ≤ key b)) s.issues)
  let asks (b : List Cur) : Bool := b.any s.asksPoint
  { s with issues := (putMarked asks bs (sortBy (fun a b => decide (ctx a ≤ ctx b)) (bs.filter asks))).flatten }

/-- R454, R503: the rate of a quarter, in units of 100 MHz. -/
def State.rateOf (s : State) (q : Nat) : Nat :=
  let f := Config.pointFreq (s.runPoint q)
  if (s.quarter q).hot then f / 2 else f

/-- TIME counts at 2.4 GHz (R41): a quarter has a core cycle whenever its phase fills one. A lower rate takes hold in the cycle after
the one in progress (R455). One that has been powered down has none (R498). -/
def State.tickQuarter (s : State) (q : Nat) : State × Bool :=
  if (s.quarter q).off then (s, false)
  else
  let n := (s.quarter q).phase + max (s.quarter q).rate (s.rateOf q)
  if 24 ≤ n then (s.modQuarter q (fun Q => { Q with phase := n - 24, rate := s.rateOf q }), true)
  else (s.modQuarter q (fun Q => { Q with phase := n }), false)

/-- R174: the priority advances by one slot in every core cycle. -/
def State.turnSlot (s : State) (q : Nat) : State := s.modQuarter q (fun Q => { Q with cyc := Q.cyc + 1 })

/-- The cores of a quarter that hold placed teams. -/
def State.busyCores (s : State) (q : Nat) : List Nat :=
  ((upto 32).map (fun k => 32 * q + k)).filter (fun c => s.teams.any (fun p => decide (p.2.state = .placed) && p.2.uses c))

/-- The cores of a quarter whose accumulate ports may have something to do (R333). -/
def State.portCores (s : State) (q : Nat) : List Nat :=
  (s.cores.filter (fun c => decide (quarterOfCore c.1 = q) && !(c.2.pkts.isEmpty && c.2.resid.isEmpty))).map (·.1)

/-- R174, R333: a core cycle of a quarter: what its accumulate ports do by themselves comes before what its cores issue. -/
def State.quarterCycle (s : State) (q : Nat) : State :=
  let s1 := (s.portCores q).foldl (fun (s : State) c => s.portEvent c) s
  (s1.busyCores q).foldl (fun (s : State) c => s.coreCycle c) s1

/-- What the end of a period of TIME settles: barriers whose state has changed (R234), waits whose time it was (R239), exchange groups
and cluster barriers (R298, R301), kills (R347), and the work of Agtur and the command cores. -/
def State.endCycle (s : State) : State := s.settleBars.settleGroups.settleKills.settlePeriod

/-- A period of TIME begins: the last one is settled, packets move on the mesh (R316), and home slices keep their bounds. The quarters
that have a core cycle are noted: they choose what their cores issue once what is due has happened (R443, R467). -/
def State.beginCycle (s : State) : State :=
  let s0 : State := { s.endCycle with time := s.time + 1 }
  let s1 := s0.timeOuts.meshCycle.sliceBounds
  let r := (upto 16).foldl (fun (r : State × List Nat) q =>
    match r.1.tickQuarter q with
    | (s1, true) => (s1.turnSlot q, r.2 ++ [q])
    | (s1, false) => (s1, r.2)) (s1, [])
  { r.1.freeDelayed with choosing := some r.2 }

/-- R438, R443, R445, R467: the cores of the noted quarters choose, after a boundary of a tick that is due. -/
def State.chooseTurn (s : State) (qs : List Nat) : Out :=
  if s.tick < s.time / Config.tickPeriods then execTickBoundary s
  else .next (qs.foldl (fun (s : State) q => s.quarterCycle q) { s with choosing := none }).orderIssues

/-- Whether a chosen run can still issue: its lanes are where they were. -/
def State.stillReady (s : State) (c : Cur) : Bool :=
  let T := s.team c.team
  let G := T.gang c.gang
  let ls := lanesOf c.lanes G.width
  decide (T.state = .placed) && (match G.stop with
   | .none => true
   | .trapWait m => G.settled && decide (m = c.lanes)
   | _ => false) && !ls.isEmpty &&
  (match G.reserved with
   | some m => decide (m = c.lanes)
   | none => true) &&
  ls.all (fun l => G.canIssue l && decide (G.pc l = c.pc))

/-- The next chosen run issues. -/
def State.issueNext (s : State) (c : Cur) (rest : List Cur) : Out :=
  let s1 := { s with issues := rest }
  if s1.stillReady c then
    match (s1.atRun c).issueCur with
    | .next s2 => .next { s2 with note := .none }
    | o => o
  else .next { ({ s1 with cur := c } : State).repay c with cur := s.cur }

/-- R493: READY. -/
def State.ready (s : State) : Bool := s.bootstat.getLsbD 0

/-- R494, R503: the dies run: they have power, and the package is ready. -/
def State.runs (s : State) : Bool := s.powered && s.ready

/-- A period of TIME passes in which nothing runs but Agtur and the command cores. -/
def State.idleCycle (s : State) : State :=
  let s1 := s.settlePeriod
  { s1 with issues := [], choosing := none, time := s1.time + 1 }

/-- The issue units move: the next chosen run issues, or the cores choose, or the next period of TIME begins. -/
def State.issueTurn (s : State) : Out :=
  if !s.runs then .next s.idleCycle
  else match s.issues with
  | c :: rest => s.issueNext c rest
  | [] =>
    match s.choosing with
    | some qs => s.chooseTurn qs
    | none => .next s.beginCycle

/-- With nothing scheduled: in each period what is due happens first, then the cores choose, and then the chosen runs issue. -/
def State.freeTurn (s : State) : Out :=
  if !s.runs then .next s.idleCycle
  else match s.issues with
  | c :: rest => s.issueNext c rest
  | [] =>
    match s.choosing with
    | none => .next s.beginCycle
    | some qs =>
      match s.dueEvent with
      | some o => o
      | none => s.chooseTurn qs

end Sys2Proof.Machine
end

