-- ==== Sys2Proof/Machine/Step.lean ====
section
/-! DEFINITION. One step of the package (notes/assumptions/2.md): the turn that the schedule names, or with an empty schedule
the next word of the cycle, the next due event, the choice of runs, or the next period of TIME. -/

namespace Sys2Proof.Machine

/-- R95, R259: the rows that stand for what an issue unit finds in place of an instruction. -/
def isFetched (i : Instr) : Bool :=
  match i with
  | .illegalEncoding _ => true
  | .fetchFault _ => true
  | i => i.isWord

/-- A scheduled event: words and fetches are issued by the issue units only, and nothing happens in what has no power (R503). -/
def State.eventTurn (s : State) (i : Instr) : Out :=
  if isFetched i || (!s.powered && !worksUnpowered i) then .next s else exec i s

def step (s : State) : Host.Outcome State Fault Refusal :=
  match s.agenda with
  | .event i :: rest => { s with agenda := rest }.eventTurn i
  | .hostStore fn a bs :: rest => .next ({ s with agenda := rest }.hostPut fn a bs)
  | .issue :: rest => { s with agenda := rest }.issueTurn
  | [] => s.freeTurn

/-! ### A word as the next step (notes/assumptions/6.md) -/

/-- The virtual and physical page offset at which the word stands. -/
def fetchVA : Nat := 0x10000

/-- The launch of the team that issues the word: 16 lanes, 256 vector registers, twelve accumulators, eight tiles, sixteen
barriers and 32 KiB of scratch. -/
def fetchLaunch : Launch :=
  { entry := BitVec.ofNat 64 fetchVA, v := 256, gw := 16, gangs := 1, a := 12, tiles := 8, bars := 16, scratch := 32768 }

/-- The gang whose lanes stand at the word. -/
def fetchGang : Gang := freshGang fetchLaunch

def fetchTeam : Team := { launch := fetchLaunch, state := .placed, gangs := [(0, fetchGang)] }

/-- R426: the page of the word, mapped for every access. -/
def fetchEntry (s : State) : TlbEntry :=
  ⟨0, fetchVA, 12, s.package * 2 ^ 42 + fetchVA, fetchVA, true, true, true, false, true⟩

/-- `s` with a word of the opcode table where the next step fetches it: in memory, mapped for context 0, with a placed team
on core 0 whose one gang has been chosen to issue. -/
def State.withFetchWord (s : State) (nbits w : Nat) : State :=
  let pa := s.package * 2 ^ 42 + fetchVA
  { s with
    agenda := []
    powered := true
    bootstat := s.bootstat ||| 1#64
    mem := writeNum s.mem pa 8 (w % 2 ^ nbits)
    poison := clearPoison s.poison pa 16
    dies := tput s.dies 0 { (s.dieOf 0) with tlb := fetchEntry s :: (s.dieOf 0).tlb }
    cores := tput s.cores 0 { (s.core 0) with meters := tput (s.core 0).meters 0 { rem := 512000 }, code := none, fetched := [] }
    teams := tput s.teams s.nextId fetchTeam
    nextId := s.nextId + 1
    choosing := none
    issues := [{ team := s.nextId, lanes := 0xFFFF, pc := BitVec.ofNat 64 fetchVA }] }

end Sys2Proof.Machine
end

