-- ==== Sys2Proof/Safety.lean ====
section
/-! DEFINITION. Safe runs, and the terms in which the claims of Certificates/ speak: where a word writes, what it leaves
alone, and the result that each register word computes. -/

namespace Sys2Proof.Safety

open Sys2Proof.Machine

/-- The states that `n` steps lead to, as long as each step answers a next state. -/
def runs : Nat → State → Option State
  | 0, s => some s
  | n + 1, s =>
    match step s with
    | .next s1 => runs n s1
    | _ => none

/-- A state from which no number of steps ends in a fault or a refusal. -/
def Safe (s : State) : Prop := ∀ n, (runs n s).isSome = true

/-- A property that every step keeps. -/
def Kept (P : State → Prop) : Prop := ∀ s t, P s → step s = .next t → P t

/-! ### What a word writes -/

/-- The destination of a register word: a vector, pair or scalar register, or a predicate. -/
inductive Dest where
  | reg (o : Opd) (wide : Bool)
  | pred (n : BitVec 8)
  deriving DecidableEq, Repr

/-- A destination holds a value in a lane: a scalar register and a pair all 64 bits, a vector register the low 32, a
predicate bit 0. -/
def Dest.holds (d : Dest) (G : Gang) (l : Nat) (v : W64) : Prop :=
  match d with
  | .reg o wide => G.rawOpd o wide l = if o.sc || wide then v else (v.setWidth 32).setWidth 64
  | .pred n => G.readK l n.toNat = v.getLsbD 0

def Dest.isV (d : Dest) (r : Nat) : Bool :=
  match d with
  | .reg o wide => !o.sc && (r == o.n.toNat || (wide && r == o.n.toNat + 1))
  | .pred _ => false
def Dest.isS (d : Dest) (r : Nat) : Bool :=
  match d with
  | .reg o _ => o.sc && r == o.n.toNat
  | .pred _ => false
def Dest.isK (d : Dest) (k : Nat) : Bool :=
  match d with
  | .reg _ _ => false
  | .pred n => k == n.toNat

/-- All of a gang but its vector, scalar and predicate registers, its flags and its check bits is the same. -/
def SameButRegs (G H : Gang) : Prop :=
  { H with pool := G.pool, bad := G.bad, s := G.s, preds := G.preds, fstat := G.fstat } = G

/-- The frame of a register word: for each lane, every register, predicate and flag but the destination is as before, no
register gains a check error, and all else of the gang is the same. `fl` is set where FSTAT may change. -/
def OnlyWrites (d : Dest) (ls : List Nat) (fl : Bool) (G H : Gang) : Prop :=
  (∀ l < 64, ∀ r, ¬(l ∈ ls ∧ d.isV r = true) → H.readV l r = G.readV l r) ∧
  (∀ r, ¬(ls ≠ [] ∧ d.isS r = true) → H.readS r = G.readS r) ∧
  (∀ l k, ¬(l ∈ ls ∧ d.isK k = true) → H.readK l k = G.readK l k) ∧
  (fl = false → H.fstat = G.fstat) ∧ (∀ k, k ∈ H.bad → k ∈ G.bad) ∧ SameButRegs G H

/-- The word's only effects are on the registers of the issuing gang, and then its run moves on. -/
def Writes (s : State) (o : Out) (P : Gang → Prop) : Prop := ∃ H, o = .next ((s.setCur H).finish false) ∧ P H

/-! ### The results of the register words (05 R118 to R132) -/

/-- A register word: its destination, whether it is written once for the gang (R113), and the value by lane. -/
structure RegSpec where
  dest : Dest
  once : Bool
  val  : Gang → Nat → W64

/-- The lanes that write: all of Active, or one for a gang-uniform destination. -/
def RegSpec.lanes (x : RegSpec) (act : List Nat) : List Nat := if x.once then act.take 1 else act

/-- R111: a result of a type, to an operand. -/
def ofTy (t : ITy) (d : Opd) (f : Gang → Nat → Int) : Option RegSpec := some ⟨.reg d t.wide, d.sc, fun G l => extendRes t (f G l)⟩
/-- A truth value, to a predicate. -/
def ofBit (d : BitVec 8) (f : Gang → Nat → Bool) : Option RegSpec := some ⟨.pred d, false, fun G l => (BitVec.ofBool (f G l)).setWidth 64⟩
/-- The low byte of an operand's 32-bit value. -/
def low8 (G : Gang) (o : Opd) (l : Nat) : Nat := (G.read32 o l).toNat % 256

/-- R118 to R127, R130 to R132: the words whose result in a lane depends on that lane and the gang's registers alone. -/
def intSpec (i : Instr) : Option RegSpec :=
  match i with
  | .iadd _ t d a b => ofTy t d (fun G l => G.readOp a t l + G.readOp b t l)
  | .isub _ t d a b => ofTy t d (fun G l => G.readOp a t l - G.readOp b t l)
  | .iaddsat _ t d a b => ofTy t d (fun G l => saturate t (G.readOp a t l + G.readOp b t l))
  | .isubsat _ t d a b => ofTy t d (fun G l => saturate t (G.readOp a t l - G.readOp b t l))
  | .imul _ t d a b => ofTy t d (fun G l => G.readOp a t l * G.readOp b t l)
  | .imulh _ t d a b => ofTy t d (fun G l => G.readOp a t l * G.readOp b t l / 2 ^ t.width)
  | .imad _ t d a b c => ofTy t d (fun G l => G.readOp a t l * G.readOp b t l + G.readOp c t l)
  | .idiv _ t d a b => ofTy t d (fun G l => if G.readOp b t l = 0 then -1 else (G.readOp a t l).tdiv (G.readOp b t l))
  | .irem _ t d a b => ofTy t d (fun G l =>
      if G.readOp b t l = 0 then G.readOp a t l else G.readOp a t l - G.readOp b t l * (G.readOp a t l).tdiv (G.readOp b t l))
  | .imin _ t d a b => ofTy t d (fun G l => min (G.readOp a t l) (G.readOp b t l))
  | .imax _ t d a b => ofTy t d (fun G l => max (G.readOp a t l) (G.readOp b t l))
  | .iabs _ t sat d a => ofTy t d (fun G l => if sat then saturate t |G.readOp a t l| else |G.readOp a t l|)
  | .ineg _ t sat d a => ofTy t d (fun G l => if sat then saturate t (-G.readOp a t l) else -G.readOp a t l)
  | .and _ t d a b => ofTy t d (fun G l => bitOp t (· &&& ·) (G.readOp a t l) (G.readOp b t l))
  | .or _ t d a b => ofTy t d (fun G l => bitOp t (· ||| ·) (G.readOp a t l) (G.readOp b t l))
  | .xor _ t d a b => ofTy t d (fun G l => bitOp t (· ^^^ ·) (G.readOp a t l) (G.readOp b t l))
  | .not _ t d a => ofTy t d (fun G l => bitOp t (fun u _ => ~~~u) (G.readOp a t l) 0)
  | .andn _ t d a b => ofTy t d (fun G l => bitOp t (fun u v => u &&& ~~~v) (G.readOp a t l) (G.readOp b t l))
  | .shl _ t d a b => ofTy t d (fun G l => shlOp t (G.readOp a t l) (G.read32 b l).toNat)
  | .shr _ t d a b => ofTy t d (fun G l => shrOp t (G.readOp a t l) (G.read32 b l).toNat)
  | .sar _ t d a b => ofTy t d (fun G l => sarOp t (G.readOp a t l) (G.read32 b l).toNat)
  | .rotl _ t d a b => ofTy t d (fun G l => rotlOp t (G.readOp a t l) (G.read32 b l).toNat)
  | .bfx _ t d a b c => ofTy t d (fun G l => bfxOp t (G.readOp a t l) (low8 G b l) (low8 G c l))
  | .bfi _ t d a b c => ofTy t d (fun G l => bfiOp t (G.readOp d t l) (G.readOp a t l) (low8 G b l) (low8 G c l))
  | .popc _ t d a => ofTy .n32 d (fun G l => popcOp t (G.readOp a t l))
  | .clz _ t d a => ofTy .n32 d (fun G l => clzOp t (G.readOp a t l))
  | .ctz _ t d a => ofTy .n32 d (fun G l => ctzOp t (G.readOp a t l))
  | .brev _ t d a => ofTy t d (fun G l => brevOp t (G.readOp a t l))
  | .bswap _ t d a => ofTy t d (fun G l => bswapOp t (G.readOp a t l))
  | .sel _ t d a b c => ofTy t ⟨false, d⟩ (fun G l => if G.readK l c.toNat then G.readOp a t l else G.readOp b t l)
  | .mov _ t d a => ofTy t d (fun G l => G.readOp a t l)
  | .lea _ t d a b sh => some ⟨.reg d true, d.sc, fun G l =>
      BitVec.ofInt 64 ((G.rawOpd a true l).toNat + readBits t.width t.signed (G.rawOpd b t.wide l) * 2 ^ sh.toNat)⟩
  | .movi _ d im => some ⟨.reg d false, d.sc, fun _ _ => im.signExtend 64⟩
  | .movh _ d im => some ⟨.reg d true, d.sc, fun G l => im ++ (G.rawOpd d true l).extractLsb' 0 32⟩
  | .icmp _ cd t d a b => ofBit d (fun G l => condHolds cd (G.readOp a t l) (G.readOp b t l))
  | .plop _ op d a b => ofBit d (fun G l => plopBit op (G.readK l a.toNat) (G.readK l b.toNat))
  | .pmov _ neg d a => ofBit d (fun G l => G.readK l a.toNat != neg)
  | .idp4 _ sgn sat d a b c => ofTy .i32 d (fun G l =>
      let q := G.readOp c .i32 l + dotSum 4 (fun j => elem8 sgn (G.read32 a l) j * elem8 sgn (G.read32 b l) j)
      if sat then saturate .i32 q else q)
  | .idp8 _ sat d a b c => ofTy .i32 d (fun G l =>
      let q := G.readOp c .i32 l + dotSum 8 (fun j => elem4 (G.read32 a l) j * elem4 (G.read32 b l) j)
      if sat then saturate .i32 q else q)
  | .iaddImm _ sc t d a im => ofTy t ⟨sc, d⟩ (fun G l => G.readOp ⟨sc, a⟩ t l + immArith t im)
  | .isubImm _ sc t d a im => ofTy t ⟨sc, d⟩ (fun G l => G.readOp ⟨sc, a⟩ t l - immArith t im)
  | .imulImm _ sc t d a im => ofTy t ⟨sc, d⟩ (fun G l => G.readOp ⟨sc, a⟩ t l * immArith t im)
  | .iminImm _ sc t d a im => ofTy t ⟨sc, d⟩ (fun G l => min (G.readOp ⟨sc, a⟩ t l) (immArith t im))
  | .imaxImm _ sc t d a im => ofTy t ⟨sc, d⟩ (fun G l => max (G.readOp ⟨sc, a⟩ t l) (immArith t im))
  | .andImm _ sc t d a im => ofTy t ⟨sc, d⟩ (fun G l => bitOp t (· &&& ·) (G.readOp ⟨sc, a⟩ t l) im.toInt)
  | .orImm _ sc t d a im => ofTy t ⟨sc, d⟩ (fun G l => bitOp t (· ||| ·) (G.readOp ⟨sc, a⟩ t l) im.toInt)
  | .xorImm _ sc t d a im => ofTy t ⟨sc, d⟩ (fun G l => bitOp t (· ^^^ ·) (G.readOp ⟨sc, a⟩ t l) im.toInt)
  | .shlImm _ sc t d a im => ofTy t ⟨sc, d⟩ (fun G l => shlOp t (G.readOp ⟨sc, a⟩ t l) im.toNat)
  | .shrImm _ sc t d a im => ofTy t ⟨sc, d⟩ (fun G l => shrOp t (G.readOp ⟨sc, a⟩ t l) im.toNat)
  | .sarImm _ sc t d a im => ofTy t ⟨sc, d⟩ (fun G l => sarOp t (G.readOp ⟨sc, a⟩ t l) im.toNat)
  | .rotlImm _ sc t d a im => ofTy t ⟨sc, d⟩ (fun G l => rotlOp t (G.readOp ⟨sc, a⟩ t l) im.toNat)
  | .icmpImm _ sc cd t d a im => ofBit d (fun G l => condHolds cd (G.readOp ⟨sc, a⟩ t l) (immArith t im))
  | _ => none

/-! ### The results of the floating words (06) -/

/-- A floating word: its destination and, by lane, its value and flags. -/
structure FloatSpec where
  dest : Dest
  val  : Gang → Nat → W64
  flags : Gang → Nat → Flg

/-- A 32-bit code with its flags, to a vector register. -/
def ofCode (d : BitVec 8) (f : Gang → Nat → Nat × Flg) : Option FloatSpec :=
  some ⟨.reg ⟨false, d⟩ false, fun G l => BitVec.ofNat 64 (f G l).1, fun G l => (f G l).2⟩

/-- The code that a lane reads from an operand. -/
def code (G : Gang) (o : Opd) (l : Nat) : Nat := (G.read32 o l).toNat

/-- R137 to R146, R149: the floating words that write one register in each lane. -/
def floatSpec (i : Instr) : Option FloatSpec :=
  match i with
  | .fadd _ rm d a b => ofCode d (fun G l => fmtF32.add (modeOf rm G.fmode) (code G a l) (code G b l))
  | .fsub _ rm d a b => ofCode d (fun G l => fmtF32.sub (modeOf rm G.fmode) (code G a l) (code G b l))
  | .fmul _ rm d a b => ofCode d (fun G l => fmtF32.mul (modeOf rm G.fmode) (code G a l) (code G b l))
  | .ffma _ rm d a b c => ofCode d (fun G l => fmtF32.fma (modeOf rm G.fmode) (code G a l) (code G b l) (code G c l))
  | .fmin _ d a b => ofCode d (fun G l => fmtF32.minMax false (code G a l) (code G b l))
  | .fmax _ d a b => ofCode d (fun G l => fmtF32.minMax true (code G a l) (code G b l))
  | .fcmp _ cd d a b => some ⟨.pred d, fun G l => (BitVec.ofBool (fcmpF32 cd (code G a l) (code G b l)).1).setWidth 64,
      fun G l => (fcmpF32 cd (code G a l) (code G b l)).2⟩
  | .fclass _ d a => ofCode d (fun G l => ((fclassF32 (code G a l)).toNat, 0))
  | .frnd _ rm d a => ofCode d (fun G l => frndF32 (modeOf rm G.fmode) (code G a l))
  | .fcvt _ kind rm inf d a => ofCode d (fun G l => cvtOp kind (modeOf rm G.fmode) inf (code G a l))
  | .f2i _ src (some t) rm d a => some ⟨.reg ⟨false, d⟩ t.wide,
      fun G l => extendRes t (toInteger (modeOf rm G.fmode) ((fmtOf src).value (laneCode src (G.read32 a l))) t.minVal t.maxVal).1,
      fun G l => (toInteger (modeOf rm G.fmode) ((fmtOf src).value (laneCode src (G.read32 a l))) t.minVal t.maxVal).2⟩
  | .f2i _ src none rm d a => some ⟨.reg ⟨false, d⟩ false,
      fun G l => BitVec.ofInt 64 ((toInteger (modeOf rm G.fmode) ((fmtOf src).value (laneCode src (G.read32 a l))) (-7) 7).1 % 16),
      fun G l => (toInteger (modeOf rm G.fmode) ((fmtOf src).value (laneCode src (G.read32 a l))) (-7) 7).2⟩
  | .i2f _ dst (some t) rm d a => ofCode d (fun G l => (fmtOf dst).ofInteger (modeOf rm G.fmode) (G.readOp a t l))
  | .i2f _ dst none rm d a => ofCode d (fun G l => (fmtOf dst).ofInteger (modeOf rm G.fmode) (q4Value (code G a l % 16)))
  | .hxadd _ rm d a b => ofCode d (fun G l => pk2 fmtF16 Fmt.add (modeOf rm G.fmode) (G.read32 a l) (G.read32 b l))
  | .hxmul _ rm d a b => ofCode d (fun G l => pk2 fmtF16 Fmt.mul (modeOf rm G.fmode) (G.read32 a l) (G.read32 b l))
  | .hxfma _ rm d a b c => ofCode d (fun G l => pk3 fmtF16 (modeOf rm G.fmode) (G.read32 a l) (G.read32 b l) (G.read32 c l))
  | .bxadd _ rm d a b => ofCode d (fun G l => pk2 fmtB16 Fmt.add (modeOf rm G.fmode) (G.read32 a l) (G.read32 b l))
  | .bxmul _ rm d a b => ofCode d (fun G l => pk2 fmtB16 Fmt.mul (modeOf rm G.fmode) (G.read32 a l) (G.read32 b l))
  | .bxfma _ rm d a b c => ofCode d (fun G l => pk3 fmtB16 (modeOf rm G.fmode) (G.read32 a l) (G.read32 b l) (G.read32 c l))
  | .fdp2 _ b16 rm d a b c => ofCode d (fun G l =>
      fdp2Op (if b16 then fmtB16 else fmtF16) (modeOf rm G.fmode) (G.read32 a l) (G.read32 b l) (G.read32 c l))
  | .fscale _ rm d a b => ofCode d (fun G l => fscaleF32 (modeOf rm G.fmode) (code G a l) (G.read32 b l).toInt)
  | .fgetexp _ d a => ofCode d (fun G l => fgetexpF32 (code G a l))
  | .gpack _ inf d a => ofCode d (fun G l =>
      let r (j : Nat) : Nat × Flg := toGT8 (fmtF32.value (G.readV l (a.toNat + j)).toNat) inf
      ((r 0).1 + 256 * (r 1).1 + 65536 * (r 2).1 + 16777216 * (r 3).1, (r 0).2 ||| (r 1).2 ||| (r 2).2 ||| (r 3).2))
  | _ => none

/-- R147: the special functions: the function's number, its window, its destination, operand and rounding. -/
def specialSpec (i : Instr) : Option (Nat × Nat × BitVec 8 × Opd × Rm) :=
  match i with
  | .frcp _ la d a => some (0, la.toNat, d, a, .rne)
  | .frsq _ la d a => some (1, la.toNat, d, a, .rne)
  | .fsqrt _ la rm d a => some (2, la.toNat, d, a, rm)
  | .fexp2 _ la d a => some (3, la.toNat, d, a, .rne)
  | .flog2 _ la d a => some (4, la.toNat, d, a, .rne)
  | .fsin _ la d a => some (5, la.toNat, d, a, .rne)
  | .fcos _ la d a => some (6, la.toNat, d, a, .rne)
  | .ftanh _ la d a => some (7, la.toNat, d, a, .rne)
  | _ => none

/-! ### Other shapes of a word -/

/-- A word that ends the lookahead windows of its lanes (R86), with its only effects on the issuing gang's registers. -/
def WritesEnding (s : State) (o : Out) (P : Gang → Prop) : Prop := ∃ H, o = .next ((s.setCur H).finish true) ∧ P H

/-- The word's only effect is on the issuing gang. -/
def GangStep (s : State) (o : Out) (P : Gang → Prop) : Prop := ∃ H, o = .next (s.setCur H) ∧ P H

/-- The frame of a word that writes chosen vector registers and predicates of a gang: all else is as before. -/
def OnlyTouches (tv tk : Nat → Nat → Bool) (fl : Bool) (G H : Gang) : Prop :=
  (∀ l < 64, ∀ r, tv l r = false → H.readV l r = G.readV l r) ∧ (∀ r, H.readS r = G.readS r) ∧
  (∀ l k, tk l k = false → H.readK l k = G.readK l k) ∧ (fl = false → H.fstat = G.fstat) ∧ (∀ k, k ∈ H.bad → k ∈ G.bad) ∧
  SameButRegs G H

/-- All of a gang but the PCs of its lanes and what the end of a word moves on (windows and the flags that they show, R83,
R151; a sequence in progress, R89) is the same. -/
def Moved (G H : Gang) : Prop :=
  { H with pcs := G.pcs, pend := G.pend, fstat := G.fstat, prog := G.prog, failed := G.failed } = G

/-- The gang is not inside a `rep` sequence. -/
def noRep (G : Gang) : Bool :=
  match G.prog with
  | some (.rep _ _ _ _ _ _) => false
  | _ => true

/-- R81: a floating lane effect with the flags that it raises; an integer result raises none. -/
def laneSpec (i : Instr) : Option FloatSpec :=
  match intSpec i with
  | some x => some ⟨x.dest, x.val, fun _ _ => 0⟩
  | none => floatSpec i

/-- R79: the full instruction that a slot performs. -/
def slotWord (x : Slot) : Option Instr :=
  let v (n : BitVec 8) : Opd := ⟨false, n⟩
  match x with
  | .nop => none
  | .iadd d b => some (.iadd none .i32 (v d) (v d) (v b))
  | .isub d b => some (.isub none .i32 (v d) (v d) (v b))
  | .imul d b => some (.imul none .i32 (v d) (v d) (v b))
  | .iminI d b => some (.imin none .i32 (v d) (v d) (v b))
  | .imaxI d b => some (.imax none .i32 (v d) (v d) (v b))
  | .iminN d b => some (.imin none .n32 (v d) (v d) (v b))
  | .imaxN d b => some (.imax none .n32 (v d) (v d) (v b))
  | .iaddImm d im => some (.iaddImm none false .i32 d d (im.signExtend 24))
  | .shlImm d im => some (.shlImm none false .n32 d d (im.setWidth 24))
  | .shrImm d im => some (.shrImm none false .n32 d d (im.setWidth 24))
  | .sarImm d im => some (.sarImm none false .i32 d d (im.setWidth 24))
  | .and d b => some (.and none .n32 (v d) (v d) (v b))
  | .or d b => some (.or none .n32 (v d) (v d) (v b))
  | .xor d b => some (.xor none .n32 (v d) (v d) (v b))
  | .andn d b => some (.andn none .n32 (v d) (v d) (v b))
  | .mov d b => some (.mov none .n32 (v d) (v b))
  | .movi d im => some (.movi none (v d) (im.signExtend 32))
  | .pmov d b => some (.pmov none false d b)
  | .plopAnd d b => some (.plop none .and d d b)
  | .plopOr d b => some (.plop none .or d d b)
  | .plopXor d b => some (.plop none .xor d d b)
  | .fadd d b => some (.fadd none .rne d (v d) (v b))
  | .fmul d b => some (.fmul none .rne d (v d) (v b))
  | .ffma d b => some (.ffma none .rne d (v b) (v b) (v d))
  | .hxadd d b => some (.hxadd none .rne d (v d) (v b))
  | .hxmul d b => some (.hxmul none .rne d (v d) (v b))
  | .hxfma d b => some (.hxfma none .rne d (v b) (v b) (v d))
  | .bxadd d b => some (.bxadd none .rne d (v d) (v b))
  | .bxmul d b => some (.bxmul none .rne d (v d) (v b))
  | .bxfma d b => some (.bxfma none .rne d (v b) (v b) (v d))

/-- What a slot does in each lane; `nop` does nothing. -/
def slotSpec (x : Slot) : Option FloatSpec := (slotWord x).bind laneSpec

/-- The flags that a slot raises in a lane. -/
def slotFlags (x : Slot) (G : Gang) (l : Nat) : Flg :=
  match slotSpec x with
  | some y => y.flags G l
  | none => 0
/-- The destination of a slot, if it has one. -/
def slotDest (x : Slot) : Option Dest := (slotSpec x).map (·.dest)

/-- R129: the lane whose value a lane takes; none where the shuffle's source lies outside the gang or is not active. -/
def shuffleFrom (mode : ShflMode) (width : Nat) (act : List Nat) (l n : Nat) : Option Nat :=
  let src : Int := match mode with
    | .at => ((n % width : Nat) : Int)
    | .lower => (l : Int) - n
    | .upper => (l : Int) + n
    | .mirror => ((l ^^^ (n % width) : Nat) : Int)
  if 0 ≤ src ∧ src.toNat ∈ act then some src.toNat else none

/-- R190 to R192: the words that change a mask register and test its set: the register and its new value. -/
def maskSpec (i : Instr) : Option (BitVec 8 × (Gang → List Nat → W64)) :=
  match i with
  | .join _ d => some (d, fun G act => G.readM d.toNat ||| bitsOf act)
  | .leave _ d => some (d, fun G act => G.readM d.toNat &&& ~~~bitsOf act)
  | .mset _ all d a => some (d, fun G _ => if all then bitsOf G.liveLanes else G.readS a.toNat)
  | .mmov _ d a => if d.sc then none else some (d.n, fun G _ => G.readM a.toNat)
  | .mand _ d a b => some (d, fun G _ => G.readM a.toNat &&& G.readM b.toNat)
  | .mor _ d a b => some (d, fun G _ => G.readM a.toNat ||| G.readM b.toNat)
  | .mfromk _ d a => some (d, fun G act => bitsOf (act.filter (fun l => G.readK l a.toNat)))
  | _ => none

/-! ### Memory words -/

/-- R157: the loads of a value for each lane: guard, window, operands, whether the value is sign-extended, and whether lanes
read consecutive places. -/
def loadForm (i : Instr) : Option (Grd × BitVec 4 × MemOp × Bool × Bool) :=
  match i with
  | .ld g la m => some (g, la, m, false, false)
  | .ldSigned g la m => some (g, la, m, true, false)
  | .ldv g la m => some (g, la, m, false, true)
  | _ => none
/-- R159: the loads of one value for the gang. -/
def scalarLoadForm (i : Instr) : Option (Grd × BitVec 4 × MemOp × Bool) :=
  match i with
  | .lds g la m => some (g, la, m, false)
  | .ldsSigned g la m => some (g, la, m, true)
  | _ => none
/-- R162. -/
def gatherForm (i : Instr) : Option (Grd × BitVec 4 × MemOp × Bool) :=
  match i with
  | .gath g la m => some (g, la, m, false)
  | .gathSigned g la m => some (g, la, m, true)
  | _ => none
/-- R157: the stores of a value for each lane. -/
def storeForm (i : Instr) : Option (Grd × MemOp × Bool) :=
  match i with
  | .st g m => some (g, m, false)
  | .stv g m => some (g, m, true)
  | _ => none

/-- R155, R157: the lanes of Active with their exact addresses. -/
def lanePlaces (s : State) (g : Grd) (m : MemOp) (contig : Bool) : List (Nat × Int) :=
  (s.active g).map (fun l => (l, laneAddr s.curGang m contig l))

/-- An exact address is that of `n` readable bytes of the team's scratchpad, and no error of the pair link meets them (R289). -/
def goodScratch (s : State) (n : Nat) (a : Int) : Prop :=
  0 ≤ a ∧ a < s.curTeam.launch.scratchSpace ∧ a.toNat % n = 0 ∧ poisoned s.curTeam.poison a.toNat n = false ∧
  (s.curTeam.overLink s.curGang a.toNat && (s.core s.curGang.core).pairLoadBad) = false

/-- The bytes of the team's scratchpad as the issuing gang sees them (R228). -/
def scratchBytes (s : State) (a n : Nat) : List Byte := (List.range n).map (fun k => s.scratchAt s.cur.team s.curGang (a + k))

/-- A gang's registers are as before: vector, scalar, predicate and mask registers, and flags that no window shows. -/
def SameRegs (G H : Gang) : Prop := H.pool = G.pool ∧ H.s = G.s ∧ H.preds = G.preds ∧ H.m = G.m ∧ H.bad = G.bad

end Sys2Proof.Safety
end

