-- ==== Sys2Proof/WellFormed.lean ====
section
/-! DEFINITION. Which terms of `Instr` stand for words of Gisko: `encodable` says that the fields hold what the word's
format can hold and the word accepts (checks 1 to 3 of R77), `regsInRange` that register numbers lie within the limits
of R71 that no launch changes. Terms that are no words are well formed. -/

namespace Sys2Proof

/-- R71: the limits that do not depend on the launch. -/
def scOk (n : BitVec 8) : Bool := decide (n < 64)
def predOk (n : BitVec 8) : Bool := decide (n < 16)
def maskOk (n : BitVec 8) : Bool := decide (n < 12)
def futOk (n : BitVec 8) : Bool := decide (n < 16)
def tileOk (n : BitVec 8) : Bool := decide (n < 8)
def accOk (n : BitVec 8) : Bool := decide (n < 16)
def barOk (n : BitVec 8) : Bool := decide (n < 16)
def Opd.ok (o : Opd) : Bool := !o.sc || scOk o.n

/-- R73: an order that a word can hold: gang scope cannot be encoded. -/
def MemOrd.encodable : MemOrd → Bool
  | .none => true
  | .acq y => y != .gang
  | .rel y => y != .gang

def MemKind.scalarData : MemKind → Bool
  | .loadScalar => true | .loadScalarSigned => true | .storeScalar => true | _ => false

def MemOp.regsOk (k : MemKind) (m : MemOp) : Bool := (m.bv || scOk m.base) && (!k.scalarData || scOk m.d)

/-- The memory operand of a memory word. -/
def memOf : Instr → Option MemOp
  | .ld _ _ m => some m | .ldSigned _ _ m => some m | .st _ m => some m | .ldv _ _ m => some m | .stv _ m => some m
  | .lds _ _ m => some m | .ldsSigned _ _ m => some m | .sts _ m => some m | .gath _ _ m => some m
  | .gathSigned _ _ m => some m | .scat _ m => some m | .prf _ m => some m | .xst _ m => some m
  | _ => none

def encodable (i : Instr) : Bool :=
  match i with
  | .mset _ all _ a => (!all || a == 0)
  | .iadd _ t d a b => tyAny t && cls2 d a b
  | .isub _ t d a b => tyAny t && cls2 d a b
  | .iaddsat _ t d a b => tyAny t && cls2 d a b
  | .isubsat _ t d a b => tyAny t && cls2 d a b
  | .imul _ t d a b => tyAny t && cls2 d a b
  | .imulh _ t d a b => tyWord t && cls2 d a b
  | .imad _ t d a b c => tyAny t && cls3 d a b c
  | .idiv _ t d a b => tyAny t && cls2 d a b
  | .irem _ t d a b => tyAny t && cls2 d a b
  | .imin _ t d a b => tyAny t && cls2 d a b
  | .imax _ t d a b => tyAny t && cls2 d a b
  | .iabs _ t _ d a => tySigned t && cls1 d a
  | .ineg _ t _ d a => tySigned t && cls1 d a
  | .and _ t d a b => tyLogic t && cls2 d a b
  | .or _ t d a b => tyLogic t && cls2 d a b
  | .xor _ t d a b => tyLogic t && cls2 d a b
  | .not _ t d a => tyLogic t && cls1 d a
  | .andn _ t d a b => tyLogic t && cls2 d a b
  | .shl _ t d a b => tyWord t && cls2 d a b
  | .shr _ t d a b => tyWord t && cls2 d a b
  | .sar _ t d a b => tyWord t && cls2 d a b
  | .rotl _ t d a b => tyWord t && cls2 d a b
  | .bfx _ t d a b c => tyWord t && cls3 d a b c
  | .bfi _ t d a b c => tyLogic t && cls3 d a b c
  | .popc _ t d a => tyLogic t && cls1 d a
  | .clz _ t d a => tyLogic t && cls1 d a
  | .ctz _ t d a => tyLogic t && cls1 d a
  | .brev _ t d a => tyLogic t && cls1 d a
  | .bswap _ t d a => tySwap t && cls1 d a
  | .sel _ t _ _ _ _ => tyLogic t
  | .mov _ t d a => tyLogic t && cls1 d a
  | .lea _ t d a b sh => tyWord t && cls2 d a b && decide (sh < 8)
  | .shfl _ _ t _ _ _ _ => tyLogic t
  | .idp4 _ _ _ d a b c => cls3 d a b c
  | .idp8 _ _ d a b c => cls3 d a b c
  | .bcast _ t _ _ _ => tyLogic t
  | .vrd _ t _ _ _ => tyLogic t
  | .iaddImm _ _ t _ _ _ => tyAny t
  | .isubImm _ _ t _ _ _ => tyAny t
  | .imulImm _ _ t _ _ _ => tyAny t
  | .iminImm _ _ t _ _ _ => tyAny t
  | .imaxImm _ _ t _ _ _ => tyAny t
  | .andImm _ _ t _ _ _ => tyLogic t
  | .orImm _ _ t _ _ _ => tyLogic t
  | .xorImm _ _ t _ _ _ => tyLogic t
  | .shlImm _ _ t _ _ imm => tyWord t && decide (imm.toNat < t.width)
  | .shrImm _ _ t _ _ imm => tyWord t && decide (imm.toNat < t.width)
  | .sarImm _ _ t _ _ imm => tyWord t && decide (imm.toNat < t.width)
  | .rotlImm _ _ t _ _ imm => tyWord t && decide (imm.toNat < t.width)
  | .fcvt _ kind rm inf _ _ => cvtOk kind rm inf
  | .ld _ _ m => memOk .load m
  | .st _ m => memOk .store m
  | .ldv _ _ m => memOk .loadFlat m
  | .stv _ m => memOk .storeFlat m
  | .lds _ _ m => memOk .loadScalar m
  | .sts _ m => memOk .storeScalar m
  | .gath _ _ m => memOk .load m
  | .scat _ m => memOk .store m
  | .prf _ m => memOk .hint m
  | .ldSigned _ _ m => memOk .loadSigned m
  | .ldsSigned _ _ m => memOk .loadScalarSigned m
  | .gathSigned _ _ m => memOk .loadSigned m
  | .xst _ m => memOk .shadow m
  | .atom32 _ _ op _ _ sgn d a b c => atomOk op sgn d a b c
  | .atom64 _ _ op _ _ sgn d a b c => atomOk op sgn d a b c
  | .cpFence _ _ mask _ => decide (0 < mask) && decide (mask < 16)
  | .tld _ _ sc _ _ _ c => (sc || c == 0)
  | .tldg _ _ sc _ _ _ _ c => (sc || c == 0)
  | .tst _ sc _ _ _ c => (sc || c == 0)
  | .mma _ _ ring _ _ _ _ _ _ => ring != 3
  | .mmap _ _ ring _ _ _ _ _ _ _ => ring != 3
  | .swrite _ dk _ _ => dk != .pair
  | .accv _ op _ _ => op != .addI64
  | .futSpawn _ _ _ b n => decide (n < 9) && (n != 0 || b == 0)
  | .futGet _ la d _ n => decide (n < 9) && (n != 0 || (d == 0 && la == 0))
  | .futRet _ a n => decide (n < 9) && (n != 0 || a == 0)
  | .enRead _ _ sel => decide (sel < 5)
  | .pairWord s0 s1 => s0.encodable && s1.encodable && pairRules s0 s1
  | _ => true

def regsInRange (i : Instr) : Bool :=
  match i with
  | .brx _ a => a.ok
  | .callv _ a => a.ok
  | .join _ d => maskOk d
  | .leave _ d => maskOk d
  | .waitm _ a => maskOk a
  | .mset _ _ d a => maskOk d && scOk a
  | .mmov _ d a => (if d.sc then scOk d.n else maskOk d.n) && maskOk a
  | .mand _ d a b => maskOk d && maskOk a && maskOk b
  | .mor _ d a b => maskOk d && maskOk a && maskOk b
  | .mpop _ d a => scOk d && maskOk a
  | .mfromk _ d a => maskOk d && predOk a
  | .iadd _ _ d a b => d.ok && a.ok && b.ok
  | .isub _ _ d a b => d.ok && a.ok && b.ok
  | .iaddsat _ _ d a b => d.ok && a.ok && b.ok
  | .isubsat _ _ d a b => d.ok && a.ok && b.ok
  | .imul _ _ d a b => d.ok && a.ok && b.ok
  | .imulh _ _ d a b => d.ok && a.ok && b.ok
  | .imad _ _ d a b c => d.ok && a.ok && b.ok && c.ok
  | .idiv _ _ d a b => d.ok && a.ok && b.ok
  | .irem _ _ d a b => d.ok && a.ok && b.ok
  | .imin _ _ d a b => d.ok && a.ok && b.ok
  | .imax _ _ d a b => d.ok && a.ok && b.ok
  | .iabs _ _ _ d a => d.ok && a.ok
  | .ineg _ _ _ d a => d.ok && a.ok
  | .and _ _ d a b => d.ok && a.ok && b.ok
  | .or _ _ d a b => d.ok && a.ok && b.ok
  | .xor _ _ d a b => d.ok && a.ok && b.ok
  | .not _ _ d a => d.ok && a.ok
  | .andn _ _ d a b => d.ok && a.ok && b.ok
  | .shl _ _ d a b => d.ok && a.ok && b.ok
  | .shr _ _ d a b => d.ok && a.ok && b.ok
  | .sar _ _ d a b => d.ok && a.ok && b.ok
  | .rotl _ _ d a b => d.ok && a.ok && b.ok
  | .bfx _ _ d a b c => d.ok && a.ok && b.ok && c.ok
  | .bfi _ _ d a b c => d.ok && a.ok && b.ok && c.ok
  | .popc _ _ d a => d.ok && a.ok
  | .clz _ _ d a => d.ok && a.ok
  | .ctz _ _ d a => d.ok && a.ok
  | .brev _ _ d a => d.ok && a.ok
  | .bswap _ _ d a => d.ok && a.ok
  | .sel _ _ _ a b c => a.ok && b.ok && predOk c
  | .mov _ _ d a => d.ok && a.ok
  | .lea _ _ d a b _ => d.ok && a.ok && b.ok
  | .movi _ d _ => d.ok
  | .movh _ d _ => d.ok
  | .icmp _ _ _ d a b => predOk d && a.ok && b.ok
  | .plop _ _ d a b => predOk d && predOk a && predOk b
  | .pmov _ _ d a => predOk d && predOk a
  | .vote _ _ d a => predOk d && predOk a
  | .ballot _ d a => scOk d && predOk a
  | .shfl _ _ _ _ _ b pout => b.ok && predOk (pout.getD 0)
  | .idp4 _ _ _ d a b c => d.ok && a.ok && b.ok && c.ok
  | .idp8 _ _ d a b c => d.ok && a.ok && b.ok && c.ok
  | .bcast _ _ _ _ b => scOk b
  | .vrd _ _ d _ b => scOk d && scOk b
  | .iaddImm _ sc _ d a _ => (!sc || (scOk d && scOk a))
  | .isubImm _ sc _ d a _ => (!sc || (scOk d && scOk a))
  | .imulImm _ sc _ d a _ => (!sc || (scOk d && scOk a))
  | .iminImm _ sc _ d a _ => (!sc || (scOk d && scOk a))
  | .imaxImm _ sc _ d a _ => (!sc || (scOk d && scOk a))
  | .andImm _ sc _ d a _ => (!sc || (scOk d && scOk a))
  | .orImm _ sc _ d a _ => (!sc || (scOk d && scOk a))
  | .xorImm _ sc _ d a _ => (!sc || (scOk d && scOk a))
  | .shlImm _ sc _ d a _ => (!sc || (scOk d && scOk a))
  | .shrImm _ sc _ d a _ => (!sc || (scOk d && scOk a))
  | .sarImm _ sc _ d a _ => (!sc || (scOk d && scOk a))
  | .rotlImm _ sc _ d a _ => (!sc || (scOk d && scOk a))
  | .icmpImm _ sc _ _ d a _ => predOk d && (!sc || scOk a)
  | .fadd _ _ _ a b => a.ok && b.ok
  | .fsub _ _ _ a b => a.ok && b.ok
  | .fmul _ _ _ a b => a.ok && b.ok
  | .ffma _ _ _ a b c => a.ok && b.ok && c.ok
  | .fmin _ _ a b => a.ok && b.ok
  | .fmax _ _ a b => a.ok && b.ok
  | .fcmp _ _ d a b => predOk d && a.ok && b.ok
  | .fclass _ _ a => a.ok
  | .frnd _ _ _ a => a.ok
  | .fcvt _ _ _ _ _ a => a.ok
  | .f2i _ _ _ _ _ a => a.ok
  | .i2f _ _ _ _ _ a => a.ok
  | .hxadd _ _ _ a b => a.ok && b.ok
  | .hxmul _ _ _ a b => a.ok && b.ok
  | .hxfma _ _ _ a b c => a.ok && b.ok && c.ok
  | .bxadd _ _ _ a b => a.ok && b.ok
  | .bxmul _ _ _ a b => a.ok && b.ok
  | .bxfma _ _ _ a b c => a.ok && b.ok && c.ok
  | .fdp2 _ _ _ _ a b c => a.ok && b.ok && c.ok
  | .frcp _ _ _ a => a.ok
  | .frsq _ _ _ a => a.ok
  | .fsqrt _ _ _ _ a => a.ok
  | .fexp2 _ _ _ a => a.ok
  | .flog2 _ _ _ a => a.ok
  | .fsin _ _ _ a => a.ok
  | .fcos _ _ _ a => a.ok
  | .ftanh _ _ _ a => a.ok
  | .fscale _ _ _ a b => a.ok && b.ok
  | .fgetexp _ _ a => a.ok
  | .gunpack _ _ a => a.ok
  | .ld _ _ m => m.regsOk .load
  | .st _ m => m.regsOk .store
  | .ldv _ _ m => m.regsOk .loadFlat
  | .stv _ m => m.regsOk .storeFlat
  | .lds _ _ m => m.regsOk .loadScalar
  | .sts _ m => m.regsOk .storeScalar
  | .gath _ _ m => m.regsOk .load
  | .scat _ m => m.regsOk .store
  | .prf _ m => m.regsOk .hint
  | .ldSigned _ _ m => m.regsOk .loadSigned
  | .ldsSigned _ _ m => m.regsOk .loadScalarSigned
  | .gathSigned _ _ m => m.regsOk .loadSigned
  | .xst _ m => m.regsOk .shadow
  | .barSync _ n cnt => barOk n && scOk (cnt.getD 0)
  | .barArv _ n cnt => barOk n && scOk (cnt.getD 0)
  | .barWait _ n => barOk n
  | .barBytes _ n b => barOk n && scOk b
  | .waitA _ _ _ a b => a.ok && b.ok
  | .waitT _ _ _ d a b c => predOk d && a.ok && b.ok && scOk c
  | .atom32 _ _ _ _ _ _ d a b c => d.ok && a.ok && b.ok && c.ok
  | .atom64 _ _ _ _ _ _ d a b c => d.ok && a.ok && b.ok && c.ok
  | .cpGs _ _ a b c desc => scOk a && scOk b && scOk c && scOk (desc.getD 0)
  | .cpSg _ _ a b c desc => scOk a && scOk b && scOk c && scOk (desc.getD 0)
  | .cpGg _ _ a b c desc => scOk a && scOk b && scOk c && scOk (desc.getD 0)
  | .cpFence _ _ _ desc => scOk (desc.getD 0)
  | .cpPoll _ d => scOk d
  | .lfillBar _ n a b => barOk n && scOk a && scOk b
  | .lfillTok _ d a b c => scOk d && scOk a && scOk b && scOk c
  | .tcfg _ d a => tileOk d && scOk a
  | .tld _ _ _ d a b c => tileOk d && scOk a && scOk b && scOk c
  | .tldg _ _ _ _ d a b c => tileOk d && scOk a && scOk b && scOk c
  | .tst _ _ d a b c => tileOk d && scOk a && scOk b && scOk c
  | .tzero _ d => tileOk d
  | .tmov _ _ d _ b => tileOk d && scOk b
  | .mma _ _ _ _ d _ _ _ k => accOk d && scOk k
  | .mmap _ _ _ _ _ d _ _ _ k => accOk d && scOk k
  | .mmac _ _ a => scOk a
  | .czero _ d => accOk d
  | .cmov _ _ a _ => accOk a
  | .cmovIn _ d _ _ => accOk d
  | .vbnd _ a => scOk a
  | .atest _ d => scOk d
  | .sread _ dk d _ => (dk != .scalar || scOk d)
  | .swrite _ dk a _ => (dk != .scalar || scOk a)
  | .ctxSave _ a => scOk a
  | .ctxLoad _ a => scOk a
  | .cbar _ d => predOk d
  | .xpoll _ d => scOk d
  | .acc _ _ a b => a.ok && b.ok
  | .accv _ _ a _ => a.ok
  | .accProbe _ _ d a => scOk d && scOk a
  | .futSpawn _ d a b _ => futOk d && scOk a && scOk b
  | .futDup _ d a => futOk d && futOk a
  | .futDrop _ d => futOk d
  | .futSelf _ d => scOk d
  | .futGet _ _ d a _ => futOk a && scOk d
  | .futPoll _ d a => predOk d && futOk a
  | .futPark _ a b => scOk a && futOk b
  | .futUnpark _ d a => futOk d && scOk a
  | .futRet _ a _ => scOk a
  | .enRead _ d _ => scOk d
  | .enMark _ a => scOk a
  | .vfReq _ d a => scOk d && scOk a
  | .vfStat _ d => scOk d
  | .collRed _ _ d a b c => scOk d && scOk a && scOk b && scOk c
  | .collBcast _ d a b c => scOk d && scOk a && scOk b && scOk c
  | .collWait _ d a => scOk d && scOk a
  | _ => true

/-- A term that is a word's instruction, or no word at all. -/
def wellFormed (i : Instr) : Bool :=
  encodable i && ((memOf i).all (fun m => m.ord.encodable)) && regsInRange i

end Sys2Proof
end

