-- ==== Sys2Proof/Certificates/Slice0/Obligations.lean ====
section
/-! DEFINITION. The statements for the provers. -/

section Claims

open Sys2Proof Sys2Proof.Machine Sys2Proof.Safety

/-! ### Encoding -/

/-- Decode and encode agree: every instruction that a word can hold has a word, and the decoder reads it back. -/
def Obligations.EncodedWordsDecodeBack : Prop :=
  ∀ i, i.isWord = true → encodable i = true → (memOf i).all (fun m => m.ord.encodable) = true →
    ∃ w, encode i = some w ∧ decode w = .ok i

/-- Every word that decodes is the word of the instruction that it decodes to. -/
def Obligations.DecodedWordsEncodeBack : Prop :=
  ∀ w i, decode w = .ok i → encode i = some w ∧ i.isWord = true ∧ encodable i = true ∧ (memOf i).all (fun m => m.ord.encodable) = true

/-- R81, R95, R103: words written out from the encoding tables, and words that are no instruction. -/
def Obligations.SampleWordsDecode : Prop :=
  decode 0x8208120064182C00 = .ok (.pairWord (.iadd 4 9) (.fmul 6 11)) ∧
  (∃ e, decode 0 = .error e) ∧ (∃ e, decode 0x8208120064202C00 = .error e)

/-! ### Memory -/

/-- R14: bytes written read back, other bytes are as before, and the canonical form is kept; canonical memories that read
alike at every address are the same list. -/
def Obligations.MemoryReadsWhatWasWritten : Prop :=
  (∀ (m : List Host.Cell) (a : Nat) (bs : List Byte),
    (∀ k (h : k < bs.length), readByte (writeBytes m a bs) (a + k) = bs[k]) ∧
    (∀ b, b < a ∨ a + bs.length ≤ b → readByte (writeBytes m a bs) b = readByte m b) ∧
    (Memory.wf m → Memory.wf (writeBytes m a bs))) ∧
  (∀ m n : List Host.Cell, Memory.wf m → Memory.wf n → (∀ a, readByte m a = readByte n a) → m = n)

/-- Every step keeps the package's memory in canonical form. -/
def Obligations.StepsKeepMemoryCanonical : Prop :=
  Kept (fun s => Memory.wf s.mem)

/-- R492, R493: reset. -/
def Obligations.ResetIsColdAndCanonical : Prop :=
  Memory.wf State.reset.mem ∧ (∀ a, readByte State.reset.mem a = 0) ∧ State.reset.ready = true ∧ State.reset.teams = [] ∧
  State.reset.time = 0 ∧ State.reset.poison = []

/-! ### Steps -/

/-- R66, R67, R171, R439, R467: when the word at the PC of the run that issues next, which memory and the core's instruction
caches hold alike, decodes to `i`, `i` neither waits nor stalls, and its charge has been taken or is taken now, the step is
`exec i`, apart from the records of a gather's lanes and of a single step. -/
def Obligations.StepRunsDecodedWord : Prop :=
  ∀ (s s1 s2 s3 s4 : State) (more : List Turn) (c : Cur) (rest : List Cur) (pa : Nat) (i : Instr),
    (s.agenda = .issue :: more ∨ (s.agenda = [] ∧ more = [])) → s.powered = true → s.ready = true → s.issues = c :: rest →
    ({ s with agenda := more, issues := rest } : State).stillReady c = true →
    s1 = ({ s with agenda := more, issues := rest } : State).atRun c → s1.stepLanes = [] → noRep s1.curGang = true →
    s1.cur.pc.toNat % 8 = 0 → canonicalVA s1.cur.pc = true →
    s1.checkMapped s1.cur.team s1.cur.gang s1.cur.pc .exec = (s2, .ok (.mem pa)) → s2.isLocal pa = true →
    poisoned s2.poison (lineOf pa * 128) 128 = false →
    s3 = s2.codeLine (s2.gang s1.cur.team s1.cur.gang).core (s2.team s1.cur.team).ctx pa →
    (∀ m, (s3.core (s2.gang s1.cur.team s1.cur.gang).core).code = some m → readNum m pa 8 = readNum s3.mem pa 8) →
    decode (BitVec.ofNat 64 (readNum s3.mem pa 8)) = .ok i → s3.orphan s3.curTeam = false →
    s1.flitsShort s3 = false → exec i s3 = .next s4 → s4.note ≠ .held → s4.note ≠ .late → s4.curGang.stop.before = false → s3.flitsShort s4 = false →
    ((∀ n, s3.cur.paid = some (n, decide (s4.note = .trapped)) →
      step s = .next { s4.issued s3 (.word i) with note := .none }) ∧
     (∀ s5 s6, (∀ n, s3.cur.paid ≠ some (n, decide (s4.note = .trapped))) →
      (s3.repay s3.cur).payWord (.word i) (decide (s4.note = .trapped)) = (s5, .taken) → exec i s5 = .next s6 →
      step s = .next { s6.issued s5 (.word i) with note := .none }))

/-- A scheduled event is what its row does; the rows of words happen only where an issue unit finds them (R171), and in what
has no power only a power-on does anything (R503). -/
def Obligations.StepRunsScheduledEvent : Prop :=
  ∀ (s : State) (i : Instr) (rest : List Turn), s.agenda = .event i :: rest →
    (isFetched i = false → (s.powered = true ∨ worksUnpowered i = true) → step s = exec i { s with agenda := rest }) ∧
    (isFetched i = true ∨ (s.powered = false ∧ worksUnpowered i = false) → step s = .next { s with agenda := rest })

/-- R83, R86, R89, R178: the end of a word moves the lanes of its run to the next word; inside a `rep` sequence PIDX
counts, and the last repetition moves them past the prefixed word; a word counts one position in the open windows of
its lanes, and a word that ends windows closes them, in a repetition too. -/
def Obligations.WordEndAdvancesItsRun : Prop :=
  ((∀ (s : State) (e : Bool), noRep s.curGang = true → GangStep s (.next (s.finish e)) (fun H =>
    (∀ l ∈ s.runLanes, H.pc l = s.cur.pc + 8) ∧ (∀ l, l ∉ s.runLanes → H.pc l = s.curGang.pc l) ∧ H.prog = none ∧ Moved s.curGang H)) ∧
  (∀ (s : State) (e : Bool) (n a b c d : Nat) (m : LaneMask), s.curGang.prog = some (.rep n a b c d m) →
    s.curGang.pidx.toNat + 1 < n → s.finish e = s.setCur
      (if e then ({ s.curGang with pidx := s.curGang.pidx + 1, failed := [] } : Gang).countWindows s.runLanes true
       else { s.curGang with pidx := s.curGang.pidx + 1, failed := [] })) ∧
  (∀ (s : State) (e : Bool) (n a b c d : Nat) (m : LaneMask), s.curGang.prog = some (.rep n a b c d m) →
    n ≤ s.curGang.pidx.toNat + 1 → GangStep s (.next (s.finish e)) (fun H =>
      (∀ l ∈ s.runLanes, H.pc l = s.curGang.pc l + 16) ∧ (∀ l, l ∉ s.runLanes → H.pc l = s.curGang.pc l) ∧ H.prog = none ∧
      H.pidx = 0 ∧ Moved { s.curGang with pidx := 0 } H))) ∧
  (∀ (s : State) (e : Bool) (q : Pend), noRep s.curGang = true → q ∈ (s.finish e).curGang.pend → q.done = false →
    ∃ p ∈ s.curGang.pend, q = { p with left := q.left } ∧ ∀ l, tget 0 q.left l =
      (if l ∈ s.runLanes then (if e then 0 else tget 0 p.left l - 1) else tget 0 p.left l))

/-- R77 check 4, R85, R86, R77 check 6, R267: a word that waits for nothing and names a register past its limit is
ILLEGAL_OP in every lane of its run; a word that waits for a result has no effect: it is Held; below the privileged
level the privileged words are PRIVILEGE in every lane of their run. -/
def Obligations.WordsAreCheckedBeforeTheyAct : Prop :=
  (∀ (i : Instr) (s : State), i.isWord = true → s.curGang.waits s.runLanes i = false →
    i.refs.all (Ref.legal s.curTeam.launch s.curGang) = false → exec i s = .next (s.trapRun (trapAll s.runLanes 1 0 i))) ∧
  (∀ (i : Instr) (s : State), i.isWord = true → s.curGang.waits s.runLanes i = true → exec i s = .next { s with note := .held }) ∧
  (∀ (i : Instr) (s : State), i.privileged = true → s.curGang.waits s.runLanes i = false → s.curGang.pend = [] →
    i.refs.all (Ref.legal s.curTeam.launch s.curGang) = true → s.curGang.privileged = false →
    exec i s = .next (s.trapRun (trapAll s.runLanes 2 0 i)))

/-! ### Integer and predicate words -/

/-- R118 to R127, R130 to R132: the integer words write the result of the rule to every lane of Active (once, for a scalar
destination) and write nothing else. -/
def Obligations.IntegerWordsWriteTheirResults : Prop :=
  ∀ (i : Instr) (s : State) (x : RegSpec), intSpec i = some x → s.clear i = true →
    Writes s (exec i s) (fun H => (∀ l ∈ x.lanes (s.active i.grd), x.dest.holds H l (x.val s.curGang l)) ∧
      OnlyWrites x.dest (s.active i.grd) false s.curGang H)

/-- R128 to R130: votes and ballots; values that pass between lanes, all read before any is written. -/
def Obligations.ValuesPassBetweenLanes : Prop :=
  ((∀ (g : Grd) (mode : VoteMode) (d a : BitVec 8) (s : State), s.clear (.vote g mode d a) = true →
    Writes s (exec (.vote g mode d a) s) (fun H =>
      (∀ l ∈ s.active g, (H.readK l d.toNat = true ↔ match mode with
        | .some => ∃ j ∈ s.active g, s.curGang.readK j a.toNat = true
        | .every => ∀ j ∈ s.active g, s.curGang.readK j a.toNat = true
        | .same => ∀ j ∈ s.active g, ∀ k ∈ s.active g, s.curGang.readK j a.toNat = s.curGang.readK k a.toNat)) ∧
      OnlyWrites (.pred d) (s.active g) false s.curGang H)) ∧
  (∀ (g : Grd) (d a : BitVec 8) (s : State), s.clear (.ballot g d a) = true →
    Writes s (exec (.ballot g d a) s) (fun H =>
      (s.active g ≠ [] → ∀ l < 64, ((H.readS d.toNat).getLsbD l = true ↔ l ∈ s.active g ∧ s.curGang.readK l a.toNat = true)) ∧
      OnlyWrites (.reg ⟨true, d⟩ true) (s.active g) false s.curGang H))) ∧
  ((∀ (g : Grd) (mode : ShflMode) (t : ITy) (d a : BitVec 8) (b : Opd) (p : Option (BitVec 8)) (s : State),
    encodable (.shfl g mode t d a b p) = true → s.clear (.shfl g mode t d a b p) = true →
    Writes s (exec (.shfl g mode t d a b p) s) (fun H =>
      (∀ l ∈ s.active g, H.rawOpd ⟨false, d⟩ t.wide l = s.curGang.rawOpd ⟨false, a⟩ t.wide
        ((shuffleFrom mode s.curGang.width (s.active g) l (s.curGang.read32 b l).toNat).getD l)) ∧
      (∀ k ∈ p, ∀ l ∈ s.active g,
        H.readK l k.toNat = (shuffleFrom mode s.curGang.width (s.active g) l (s.curGang.read32 b l).toNat).isSome) ∧
      OnlyTouches (fun l r => decide (l ∈ s.active g) && (Dest.reg ⟨false, d⟩ t.wide).isV r)
        (fun l k => decide (l ∈ s.active g) && decide (p.map (·.toNat) = some k)) false s.curGang H)) ∧
  (∀ (g : Grd) (t : ITy) (d a b : BitVec 8) (s : State), encodable (.bcast g t d a b) = true → s.clear (.bcast g t d a b) = true →
    Writes s (exec (.bcast g t d a b) s) (fun H =>
      (∀ l ∈ s.active g, H.rawOpd ⟨false, d⟩ t.wide l =
        s.curGang.rawOpd ⟨false, a⟩ t.wide ((s.curGang.readS b.toNat).toNat % s.curGang.width)) ∧
      OnlyWrites (.reg ⟨false, d⟩ t.wide) (s.active g) false s.curGang H)) ∧
  (∀ (g : Grd) (t : ITy) (d a b : BitVec 8) (s : State), encodable (.vrd g t d a b) = true → s.clear (.vrd g t d a b) = true →
    Writes s (exec (.vrd g t d a b) s) (fun H =>
      (s.active g ≠ [] → H.readS d.toNat =
        s.curGang.rawOpd ⟨false, a⟩ t.wide ((s.curGang.readS b.toNat).toNat % s.curGang.width)) ∧
      OnlyWrites (.reg ⟨true, d⟩ true) (s.active g) false s.curGang H)))

/-! ### Floating words -/

/-- R46, R47, R137 to R146, R149: a floating word none of whose lanes meets an enabled condition writes the result of the
rule to every lane of Active, and adds its flags to FSTAT; where some lane meets a condition whose trap is enabled,
the word writes nothing and FP is recorded in those lanes. -/
def Obligations.FloatWordsWriteOrTrap : Prop :=
  (∀ (i : Instr) (s : State) (x : FloatSpec), floatSpec i = some x → s.clear i = true →
    (∀ l ∈ s.active i.grd, trapping s.curGang.fmode (x.flags s.curGang l) = false) →
    Writes s (exec i s) (fun H =>
      (∀ l ∈ s.active i.grd, x.dest.holds H l (x.val s.curGang l) ∧ H.readFstat l = s.curGang.readFstat l ||| x.flags s.curGang l) ∧
      (∀ l, l ∉ s.active i.grd → H.readFstat l = s.curGang.readFstat l) ∧ OnlyWrites x.dest (s.active i.grd) true s.curGang H)) ∧
  ((∀ (i : Instr) (s : State) (x : FloatSpec), floatSpec i = some x → s.clear i = true →
    (∃ l ∈ s.active i.grd, trapping s.curGang.fmode (x.flags s.curGang l) = true) →
    exec i s = .next (s.trapRun (trapAll ((s.active i.grd).filter (fun l => trapping s.curGang.fmode (x.flags s.curGang l))) 9 0 i))) ∧
  (∀ (i : Instr) (s : State) (fn la : Nat) (d : BitVec 8) (a : Opd) (rm : Rm), specialSpec i = some (fn, la, d, a, rm) →
    s.clear i = true →
    (∃ l ∈ s.active i.grd, trapping s.curGang.fmode (specialF32 fn (modeOf rm s.curGang.fmode) (s.curGang.read32 a l)).2 = true) →
    exec i s = .next (s.trapRun (trapAll ((s.active i.grd).filter (fun l =>
      trapping s.curGang.fmode (specialF32 fn (modeOf rm s.curGang.fmode) (s.curGang.read32 a l)).2)) 9 0 i))))

/-- R147, R151: the special functions: the results of every lane of Active, at once or, with a window and no trap
enabled, pending; special operands: the reciprocal and the reciprocal root of a zero, the logarithm of a zero, the
root of a negative number. -/
def Obligations.SpecialFunctionsDeliverResults : Prop :=
  (∀ (i : Instr) (s : State) (fn la : Nat) (d : BitVec 8) (a : Opd) (rm : Rm), specialSpec i = some (fn, la, d, a, rm) →
    s.clear i = true →
    (∀ l ∈ s.active i.grd, trapping s.curGang.fmode (specialF32 fn (modeOf rm s.curGang.fmode) (s.curGang.read32 a l)).2 = false) →
    (la = 0 ∨ trapEnables s.curGang.fmode ≠ 0 → Writes s (exec i s) (fun H =>
      (∀ l ∈ s.active i.grd,
        H.readV l d.toNat = BitVec.ofNat 32 (specialF32 fn (modeOf rm s.curGang.fmode) (s.curGang.read32 a l)).1 ∧
        H.readFstat l = s.curGang.readFstat l ||| (specialF32 fn (modeOf rm s.curGang.fmode) (s.curGang.read32 a l)).2) ∧
      (∀ l, l ∉ s.active i.grd → H.readFstat l = s.curGang.readFstat l) ∧
      OnlyWrites (.reg ⟨false, d⟩ false) (s.active i.grd) true s.curGang H)) ∧
    (la ≠ 0 → trapEnables s.curGang.fmode = 0 → exec i s = .next (s.openWindow la [.v d.toNat] .data
      ((s.active i.grd).map (fun l => .v l d.toNat (BitVec.ofNat 32 (specialF32 fn (modeOf rm s.curGang.fmode) (s.curGang.read32 a l)).1)))
      ((s.active i.grd).map (fun l => (l, (specialF32 fn (modeOf rm s.curGang.fmode) (s.curGang.read32 a l)).2))) none))) ∧
  (∀ m : Mode, specialF32 0 m 0 = (0x7F800000, flagDZ) ∧ specialF32 0 m 0x80000000 = (0xFF800000, flagDZ) ∧
    specialF32 1 m 0 = (0x7F800000, flagDZ) ∧ specialF32 4 m 0 = (0xFF800000, flagDZ) ∧ specialF32 3 m 0 = (0x3F800000, 0) ∧
    specialF32 6 m 0 = (0x3F800000, 0) ∧ (specialF32 2 m 0xBF800000).2 = flagNV ∧ specialF32 2 m 0x40800000 = (0x40000000, 0))

/-- R79, R81: both slots of a pair word do in every lane of the run what their full instructions do, each reading before either
writes; `gunpack` writes four registers. -/
def Obligations.PairSlotsActAsFullInstructions : Prop :=
  (∀ (s0 s1 : Slot) (s : State), s.clear (.pairWord s0 s1) = true → (slotDest s0 = none ∨ slotDest s0 ≠ slotDest s1) →
    (∀ l ∈ s.runLanes, trapping s.curGang.fmode (slotFlags s0 s.curGang l ||| slotFlags s1 s.curGang l) = false) →
    Writes s (exec (.pairWord s0 s1) s) (fun H =>
      (∀ x ∈ [s0, s1], ∀ y ∈ slotSpec x, ∀ l ∈ s.runLanes, y.dest.holds H l (y.val s.curGang l)) ∧
      (∀ l ∈ s.runLanes, H.readFstat l = s.curGang.readFstat l ||| slotFlags s0 s.curGang l ||| slotFlags s1 s.curGang l) ∧
      OnlyTouches (fun l r => decide (l ∈ s.runLanes) && [s0, s1].any (fun x => (slotDest x).any (fun d => d.isV r)))
        (fun l k => decide (l ∈ s.runLanes) && [s0, s1].any (fun x => (slotDest x).any (fun d => d.isK k))) true s.curGang H)) ∧
  (∀ (g : Grd) (d : BitVec 8) (a : Opd) (s : State), s.clear (.gunpack g d a) = true →
    Writes s (exec (.gunpack g d a) s) (fun H =>
      (∀ l ∈ s.active g, ∀ j < 4, H.readV l (d.toNat + j) =
        BitVec.ofNat 32 (fmtF32.deliver .rne (gt8Value ((s.curGang.read32 a l).toNat / 256 ^ j % 256))).1) ∧
      (∀ l, H.readFstat l = s.curGang.readFstat l) ∧
      OnlyTouches (fun l r => decide (l ∈ s.active g) && decide (d.toNat ≤ r ∧ r < d.toNat + 4)) (fun _ _ => false) true s.curGang H))

/-! ### Control -/

/-- R75, R87, R101, R180 to R182: branches, `yield`, `nop` and `rep`. -/
def Obligations.BranchesMoveActiveLanes : Prop :=
  (∀ (g : Grd) (s : State), s.clear (.nop g) = true → exec (.nop g) s = .next (s.finish false)) ∧
  (∀ (g : Grd) (off : BitVec 32) (s : State), s.clear (.bra g off) = true → noRep s.curGang = true →
    GangStep s (exec (.bra g off) s) (fun H =>
      (∀ l ∈ s.runLanes, H.pc l = if l ∈ s.active g then s.cur.pc + off.signExtend 64 * 8 else s.cur.pc + 8) ∧
      (∀ l, l ∉ s.runLanes → H.pc l = s.curGang.pc l) ∧ Moved s.curGang H)) ∧
  (∀ (g : Grd) (a : Opd) (s : State), s.clear (.brx g a) = true → noRep s.curGang = true →
    GangStep s (exec (.brx g a) s) (fun H =>
      (∀ l ∈ s.runLanes, H.pc l = if l ∈ s.active g then s.curGang.rawOpd a true l else s.cur.pc + 8) ∧
      (∀ l, l ∉ s.runLanes → H.pc l = s.curGang.pc l) ∧ Moved s.curGang H)) ∧
  (∀ (g : Grd) (s : State), s.clear (.yield g) = true → noRep s.curGang = true →
    GangStep s (exec (.yield g) s) (fun H =>
      (∀ l ∈ s.runLanes, H.pc l = s.cur.pc + 8) ∧ (∀ l, l ∉ s.runLanes → H.pc l = s.curGang.pc l) ∧
      (let others := s.cur.others.filter (fun m => !s.runLanes.any (fun l => m.getLsbD l))
       H.yields = if s.active g = [] ∨ others = [] then s.curGang.yields
         else s.curGang.yields ++ [⟨bitsOf (s.active g), others, 64⟩]) ∧
      Moved { s.curGang with yields := H.yields } H)) ∧
  (∀ (cnt : BitVec 6) (sd sa sb sc : BitVec 2) (s s1 : State) (w : W64), s.clear (.rep cnt sd sa sb sc) = true →
    s.curGang.pidx.toNat ≤ cnt.toNat → s.fetchWord s.cur.team s.cur.gang (s.cur.pc + 8) = (s1, .word w) →
    repLegal w (stepOf sd) (stepOf sa) (stepOf sb) (stepOf sc) = true →
    exec (.rep cnt sd sa sb sc) s = .next (s1.setCur { s1.curGang with
      prog := some (.rep (cnt.toNat + 1) (stepOf sd) (stepOf sa) (stepOf sb) (stepOf sc) s.cur.lanes) }))

/-- R190 to R192: the words on mask registers; testing a set: when every live member waits on it, every lane that
waits on it leaves at the next word with age zero, and otherwise nothing changes. -/
def Obligations.MaskWordsWriteAndRelease : Prop :=
  ((∀ (i : Instr) (s : State) (d : BitVec 8) (f : Gang → List Nat → W64), maskSpec i = some (d, f) → s.clear i = true →
    (s.active i.grd = [] → exec i s = .next (s.finish false)) ∧
    (s.active i.grd ≠ [] → exec i s =
      (let t := (s.setCur (s.curGang.writeM d.toNat (f s.curGang (s.active i.grd)))).finish false
       .next (t.setCur (t.curGang.testMask d.toNat))))) ∧
  (∀ (g : Grd) (d a : BitVec 8) (s : State), s.clear (.mmov g ⟨true, d⟩ a) = true →
    Writes s (exec (.mmov g ⟨true, d⟩ a) s) (fun H => (s.active g ≠ [] → H.readS d.toNat = s.curGang.readM a.toNat) ∧
      OnlyWrites (.reg ⟨true, d⟩ true) (s.active g) false s.curGang H)) ∧
  (∀ (g : Grd) (d a : BitVec 8) (s : State), s.clear (.mpop g d a) = true →
    Writes s (exec (.mpop g d a) s) (fun H =>
      (s.active g ≠ [] → H.readS d.toNat =
        BitVec.ofNat 64 (((List.range 64).filter (fun k => (s.curGang.readM a.toNat).getLsbD k)).length)) ∧
      OnlyWrites (.reg ⟨true, d⟩ true) (s.active g) false s.curGang H)) ∧
  (∀ (g : Grd) (a : BitVec 8) (s : State), s.clear (.waitm g a) = true → s.active g ≠ [] → noRep s.curGang = true →
    (∃ l < s.curGang.width, (s.curGang.readM a.toNat).getLsbD l = true ∧ l ∉ s.active g ∧ s.curGang.laneState l = .ready) →
    GangStep s (exec (.waitm g a) s) (fun H =>
      (∀ l ∈ s.active g, H.laneState l = .waiting (.mask a.toNat) ∧ H.pc l = s.cur.pc) ∧
      (∀ l ∈ s.runLanes, l ∉ s.active g → H.pc l = s.cur.pc + 8) ∧ (∀ l, l ∉ s.active g → H.laneState l = s.curGang.laneState l) ∧
      Moved { s.curGang with lst := H.lst, since := H.since } H))) ∧
  (∀ (G : Gang) (k : Nat), noRep G = true →
    ((∀ l < G.width, (G.readM k).getLsbD l = true → G.laneState l = .exited ∨ G.laneState l = .waiting (.mask k)) →
      (∀ l < G.width, G.laneState l = .waiting (.mask k) →
        (G.testMask k).laneState l = .ready ∧ (G.testMask k).pc l = G.pc l + 8 ∧ (G.testMask k).age l = 0) ∧
      (∀ l, G.laneState l ≠ .waiting (.mask k) → (G.testMask k).laneState l = G.laneState l ∧ (G.testMask k).pc l = G.pc l)) ∧
    ((∃ l < G.width, (G.readM k).getLsbD l = true ∧ G.laneState l ≠ .exited ∧ G.laneState l ≠ .waiting (.mask k)) →
      G.testMask k = G))

/-- R183, R185, R186, R188, R189: calls and returns whose frames all stay on the core, and `exit`; a return with no
frame, and a call past 1,024 frames, are CALLSTACK. -/
def Obligations.CallsKeepReturnAddresses : Prop :=
  ((∀ (i : Instr) (g : Grd) (target : Nat → W64) (s : State),
    ((∃ off, i = .call g off ∧ target = fun _ => s.cur.pc + off.signExtend 64 * 8) ∨ (∃ a, i = .callv g a ∧ target = s.curGang.rawOpd a true)) →
    s.clear i = true → noRep s.curGang = true → (∀ l ∈ s.runLanes, s.curGang.laneState l = .ready) →
    (∀ l ∈ s.curGang.liveLanes, s.curGang.callDepth l ≤ 4) → (∀ l ∈ s.active g, s.curGang.callDepth l < 4) →
    GangStep s (exec i s) (fun H =>
      (∀ l ∈ s.active g, H.pc l = target l ∧ H.callDepth l = s.curGang.callDepth l + 1 ∧
        H.slotOf (s.curGang.callDepth l + 1) l = s.cur.pc + 8) ∧
      (∀ l ∈ s.runLanes, l ∉ s.active g → H.pc l = s.cur.pc + 8) ∧
      (∀ l, l ∉ s.active g → H.callDepth l = s.curGang.callDepth l) ∧
      (∀ l ∈ s.curGang.liveLanes, l < 64 → ∀ j, 1 ≤ j → j ≤ s.curGang.callDepth l → H.slotOf j l = s.curGang.slotOf j l) ∧
      Moved { s.curGang with depth := H.depth, frames := H.frames } H)) ∧
  (∀ (g : Grd) (s : State), s.clear (.ret g) = true → noRep s.curGang = true →
    (∀ l ∈ s.runLanes, s.curGang.laneState l = .ready) → (∀ l ∈ s.curGang.liveLanes, s.curGang.callDepth l ≤ 4) →
    (∀ l ∈ s.active g, 0 < s.curGang.callDepth l) →
    GangStep s (exec (.ret g) s) (fun H =>
      (∀ l ∈ s.active g, H.pc l = s.curGang.slotOf (s.curGang.callDepth l) l ∧ H.callDepth l = s.curGang.callDepth l - 1) ∧
      (∀ l ∈ s.runLanes, l ∉ s.active g → H.pc l = s.cur.pc + 8) ∧
      (∀ l, l ∉ s.active g → H.callDepth l = s.curGang.callDepth l) ∧
      Moved { s.curGang with depth := H.depth, frames := H.frames } H)) ∧
  (∀ (g : Grd) (s : State), s.clear (.exit g) = true → (∀ l ∈ s.curGang.liveLanes, s.curGang.callDepth l ≤ 4) → s.active g ≠ [] →
    exitBusy s = false →
    ∃ t, exec (.exit g) s = .next t ∧ ∀ l ∈ s.active g, t.curGang.laneState l = .exited ∧
      (∀ r, t.curGang.readV l r = s.curGang.readV l r) ∧ (∀ k, t.curGang.readK l k = s.curGang.readK l k))) ∧
  ((∀ (g : Grd) (s : State), s.clear (.ret g) = true → (∃ l ∈ s.active g, s.curGang.callDepth l = 0) →
    exec (.ret g) s = .next (s.trapRun (trapAll (s.active g) 13 0 (.ret g)))) ∧
  (∀ (g : Grd) (off : BitVec 32) (s : State), s.clear (.call g off) = true → (∃ l ∈ s.active g, 1024 ≤ s.curGang.callDepth l) →
    exec (.call g off) s = .next (s.trapRun (trapAll (s.active g) 13 0 (.call g off)))) ∧
  (∀ (g : Grd) (a : Opd) (s : State), s.clear (.callv g a) = true → (∃ l ∈ s.active g, 1024 ≤ s.curGang.callDepth l) →
    exec (.callv g a) s = .next (s.trapRun (trapAll (s.active g) 13 0 (.callv g a)))))

/-! ### Memory words -/

/-- R155 to R157, R159, R163, R228: loads whose accesses all pass their checks and meet no error, and
prefetches: the results are those of the places that the checks name; loads from scratch: every lane gets the bytes at
its address, the gang's own queued stores first, extended from the access size, and nothing else of the state changes. -/
def Obligations.LoadsReadTheirPlaces : Prop :=
  ((∀ (i : Instr) (g : Grd) (la : BitVec 4) (m : MemOp) (sgn contig : Bool) (s : State), loadForm i = some (g, la, m, sgn, contig) →
    s.clear i = true →
    (let C := s.checkLanes s.cur.team s.cur.gang m.sp m.sz.bytes .read (lanePlaces s g m contig)
     let r := (C.st.later la C.locs).loadAll C.st.cur.team C.st.cur.gang m.sz.bytes sgn C.locs
     C.causes = [] → r.2.2 = [] →
       exec i s = .next (r.1.results (if r.2.1 = [] then 0 else la.toNat) m.dataRef.regs (vecWrites m.d.toNat (m.sz == .d) r.2.1) [] |>.mayReread la m true sgn C.locs))) ∧
  (∀ (i : Instr) (g : Grd) (la : BitVec 4) (m : MemOp) (sgn : Bool) (s : State), scalarLoadForm i = some (g, la, m, sgn) →
    s.clear i = true →
    (s.active g = [] → exec i s = .next (s.finish false)) ∧
    (∀ (l : Nat) (ls : List Nat), s.active g = l :: ls →
      (let C := s.checkLanes s.cur.team s.cur.gang m.sp m.sz.bytes .read [(l, laneAddr s.curGang m false l)]
       let r := (C.st.later la C.locs).loadAll C.st.cur.team C.st.cur.gang m.sz.bytes sgn C.locs
       C.causes = [] → r.2.2 = [] →
         exec i s = .next (r.1.results (if r.2.1 = [] then 0 else la.toNat) [.s m.d.toNat] (r.2.1.map (fun v => .s m.d.toNat v.2)) [] |>.mayReread la m false sgn C.locs)))) ∧
  (∀ (g : Grd) (m : MemOp) (s : State), s.clear (.prf g m) = true →
    exec (.prf g m) s = .next (((lanePlaces s g m false).foldl (fun s q => s.prefetchLane m q.2) s).finish false))) ∧
  ((∀ (i : Instr) (g : Grd) (la : BitVec 4) (m : MemOp) (sgn contig : Bool) (s : State), loadForm i = some (g, la, m, sgn, contig) →
    s.clear i = true → m.sp = .scratch → s.misses = none →
    (∀ l ∈ s.active g, goodScratch s m.sz.bytes (laneAddr s.curGang m contig l)) →
    exec i s = .next (s.results (if s.active g = [] then 0 else la.toNat) m.dataRef.regs (vecWrites m.d.toNat (m.sz == .d) ((s.active g).map (fun l =>
      (l, extendBytes sgn (scratchBytes s (laneAddr s.curGang m contig l).toNat m.sz.bytes))))) [])) ∧
  (∀ (i : Instr) (g : Grd) (la : BitVec 4) (m : MemOp) (sgn : Bool) (s : State) (l : Nat) (ls : List Nat),
    scalarLoadForm i = some (g, la, m, sgn) → s.clear i = true → m.sp = .scratch → s.misses = none → s.active g = l :: ls →
    goodScratch s m.sz.bytes (laneAddr s.curGang m false l) →
    exec i s = .next (s.results la.toNat [.s m.d.toNat]
      [.s m.d.toNat (extendBytes sgn (scratchBytes s (laneAddr s.curGang m false l).toNat m.sz.bytes))] [])))

/-- R83, R85, R258, R389: results that are delivered at once are in their registers after the word; results with a
window are pending, and every register of the gang is as before; the data of a pending load, atomic or special
function arrives: its registers are written, and nothing else of the state changes; a plain load may read its places at that moment. -/
def Obligations.ResultsArriveAtOnceOrPending : Prop :=
  (∀ (s : State) (la : Nat) (regs : List Reg) (ws : List RegWrite) (fl : Tbl Flg),
    (la = 0 → GangStep s (.next (s.results la regs ws fl)) (fun H =>
      SameRegs (s.curGang.applyWrites ws) H ∧ (noRep s.curGang = true → ∀ l ∈ s.runLanes, H.pc l = s.cur.pc + 8))) ∧
    (la ≠ 0 → ∃ H, s.results la regs ws fl = { s.setCur H with nextId := s.nextId + 1, misses := none } ∧ SameRegs s.curGang H ∧
      ∃ p ∈ H.pend, p.id = s.nextId ∧ p.regs = regs ∧ p.writes = ws ∧ p.done = false ∧ p.flags = fl ∧
        ∀ l ∈ s.runLanes, tget 0 p.left l = la)) ∧
  (∀ (s : State) (t g id : Nat) (p : Pend), (s.gang t g).pend.find? (fun q => decide (q.id = id)) = some p → p.kind = .data →
    p.done = false → p.ecc = none →
    ∃ s0 ws H, ((s0 = s ∧ ws = p.writes ∧ p.again = none) ∨ (s0 = { s with fuel := s.fuel + 1 } ∧ ∃ r, p.again = some r ∧
        (ws = p.writes ∨ ws = r.writes s0 (s.gang t g)))) ∧
      exec (.loadDataReturn t g id) s = .next ((s0.setGang t g H).chargeMisses p.misses) ∧ SameRegs ((s.gang t g).applyWrites ws) H ∧
      H.pcs = (s.gang t g).pcs ∧ (∀ q ∈ H.pend, q.id = id → q.done = true ∧ q.writes = []) ∧
      { H with pool := (s.gang t g).pool, s := (s.gang t g).s, bad := (s.gang t g).bad, pend := (s.gang t g).pend } = s.gang t g)

/-- R162: gathers and scatters go on by one lane: the lane's registers or bytes are done, and PIDX is past it, or zero after the
last lane, when the word ends. -/
def Obligations.GathersGoLaneByLane : Prop :=
  (∀ (i : Instr) (g : Grd) (la : BitVec 4) (m : MemOp) (sgn : Bool) (s : State) (l : Nat) (ls : List Nat),
    gatherForm i = some (g, la, m, sgn) → s.clear i = true → m.sp = .scratch → s.lanesLeft g = l :: ls →
    goodScratch s m.sz.bytes (laneAddr s.curGang m false l) →
    (let x := extendBytes sgn (scratchBytes s (laneAddr s.curGang m false l).toNat m.sz.bytes)
     let G := s.curGang.applyWrites (vecWrites m.d.toNat (m.sz == .d) [(l, x)])
     (ls ≠ [] → GangStep s (exec i s) (fun H => SameRegs G H ∧ H.pidx = BitVec.ofNat 64 (l + 1) ∧ H.pcs = G.pcs ∧ H.prog.isSome = true)) ∧
     (ls = [] → la = 0 → noRep s.curGang = true → GangStep s (exec i s) (fun H => SameRegs G H ∧ H.pidx = 0 ∧
       (∀ l ∈ s.runLanes, H.pc l = s.cur.pc + 8) ∧ H.prog = none)))) ∧
  (∀ (i : Instr) (g : Grd) (la : BitVec 4) (m : MemOp) (sgn : Bool) (s : State), gatherForm i = some (g, la, m, sgn) →
    s.clear i = true → s.lanesLeft g = [] →
    exec i s = .next ((s.setCur { s.curGang with pidx := 0 }).finish false)) ∧
  (∀ (g : Grd) (m : MemOp) (s : State) (l : Nat) (ls : List Nat), s.clear (.scat g m) = true → m.sp = .scratch →
    (s.curGang.prog.isSome = true ∨ storeBusy s m = false) → s.lanesLeft g = l :: ls →
    goodScratch s m.sz.bytes (laneAddr s.curGang m false l) →
    (let w : Write := ⟨.scratch s.cur.team, (laneAddr s.curGang m false l).toNat, storeData s.curGang m l⟩
     let q := (s.curGang.extendQueue s.curGang.prog.isSome [w]).queue
     (ls ≠ [] → GangStep s (exec (.scat g m) s) (fun H =>
       SameRegs s.curGang H ∧ H.queue = q ∧ H.pidx = BitVec.ofNat 64 (l + 1) ∧ H.pcs = s.curGang.pcs)) ∧
     (ls = [] → noRep s.curGang = true → GangStep s (exec (.scat g m) s) (fun H =>
       SameRegs s.curGang H ∧ H.queue = q ∧ H.pidx = 0 ∧ ∀ l ∈ s.runLanes, H.pc l = s.cur.pc + 8))))

/-- R157, R159, R226 to R228, R310: a store whose accesses pass their checks puts one entry, the bytes of every lane
in order, into the gang's store queue; memory and scratch do not change yet; the oldest entry of a queue leaves:
scratch bytes are in scratch; a store of memory goes to an exclusive line of the core at once, and otherwise travels
to its home slice, where its bytes, and no others, change memory. -/
def Obligations.StoresReachTheirPlaces : Prop :=
  ((∀ (i : Instr) (g : Grd) (m : MemOp) (contig : Bool) (s : State), storeForm i = some (g, m, contig) → s.clear i = true →
    storeBusy s m = false →
    (let C := s.checkLanes s.cur.team s.cur.gang m.sp m.sz.bytes .write (lanePlaces s g m contig)
     C.causes = [] → exec i s = .next ((C.st.enqueue C.st.cur.team C.st.cur.gang
       (C.locs.flatMap (fun q => locWrite C.st.cur.team q.2 (storeData C.st.curGang m q.1)))).finish false))) ∧
  (∀ (i : Instr) (g : Grd) (m : MemOp) (contig : Bool) (s : State), storeForm i = some (g, m, contig) → s.clear i = true →
    storeBusy s m = false → m.sp = .scratch → s.active g ≠ [] →
    (∀ l ∈ s.active g, 0 ≤ laneAddr s.curGang m contig l ∧ laneAddr s.curGang m contig l < s.curTeam.launch.scratchSpace ∧
      (laneAddr s.curGang m contig l).toNat % m.sz.bytes = 0) →
    GangStep s (exec i s) (fun H => SameRegs s.curGang H ∧ H.queue = s.curGang.queue ++
      [(s.active g).map (fun l => (⟨.scratch s.cur.team, (laneAddr s.curGang m contig l).toNat, storeData s.curGang m l⟩ : Write))])) ∧
  (∀ (g : Grd) (m : MemOp) (s : State), s.clear (.sts g m) = true → storeBusy s m = false →
    (s.active g = [] → exec (.sts g m) s = .next (s.finish false)) ∧
    (∀ (l : Nat) (ls : List Nat), s.active g = l :: ls →
      (let C := s.checkLanes s.cur.team s.cur.gang m.sp m.sz.bytes .write [(l, laneAddr s.curGang m false l)]
       C.causes = [] → exec (.sts g m) s = .next ((C.st.enqueue C.st.cur.team C.st.cur.gang (C.locs.flatMap (fun q =>
         locWrite C.st.cur.team q.2 (bytesOfNum m.sz.bytes (C.st.curGang.readS m.d.toNat).toNat)))).finish false))))) ∧
  ((∀ (s : State) (t g a : Nat) (bs : List Byte) (rest : List SqEntry), (s.gang t g).queue = [⟨.scratch t, a, bs⟩] :: rest → s.drainHeld t g = false →
    ∃ u, exec (.storeQueueDrain t g) s = .next u ∧ u.mem = s.mem ∧ (u.gang t g).queue = rest ∧
      (∀ k (h : k < bs.length), readByte (u.team t).scratch (a + k) = bs[k]) ∧
      (∀ b, b < a ∨ a + bs.length ≤ b → readByte (u.team t).scratch b = readByte (s.team t).scratch b)) ∧
  (∀ (s : State) (t g a : Nat) (bs : List Byte) (rest : List SqEntry), (s.gang t g).queue = [⟨.mem, a, bs⟩] :: rest →
    bs ≠ [] → (∀ k < bs.length, lineOf (a + k) = lineOf a) → s.drainHeld t g = false →
    (s.isLocal (lineOf a * 128) = true → s.ownsLine (s.gang t g).core (lineOf a) = true →
      (∀ c, ∀ w ∈ (s.core c).out, w.line ≠ lineOf a) →
      ∃ u, exec (.storeQueueDrain t g) s = .next u ∧ (u.gang t g).queue = rest ∧
        (∀ k (h : k < bs.length), readByte u.mem (a + k) = bs[k]) ∧
        (∀ b, b < a ∨ a + bs.length ≤ b → readByte u.mem b = readByte s.mem b)) ∧
    ((s.isLocal (lineOf a * 128) && s.ownsLine (s.gang t g).core (lineOf a)) = false →
      ∃ u, exec (.storeQueueDrain t g) s = .next u ∧ (u.gang t g).queue = rest ∧ u.mem = s.mem ∧
        (u.core (s.gang t g).core).out = (s.core (s.gang t g).core).out ++ [⟨s.nextId, (s.team t).ctx, lineOf a, cellsAt a bs⟩])) ∧
  (∀ (s : State) (core idx : Nat) (w : OutWrite), (s.core core).out[idx]? = some w →
    (∀ v ∈ (s.core core).out, v.id = w.id → v = w) → s.flying w.id = false → s.behind core w = false →
    s.isLocal (w.line * 128) = true → (s.slice (homeOf (w.line * 128))).accept = [] →
    ∃ u, exec (.sliceWriteRequest core idx) s = .next u ∧ u.mem = putCells s.mem w.cells ∧
      (u.core core).out = (s.core core).out.filter (fun v => decide (v.id ≠ w.id))))

/-! ### Barriers, waits, fences and atomics -/

/-- R232 to R236: barrier words: arrivals, waits and counted bytes; a barrier that has changed is tested when the cycle ends, and
one of a resident team flips when the count that it expects has arrived and no bytes are pending: its phase changes, its
counts are zero, and the lanes that wait on it go on at the next word, those of the follower's core after 0 to 4 core
cycles; otherwise nothing changes. -/
def Obligations.BarriersCountArrivalsAndFlip : Prop :=
  ((∀ (g : Grd) (n : BitVec 8) (c : Option (BitVec 8)) (s : State), s.clear (.barSync g n c) = true → s.active g ≠ [] →
    (∀ r ∈ c, 1 ≤ (s.curGang.readS r.toNat).toNat ∧ (s.curGang.readS r.toNat).toNat ≤ 16) →
    s.storesPending s.cur.team s.cur.gang .team = false →
    exec (.barSync g n c) s = .next (((s.arrive n.toNat (s.active g) (c.map (fun r => (s.curGang.readS r.toNat).toNat))).park
      (s.active g) (fun _ => .bar n.toNat)).askFlip s.cur.team n.toNat)) ∧
  (∀ (g : Grd) (n : BitVec 8) (c : Option (BitVec 8)) (s : State), s.clear (.barArv g n c) = true → s.active g ≠ [] →
    (∀ r ∈ c, 1 ≤ (s.curGang.readS r.toNat).toNat ∧ (s.curGang.readS r.toNat).toNat ≤ 16) →
    s.storesPending s.cur.team s.cur.gang .team = false →
    exec (.barArv g n c) s = .next (((s.arrive n.toNat (s.active g) (c.map (fun r => (s.curGang.readS r.toNat).toNat))).finish
      true).askFlip s.cur.team n.toNat)) ∧
  (∀ (g : Grd) (n : BitVec 8) (s : State), s.clear (.barWait g n) = true →
    ((s.bar s.cur.team n.toNat).ph = tget 0 (s.bar s.cur.team n.toNat).pg s.cur.gang →
      exec (.barWait g n) s = .next (s.park (s.active g) (fun _ => .bar n.toNat))) ∧
    ((s.bar s.cur.team n.toNat).ph ≠ tget 0 (s.bar s.cur.team n.toNat).pg s.cur.gang →
      exec (.barWait g n) s = .next (s.finish true))) ∧
  (∀ (g : Grd) (n b : BitVec 8) (s : State), s.clear (.barBytes g n b) = true → s.active g ≠ [] →
    exec (.barBytes g n b) s =
      .next ((s.finish true).addPend s.cur.team n.toNat ((s.curGang.readS b.toNat).setWidth 32)))) ∧
  (∀ (s : State) (t n : Nat),
    (let B := s.bar t n
     let e := if B.exp ≠ 0 then B.exp else ((s.team t).gangs.filter (fun p => !p.2.finished)).length
     (s.barTests = [(t, n)] → s.settleBars = ({ s with barTests := [] } : State).tryFlip t n) ∧
     (¬(1 ≤ e ∧ e ≤ B.arr.toNat ∧ B.pend = 0) → s.tryFlip t n = s) ∧
     (1 ≤ e → e ≤ B.arr.toNat → B.pend = 0 → (s.team t).onDie = true →
       (s.tryFlip t n).bar t n = { B with ph := 1 - B.ph, arr := 0, exp := 0 } ∧
       (∀ p ∈ (s.team t).gangs, (∀ q ∈ (s.team t).gangs, q.1 = p.1 → q = p) → noRep p.2 = true → ∀ l < p.2.width,
         (let H := (s.tryFlip t n).gang t p.1
          let now := (s.quarter (quarterOfCore p.2.core)).cyc
          (p.2.laneState l = .waiting (.bar n) → (H.laneState l = .ready ∧ H.pc l = p.2.pc l + 8) ∨
            (p.2.core ≠ (s.team t).core ∧ H.pc l = p.2.pc l ∧
              ∃ c, now + 1 < c ∧ c ≤ now + 5 ∧ H.laneState l = .waiting (.delayed c))) ∧
          (p.2.laneState l ≠ .waiting (.bar n) → H.laneState l = p.2.laneState l ∧ H.pc l = p.2.pc l))))))

/-- R237, R239, R242: waits on a word of scratch: a lane whose word differs goes on, the others wait; `wait.t` writes its
predicate, and a time of zero waits for nothing; a fence completes when no earlier store that it orders is pending,
and is Held until then. -/
def Obligations.WaitsAndFencesHold : Prop :=
  ((∀ (g : Grd) (wide : Bool) (a b : Opd) (s : State), s.clear (.waitA g wide true a b) = true → noRep s.curGang = true →
    (∀ l ∈ s.active g, goodScratch s (waitWidth wide) (waitAddr s.curGang true a l)) →
    (let same (l : Nat) : Prop :=
       numOfBytes (scratchBytes s (waitAddr s.curGang true a l).toNat (waitWidth wide)) = waitExpected s.curGang wide b l
     GangStep s (exec (.waitA g wide true a b) s) (fun H =>
       (∀ l ∈ s.active g, same l → H.laneState l = .waiting (.memory true ((waitAddr s.curGang true a l).toNat / 128) none none) ∧
         H.pc l = s.cur.pc) ∧
       (∀ l ∈ s.runLanes, ¬(l ∈ s.active g ∧ same l) → H.pc l = s.cur.pc + 8 ∧ H.laneState l = s.curGang.laneState l) ∧
       SameRegs s.curGang H))) ∧
  (∀ (g : Grd) (wide : Bool) (d : BitVec 8) (a b : Opd) (c : BitVec 8) (s : State), s.clear (.waitT g wide true d a b c) = true →
    noRep s.curGang = true → (∀ l ∈ s.active g, goodScratch s (waitWidth wide) (waitAddr s.curGang true a l)) →
    (let same (l : Nat) : Prop :=
       numOfBytes (scratchBytes s (waitAddr s.curGang true a l).toNat (waitWidth wide)) = waitExpected s.curGang wide b l
     GangStep s (exec (.waitT g wide true d a b c) s) (fun H =>
       (∀ l ∈ s.active g, ¬same l → H.readK l d.toNat = true ∧ H.pc l = s.cur.pc + 8) ∧
       (∀ l ∈ s.active g, same l → s.curGang.readS c.toNat = 0 → H.readK l d.toNat = false ∧ H.pc l = s.cur.pc + 8) ∧
       (∀ l ∈ s.active g, same l → s.curGang.readS c.toNat ≠ 0 → H.pc l = s.cur.pc ∧
         H.laneState l = .waiting (.memory true ((waitAddr s.curGang true a l).toNat / 128) (some d.toNat)
           (some (s.time + (s.curGang.readS c.toNat).toNat)))) ∧
       H.pool = s.curGang.pool ∧ H.s = s.curGang.s ∧ H.m = s.curGang.m))) ∧
  (∀ (s : State) (t g l k b dl : Nat) (scr : Bool), (s.gang t g).laneState l = .waiting (.memory scr b (some k) (some dl)) →
    dl < s.time → (s.team t).onDie = true → k < 16 → noRep (s.gang t g) = true →
    ∃ H, exec (.waitTTimeout t g l) s = .next (s.setGang t g H) ∧ H.laneState l = .ready ∧ H.pc l = (s.gang t g).pc l + 8 ∧
      H.readK l k = false ∧ H.pool = (s.gang t g).pool ∧ H.s = (s.gang t g).s)) ∧
  (∀ (g : Grd) (y : Scope) (s : State), s.clear (.fence g y) = true →
    (s.active g = [] ∨ s.storesPending s.cur.team s.cur.gang y = false → exec (.fence g y) s = .next (s.finish false)) ∧
    (s.active g ≠ [] → s.storesPending s.cur.team s.cur.gang y = true → exec (.fence g y) s = .next { s with note := .held }))

/-- R243 to R245: atomics whose accesses pass their checks, once the earlier stores of the gang have left its queue: every
lane in order reads and writes its word, and the old values are the results; one atomic on this package's memory: its
result is the old value, its word takes the new one, and no other byte changes. -/
def Obligations.AtomicsReadAndWriteAsOneStep : Prop :=
  (∀ (i : Instr) (wide : Bool) (g : Grd) (la : BitVec 4) (op : AtomOp) (ord : AtomOrd) (y : Scope) (sgn : Bool) (d a b c : Opd)
    (s : State),
    (i = .atom32 g la op ord y sgn d a b c ∧ wide = false) ∨ (i = .atom64 g la op ord y sgn d a b c ∧ wide = true) →
    s.clear i = true → (atomRel ord = false ∨ s.storesPending s.cur.team s.cur.gang y = false) →
    (let t : ITy := if wide then .n64 else .n32
     let C := s.checkLanes s.cur.team s.cur.gang .glob (waitWidth wide) .readWrite
       ((if d.sc then (s.active g).take 1 else s.active g).map (fun l => (l, waitAddr s.curGang false a l)))
     let r := (C.st.later la C.locs).atomAll (waitWidth wide) C.locs
       (fun l x => atomOp op (8 * waitWidth wide) sgn x (C.st.curGang.readOp b t l).toNat (C.st.curGang.readOp c t l).toNat)
     C.causes = [] → (C.locs = [] ∨ C.st.curGang.queue = []) → (∀ q ∈ C.locs, C.st.lineHeld C.st.curGang.core q.2 = false) →
       C.st.badAtoms (waitWidth wide) C.locs = [] → r.2.2 = [] →
       exec i s = .next (r.1.results (if r.2.1 = [] then 0 else la.toNat) (d.ref wide).regs
         (if d.sc then r.2.1.map (fun v => .s d.n.toNat v.2) else vecWrites d.n.toNat wide r.2.1) []))) ∧
  (∀ (s : State) (core ctx pa n : Nat) (f : Nat → Nat), s.isLocal pa = true → (s.slice (homeOf pa)).accept = [] →
    (∀ c, (s.core c).out = []) → poisoned s.poison pa n = false →
    (s.atomicAt core ctx pa n f).2 = (readNum s.mem pa n, false) ∧
    readNum (s.atomicAt core ctx pa n f).1.mem pa n = f (readNum s.mem pa n) % 256 ^ n ∧
    ∀ b, b < pa ∨ pa + n ≤ b → readByte (s.atomicAt core ctx pa n f).1.mem b = readByte s.mem b)

/-! ### Copies and the Ladle -/

/-- R246 to R250, R253, R254: the words that hand work to the copy engine and the Ladle. -/
def Obligations.EngineWordsEnterTheirQueues : Prop :=
  (∀ (i : Instr) (g : Grd) (q : BitVec 2) (a b c : BitVec 8) (x : Option (BitVec 8)) (srcScr dstScr : Bool) (s : State),
    (i = .cpGs g q a b c x ∧ srcScr = false ∧ dstScr = true) ∨ (i = .cpSg g q a b c x ∧ srcScr = true ∧ dstScr = false) ∨
      (i = .cpGg g q a b c x ∧ srcScr = false ∧ dstScr = false) →
    s.clear i = true → s.active g ≠ [] →
    (let G := s.curGang
     let desc := x.map (fun r => G.readS r.toNat)
     copyCause s.curTeam.launch srcScr dstScr (G.readS a.toNat) (G.readS b.toNat) (G.readS c.toNat) desc = none →
     s.queueFault G.core q.toNat = none → queueClosed s q.toNat = false → G.queue = [] →
     exec i s = .next (({ s.modCopyQ G.core q.toNat (fun Q => { Q with entries := Q.entries ++ [.copy s.nextId s.cur.team s.cur.gang
       G.level srcScr dstScr (G.readS a.toNat) (G.readS b.toNat) (G.readS c.toNat).toNat desc] })
       with nextId := s.nextId + 1 } : State).finish false))) ∧
  (∀ (g : Grd) (y : Scope) (mask : BitVec 8) (x : Option (BitVec 8)) (s : State), s.clear (.cpFence g y mask x) = true →
    s.active g ≠ [] →
    (∀ r ∈ x, ((s.curGang.readS r.toNat).setWidth 32).toNat + 4 ≤ s.curTeam.launch.scratchSpace ∧
      ((s.curGang.readS r.toNat).setWidth 32).toNat % 4 = 0) →
    (∀ q < 4, mask.getLsbD q = true →
      s.queueFault s.curGang.core q = none ∧ queueClosed s q = false) →
    ∃ t, exec (.cpFence g y mask x) s = .next t ∧ t.mem = s.mem ∧ t.curGang.fenceId = s.nextId ∧ ∀ q < 4,
      (t.copyQ s.curGang.core q).entries = if mask.getLsbD q
        then (s.copyQ s.curGang.core q).entries ++
          [.fence s.nextId s.cur.team s.cur.gang y mask.toNat (x.map (fun r => s.curGang.readS r.toNat))]
        else (s.copyQ s.curGang.core q).entries) ∧
  (∀ (g : Grd) (d : BitVec 8) (s : State), s.clear (.cpPoll g d) = true →
    (∀ q < 4, (s.copyQ s.curGang.core q).held s.time ≤ 16) → Writes s (exec (.cpPoll g d) s) (fun H =>
    (s.active g ≠ [] → ∀ q < 4, ((H.readS d.toNat).extractLsb' (16 * q) 16) =
      BitVec.ofNat 16 ((s.copyQ s.curGang.core q).held s.time + (if (s.copyQ s.curGang.core q).faults = [] then 0 else 2 ^ 14))) ∧
    OnlyWrites (.reg ⟨true, d⟩ true) (s.active g) false s.curGang H)) ∧
  (∀ (g : Grd) (n a b : BitVec 8) (s : State), s.clear (.lfillBar g n a b) = true → s.active g ≠ [] →
    lfillCause (s.curGang.readS a.toNat) (s.curGang.readS b.toNat) = none → ladleBusy s = false →
    exec (.lfillBar g n a b) s = .next ((s.enterLadle (s.curGang.readS a.toNat) (s.curGang.readS b.toNat).toNat
      (.bar s.cur.team n.toNat)).finish false)) ∧
  (∀ (g : Grd) (d a b c : BitVec 8) (s s1 : State) (l pa : Nat) (ls : List Nat), s.clear (.lfillTok g d a b c) = true →
    s.active g = l :: ls → lfillCause (s.curGang.readS a.toNat) (s.curGang.readS b.toNat) = none →
    s.checkAccess s.cur.team s.cur.gang .glob ((s.curGang.readS c.toNat).toNat : Int) 4 .write = (s1, .ok (.mem pa)) →
    ladleBusy s1 = false →
    exec (.lfillTok g d a b c) s = .next ((s1.enterLadle (s.curGang.readS a.toNat) (s.curGang.readS b.toNat).toNat
      (.tok pa ((s.curGang.readS d.toNat).setWidth 32))).finish false))

/-- R246 to R249, R253, R254: the oldest entry of a copy queue, and a command of the Ladle, complete: a fence leaves every queue
that it stands in, a copy that reached its end leaves its queue and writes its completion word, a fill ends its command; the
commands accepted before it have run. -/
def Obligations.EnginesCompleteTheirWork : Prop :=
  (∀ (s s1 : State) (core q id t g level len : Nat) (a b : Bool) (src dst : W64) (desc : Option W64) (rest : List CopyEntry),
    (s.copyQ core q).entries = .copy id t g level a b src dst len desc :: rest →
    State.copyUnits core t g level a b (len / 16) s src dst (!(s.copyQ core q).begun) = (s1, .done) →
    exec (.copyEntryComplete core q) s = .next ((((s1.writeDesc t desc).modCopyQ core q (fun Q =>
      { Q.leave s.time (fun e => decide (e.id ≠ id)) with missing := none, begun := false })).enterCopies core).returnMeter core
        (s.team t).ctx)) ∧
  (∀ (s : State) (core q t g id mask : Nat) (y : Scope) (desc : Option W64) (rest : List CopyEntry),
    (s.copyQ core q).entries = .fence id t g y mask desc :: rest →
    (s.storesPending t g y = false → (∀ p < 4, mask.testBit p = true → s.fenceReady core t id p = true) →
      exec (.copyEntryComplete core q) s = .next ((((maskQueues mask).foldl (fun s p => s.modCopyQ core p (fun Q =>
        Q.leave s.time (fun e => !isFence id e))) (s.writeDesc t desc)).enterCopies core).returnMeter core (s.team t).ctx)) ∧
    (s.storesPending t g y = true → exec (.copyEntryComplete core q) s = .next s)) ∧
  (∀ (s : State) (die idx : Nat) (c : FillCmd), (s.dieOf die).ladle[idx]? = some c →
    (let s1 := (((s.dieOf die).ladle.take (idx + 1)).foldl (fun (s : State) c => if c.ran then s
       else (List.range ((c.addr.toNat % 128 + c.len + 127) / 128)).foldl (fun s k =>
         s.fillLine c (c.addr - BitVec.ofNat 64 (c.addr.toNat % 128) + BitVec.ofNat 64 (128 * k))) s) s).modDie die
       (fun D => { D with ladle := ((D.ladle.take idx).map (fun c => { c with ran := true })) ++ D.ladle.drop (idx + 1) })
     exec (.lfillComplete die idx) s = .next ((match c.fin with
       | .bar t b => s1.subPend t b (BitVec.ofNat 32 c.len)
       | .tok pa x => s1.writeHome c.core c.ctx (lineOf pa) (cellsAt pa ((List.range 4).map (fun i => x.extractLsb' (8 * i) 8)))).returnMeter c.core c.ctx)))

/-! ### Tiles and accumulators -/

/-- R197, R199, R208 to R210, R235: tile words whose operands pass their checks; when every byte of a `tldg` has
landed the tile is ready, and its counted bytes leave the barrier that it names. -/
def Obligations.TileWordsMoveTiles : Prop :=
  ((∀ (g : Grd) (d a : BitVec 8) (s : State), s.clear (.tcfg g d a) = true → s.active g ≠ [] →
    tcfgLegal (s.curGang.readS a.toNat) = true → s.tileBusy s.cur.team (curFollower s) d.toNat = false →
    exec (.tcfg g d a) s = .next ((s.modTile d.toNat (fun x => { x with
      rows := ((s.curGang.readS a.toNat).extractLsb' 0 7).toNat, rlen := ((s.curGang.readS a.toNat).extractLsb' 16 8).toNat,
      ew := ((s.curGang.readS a.toNat).extractLsb' 24 2).toNat, rdy := true })).finish false)) ∧
  (∀ (g : Grd) (la : BitVec 4) (sc : Bool) (d a b c : BitVec 8) (s : State), s.clear (.tld g la sc d a b c) = true →
    s.active g ≠ [] → s.curGang.queue = [] → s.tileBusy s.cur.team (curFollower s) d.toNat = false →
    (let x := s.curTeam.tile (tileKey (curFollower s) d.toNat)
     let base := s.curGang.readS a.toNat
     let pitch := s.curGang.readS b.toNat
     let segs := tileSegs x base pitch (s.curGang.readS c.toNat) sc
     tileCause s.curTeam.launch true x base pitch sc segs = none →
     (∀ q ∈ segs, poisoned s.curTeam.poison q.addr.toNat q.len = false) →
     ∃ t, exec (.tld g la sc d a b c) s = .next t ∧ t.mem = s.mem ∧ t.curTeam.scratch = s.curTeam.scratch ∧
       (t.curTeam.tile (tileKey (curFollower s) d.toNat)).rdy = true ∧
       ∀ r < x.rows, ∀ k < x.rlen, readByte (t.curTeam.tile (tileKey (curFollower s) d.toNat)).data (r * x.rlen + k) =
         readByte s.curTeam.scratch (base.toNat + r * pitch.toNat + k))) ∧
  (∀ (g : Grd) (la : BitVec 4) (sc : Bool) (bar : Option (BitVec 4)) (d a b c : BitVec 8) (s s1 : State)
    (bs : List (Seg × List Byte)), s.clear (.tldg g la sc bar d a b c) = true → s.active g ≠ [] →
    (let x := s.curTeam.tile (tileKey (curFollower s) d.toNat)
     let segs := tileSegs x (s.curGang.readS a.toNat) (s.curGang.readS b.toNat) (s.curGang.readS c.toNat) sc
     let ps := sortBy (fun p q : Seg => decide (p.addr ≤ q.addr)) (segs.flatMap Seg.pieces)
     let C := s.checkLanes s.cur.team s.cur.gang .glob 1 .read ((List.range ps.length).zip (ps.map (·.addr)))
     tileCause s.curTeam.launch false x (s.curGang.readS a.toNat) (s.curGang.readS b.toNat) sc segs = none → C.causes = [] →
     C.st.tileBusy C.st.cur.team (curFollower C.st) d.toNat = false → C.st.curGang.queue = [] →
     C.st.fenced C.st.cur.team C.st.cur.gang = false →
     C.st.holdMisses.readPieces s.curGang.core C.st.curTeam.ctx C.st.cur.team (ps.zip (C.locs.map (·.2))) = (s1, bs, none) →
     exec (.tldg g la sc bar d a b c) s = .next ((s1.modTile d.toNat (fun _ => { bs.foldl (fun x q => x.land q.1 q.2) x with
       rdy := false, busy := some s1.nextId, ecc := false })).openWindow la.toNat [.t d.toNat] (.tile d.toNat (bar.map (·.toNat))
         (x.rows * x.rlen + (if sc then x.rows * (x.rlen / tileKbb x.ew) else 0))) [] [] none))) ∧
  (∀ (g : Grd) (sc : Bool) (d a b c : BitVec 8) (s : State), s.clear (.tst g sc d a b c) = true → s.active g ≠ [] →
    (let x := s.curTeam.tile (tileKey (curFollower s) d.toNat)
     let segs := tileSegs x (s.curGang.readS a.toNat) (s.curGang.readS b.toNat) (s.curGang.readS c.toNat) sc
     tileCause s.curTeam.launch true x (s.curGang.readS a.toNat) (s.curGang.readS b.toNat) sc segs = none →
     s.curGang.queue.length + (rowGroups x.rows segs).length ≤ 32 → x.rdy = true → x.ecc = false →
     exec (.tst g sc d a b c) s = .next (((rowGroups x.rows segs).foldl (fun s p => s.enqueue s.cur.team s.cur.gang (p.map (fun q =>
       (⟨.scratch s.cur.team, q.addr.toNat, readBytes (if q.side then x.side else x.data) q.off q.len⟩ : Write)))) s).finish false))) ∧
  (∀ (g : Grd) (d : BitVec 8) (s : State), s.clear (.tzero g d) = true → s.active g ≠ [] →
    s.tileBusy s.cur.team (curFollower s) d.toNat = false →
    ∃ t, exec (.tzero g d) s = .next t ∧ t.mem = s.mem ∧
      (let x := s.curTeam.tile (tileKey (curFollower s) d.toNat)
       let y := t.curTeam.tile (tileKey (curFollower s) d.toNat)
       (∀ k, readByte y.data k = 0) ∧ (∀ k < 512, readByte y.side k = 127) ∧ y.rdy = true ∧ y.rows = x.rows ∧ y.rlen = x.rlen ∧
         y.ew = x.ew)) ∧
  (∀ (g : Grd) (d a b : BitVec 8) (s : State), s.clear (.tmov g false d a b) = true → s.active g ≠ [] →
    (let x := s.curTeam.tile (tileKey (curFollower s) d.toNat)
     let base := (s.curGang.readS b.toNat).toNat
     (∀ l ∈ s.active g, base + 4 * l + 4 ≤ x.rows * x.rlen) → base % 4 = 0 →
     s.tileBusy s.cur.team (curFollower s) d.toNat = false →
     ∃ t, exec (.tmov g false d a b) s = .next t ∧ t.mem = s.mem ∧
       (∀ l ∈ s.active g, readNum (t.curTeam.tile (tileKey (curFollower s) d.toNat)).data (base + 4 * l) 4 =
         (s.curGang.readV l a.toNat).toNat) ∧
       (∀ k, (∀ l ∈ s.active g, k < base + 4 * l ∨ base + 4 * l + 4 ≤ k) →
         readByte (t.curTeam.tile (tileKey (curFollower s) d.toNat)).data k = readByte x.data k))) ∧
  (∀ (g : Grd) (d a b : BitVec 8) (s : State), s.clear (.tmov g true d a b) = true → s.active g ≠ [] →
    (let x := s.curTeam.tile (tileKey (curFollower s) d.toNat)
     let base := (s.curGang.readS b.toNat).toNat
     (∀ l ∈ s.active g, base + 4 * l + 4 ≤ x.rows * 8) → base % 4 = 0 → s.tileBusy s.cur.team (curFollower s) d.toNat = false →
     ∃ t, exec (.tmov g true d a b) s = .next t ∧ t.mem = s.mem ∧
       ∀ l ∈ s.active g, readNum (t.curTeam.tile (tileKey (curFollower s) d.toNat)).side (base + 4 * l) 4 =
         (s.curGang.readV l a.toNat).toNat))) ∧
  (∀ (s : State) (t g id n bytes : Nat) (bar : Option Nat) (p : Pend),
    (s.gang t g).pend.find? (fun q => decide (q.id = id) && !q.done) = some p → p.kind = .tile n bar bytes →
    (let k := tileKey (onFollower (s.team t) (s.gang t g)) n
     let s1 := (s.setTeam t (((s.team t).setGang g ((s.gang t g).complete id)).setTile k
       { (s.team t).tile k with rdy := true, busy := none })).chargeMisses p.misses
     exec (.tldgLanding t g id) s = .next (match bar with
       | some b => s1.subPend t b (BitVec.ofNat 32 bytes)
       | none => s1)))

/-- R200, R201, R219 to R221: words on accumulators and on the boundary between them and the vector registers. -/
def Obligations.AccumulatorWordsReadAndWrite : Prop :=
  (∀ (g : Grd) (d : BitVec 8) (s : State), s.clear (.czero g d) = true → s.active g ≠ [] → s.curGang.width ∈ [16, 32, 64] →
    Writes s (exec (.czero g d) s) (fun H =>
      (∀ i < 32, ∀ j < 32, H.readAcc s.curTeam.launch d.toNat i j = 0) ∧
      OnlyTouches (fun _ r => decide (accReg s.curTeam.launch s.curGang.width d.toNat 0 ≤ r ∧
        r < accReg s.curTeam.launch s.curGang.width d.toNat 0 + accRegs s.curGang.width)) (fun _ _ => false) false s.curGang H)) ∧
  (∀ (g : Grd) (d a n : BitVec 8) (s : State), s.clear (.cmov g d a n) = true → n.toNat < accRegs s.curGang.width →
    Writes s (exec (.cmov g d a n) s) (fun H =>
      (∀ l ∈ s.active g, H.readV l d.toNat = s.curGang.readV l (accReg s.curTeam.launch s.curGang.width a.toNat n.toNat)) ∧
      OnlyWrites (.reg ⟨false, d⟩ false) (s.active g) false s.curGang H)) ∧
  (∀ (g : Grd) (d a n : BitVec 8) (s : State), s.clear (.cmovIn g d a n) = true → n.toNat < accRegs s.curGang.width →
    Writes s (exec (.cmovIn g d a n) s) (fun H =>
      (∀ l ∈ s.active g, H.readV l (accReg s.curTeam.launch s.curGang.width d.toNat n.toNat) = s.curGang.readV l a.toNat) ∧
      OnlyTouches (fun l r => decide (l ∈ s.active g) && decide (r = accReg s.curTeam.launch s.curGang.width d.toNat n.toNat))
        (fun _ _ => false) false s.curGang H)) ∧
  (∀ (g : Grd) (a : BitVec 8) (s : State), s.clear (.vbnd g a) = true → s.active g ≠ [] →
    vbndIllegal s (s.curGang.readS a.toNat).toNat = false →
    (let n := (s.curGang.readS a.toNat).toNat
     Writes s (exec (.vbnd g a) s) (fun H => H.vbnd = n ∧
       (∀ l < 64, ∀ r, H.readV l r = if min n s.curGang.vbnd ≤ r ∧ r < max n s.curGang.vbnd then 0 else s.curGang.readV l r) ∧
       { H with pool := s.curGang.pool, bad := s.curGang.bad, vbnd := s.curGang.vbnd } = s.curGang)))

/-- R211, R213, R214, R217: a matrix word that passes its checks and finds room is accepted: the operation stands last in its
array's queue (in both queues of a pair), and the accumulator is pending. -/
def Obligations.MatrixWordsAreAccepted : Prop :=
  (∀ (g : Grd) (la : BitVec 4) (ring : BitVec 2) (nosplit : Bool) (d : BitVec 8) (ta tb : BitVec 3) (f k : BitVec 8) (w : W32)
    (s : State), s.clear (.mma g la ring nosplit d ta tb f k) = true → s.active g ≠ [] →
    (∀ l ∈ s.active g, s.curGang.readV l f.toNat = w) → fmtValid w = true →
    operandsBad s.curTeam s.cur.gang false w (s.curGang.readS k.toNat).toNat d.toNat ta.toNat tb.toNat (ringLen ring) = false →
    (s.core s.curGang.core).matOff = false → s.arrayBusy s.curGang.core = false →
    exec (.mma g la ring nosplit d ta tb f k) s = .next ((({ s with nextId := s.nextId + 1 } : State).enterArray
      (newOp s.nextId s.cur.team s.cur.gang false false false nosplit (ringLen ring) ta.toNat tb.toNat d.toNat w
        (s.curGang.readS k.toNat).toNat 0 s.cur.pc)).openWindow la.toNat [.c d.toNat] (.matrix s.nextId) [] [] none)) ∧
  (∀ (g : Grd) (la : BitVec 4) (ring : BitVec 2) (nosplit wide : Bool) (d : BitVec 8) (ta tb : BitVec 3) (f k : BitVec 8) (w : W32)
    (s : State), s.clear (.mmap g la ring nosplit wide d ta tb f k) = true → s.active g ≠ [] →
    mmapIllegal s.curTeam s.cur.gang = false →
    ((s.curTeam.gang (partnerOf s.cur.gang)).pend.any (fun p => !p.done && p.names [.v f.toNat])) = false →
    (∀ l ∈ s.active g, s.curGang.readV l f.toNat = w) →
    (∀ l ∈ (s.curTeam.gang (partnerOf s.cur.gang)).liveLanes, (s.curTeam.gang (partnerOf s.cur.gang)).readV l f.toNat = w) →
    fmtValid w = true →
    operandsBad s.curTeam s.cur.gang true w (s.curGang.readS k.toNat).toNat d.toNat ta.toNat tb.toNat (ringLen ring) = false →
    (s.core s.curGang.core).matOff = false → (s.core (followerCore s.curTeam)).matOff = false →
    s.arrayBusy s.curGang.core = false → s.arrayBusy (followerCore s.curTeam) = false →
    exec (.mmap g la ring nosplit wide d ta tb f k) s = .next ((({ s with nextId := s.nextId + 1 } : State).enterArray
      (newOp s.nextId s.cur.team s.cur.gang true false wide nosplit (ringLen ring) ta.toNat tb.toNat d.toNat w
        (s.curGang.readS k.toNat).toNat 0 s.cur.pc)).openWindow la.toNat [.c d.toNat] (.matrix s.nextId) [] [] none)) ∧
  (∀ (g : Grd) (la : BitVec 4) (a : BitVec 8) (s s1 s2 : State) (loc : Loc) (bs : List Byte) (c : Contin),
    s.clear (.mmac g la a) = true → s.active g ≠ [] →
    s.checkAccess s.cur.team s.cur.gang .glob ((s.curGang.readS a.toNat).toNat : Int) 64 .read = (s1, .ok loc) →
    s1.loadLoc s1.cur.team s1.cur.gang loc 64 true = (s2, bs, false) → continOf bs = some c →
    (c.pair = true → mmapIllegal s2.curTeam s1.cur.gang = false ∧ (s2.core (followerCore s2.curTeam)).matOff = false ∧
      s2.arrayBusy (followerCore s2.curTeam) = false) →
    c.acc < usableAccs s2.curTeam.launch s2.curGang →
    (let o := continOp c s2.nextId s1.cur.team s1.cur.gang
     operandsBad s2.curTeam s1.cur.gang c.pair c.fmt c.kb c.acc o.ta o.tb o.ring = false →
     (s2.core s2.curGang.core).matOff = false → s2.arrayBusy s2.curGang.core = false →
     exec (.mmac g la a) s = .next ((({ s2 with nextId := s2.nextId + 1 } : State).enterArray o).openWindow la.toNat [.c c.acc]
       (.matrix o.id) [] [] none)))

/-- R60 to R62, R212, R213, R215, R222, R223: a k-block adds, for every element of the 32 × 32
block, the scaled sum of its products to one of two chains, by the parity of its number; the array starts the next
k-block of its oldest operation when its tiles are ready and the charge is granted; self-tests pass, replace a column, or
disable the array; a finished operation adds its two chains into every element of its accumulator, and leaves every queue. -/
def Obligations.ArraysRunTheirOldestOperation : Prop :=
  (∀ (o : MatOp) (T : Team), (o.runBlock T).p = o.p + 1 ∧
    ∀ i < 32, ∀ j < 32,
      (let kt := o.p % max 1 (o.kt T)
       let A := rowBlock (T.tile (o.slotTiles T).1) o.fmts.1 (fmtScale o.fmt) i kt
       let B := rowBlock (T.tile (o.slotTiles T).2) o.fmts.2 (fmtScale o.fmt) j kt
       let v := scaleBlock (fmtSkip o.fmt) (blockSum (A.1.zip B.1)) A.2 B.2
       (o.p % 2 = 0 → tget 0 (o.runBlock T).e (32 * i + j) = chainAdd (tget 0 o.e (32 * i + j)) v ∧ (o.runBlock T).o = o.o) ∧
       (o.p % 2 = 1 → tget 0 (o.runBlock T).o (32 * i + j) = chainAdd (tget 0 o.o (32 * i + j)) v ∧ (o.runBlock T).e = o.e))) ∧
  ((∀ (s s1 : State) (core : Nat) (o : MatOp), s.arrayHead core = some o → o.pair = false → o.p < o.kb →
    o.ready (s.team o.team) = true → s.take core (s.team o.team).ctx (kBlockWeight s o.fmt) = (s1, .taken) →
    exec (.kBlockStart core) s = .next ((s1.setHead core (o.runBlock (s.team o.team))).modTeam o.team
      (fun T => T.unready (o.releases (s.team o.team))))) ∧
  (∀ (s s1 s2 : State) (core : Nat) (o q : MatOp), s.arrayHead core = some o → o.pair = true → o.side = false → o.p < o.kb →
    o.ready (s.team o.team) = true → s.arrayHead (followerCore (s.team o.team)) = some q → q.id = o.id →
    q.ready (s.team o.team) = true → s.take core (s.team o.team).ctx (kBlockWeight s o.fmt) = (s1, .taken) →
    s1.take (followerCore (s.team o.team)) (s.team o.team).ctx (kBlockWeight s o.fmt) = (s2, .taken) →
    exec (.kBlockStart core) s = .next (((s2.setHead core (o.runBlock (s.team o.team))).setHead (followerCore (s.team o.team))
      (q.runBlock (s.team o.team))).modTeam o.team (fun T => T.unready (o.releases (s.team o.team) ++ q.releases (s.team o.team))))) ∧
  (∀ (g : Grd) (d : BitVec 8) (s : State), s.clear (.atest g d) = true → s.active g ≠ [] → (s.core s.curGang.core).matq = [] →
    (let C := s.core s.curGang.core
     ∃ t, exec (.atest g d) s = .next t ∧ t.mem = s.mem ∧
      (let D := t.core s.curGang.core
       t.curGang.readS d.toNat = BitVec.ofNat 64 ((D.spare.getD 0) * 256 + (if D.matOff then 4 else 0) +
         (if D.spare.isSome then 2 else 0) + (if C.matOff = false ∧ C.damaged = [] then 1 else 0)) ∧
       (C.matOff = true ∨ C.damaged = [] → D.spare = C.spare ∧ D.matOff = C.matOff) ∧
       (∀ c more, C.matOff = false → C.damaged = c :: more → C.spare = none → D.spare = some c ∧ D.matOff = false) ∧
       (∀ c more k, C.matOff = false → C.damaged = c :: more → C.spare = some k → D.matOff = true)))) ∧
  (∀ (s : State) (core : Nat), (s.core core).matOff = false → (s.core core).damaged = [] →
    (∀ o ∈ s.arrayHead core, o.ran = false ∨ o.kb ≤ o.p) →
    exec (.arraySelfTest core none) s = .next (s.modCore core (fun C => { C with lastPass := s.time })) ∧
    ∀ c < 32,
      ((s.core core).spare = none →
        ∃ t, exec (.arraySelfTest core (some c)) s = .next t ∧ (t.core core).spare = some c ∧ (t.core core).matOff = false) ∧
      (∀ k, (s.core core).spare = some k → k ≠ c →
        ∃ t, exec (.arraySelfTest core (some c)) s = .next t ∧ (t.core core).matOff = true ∧
          ∀ o ∈ (t.core core).matq, o.ran = true ∧ o.bad = true))) ∧
  ((∀ (s : State) (core : Nat) (o : MatOp), s.arrayHead core = some o → o.pair = false → o.kb ≤ o.p → o.bad = false →
    exec (.matrixRetire core) s = .next ((s.dropOp o.id).endOp o.team o.gang o.id (some o) false)) ∧
  (∀ (s : State) (core : Nat) (o q : MatOp), s.arrayHead core = some o → o.pair = true → o.side = false → o.kb ≤ o.p →
    o.bad = false → s.arrayHead (followerCore (s.team o.team)) = some q → q.bad = false →
    exec (.matrixRetire core) s = .next (((s.dropOp o.id).endOp o.team o.partner o.id (some q) false).endOp o.team o.gang o.id
      (some o) false)) ∧
  (∀ (G : Gang) (L : Launch) (o : MatOp), G.width ∈ [16, 32, 64] →
    (∀ i < 32, ∀ j < 32, (G.finaliseAcc L o).readAcc L o.acc i j =
      finalise (G.readAcc L o.acc i j) (tget 0 o.e (32 * i + j)) (tget 0 o.o (32 * i + j))) ∧
    OnlyTouches (fun _ r => decide (accReg L G.width o.acc 0 ≤ r ∧ r < accReg L G.width o.acc 0 + accRegs G.width))
      (fun _ _ => false) false G (G.finaliseAcc L o)))

/-! ### Traps and system registers -/

/-- R77, R95, R256, R259, R261, R262, R265, R268, R434: a trap that a handler takes: TCAUSE, TLANES, TADDR, TPC and
TSTAT record it, and the lanes of the run that have not exited are at the handler with age zero, alone in HSET; every
other register is as before; a trap that no handler takes stops the gang, asks the team to save, and signals vector 1
of the partition's function once the team is saved; what words and fetches that trap record. `trap` and `brk` with some lane of
Active, an encoding without a meaning and a word that cannot be fetched complete by that entry; `trap` and `brk` with none do nothing. -/
def Obligations.TrapsEnterTheHandler : Prop :=
  (∀ (s : State) (ls : List Nat) (c : Nat) (x : TrapRec), s.curGang.pend.all (fun p => p.done) = true → x.causes = causeAll ls c →
    ls ≠ [] → ls.Nodup → (∀ l ∈ ls, l < 64) → c < 16 →
    (let G := s.curGang
     let n := s.handlerOf s.curTeam.ctx G.level c
     let h := if n = 1 then (s.ctx s.curTeam.ctx).khandler else (s.part (s.partOf s.curTeam.ctx)).shandler
     let live := s.runLanes.filter (fun l => decide (G.laneState l ≠ .exited))
     n ≠ 3 →
     ∃ H, s.trapRun x = { (s.latchWdog s.curTeam.ctx).setCur H with note := .trapped } ∧ H.level = n ∧ H.tpc = s.cur.pc ∧ H.taddr = x.addr ∧
       H.tcause = BitVec.ofNat 64 (x.code * 256 + c) ∧
       (∀ l < 64, ((tget 0 H.tlanes (l / 16)).extractLsb' (4 * (l % 16)) 4).toNat = if l ∈ ls then c else 0) ∧
       (H.tstat.getLsbD 3 = true ↔ G.level ≠ 0) ∧ H.tstat.getLsbD 7 = G.tstat.getLsbD 7 ∧ H.hset = bitsOf live ∧
       (∀ l ∈ live, H.pc l = h ∧ H.laneState l = .ready ∧ H.age l = 0) ∧
       (∀ l, l ∉ live → H.pc l = G.pc l ∧ H.laneState l = G.laneState l) ∧ SameRegs G H)) ∧
  (∀ (s : State) (ls : List Nat) (c : Nat) (x : TrapRec), s.curGang.pend.all (fun p => p.done) = true → x.causes = causeAll ls c →
    ls ≠ [] → s.handlerOf s.curTeam.ctx s.curGang.level c = 3 →
    (s.trapRun x).curGang.stop = .saved ∧ (s.trapRun x).curGang.tpc = s.cur.pc ∧
    (let n := if s.curGang.level = 2 then 7 else 6
     (∀ r, s.curTeam.stopReq = some r → r.stopped.isSome = true →
       (s.trapRun x).curTeam.stopReq = some { r with reason := n, forced := true, gang := some s.cur.gang }) ∧
     ((∀ r, s.curTeam.stopReq = some r → r.stopped = none) →
       (s.trapRun x).curTeam.stopReq = some { reason := n, since := s.time, forced := true, stopped := none, gang := some s.cur.gang })) ∧
    (s.trapRun x).msgs = s.msgs ∧ (s.trapRun x).mem = s.mem) ∧
  ((∀ (g : Grd) (n : BitVec 8) (s : State), s.clear (.trap g n) = true → s.active g ≠ [] →
    exec (.trap g n) s = .next (s.trapRun { causes := causeAll (s.active g) 11, code := n.toNat })) ∧
  (∀ (g : Grd) (n : BitVec 8) (s : State), s.clear (.brk g n) = true → s.active g ≠ [] →
    exec (.brk g n) s = .next (s.trapRun { causes := causeAll (s.active g) 10, code := n.toNat })) ∧
  (∀ (w : BitVec 64) (s : State), exec (.illegalEncoding w) s = .next (s.trapRun { causes := causeAll s.runLanes 1 })) ∧
  (∀ (c : FetchCause) (s : State), exec (.fetchFault c) s = .next (s.trapRun { causes := causeAll s.runLanes (match c with
    | .bounds => 5 | .misaligned => 6 | .permission => 7 | .notPresent => 8 | .ecc => 12), addr := match s.curGang.prog with
      | some (.rep _ _ _ _ _ _) => s.cur.pc + 8
      | _ => s.cur.pc }))) ∧
  (∀ (i : Instr) (s : State) (ls : List Nat) (c code : Nat) (addr : W64),
    ((∃ g n, i = .trap g n ∧ s.clear i = true ∧ ls = s.active g ∧ c = 11 ∧ code = n.toNat ∧ addr = 0) ∨
     (∃ g n, i = .brk g n ∧ s.clear i = true ∧ ls = s.active g ∧ c = 10 ∧ code = n.toNat ∧ addr = 0) ∨
     (∃ w, i = .illegalEncoding w ∧ ls = s.runLanes ∧ c = 1 ∧ code = 0 ∧ addr = 0) ∨
     (∃ k : FetchCause, i = .fetchFault k ∧ ls = s.runLanes ∧ code = 0 ∧ (match k with
        | .bounds => c = 5 | .misaligned => c = 6 | .permission => c = 7 | .notPresent => c = 8 | .ecc => c = 12) ∧
       addr = match s.curGang.prog with
         | some (.rep _ _ _ _ _ _) => s.cur.pc + 8
         | _ => s.cur.pc)) →
    ls ≠ [] → s.curGang.pend.all (fun p => p.done) = true → s.handlerOf s.curTeam.ctx s.curGang.level c ≠ 3 →
    (let G := s.curGang
     let live := s.runLanes.filter (fun l => decide (G.laneState l ≠ .exited))
     ∃ t, exec i s = .next t ∧ t.note = .trapped ∧ t.mem = s.mem ∧ SameRegs G t.curGang ∧
       t.curGang.level = s.handlerOf s.curTeam.ctx G.level c ∧ t.curGang.tpc = s.cur.pc ∧ t.curGang.taddr = addr ∧
       t.curGang.tcause = BitVec.ofNat 64 (code * 256 + c) ∧
       (∀ l < 64, ((tget 0 t.curGang.tlanes (l / 16)).extractLsb' (4 * (l % 16)) 4).toNat = if l ∈ ls then c else 0) ∧
       t.curGang.hset = bitsOf live ∧
       (∀ l ∈ live, t.curGang.laneState l = .ready ∧ t.curGang.pc l =
         if s.handlerOf s.curTeam.ctx G.level c = 1 then (s.ctx s.curTeam.ctx).khandler
         else (s.part (s.partOf s.curTeam.ctx)).shandler))) ∧
  (∀ (g : Grd) (n : BitVec 8) (s : State), s.active g = [] →
    (s.clear (.trap g n) = true → exec (.trap g n) s = .next (s.finish true)) ∧
    (s.clear (.brk g n) = true → exec (.brk g n) s = .next (s.finish true)))

/-- R269: `rfe`: when every lane of HSET that has not exited is at it, the handler ends: LEVEL is 0, those lanes go on at TPC, or
past it, with age zero, each armed for one step where STEP is set, and the other lanes are where they were, those at an
`rfe` Ready; until then the lanes are Held. Outside a handler it is ILLEGAL_OP. -/
def Obligations.ReturnsFromHandlersResume : Prop :=
  (∀ (g : Grd) (skip : Bool) (s : State), s.clear (.rfe g skip) = true → s.curGang.level ≠ 0 → s.curGang.tstat.getLsbD 3 = false →
    noRep s.curGang = true →
    (∀ l ∈ s.active g, s.curGang.hset.getLsbD l = true ∧ s.curGang.laneState l = .ready) →
    ((∀ l ∈ s.curGang.liveLanes, s.curGang.hset.getLsbD l = true → l ∈ s.active g) →
      GangStep s (exec (.rfe g skip) s) (fun H => H.level = 0 ∧ H.hset = 0 ∧
        (∀ l ∈ s.active g, H.laneState l = .ready ∧ H.age l = 0 ∧ H.pc l = s.curGang.tpc + (if skip then 8 else 0)) ∧
        (∀ l, l ∉ s.runLanes → H.pc l = s.curGang.pc l ∧
          ((∀ b, s.curGang.laneState l ≠ .rfe b) → H.laneState l = s.curGang.laneState l) ∧
          (∀ b, l < s.curGang.width → s.curGang.laneState l = .rfe b → H.laneState l = .ready)) ∧
        H.stepArm = (if s.curGang.tstat.getLsbD 7
          then s.curGang.stepArm ||| bitsOf (s.curGang.liveLanes.filter (fun l => s.curGang.hset.getLsbD l)) else s.curGang.stepArm) ∧
        SameRegs s.curGang H)) ∧
    ((∃ l ∈ s.curGang.liveLanes, s.curGang.hset.getLsbD l = true ∧ s.curGang.laneState l = .ready ∧ l ∉ s.active g) →
      GangStep s (exec (.rfe g skip) s) (fun H => H.level = s.curGang.level ∧
        (∀ l ∈ s.active g, H.laneState l = .rfe skip ∧ H.pc l = s.cur.pc) ∧ SameRegs s.curGang H))) ∧
  (∀ (g : Grd) (skip : Bool) (s : State), s.clear (.rfe g skip) = true →
    (s.curGang.level = 0 ∨ s.curGang.tstat.getLsbD 3 = true) →
    exec (.rfe g skip) s = .next (s.trapRun (trapAll s.runLanes 1 0 (.rfe g skip))))

/-- R35 to R37, R270: reads of system registers: a Lane register reads by lane; a number that names none, or a Lane register read to
a scalar, is ILLEGAL_OP. -/
def Obligations.SystemReadsGiveTheirRegister : Prop :=
  (∀ (g : Grd) (d : BitVec 8) (num : BitVec 10) (s : State) (k : Bool × SysAccess), s.clear (.sread g .scalar d num) = true →
    sysReg num.toNat = some k → k.1 = false →
    Writes s (exec (.sread g .scalar d num) s) (fun H =>
      (s.active g ≠ [] → H.readS d.toNat = s.readSys s.cur.team s.cur.gang 0 num.toNat) ∧
      OnlyWrites (.reg ⟨true, d⟩ true) (s.active g) false s.curGang H)) ∧
  (∀ (g : Grd) (d : BitVec 8) (num : BitVec 10) (s : State) (wide : Bool) (k : Bool × SysAccess),
    s.clear (.sread g (if wide then .pair else .vec) d num) = true → sysReg num.toNat = some k →
    Writes s (exec (.sread g (if wide then .pair else .vec) d num) s) (fun H =>
      (∀ l ∈ s.active g, (Dest.reg ⟨false, d⟩ wide).holds H l (s.readSys s.cur.team s.cur.gang l num.toNat)) ∧
      OnlyWrites (.reg ⟨false, d⟩ wide) (s.active g) false s.curGang H)) ∧
  (∀ (g : Grd) (dk : SysDk) (d : BitVec 8) (num : BitVec 10) (s : State), s.clear (.sread g dk d num) = true →
    (sysReg num.toNat = none ∨ (dk = .scalar ∧ ∃ k, sysReg num.toNat = some (true, k))) →
    exec (.sread g dk d num) s = .next (s.trapRun (trapAll s.runLanes 1 0 (.sread g dk d num))))

/-- R36, R38, R40, R134, R135, R197, R270: writes of system registers, with what each register keeps; a read-only register is
ILLEGAL_OP, and a privileged one below the privileged level is PRIVILEGE. -/
def Obligations.SystemWritesKeepTheirFields : Prop :=
  (∀ (g : Grd) (a : BitVec 8) (num : BitVec 10) (s : State), s.clear (.swrite g .scalar a num) = true → s.active g ≠ [] →
    (num.toNat ∈ [0x20, 0x21, 0x22, 0x23, 0x24, 0x25, 0x26, 0x27, 0x28, 0x31] ∨ (num.toNat = 0x12 ∧ s.curGang.depthMax ≤ 4)) →
    (let x := s.curGang.readS a.toNat
     Writes s (exec (.swrite g .scalar a num) s) (fun H =>
       (let t : State := s.setCur H
        t.readSys s.cur.team s.cur.gang 0 num.toNat =
          if num.toNat = 0x12 then x &&& 0x01FFFFFFFFFFFF80 else if num.toNat = 0x20 then x &&& 0xFFFF
          else if num.toNat = 0x21 then x &&& 0xFF0F
          else if num.toNat = 0x28 then (s.curGang.tstat &&& ~~~0x80#64) ||| (x &&& 0x80)
          else if num.toNat = 0x31 then x &&& 0x1F03 else x) ∧
       { H with cstk := s.curGang.cstk, pidx := s.curGang.pidx, tcause := s.curGang.tcause, tlanes := s.curGang.tlanes,
                taddr := s.curGang.taddr, tpc := s.curGang.tpc, tstat := s.curGang.tstat, fmode := s.curGang.fmode } = s.curGang))) ∧
  (∀ (g : Grd) (dk : SysDk) (a : BitVec 8) (s : State), dk ≠ .scalar → s.clear (.swrite g dk a 0x30) = true → s.active g ≠ [] →
    Writes s (exec (.swrite g dk a 0x30) s) (fun H =>
      (∀ l ∈ s.active g, H.readFstat l = (s.curGang.readV l a.toNat).setWidth 5) ∧
      (∀ l, l ∉ s.active g → H.readFstat l = s.curGang.readFstat l) ∧ { H with fstat := s.curGang.fstat } = s.curGang)) ∧
  (∀ (g : Grd) (a : BitVec 8) (s : State), s.clear (.swrite g .scalar a 0x11) = true → s.active g ≠ [] →
    s.curGang.privileged = true → exec (.swrite g .scalar a 0x11) s = .next ((s.modCore s.curGang.core (fun C =>
      { C with ageMax := max 16 ((s.curGang.readS a.toNat).toNat % 65536) })).finish false)) ∧
  (∀ (g : Grd) (a : BitVec 8) (s : State), s.clear (.swrite g .scalar a 0x14) = true → s.active g ≠ [] →
    s.curGang.privileged = true → exec (.swrite g .scalar a 0x14) s = .next ((s.modCtx s.curTeam.ctx (fun C =>
      { C with spillt := (s.curGang.readS a.toNat).toNat % 65536 })).finish false)) ∧
  (∀ (g : Grd) (a : BitVec 8) (num : BitVec 10) (n : Nat) (s : State), s.clear (.swrite g .scalar a num) = true →
    s.active g ≠ [] → num.toNat = 0x40 + n → n < 8 → n < s.curTeam.launch.tiles →
    tcfgLegal (s.curGang.readS a.toNat &&& ~~~0x100000000#64) = true → s.tileBusy s.cur.team (curFollower s) n = false →
    exec (.swrite g .scalar a num) s = .next ((s.modTile n (fun y => y.config (s.curGang.readS a.toNat))).finish false)) ∧
  (∀ (g : Grd) (dk : SysDk) (a : BitVec 8) (num : BitVec 10) (s : State), s.clear (.swrite g dk a num) = true →
    ((sysReg num.toNat = none ∨ (∃ lane, sysReg num.toNat = some (lane, .ro))) →
      exec (.swrite g dk a num) s = .next (s.trapRun (trapAll s.runLanes 1 0 (.swrite g dk a num)))) ∧
    ((∃ lane, sysReg num.toNat = some (lane, .priv)) → dk = .scalar → s.curGang.privileged = false →
      exec (.swrite g dk a num) s = .next (s.trapRun (trapAll s.runLanes 2 0 (.swrite g dk a num)))))

/-- R271, R279: `ctx.save` puts the block of the gang, twelve lines, into the store queue as one entry, and `ctx.load` gives the
frozen lanes the state of a block. -/
def Obligations.ContextBlocksAreSavedAndLoaded : Prop :=
  (∀ (g : Grd) (a : BitVec 8) (s : State), s.clear (.ctxSave g a) = true → s.active g ≠ [] → s.curGang.queue.length < 32 →
    (let C := s.checkLanes s.cur.team s.cur.gang .glob 128 .write (blockLines (s.curGang.readS a.toNat))
     C.causes = [] → exec (.ctxSave g a) s = .next ((C.st.enqueue C.st.cur.team C.st.cur.gang (C.locs.flatMap (fun q =>
       locWrite C.st.cur.team q.2 (((gangBlock C.st.curTeam.launch (C.st.curGang.countWindows C.st.curGang.allLanes true) true).drop (128 * q.1)).take 128)))).finish true))) ∧
  (∀ (L : Launch) (G : Gang), (gangBlock L G true).length = 1536) ∧
  (∀ (g : Grd) (a : BitVec 8) (s s1 : State) (bss : List (List Byte)), s.clear (.ctxLoad g a) = true → s.active g ≠ [] →
    (let C := s.checkLanes s.cur.team s.cur.gang .glob 128 .read (blockLines (s.curGang.readS a.toNat))
     C.causes = [] →
     C.st.readStack C.st.cur.team C.st.cur.gang 128 (C.locs.filterMap (fun q => match q.2 with
       | .mem pa => some (C.st.curGang.readS a.toNat + BitVec.ofNat 64 (128 * q.1), pa)
       | _ => none)) = (s1, bss, []) →
     exec (.ctxLoad g a) s = (let t := s1.finish true
       .next (t.setCur ((t.curGang.loadBlock bss.flatten (t.curGang.allLanes.filter (fun l => !t.curGang.hset.getLsbD l))).testMasks)))))

/-! ### Exchange groups and cluster barriers -/

/-- R294 to R296, R298 to R302: words of exchange groups and cluster barriers; when every position of a group has
arrived, no shadow write is on its way, and the stores of the group's teams are performed, the two buffers of every team
of the group change places, the lanes that wait go on, and the count of exchanges rises. -/
def Obligations.ExchangeGroupsArriveAndSwap : Prop :=
  ((∀ (g : Grd) (m : MemOp) (s : State), s.clear (.xst g m) = true → s.curTeam.launch.xg ≠ 0 → storeBusy s m = false →
    (let C := s.checkLanes s.cur.team s.cur.gang .shadow m.sz.bytes .write (lanePlaces s g m false)
     C.causes = [] → exec (.xst g m) s = .next ((C.st.enqueue C.st.cur.team C.st.cur.gang (C.locs.flatMap (fun q => match q.2 with
       | .scr a => shadowWrite C.st a (storeData C.st.curGang m q.1)
       | _ => []))).finish false))) ∧
  (∀ (g : Grd) (s : State), s.clear (.xbar g) = true → s.curTeam.launch.xg ≠ 0 → s.active g ≠ [] →
    s.storesPending s.cur.team s.cur.gang .die = false →
    (let X := s.groupOf s.curTeam
     let k := gangKey s.cur.team s.cur.gang
     exec (.xbar g) s = .next (((s.setGroup s.curTeam { X with lanes := tset 0 X.lanes k (tget 0 X.lanes k ||| bitsOf (s.active g)) }).park
       (s.active g) (fun _ => .xbar)).tryArriveX s.cur.team))) ∧
  (∀ (g : Grd) (d : BitVec 8) (s : State), s.clear (.cbar g d) = true → s.active g ≠ [] →
    s.storesPending s.cur.team s.cur.gang .cluster = false →
    (let cl := clusterOfCore s.curGang.core
     let E := s.cbarEntry cl s.curTeam
     let k := gangKey s.cur.team s.cur.gang
     exec (.cbar g d) s = .next (((s.setCbar cl s.curTeam { E with lanes := tset 0 E.lanes k (tget 0 E.lanes k ||| bitsOf (s.active g)) }).park
       (s.active g) (fun _ => .cbar d.toNat)).tryCbar cl s.curTeam none))) ∧
  (∀ (g : Grd) (d : BitVec 8) (s : State), s.clear (.xpoll g d) = true → s.curTeam.launch.xg ≠ 0 →
    Writes s (exec (.xpoll g d) s) (fun H =>
      (s.active g ≠ [] → (H.readS d.toNat).extractLsb' 0 6 = BitVec.ofNat 6 (s.groupOf s.curTeam).arrived.length ∧
        (H.readS d.toNat).getLsbD 6 = decide (s.curTeam.xpos ∈ (s.groupOf s.curTeam).arrived) ∧
        (H.readS d.toNat).extractLsb' 32 32 = (s.groupOf s.curTeam).swaps) ∧
      OnlyWrites (.reg ⟨true, d⟩ true) (s.active g) false s.curGang H)) ∧
  (∀ (g : Grd) (m : MemOp) (s : State), s.clear (.xst g m) = true → s.curTeam.launch.xg = 0 →
    exec (.xst g m) s = .next (s.trapRun (trapAll s.runLanes 1 0 (.xst g m)))) ∧
  (∀ (core : Nat) (w : XWrite) (rest : List XWrite) (s : State), (s.core core).xouts = w :: rest →
    ((s.team w.tgt).state = .retired → exec (.xstWriteComplete core) s =
      .next ((s.modCore core (fun C => { C with xouts := rest })).tryExchange (s.team w.tgt))) ∧
    ((s.team w.tgt).state ≠ .retired → w.bad = false →
      (let t := (s.modCore core (fun C => { C with xouts := rest })).putShadow w.tgt w.cells
       exec (.xstWriteComplete core) s = .next (t.tryExchange (t.team w.tgt)))))) ∧
  (∀ (s : State) (T : Team), T.launch.xg ≠ 0 → (∀ k < T.launch.xg, k ∈ (s.groupOf T).arrived) →
    (∀ p ∈ s.groupTeams T.ctx T.serial T.groupNum, p.2.state ≠ .saving ∧ p.2.state ≠ .saved ∧ s.xstToTeam p.1 = false ∧
      (p.2.onDie = true → ∀ g ∈ (s.team p.1).gangs, s.storesPending p.1 g.1 .die = false)) →
    ((s.tryExchange T).groupOf T).arrived = [] ∧ ((s.tryExchange T).groupOf T).swaps = (s.groupOf T).swaps + 1 ∧
    ∀ t, (t, s.team t) ∈ s.teams → (s.team t).inGroup T.ctx T.serial T.groupNum = true → (s.team t).onDie = true →
      ((s.tryExchange T).team t).scratch = (s.team t).shadow ∧ ((s.tryExchange T).team t).shadow = (s.team t).scratch)

/-! ### Accumulates -/

/-- R329 to R333, R340, R344, R345: accumulate words whose accesses pass, in a cycle in which no other event has reached the
core's port: the addends of the lanes, combined by block in lane order, go to the port behind those already there, and leave as they can; a flush covers the context's addends and holds its
lanes; a probe writes its word. -/
def Obligations.AccumulateWordsSendAddends : Prop :=
  (∀ (i : Instr) (g : Grd) (op : AccOpc) (a : Opd) (sz : Nat) (val : Gang → Nat → Nat → Tbl W32) (s : State),
    ((∃ b, i = .acc g op a b ∧ sz = (if op = .addI64 then 8 else 4) ∧
        val = fun G l pa => laneAddend op pa (if op = .addI64 then G.rawOpd b true l else (G.read32 b l).setWidth 64)) ∨
      (∃ b : BitVec 8, i = .accv g op a b ∧ sz = 16 ∧
        val = fun G l pa => (List.range 4).flatMap (fun j => laneAddend op (pa + 4 * j) ((G.readV l (b.toNat + j)).setWidth 64)))) →
    s.clear i = true →
    (let C := s.checkLanes s.cur.team s.cur.gang .glob sz .write
       ((s.active g).map (fun l => (l, ((s.curGang.rawOpd a true l).toNat : Int))))
     let t := C.st
     let bs := combineAddends op (C.locs.filterMap (fun q => match q.2 with
       | .mem pa => some (pa, val t.curGang q.1 pa)
       | _ => none))
     C.causes = [] →
     (bs = [] ∨ t.portFree t.curGang.core = true) →
     (∀ b ∈ bs, t.isLocal (b.1 * 64) = true ∨ t.reachable (b.1 * 64 / 2 ^ 42) = true) →
     exec i s = (let t0 : State := { t with nextId := t.nextId + bs.length }
       let u := (if bs.isEmpty then t0 else t0.takePort t.curGang.core).finish false
       .next ((u.setCur { u.curGang with port := u.curGang.port ++ ((List.range bs.length).zip bs).map (fun b =>
         (⟨t.cur.lanes, t.curTeam.ctx, b.2.1, op, b.2.2, [], t.nextId + b.1⟩ : Addend)) }).corePort t.curGang.core)))) ∧
  (∀ (g : Grd) (y : Scope) (s : State), s.clear (.accFlush g y) = true → s.active g ≠ [] → noRep s.curGang = true →
    (let t := (s.startFlush s.curTeam.ctx s.curTeam.cores).finishAt true (fun l => if (s.active g).elem l then s.cur.pc else s.cur.pc + 8)
     let u := t.setCur (t.curGang.setLanes (s.active g) (.flush s.nextId))
     exec (.accFlush g y) s = .next (u.setCur (u.curGang.endFlushes u.flushDone)))) ∧
  (∀ (g : Grd) (la : BitVec 4) (d a : BitVec 8) (s s1 : State) (l pa : Nat) (ls : List Nat), s.clear (.accProbe g la d a) = true →
    s.active g = l :: ls →
    s.checkAccess s.cur.team s.cur.gang .glob ((s.curGang.readS a.toNat).toNat : Int) 1 .probe = (s1, .ok (.mem pa)) →
    (s1.core s1.curGang.core).unanswered s1.curTeam.ctx (pa / 64) = [] →
    exec (.accProbe g la d a) s = .next (s1.results la.toNat [.s d.toNat]
      [.s d.toNat (probeWord (s1.core s1.curGang.core) s1.curTeam.ctx (pa / 64))] []))

/-- R330, R331, R334 to R336, R338, R341, R342: AccOp on the words of a block: the slots that a packet marks take the
operation's result, the others are as before, and no byte outside the block changes; the life of a packet: its home
slice accepts or refuses it, applies it in order, and answers; a refused one comes back to the residual tile, and is
sent again; refusals of a line that an L1 owns Exclusive stay pending until its owner is recalled, or 65,536 uncore
cycles pass. -/
def Obligations.PacketsAreAcceptedAppliedAndAnswered : Prop :=
  (∀ (mem : List Host.Cell) (block : Nat) (op : AccOpc) (slots : Tbl W32), op ≠ .addI64 → tsortedFrom 0 slots = true →
    (∀ q ∈ slots, q.1 < 16) →
    (∀ k < 16, readNum (applySlots mem block op slots) (block * 64 + 4 * k) 4 =
      match tfind slots k with
      | some x => (accOp32 op (BitVec.ofNat 32 (readNum mem (block * 64 + 4 * k) 4)) x).toNat
      | none => readNum mem (block * 64 + 4 * k) 4) ∧
    (∀ b, b < block * 64 ∨ block * 64 + 64 ≤ b → readByte (applySlots mem block op slots) b = readByte mem b)) ∧
  ((∀ (s : State) (core id : Nat) (p : Packet), (s.core core).pkts.find? (fun q => decide (q.id = id)) = some p → p.stage = .sent →
    s.flying id = false → s.packetBehind core p = false → p.granted = false → s.isLocal (p.block * 64) = true →
    s.heldExclusive (p.block / 2) = false → (s.slice (homeOf (p.block * 64))).accept.length + (s.slice (homeOf (p.block * 64))).grants.length < 64 →
    s.acceptOf (homeOf (p.block * 64)) p.part < 16 →
    exec (.accumulatePacketArrival core id) s = .next (s.acceptPacket core p)) ∧
  (∀ (s : State) (core id : Nat) (p : Packet), (s.core core).pkts.find? (fun q => decide (q.id = id)) = some p → p.stage = .sent →
    s.flying id = false → s.packetBehind core p = false → p.granted = false → s.isLocal (p.block * 64) = true →
    s.heldExclusive (p.block / 2) = false →
    64 ≤ (s.slice (homeOf (p.block * 64))).accept.length + (s.slice (homeOf (p.block * 64))).grants.length →
    (let p1 : Packet := { p with
       stage := .refused p.late, age := some (p.age.getD s.time), answer := s.nextId
       ageCyc := if p.age.isSome then p.ageCyc else s.cycle core }
     let t := (s.modCore core (fun C => C.setPacket p1)).bounceBack core p
     exec (.accumulatePacketArrival core id) s = .next (if p.late
       then t.modSlice (homeOf (p.block * 64)) (fun S => (S.book core).serve) else t))) ∧
  (∀ (s : State) (slice core id : Nat) (rest : List (Nat × Nat)) (p : Packet), (s.slice slice).accept = (core, id) :: rest →
    (s.core core).pkts.find? (fun q => decide (q.id = id)) = some p →
    ∃ t, exec (.accumulateApply slice) s = .next t ∧ t.mem = applySlots s.mem p.block p.op p.slots) ∧
  (∀ (s : State) (core id : Nat) (p : Packet), (s.core core).pkts.find? (fun q => decide (q.id = id)) = some p → p.stage = .applied →
    s.flying id = false → s.answerBehind core p = false → exec (.accumulateAckArrival core id) s = .next ((s.answered core p).afterAnswer core p.ctx)) ∧
  (∀ (s : State) (core id : Nat) (p : Packet), (s.core core).pkts.find? (fun q => decide (q.id = id)) = some p →
    p.stage = .refused false → s.flying id = false → s.answerBehind core p = false → s.portFree core = true → (s.core core).entry p.ctx p.block = none →
    (let t := ((s.takePort core).answered core p).chargePacket core p.ctx p.block 16
     let urg := p.urg || !p.cov.isEmpty
     let cyc := if p.age.isSome then p.ageCyc else t.cycle core
     let due := if urg then t.cycle core else p.due.getD (t.dueOf core false p.retry cyc)
     exec (.bounceArrival core id) s = .next ((t.modCore core (fun C => C.setEntry
       ⟨p.ctx, p.block, p.op, p.slots, p.age.getD t.time, p.retry, urg, false, due, p.cov, cyc⟩)).afterAnswer core p.ctx))) ∧
  (∀ (s : State) (core ctx block : Nat) (e : Resid), (s.core core).entry ctx block = some e → e.book = false →
    (s.core core).unanswered ctx block = [] → s.remoteRoom block = true → s.portFree core = true →
    s.limited core ctx (writeFlits (4 * e.slots.length)) = false →
    exec (.residualRetry core ctx block) s = .next (s.sendEntry core e false)) ∧
  (∀ (s : State) (core ctx block : Nat) (e : Resid), (s.core core).entry ctx block = some e → e.book = true →
    (s.core core).unanswered ctx block = [] → s.remoteRoom block = true → s.portFree core = true →
    s.limited core ctx (writeFlits (4 * e.slots.length)) = false →
    (s.isLocal (block * 64) = true → 0 < s.unusedGrants core (homeOf (block * 64)) →
      exec (.grantedSend core ctx block) s = .next (s.sendEntry core e true)) ∧
    (s.isLocal (block * 64) = false → Config.remoteGrant s.fuel = true →
      exec (.grantedSend core ctx block) s = .next (({ s with fuel := s.fuel + 1 } : State).sendEntry core e true)))) ∧
  ((∀ (s : State) (line o : Nat) (e : DirEntry) (r : Nat × Nat), (s.slice (homeOf (line * 128))).entry line = some e →
    e.refuse = some r → e.owner = some o → exec (.ownerRecallDeadline line) s = .next (s.sliceWriteBack o line)) ∧
  (∀ (s : State) (line first last : Nat) (e : DirEntry), (s.slice (homeOf (line * 128))).entry line = some e →
    e.refuse = some (first, last) → last + 65536 ≤ s.time →
    exec (.refusalPendingClear line) s = .next ((s.modSlice (homeOf (line * 128)) (fun S =>
      { S.modEntry line (fun e => { e with refuse := none }) with refused := terase S.refused line })).freeBypass line)) ∧
  (∀ (s : State) (line first last : Nat) (e : DirEntry), (s.slice (homeOf (line * 128))).entry line = some e →
    e.refuse = some (first, last) → s.time < last + 65536 → exec (.refusalPendingClear line) s = .next s))

/-! ### Futures -/

/-- R362, R365 to R367, R369, R371: words on references: duplicating, dropping, parking and taking up a
future; a register that holds no future, or a handle whose future is gone, is FUTURE with its reason in the words that
name it as a source. -/
def Obligations.FutureWordsMoveReferences : Prop :=
  ((∀ (g : Grd) (d a : BitVec 8) (s : State), s.clear (.futDup g d a) = true → s.active g ≠ [] → s.curTeam.readF a.toNat ≠ 0 →
    s.futLive s.curTeam.ctx (s.curTeam.readF a.toNat) = true → (s.future (futKey (s.curTeam.readF a.toNat))).count < 65535 →
    s.curTeam.readF d.toNat = 0 →
    exec (.futDup g d a) s = .next (((s.modFuture (futKey (s.curTeam.readF a.toNat)) (fun E => { E with count := E.count + 1 })).setF
      d.toNat (s.curTeam.readF a.toNat)).finish false)) ∧
  (∀ (g : Grd) (d : BitVec 8) (s : State), s.clear (.futDrop g d) = true → s.active g ≠ [] → s.curTeam.readF d.toNat ≠ 0 →
    s.futLive s.curTeam.ctx (s.curTeam.readF d.toNat) = true →
    exec (.futDrop g d) s = .next (((s.setF d.toNat 0).dropRef (s.curTeam.readF d.toNat)).finish false)) ∧
  (∀ (g : Grd) (d a : BitVec 8) (s : State), s.clear (.futPoll g d a) = true → s.active g ≠ [] → s.curTeam.readF a.toNat ≠ 0 →
    s.futLive s.curTeam.ctx (s.curTeam.readF a.toNat) = true → Writes s (exec (.futPoll g d a) s) (fun H =>
      (∀ l ∈ s.active g, (H.readK l d.toNat = true ↔ (s.future (futKey (s.curTeam.readF a.toNat))).state = .completed)) ∧
      OnlyWrites (.pred d) (s.active g) false s.curGang H)) ∧
  (∀ (g : Grd) (a b : BitVec 8) (s s1 s2 : State) (loc : Loc), s.clear (.futPark g a b) = true → s.active g ≠ [] →
    s.checkAccess s.cur.team s.cur.gang .glob ((s.curGang.readS a.toNat).toNat : Int) 4 .readWrite = (s1, .ok loc) →
    s1.storesPending s1.cur.team s1.cur.gang .device = false → s1.curGang.queue = [] → s1.lineHeld s1.curGang.core loc = false →
    s1.peekToken loc = (s2, 0, false) → s1.badSource (s1.curTeam.readF b.toNat) = none →
    exec (.futPark g a b) s = .next (((s2.putToken loc (s1.curTeam.readF b.toNat)).setF b.toNat 0).finish false)) ∧
  (∀ (g : Grd) (d a : BitVec 8) (s s1 s2 : State) (loc : Loc) (x : BitVec 32), s.clear (.futUnpark g d a) = true → s.active g ≠ [] →
    s.checkAccess s.cur.team s.cur.gang .glob ((s.curGang.readS a.toNat).toNat : Int) 4 .readWrite = (s1, .ok loc) →
    s1.curGang.queue = [] → s1.lineHeld s1.curGang.core loc = false → s1.peekToken loc = (s2, x, false) →
    s1.curTeam.readF d.toNat = 0 →
    (x = 0 → exec (.futUnpark g d a) s = .next (s2.finish false)) ∧
    (x ≠ 0 → s1.futLive s1.curTeam.ctx x = true →
      exec (.futUnpark g d a) s = .next (((s2.putToken loc 0).setF d.toNat x).finish false)))) ∧
  (∀ (g : Grd) (d a : BitVec 8) (s : State), s.active g ≠ [] →
    (s.curTeam.readF a.toNat = 0 →
      (s.clear (.futDup g d a) = true →
        exec (.futDup g d a) s = .next (s.trapRun (trapAll (s.active g) 14 (1#64 <<< 60) (.futDup g d a)))) ∧
      (s.clear (.futPoll g d a) = true →
        exec (.futPoll g d a) s = .next (s.trapRun (trapAll (s.active g) 14 (1#64 <<< 60) (.futPoll g d a)))) ∧
      (s.clear (.futDrop g a) = true →
        exec (.futDrop g a) s = .next (s.trapRun (trapAll (s.active g) 14 (1#64 <<< 60) (.futDrop g a))))) ∧
    (s.curTeam.readF a.toNat ≠ 0 → s.futLive s.curTeam.ctx (s.curTeam.readF a.toNat) = false →
      (let ad : W64 := (2#64 <<< 60) ||| (s.curTeam.readF a.toNat).setWidth 64
       (s.clear (.futDup g d a) = true → exec (.futDup g d a) s = .next (s.trapRun (trapAll (s.active g) 14 ad (.futDup g d a)))) ∧
       (s.clear (.futPoll g d a) = true → exec (.futPoll g d a) s = .next (s.trapRun (trapAll (s.active g) 14 ad (.futPoll g d a)))) ∧
       (s.clear (.futDrop g a) = true → exec (.futDrop g a) s = .next (s.trapRun (trapAll (s.active g) 14 ad (.futDrop g a)))))))

/-- R373: `fut.self` writes the team's own handle, zero-extended, to its scalar register and nothing else; `fut.check` has no effect. -/
def Obligations.FutSelfAndCheckChangeNoReference : Prop :=
  (∀ (g : Grd) (d : BitVec 8) (s : State), s.clear (.futSelf g d) = true → Writes s (exec (.futSelf g d) s) (fun H =>
    (s.active g ≠ [] → H.readS d.toNat = s.curTeam.handle.setWidth 64) ∧
    OnlyWrites (.reg ⟨true, d⟩ true) (s.active g) false s.curGang H)) ∧
  (∀ (g : Grd) (s : State), s.clear (.futCheck g) = true → exec (.futCheck g) s = .next (s.finish false))

/-- R368, R370, R372, R374: spawning, getting, returning, and the reclamation of an orphan. -/
def Obligations.FuturesSpawnCompleteAndReturn : Prop :=
  (∀ (g : Grd) (d a b n : BitVec 8) (s s1 s2 : State) (loc : Loc) (bs : List Byte) (L : Launch) (img : W64),
    s.clear (.futSpawn g d a b n) = true → s.active g ≠ [] →
    s.checkAccess s.cur.team s.cur.gang .glob ((s.curGang.readS a.toNat).toNat : Int) 64 .read = (s1, .ok loc) →
    s1.loadLoc s1.cur.team s1.cur.gang loc 64 true = (s2, bs, false) → spawnDesc bs = some (L, img) → L.cBytes = 0 →
    s2.everFits (s2.partOf s2.curTeam.ctx) L = true → s2.curTeam.readF d.toNat = 0 →
    s2.storesPending s2.cur.team s2.cur.gang .device = false →
    s2.futMay (dieOfCore s2.curGang.core) (s2.partOf s2.curTeam.ctx) = true →
    exec (.futSpawn g d a b n) s = .next ((s2.enterChild d.toNat L img ((List.range n.toNat).map (fun k =>
      s2.curGang.readS (b.toNat + k)))).finish false)) ∧
  (∀ (g : Grd) (la : BitVec 4) (d a n : BitVec 8) (s : State), s.clear (.futGet g la d a n) = true → s.active g ≠ [] →
    (∀ l ∈ s.active g, tget 0 s.curGang.lost l = 0) → s.badGet (s.curTeam.readF a.toNat) = none →
    (let h := s.curTeam.readF a.toNat
     let E := s.future (futKey h)
     let regs : List Reg := (List.range n.toNat).map (fun k => .s (d.toNat + k))
     (E.state = .completed → exec (.futGet g la d a n) s = .next (s.results la.toNat regs ((List.range n.toNat).map (fun i =>
       .s (d.toNat + i) ((E.results.getD i 0).setWidth 64))) [])) ∧
     (E.state ≠ .completed → la = 0 →
       exec (.futGet g la d a n) s = .next (s.parkWith false (s.active g) (fun _ => .future h d.toNat n.toNat))) ∧
     (E.state ≠ .completed → la ≠ 0 →
       exec (.futGet g la d a n) s = .next (s.openWindow la.toNat regs (.future h d.toNat n.toNat) [] [] none)))) ∧
  (∀ (g : Grd) (a n : BitVec 8) (s : State), s.clear (.futRet g a n) = true → s.active g ≠ [] → s.curTeam.child = true →
    (∀ q ∈ s.curTeam.gangs, q.1 ≠ s.cur.gang → q.2.finished = true) →
    ∃ t, exec (.futRet g a n) s = .next t ∧ t.curGang.finished = true ∧
      t.curTeam.ret = some ((List.range 8).map (fun k => if k < n.toNat then (s.curGang.readS (a.toNat + k)).setWidth 32 else 0))) ∧
  (∀ (g : Grd) (a n : BitVec 8) (s : State), s.clear (.futRet g a n) = true → s.active g ≠ [] → s.curTeam.child = false →
    exec (.futRet g a n) s = .next (s.trapRun (trapAll (s.active g) 14 (8#64 <<< 60) (.futRet g a n))))

/-! ### Energy -/

/-- R458 to R461: the energy words post, read, mark and request once for the gang. -/
def Obligations.EnergyWordsReadMarkAndRequest : Prop :=
  (∀ (g : Grd) (d sel : BitVec 8) (s : State), s.clear (.enRead g d sel) = true → s.active g ≠ [] → sel.toNat < 5 →
    (let c := s.curTeam.ctx
     let t := if sel = 0 then s.post s.curGang.core c else s
     Writes t (exec (.enRead g d sel) s) (fun H =>
       H.readS d.toNat = (match sel.toNat with
         | 0 => BitVec.ofInt 64 ((s.ctx c).consumed + ((s.meter s.curGang.core c).cons / 8000 : Nat))
         | 1 => BitVec.ofInt 64 (s.ctx c).level
         | 2 => BitVec.ofNat 64 (min (s.ctx c).capNow (s.part (s.partOf c)).capMax)
         | 3 => BitVec.ofNat 64 (s.rfe c)
         | _ => BitVec.ofNat 64 (min (s.ctx c).vj (2 ^ 63 - 1))) ∧
       OnlyWrites (.reg ⟨true, d⟩ true) (s.active g) false s.curGang H))) ∧
  (∀ (g : Grd) (a : BitVec 8) (s : State), s.clear (.enMark g a) = true → s.active g ≠ [] →
    exec (.enMark g a) s = .next (((s.post s.curGang.core s.curTeam.ctx).modCtx s.curTeam.ctx (fun C =>
      if C.marks.length < 16 then { C with marks := C.marks ++ [⟨s.time, C.consumed, s.curGang.readS a.toNat⟩] }
      else { C with dropped := min 65535 (C.dropped + 1) })).finish false)) ∧
  (∀ (g : Grd) (d a : BitVec 8) (s : State), s.clear (.vfReq g d a) = true → s.active g ≠ [] →
    (let P := s.part (s.partOf s.curTeam.ctx)
     let x := (s.curGang.readS a.toNat).toNat
     let q := max x (max P.pceil P.capceil)
     let st : Nat := if (s.ctx s.curTeam.ctx).vfNow = false then 4 else if 7 < x then 8
       else (if q ≠ x then 1 else 0) + (if P.busy.isSome then 2 else 0)
     let Q : Part := if st = 4 ∨ st = 8 then P else if P.busy.isSome then { P with target := q, pendT := true }
       else if q = P.cur then P else ({ P with target := q } : Part).startChange s.time q
     Writes (s.countVolts.modPart (s.partOf s.curTeam.ctx) (fun _ => Q)) (exec (.vfReq g d a) s) (fun H =>
       H.readS d.toNat = BitVec.ofNat 64 st ∧ OnlyWrites (.reg ⟨true, d⟩ true) (s.active g) false s.curGang H)))

/-- R462: `vf.stat` writes VFSTAT, zero-extended, at once when no change of point is in progress or waiting; else its lanes are Held, and
when neither is any more, they write VFSTAT and go on. -/
def Obligations.VfStatWaitsForItsPoint : Prop :=
  ∀ (g : Grd) (d : BitVec 8) (s : State), s.clear (.vfStat g d) = true → s.active g ≠ [] →
    (let P := s.part (s.partOf s.curTeam.ctx)
     let word (P : Part) : W64 :=
       BitVec.ofNat 64 (P.seq % 256 * 2 ^ 32 + max P.pceil P.capceil * 2 ^ 24 + P.target * 2 ^ 16 + P.cur * 2 ^ 8)
     (P.busy.isSome = true ∨ P.pendT = true → noRep s.curGang = true →
       (let u := s.finishAt false (fun l => if (s.active g).elem l then s.cur.pc else s.cur.pc + 8)
        exec (.vfStat g d) s = .next (u.setCur (u.curGang.setLanes (s.active g) (.point d.toNat))))) ∧
     (P.busy = none → P.pendT = false → Writes s (exec (.vfStat g d) s) (fun H =>
       H.readS d.toNat = word P ∧ OnlyWrites (.reg ⟨true, d⟩ true) (s.active g) false s.curGang H)) ∧
     (∀ (G : Gang) (x : W64) (l : Nat), noRep G = true → l < G.width → G.laneState l = .point d.toNat →
       (∀ k < G.width, ∀ e, G.laneState k = .point e → e = d.toNat) →
       (G.endPoints x).readS d.toNat = x ∧ (G.endPoints x).laneState l = .ready ∧ (G.endPoints x).pc l = G.pc l + 8) ∧
     (∀ (p : Nat), (s.part p).busy = none → (s.part p).pendT = false → vfstatWord s p = word (s.part p) ∧
       s.endPoints p = s.mapTeams (fun _ T => if s.partOf T.ctx = p then T.mapGangs (fun _ G => G.endPoints (vfstatWord s p)) else T)))

/-- R438, R441, R442, R448 to R450, R455, R457: a bucket answers a request with 64 nJ, with what it holds, or with a
refusal; the answer reaches the meter, and the gangs whose charge it covers go on; the boundary of a tick, and the end
of a change of operating point. R464, R548, R549: rack caps: the period, the coordinator's division, and the arrival of shares
and reports. -/
def Obligations.GrantsTicksAndPointsAct : Prop :=
  ((∀ (s : State) (core c : Nat), (s.meter core c).req = true → (s.meter core c).answer = none →
    ∃ t n, exec (.bucketServeRequest core c) s = .next t ∧ (t.meter core c).answer = some n ∧
      (n : Int) = (if 64 ≤ (s.ctx c).level then 64 else if 1 ≤ (s.ctx c).level then (s.ctx c).level else 0) ∧
      (t.ctx c).level = (s.ctx c).level - n ∧ (n = 0 → t.capRefused = true) ∧
      (∀ k, k ≠ c → t.ctx k = s.ctx k) ∧ t.teams = s.teams ∧ t.mem = s.mem) ∧
  (∀ (s : State) (core c n : Nat), (s.meter core c).answer = some n →
    ∃ t, exec (.grantAnswerArrival core c) s = .next t ∧ (t.meter core c).rem = (s.meter core c).rem + 8000 * n ∧
      (t.meter core c).answer = none ∧ t.mem = s.mem ∧
      (n = 0 → (t.meter core c).refused = true ∧ (t.meter core c).req = false ∧ t.teams = s.teams) ∧
      (n ≠ 0 → ((t.meter core c).req = true ↔ (t.meter core c).rem < 256000 ∧ (s.meter core c).refused = false) ∧
        ∀ k T, (k, T) ∈ s.teams → T.ctx = c → ∀ j G need e, (j, G) ∈ T.gangs → G.core = core → G.stop = .energy need e →
          (need : Int) ≤ (t.meter core c).rem → ∃ U, (k, U) ∈ t.teams ∧ (j, { G with stop := .none }) ∈ U.gangs))) ∧
  ((∀ s : State, s.tick < s.time / Config.tickPeriods →
    ∃ t, exec .tickBoundary s = .next t ∧ t.tick = s.tick + 1 ∧ t.dyn = [] ∧ t.resid = [] ∧ t.mem = s.mem ∧
      (∀ w v, s.wshadow = some (w, v) → t.weights = w ∧ t.wtabVer = v ∧ t.wshadow = none) ∧
      (∀ c, (t.ctx c).en = true → (t.ctx c).level ≤ min (t.ctx c).capNow (t.part (t.partOf c)).capMax) ∧
      (∀ c C, (c, C) ∈ s.ctxs → (t.ctx c).capNow = (t.ctx c).cap ∧ (t.ctx c).refillNow = (t.ctx c).refill ∧
        (t.ctx c).shareNow = (t.ctx c).share ∧ (t.ctx c).vfNow = (t.ctx c).vfRight)) ∧
  (∀ (s : State) (p a nxt : Nat), (s.part p).busy = some (a, nxt) → a + 24000 ≤ s.time →
    ∃ t, exec (.pointChangeComplete p) s = .next t ∧ (t.part p).cur = nxt ∧ (t.part p).seq = (s.part p).seq + 1 ∧
      (t.part p).pendT = false ∧ (t.part p).target = (s.part p).target ∧
      ((s.part p).pendT = false ∨ (s.part p).target = nxt → (t.part p).busy = none) ∧
      ((s.part p).pendT = true → (s.part p).target ≠ nxt → (t.part p).busy = some (s.time, (s.part p).target)) ∧
      (∀ q, q ≠ p → t.part q = s.part q)) ∧
  (∀ (s : State) (p : Nat), (s.part p).closed ≠ [] →
    exec (.meterRecordClose p) s = .next (((s.modPart p (fun P => { P with closed := [] })).putMtr 0
      ((s.part p).closed.map s.signRecord)).putMtr (fnOfPart p) ((s.part p).closed.map s.signRecord))) ∧
  (∀ (s : State) (h : List Byte), h.length = 560 → (s.signRecord h).length = 1536 ∧ (s.signRecord h).take 560 = h)) ∧
  ((∀ s : State, s.capDone < s.time / 2400000 → ∃ t, exec .capPeriodStart s = .next t ∧ t.capDone = s.capDone + 1 ∧
    t.capDivided = false ∧ t.rscale ≤ 65536 ∧ (s.capRole = 0 → t.shareW = 0 ∧ t.rscale = 65536) ∧
    (s.capRole ≠ 0 → (∀ w, s.capShare = some w → t.shareW = w ∧ t.capMissed = 0) ∧
      (s.capShare = none → t.capMissed = s.capMissed + 1 ∧ t.shareW = if 2 ≤ s.capMissed then s.capFailsafe else s.shareW)) ∧
    t.parts = s.parts.map (fun q => (q.1, ({ q.2 with
      capceil := capCeilAfter q.2.capceil t.shareW (periodEnergy s.capDone) } : Part).applyCeil s.time))) ∧
  (∀ s : State, s.capRole = 2 → s.capDivided = false → 480000 ≤ s.time % 2400000 →
    ∃ t, exec .capDivision s = .next t ∧ t.capDivided = true ∧ t.mem = s.mem ∧ t.parts = s.parts) ∧
  (∀ (b : Nat) (rs : List (Nat × Nat × Nat)), sumBy (·.2) (capShares b rs) ≤ b ∧
    (sumBy (·.2.1) rs ≤ b → ∀ q ∈ capShares b rs, ∃ r ∈ rs, r.1 = q.1 ∧ r.2.1 ≤ q.2 ∧ q.2 ≤ max r.2.1 r.2.2)) ∧
  (∀ (s : State) (w : Nat), s.capRole ≠ 0 →
    exec (.capShareArrival s.capDomain w) s = .next { s with capShare := some w }) ∧
  (∀ (s : State) (pkg flr dem : Nat), s.capRole = 2 → exec (.capReportArrival pkg s.capDomain flr dem) s =
    .next { s with capReports := s.capReports.filter (fun q => decide (q.1 ≠ pkg)) ++ [(pkg, flr, dem)] }))

/-! ### Collectives -/

/-- R544 to R547: collective words whose operands and accesses pass begin an operation and give its ticket; a wait writes the status
of a ticket, or waits. -/
def Obligations.CollectiveWordsBeginAndWait : Prop :=
  (∀ (i : Instr) (g : Grd) (bc : Bool) (op : CollOp) (d a b c : BitVec 8) (s t : State) (bs : List Byte),
    ((i = .collRed g op d a b c ∧ bc = false) ∨ (i = .collBcast g d a b c ∧ bc = true ∧ op = .addI32)) →
    s.clear i = true → s.active g ≠ [] →
    (let G := s.curGang
     let w := G.readS c.toNat
     let n := ctrlBytes w
     let p := s.partOf s.curTeam.ctx
     let K := s.group p (ctrlGroup w)
     let reads := !bc || decide (K.rank = ctrlRoot w)
     let C := s.checkLanes s.cur.team s.cur.gang .glob 4 .read (if reads then pieceAddrs (G.readS a.toNat) n else [])
     let D := C.st.checkLanes C.st.cur.team C.st.cur.gang .glob 4 .write (pieceAddrs (G.readS b.toNat) n)
     (ctrlLegal bc K.members w = false → exec i s = .next (s.trapLanes i (s.active g) 1 0)) ∧
     (ctrlLegal bc K.members w = true →
      collCause (if reads then [G.readS a.toNat, G.readS b.toNat] else [G.readS b.toNat]) n = none →
      C.causes = [] → D.causes = [] → C.st.awayPiece C.locs = none → D.st.awayPiece D.locs = none →
      D.st.storesPending D.st.cur.team D.st.cur.gang .system = false → K.flying < 4 →
      D.st.collSource (G.readS a.toNat) n C.locs = (t, bs, none) →
      exec i s = .next (((t.setCur (t.curGang.writeS d.toNat (ticketOf (ctrlGroup w) (K.count + 1)))).beginColl p (ctrlGroup w)
        { k := K.count + 1, bcast := bc, op := op, root := ctrlRoot w, len := n, ctx := t.curTeam.ctx, core := t.curGang.core
          dst := D.locs.filterMap (fun q => match q.2 with
            | .mem pa => ((rangePieces (G.readS b.toNat) n).find? (fun x => decide (x.1 = q.1))).map (fun x => (q.1, pa, x.2))
            | _ => none)
          value := if reads then some bs else none, mism := false, got := 0, sentUp := false
          deadline := t.time + K.timeout, status := 0 }).finish false)))) ∧
  (∀ (s : State) (p g : Nat) (o : CollOpn), o.status = 0 → o.sentUp = false → o.mism = false →
    (let K := s.group p g
     (K.enabled = false → ∃ x, (s.beginColl p g o).collOp p g o.k = some x ∧ x.status = 6) ∧
     (K.enabled = true → (∃ c ∈ K.links, s.reachable c = false) → ∃ x, (s.beginColl p g o).collOp p g o.k = some x ∧ x.status = 3) ∧
     (K.enabled = true → K.rank = 0 → K.kids = [] → K.early = [] → (∀ q ∈ K.ops, q.k ≠ o.k) →
       ∃ x, (s.beginColl p g o).collOp p g o.k = some x ∧ x.status = 1))) ∧
  (∀ (g : Grd) (d a : BitVec 8) (s : State), s.clear (.collWait g d a) = true → s.active g ≠ [] →
    (let x := s.curGang.readS a.toNat
     let K := s.group (s.partOf s.curTeam.ctx) (x.toNat / 2 ^ 32 % 16)
     (∀ st, K.statusOf x = some st → WritesEnding s (exec (.collWait g d a) s) (fun H =>
       H.readS d.toNat = BitVec.ofNat 64 (x.toNat % 2 ^ 32 * 2 ^ 32 + st) ∧
       OnlyWrites (.reg ⟨true, d⟩ true) (s.active g) false s.curGang H)) ∧
     (K.statusOf x = none → exec (.collWait g d a) s = .next (s.park (s.active g) (fun _ => .coll x d.toNat)))))

/-- R543, R546, R547: partials go up the tree, results come down, and an operation that runs out of time ends. -/
def Obligations.CollectivesCompleteOverTheTree : Prop :=
  (∀ (s : State) (p g k pkg : Nat) (bc : Bool) (op : Option CollOp) (root : Nat) (mism : Bool) (bs : Option (List Byte)) (gt len : Nat),
    (let K := s.group p g
     (K.accepts gt K.kids pkg = false → exec (.collPartialArrival p g k pkg bc op root mism bs gt len) s = .next (s.signal 0 1)) ∧
     (K.accepts gt K.kids pkg = true → K.count < k → exec (.collPartialArrival p g k pkg bc op root mism bs gt len) s =
       .next (s.modGroup p g (fun K => { K with early := K.early ++ [⟨k, pkg, bc, op, root, len, mism, bs⟩] }))) ∧
     (∀ o, K.accepts gt K.kids pkg = true → k ≤ K.count → s.collOp p g k = some o → o.status = 0 → o.got < K.kids.length →
       exec (.collPartialArrival p g k pkg bc op root mism bs gt len) s =
         .next ((s.modCollOp p g k (fun o => o.combine ⟨k, pkg, bc, op, root, len, mism, bs⟩)).advanceColl p g k)))) ∧
  (∀ (s : State) (p g k : Nat) (mism : Bool) (bs : List Byte) (o : CollOpn), (s.group p g).enabled = true →
    (s.group p g).hasParent = true → s.collOp p g k = some o → o.status = 0 → o.sentUp = true →
    ∃ t x, exec (.collResultArrival p g k (s.group p g).parent mism bs (s.group p g).gtag) s = .next t ∧
      t.collOp p g k = some x ∧ x.status = if mism then 2 else 1) ∧
  (∀ (s : State) (p g k : Nat) (o : CollOpn), s.collOp p g k = some o → o.status = 0 → o.deadline ≤ s.time →
    ∃ t x, exec (.collectiveTimeout p g k) s = .next t ∧ t.collOp p g k = some x ∧ x.status = 3 ∧ t.mem = s.mem)

/-! ### Slices and walks -/

/-- R307, R317, R318, R321: the places of a die's endpoints; a route of a packet joins its sites, is minimal, and turns only at full
routers; the ports between dies; and what an output port sends next: TC0, then TC1, then a TC7 packet that has waited 256 cycles,
and no class of weight 0 while another of its group waits. -/
def Obligations.RoutesAreMinimalAndTurnAtFullRouters : Prop :=
  (∀ n < 32, clusterSite n = ⟨2 * (n % 4) + n / 4 % 2, n / 4⟩ ∧ sliceSite n = ⟨2 * (n % 4) + 1 - n / 4 % 2, n / 4⟩ ∧
    fullRouter (clusterSite n).c (clusterSite n).r = true ∧ fullRouter (sliceSite n).c (sliceSite n).r = false ∧
    n / 8 * 2 ≤ (clusterSite n).r ∧ (clusterSite n).r ≤ n / 8 * 2 + 1) ∧
  (∀ stack pc : Nat, pc < 64 → memPortOf (dieChannel stack pc) < 8 ∧ dieChannel stack pc / 24 = memPortOf (dieChannel stack pc)) ∧
  (∀ s d : Site, s.c < 8 → s.r < 8 → d.c < 8 → d.r < 8 → (fullRouter s.c s.r = false ∨ fullRouter d.c d.r = false) →
    (let P := route s d ++ [(d, .out)]
     let gap (a b : Nat) : Nat := (a - b) + (b - a)
     (route s d).length = gap s.c d.c + gap s.r d.r ∧ P.head?.map (·.1) = some s ∧
     ∀ k x y, P[k]? = some x → P[k + 1]? = some y →
       y.1 = (match x.2 with
         | .east => ⟨x.1.c + 1, x.1.r⟩ | .west => ⟨x.1.c - 1, x.1.r⟩ | .north => ⟨x.1.c, x.1.r - 1⟩ | .south => ⟨x.1.c, x.1.r + 1⟩
         | .out => x.1) ∧
       (x.2 ≠ y.2 → y.2 ≠ .out → fullRouter y.1.c y.1.r = true))) ∧
  (∀ r < 8, exitSite true r = ⟨7, r - r % 2⟩ ∧ entrySite true r = ⟨0, r - r % 2 + 1⟩ ∧ exitSite false r = ⟨0, r + 1 - r % 2⟩ ∧
    entrySite false r = ⟨7, r - r % 2⟩) ∧
  (∀ (w : W64) (d : List Nat) (fs : List Flight) (t : Nat) (f : Flight),
    (headOf fs 0 = some f → (arbitrate w d fs t).1 = some f) ∧
    (headOf fs 0 = none → headOf fs 1 = some f → (arbitrate w d fs t).1 = some f) ∧
    (headOf fs 0 = none → headOf fs 1 = none → headOf fs 7 = some f → f.since + 256 ≤ t → (arbitrate w d fs t).1 = some f) ∧
    (headOf fs 0 = none → headOf fs 1 = none → headOf fs 7 = none → (arbitrate w d fs t).1 = some f → weightOf w f.cls = 0 →
      ∀ c, 2 ≤ c → c ≤ 6 → (headOf fs c).isSome = true → weightOf w c = 0))

/-- R310, R313, R424: a Read makes its core a sharer and an Own request its core the owner; a write-back frees the line; a walk
that succeeds is cached. -/
def Obligations.SlicesKeepTheirDirectory : Prop :=
  (∀ (s : State) (core c line : Nat), core < 512 → s.limited core c 1 = false → ∃ t e x, exec (.sliceReadRequest core c line) s = .next t ∧
    (t.slice (homeOf (line * 128))).entry line = some e ∧ e.owner = none ∧ e.sharers.getLsbD (clusterOfCore core) = true ∧
    t.l1Line core line = some x ∧ x.excl = false) ∧
  (∀ (s : State) (core c line : Nat), s.ownHeld core line = false → s.limited core c 1 = false → s.ownsLine core line = false →
    ∃ t e, exec (.sliceOwnRequest core c line) s = .next t ∧ (t.slice (homeOf (line * 128))).entry line = some e ∧
      e.owner = some (s.l1Core core line) ∧ e.sharers = 0 ∧ t.ownsLine core line = true ∧
      ∀ k, k ≠ s.l1Core core line → ∀ x ∈ (t.core k).l1, x.line ≠ line) ∧
  (∀ (s : State) (core c line : Nat), s.limited core c 1 = true → exec (.sliceReadRequest core c line) s = .next s) ∧
  (∀ (s : State) (core c line : Nat), s.ownHeld core line = true ∨ s.limited core c 1 = true →
    exec (.sliceOwnRequest core c line) s = .next s) ∧
  (∀ (s : State) (core line : Nat), (s.core core).l1.any (fun x => decide (x.line = line) && x.excl) = true →
    ∃ t, exec (.sliceWriteback core line) s = .next t ∧ (∀ x ∈ (t.core core).l1, x.line ≠ line) ∧
      ∀ e, (t.slice (homeOf (line * 128))).entry line = some e → e.owner = none ∧ e.sharers = 0) ∧
  (∀ (s s1 : State) (die c : Nat) (va : W64) (acc : Access) (level : Nat) (e : TlbEntry),
    (s.walkReads (s.chargeCore c) c (va.toNat % 2 ^ 57)).walk die c (va.toNat % 2 ^ 57) acc level = (s1, .ok e) →
    ∃ t, exec (.pageWalk die c va acc level) s = .next t ∧ (t.dieOf die).tlb.head? = some e ∧ t.mem = s1.mem)

/-! ### Teams and the dispatchers -/

/-- R34, R354, R356, R360, R375: the teams that a dispatcher chose take their places with fresh gangs; a team whose gangs have
finished flushes, then retires; an orphan ends. -/
def Obligations.TeamsArePlacedAndRetire : Prop :=
  (∀ (s : State) (die team core : Nat) (ps : List (Nat × Nat)), s.chosenPlaces die team core false = ps → ps ≠ [] →
    (ps.map (·.1)).Nodup → (∀ q ∈ ps, q.1 < s.nextId) →
    ∃ t, exec (.teamPlacement die team core) s = .next t ∧ ∀ q ∈ ps,
      (t.team q.1).state = .placed ∧ (t.team q.1).core = q.2 ∧ (t.team q.1).gangs.length = (s.team q.1).launch.gangs ∧
      ∀ g < (s.team q.1).launch.gangs, ∀ l < (s.team q.1).launch.gw,
        ((t.team q.1).gang g).pc l = (s.team q.1).launch.entry ∧ ((t.team q.1).gang g).laneState l = .ready) ∧
  (∀ (s : State) (team : Nat), (s.team team).state = .placed → (s.team team).ended = true →
    ((s.team team).flush = none → exec (.teamRetire team) s = .next ((s.startFlush (s.team team).ctx (s.team team).cores).modTeam team
      (fun T => { T with flush := some s.nextId }))) ∧
    (∀ f, (s.team team).flush = some f → s.flushDone f = true → (s.team team).storesDone = true →
      ((s.team team).ret.isSome = true → s.storesHome (s.team team) = true) → s.engineWork team = false →
      ∃ t, exec (.teamRetire team) s = .next t ∧ (t.team team).state = .retired ∧ (t.team team).gangs = []) ∧
    (∀ f, (s.team team).flush = some f → s.flushDone f = false ∨ s.engineWork team = true → exec (.teamRetire team) s = .next s)) ∧
  (∀ (s : State) (team : Nat), s.orphan (s.team team) = true →
    ((s.team team).state = .saved ∨ (s.team team).state = .queued →
      ∃ t, exec (.futureReclaim team) s = .next t ∧ (t.team team).state = .retired ∧ (t.team team).gangs = []) ∧
    ((s.team team).state = .placed → (s.team team).allFinished = false → (s.team team).gangs.all (fun p => p.2.reclaimable) = true →
      ∃ t, exec (.futureReclaim team) s = .next t ∧ (t.team team).state = .placed ∧ (t.team team).allFinished = true ∧
        (t.team team).stopReq = none))

/-- R240, R273 to R277, R453: requests to stop a team, its save, and its return. -/
def Obligations.TeamsAreStoppedSavedAndRestored : Prop :=
  (∀ (s : State) (team : Nat), (s.team team).state = .placed → s.orphan (s.team team) = false → (s.team team).stopReq = none →
    ∃ t, exec (.rotationPreemption team) s = .next t ∧ (t.team team).stopReq =
      some ⟨1, s.time, false, none, none, (s.ctx (s.team team).ctx).rott⟩ ∧ t.mem = s.mem) ∧
  (∀ (s : State) (ctx k : Nat) (T : Team), tfind s.teams k = some T → T.ctx = ctx → T.state = .placed → s.orphan T = false → T.stopReq = none →
    ∃ t, exec (.privilegedContextSave ctx) s = .next t ∧ (t.team k).stopReq = some ⟨8, s.time, false, none, none, (s.ctx ctx).rott⟩ ∧
      t.mem = s.mem) ∧
  (∀ (s : State) (team : Nat) (r : StopReq), (s.team team).state = .placed → (s.team team).stopReq = some r → r.forced = false →
    r.stopped = none → r.since + r.limit * 2400 ≤ s.time →
    ∃ t, exec (.rotationTimeout team) s = .next t ∧
      (t.team team).stopReq = some { r with forced := true, reason := if r.reason = 1 then 2 else r.reason } ∧
      ∀ j G, tfind (s.team team).gangs j = some G → s.orphan (s.team team) = false → G.finished = false → G.level ≠ 2 →
        (∀ x, G.stop ≠ .trapWait x) → G.delayed = false → G.inPoint = false →
        ((t.team team).gang j).stop = .saved) ∧
  (∀ (s : State) (team r : Nat), (s.team team).launch.xg = 0 → s.spillReason team = some r → s.teamQueued (dieOfCore (s.team team).core) = true →
    s.monitorRoom (s.spilling [team]) = true → s.orphan (s.team team) = false →
    ∃ t, exec (.spillTest team) s = .next t ∧
      ((s.saveRoom team).isSome = true → (t.team team).stopReq.map (·.reason) = some r) ∧
      ((∀ p ∈ (s.team team).gangs, p.2.resultsIn = true ∧ p.2.delayed = false ∧ p.2.inPoint = false) → s.opsEnd team = false →
        s.nosplitOp team = false →
        ((s.saveRoom team).isSome = true → (t.team team).state = .saving) ∧
        ((s.saveRoom team).isSome = false → (t.team team).state = .placed ∧ (t.team team).stopReq = none))) ∧
  (∀ (s : State) (team : Nat) (r : StopReq), (s.team team).state = .placed → (s.team team).stopReq = some r →
    s.orphan (s.team team) = false → (s.team team).ended = false →
    (let s1 := s.askMates team r
     let s2 := (s1.mates team).foldl (fun (s : State) u => s.markStops u) s1
     let ts := (s2.mates team).filter (fun u => decide ((s2.team u).state = .placed) && !(s2.team u).ended)
     let s3 := ts.foldl (fun (s : State) u => s.modTeam u (fun T =>
       { T with stopReq := T.stopReq.map (fun r => { r with stopped := some (r.stopped.getD s.time) }) })) s2
     (s2.groupStopped team = false → exec (.teamSave team) s = .next s2) ∧
     (s2.groupStopped team = true → (∀ u ∈ ts, s3.nosplitOp u = false) → ∀ s4, State.reserveAll ts s3 = some s4 →
       ∃ t, exec (.teamSave team) s = .next t ∧ (t.team team).state = .saving ∧ (t.team team).saveOff = (s4.team team).saveOff))) ∧
  (∀ (s s1 : State) (team : Nat) (r : StopReq) (places : List (Nat × Nat)), (s.team team).state = .saving → s.drained team = true →
    (s.team team).stopReq = some r →
    (s.modTeam team (fun T => T.mapGangs (fun _ G => G.endWindows))).recordPlaces team (s.team team).core .write = (s1, some places) →
    (s.ctx (s.team team).ctx).wdDefer = false → (∀ q ∈ s.slices, ∀ m ∈ q.2.spillMon, m.2 ≠ team) →
    ∃ t, exec (.teamSave team) s = .next t ∧ (t.team team).reason = r.reason ∧ (t.team team).stopReq = none ∧
      (r.reason = 6 ∨ r.reason = 8 → (t.team team).state = .saved) ∧
      (r.reason = 1 ∨ r.reason = 2 ∨ r.reason = 4 ∨ r.reason = 5 → (t.team team).state = .queued ∧ (t.team team).classIn = 1)) ∧
  (∀ (s s1 : State) (die team core : Nat) (places : List (Nat × Nat)) (x : Record),
    s.chosenPlaces die team core true = [(team, core)] → s.readRecord team core = (s1, some (places, x)) →
    (recordValid (s1.team team) ((s1.team team).restore x) x = true → ∃ t, exec (.teamRestore die team core) s = .next t ∧ (t.team team).state = .placed ∧
      (t.team team).core = core ∧ (t.team team).reason = 0) ∧
    (recordValid (s1.team team) ((s1.team team).restore x) x = false → ∃ t, exec (.teamRestore die team core) s = .next t ∧ (t.team team).state = .saved ∧
      (t.team team).reason = 7))

/-- R280, R281, R322, R347, R420, R421: a context that runs out of its time is killed: its teams stop, those that hold a place give
it up once the context's accumulates are delivered, and its watchdog stops; clusters are lent and reclaimed, and request limiters refill. -/
def Obligations.OverdueContextsDieAndClustersMove : Prop :=
  ((∀ (s : State) (c k : Nat) (T : Team), (s.ctx c).dying = none → tfind s.teams k = some T → T.ctx = c →
    ∀ why, (let t := s.killFor c why
     ((t.team k).state = .retired ∨ (T.onDie = true ∧ (t.team k).state = .killed ∧ (t.ctx c).dying.isSome = true)) ∧
     (t.ctx c).wdStart = none ∧ (t.ctx c).wdDefer = false)) ∧
  (∀ (s : State) (c t0 : Nat), (s.ctx c).wdStart = some t0 → (s.ctx c).wdogNow ≠ 0 →
    t0 + (s.ctx c).wdogNow * 2400000 ≤ s.time →
    ((∀ p ∈ s.teams, p.2.ctx = c → p.2.state ≠ .saving ∧ ∀ r, p.2.stopReq = some r → r.stopped = none) →
      exec (.watchdogExpiry c) s = .next (s.killFor c .watchdog)) ∧
    ((∃ p ∈ s.teams, p.2.ctx = c ∧ p.2.state = .saving) →
      exec (.watchdogExpiry c) s = .next (s.modCtx c (fun C => { C with wdDefer := true })))) ∧
  (∀ (s : State) (team t0 : Nat) (r : StopReq), (s.team team).stopReq = some r → r.stopped = some t0 → (s.team team).onDie = true →
    t0 + 1200000 ≤ s.time → exec (.saveBoundExpiry team) s =
      .next ((if (s.team team).state = .saving then s.partRecord team else s).killFor (s.team team).ctx .unsaved)) ∧
  (∀ (s : State) (team u t0 : Nat) (r : StopReq) (j : Nat) (G : Gang), (s.team team).stopReq = some r → (s.team team).state = .placed →
    r.reason = 5 → u ∈ s.mates team → (s.cluster (clusterOfCore (s.team u).core)).reclaim = some t0 → t0 + 2400000 ≤ s.time →
    (j, G) ∈ (s.team team).gangs → G.finished = false → G.level = 2 →
    exec (.reclaimRefusedTimeout team) s = .next (s.killFor (s.team team).ctx .reclaimRefused))) ∧
  ((∀ (s : State) (cl p : Nat), s.lendable cl = true → (s.part p).borrows = true → s.ownerOf (cl / 8) ≠ some p →
    s.stuckHead (cl / 32) p (fun t => (s.saveRoom t).isSome) = true →
    ∃ t, exec (.clusterLend cl p) s = .next t ∧ (t.cluster cl).lent = some p ∧ (t.cluster cl).fused = false ∧
      ∀ k, k ≠ cl → t.cluster k = s.cluster k) ∧
  (∀ (s : State) (cl o : Nat), s.ownerOf (cl / 8) = some o → s.stuckHead (cl / 32) o (fun _ => true) = true →
    (s.cluster cl).lent.isSome = true → (s.cluster cl).reclaim = none →
    ∃ t, exec (.clusterReclaim cl) s = .next t ∧
      (s.clusterIdle cl = true → (t.cluster cl).lent = none ∧ (t.cluster cl).reclaim = none) ∧
      (s.clusterIdle cl = false → (t.cluster cl).reclaim = some s.time ∧ (t.cluster cl).lent = (s.cluster cl).lent ∧
        ∀ k T, tfind s.teams k = some T → T.state = .placed → clusterOfCore T.core = cl → s.orphan T = false →
          (T.stopReq = none → (t.team k).stopReq = some ⟨5, s.time, false, none, none, (s.ctx T.ctx).rott⟩) ∧
          ∀ r, T.stopReq = some r → r.reason < 5 → (t.team k).stopReq = some { r with reason := 5 })) ∧
  (∀ (s : State) (die p : Nat), tget 0 (s.dieOf die).limAt p / 1024 < s.time / 1024 →
    ∃ t, exec (.limiterRefill die p) s = .next t ∧ tget 0 (t.dieOf die).limAt p = s.time ∧
      tget 0 (t.dieOf die).limiter p = min ((s.dieOf die).burst p : Int) (tget 0 (s.dieOf die).limiter p +
        ((s.time / 1024 - tget 0 (s.dieOf die).limAt p / 1024 : Nat) : Int) * (s.dieOf die).rate p) ∧ t.mem = s.mem))

/-- R335, R336, R538 to R540: requests of other packages that an extent's tag admits: reads, writes, atomics, accumulates, monitors and
wake-ups; one that no tag admits is answered without data. Every form completes; an atomic whose line has accumulate refusals
pending waits, and completes once there are none. -/
def Obligations.RemoteRequestsAreServed : Prop :=
  (∀ (s : State) (pkg tag pa n p : Nat), s.admits tag pa = some p →
    (let s1 := s.sliceFetch noCore (s.ownerCtx p) (lineOf pa)
     exec (.remoteRequestAdmission pkg tag pa (.read n)) s =
       .next (s1.reply s pkg pa (if poisoned s1.poison pa n then [] else readBytes s1.mem pa n)))) ∧
  (∀ (s : State) (pkg tag pa p : Nat) (bs : List Byte), s.admits tag pa = some p →
    exec (.remoteRequestAdmission pkg tag pa (.write bs)) s = .next ((s.homeStore p pa bs).reply s pkg pa []) ∧
    ∀ k (h : k < bs.length), readByte (s.homeStore p pa bs).mem (pa + k) = bs[k]) ∧
  (∀ (s s1 : State) (pkg tag pa p : Nat) (op : AtomOp) (wide sgn : Bool) (y z : W64), s.admits tag pa = some p → s.ownWaits pa = false →
    s1 = (s.settleLine (lineOf pa)).invalidate (lineOf pa) none →
    poisoned s1.poison pa (if wide then 8 else 4) = false →
    exec (.remoteRequestAdmission pkg tag pa (.atomic op wide sgn y z)) s =
      .next ((s1.homeStore p pa (bytesOfNum (if wide then 8 else 4) (atomOp op (8 * if wide then 8 else 4) sgn
        (readNum s1.mem pa (if wide then 8 else 4)) y.toNat z.toNat))).reply s pkg pa
          (bytesOfNum (if wide then 8 else 4) (readNum s1.mem pa (if wide then 8 else 4))))) ∧
  (∀ (s : State) (pkg tag pa p : Nat) (op : AccOpc) (slots : Tbl W32) (late : Bool), s.admits tag pa = some p →
    exec (.remoteRequestAdmission pkg tag pa (.accum op slots late)) s = .next (s.remoteAccum pkg p pa op slots late)) ∧
  (∀ (s : State) (pkg tag pa p : Nat), s.admits tag pa = some p → (s.slice (homeOf pa)).spillMon.length < 1024 →
    exec (.remoteRequestAdmission pkg tag pa .monitor) s = .next (s.modSlice (homeOf pa) (fun S =>
      { S with spillMon := S.spillMon ++ [(lineOf pa, 2 ^ 32 + pkg)] }))) ∧
  (∀ (s : State) (pkg tag pa : Nat), ∃ t, exec (.remoteRequestAdmission pkg tag pa .wake) s = .next t ∧ t.mem = s.mem ∧
    ∀ k T j G, tfind s.teams k = some T → T.onDie = true → (j, G) ∈ T.gangs → G.prog = none → ∀ l ∈ G.allLanes, ∀ b d e,
      G.laneState l = .waiting (.memory false b d e) → b = lineOf pa →
      ∃ H, (j, H) ∈ (t.team k).gangs ∧ H.laneState l = .ready ∧ H.pc l = G.pc l + 8) ∧
  (∀ (s : State) (pkg tag pa n : Nat), s.admits tag pa = none →
    exec (.remoteRequestAdmission pkg tag pa (.read n)) s = .next ((s.signal 0 1).reply s pkg pa [])) ∧
  (∀ (s : State) (pkg tag pa : Nat) (bs : List Byte), s.admits tag pa = none →
    exec (.remoteRequestAdmission pkg tag pa (.write bs)) s = .next ((s.signal 0 1).reply s pkg pa [])) ∧
  (∀ (s : State) (pkg tag pa p : Nat) (op : AccOpc) (slots : Tbl W32) (late : Bool), s.admits tag pa = some p →
    s.heldExclusive (lineOf pa) = false →
    (s.slice (homeOf pa)).accept.length + (s.slice (homeOf pa)).grants.length < 64 →
    ∃ t, exec (.remoteRequestAdmission pkg tag pa (.accum op slots late)) s = .next t ∧
      t.mem = applySlots (s.settleLine (lineOf pa)).mem (pa / 64) op slots) ∧
  (∀ (s : State) (pkg tag pa : Nat) (req : RemoteReq),
    ((∃ n, req = .read n) ∨ (∃ bs, req = .write bs) ∨ (∃ op slots late, req = .accum op slots late) ∨ req = .monitor ∨ req = .wake ∨
      ((∃ op wide sgn y z, req = .atomic op wide sgn y z) ∧ s.ownWaits pa = false)) →
    ∃ t, exec (.remoteRequestAdmission pkg tag pa req) s = .next t ∧ t.time = s.time) ∧
  (∀ (s : State) (pkg tag pa p : Nat) (op : AtomOp) (wide sgn : Bool) (y z : W64), s.admits tag pa = some p → s.ownWaits pa = true →
    exec (.remoteRequestAdmission pkg tag pa (.atomic op wide sgn y z)) s = .next s)

/-! ### Host interface -/

/-- R472 to R475: rings are enabled, disabled, notified and served; the parser takes packets, waits, and writes HEAD back. A rate token
is 2,400 parts of `creditAt`. -/
def Obligations.RingsAreServed : Prop :=
  (∀ (s : State) (fn ring : Nat) (v : W64), s.ringOk fn ring = true → (s.func fn).usable = true → (s.ring fn ring).en = false →
    3 ≤ (v.extractLsb' 0 5).toNat → (v.extractLsb' 0 5).toNat ≤ 16 →
    ∃ t, exec (.ringEnable fn ring v) s = .next t ∧ t.ring fn ring = { s.ring fn ring with
      en := true, vec := (v.extractLsb' 16 8).toNat, log2n := (v.extractLsb' 0 5).toNat, head := 0, tail := 0, comp := 0, err := 0,
      wakeAgain := false, epoch := (s.ring fn ring).epoch + 1 }) ∧
  (∀ (s : State) (fn ring : Nat), s.ringOk fn ring = true → (s.func fn).usable = true → (s.ring fn ring).en = true →
    ∃ t, exec (.ringDisable fn ring) s = .next t ∧ t.ring fn ring = { s.ring fn ring with
      en := false, stopped := false, waitSlot := none, pkts := (s.ring fn ring).pkts.filter (fun p => p.started) }) ∧
  (∀ (s : State) (fn ring : Nat) (v : BitVec 32), s.ringOk fn ring = true → (s.func fn).usable = true → (s.ring fn ring).en = true →
    (let R := s.ring fn ring
     let far : Nat := (v - R.tail).toNat
     (1 ≤ far → far < 2 ^ 31 → 2 ^ R.log2n < (v - R.head).toNat →
       ∃ t, exec (.notifyWrite fn ring v) s = .next t ∧ (t.ring fn ring).en = false ∧ (t.ring fn ring).err = 1) ∧
     (1 ≤ far → far < 2 ^ 31 → (v - R.head).toNat ≤ 2 ^ R.log2n → (s.func fn).rate = 0 →
       ∃ t, exec (.notifyWrite fn ring v) s = .next t ∧ t.ring fn ring = { R with tail := v, run := true, waitSlot := none }) ∧
     (far = 0 ∨ 2 ^ 31 ≤ far → (s.func fn).rate ≠ 0 → (s.func fn).creditAt s.time < 2400 →
       ∃ t, exec (.notifyWrite fn ring v) s = .next t ∧ t.ring fn ring = { R with wakeAgain := true }) ∧
     (far = 0 ∨ 2 ^ 31 ≤ far → (s.func fn).rate ≠ 0 → 2400 ≤ (s.func fn).creditAt s.time →
       ∃ t, exec (.notifyWrite fn ring v) s = .next t ∧ t.ring fn ring = { R with run := true, waitSlot := none } ∧
         (t.func fn).creditAt s.time = (s.func fn).creditAt s.time - 2400))) ∧
  (∀ (s : State) (fn : Nat), (s.waitingRings fn = [] → exec (.tokenRefill fn) s = .next s) ∧
    ((s.func fn).rate ≠ 0 → (s.func fn).creditAt s.time < 2400 → exec (.tokenRefill fn) s = .next s) ∧
    ∀ r rest, s.waitingRings fn = r :: rest → ((s.func fn).rate = 0 ∨ 2400 ≤ (s.func fn).creditAt s.time) →
      ∃ t, exec (.tokenRefill fn) s = .next t ∧ (t.ring fn r).run = true ∧ (t.ring fn r).wakeAgain = false) ∧
  (∀ (s : State) (fn : Nat) (v : W64), 1 ≤ fn → fn ≤ 16 → (s.func 0).usable = true →
    ∃ t, exec (.notifyrateWrite fn v) s = .next t ∧ (t.func fn).depth = max 1 (v.extractLsb' 16 8).toNat ∧
      (t.func fn).rate = (v.extractLsb' 0 16).toNat ∧ (s.waitingRings fn = [] → (t.func fn).creditAt s.time = (t.func fn).depth * 2400) ∧
      ∀ r rest, s.waitingRings fn = r :: rest → (t.ring fn r).run = true) ∧
  (∀ (s : State) (fn ring : Nat), (s.cmdCore 0).held = false → (s.cmdCore 0).golden = true → (s.func fn).usable = true →
    (s.ring fn ring).run = true → (s.ring fn ring).waitSlot = none →
    (let R := s.ring fn ring
     let bs := s.readSlot fn R R.head
     (R.en = true → R.head ≠ R.tail → R.stopped = false → seqOk bs R.head = true → slotType bs ≠ 8 →
       packetOk bs = true → ∃ t, exec (.parserDrain fn ring) s = .next t ∧ (t.ring fn ring).head = R.head + 1 ∧
         (t.ring fn ring).pkts = R.pkts ++ [{ pos := R.epoch * 2 ^ 32 + R.head.toNat, bytes := bs }] ∧ t.mem = s.mem) ∧
     (R.en = true → R.head ≠ R.tail → R.stopped = false → seqOk bs R.head = false →
       ∃ t, exec (.parserDrain fn ring) s = .next t ∧ t.ring fn ring = { R with waitSlot := some s.time }) ∧
     (R.head = R.tail ∨ R.stopped = true → ∃ t, exec (.parserDrain fn ring) s = .next t ∧ (t.ring fn ring).run = R.wakeAgain ∧
       (t.ring fn ring).wakeAgain = false ∧ (t.ring fn ring).wbDirty = none))) ∧
  (∀ (s : State) (fn ring t0 : Nat), (s.cmdCore 0).held = false → (s.cmdCore 0).golden = true → (s.ring fn ring).waitSlot = some t0 →
    t0 + 4800 ≤ s.time →
    ∃ t, exec (.parserRetry fn ring) s = .next t ∧ t.ring fn ring = { s.ring fn ring with waitSlot := none }) ∧
  (∀ (s : State) (fn ring t0 : Nat), (s.cmdCore 0).held = false → (s.cmdCore 0).golden = true → (s.ring fn ring).wbDirty = some t0 →
    t0 + 48000 ≤ s.time → ∃ t, exec (.headWritebackTimer fn ring) s = .next t ∧ (t.ring fn ring).wbDirty = none ∧
      t.hostNum fn (s.ring fn ring).headwb.toNat 4 = (s.ring fn ring).head.toNat ∧
      t.hostNum fn ((s.ring fn ring).headwb.toNat + 4) 4 = (s.ring fn ring).comp.toNat ∧ t.mem = s.mem)

/-- R351, R352, R416, R476 to R481: packets whose turn has come act and complete; a packet that completes carries
its code, and its status word, where it asked for one, is in host memory. -/
def Obligations.PacketsActAndComplete : Prop :=
  (∀ (s : State) (fn ring pos : Nat) (p : PktRun), s.pktTurn fn ring pos = some p →
    (let c := s.ringCtx fn ring
     let u := s.startPkt fn ring pos
     let src : W64 := BitVec.ofNat 64 (p.num 16 8)
     let dst : W64 := BitVec.ofNat 64 (p.num 24 8)
     ((s.cmdCore 1).held = false → (s.cmdCore 1).golden = true →
       (slotType p.bytes = 1 → s.dieDown = false → p.serial = none →
         ((s.ctx c).en = false → exec (.launch fn ring pos) s = .next (u.completePkt fn ring pos 3 1)) ∧
         (∀ row, (s.ctx c).en = true → launchBad (launchOf p) = some row → exec (.launch fn ring pos) s = .next (u.completePkt fn ring pos 3 row)) ∧
         ((s.ctx c).en = true → launchBad (launchOf p) = none → u.everFits (u.partOf c) (launchOf p) = false →
           exec (.launch fn ring pos) s = .next (u.completePkt fn ring pos 4 0)) ∧
         ((s.ctx c).en = true → launchBad (launchOf p) = none → u.everFits (u.partOf c) (launchOf p) = true → (launchOf p).cAddr = 0 →
           ∃ t k T, exec (.launch fn ring pos) s = .next t ∧ (k, T) ∈ t.teams ∧ T.ctx = c ∧ T.launch = launchOf p ∧ T.index = 0 ∧
             T.state = .queued ∧ T.serial = (s.ctx c).serial)) ∧
       (slotType p.bytes = 9 → u.savedAt c src = none → exec (.relaunch fn ring pos) s = .next (u.completePkt fn ring pos 7 0)) ∧
       (∀ k s1 ps r, slotType p.bytes = 9 → u.savedAt c src = some k → u.readRecord k (u.chargeCore c) = (s1, some (ps, r)) →
         recordValid (s1.team k) ((s1.team k).restore r) r = true → (s1.team k).state = .saved →
         ∃ t, exec (.relaunch fn ring pos) s = .next t ∧ (t.team k).state = .queued ∧ (t.team k).classIn = 1)) ∧
     ((s.cmdCore 0).held = false → (s.cmdCore 0).golden = true →
       (slotType p.bytes = 2 → exec (.copy fn ring pos) s = .next u) ∧
       (slotType p.bytes = 2 → p.started = true → p.srcHost = true → p.dstHost = true →
         exec (.copyPacketComplete fn ring pos) s =
           .next (((s.hostPut fn dst.toNat (s.hostBytes fn src.toNat (p.num 32 8))).pktEnd c).completePkt fn ring pos 1 0)) ∧
       (∀ s1 ps, slotType p.bytes = 2 → p.started = true → p.srcHost = true → p.dstHost = false →
         s.pktLines c p .write (linePieces dst (p.num 32 8)) = (s1, ps, none) → exec (.copyPacketComplete fn ring pos) s =
           .next (((s1.pktWrites c ps (s1.hostBytes fn src.toNat (p.num 32 8))).pktEnd c).completePkt fn ring pos 1 0)) ∧
       (∀ s1 s2 ps bs, slotType p.bytes = 2 → p.started = true → p.srcHost = false → p.dstHost = true →
         s.pktLines c p .read (linePieces src (p.num 32 8)) = (s1, ps, none) → s1.pktReads c ps = (s2, bs, false) →
         exec (.copyPacketComplete fn ring pos) s = .next (((s2.hostPut fn dst.toNat bs).pktEnd c).completePkt fn ring pos 1 0)) ∧
       (∀ s1 s2 s3 ps qs bs, slotType p.bytes = 2 → p.started = true → p.srcHost = false → p.dstHost = false →
         s.pktLines c p .read (linePieces src (p.num 32 8)) = (s1, ps, none) →
         s1.pktLines c p .write (linePieces dst (p.num 32 8)) = (s2, qs, none) → s2.pktReads c ps = (s3, bs, false) →
         exec (.copyPacketComplete fn ring pos) s = .next (((s3.pktWrites c qs bs).pktEnd c).completePkt fn ring pos 1 0)) ∧
       (∀ s1 w, slotType p.bytes = 3 → u.testRead fn ring pos p = (s1, some w) → exec (.waitMem fn ring pos) s =
         .next (if testHolds p w then s1.completePkt fn ring pos 1 0 else s1.modPkt fn ring pos (fun p => { p with since := s.time }))) ∧
       (slotType p.bytes = 3 → p.started = true → p.testHost = true → p.since + 2400 ≤ s.time → exec (.waitMemHostPoll fn ring pos) s =
         .next (if testHolds p (s.hostNum fn (p.num 16 8) (p.num 41 1)) then s.completePkt fn ring pos 1 0
           else s.modPkt fn ring pos (fun p => { p with since := s.time }))) ∧
       (slotType p.bytes = 4 → p.num 33 1 = 1 → exec (.writeMem fn ring pos) s =
         .next ((u.hostPut fn (p.num 16 8) (bytesOfNum (p.num 32 1) (p.num 24 8))).completePkt fn ring pos 1 0)) ∧
       (∀ s1 pa, slotType p.bytes = 4 → p.num 33 1 ≠ 1 → u.pktAccess c p src .write = (s1, .ok pa) → exec (.writeMem fn ring pos) s =
         .next (((s1.requestWrite (s1.chargeCore c) c pa (bytesOfNum (p.num 32 1) (p.num 24 8))).pktEnd c).completePkt fn ring pos 1 0)) ∧
       (slotType p.bytes = 5 → p.started = false → p.num 16 1 ≠ 1 → exec (.fencePacket fn ring pos) s =
         .next (u.completePkt fn ring pos 1 0)) ∧
       (slotType p.bytes = 6 → exec (.energyMark fn ring pos) s = .next ((u.modCtx c (fun C => C.addMark
         ⟨s.time, C.consumed, BitVec.ofNat 64 (p.num 16 8)⟩)).completePkt fn ring pos 1 0)) ∧
       (slotType p.bytes = 7 → p.num 24 1 = 1 → exec (.timestamp fn ring pos) s =
         .next ((u.hostPut fn (p.num 16 8) (bytesOfNum 8 s.time)).completePkt fn ring pos 1 0)) ∧
       (∀ s1 w, slotType p.bytes = 8 → u.testRead fn ring pos p = (s1, some w) →
         (let key (k : Nat) : Nat := pos / 2 ^ 32 * 2 ^ 32 + (pos + 1 + k) % 2 ^ 32
          exec (.predicate fn ring pos) s = .next ((s1.skipAll fn ring (if testHolds p w then
            (List.range (p.num 44 1)).map (fun k => key (p.num 43 1 + k)) else (List.range (p.num 43 1)).map key)).completePkt fn ring pos 1 0)))))) ∧
  (∀ (s : State) (fn ring pos code detail : Nat) (p : PktRun), (s.ring fn ring).pkt pos = some p → p.code = none →
    (∀ q, ((s.completePkt fn ring pos code detail).ring fn ring).pkt pos = some q → q.code = some (code, detail)) ∧
    (p.status = true → p.num 8 8 % 8 = 0 → code < 256 → detail < 2 ^ 24 →
      (let a := (s.ring fn ring).headwb.toNat + 4
       a + 4 ≤ p.num 8 8 ∨ p.num 8 8 + 8 ≤ a) →
      (s.completePkt fn ring pos code detail).hostNum fn (p.num 8 8) 8 = p.num 0 4 * 2 ^ 32 + detail * 256 + code) ∧
    (s.completePkt fn ring pos code detail).mem = s.mem)

/-- R428: no TLB, of a die, of a cluster or of a core, holds an entry that a test names. -/
def NoTlb (t : State) (test : TlbEntry → Prop) : Prop :=
  (∀ d ∈ t.dies, ∀ e ∈ d.2.tlb, ¬test e) ∧ (∀ c ∈ t.clusters, ∀ e ∈ c.2.tlb, ¬test e) ∧ (∀ c ∈ t.cores, ∀ e ∈ c.2.tlb, ¬test e)

/-- R427, R428, R432, R466: invalidations leave no entry that they name; one during another waits for it; answers end page requests; an
export is asked for. -/
def Obligations.InvalidationsAndAnswersTakeEffect : Prop :=
  (∀ (s : State) (fn : Nat) (v : W64), (s.cmdCore 2).held = false → (s.cmdCore 2).golden = true → (s.func fn).usable = true →
    1 ≤ fn → fn ≤ 16 →
    ((s.part (partOfFn fn)).hasCtx (tlbCtx v) = true → (s.func fn).tlbq = [] →
      (∃ t, exec (.tlbinvBlock fn v) s = .next t ∧ NoTlb t (fun e =>
        e.ctx = tlbCtx v ∧ e.va < tlbBase v + 2 ^ tlbSize v ∧ tlbBase v < e.va + 2 ^ e.size)) ∧
      (∃ t, exec (.tlbinvContext fn v) s = .next t ∧ NoTlb t (fun e => e.ctx = tlbCtx v)) ∧
      (∃ t, exec (.tlbinvPartition fn v) s = .next t ∧ NoTlb t (fun e => s.partOf e.ctx = partOfFn fn))) ∧
    ((s.part (partOfFn fn)).hasCtx (tlbCtx v) = true → (s.func fn).tlbq ≠ [] → (s.func fn).tlbq.length < 17 →
      ∃ t, exec (.tlbinvContext fn v) s = .next t ∧ t.dies = s.dies ∧ t.cores = s.cores ∧
        (t.func fn).tlbq = (s.func fn).tlbq ++ [{ v := (v &&& ~~~0xC00#64) ||| 0x400, s2 := false }]) ∧
    ((s.part (partOfFn fn)).hasCtx (tlbCtx v) = false ∨ 17 ≤ (s.func fn).tlbq.length →
      (∃ t, exec (.tlbinvBlock fn v) s = .next t ∧ (t.func fn).tlbErr = true ∧ t.dies = s.dies) ∧
      (∃ t, exec (.tlbinvContext fn v) s = .next t ∧ (t.func fn).tlbErr = true ∧ t.dies = s.dies) ∧
      (∃ t, exec (.tlbinvPartition fn v) s = .next t ∧ (t.func fn).tlbErr = true ∧ t.dies = s.dies))) ∧
  (∀ (s : State) (v : W64), (s.cmdCore 2).held = false → (s.cmdCore 2).golden = true → (s.func 0).usable = true → (s.func 0).tlbq = [] →
    ((v.extractLsb' 10 2).toNat = 0 → ∃ t, exec (.s2inv v) s = .next t ∧ NoTlb t (fun e =>
      s.partOf e.ctx = (v.extractLsb' 0 4).toNat ∧ e.ipa < tlbBase v + 2 ^ tlbSize v ∧ tlbBase v < e.ipa + 2 ^ e.size)) ∧
    ((v.extractLsb' 10 2).toNat = 1 ∨ (v.extractLsb' 10 2).toNat = 2 → ∃ t, exec (.s2inv v) s = .next t ∧
      NoTlb t (fun e => s.partOf e.ctx = (v.extractLsb' 0 4).toNat))) ∧
  (∀ (s : State) (fn id : Nat) (r : PageReq), (s.cmdCore 2).held = false → (s.cmdCore 2).golden = true →
    (s.func fn).usable = true → fn ≤ 16 → s.prqs.find? (fun q => decide (q.id = id)) = some r → r.fn = fn → s.parked = [] →
    (∃ t, exec (.prqResponseOk fn id) s = .next t ∧ (∀ q ∈ t.prqs, q.id ≠ id) ∧
      ∀ k T j G, tfind s.teams k = some T → T.ctx = r.ctx → tfind T.gangs j = some G → G.stop = .replay [id] [] →
        (t.gang k j).stop = .none ∧ (t.gang k j).failed = G.failed) ∧
    (∃ t, exec (.prqResponseFail fn id) s = .next t ∧ (∀ q ∈ t.prqs, q.id ≠ id) ∧
      ∀ k T j G, tfind s.teams k = some T → T.ctx = r.ctx → tfind T.gangs j = some G → G.stop = .replay [id] [] →
        (t.gang k j).stop = .none ∧ (r.page, r.s2) ∈ (t.gang k j).failed ∧ ∀ x ∈ G.failed, x ∈ (t.gang k j).failed)) ∧
  (∀ (s : State) (fn : Nat), (s.func fn).usable = true → fn ≤ 16 →
    ∃ t, exec (.exportRequest fn) s = .next t ∧ t.mem = s.mem ∧
      (fn ≠ 0 → (t.part (partOfFn fn)).exportReq = true) ∧ (fn = 0 → ∀ p < 16, (s.part p).enabled = true → (t.part p).exportReq = true))

/-- R18, R435, R449, R452, R469 to R471, R483, R485, R486, R490: contexts, images, mailboxes and registers. -/
def Obligations.HostRegistersAndMailboxesAct : Prop :=
  (∀ (s : State) (c : Nat), (s.cmdCore 2).held = false → (s.cmdCore 2).golden = true → s.ctxOk c = true →
    (s.ctx c).dying = none →
    ((s.ctx c).en = false → ∃ t, exec (.contextEnable c) s = .next t ∧ (t.ctx c).en = true ∧ (t.ctx c).level = 0 ∧ (t.ctx c).consumed = 0 ∧
      ∀ k, k ≠ c → t.ctx k = s.ctx k) ∧
    ((s.ctx c).en = true → ∃ t, exec (.contextDisable c) s = .next t ∧ (t.ctx c).en = false ∧
      ∀ k T, tfind s.teams k = some T → T.ctx = c →
        (t.team k).state = .retired ∨ (T.onDie = true ∧ (t.team k).state = .killed ∧ (t.ctx c).dying.isSome = true))) ∧
  ((∀ (s : State) (v : W64), (s.func 0).usable = true → s.ccload.getLsbD 3 = false → v.getLsbD 3 = true →
    ∃ t, exec (.ccload v) s = .next t ∧ t.ccload.getLsbD 3 = true ∧ (t.ccload.extractLsb' 10 2).toNat = 1 ∧
      (t.cmdCore (v.extractLsb' 0 3).toNat).held = true ∧ t.mem = s.mem) ∧
   (∀ (s : State) (v : W64), (s.func 0).usable = true → s.ccload.getLsbD 3 = true → exec (.ccload v) s = .next s) ∧
   (∀ s : State, s.ccload.getLsbD 3 = true →
     (let c := (s.ccload.extractLsb' 0 3).toNat
      let img := s.imageAt (s.ccload &&& ~~~0xFFF#64)
      let t := s.endLoading
      t.ccload.getLsbD 3 = false ∧
      (s.coreImage c img = true → (t.ccload.extractLsb' 10 2).toNat = 2 ∧ t.cmdCore c = CmdCore.start img (s.fuses.signed img)) ∧
      (s.coreImage c img = false → (t.ccload.extractLsb' 10 2).toNat = 3 ∧ (t.cmdCore c).held = true)))) ∧
  (∀ (s : State) (a m : Nat) (v : W64), m < 16 → a < 8 → (s.cmdCore a).held = false →
    ((s.mailbox m).full = false ∨ (s.mailbox m).since = s.time ∧ a < (s.mailbox m).sender → ∃ t, exec (.mailboxPublish a m v) s = .next t ∧
      t.mailbox m = { (s.mailbox m) with data := writeBytes (s.mailbox m).data 56 (bytesOfNum 8 v.toNat), full := true, sender := a, since := s.time } ∧
      (t.cmdCore (s.mailbox m).rcv).irq = true) ∧
    ((s.mailbox m).full = true → (s.mailbox m).since ≠ s.time ∨ (s.mailbox m).sender ≤ a → exec (.mailboxPublish a m v) s = .next s)) ∧
  (∀ (s : State) (a m : Nat), m < 16 → a < 8 → (s.cmdCore a).held = false →
    (a = (s.mailbox m).rcv → ∃ t, exec (.mailboxClear a m) s = .next t ∧ t.mailbox m = { (s.mailbox m) with full := false } ∧
      (t.cmdCore a).irq = false) ∧
    (a ≠ (s.mailbox m).rcv → exec (.mailboxClear a m) s = .next s)) ∧
  (∀ (s : State) (k : Nat), k < 17 → ∃ t, exec (.readClearRegister 0 (0x800100 + 8 * k)) s = .next t ∧ t.func k = { s.func k with flrDrop := 0 } ∧
    ∀ j, j ≠ k → t.func j = s.func j) ∧
  (∀ (s : State) (p : Nat), p < 18 → ∃ t, exec (.readClearRegister 25 p) s = .next t ∧ t.port p = { s.port p with replays := 0 } ∧
    ∀ q, q ≠ p → t.port q = s.port q) ∧
  (∀ (s : State) (fn vec : Nat), fn ≤ 16 → vec < 64 →
    (let F := s.func fn
     let goes := F.msixPend.getLsbD vec && F.msixOn && !F.msixHeld
     ∃ t, exec (.msixMaskClear fn vec) s = .next t ∧ (t.func fn).msixMask.getLsbD vec = false ∧
       (t.func fn).msixPend.getLsbD vec = (F.msixPend.getLsbD vec && !goes) ∧
       t.msgs = if goes then s.msgs ++ [(fn, vec, (tget {} F.msixTab vec).addr, (tget {} F.msixTab vec).data)] else s.msgs)) ∧
  (∀ (s : State) (fn off size : Nat) (v : W64), fn ≤ 16 → off < 0x1000000 → (size = 8 ∧ off % 8 = 0) ∨ (size = 4 ∧ off % 4 = 0) →
    ((s.func fn).usable = false → ∃ t, exec (.registerWrite fn off size v) s = .next t ∧
      t = s.dropWrite fn ∧ (t.func fn).flrDrop = (if (s.func fn).flrDrop = 0xFFFFFFFF then (s.func fn).flrDrop else (s.func fn).flrDrop + 1) ∧
      t.mem = s.mem ∧ ∀ j, j ≠ fn → t.func j = s.func j) ∧
    ((s.func fn).usable = true → fn ≠ 0 ∨ off / 8 * 8 ≠ 0x800638 → coreTwo fn off = false ∨ (s.cmdCore 2).held = false ∧ (s.cmdCore 2).golden = true →
      exec (.registerWrite fn off size v) s = .next (s.regPut fn (off / 8 * 8) (s.merged fn off size v) (size = 8 || off % 8 = 0))) ∧
    (∀ k < 8, (s.cmdCore k).held = false →
      exec (.registerWrite (17 + k) (0xC000000000 + 0x1000000 * fn + off) size v) s = exec (.registerWrite fn off size v) s)) ∧
  (∀ (s : State) (fn k : Nat) (v : W64) (x : BitVec 32), fn ≤ 16 → (s.func fn).usable = false →
    exec (.ringEnable fn k v) s = .next (s.dropWrite fn) ∧ exec (.ringDisable fn k) s = .next (s.dropWrite fn) ∧
    exec (.notifyWrite fn k x) s = .next (s.dropWrite fn) ∧ exec (.tlbinvBlock fn v) s = .next (s.dropWrite fn) ∧
    exec (.tlbinvContext fn v) s = .next (s.dropWrite fn) ∧ exec (.tlbinvPartition fn v) s = .next (s.dropWrite fn) ∧
    exec (.prqResponseOk fn k) s = .next (s.dropWrite fn) ∧ exec (.prqResponseFail fn k) s = .next (s.dropWrite fn) ∧
    exec (.exportRequest fn) s = .next (s.dropWrite fn)) ∧
  (∀ (s : State) (fn r : Nat) (v : W64), 1 ≤ fn → r < 8 * (s.part (partOfFn fn)).ctxCount →
    (s.part (partOfFn fn)).ctxCount ≤ 256 → (s.ring fn r).en = false →
    ((s.regPut fn (0x20000 + 64 * r) v true).ring fn r).base = v &&& ~~~0xFFF#64) ∧
  ((∀ (s : State) (v : W64), (s.func 0).usable = true →
    (s.agtCtl.getLsbD 15 = true → exec (.agtcmdFragment v) s = .next ((s.putFrag v).agtStatus 6 0)) ∧
    (s.agtCtl.getLsbD 15 = false → ∃ t, exec (.agtcmdFragment v) s = .next t ∧ t.agtCtl.getLsbD 15 = true ∧ ctlFrag t.agtCtl = ctlFrag v ∧
      t.agtCtl.getLsbD 14 = v.getLsbD 14 ∧ t.agtBuf = s.agtBuf)) ∧
   (∀ s : State, (ctlFrag s.agtCtl * 56 ≠ s.agtBuf.length ∨ 46 < ctlFrag s.agtCtl → s.takeFragment = s.agtStatus 6 0) ∧
    (ctlFrag s.agtCtl * 56 = s.agtBuf.length → ctlFrag s.agtCtl ≤ 46 → s.agtCtl.getLsbD 14 = false →
      s.takeFragment.agtBuf = s.agtBuf ++ (List.range 7).flatMap (fun i => bytesOfNum 8 (tget 0 s.agtData i).toNat) ∧
      s.takeFragment.agtCtl = BitVec.ofNat 64 (2 ^ 40) ||| (s.agtCtl &&& 0x403F))))

/-! ### Agtur, starts and failures -/

/-- R412, R415, R421, R438, R485, R488 to R491, R494 to R498, R531: an accepted command of the management port has its own effect; a
command is refused for its form, its package, its signature or its sequence number, in that order; what is refused
changes nothing but what is told of it; a command during another gets STATUS 8; in the recovery state none is taken. -/
def Obligations.CommandsActOrChangeNothing : Prop :=
  (∀ (s : State) (c : Command), c.mgmt = true → s.agtBuf = [] → s.agtCtl.getLsbD 15 = false → s.scrubs = [] → s.recovering = false →
    s.refuses c = none →
    (let u : State := { s with agtSeq := c.seq }
     let w (o : Nat) : W64 := BitVec.ofNat 64 (bodyNum c o 8)
     let part := bodyNum c 0 1
     (c.code = 0x0001 → exec (.coldStartCommand c) s = .next ((u.answer 3 0).startCold (Config.startFails s.time % 8))) ∧
     (c.code = 0x0002 → s.powered = true → exec (.warmStartCommand c) s = .next ((u.answer 3 0).startWarm (Config.startFails s.time % 8) true)) ∧
     (c.code = 0x0003 → ∃ t, exec (.recovery c) s = .next t ∧ t.cmdCores = t.goldenCores ∧ t.mailboxes = [] ∧ t.agtSeq = c.seq ∧
       ∀ k T, tfind s.teams k = some T → (s.ctx T.ctx).en = true → (t.team k).state = .retired) ∧
     (∀ t, c.code = 0x0010 → u.writePairs (regPairs c) = .inl t → exec (.writeAgturRegisters c) s = .next (t.answer 3 0)) ∧
     (c.code = 0x0011 → exec (.setPackageTenant c) s = .next (({ u with pkgTenant := w 0 } : State).startScrub none s.pkgTenant true)) ∧
     (c.code = 0x0012 → exec (.setPartitionTenant c) s =
       .next ((u.modPart part (fun P => { P with tenant := w 8, recSeq := 1 })).startScrub (some part) (s.part part).tenant true)) ∧
     (c.code = 0x0013 → exec (.enrolLeaseKey c) s = .next ({ u with leaseKeys := s.leaseKeys ++ [(w 0, c.body.drop 8)] }.answer 3 0)) ∧
     (c.code = 0x0020 → exec (.installWeightTable c) s = .next ({ u with
       wshadow := some ((List.range 32).map (fun i => bodyNum c (2 * i) 2), bodyNum c 64 4) }.answer 3 0)) ∧
     (c.code = 0x0021 → 5 ≤ s.freeExtents.length → bodyNum c 0 2 ∉ s.retiredCh →
       (s.retiredCh.filter (fun h => decide (h / 192 = bodyNum c 0 2 / 192))).length < 2 →
       exec (.retirePseudoChannel c) s = .next ((State.signal { u with
         retiredCh := s.retiredCh ++ [bodyNum c 0 2], withdrawn := s.withdrawn ++ s.freeExtents.take 5 } 0 2).answer 3 0)) ∧
     (c.code = 0x0022 → ∃ t, exec (.drainQuarter c) s = .next t ∧ (t.quarter part).drained = true ∧ t.mem = s.mem ∧
       ∀ k T, tfind s.teams k = some T → T.state = .placed → quarterOfCore T.core = part → T.stopReq = none → s.orphan T = false →
         (t.team k).stopReq = some ⟨5, s.time, false, none, none, (s.ctx T.ctx).rott⟩) ∧
     (c.code = 0x0023 → exec (.retrainFabricPort c) s = .next ((u.retrain part).answer 3 0)) ∧
     (c.code = 0x0024 → s.coreImage part (s.imageAt (w 8)) = true →
       ∃ t, exec (.replaceCommandCoreImage c) s = .next t ∧ t.mem = s.mem ∧
         t.cmdCore part = CmdCore.start (s.imageAt (w 8)) (s.fuses.signed (s.imageAt (w 8)))) ∧
     (c.code = 0x0025 → exec (.reclaimLentClusters c) s = .next ((u.reclaimMask part (bodyNum c 4 4)).answer 3 0)) ∧
     (c.code = 0x0026 → ∃ t, exec (.assignPkgid c) s = .next t ∧ t.pkgid = w 0 &&& 0xFFFFF ∧ t.pkgSet = true ∧ t.mem = s.mem) ∧
     (c.code = 0x0030 → s.agturImage (s.imageAt (w 8)) = true →
       exec (.writeAgturFirmware c) s = .next ({ u with fwCopies := (List.range 2).map (fun k =>
         if k = part then s.imageAt (w 8) else s.fwCopies.getD k []) }.answer 3 0)) ∧
     (∀ d, u.runCommand c = .inr d → s.command c c.code = u.answer 7 d))) ∧
  (∀ (s : State) (c : Command) (st : Nat), c.mgmt = true → s.agtBuf = [] → s.agtCtl.getLsbD 15 = false → s.scrubs = [] →
    s.recovering = false → s.refuses c = some st → s.command c c.code = s.answer st 0) ∧
  (∀ (s : State) (c : Command), c.mgmt = true → s.recovering = false →
    (s.agtBuf ≠ [] ∨ s.agtCtl.getLsbD 15 = true ∨ (s.scrubs ≠ [] ∧ c.code ≠ 0x0001 ∧ c.code ≠ 0x0002)) → s.command c c.code = s.answer 8 0) ∧
  (∀ (s : State) (c : Command) (k : Nat), s.recovering = true → s.command c k = s) ∧
  ((∀ (s : State) (c : Command), s.refuses c = none ↔ c.magic = true ∧ c.body.length ≤ 2048 ∧ c.body.length % 8 = 0 ∧ c.zero = 0 ∧
    commandLayout c = true ∧ c.serial = Config.serial ∧ Config.verify s.opHash (commandBytes c) c.sig = true ∧ s.agtSeq < c.seq) ∧
  (∀ (s : State) (c : Command) (st : Nat), s.refuses c = some st → s.agtur c = (s, st, 0)) ∧
  (∀ (s : State) (c : Command) (d : Nat), s.refuses c = none → ({ s with agtSeq := c.seq } : State).runCommand c = .inr d →
    s.agtur c = ({ s with agtSeq := c.seq }, 7, d)) ∧
  (∀ (s : State) (l : List (Nat × W64)) (i : Nat) (q : Nat × W64), l[i]? = some q → s.writePair q = none →
    (∀ j < i, ∀ r, l[j]? = some r → (s.writePair r).isSome = true) → s.writePairs l = .inr i) ∧
  (∀ (s : State) (st d : Nat), st < 8 → d < 256 → (s.agtEnd st d).agtBuf = [] ∧
    ((s.agtEnd st d).agtCtl.extractLsb' 40 3).toNat = st ∧ ((s.agtEnd st d).agtCtl.extractLsb' 32 8).toNat = d)) ∧
  ((∀ (s : State) (x : Scrub), x.scope = none → (s.endScrub x).mem = [] ∧ (s.endScrub x).poison = [] ∧ (s.endScrub x).leaseKeys = []) ∧
   (∀ (s : State) (x : Scrub) (p : Nat), x.scope = some p → (s.endScrub x).leaseKeys = [] ∧
     ∀ a, (s.part p).hasExtent (a % 2 ^ 42 / 2 ^ 30) = true → readByte (s.endScrub x).mem a = 0) ∧
   (∀ (s : State) (x : Scrub), s.scrubs = [x] → s.scrubReady x = true → s.startWaits = none →
     s.settleScrubs = (s.endScrub x).tell x.mgmt 3 0))

/-- R19, R482, R483, R492 to R494, R496: a cold start clears the package, a warm start keeps Agtur's tables and waits for a scrub, and a
reset of a function ends once its accumulates are delivered. -/
def Obligations.StartsAndResetsClear : Prop :=
  (∀ s : State, s.bootCopy.isSome = true → (∀ c < 8, s.goldenOk c = true) →
    ∃ t, exec (.coldStart 0) s = .next t ∧ t.mem = [] ∧ t.poison = [] ∧ t.teams = [] ∧ t.cores = [] ∧ t.ready = true ∧ t.time = 0 ∧
    t.agtSeq = s.agtSeq ∧ t.retiredCh = s.retiredCh ∧ t.withdrawn = s.withdrawn ∧ t.fwCopies = s.fwCopies) ∧
  (∀ (s : State) (kept : Bool), s.powered = true → s.scrubs = [] → s.bootCopy.isSome = true → (∀ c < 8, s.goldenOk c = true) →
    ∃ t, exec (.warmStart 0 kept) s = .next t ∧ t.teams = [] ∧ t.cores = [] ∧
    t.ready = true ∧ t.time = s.time ∧ t.agtSeq = s.agtSeq ∧ t.fabRoute = s.fabRoute ∧ t.pkgid = s.pkgid ∧
    t.mem = (if kept then s.mem else []) ∧ ∀ p, (t.part p).cfg = (s.part p).cfg ∧ (t.part p).tenant = (s.part p).tenant) ∧
  (∀ (s : State) (n : Nat) (kept : Bool), s.powered = true → s.scrubs ≠ [] →
    exec (.warmStart n kept) s = .next { s with startWaits := some (.warm n kept) }) ∧
  (∀ (s : State) (img : List Byte), s.bootstat.getLsbD 1 = true →
    (s.agturImage img = true → ∃ t, exec (.trivetAgturImage img) s = .next t ∧ t.running = img ∧ t.bootstat.getLsbD 1 = false ∧ t.teams = [] ∧
      t.fwCopies = s.fwCopies) ∧
    (s.agturImage img = false → exec (.trivetAgturImage img) s = .next s)) ∧
  (∀ (s : State) (n : Nat), n ≤ 7 → ∃ t, exec (.coldStart n) s = .next t ∧
    (let f := s.failAt s.bootCopy.isSome n
     t.ready = decide (f = 0) ∧ (t.bootstat.extractLsb' 32 4).toNat = f ∧ t.bootstat.getLsbD 1 = decide (f = 1) ∧
     t.answers = (if f = 0 ∨ f = 1 then s.answers else s.answers ++ [.startFailed f]) ∧ t.mem = (if f = 0 ∨ 6 ≤ f then [] else s.mem))) ∧
  (∀ (s : State) (n : Nat), s.failAt false n = 1 ∧ (2 ≤ n → n ≤ 5 → s.failAt true n = n) ∧
    (∀ c < 8, s.goldenOk c = false → s.failAt true 0 = 6) ∧ ((∀ c < 8, s.goldenOk c = true) → s.failAt true 7 = 7 ∧ s.failAt true 0 = 0)) ∧
  (∀ (s : State) (fn : Nat), 1 ≤ fn → fn ≤ 16 →
    ((s.func fn).flr = false → ∃ t, exec (.functionLevelReset fn) s = .next t ∧ (t.func fn).usable = false ∧ (t.func fn).flr = true ∧
      ∀ k T, tfind s.teams k = some T → s.partOf T.ctx = partOfFn fn → (s.ctx T.ctx).en = true → (s.ctx T.ctx).dying = none →
        (t.team k).state = .retired ∨ (T.onDie = true ∧ (t.team k).state = .killed ∧ (t.ctx T.ctx).dying.isSome = true)) ∧
    ((s.func fn).flr = true → s.delivered (partOfFn fn) = false → exec (.functionLevelReset fn) s = .next s) ∧
    ((s.func fn).flr = true → s.delivered (partOfFn fn) = true → s.scrubs = [] → ∃ t, exec (.functionLevelReset fn) s = .next t ∧
      (t.func fn).usable = true ∧ (t.func fn).flr = false ∧ (t.func fn).rings = [] ∧ (t.func fn).flrDrop = (s.func fn).flrDrop ∧
      (t.part (partOfFn fn)).shandler = 0 ∧ (t.part (partOfFn fn)).cfg = (s.part (partOfFn fn)).cfg ∧ t.mem = s.mem))

/-- R304, R343, R499, R501, R503, R531, R532, R551: failures, soft errors and the thermal limits. -/
def Obligations.FailuresAreContained : Prop :=
  (∀ (s : State) (q : Nat) (h : Bool), (s.quarter q).hot ≠ h → ∃ t, exec (.thermalThrottle q h) s = .next t ∧ (t.quarter q).hot = h ∧
    (∀ k, k ≠ q → t.quarter k = s.quarter k) ∧ t.mem = s.mem ∧ t.teams = s.teams) ∧
  (∀ s : State, ∃ t, exec .thermalTrip s = .next t ∧ t.powered = false ∧
    ∀ k T, tfind s.teams k = some T → (s.ctx T.ctx).en = true → (t.team k).state = .retired) ∧
  (∀ (s : State) (u : Nat), ∃ t, exec (.softError (.memory u)) s = .next t ∧ (∀ v, v ∈ t.poison ↔ v = u ∨ v ∈ s.poison) ∧ t.mem = s.mem ∧
    t.teams = s.teams) ∧
  (∀ (s : State) (k g l r : Nat), (s.team k).onDie = true → ∃ t, exec (.softError (.register k g l r)) s = .next t ∧
    (∀ x, x ∈ (t.gang k g).bad ↔ x = poolKey l r ∨ x ∈ (s.gang k g).bad) ∧ t.mem = s.mem) ∧
  (∀ (s : State) (k a : Nat), (s.team k).onDie = true → ∃ t, exec (.softError (.scratch k a)) s = .next t ∧
    (∀ x, x ∈ (t.team k).poison ↔ x = a / 16 ∨ x ∈ (s.team k).poison) ∧ (t.team k).scratch = (s.team k).scratch ∧ t.mem = s.mem) ∧
  (∀ (s : State) (c : Nat), ∃ t, exec (.softError (.pairLinkLoad c)) s = .next t ∧ (t.core c).pairLoadBad = true ∧ t.mem = s.mem ∧
    t.teams = s.teams) ∧
  (∀ (s : State) (c k : Nat) (w : XWrite), (s.core c).xouts[k]? = some w → ∃ t, exec (.softError (.exchange c k)) s = .next t ∧
    (t.core c).xouts[k]? = some { w with bad := true } ∧ t.mem = s.mem ∧ t.teams = s.teams) ∧
  (∀ (s : State) (c : Nat), c < 8 → ∃ t, exec (.softError (.commandRam c)) s = .next t ∧ (t.cmdCore c).held = true) ∧
  (∀ (s : State) (die : Nat), ∃ t, exec (.dieFailure die) s = .next t ∧ (t.dieOf die).failed = true ∧
    ∀ k T, tfind s.teams k = some T → (s.ctx T.ctx).en = true → (s.ctx T.ctx).dying = none →
      (t.team k).state = .retired ∨ (T.onDie = true ∧ (t.team k).state = .killed ∧ (t.ctx T.ctx).dying.isSome = true)) ∧
  (∀ (s : State) (cl : Nat), ∃ t, exec (.exchangePortFailure cl) s = .next t ∧ (t.cluster cl).noXch = true ∧
    ∀ k T, tfind s.teams k = some T → T.onDie = true → clusterOfCore T.core = cl → T.launch.xg ≠ 0 → (s.ctx T.ctx).dying = none →
      (t.team k).state = .retired ∨ ((t.team k).state = .killed ∧ (t.ctx T.ctx).dying.isSome = true)) ∧
  (∀ (s : State) (n : Nat), ∃ t, exec (.pairLinkFailure n) s = .next t ∧ (t.core (2 * n)).pairBad = true ∧
    (t.core (2 * n + 1)).pairBad = true ∧ t.mem = s.mem ∧ t.teams = s.teams) ∧
  (∀ (s : State) (p : Nat), p < 18 → ∃ t, exec (.portFailure p) s = .next t ∧ (t.port p).state = 3) ∧
  (∀ (s : State) (p : Nat), p < 18 → (∃ t, exec (.mediumIdentify p true) s = .next t ∧ (t.port p).mode = Config.portMode p % 3 ∧
      (t.port p).lanes = 8 ∧ (t.port p).state = (if Config.portMode p % 3 = 1 ∧ s.pkgSet = false then 0
        else if Config.portMode p % 3 = 0 then 0 else 2)) ∧
    (∃ t, exec (.mediumIdentify p false) s = .next t ∧ (t.port p).state = 3)) ∧
  (∀ (s : State) (p : Nat), p < 18 → ∃ t, exec (.flitReplay p) s = .next t ∧
    t.port p = { s.port p with replays := min 65535 ((s.port p).replays + 1) } ∧ ∀ q, q ≠ p → t.port q = s.port q)


end Claims
end

