-- ==== Sys2Proof/Laws/Decode.lean ====
section
/-! SUPPORT. Laws of the decoder: the fields of a word that was joined from fields, the codes of the enumerations read back,
and which opcode's table a word goes to. -/

namespace Sys2Proof

set_option maxRecDepth 4000


theorem split_join (f : Fields) : splitWord (joinWord f) = f := by
  cases f
  simp only [splitWord, joinWord, Fields.mk.injEq]
  refine ⟨?_, ?_, ?_, ?_, ?_, ?_, ?_, ?_, ?_, ?_, ?_⟩
  all_goals
    first
    | (apply BitVec.eq_of_getLsbD_eq; intro i hi; simp only [BitVec.getLsbD_extractLsb', BitVec.getLsbD_append, BitVec.getLsbD_ofBool]; interval_cases i <;> simp)
    | (simp only [BitVec.getLsbD_append, BitVec.getLsbD_ofBool]; simp)
theorem decode_join (f : Fields) : decode (joinWord f) = decodeFields f := by
  have h : (joinWord f).getLsbD 63 = false := by
    simp only [joinWord, BitVec.getLsbD_append]; simp
  unfold decode
  rw [h, split_join]; rfl
section
variable (op : BitVec 7) (la : BitVec 4) (g : Grd) (fn : BitVec 6) (d a b c m : BitVec 8)
@[simp] theorem fieldsOf_op : (fieldsOf op la g fn d a b c m).op = op := by cases g <;> rfl
@[simp] theorem fieldsOf_la : (fieldsOf op la g fn d a b c m).la = la := by cases g <;> rfl
@[simp] theorem fieldsOf_fn : (fieldsOf op la g fn d a b c m).fn = fn := by cases g <;> rfl
@[simp] theorem fieldsOf_d : (fieldsOf op la g fn d a b c m).d = d := by cases g <;> rfl
@[simp] theorem fieldsOf_a : (fieldsOf op la g fn d a b c m).a = a := by cases g <;> rfl
@[simp] theorem fieldsOf_b : (fieldsOf op la g fn d a b c m).b = b := by cases g <;> rfl
@[simp] theorem fieldsOf_c : (fieldsOf op la g fn d a b c m).c = c := by cases g <;> rfl
@[simp] theorem fieldsOf_m : (fieldsOf op la g fn d a b c m).m = m := by cases g <;> rfl
@[simp] theorem fieldsOf_grd : (fieldsOf op la g fn d a b c m).grd = g := by cases g <;> rfl
/-- A word with no window. -/
theorem decodeFields_of : decodeFields (fieldsOf op 0 g fn d a b c m) = decodeOp (fieldsOf op 0 g fn d a b c m) := by
  cases g <;> rfl
/-- A lookahead-eligible word. -/
theorem decodeFields_la (h : laEligible (fieldsOf op la g fn d a b c m) = true) :
    decodeFields (fieldsOf op la g fn d a b c m) = decodeOp (fieldsOf op la g fn d a b c m) := by
  unfold decodeFields; rw [h]; cases g <;> simp [fieldsOf]
end
section
variable (ds as bs cs mx : Bool) (ty : BitVec 3)
@[simp] theorem modByte_7 : (modByte ds as bs cs mx ty).getLsbD 7 = ds := by revert ds as bs cs mx ty; decide
@[simp] theorem modByte_6 : (modByte ds as bs cs mx ty).getLsbD 6 = as := by revert ds as bs cs mx ty; decide
@[simp] theorem modByte_5 : (modByte ds as bs cs mx ty).getLsbD 5 = bs := by revert ds as bs cs mx ty; decide
@[simp] theorem modByte_4 : (modByte ds as bs cs mx ty).getLsbD 4 = cs := by revert ds as bs cs mx ty; decide
@[simp] theorem modByte_3 : (modByte ds as bs cs mx ty).getLsbD 3 = mx := by revert ds as bs cs mx ty; decide
@[simp] theorem modByte_e7 : (modByte ds as bs cs mx ty)[7] = ds := by revert ds as bs cs mx ty; decide
@[simp] theorem modByte_e6 : (modByte ds as bs cs mx ty)[6] = as := by revert ds as bs cs mx ty; decide
@[simp] theorem modByte_e5 : (modByte ds as bs cs mx ty)[5] = bs := by revert ds as bs cs mx ty; decide
@[simp] theorem modByte_e4 : (modByte ds as bs cs mx ty)[4] = cs := by revert ds as bs cs mx ty; decide
@[simp] theorem modByte_e3 : (modByte ds as bs cs mx ty)[3] = mx := by revert ds as bs cs mx ty; decide
@[simp] theorem modByte_ty : (modByte ds as bs cs mx ty).extractLsb' 0 3 = ty := by revert ds as bs cs mx ty; decide
end
@[simp] theorem ityOf_code (t : ITy) : ityOf t.code.toNat = t := by cases t <;> rfl
@[simp] theorem condOf_code (t : Cond) : condOf t.code.toNat = t := by cases t <;> rfl
@[simp] theorem fcondOf_code (t : FCond) : fcondOf t.code.toNat = t := by cases t <;> rfl
@[simp] theorem rmOf_code (t : Rm) : rmOf t.code.toNat = t := by cases t <;> rfl
@[simp] theorem rm_lt (t : Rm) : t.code < 5#3 := by cases t <;> decide
@[simp] theorem plopOf_code (t : PlopOp) : plopOf t.code.toNat = t := by cases t <;> rfl
@[simp] theorem voteOf_code (t : VoteMode) : voteOf t.code.toNat = t := by cases t <;> rfl
@[simp] theorem vote_lt (t : VoteMode) : t.code < 3#3 := by cases t <;> decide
@[simp] theorem shflOf_code (t : ShflMode) : shflOf t.code.toNat = t := by cases t <;> rfl
@[simp] theorem cvtOf_code (t : CvtKind) : cvtOf t.code.toNat = t := by cases t <;> rfl
@[simp] theorem accOf_code (t : AccOpc) : accOf t.code.toNat = t := by cases t <;> rfl
@[simp] theorem collOf_code (t : CollOp) : collOf t.code.toNat = t := by cases t <;> rfl
@[simp] theorem coll_lt (t : CollOp) : t.code < 7#3 := by cases t <;> decide
@[simp] theorem scopeOf_code (t : Scope) : scopeOf t.code.toNat = t := by cases t <;> rfl
@[simp] theorem scope_lt (t : Scope) : t.code < 6#3 := by cases t <;> decide
@[simp] theorem cond_lt (t : Cond) : t.code < 6#6 := by cases t <;> decide
@[simp] theorem cond_lt3 (t : Cond) : t.code.extractLsb' 0 3 < 6#3 := by cases t <;> decide
@[simp] theorem condOf_code3 (t : Cond) : condOf (t.code.extractLsb' 0 3).toNat = t := by cases t <;> rfl
@[simp] theorem fcond_lt (t : FCond) : t.code < 8#6 := by cases t <;> decide
@[simp] theorem shfl_lt (t : ShflMode) : t.code < 4#6 := by cases t <;> decide
@[simp] theorem cvt_lt (t : CvtKind) : t.code < 12#6 := by cases t <;> decide
@[simp] theorem acc_lt (t : AccOpc) : t.code < 6#6 := by cases t <;> decide
@[simp] theorem scopeOf_code6 (t : Scope) : scopeOf (0#3 ++ t.code).toNat = t := by cases t <;> rfl
@[simp] theorem scope_lt6 (t : Scope) : (0#3 ++ t.code) < 6#6 := by cases t <;> decide
@[simp] theorem ext_hi3 (x y : BitVec 3) : (x ++ y).extractLsb' 3 3 = x := by revert x y; decide
@[simp] theorem ext_lo3 (x y : BitVec 3) : (x ++ y).extractLsb' 0 3 = y := by revert x y; decide
@[simp] theorem ext_hi2 (x : BitVec 2) (y : BitVec 4) : (x ++ y).extractLsb' 4 2 = x := by revert x y; decide
@[simp] theorem ext_lo4 (x : BitVec 2) (y : BitVec 4) : (x ++ y).extractLsb' 0 4 = y := by revert x y; decide
@[simp] theorem imm32_of (off : BitVec 32) : off.extractLsb' 24 8 ++ off.extractLsb' 16 8 ++ off.extractLsb' 8 8 ++ off.extractLsb' 0 8 = off := by
  apply BitVec.eq_of_getLsbD_eq; intro i hi
  simp only [BitVec.getLsbD_extractLsb', BitVec.getLsbD_append]; interval_cases i <;> simp
@[simp] theorem imm24_of (x : BitVec 24) : x.extractLsb' 16 8 ++ x.extractLsb' 8 8 ++ x.extractLsb' 0 8 = x := by
  apply BitVec.eq_of_getLsbD_eq; intro i hi
  simp only [BitVec.getLsbD_extractLsb', BitVec.getLsbD_append]; interval_cases i <;> simp

@[simp] theorem sc_m2 (b : Bool) : (0#7 ++ BitVec.ofBool b).getLsbD 0 = b := by cases b <;> rfl
@[simp] theorem mma_ring (n : Bool) (r : BitVec 2) : (0#5 ++ BitVec.ofBool n ++ r).extractLsb' 0 2 = r := by revert n r; decide
@[simp] theorem mma_zero (n : Bool) (r : BitVec 2) : (0#5 ++ BitVec.ofBool n ++ r).extractLsb' 3 5 = 0 := by revert n r; decide
@[simp] theorem mma_ns (n : Bool) (r : BitVec 2) : (0#5 ++ BitVec.ofBool n ++ r)[2] = n := by revert n r; decide
@[simp] theorem mmap_ring (w n : Bool) (r : BitVec 2) : (0#4 ++ BitVec.ofBool w ++ BitVec.ofBool n ++ r).extractLsb' 0 2 = r := by revert w n r; decide
@[simp] theorem mmap_zero (w n : Bool) (r : BitVec 2) : (0#4 ++ BitVec.ofBool w ++ BitVec.ofBool n ++ r).extractLsb' 4 4 = 0 := by revert w n r; decide
@[simp] theorem mmap_ns (w n : Bool) (r : BitVec 2) : (0#4 ++ BitVec.ofBool w ++ BitVec.ofBool n ++ r)[2] = n := by revert w n r; decide
@[simp] theorem mmap_wide (w n : Bool) (r : BitVec 2) : (0#4 ++ BitVec.ofBool w ++ BitVec.ofBool n ++ r)[3] = w := by revert w n r; decide
@[simp] theorem tiles_a (ta tb : BitVec 3) : (0#1 ++ tb ++ 0#1 ++ ta).extractLsb' 0 3 = ta := by revert ta tb; decide
@[simp] theorem tiles_b (ta tb : BitVec 3) : (0#1 ++ tb ++ 0#1 ++ ta).extractLsb' 4 3 = tb := by revert ta tb; decide
@[simp] theorem tiles_3 (ta tb : BitVec 3) : (0#1 ++ tb ++ 0#1 ++ ta)[3] = false := by revert ta tb; decide
@[simp] theorem tiles_7 (ta tb : BitVec 3) : (0#1 ++ tb ++ 0#1 ++ ta)[7] = false := by revert ta tb; decide
@[simp] theorem queue_ext (q : BitVec 2) : (0#1 ++ q).extractLsb' 0 2 = q := by revert q; decide
@[simp] theorem queue_lt (q : BitVec 2) : (0#1 ++ q) < 4#3 := by revert q; decide
@[simp] theorem tldg_bar (b : BitVec 4) (n sc : Bool) : (b ++ 0#2 ++ BitVec.ofBool n ++ BitVec.ofBool sc).extractLsb' 4 4 = b := by revert b n sc; decide
@[simp] theorem tldg_zero (b : BitVec 4) (n sc : Bool) : (b ++ 0#2 ++ BitVec.ofBool n ++ BitVec.ofBool sc).extractLsb' 2 2 = 0 := by revert b n sc; decide
@[simp] theorem tldg_0 (b : BitVec 4) (n sc : Bool) : (b ++ 0#2 ++ BitVec.ofBool n ++ BitVec.ofBool sc)[0] = sc := by revert b n sc; decide
@[simp] theorem tldg_1 (b : BitVec 4) (n sc : Bool) : (b ++ 0#2 ++ BitVec.ofBool n ++ BitVec.ofBool sc)[1] = n := by revert b n sc; decide
@[simp] theorem ffmtOf_code (t : FFmt) : ffmtOf t.code.toNat = t := by cases t <;> rfl
@[simp] theorem ffmt_lt (t : FFmt) : t.code < 3#2 := by cases t <;> decide
@[simp] theorem q4_code (t : Option ITy) : ityOrQ4 (q4Code t) = t := by
  cases t with
  | none => rfl
  | some t => cases t <;> rfl
@[simp] theorem q4_lt (t : Option ITy) : q4Code t < 9#4 := by
  cases t with
  | none => decide
  | some t => cases t <;> decide
@[simp] theorem dkOf_code (k : SysDk) : dkOf k.code.toNat = k := by cases k <;> rfl
@[simp] theorem atomOf_code (t : AtomOp) : atomOf t.code.toNat = t := by cases t <;> rfl
@[simp] theorem atom_lt (t : AtomOp) : t.code < 10#4 := by cases t <;> decide
@[simp] theorem atomOrdOf_code (t : AtomOrd) : atomOrdOf t.code.toNat = t := by cases t <;> rfl
@[simp] theorem sizeOf_code (t : Size) : sizeOf' t.code.toNat = t := by cases t <;> rfl
@[simp] theorem spaceOf_code (t : Space) : spaceOf t.code.toNat = t := by cases t <;> rfl
theorem sys_mem (k : SysDk) (n : BitVec 10) : (0#8 ++ (0#4 ++ k.code ++ n.extractLsb' 8 2 : BitVec 8) ++ n.extractLsb' 0 8 : BitVec 24) = 0#12 ++ k.code ++ n := by
  apply BitVec.eq_of_getLsbD_eq; intro i hi
  simp only [BitVec.getLsbD_extractLsb', BitVec.getLsbD_append]; interval_cases i <;> simp
theorem sys_a (k : SysDk) (n : BitVec 10) : (0#12 ++ k.code ++ n : BitVec 24).extractLsb' 12 12 = 0#12 := by
  apply BitVec.eq_of_getLsbD_eq; intro i hi
  simp only [BitVec.getLsbD_extractLsb', BitVec.getLsbD_append]; interval_cases i <;> simp
theorem sys_b (k : SysDk) (n : BitVec 10) : (0#12 ++ k.code ++ n : BitVec 24).extractLsb' 10 2 = k.code := by
  apply BitVec.eq_of_getLsbD_eq; intro i hi
  simp only [BitVec.getLsbD_extractLsb', BitVec.getLsbD_append]; interval_cases i <;> simp
theorem sys_c (k : SysDk) (n : BitVec 10) : (0#12 ++ k.code ++ n : BitVec 24).extractLsb' 0 10 = n := by
  apply BitVec.eq_of_getLsbD_eq; intro i hi
  simp only [BitVec.getLsbD_extractLsb', BitVec.getLsbD_append]; interval_cases i <;> simp
theorem fn_ord (o : BitVec 4) (bv scl : Bool) : (o ++ BitVec.ofBool bv ++ BitVec.ofBool scl).extractLsb' 2 4 = o := by revert o bv scl; decide
theorem fn_bv (o : BitVec 4) (bv scl : Bool) : (o ++ BitVec.ofBool bv ++ BitVec.ofBool scl).getLsbD 1 = bv := by revert o bv scl; decide
theorem fn_scl (o : BitVec 4) (bv scl : Bool) : (o ++ BitVec.ofBool bv ++ BitVec.ofBool scl).getLsbD 0 = scl := by revert o bv scl; decide
theorem ext23 (o : BitVec 4) (bv scl : Bool) : (o ++ BitVec.ofBool bv ++ BitVec.ofBool scl).extractLsb' 2 3 = o.extractLsb' 0 3 := by revert o bv scl; decide
theorem low_sz (x y : BitVec 2) (o : BitVec 20) : ((x ++ y ++ o).extractLsb' 16 8).extractLsb' 6 2 = x := by
  apply BitVec.eq_of_getLsbD_eq; intro i hi
  simp only [BitVec.getLsbD_extractLsb', BitVec.getLsbD_append]; interval_cases i <;> simp
theorem low_sp (x y : BitVec 2) (o : BitVec 20) : ((x ++ y ++ o).extractLsb' 16 8).extractLsb' 4 2 = y := by
  apply BitVec.eq_of_getLsbD_eq; intro i hi
  simp only [BitVec.getLsbD_extractLsb', BitVec.getLsbD_append]; interval_cases i <;> simp
theorem low_off (x y : BitVec 2) (o : BitVec 20) :
    ((x ++ y ++ o).extractLsb' 16 8).extractLsb' 0 4 ++ (x ++ y ++ o).extractLsb' 8 8 ++ (x ++ y ++ o).extractLsb' 0 8 = o := by
  apply BitVec.eq_of_getLsbD_eq; intro i hi
  simp only [BitVec.getLsbD_extractLsb', BitVec.getLsbD_append]; interval_cases i <;> simp
theorem ordOf_code {o : MemOrd} (h : o.encodable = true) : ordOf o.code = o := by
  cases o with
  | none => rfl
  | acq y => cases y <;> first | rfl | cases h
  | rel y => cases y <;> rfl
theorem ordOk_code {o : MemOrd} (h : o.encodable = true) : (o.code == 0 || (o.code.extractLsb' 0 3 != 0 && decide (o.code.extractLsb' 0 3 < 6))) = true := by
  cases o with
  | none => rfl
  | acq y => cases y <;> rfl
  | rel y => cases y <;> first | rfl | cases h
theorem mem_of (op : BitVec 7) (la : BitVec 4) (g : Grd) {m : MemOp} (h : m.ord.encodable = true) :
    (fieldsOf op la g m.fnBits m.d m.base (m.low.extractLsb' 16 8) (m.low.extractLsb' 8 8) (m.low.extractLsb' 0 8)).mem = m := by
  simp only [Fields.mem, fieldsOf_fn, fieldsOf_d, fieldsOf_a, fieldsOf_b, fieldsOf_c, fieldsOf_m, MemOp.fnBits, MemOp.low, fn_ord, fn_bv, fn_scl,
    low_sz, low_sp, low_off, ordOf_code h, sizeOf_code, spaceOf_code]
theorem osOk_of (op : BitVec 7) (la : BitVec 4) (g : Grd) {m : MemOp} (h : m.ord.encodable = true) :
    (fieldsOf op la g m.fnBits m.d m.base (m.low.extractLsb' 16 8) (m.low.extractLsb' 8 8) (m.low.extractLsb' 0 8)).osOk = true := by
  simp only [Fields.osOk, fieldsOf_fn, MemOp.fnBits, fn_ord, ext23]
  exact ordOk_code h

/-! ### The parts of the fields -/

@[simp] theorem Fields.ds_eq (f : Fields) : f.ds = (f.m.getLsbD 7) := rfl
@[simp] theorem Fields.as_eq (f : Fields) : f.as = (f.m.getLsbD 6) := rfl
@[simp] theorem Fields.bs_eq (f : Fields) : f.bs = (f.m.getLsbD 5) := rfl
@[simp] theorem Fields.cs_eq (f : Fields) : f.cs = (f.m.getLsbD 4) := rfl
@[simp] theorem Fields.mx_eq (f : Fields) : f.mx = (f.m.getLsbD 3) := rfl
@[simp] theorem Fields.m0_eq (f : Fields) : f.m0 = (f.m.getLsbD 0) := rfl
@[simp] theorem Fields.m1_eq (f : Fields) : f.m1 = (f.m.getLsbD 1) := rfl
@[simp] theorem Fields.m2_eq (f : Fields) : f.m2 = (f.m.getLsbD 2) := rfl
@[simp] theorem Fields.m3_eq (f : Fields) : f.m3 = (f.m.getLsbD 3) := rfl
@[simp] theorem Fields.ty_eq (f : Fields) : f.ty = (f.m.extractLsb' 0 3) := rfl
@[simp] theorem Fields.ity_eq (f : Fields) : f.ity = (ityOf f.ty.toNat) := rfl
@[simp] theorem Fields.fty_eq (f : Fields) : f.fty = (ityOf (f.fn.extractLsb' 3 3).toNat) := rfl
@[simp] theorem Fields.rm_eq (f : Fields) : f.rm = (rmOf f.ty.toNat) := rfl
@[simp] theorem Fields.rmOk_eq (f : Fields) : f.rmOk = (decide (f.ty < 5)) := rfl
@[simp] theorem Fields.imm32_eq (f : Fields) : f.imm32 = (f.a ++ f.b ++ f.c ++ f.m) := rfl
@[simp] theorem Fields.imm24_eq (f : Fields) : f.imm24 = (f.b ++ f.c ++ f.m) := rfl
@[simp] theorem Fields.od_eq (f : Fields) : f.od = (⟨f.ds, f.d⟩) := rfl
@[simp] theorem Fields.oa_eq (f : Fields) : f.oa = (⟨f.as, f.a⟩) := rfl
@[simp] theorem Fields.ob_eq (f : Fields) : f.ob = (⟨f.bs, f.b⟩) := rfl
@[simp] theorem Fields.oc_eq (f : Fields) : f.oc = (⟨f.cs, f.c⟩) := rfl
@[simp] theorem Fields.zd_eq (f : Fields) : f.zd = (f.d == 0 && !f.ds) := rfl
@[simp] theorem Fields.za_eq (f : Fields) : f.za = (f.a == 0 && !f.as) := rfl
@[simp] theorem Fields.zb_eq (f : Fields) : f.zb = (f.b == 0 && !f.bs) := rfl
@[simp] theorem Fields.zc_eq (f : Fields) : f.zc = (f.c == 0 && !f.cs) := rfl
@[simp] theorem Fields.zx_eq (f : Fields) : f.zx = (!f.mx) := rfl
@[simp] theorem Fields.zt_eq (f : Fields) : f.zt = (f.ty == 0) := rfl
@[simp] theorem Fields.sd_eq (f : Fields) : f.sd = (f.ds) := rfl
@[simp] theorem Fields.sa_eq (f : Fields) : f.sa = (f.as) := rfl
@[simp] theorem Fields.sb_eq (f : Fields) : f.sb = (f.bs) := rfl
@[simp] theorem Fields.sc_eq (f : Fields) : f.sc = (f.cs) := rfl
@[simp] theorem Fields.vd_eq (f : Fields) : f.vd = (!f.ds) := rfl
@[simp] theorem Fields.va_eq (f : Fields) : f.va = (!f.as) := rfl
@[simp] theorem Fields.vb_eq (f : Fields) : f.vb = (!f.bs) := rfl
@[simp] theorem Fields.vc_eq (f : Fields) : f.vc = (!f.cs) := rfl
@[simp] theorem Fields.aTiles_eq (f : Fields) : f.aTiles = (!f.a.getLsbD 3 && !f.a.getLsbD 7) := rfl
@[simp] theorem Fields.cls1_eq (f : Fields) : f.cls1 = (Sys2Proof.cls1 f.od f.oa) := rfl
@[simp] theorem Fields.cls2_eq (f : Fields) : f.cls2 = (Sys2Proof.cls2 f.od f.oa f.ob) := rfl
@[simp] theorem Fields.cls3_eq (f : Fields) : f.cls3 = (Sys2Proof.cls3 f.od f.oa f.ob f.oc) := rfl

/-! ### The opcode map -/

theorem decodeOp_01 (la : BitVec 4) (g : Grd) (fn : BitVec 6) (d a b c m : BitVec 8) :
    decodeOp (fieldsOf 0x01 la g fn d a b c m) = decOp01 (fieldsOf 0x01 la g fn d a b c m) := by cases g <;> rfl
theorem decodeOp_02 (la : BitVec 4) (g : Grd) (fn : BitVec 6) (d a b c m : BitVec 8) :
    decodeOp (fieldsOf 0x02 la g fn d a b c m) = decOp02 (fieldsOf 0x02 la g fn d a b c m) := by cases g <;> rfl
theorem decodeOp_03 (la : BitVec 4) (g : Grd) (fn : BitVec 6) (d a b c m : BitVec 8) :
    decodeOp (fieldsOf 0x03 la g fn d a b c m) = decOp03 (fieldsOf 0x03 la g fn d a b c m) := by cases g <;> rfl
theorem decodeOp_04 (la : BitVec 4) (g : Grd) (fn : BitVec 6) (d a b c m : BitVec 8) :
    decodeOp (fieldsOf 0x04 la g fn d a b c m) = decOp04 (fieldsOf 0x04 la g fn d a b c m) := by cases g <;> rfl
theorem decodeOp_05 (la : BitVec 4) (g : Grd) (fn : BitVec 6) (d a b c m : BitVec 8) :
    decodeOp (fieldsOf 0x05 la g fn d a b c m) = decOp05 (fieldsOf 0x05 la g fn d a b c m) := by cases g <;> rfl
theorem decodeOp_06 (la : BitVec 4) (g : Grd) (fn : BitVec 6) (d a b c m : BitVec 8) :
    decodeOp (fieldsOf 0x06 la g fn d a b c m) = decOp06 (fieldsOf 0x06 la g fn d a b c m) := by cases g <;> rfl
theorem decodeOp_07 (la : BitVec 4) (g : Grd) (fn : BitVec 6) (d a b c m : BitVec 8) :
    decodeOp (fieldsOf 0x07 la g fn d a b c m) = decOp07 (fieldsOf 0x07 la g fn d a b c m) := by cases g <;> rfl
theorem decodeOp_08 (la : BitVec 4) (g : Grd) (fn : BitVec 6) (d a b c m : BitVec 8) :
    decodeOp (fieldsOf 0x08 la g fn d a b c m) = decOp08 (fieldsOf 0x08 la g fn d a b c m) := by cases g <;> rfl
theorem decodeOp_09 (la : BitVec 4) (g : Grd) (fn : BitVec 6) (d a b c m : BitVec 8) :
    decodeOp (fieldsOf 0x09 la g fn d a b c m) = decOp09 (fieldsOf 0x09 la g fn d a b c m) := by cases g <;> rfl
theorem decodeOp_0A (la : BitVec 4) (g : Grd) (fn : BitVec 6) (d a b c m : BitVec 8) :
    decodeOp (fieldsOf 0x0A la g fn d a b c m) = decOp0A (fieldsOf 0x0A la g fn d a b c m) := by cases g <;> rfl
theorem decodeOp_0B (la : BitVec 4) (g : Grd) (fn : BitVec 6) (d a b c m : BitVec 8) :
    decodeOp (fieldsOf 0x0B la g fn d a b c m) = decOp0B (fieldsOf 0x0B la g fn d a b c m) := by cases g <;> rfl
theorem decodeOp_0C (la : BitVec 4) (g : Grd) (fn : BitVec 6) (d a b c m : BitVec 8) :
    decodeOp (fieldsOf 0x0C la g fn d a b c m) = decOp0C (fieldsOf 0x0C la g fn d a b c m) := by cases g <;> rfl
theorem decodeOp_0D (la : BitVec 4) (g : Grd) (fn : BitVec 6) (d a b c m : BitVec 8) :
    decodeOp (fieldsOf 0x0D la g fn d a b c m) = decOp0D (fieldsOf 0x0D la g fn d a b c m) := by cases g <;> rfl
theorem decodeOp_10 (la : BitVec 4) (g : Grd) (fn : BitVec 6) (d a b c m : BitVec 8) :
    decodeOp (fieldsOf 0x10 la g fn d a b c m) = decOp10 (fieldsOf 0x10 la g fn d a b c m) := by cases g <;> rfl
theorem decodeOp_11 (la : BitVec 4) (g : Grd) (fn : BitVec 6) (d a b c m : BitVec 8) :
    decodeOp (fieldsOf 0x11 la g fn d a b c m) = decOp11 (fieldsOf 0x11 la g fn d a b c m) := by cases g <;> rfl
theorem decodeOp_12 (la : BitVec 4) (g : Grd) (fn : BitVec 6) (d a b c m : BitVec 8) :
    decodeOp (fieldsOf 0x12 la g fn d a b c m) = decOp12 (fieldsOf 0x12 la g fn d a b c m) := by cases g <;> rfl
theorem decodeOp_13 (la : BitVec 4) (g : Grd) (fn : BitVec 6) (d a b c m : BitVec 8) :
    decodeOp (fieldsOf 0x13 la g fn d a b c m) = decOp13 (fieldsOf 0x13 la g fn d a b c m) := by cases g <;> rfl
theorem decodeOp_14 (la : BitVec 4) (g : Grd) (fn : BitVec 6) (d a b c m : BitVec 8) :
    decodeOp (fieldsOf 0x14 la g fn d a b c m) = decOp14 (fieldsOf 0x14 la g fn d a b c m) := by cases g <;> rfl
theorem decodeOp_15 (la : BitVec 4) (g : Grd) (fn : BitVec 6) (d a b c m : BitVec 8) :
    decodeOp (fieldsOf 0x15 la g fn d a b c m) = decOp15 (fieldsOf 0x15 la g fn d a b c m) := by cases g <;> rfl
theorem decodeOp_16 (la : BitVec 4) (g : Grd) (fn : BitVec 6) (d a b c m : BitVec 8) :
    decodeOp (fieldsOf 0x16 la g fn d a b c m) = decOp16 (fieldsOf 0x16 la g fn d a b c m) := by cases g <;> rfl
theorem decodeOp_17 (la : BitVec 4) (g : Grd) (fn : BitVec 6) (d a b c m : BitVec 8) :
    decodeOp (fieldsOf 0x17 la g fn d a b c m) = decOp17 (fieldsOf 0x17 la g fn d a b c m) := by cases g <;> rfl
theorem decodeOp_18 (la : BitVec 4) (g : Grd) (fn : BitVec 6) (d a b c m : BitVec 8) :
    decodeOp (fieldsOf 0x18 la g fn d a b c m) = decOp18 (fieldsOf 0x18 la g fn d a b c m) := by cases g <;> rfl
theorem decodeOp_19 (la : BitVec 4) (g : Grd) (fn : BitVec 6) (d a b c m : BitVec 8) :
    decodeOp (fieldsOf 0x19 la g fn d a b c m) = decOp19 (fieldsOf 0x19 la g fn d a b c m) := by cases g <;> rfl
theorem decodeOp_1A (la : BitVec 4) (g : Grd) (fn : BitVec 6) (d a b c m : BitVec 8) :
    decodeOp (fieldsOf 0x1A la g fn d a b c m) = decOp1A (fieldsOf 0x1A la g fn d a b c m) := by cases g <;> rfl
theorem decodeOp_1B (la : BitVec 4) (g : Grd) (fn : BitVec 6) (d a b c m : BitVec 8) :
    decodeOp (fieldsOf 0x1B la g fn d a b c m) = decOp1B (fieldsOf 0x1B la g fn d a b c m) := by cases g <;> rfl
theorem decodeOp_1C (la : BitVec 4) (g : Grd) (fn : BitVec 6) (d a b c m : BitVec 8) :
    decodeOp (fieldsOf 0x1C la g fn d a b c m) = decOp1C (fieldsOf 0x1C la g fn d a b c m) := by cases g <;> rfl
theorem decodeOp_1D (la : BitVec 4) (g : Grd) (fn : BitVec 6) (d a b c m : BitVec 8) :
    decodeOp (fieldsOf 0x1D la g fn d a b c m) = decOp1D (fieldsOf 0x1D la g fn d a b c m) := by cases g <;> rfl
theorem decodeOp_1E (la : BitVec 4) (g : Grd) (fn : BitVec 6) (d a b c m : BitVec 8) :
    decodeOp (fieldsOf 0x1E la g fn d a b c m) = decOp1E (fieldsOf 0x1E la g fn d a b c m) := by cases g <;> rfl
theorem decodeOp_1F (la : BitVec 4) (g : Grd) (fn : BitVec 6) (d a b c m : BitVec 8) :
    decodeOp (fieldsOf 0x1F la g fn d a b c m) = decOp1F (fieldsOf 0x1F la g fn d a b c m) := by cases g <;> rfl
theorem decodeOp_20 (la : BitVec 4) (g : Grd) (fn : BitVec 6) (d a b c m : BitVec 8) :
    decodeOp (fieldsOf 0x20 la g fn d a b c m) = decOp20 (fieldsOf 0x20 la g fn d a b c m) := by cases g <;> rfl
theorem decodeOp_21 (la : BitVec 4) (g : Grd) (fn : BitVec 6) (d a b c m : BitVec 8) :
    decodeOp (fieldsOf 0x21 la g fn d a b c m) = decOp21 (fieldsOf 0x21 la g fn d a b c m) := by cases g <;> rfl
theorem decodeOp_22 (la : BitVec 4) (g : Grd) (fn : BitVec 6) (d a b c m : BitVec 8) :
    decodeOp (fieldsOf 0x22 la g fn d a b c m) = decOp22 (fieldsOf 0x22 la g fn d a b c m) := by cases g <;> rfl
theorem decodeOp_23 (la : BitVec 4) (g : Grd) (fn : BitVec 6) (d a b c m : BitVec 8) :
    decodeOp (fieldsOf 0x23 la g fn d a b c m) = decOp23 (fieldsOf 0x23 la g fn d a b c m) := by cases g <;> rfl
theorem decodeOp_24 (la : BitVec 4) (g : Grd) (fn : BitVec 6) (d a b c m : BitVec 8) :
    decodeOp (fieldsOf 0x24 la g fn d a b c m) = decOp24 (fieldsOf 0x24 la g fn d a b c m) := by cases g <;> rfl
theorem decodeOp_25 (la : BitVec 4) (g : Grd) (fn : BitVec 6) (d a b c m : BitVec 8) :
    decodeOp (fieldsOf 0x25 la g fn d a b c m) = decOp25 (fieldsOf 0x25 la g fn d a b c m) := by cases g <;> rfl
theorem decodeOp_26 (la : BitVec 4) (g : Grd) (fn : BitVec 6) (d a b c m : BitVec 8) :
    decodeOp (fieldsOf 0x26 la g fn d a b c m) = decOp26 (fieldsOf 0x26 la g fn d a b c m) := by cases g <;> rfl
theorem decodeOp_30 (la : BitVec 4) (g : Grd) (fn : BitVec 6) (d a b c m : BitVec 8) :
    decodeOp (fieldsOf 0x30 la g fn d a b c m) = decOp30 (fieldsOf 0x30 la g fn d a b c m) := by cases g <;> rfl
theorem decodeOp_31 (la : BitVec 4) (g : Grd) (fn : BitVec 6) (d a b c m : BitVec 8) :
    decodeOp (fieldsOf 0x31 la g fn d a b c m) = decOp31 (fieldsOf 0x31 la g fn d a b c m) := by cases g <;> rfl
theorem decodeOp_32 (la : BitVec 4) (g : Grd) (fn : BitVec 6) (d a b c m : BitVec 8) :
    decodeOp (fieldsOf 0x32 la g fn d a b c m) = decOp32 (fieldsOf 0x32 la g fn d a b c m) := by cases g <;> rfl
theorem decodeOp_33 (la : BitVec 4) (g : Grd) (fn : BitVec 6) (d a b c m : BitVec 8) :
    decodeOp (fieldsOf 0x33 la g fn d a b c m) = decOp33 (fieldsOf 0x33 la g fn d a b c m) := by cases g <;> rfl
theorem decodeOp_34 (la : BitVec 4) (g : Grd) (fn : BitVec 6) (d a b c m : BitVec 8) :
    decodeOp (fieldsOf 0x34 la g fn d a b c m) = decOp34 (fieldsOf 0x34 la g fn d a b c m) := by cases g <;> rfl
theorem decodeOp_35 (la : BitVec 4) (g : Grd) (fn : BitVec 6) (d a b c m : BitVec 8) :
    decodeOp (fieldsOf 0x35 la g fn d a b c m) = decOp35 (fieldsOf 0x35 la g fn d a b c m) := by cases g <;> rfl
theorem decodeOp_36 (la : BitVec 4) (g : Grd) (fn : BitVec 6) (d a b c m : BitVec 8) :
    decodeOp (fieldsOf 0x36 la g fn d a b c m) = decOp36 (fieldsOf 0x36 la g fn d a b c m) := by cases g <;> rfl
theorem decodeOp_37 (la : BitVec 4) (g : Grd) (fn : BitVec 6) (d a b c m : BitVec 8) :
    decodeOp (fieldsOf 0x37 la g fn d a b c m) = decOp37 (fieldsOf 0x37 la g fn d a b c m) := by cases g <;> rfl
theorem decodeOp_38 (la : BitVec 4) (g : Grd) (fn : BitVec 6) (d a b c m : BitVec 8) :
    decodeOp (fieldsOf 0x38 la g fn d a b c m) = decOp38 (fieldsOf 0x38 la g fn d a b c m) := by cases g <;> rfl
theorem decodeOp_39 (la : BitVec 4) (g : Grd) (fn : BitVec 6) (d a b c m : BitVec 8) :
    decodeOp (fieldsOf 0x39 la g fn d a b c m) = decOp39 (fieldsOf 0x39 la g fn d a b c m) := by cases g <;> rfl
theorem decodeOp_3A (la : BitVec 4) (g : Grd) (fn : BitVec 6) (d a b c m : BitVec 8) :
    decodeOp (fieldsOf 0x3A la g fn d a b c m) = decOp3A (fieldsOf 0x3A la g fn d a b c m) := by cases g <;> rfl
theorem decodeOp_3B (la : BitVec 4) (g : Grd) (fn : BitVec 6) (d a b c m : BitVec 8) :
    decodeOp (fieldsOf 0x3B la g fn d a b c m) = decOp3B (fieldsOf 0x3B la g fn d a b c m) := by cases g <;> rfl
theorem decodeOp_3C (la : BitVec 4) (g : Grd) (fn : BitVec 6) (d a b c m : BitVec 8) :
    decodeOp (fieldsOf 0x3C la g fn d a b c m) = decOp3C (fieldsOf 0x3C la g fn d a b c m) := by cases g <;> rfl
theorem decodeOp_3D (la : BitVec 4) (g : Grd) (fn : BitVec 6) (d a b c m : BitVec 8) :
    decodeOp (fieldsOf 0x3D la g fn d a b c m) = decOp3D (fieldsOf 0x3D la g fn d a b c m) := by cases g <;> rfl
theorem decodeOp_3E (la : BitVec 4) (g : Grd) (fn : BitVec 6) (d a b c m : BitVec 8) :
    decodeOp (fieldsOf 0x3E la g fn d a b c m) = decOp3E (fieldsOf 0x3E la g fn d a b c m) := by cases g <;> rfl
theorem decodeOp_50 (la : BitVec 4) (g : Grd) (fn : BitVec 6) (d a b c m : BitVec 8) :
    decodeOp (fieldsOf 0x50 la g fn d a b c m) = decOp50 (fieldsOf 0x50 la g fn d a b c m) := by cases g <;> rfl
theorem decodeOp_51 (la : BitVec 4) (g : Grd) (fn : BitVec 6) (d a b c m : BitVec 8) :
    decodeOp (fieldsOf 0x51 la g fn d a b c m) = decOp51 (fieldsOf 0x51 la g fn d a b c m) := by cases g <;> rfl
theorem decodeOp_52 (la : BitVec 4) (g : Grd) (fn : BitVec 6) (d a b c m : BitVec 8) :
    decodeOp (fieldsOf 0x52 la g fn d a b c m) = decOp52 (fieldsOf 0x52 la g fn d a b c m) := by cases g <;> rfl
theorem decodeOp_53 (la : BitVec 4) (g : Grd) (fn : BitVec 6) (d a b c m : BitVec 8) :
    decodeOp (fieldsOf 0x53 la g fn d a b c m) = decOp53 (fieldsOf 0x53 la g fn d a b c m) := by cases g <;> rfl
theorem decodeOp_54 (la : BitVec 4) (g : Grd) (fn : BitVec 6) (d a b c m : BitVec 8) :
    decodeOp (fieldsOf 0x54 la g fn d a b c m) = decOp54 (fieldsOf 0x54 la g fn d a b c m) := by cases g <;> rfl
theorem decodeOp_55 (la : BitVec 4) (g : Grd) (fn : BitVec 6) (d a b c m : BitVec 8) :
    decodeOp (fieldsOf 0x55 la g fn d a b c m) = decOp55 (fieldsOf 0x55 la g fn d a b c m) := by cases g <;> rfl
theorem decodeOp_56 (la : BitVec 4) (g : Grd) (fn : BitVec 6) (d a b c m : BitVec 8) :
    decodeOp (fieldsOf 0x56 la g fn d a b c m) = decOp56 (fieldsOf 0x56 la g fn d a b c m) := by cases g <;> rfl
theorem decodeOp_57 (la : BitVec 4) (g : Grd) (fn : BitVec 6) (d a b c m : BitVec 8) :
    decodeOp (fieldsOf 0x57 la g fn d a b c m) = decOp57 (fieldsOf 0x57 la g fn d a b c m) := by cases g <;> rfl
theorem decodeOp_58 (la : BitVec 4) (g : Grd) (fn : BitVec 6) (d a b c m : BitVec 8) :
    decodeOp (fieldsOf 0x58 la g fn d a b c m) = decOp58 (fieldsOf 0x58 la g fn d a b c m) := by cases g <;> rfl
theorem decodeOp_59 (la : BitVec 4) (g : Grd) (fn : BitVec 6) (d a b c m : BitVec 8) :
    decodeOp (fieldsOf 0x59 la g fn d a b c m) = decOp59 (fieldsOf 0x59 la g fn d a b c m) := by cases g <;> rfl
theorem decodeOp_5A (la : BitVec 4) (g : Grd) (fn : BitVec 6) (d a b c m : BitVec 8) :
    decodeOp (fieldsOf 0x5A la g fn d a b c m) = decOp5A (fieldsOf 0x5A la g fn d a b c m) := by cases g <;> rfl
theorem decodeOp_5B (la : BitVec 4) (g : Grd) (fn : BitVec 6) (d a b c m : BitVec 8) :
    decodeOp (fieldsOf 0x5B la g fn d a b c m) = decOp5B (fieldsOf 0x5B la g fn d a b c m) := by cases g <;> rfl
theorem decodeOp_5C (la : BitVec 4) (g : Grd) (fn : BitVec 6) (d a b c m : BitVec 8) :
    decodeOp (fieldsOf 0x5C la g fn d a b c m) = decOp5C (fieldsOf 0x5C la g fn d a b c m) := by cases g <;> rfl
theorem decodeOp_5D (la : BitVec 4) (g : Grd) (fn : BitVec 6) (d a b c m : BitVec 8) :
    decodeOp (fieldsOf 0x5D la g fn d a b c m) = decOp5D (fieldsOf 0x5D la g fn d a b c m) := by cases g <;> rfl
theorem decodeOp_5E (la : BitVec 4) (g : Grd) (fn : BitVec 6) (d a b c m : BitVec 8) :
    decodeOp (fieldsOf 0x5E la g fn d a b c m) = decOp5E (fieldsOf 0x5E la g fn d a b c m) := by cases g <;> rfl
theorem decodeOp_5F (la : BitVec 4) (g : Grd) (fn : BitVec 6) (d a b c m : BitVec 8) :
    decodeOp (fieldsOf 0x5F la g fn d a b c m) = decOp5F (fieldsOf 0x5F la g fn d a b c m) := by cases g <;> rfl
theorem decodeOp_60 (la : BitVec 4) (g : Grd) (fn : BitVec 6) (d a b c m : BitVec 8) :
    decodeOp (fieldsOf 0x60 la g fn d a b c m) = decOp60 (fieldsOf 0x60 la g fn d a b c m) := by cases g <;> rfl
theorem decodeOp_61 (la : BitVec 4) (g : Grd) (fn : BitVec 6) (d a b c m : BitVec 8) :
    decodeOp (fieldsOf 0x61 la g fn d a b c m) = decOp61 (fieldsOf 0x61 la g fn d a b c m) := by cases g <;> rfl
theorem decodeOp_62 (la : BitVec 4) (g : Grd) (fn : BitVec 6) (d a b c m : BitVec 8) :
    decodeOp (fieldsOf 0x62 la g fn d a b c m) = decOp62 (fieldsOf 0x62 la g fn d a b c m) := by cases g <;> rfl
theorem decodeOp_63 (la : BitVec 4) (g : Grd) (fn : BitVec 6) (d a b c m : BitVec 8) :
    decodeOp (fieldsOf 0x63 la g fn d a b c m) = decOp63 (fieldsOf 0x63 la g fn d a b c m) := by cases g <;> rfl
theorem decodeOp_68 (la : BitVec 4) (g : Grd) (fn : BitVec 6) (d a b c m : BitVec 8) :
    decodeOp (fieldsOf 0x68 la g fn d a b c m) = decOp68 (fieldsOf 0x68 la g fn d a b c m) := by cases g <;> rfl
theorem decodeOp_69 (la : BitVec 4) (g : Grd) (fn : BitVec 6) (d a b c m : BitVec 8) :
    decodeOp (fieldsOf 0x69 la g fn d a b c m) = decOp69 (fieldsOf 0x69 la g fn d a b c m) := by cases g <;> rfl
theorem decodeOp_6A (la : BitVec 4) (g : Grd) (fn : BitVec 6) (d a b c m : BitVec 8) :
    decodeOp (fieldsOf 0x6A la g fn d a b c m) = decOp6A (fieldsOf 0x6A la g fn d a b c m) := by cases g <;> rfl
theorem decodeOp_6B (la : BitVec 4) (g : Grd) (fn : BitVec 6) (d a b c m : BitVec 8) :
    decodeOp (fieldsOf 0x6B la g fn d a b c m) = decOp6B (fieldsOf 0x6B la g fn d a b c m) := by cases g <;> rfl
theorem decodeOp_6C (la : BitVec 4) (g : Grd) (fn : BitVec 6) (d a b c m : BitVec 8) :
    decodeOp (fieldsOf 0x6C la g fn d a b c m) = decOp6C (fieldsOf 0x6C la g fn d a b c m) := by cases g <;> rfl
theorem decodeOp_6D (la : BitVec 4) (g : Grd) (fn : BitVec 6) (d a b c m : BitVec 8) :
    decodeOp (fieldsOf 0x6D la g fn d a b c m) = decOp6D (fieldsOf 0x6D la g fn d a b c m) := by cases g <;> rfl
theorem decodeOp_6E (la : BitVec 4) (g : Grd) (fn : BitVec 6) (d a b c m : BitVec 8) :
    decodeOp (fieldsOf 0x6E la g fn d a b c m) = decOp6E (fieldsOf 0x6E la g fn d a b c m) := by cases g <;> rfl
theorem decodeOp_6F (la : BitVec 4) (g : Grd) (fn : BitVec 6) (d a b c m : BitVec 8) :
    decodeOp (fieldsOf 0x6F la g fn d a b c m) = decOp6F (fieldsOf 0x6F la g fn d a b c m) := by cases g <;> rfl
theorem decodeOp_70 (la : BitVec 4) (g : Grd) (fn : BitVec 6) (d a b c m : BitVec 8) :
    decodeOp (fieldsOf 0x70 la g fn d a b c m) = decOp70 (fieldsOf 0x70 la g fn d a b c m) := by cases g <;> rfl
theorem decodeOp_71 (la : BitVec 4) (g : Grd) (fn : BitVec 6) (d a b c m : BitVec 8) :
    decodeOp (fieldsOf 0x71 la g fn d a b c m) = decOp71 (fieldsOf 0x71 la g fn d a b c m) := by cases g <;> rfl
theorem decodeOp_72 (la : BitVec 4) (g : Grd) (fn : BitVec 6) (d a b c m : BitVec 8) :
    decodeOp (fieldsOf 0x72 la g fn d a b c m) = decOp72 (fieldsOf 0x72 la g fn d a b c m) := by cases g <;> rfl
theorem decodeOp_73 (la : BitVec 4) (g : Grd) (fn : BitVec 6) (d a b c m : BitVec 8) :
    decodeOp (fieldsOf 0x73 la g fn d a b c m) = decOp73 (fieldsOf 0x73 la g fn d a b c m) := by cases g <;> rfl
theorem decodeOp_74 (la : BitVec 4) (g : Grd) (fn : BitVec 6) (d a b c m : BitVec 8) :
    decodeOp (fieldsOf 0x74 la g fn d a b c m) = decOp74 (fieldsOf 0x74 la g fn d a b c m) := by cases g <;> rfl
theorem decodeOp_75 (la : BitVec 4) (g : Grd) (fn : BitVec 6) (d a b c m : BitVec 8) :
    decodeOp (fieldsOf 0x75 la g fn d a b c m) = decOp75 (fieldsOf 0x75 la g fn d a b c m) := by cases g <;> rfl
theorem decodeOp_76 (la : BitVec 4) (g : Grd) (fn : BitVec 6) (d a b c m : BitVec 8) :
    decodeOp (fieldsOf 0x76 la g fn d a b c m) = decOp76 (fieldsOf 0x76 la g fn d a b c m) := by cases g <;> rfl
theorem decodeOp_77 (la : BitVec 4) (g : Grd) (fn : BitVec 6) (d a b c m : BitVec 8) :
    decodeOp (fieldsOf 0x77 la g fn d a b c m) = decOp77 (fieldsOf 0x77 la g fn d a b c m) := by cases g <;> rfl
theorem decodeOp_78 (la : BitVec 4) (g : Grd) (fn : BitVec 6) (d a b c m : BitVec 8) :
    decodeOp (fieldsOf 0x78 la g fn d a b c m) = decOp78 (fieldsOf 0x78 la g fn d a b c m) := by cases g <;> rfl
theorem decodeOp_79 (la : BitVec 4) (g : Grd) (fn : BitVec 6) (d a b c m : BitVec 8) :
    decodeOp (fieldsOf 0x79 la g fn d a b c m) = decOp79 (fieldsOf 0x79 la g fn d a b c m) := by cases g <;> rfl
theorem decodeOp_7A (la : BitVec 4) (g : Grd) (fn : BitVec 6) (d a b c m : BitVec 8) :
    decodeOp (fieldsOf 0x7A la g fn d a b c m) = decOp7A (fieldsOf 0x7A la g fn d a b c m) := by cases g <;> rfl
theorem decodeOp_7B (la : BitVec 4) (g : Grd) (fn : BitVec 6) (d a b c m : BitVec 8) :
    decodeOp (fieldsOf 0x7B la g fn d a b c m) = decOp7B (fieldsOf 0x7B la g fn d a b c m) := by cases g <;> rfl
theorem decodeOp_7C (la : BitVec 4) (g : Grd) (fn : BitVec 6) (d a b c m : BitVec 8) :
    decodeOp (fieldsOf 0x7C la g fn d a b c m) = decOp7C (fieldsOf 0x7C la g fn d a b c m) := by cases g <;> rfl
theorem decodeOp_7D (la : BitVec 4) (g : Grd) (fn : BitVec 6) (d a b c m : BitVec 8) :
    decodeOp (fieldsOf 0x7D la g fn d a b c m) = decOp7D (fieldsOf 0x7D la g fn d a b c m) := by cases g <;> rfl

/-! ### Pair words -/

theorem slot_parts (p : BitVec 6 × BitVec 8 × BitVec 8) : (p.1 ++ p.2.1 ++ p.2.2 ++ 0#9 : BitVec 31).extractLsb' 25 6 = p.1 ∧
    (p.1 ++ p.2.1 ++ p.2.2 ++ 0#9 : BitVec 31).extractLsb' 17 8 = p.2.1 ∧ (p.1 ++ p.2.1 ++ p.2.2 ++ 0#9 : BitVec 31).extractLsb' 9 8 = p.2.2 ∧
    (p.1 ++ p.2.1 ++ p.2.2 ++ 0#9 : BitVec 31).extractLsb' 0 9 = 0#9 := by
  refine ⟨?_, ?_, ?_, ?_⟩ <;> (apply BitVec.eq_of_getLsbD_eq; intro i hi; simp only [BitVec.getLsbD_extractLsb', BitVec.getLsbD_append]; interval_cases i <;> simp)

/-- A slot statement reads back from its 31 bits. -/
theorem decodeSlot_encodeSlot {x : Slot} (h : x.encodable = true) : decodeSlot (encodeSlot x) = .ok x := by
  obtain ⟨a, b, c, d⟩ := slot_parts x.parts
  unfold decodeSlot encodeSlot
  rw [a, b, c, d]
  cases x <;> simp_all [Slot.parts, Slot.encodable]
/-- A pair word reads back. -/
theorem decode_pair {x y : Slot} (hx : x.encodable = true) (hy : y.encodable = true) (hp : pairRules x y = true) :
    decode (1#1 ++ encodeSlot x ++ encodeSlot y ++ 0#1) = .ok (.pairWord x y) := by
  have e63 : (1#1 ++ encodeSlot x ++ encodeSlot y ++ 0#1).getLsbD 63 = true := by simp only [BitVec.getLsbD_append]; simp
  have e0 : (1#1 ++ encodeSlot x ++ encodeSlot y ++ 0#1).getLsbD 0 = false := by simp only [BitVec.getLsbD_append]; simp
  have e1 : (1#1 ++ encodeSlot x ++ encodeSlot y ++ 0#1).extractLsb' 32 31 = encodeSlot x := by
    apply BitVec.eq_of_getLsbD_eq; intro i hi
    simp only [BitVec.getLsbD_extractLsb', BitVec.getLsbD_append]; interval_cases i <;> simp
  have e2 : (1#1 ++ encodeSlot x ++ encodeSlot y ++ 0#1).extractLsb' 1 31 = encodeSlot y := by
    apply BitVec.eq_of_getLsbD_eq; intro i hi
    simp only [BitVec.getLsbD_extractLsb', BitVec.getLsbD_append]; interval_cases i <;> simp
  unfold decode
  rw [e63, e0, e1, e2, decodeSlot_encodeSlot hx, decodeSlot_encodeSlot hy]
  simp [hp]

end Sys2Proof
end

