-- ==== Sys2Proof/Laws/Tbl.lean ====
section
/-! SUPPORT. Laws of tables: a read after a write gives the value written, a write leaves every other key alone, and the
operations keep the keys rising and the canonical form. The read laws hold of every list, sorted or not. -/

namespace Sys2Proof.Machine

variable {α : Type}

@[simp] theorem tfind_nil (a : Nat) : tfind ([] : Tbl α) a = none := rfl

theorem tfind_tput_same (t : Tbl α) (a : Nat) (v : α) : tfind (tput t a v) a = some v := by
  induction t with
  | nil => simp [tput, tfind]
  | cons p t ih =>
    obtain ⟨k, w⟩ := p
    by_cases h : a = k
    · simp [tput, tfind, h]
    · by_cases h2 : a < k <;> simp [tput, tfind, h, h2, ih]

theorem tfind_tput_ne (t : Tbl α) {a b : Nat} (h : b ≠ a) (v : α) : tfind (tput t a v) b = tfind t b := by
  induction t with
  | nil => simp [tput, tfind, h]
  | cons p t ih =>
    obtain ⟨k, w⟩ := p
    by_cases hk : a = k
    · subst hk; simp [tput, tfind, h]
    · by_cases h2 : a < k <;> simp [tput, tfind, hk, h, h2, ih]

theorem tfind_terase_same (t : Tbl α) (a : Nat) : tfind (terase t a) a = none := by
  induction t with
  | nil => rfl
  | cons p t ih =>
    obtain ⟨k, w⟩ := p
    by_cases hk : a = k
    · subst hk; simp [terase, ih]
    · simp [terase, tfind, hk, ih]

theorem tfind_terase_ne (t : Tbl α) {a b : Nat} (h : b ≠ a) : tfind (terase t a) b = tfind t b := by
  induction t with
  | nil => rfl
  | cons p t ih =>
    obtain ⟨k, w⟩ := p
    by_cases hk : a = k
    · subst hk; simp [terase, tfind, h, ih]
    · simp [terase, tfind, hk, ih]

@[simp] theorem tget_nil (d : α) (a : Nat) : tget d [] a = d := rfl
@[simp] theorem tget_tput_same (d : α) (t : Tbl α) (a : Nat) (v : α) : tget d (tput t a v) a = v := by
  simp [tget, tfind_tput_same]
theorem tget_tput_ne (d : α) (t : Tbl α) {a b : Nat} (h : b ≠ a) (v : α) : tget d (tput t a v) b = tget d t b := by
  simp [tget, tfind_tput_ne t h]
theorem tget_tput (d : α) (t : Tbl α) (a b : Nat) (v : α) : tget d (tput t a v) b = if b = a then v else tget d t b := by
  by_cases h : b = a
  · subst h; simp
  · simp [h, tget_tput_ne]

variable [DecidableEq α]

@[simp] theorem tget_tset_same (d : α) (t : Tbl α) (a : Nat) (v : α) : tget d (tset d t a v) a = v := by
  unfold tset
  by_cases h : v = d <;> simp [h, tget, tfind_terase_same, tfind_tput_same]
theorem tget_tset_ne (d : α) (t : Tbl α) {a b : Nat} (h : b ≠ a) (v : α) : tget d (tset d t a v) b = tget d t b := by
  unfold tset
  by_cases hv : v = d <;> simp [hv, tget, tfind_terase_ne t h, tfind_tput_ne t h]
theorem tget_tset (d : α) (t : Tbl α) (a b : Nat) (v : α) : tget d (tset d t a v) b = if b = a then v else tget d t b := by
  by_cases h : b = a
  · subst h; simp
  · simp [h, tget_tset_ne]

omit [DecidableEq α] in
/-- A second write of a key replaces the first. -/
@[simp] theorem tput_tput (t : Tbl α) (a : Nat) (v w : α) : tput (tput t a v) a w = tput t a w := by
  induction t with
  | nil => simp [tput]
  | cons p t ih =>
    obtain ⟨k, u⟩ := p
    by_cases hk : a = k
    · subst hk; simp [tput]
    · by_cases h2 : a < k <;> simp [tput, hk, h2, ih]

/-! ### The canonical form -/

omit [DecidableEq α] in
theorem tsortedFrom_mono {b c : Nat} (h : b ≤ c) {t : Tbl α} (ht : tsortedFrom c t = true) : tsortedFrom b t = true := by
  cases t with
  | nil => rfl
  | cons p t =>
    obtain ⟨k, v⟩ := p
    simp only [tsortedFrom, Bool.and_eq_true, decide_eq_true_eq] at ht ⊢
    exact ⟨by omega, ht.2⟩

omit [DecidableEq α] in
theorem tsortedFrom_tput {b a : Nat} (h : b ≤ a) (v : α) {t : Tbl α} (ht : tsortedFrom b t = true) :
    tsortedFrom b (tput t a v) = true := by
  induction t generalizing b with
  | nil => simp [tput, tsortedFrom, h]
  | cons p t ih =>
    obtain ⟨k, w⟩ := p
    simp only [tsortedFrom, Bool.and_eq_true, decide_eq_true_eq] at ht
    by_cases hk : a = k
    · subst hk; simp [tput, tsortedFrom, ht.2, h]
    · by_cases h2 : a < k
      · simp [tput, hk, h2, tsortedFrom, h, ht.2]
      · simp [tput, hk, h2, tsortedFrom, ht.1, ih (b := k + 1) (by omega) ht.2]

omit [DecidableEq α] in
theorem tsortedFrom_terase {b : Nat} (a : Nat) {t : Tbl α} (ht : tsortedFrom b t = true) : tsortedFrom b (terase t a) = true := by
  induction t generalizing b with
  | nil => rfl
  | cons p t ih =>
    obtain ⟨k, w⟩ := p
    simp only [tsortedFrom, Bool.and_eq_true, decide_eq_true_eq] at ht
    by_cases hk : a = k
    · simpa [terase, hk] using tsortedFrom_mono (by omega) (ih (b := k + 1) (hk ▸ ht.2))
    · simp [terase, hk, tsortedFrom, ht.1, ih ht.2]

omit [DecidableEq α] in
theorem mem_tput {t : Tbl α} {a : Nat} {v : α} {p : Nat × α} (h : p ∈ tput t a v) : p.2 = v ∨ p ∈ t := by
  induction t with
  | nil => simp [tput] at h; exact .inl (by rw [h])
  | cons q t ih =>
    obtain ⟨k, w⟩ := q
    by_cases hk : a = k
    · simp [tput, hk] at h; rcases h with h | h
      · exact .inl (by rw [h])
      · exact .inr (by simp [h])
    · by_cases h2 : a < k
      · simp [tput, hk, h2] at h; rcases h with h | h | h
        · exact .inl (by rw [h])
        · exact .inr (by simp [h])
        · exact .inr (by simp [h])
      · simp [tput, hk, h2] at h; rcases h with h | h
        · exact .inr (by simp [h])
        · rcases ih h with h | h
          · exact .inl h
          · exact .inr (by simp [h])

omit [DecidableEq α] in
theorem mem_terase {t : Tbl α} {a : Nat} {p : Nat × α} (h : p ∈ terase t a) : p ∈ t := by
  induction t with
  | nil => simp [terase] at h
  | cons q t ih =>
    obtain ⟨k, w⟩ := q
    by_cases hk : a = k
    · simp [terase, hk] at h; exact List.mem_cons_of_mem _ (ih (by rw [hk]; exact h))
    · simp [terase, hk] at h; rcases h with h | h
      · simp [h]
      · exact List.mem_cons_of_mem _ (ih h)

theorem twf_tset (d : α) {t : Tbl α} (a : Nat) (v : α) (h : twf d t = true) : twf d (tset d t a v) = true := by
  simp only [twf, Bool.and_eq_true, List.all_eq_true, decide_eq_true_eq] at h ⊢
  unfold tset
  by_cases hv : v = d
  · simp only [hv, if_true]
    exact ⟨tsortedFrom_terase a h.1, fun p hp => h.2 p (mem_terase hp)⟩
  · simp only [hv, if_false]
    refine ⟨tsortedFrom_tput (Nat.zero_le _) v h.1, fun p hp => ?_⟩
    rcases mem_tput hp with e | e
    · rw [e]; exact hv
    · exact h.2 p e

/-- Leaving out entries keeps the canonical form. -/
theorem twf_filter (d : α) {t : Tbl α} (f : Nat × α → Bool) (h : twf d t = true) : twf d (t.filter f) = true := by
  simp only [twf, Bool.and_eq_true, List.all_eq_true, decide_eq_true_eq] at h ⊢
  refine ⟨?_, fun p hp => h.2 p (List.mem_filter.mp hp).1⟩
  have key : ∀ (b : Nat) (t : Tbl α), tsortedFrom b t = true → tsortedFrom b (t.filter f) = true := by
    intro b t
    induction t generalizing b with
    | nil => exact id
    | cons p t ih =>
      obtain ⟨k, w⟩ := p
      intro ht
      simp only [tsortedFrom, Bool.and_eq_true, decide_eq_true_eq] at ht
      by_cases hf : f (k, w)
      · simp [hf, tsortedFrom, ht.1, ih _ ht.2]
      · simpa [List.filter_cons, hf] using tsortedFrom_mono (by omega) (ih _ ht.2)
  exact key 0 t h.1

omit [DecidableEq α] in
/-- A key below every listed key is not listed. -/
theorem tfind_none_below {b a : Nat} {t : Tbl α} (ht : tsortedFrom b t = true) (h : a < b) : tfind t a = none := by
  induction t generalizing b with
  | nil => rfl
  | cons p t ih =>
    obtain ⟨k, w⟩ := p
    simp only [tsortedFrom, Bool.and_eq_true, decide_eq_true_eq] at ht
    have : a ≠ k := by omega
    simp [tfind, this, ih ht.2 (by omega)]

end Sys2Proof.Machine
end

