-- ==== Sys2Proof/Laws/Memory.lean ====
section
/-! SUPPORT. Memory: every operation keeps the canonical form, a byte written reads back, and what a write leaves alone. -/

namespace Sys2Proof.Machine

/-! ### One byte -/

@[simp] theorem readByte_writeByte_same (m : Tbl Byte) (a : Nat) (x : Byte) : readByte (writeByte m a x) a = x := by
  simp [readByte, writeByte]
theorem readByte_writeByte_ne (m : Tbl Byte) {a b : Nat} (h : b ≠ a) (x : Byte) : readByte (writeByte m a x) b = readByte m b := by
  simp [readByte, writeByte, tget_tset_ne _ _ h]
theorem wf_writeByte {m : Tbl Byte} (h : Memory.wf m) (a : Nat) (x : Byte) : Memory.wf (writeByte m a x) := twf_tset 0 a x h

/-! ### Several bytes -/

theorem wf_writeBytes {m : Tbl Byte} (h : Memory.wf m) (a : Nat) (bs : List Byte) : Memory.wf (writeBytes m a bs) := by
  induction bs generalizing m a with
  | nil => exact h
  | cons b t ih => exact ih (wf_writeByte h a b) (a + 1)
theorem readByte_writeBytes_below (m : Tbl Byte) {a b : Nat} (h : b < a) (bs : List Byte) :
    readByte (writeBytes m a bs) b = readByte m b := by
  induction bs generalizing m a with
  | nil => rfl
  | cons x t ih => simp only [writeBytes]; rw [ih _ (by omega), readByte_writeByte_ne _ (by omega)]
theorem wf_writeNum {m : Tbl Byte} (h : Memory.wf m) (a n x : Nat) : Memory.wf (writeNum m a n x) := wf_writeBytes h a _
theorem wf_filter {m : Tbl Byte} (h : Memory.wf m) (f : Nat × Byte → Bool) : Memory.wf (m.filter f) := twf_filter 0 f h
theorem wf_applySlots {m : Tbl Byte} (h : Memory.wf m) (block : Nat) (op : AccOpc) (slots : Tbl W32) :
    Memory.wf (applySlots m block op slots) := by
  have keep (l : List (Nat × W32)) (f : Nat × W32 → Nat) (m : Tbl Byte) (h : Memory.wf m) :
      Memory.wf (l.foldl (fun m p => writeNum m (block * 64 + 4 * p.1) 4 (f p)) m) := by
    induction l generalizing m with
    | nil => exact h
    | cons p t ih => exact ih _ (wf_writeNum h _ _ _)
  exact keep slots (fun p => (tget 0 (mergeSlots op _ slots) p.1).toNat) m h
theorem wf_putMem {s : State} (h : Memory.wf s.mem) (pa : Nat) (bs : List Byte) : Memory.wf (s.putMem pa bs).mem := wf_writeBytes h pa bs
theorem wf_reset : Memory.wf State.reset.mem := by decide

/-! ### Bytes of numbers -/

@[simp] theorem length_bytesOfNum (n x : Nat) : (bytesOfNum n x).length = n := by
  induction n generalizing x with
  | zero => rfl
  | succ n ih => simp [bytesOfNum, ih]
theorem numOfBytes_bytesOfNum (n x : Nat) : numOfBytes (bytesOfNum n x) = x % 256 ^ n := by
  induction n generalizing x with
  | zero => simp [bytesOfNum, numOfBytes, Nat.mod_one]
  | succ n ih =>
    simp only [bytesOfNum, numOfBytes, ih, BitVec.toNat_ofNat]
    have e : 256 ^ (n + 1) = 256 * 256 ^ n := by rw [Nat.pow_succ, Nat.mul_comm]
    rw [e, Nat.mod_mul]

/-! ### Operations that leave memory alone -/

theorem mem_foldl {α : Type} (f : State → α → State) (h : ∀ s x, (f s x).mem = s.mem) (l : List α) (s : State) :
    (l.foldl f s).mem = s.mem := by
  induction l generalizing s with
  | nil => rfl
  | cons x t ih => exact (ih _).trans (h s x)

@[simp] theorem State.mem_setTeam (s : State) (t : Nat) (T : Team) : (s.setTeam t T).mem = s.mem := rfl
@[simp] theorem State.mem_modTeam (s : State) (t : Nat) (f : Team → Team) : (s.modTeam t f).mem = s.mem := rfl
@[simp] theorem State.mem_setGang (s : State) (t g : Nat) (G : Gang) : (s.setGang t g G).mem = s.mem := rfl
@[simp] theorem State.mem_modGang (s : State) (t g : Nat) (f : Gang → Gang) : (s.modGang t g f).mem = s.mem := rfl
@[simp] theorem State.mem_setCur (s : State) (G : Gang) : (s.setCur G).mem = s.mem := rfl
@[simp] theorem State.mem_modCore (s : State) (c : Nat) (f : Core → Core) : (s.modCore c f).mem = s.mem := rfl
@[simp] theorem State.mem_modSlice (s : State) (n : Nat) (f : Slice → Slice) : (s.modSlice n f).mem = s.mem := rfl
@[simp] theorem State.mem_modPart (s : State) (p : Nat) (f : Part → Part) : (s.modPart p f).mem = s.mem := rfl
@[simp] theorem State.mem_modCtx (s : State) (c : Nat) (f : Context → Context) : (s.modCtx c f).mem = s.mem := rfl
@[simp] theorem State.mem_modFunc (s : State) (n : Nat) (f : Func → Func) : (s.modFunc n f).mem = s.mem := rfl
@[simp] theorem State.mem_modDie (s : State) (d : Nat) (f : Die → Die) : (s.modDie d f).mem = s.mem := rfl
@[simp] theorem State.mem_modCluster (s : State) (c : Nat) (f : Cluster → Cluster) : (s.modCluster c f).mem = s.mem := rfl
@[simp] theorem State.mem_modFuture (s : State) (n : Nat) (f : FutEntry → FutEntry) : (s.modFuture n f).mem = s.mem := rfl
@[simp] theorem State.mem_modQuarter (s : State) (q : Nat) (f : Quarter → Quarter) : (s.modQuarter q f).mem = s.mem := rfl
@[simp] theorem State.mem_mapTeams (s : State) (f : Nat → Team → Team) : (s.mapTeams f).mem = s.mem := rfl
@[simp] theorem State.mem_hostPut (s : State) (fn a : Nat) (bs : List Byte) : (s.hostPut fn a bs).mem = s.mem := rfl
@[simp] theorem State.mem_signal (s : State) (fn vec : Nat) : (s.signal fn vec).mem = s.mem := by
  unfold State.signal; split <;> rfl
@[simp] theorem State.mem_wakeLine (s : State) (line : Nat) : (s.wakeLine line).mem = s.mem := rfl
@[simp] theorem State.mem_relaunch (s : State) (t : Nat) : (s.relaunch t).mem = s.mem := by
  unfold State.relaunch; dsimp only; split <;> rfl
@[simp] theorem State.mem_requeue (s : State) (t : Nat) : (s.requeue t).mem = s.mem := by
  unfold State.requeue; dsimp only
  split
  · rfl
  · split
    · exact s.mem_relaunch t
    · exact mem_foldl (fun (s : State) (p : Nat × Team) => s.relaunch p.1) (fun s p => s.mem_relaunch p.1) _ _
@[simp] theorem State.mem_dropL1 (s : State) (core line : Nat) : (s.dropL1 core line).mem = s.mem := by
  unfold State.dropL1; dsimp only; split <;> rfl
@[simp] theorem State.mem_invalidate (s : State) (line : Nat) (keep : Option Nat) : (s.invalidate line keep).mem = s.mem :=
  mem_foldl _ (fun s c => s.mem_dropL1 c line) _ _
@[simp] theorem State.mem_finish (s : State) (e : Bool) : (s.finish e).mem = s.mem := rfl
@[simp] theorem State.mem_finishAt (s : State) (e : Bool) (f : Nat → W64) : (s.finishAt e f).mem = s.mem := rfl
@[simp] theorem State.mem_openWindow (s : State) (la : Nat) (regs : List Reg) (kind : PendKind) (ws : List RegWrite) (fl : Tbl Flg)
    (ecc : Option (LaneMask × W64)) : (s.openWindow la regs kind ws fl ecc).mem = s.mem := rfl
@[simp] theorem State.mem_results (s : State) (la : Nat) (regs : List Reg) (ws : List RegWrite) (fl : Tbl Flg) :
    (s.results la regs ws fl).mem = s.mem := by
  unfold State.results; split <;> rfl
@[simp] theorem State.mem_enqueue (s : State) (t g : Nat) (ws : SqEntry) : (s.enqueue t g ws).mem = s.mem := by
  unfold State.enqueue; split <;> rfl
@[simp] theorem State.mem_mayReread (s : State) (la : BitVec 4) (m : MemOp) (vec sgn : Bool) (locs : List (Nat × Loc)) :
    (s.mayReread la m vec sgn locs).mem = s.mem := by
  unfold State.mayReread; split <;> rfl
@[simp] theorem State.mem_reread (s : State) (t g : Nat) (p : Pend) : (s.reread t g p).mem = s.mem := by
  unfold State.reread; dsimp only
  split
  · rfl
  · split <;> rfl
@[simp] theorem State.mem_latchWdog (s : State) (c : Nat) : (s.latchWdog c).mem = s.mem := by
  unfold State.latchWdog; split <;> rfl
@[simp] theorem State.mem_deliver (s : State) (t g : Nat) (run : List Nat) (pc : W64) (x : TrapRec) :
    (s.deliver t g run pc x).mem = s.mem := by
  unfold State.deliver; dsimp only; split <;> rw [State.mem_setTeam, State.mem_latchWdog]
@[simp] theorem State.mem_wantGrant (s : State) (core ctx : Nat) : (s.wantGrant core ctx).mem = s.mem := by
  unfold State.wantGrant; split <;> rfl
@[simp] theorem State.mem_chargeRaw (s : State) (core ctx u dom : Nat) : (s.chargeRaw core ctx u dom).mem = s.mem := by
  unfold State.chargeRaw; rw [State.mem_wantGrant]; unfold State.chargeOnly; split <;> rfl
@[simp] theorem State.mem_chargeMiss (s : State) (m : Miss) : (s.chargeMiss m).mem = s.mem := by
  unfold State.chargeMiss; split
  · rfl
  · exact s.mem_chargeRaw _ _ _ _
@[simp] theorem State.mem_chargeMisses (s : State) (l : List Miss) : (s.chargeMisses l).mem = s.mem :=
  mem_foldl _ (fun s m => s.mem_chargeMiss m) _ _
@[simp] theorem State.mem_completeData (s : State) (t g : Nat) : (s.completeData t g).mem = s.mem := by
  unfold State.completeData; rw [State.mem_chargeMisses]; rfl
@[simp] theorem State.mem_lateTrap (s : State) (t g : Nat) (p : Pend) (cause : Nat) (lanes : LaneMask) (addr : W64) :
    (s.lateTrap t g p cause lanes addr).mem = s.mem := by
  unfold State.lateTrap; dsimp only; split <;> simp
@[simp] theorem State.mem_takeLate (s : State) (t g : Nat) (p : Pend) : (s.takeLate t g p).mem = s.mem := by
  unfold State.takeLate; split
  · exact (State.mem_lateTrap _ _ _ _ _ _ _).trans (s.mem_chargeMisses _)
  · rfl
@[simp] theorem State.mem_trapRun (s : State) (x : TrapRec) : (s.trapRun x).mem = s.mem := by
  unfold State.trapRun; dsimp only
  split
  · simp
  · split
    · exact (State.mem_takeLate _ _ _ _).trans (s.mem_completeData _ _)
    · exact (State.mem_deliver _ _ _ _ _ _).trans (by simp)
@[simp] theorem State.mem_trapLanes (s : State) (i : Instr) (ls : List Nat) (c : Nat) (addr : W64) :
    (s.trapLanes i ls c addr).mem = s.mem := s.mem_trapRun _
@[simp] theorem State.mem_trapAllRun (s : State) (i : Instr) (c : Nat) (addr : W64) : (s.trapAllRun i c addr).mem = s.mem :=
  s.mem_trapRun _

end Sys2Proof.Machine
end

