-- ==== Sys2Proof/Laws/State.lean ====
section
/-! SUPPORT. What the named updates of the state leave alone, one lemma per field, each true by definition. -/

namespace Sys2Proof.Machine

section
variable (s : State) (t : Nat) (T : Team)
@[simp] theorem State.setTeam_agenda : (s.setTeam t T).agenda = s.agenda := rfl
@[simp] theorem State.setTeam_fuel : (s.setTeam t T).fuel = s.fuel := rfl
@[simp] theorem State.setTeam_cur : (s.setTeam t T).cur = s.cur := rfl
@[simp] theorem State.setTeam_issues : (s.setTeam t T).issues = s.issues := rfl
@[simp] theorem State.setTeam_note : (s.setTeam t T).note = s.note := rfl
@[simp] theorem State.setTeam_nextId : (s.setTeam t T).nextId = s.nextId := rfl
@[simp] theorem State.setTeam_barTests : (s.setTeam t T).barTests = s.barTests := rfl
@[simp] theorem State.setTeam_flights : (s.setTeam t T).flights = s.flights := rfl
@[simp] theorem State.setTeam_links : (s.setTeam t T).links = s.links := rfl
@[simp] theorem State.setTeam_mem : (s.setTeam t T).mem = s.mem := rfl
@[simp] theorem State.setTeam_poison : (s.setTeam t T).poison = s.poison := rfl
@[simp] theorem State.setTeam_host : (s.setTeam t T).host = s.host := rfl
@[simp] theorem State.setTeam_retiredCh : (s.setTeam t T).retiredCh = s.retiredCh := rfl
@[simp] theorem State.setTeam_withdrawn : (s.setTeam t T).withdrawn = s.withdrawn := rfl
@[simp] theorem State.setTeam_time : (s.setTeam t T).time = s.time := rfl
@[simp] theorem State.setTeam_quarters : (s.setTeam t T).quarters = s.quarters := rfl
@[simp] theorem State.setTeam_powered : (s.setTeam t T).powered = s.powered := rfl
@[simp] theorem State.setTeam_groups : (s.setTeam t T).groups = s.groups := rfl
@[simp] theorem State.setTeam_cores : (s.setTeam t T).cores = s.cores := rfl
@[simp] theorem State.setTeam_clusters : (s.setTeam t T).clusters = s.clusters := rfl
@[simp] theorem State.setTeam_dies : (s.setTeam t T).dies = s.dies := rfl
@[simp] theorem State.setTeam_slices : (s.setTeam t T).slices = s.slices := rfl
@[simp] theorem State.setTeam_futures : (s.setTeam t T).futures = s.futures := rfl
@[simp] theorem State.setTeam_parts : (s.setTeam t T).parts = s.parts := rfl
@[simp] theorem State.setTeam_ctxs : (s.setTeam t T).ctxs = s.ctxs := rfl
@[simp] theorem State.setTeam_weights : (s.setTeam t T).weights = s.weights := rfl
@[simp] theorem State.setTeam_wtabVer : (s.setTeam t T).wtabVer = s.wtabVer := rfl
@[simp] theorem State.setTeam_wshadow : (s.setTeam t T).wshadow = s.wshadow := rfl
@[simp] theorem State.setTeam_dyn : (s.setTeam t T).dyn = s.dyn := rfl
@[simp] theorem State.setTeam_resid : (s.setTeam t T).resid = s.resid := rfl
@[simp] theorem State.setTeam_pkgStanding : (s.setTeam t T).pkgStanding = s.pkgStanding := rfl
@[simp] theorem State.setTeam_shareW : (s.setTeam t T).shareW = s.shareW := rfl
@[simp] theorem State.setTeam_rscale : (s.setTeam t T).rscale = s.rscale := rfl
@[simp] theorem State.setTeam_capcfg : (s.setTeam t T).capcfg = s.capcfg := rfl
@[simp] theorem State.setTeam_capbudget : (s.setTeam t T).capbudget = s.capbudget := rfl
@[simp] theorem State.setTeam_capReports : (s.setTeam t T).capReports = s.capReports := rfl
@[simp] theorem State.setTeam_capShare : (s.setTeam t T).capShare = s.capShare := rfl
@[simp] theorem State.setTeam_capMissed : (s.setTeam t T).capMissed = s.capMissed := rfl
@[simp] theorem State.setTeam_capRefused : (s.setTeam t T).capRefused = s.capRefused := rfl
@[simp] theorem State.setTeam_capDone : (s.setTeam t T).capDone = s.capDone := rfl
@[simp] theorem State.setTeam_capDivided : (s.setTeam t T).capDivided = s.capDivided := rfl
@[simp] theorem State.setTeam_tick : (s.setTeam t T).tick = s.tick := rfl
@[simp] theorem State.setTeam_expInt : (s.setTeam t T).expInt = s.expInt := rfl
@[simp] theorem State.setTeam_funcs : (s.setTeam t T).funcs = s.funcs := rfl
@[simp] theorem State.setTeam_prqs : (s.setTeam t T).prqs = s.prqs := rfl
@[simp] theorem State.setTeam_prqWait : (s.setTeam t T).prqWait = s.prqWait := rfl
@[simp] theorem State.setTeam_parked : (s.setTeam t T).parked = s.parked := rfl
@[simp] theorem State.setTeam_msgs : (s.setTeam t T).msgs = s.msgs := rfl
@[simp] theorem State.setTeam_errRing : (s.setTeam t T).errRing = s.errRing := rfl
@[simp] theorem State.setTeam_s2inv : (s.setTeam t T).s2inv = s.s2inv := rfl
@[simp] theorem State.setTeam_ccload : (s.setTeam t T).ccload = s.ccload := rfl
@[simp] theorem State.setTeam_mailboxes : (s.setTeam t T).mailboxes = s.mailboxes := rfl
@[simp] theorem State.setTeam_cmdCores : (s.setTeam t T).cmdCores = s.cmdCores := rfl
@[simp] theorem State.setTeam_bootstat : (s.setTeam t T).bootstat = s.bootstat := rfl
@[simp] theorem State.setTeam_agtData : (s.setTeam t T).agtData = s.agtData := rfl
@[simp] theorem State.setTeam_agtCtl : (s.setTeam t T).agtCtl = s.agtCtl := rfl
@[simp] theorem State.setTeam_agtBuf : (s.setTeam t T).agtBuf = s.agtBuf := rfl
@[simp] theorem State.setTeam_agtSeq : (s.setTeam t T).agtSeq = s.agtSeq := rfl
@[simp] theorem State.setTeam_leaseKeys : (s.setTeam t T).leaseKeys = s.leaseKeys := rfl
@[simp] theorem State.setTeam_pkgTenant : (s.setTeam t T).pkgTenant = s.pkgTenant := rfl
@[simp] theorem State.setTeam_scrubSeq : (s.setTeam t T).scrubSeq = s.scrubSeq := rfl
@[simp] theorem State.setTeam_fwCopies : (s.setTeam t T).fwCopies = s.fwCopies := rfl
@[simp] theorem State.setTeam_pkgid : (s.setTeam t T).pkgid = s.pkgid := rfl
@[simp] theorem State.setTeam_pkgSet : (s.setTeam t T).pkgSet = s.pkgSet := rfl
@[simp] theorem State.setTeam_ports : (s.setTeam t T).ports = s.ports := rfl
@[simp] theorem State.setTeam_fabRoute : (s.setTeam t T).fabRoute = s.fabRoute := rfl
@[simp] theorem State.setTeam_fabOut : (s.setTeam t T).fabOut = s.fabOut := rfl
@[simp] theorem State.setTeam_answers : (s.setTeam t T).answers = s.answers := rfl
@[simp] theorem State.setTeam_remoteAcc : (s.setTeam t T).remoteAcc = s.remoteAcc := rfl
@[simp] theorem State.setTeam_corrected : (s.setTeam t T).corrected = s.corrected := rfl
@[simp] theorem State.setTeam_extTenant : (s.setTeam t T).extTenant = s.extTenant := rfl
@[simp] theorem State.setTeam_startWaits : (s.setTeam t T).startWaits = s.startWaits := rfl
@[simp] theorem State.setTeam_scrubs : (s.setTeam t T).scrubs = s.scrubs := rfl
@[simp] theorem State.setTeam_running : (s.setTeam t T).running = s.running := rfl
@[simp] theorem State.setTeam_golden : (s.setTeam t T).golden = s.golden := rfl
@[simp] theorem State.setTeam_trims : (s.setTeam t T).trims = s.trims := rfl
@[simp] theorem State.setTeam_opHash : (s.setTeam t T).opHash = s.opHash := rfl
@[simp] theorem State.setTeam_fuses : (s.setTeam t T).fuses = s.fuses := rfl
@[simp] theorem State.setTeam_notices : (s.setTeam t T).notices = s.notices := rfl
@[simp] theorem State.setTeam_misses : (s.setTeam t T).misses = s.misses := rfl
@[simp] theorem State.setTeam_choosing : (s.setTeam t T).choosing = s.choosing := rfl
end

section
variable (s : State) (c : Nat) (C : Core)
@[simp] theorem State.setCore_agenda : (s.setCore c C).agenda = s.agenda := rfl
@[simp] theorem State.setCore_fuel : (s.setCore c C).fuel = s.fuel := rfl
@[simp] theorem State.setCore_cur : (s.setCore c C).cur = s.cur := rfl
@[simp] theorem State.setCore_issues : (s.setCore c C).issues = s.issues := rfl
@[simp] theorem State.setCore_note : (s.setCore c C).note = s.note := rfl
@[simp] theorem State.setCore_nextId : (s.setCore c C).nextId = s.nextId := rfl
@[simp] theorem State.setCore_barTests : (s.setCore c C).barTests = s.barTests := rfl
@[simp] theorem State.setCore_flights : (s.setCore c C).flights = s.flights := rfl
@[simp] theorem State.setCore_links : (s.setCore c C).links = s.links := rfl
@[simp] theorem State.setCore_mem : (s.setCore c C).mem = s.mem := rfl
@[simp] theorem State.setCore_poison : (s.setCore c C).poison = s.poison := rfl
@[simp] theorem State.setCore_host : (s.setCore c C).host = s.host := rfl
@[simp] theorem State.setCore_retiredCh : (s.setCore c C).retiredCh = s.retiredCh := rfl
@[simp] theorem State.setCore_withdrawn : (s.setCore c C).withdrawn = s.withdrawn := rfl
@[simp] theorem State.setCore_time : (s.setCore c C).time = s.time := rfl
@[simp] theorem State.setCore_quarters : (s.setCore c C).quarters = s.quarters := rfl
@[simp] theorem State.setCore_powered : (s.setCore c C).powered = s.powered := rfl
@[simp] theorem State.setCore_teams : (s.setCore c C).teams = s.teams := rfl
@[simp] theorem State.setCore_groups : (s.setCore c C).groups = s.groups := rfl
@[simp] theorem State.setCore_clusters : (s.setCore c C).clusters = s.clusters := rfl
@[simp] theorem State.setCore_dies : (s.setCore c C).dies = s.dies := rfl
@[simp] theorem State.setCore_slices : (s.setCore c C).slices = s.slices := rfl
@[simp] theorem State.setCore_futures : (s.setCore c C).futures = s.futures := rfl
@[simp] theorem State.setCore_parts : (s.setCore c C).parts = s.parts := rfl
@[simp] theorem State.setCore_ctxs : (s.setCore c C).ctxs = s.ctxs := rfl
@[simp] theorem State.setCore_weights : (s.setCore c C).weights = s.weights := rfl
@[simp] theorem State.setCore_wtabVer : (s.setCore c C).wtabVer = s.wtabVer := rfl
@[simp] theorem State.setCore_wshadow : (s.setCore c C).wshadow = s.wshadow := rfl
@[simp] theorem State.setCore_dyn : (s.setCore c C).dyn = s.dyn := rfl
@[simp] theorem State.setCore_resid : (s.setCore c C).resid = s.resid := rfl
@[simp] theorem State.setCore_pkgStanding : (s.setCore c C).pkgStanding = s.pkgStanding := rfl
@[simp] theorem State.setCore_shareW : (s.setCore c C).shareW = s.shareW := rfl
@[simp] theorem State.setCore_rscale : (s.setCore c C).rscale = s.rscale := rfl
@[simp] theorem State.setCore_capcfg : (s.setCore c C).capcfg = s.capcfg := rfl
@[simp] theorem State.setCore_capbudget : (s.setCore c C).capbudget = s.capbudget := rfl
@[simp] theorem State.setCore_capReports : (s.setCore c C).capReports = s.capReports := rfl
@[simp] theorem State.setCore_capShare : (s.setCore c C).capShare = s.capShare := rfl
@[simp] theorem State.setCore_capMissed : (s.setCore c C).capMissed = s.capMissed := rfl
@[simp] theorem State.setCore_capRefused : (s.setCore c C).capRefused = s.capRefused := rfl
@[simp] theorem State.setCore_capDone : (s.setCore c C).capDone = s.capDone := rfl
@[simp] theorem State.setCore_capDivided : (s.setCore c C).capDivided = s.capDivided := rfl
@[simp] theorem State.setCore_tick : (s.setCore c C).tick = s.tick := rfl
@[simp] theorem State.setCore_expInt : (s.setCore c C).expInt = s.expInt := rfl
@[simp] theorem State.setCore_funcs : (s.setCore c C).funcs = s.funcs := rfl
@[simp] theorem State.setCore_prqs : (s.setCore c C).prqs = s.prqs := rfl
@[simp] theorem State.setCore_prqWait : (s.setCore c C).prqWait = s.prqWait := rfl
@[simp] theorem State.setCore_parked : (s.setCore c C).parked = s.parked := rfl
@[simp] theorem State.setCore_msgs : (s.setCore c C).msgs = s.msgs := rfl
@[simp] theorem State.setCore_errRing : (s.setCore c C).errRing = s.errRing := rfl
@[simp] theorem State.setCore_s2inv : (s.setCore c C).s2inv = s.s2inv := rfl
@[simp] theorem State.setCore_ccload : (s.setCore c C).ccload = s.ccload := rfl
@[simp] theorem State.setCore_mailboxes : (s.setCore c C).mailboxes = s.mailboxes := rfl
@[simp] theorem State.setCore_cmdCores : (s.setCore c C).cmdCores = s.cmdCores := rfl
@[simp] theorem State.setCore_bootstat : (s.setCore c C).bootstat = s.bootstat := rfl
@[simp] theorem State.setCore_agtData : (s.setCore c C).agtData = s.agtData := rfl
@[simp] theorem State.setCore_agtCtl : (s.setCore c C).agtCtl = s.agtCtl := rfl
@[simp] theorem State.setCore_agtBuf : (s.setCore c C).agtBuf = s.agtBuf := rfl
@[simp] theorem State.setCore_agtSeq : (s.setCore c C).agtSeq = s.agtSeq := rfl
@[simp] theorem State.setCore_leaseKeys : (s.setCore c C).leaseKeys = s.leaseKeys := rfl
@[simp] theorem State.setCore_pkgTenant : (s.setCore c C).pkgTenant = s.pkgTenant := rfl
@[simp] theorem State.setCore_scrubSeq : (s.setCore c C).scrubSeq = s.scrubSeq := rfl
@[simp] theorem State.setCore_fwCopies : (s.setCore c C).fwCopies = s.fwCopies := rfl
@[simp] theorem State.setCore_pkgid : (s.setCore c C).pkgid = s.pkgid := rfl
@[simp] theorem State.setCore_pkgSet : (s.setCore c C).pkgSet = s.pkgSet := rfl
@[simp] theorem State.setCore_ports : (s.setCore c C).ports = s.ports := rfl
@[simp] theorem State.setCore_fabRoute : (s.setCore c C).fabRoute = s.fabRoute := rfl
@[simp] theorem State.setCore_fabOut : (s.setCore c C).fabOut = s.fabOut := rfl
@[simp] theorem State.setCore_answers : (s.setCore c C).answers = s.answers := rfl
@[simp] theorem State.setCore_remoteAcc : (s.setCore c C).remoteAcc = s.remoteAcc := rfl
@[simp] theorem State.setCore_corrected : (s.setCore c C).corrected = s.corrected := rfl
@[simp] theorem State.setCore_extTenant : (s.setCore c C).extTenant = s.extTenant := rfl
@[simp] theorem State.setCore_startWaits : (s.setCore c C).startWaits = s.startWaits := rfl
@[simp] theorem State.setCore_scrubs : (s.setCore c C).scrubs = s.scrubs := rfl
@[simp] theorem State.setCore_running : (s.setCore c C).running = s.running := rfl
@[simp] theorem State.setCore_golden : (s.setCore c C).golden = s.golden := rfl
@[simp] theorem State.setCore_trims : (s.setCore c C).trims = s.trims := rfl
@[simp] theorem State.setCore_opHash : (s.setCore c C).opHash = s.opHash := rfl
@[simp] theorem State.setCore_fuses : (s.setCore c C).fuses = s.fuses := rfl
@[simp] theorem State.setCore_notices : (s.setCore c C).notices = s.notices := rfl
@[simp] theorem State.setCore_misses : (s.setCore c C).misses = s.misses := rfl
@[simp] theorem State.setCore_choosing : (s.setCore c C).choosing = s.choosing := rfl
end

section
variable (s : State) (c : Nat) (f : Cluster → Cluster)
@[simp] theorem State.modCluster_agenda : (s.modCluster c f).agenda = s.agenda := rfl
@[simp] theorem State.modCluster_fuel : (s.modCluster c f).fuel = s.fuel := rfl
@[simp] theorem State.modCluster_cur : (s.modCluster c f).cur = s.cur := rfl
@[simp] theorem State.modCluster_issues : (s.modCluster c f).issues = s.issues := rfl
@[simp] theorem State.modCluster_note : (s.modCluster c f).note = s.note := rfl
@[simp] theorem State.modCluster_nextId : (s.modCluster c f).nextId = s.nextId := rfl
@[simp] theorem State.modCluster_barTests : (s.modCluster c f).barTests = s.barTests := rfl
@[simp] theorem State.modCluster_flights : (s.modCluster c f).flights = s.flights := rfl
@[simp] theorem State.modCluster_links : (s.modCluster c f).links = s.links := rfl
@[simp] theorem State.modCluster_mem : (s.modCluster c f).mem = s.mem := rfl
@[simp] theorem State.modCluster_poison : (s.modCluster c f).poison = s.poison := rfl
@[simp] theorem State.modCluster_host : (s.modCluster c f).host = s.host := rfl
@[simp] theorem State.modCluster_retiredCh : (s.modCluster c f).retiredCh = s.retiredCh := rfl
@[simp] theorem State.modCluster_withdrawn : (s.modCluster c f).withdrawn = s.withdrawn := rfl
@[simp] theorem State.modCluster_time : (s.modCluster c f).time = s.time := rfl
@[simp] theorem State.modCluster_quarters : (s.modCluster c f).quarters = s.quarters := rfl
@[simp] theorem State.modCluster_powered : (s.modCluster c f).powered = s.powered := rfl
@[simp] theorem State.modCluster_teams : (s.modCluster c f).teams = s.teams := rfl
@[simp] theorem State.modCluster_groups : (s.modCluster c f).groups = s.groups := rfl
@[simp] theorem State.modCluster_cores : (s.modCluster c f).cores = s.cores := rfl
@[simp] theorem State.modCluster_dies : (s.modCluster c f).dies = s.dies := rfl
@[simp] theorem State.modCluster_slices : (s.modCluster c f).slices = s.slices := rfl
@[simp] theorem State.modCluster_futures : (s.modCluster c f).futures = s.futures := rfl
@[simp] theorem State.modCluster_parts : (s.modCluster c f).parts = s.parts := rfl
@[simp] theorem State.modCluster_ctxs : (s.modCluster c f).ctxs = s.ctxs := rfl
@[simp] theorem State.modCluster_weights : (s.modCluster c f).weights = s.weights := rfl
@[simp] theorem State.modCluster_wtabVer : (s.modCluster c f).wtabVer = s.wtabVer := rfl
@[simp] theorem State.modCluster_wshadow : (s.modCluster c f).wshadow = s.wshadow := rfl
@[simp] theorem State.modCluster_dyn : (s.modCluster c f).dyn = s.dyn := rfl
@[simp] theorem State.modCluster_resid : (s.modCluster c f).resid = s.resid := rfl
@[simp] theorem State.modCluster_pkgStanding : (s.modCluster c f).pkgStanding = s.pkgStanding := rfl
@[simp] theorem State.modCluster_shareW : (s.modCluster c f).shareW = s.shareW := rfl
@[simp] theorem State.modCluster_rscale : (s.modCluster c f).rscale = s.rscale := rfl
@[simp] theorem State.modCluster_capcfg : (s.modCluster c f).capcfg = s.capcfg := rfl
@[simp] theorem State.modCluster_capbudget : (s.modCluster c f).capbudget = s.capbudget := rfl
@[simp] theorem State.modCluster_capReports : (s.modCluster c f).capReports = s.capReports := rfl
@[simp] theorem State.modCluster_capShare : (s.modCluster c f).capShare = s.capShare := rfl
@[simp] theorem State.modCluster_capMissed : (s.modCluster c f).capMissed = s.capMissed := rfl
@[simp] theorem State.modCluster_capRefused : (s.modCluster c f).capRefused = s.capRefused := rfl
@[simp] theorem State.modCluster_capDone : (s.modCluster c f).capDone = s.capDone := rfl
@[simp] theorem State.modCluster_capDivided : (s.modCluster c f).capDivided = s.capDivided := rfl
@[simp] theorem State.modCluster_tick : (s.modCluster c f).tick = s.tick := rfl
@[simp] theorem State.modCluster_expInt : (s.modCluster c f).expInt = s.expInt := rfl
@[simp] theorem State.modCluster_funcs : (s.modCluster c f).funcs = s.funcs := rfl
@[simp] theorem State.modCluster_prqs : (s.modCluster c f).prqs = s.prqs := rfl
@[simp] theorem State.modCluster_prqWait : (s.modCluster c f).prqWait = s.prqWait := rfl
@[simp] theorem State.modCluster_parked : (s.modCluster c f).parked = s.parked := rfl
@[simp] theorem State.modCluster_msgs : (s.modCluster c f).msgs = s.msgs := rfl
@[simp] theorem State.modCluster_errRing : (s.modCluster c f).errRing = s.errRing := rfl
@[simp] theorem State.modCluster_s2inv : (s.modCluster c f).s2inv = s.s2inv := rfl
@[simp] theorem State.modCluster_ccload : (s.modCluster c f).ccload = s.ccload := rfl
@[simp] theorem State.modCluster_mailboxes : (s.modCluster c f).mailboxes = s.mailboxes := rfl
@[simp] theorem State.modCluster_cmdCores : (s.modCluster c f).cmdCores = s.cmdCores := rfl
@[simp] theorem State.modCluster_bootstat : (s.modCluster c f).bootstat = s.bootstat := rfl
@[simp] theorem State.modCluster_agtData : (s.modCluster c f).agtData = s.agtData := rfl
@[simp] theorem State.modCluster_agtCtl : (s.modCluster c f).agtCtl = s.agtCtl := rfl
@[simp] theorem State.modCluster_agtBuf : (s.modCluster c f).agtBuf = s.agtBuf := rfl
@[simp] theorem State.modCluster_agtSeq : (s.modCluster c f).agtSeq = s.agtSeq := rfl
@[simp] theorem State.modCluster_leaseKeys : (s.modCluster c f).leaseKeys = s.leaseKeys := rfl
@[simp] theorem State.modCluster_pkgTenant : (s.modCluster c f).pkgTenant = s.pkgTenant := rfl
@[simp] theorem State.modCluster_scrubSeq : (s.modCluster c f).scrubSeq = s.scrubSeq := rfl
@[simp] theorem State.modCluster_fwCopies : (s.modCluster c f).fwCopies = s.fwCopies := rfl
@[simp] theorem State.modCluster_pkgid : (s.modCluster c f).pkgid = s.pkgid := rfl
@[simp] theorem State.modCluster_pkgSet : (s.modCluster c f).pkgSet = s.pkgSet := rfl
@[simp] theorem State.modCluster_ports : (s.modCluster c f).ports = s.ports := rfl
@[simp] theorem State.modCluster_fabRoute : (s.modCluster c f).fabRoute = s.fabRoute := rfl
@[simp] theorem State.modCluster_fabOut : (s.modCluster c f).fabOut = s.fabOut := rfl
@[simp] theorem State.modCluster_answers : (s.modCluster c f).answers = s.answers := rfl
@[simp] theorem State.modCluster_remoteAcc : (s.modCluster c f).remoteAcc = s.remoteAcc := rfl
@[simp] theorem State.modCluster_corrected : (s.modCluster c f).corrected = s.corrected := rfl
@[simp] theorem State.modCluster_extTenant : (s.modCluster c f).extTenant = s.extTenant := rfl
@[simp] theorem State.modCluster_startWaits : (s.modCluster c f).startWaits = s.startWaits := rfl
@[simp] theorem State.modCluster_scrubs : (s.modCluster c f).scrubs = s.scrubs := rfl
@[simp] theorem State.modCluster_running : (s.modCluster c f).running = s.running := rfl
@[simp] theorem State.modCluster_golden : (s.modCluster c f).golden = s.golden := rfl
@[simp] theorem State.modCluster_trims : (s.modCluster c f).trims = s.trims := rfl
@[simp] theorem State.modCluster_opHash : (s.modCluster c f).opHash = s.opHash := rfl
@[simp] theorem State.modCluster_fuses : (s.modCluster c f).fuses = s.fuses := rfl
@[simp] theorem State.modCluster_notices : (s.modCluster c f).notices = s.notices := rfl
@[simp] theorem State.modCluster_misses : (s.modCluster c f).misses = s.misses := rfl
@[simp] theorem State.modCluster_choosing : (s.modCluster c f).choosing = s.choosing := rfl
end

section
variable (s : State) (d : Nat) (f : Die → Die)
@[simp] theorem State.modDie_agenda : (s.modDie d f).agenda = s.agenda := rfl
@[simp] theorem State.modDie_fuel : (s.modDie d f).fuel = s.fuel := rfl
@[simp] theorem State.modDie_cur : (s.modDie d f).cur = s.cur := rfl
@[simp] theorem State.modDie_issues : (s.modDie d f).issues = s.issues := rfl
@[simp] theorem State.modDie_note : (s.modDie d f).note = s.note := rfl
@[simp] theorem State.modDie_nextId : (s.modDie d f).nextId = s.nextId := rfl
@[simp] theorem State.modDie_barTests : (s.modDie d f).barTests = s.barTests := rfl
@[simp] theorem State.modDie_flights : (s.modDie d f).flights = s.flights := rfl
@[simp] theorem State.modDie_links : (s.modDie d f).links = s.links := rfl
@[simp] theorem State.modDie_mem : (s.modDie d f).mem = s.mem := rfl
@[simp] theorem State.modDie_poison : (s.modDie d f).poison = s.poison := rfl
@[simp] theorem State.modDie_host : (s.modDie d f).host = s.host := rfl
@[simp] theorem State.modDie_retiredCh : (s.modDie d f).retiredCh = s.retiredCh := rfl
@[simp] theorem State.modDie_withdrawn : (s.modDie d f).withdrawn = s.withdrawn := rfl
@[simp] theorem State.modDie_time : (s.modDie d f).time = s.time := rfl
@[simp] theorem State.modDie_quarters : (s.modDie d f).quarters = s.quarters := rfl
@[simp] theorem State.modDie_powered : (s.modDie d f).powered = s.powered := rfl
@[simp] theorem State.modDie_teams : (s.modDie d f).teams = s.teams := rfl
@[simp] theorem State.modDie_groups : (s.modDie d f).groups = s.groups := rfl
@[simp] theorem State.modDie_cores : (s.modDie d f).cores = s.cores := rfl
@[simp] theorem State.modDie_clusters : (s.modDie d f).clusters = s.clusters := rfl
@[simp] theorem State.modDie_slices : (s.modDie d f).slices = s.slices := rfl
@[simp] theorem State.modDie_futures : (s.modDie d f).futures = s.futures := rfl
@[simp] theorem State.modDie_parts : (s.modDie d f).parts = s.parts := rfl
@[simp] theorem State.modDie_ctxs : (s.modDie d f).ctxs = s.ctxs := rfl
@[simp] theorem State.modDie_weights : (s.modDie d f).weights = s.weights := rfl
@[simp] theorem State.modDie_wtabVer : (s.modDie d f).wtabVer = s.wtabVer := rfl
@[simp] theorem State.modDie_wshadow : (s.modDie d f).wshadow = s.wshadow := rfl
@[simp] theorem State.modDie_dyn : (s.modDie d f).dyn = s.dyn := rfl
@[simp] theorem State.modDie_resid : (s.modDie d f).resid = s.resid := rfl
@[simp] theorem State.modDie_pkgStanding : (s.modDie d f).pkgStanding = s.pkgStanding := rfl
@[simp] theorem State.modDie_shareW : (s.modDie d f).shareW = s.shareW := rfl
@[simp] theorem State.modDie_rscale : (s.modDie d f).rscale = s.rscale := rfl
@[simp] theorem State.modDie_capcfg : (s.modDie d f).capcfg = s.capcfg := rfl
@[simp] theorem State.modDie_capbudget : (s.modDie d f).capbudget = s.capbudget := rfl
@[simp] theorem State.modDie_capReports : (s.modDie d f).capReports = s.capReports := rfl
@[simp] theorem State.modDie_capShare : (s.modDie d f).capShare = s.capShare := rfl
@[simp] theorem State.modDie_capMissed : (s.modDie d f).capMissed = s.capMissed := rfl
@[simp] theorem State.modDie_capRefused : (s.modDie d f).capRefused = s.capRefused := rfl
@[simp] theorem State.modDie_capDone : (s.modDie d f).capDone = s.capDone := rfl
@[simp] theorem State.modDie_capDivided : (s.modDie d f).capDivided = s.capDivided := rfl
@[simp] theorem State.modDie_tick : (s.modDie d f).tick = s.tick := rfl
@[simp] theorem State.modDie_expInt : (s.modDie d f).expInt = s.expInt := rfl
@[simp] theorem State.modDie_funcs : (s.modDie d f).funcs = s.funcs := rfl
@[simp] theorem State.modDie_prqs : (s.modDie d f).prqs = s.prqs := rfl
@[simp] theorem State.modDie_prqWait : (s.modDie d f).prqWait = s.prqWait := rfl
@[simp] theorem State.modDie_parked : (s.modDie d f).parked = s.parked := rfl
@[simp] theorem State.modDie_msgs : (s.modDie d f).msgs = s.msgs := rfl
@[simp] theorem State.modDie_errRing : (s.modDie d f).errRing = s.errRing := rfl
@[simp] theorem State.modDie_s2inv : (s.modDie d f).s2inv = s.s2inv := rfl
@[simp] theorem State.modDie_ccload : (s.modDie d f).ccload = s.ccload := rfl
@[simp] theorem State.modDie_mailboxes : (s.modDie d f).mailboxes = s.mailboxes := rfl
@[simp] theorem State.modDie_cmdCores : (s.modDie d f).cmdCores = s.cmdCores := rfl
@[simp] theorem State.modDie_bootstat : (s.modDie d f).bootstat = s.bootstat := rfl
@[simp] theorem State.modDie_agtData : (s.modDie d f).agtData = s.agtData := rfl
@[simp] theorem State.modDie_agtCtl : (s.modDie d f).agtCtl = s.agtCtl := rfl
@[simp] theorem State.modDie_agtBuf : (s.modDie d f).agtBuf = s.agtBuf := rfl
@[simp] theorem State.modDie_agtSeq : (s.modDie d f).agtSeq = s.agtSeq := rfl
@[simp] theorem State.modDie_leaseKeys : (s.modDie d f).leaseKeys = s.leaseKeys := rfl
@[simp] theorem State.modDie_pkgTenant : (s.modDie d f).pkgTenant = s.pkgTenant := rfl
@[simp] theorem State.modDie_scrubSeq : (s.modDie d f).scrubSeq = s.scrubSeq := rfl
@[simp] theorem State.modDie_fwCopies : (s.modDie d f).fwCopies = s.fwCopies := rfl
@[simp] theorem State.modDie_pkgid : (s.modDie d f).pkgid = s.pkgid := rfl
@[simp] theorem State.modDie_pkgSet : (s.modDie d f).pkgSet = s.pkgSet := rfl
@[simp] theorem State.modDie_ports : (s.modDie d f).ports = s.ports := rfl
@[simp] theorem State.modDie_fabRoute : (s.modDie d f).fabRoute = s.fabRoute := rfl
@[simp] theorem State.modDie_fabOut : (s.modDie d f).fabOut = s.fabOut := rfl
@[simp] theorem State.modDie_answers : (s.modDie d f).answers = s.answers := rfl
@[simp] theorem State.modDie_remoteAcc : (s.modDie d f).remoteAcc = s.remoteAcc := rfl
@[simp] theorem State.modDie_corrected : (s.modDie d f).corrected = s.corrected := rfl
@[simp] theorem State.modDie_extTenant : (s.modDie d f).extTenant = s.extTenant := rfl
@[simp] theorem State.modDie_startWaits : (s.modDie d f).startWaits = s.startWaits := rfl
@[simp] theorem State.modDie_scrubs : (s.modDie d f).scrubs = s.scrubs := rfl
@[simp] theorem State.modDie_running : (s.modDie d f).running = s.running := rfl
@[simp] theorem State.modDie_golden : (s.modDie d f).golden = s.golden := rfl
@[simp] theorem State.modDie_trims : (s.modDie d f).trims = s.trims := rfl
@[simp] theorem State.modDie_opHash : (s.modDie d f).opHash = s.opHash := rfl
@[simp] theorem State.modDie_fuses : (s.modDie d f).fuses = s.fuses := rfl
@[simp] theorem State.modDie_notices : (s.modDie d f).notices = s.notices := rfl
@[simp] theorem State.modDie_misses : (s.modDie d f).misses = s.misses := rfl
@[simp] theorem State.modDie_choosing : (s.modDie d f).choosing = s.choosing := rfl
end

section
variable (s : State) (n : Nat) (f : Slice → Slice)
@[simp] theorem State.modSlice_agenda : (s.modSlice n f).agenda = s.agenda := rfl
@[simp] theorem State.modSlice_fuel : (s.modSlice n f).fuel = s.fuel := rfl
@[simp] theorem State.modSlice_cur : (s.modSlice n f).cur = s.cur := rfl
@[simp] theorem State.modSlice_issues : (s.modSlice n f).issues = s.issues := rfl
@[simp] theorem State.modSlice_note : (s.modSlice n f).note = s.note := rfl
@[simp] theorem State.modSlice_nextId : (s.modSlice n f).nextId = s.nextId := rfl
@[simp] theorem State.modSlice_barTests : (s.modSlice n f).barTests = s.barTests := rfl
@[simp] theorem State.modSlice_flights : (s.modSlice n f).flights = s.flights := rfl
@[simp] theorem State.modSlice_links : (s.modSlice n f).links = s.links := rfl
@[simp] theorem State.modSlice_mem : (s.modSlice n f).mem = s.mem := rfl
@[simp] theorem State.modSlice_poison : (s.modSlice n f).poison = s.poison := rfl
@[simp] theorem State.modSlice_host : (s.modSlice n f).host = s.host := rfl
@[simp] theorem State.modSlice_retiredCh : (s.modSlice n f).retiredCh = s.retiredCh := rfl
@[simp] theorem State.modSlice_withdrawn : (s.modSlice n f).withdrawn = s.withdrawn := rfl
@[simp] theorem State.modSlice_time : (s.modSlice n f).time = s.time := rfl
@[simp] theorem State.modSlice_quarters : (s.modSlice n f).quarters = s.quarters := rfl
@[simp] theorem State.modSlice_powered : (s.modSlice n f).powered = s.powered := rfl
@[simp] theorem State.modSlice_teams : (s.modSlice n f).teams = s.teams := rfl
@[simp] theorem State.modSlice_groups : (s.modSlice n f).groups = s.groups := rfl
@[simp] theorem State.modSlice_cores : (s.modSlice n f).cores = s.cores := rfl
@[simp] theorem State.modSlice_clusters : (s.modSlice n f).clusters = s.clusters := rfl
@[simp] theorem State.modSlice_dies : (s.modSlice n f).dies = s.dies := rfl
@[simp] theorem State.modSlice_futures : (s.modSlice n f).futures = s.futures := rfl
@[simp] theorem State.modSlice_parts : (s.modSlice n f).parts = s.parts := rfl
@[simp] theorem State.modSlice_ctxs : (s.modSlice n f).ctxs = s.ctxs := rfl
@[simp] theorem State.modSlice_weights : (s.modSlice n f).weights = s.weights := rfl
@[simp] theorem State.modSlice_wtabVer : (s.modSlice n f).wtabVer = s.wtabVer := rfl
@[simp] theorem State.modSlice_wshadow : (s.modSlice n f).wshadow = s.wshadow := rfl
@[simp] theorem State.modSlice_dyn : (s.modSlice n f).dyn = s.dyn := rfl
@[simp] theorem State.modSlice_resid : (s.modSlice n f).resid = s.resid := rfl
@[simp] theorem State.modSlice_pkgStanding : (s.modSlice n f).pkgStanding = s.pkgStanding := rfl
@[simp] theorem State.modSlice_shareW : (s.modSlice n f).shareW = s.shareW := rfl
@[simp] theorem State.modSlice_rscale : (s.modSlice n f).rscale = s.rscale := rfl
@[simp] theorem State.modSlice_capcfg : (s.modSlice n f).capcfg = s.capcfg := rfl
@[simp] theorem State.modSlice_capbudget : (s.modSlice n f).capbudget = s.capbudget := rfl
@[simp] theorem State.modSlice_capReports : (s.modSlice n f).capReports = s.capReports := rfl
@[simp] theorem State.modSlice_capShare : (s.modSlice n f).capShare = s.capShare := rfl
@[simp] theorem State.modSlice_capMissed : (s.modSlice n f).capMissed = s.capMissed := rfl
@[simp] theorem State.modSlice_capRefused : (s.modSlice n f).capRefused = s.capRefused := rfl
@[simp] theorem State.modSlice_capDone : (s.modSlice n f).capDone = s.capDone := rfl
@[simp] theorem State.modSlice_capDivided : (s.modSlice n f).capDivided = s.capDivided := rfl
@[simp] theorem State.modSlice_tick : (s.modSlice n f).tick = s.tick := rfl
@[simp] theorem State.modSlice_expInt : (s.modSlice n f).expInt = s.expInt := rfl
@[simp] theorem State.modSlice_funcs : (s.modSlice n f).funcs = s.funcs := rfl
@[simp] theorem State.modSlice_prqs : (s.modSlice n f).prqs = s.prqs := rfl
@[simp] theorem State.modSlice_prqWait : (s.modSlice n f).prqWait = s.prqWait := rfl
@[simp] theorem State.modSlice_parked : (s.modSlice n f).parked = s.parked := rfl
@[simp] theorem State.modSlice_msgs : (s.modSlice n f).msgs = s.msgs := rfl
@[simp] theorem State.modSlice_errRing : (s.modSlice n f).errRing = s.errRing := rfl
@[simp] theorem State.modSlice_s2inv : (s.modSlice n f).s2inv = s.s2inv := rfl
@[simp] theorem State.modSlice_ccload : (s.modSlice n f).ccload = s.ccload := rfl
@[simp] theorem State.modSlice_mailboxes : (s.modSlice n f).mailboxes = s.mailboxes := rfl
@[simp] theorem State.modSlice_cmdCores : (s.modSlice n f).cmdCores = s.cmdCores := rfl
@[simp] theorem State.modSlice_bootstat : (s.modSlice n f).bootstat = s.bootstat := rfl
@[simp] theorem State.modSlice_agtData : (s.modSlice n f).agtData = s.agtData := rfl
@[simp] theorem State.modSlice_agtCtl : (s.modSlice n f).agtCtl = s.agtCtl := rfl
@[simp] theorem State.modSlice_agtBuf : (s.modSlice n f).agtBuf = s.agtBuf := rfl
@[simp] theorem State.modSlice_agtSeq : (s.modSlice n f).agtSeq = s.agtSeq := rfl
@[simp] theorem State.modSlice_leaseKeys : (s.modSlice n f).leaseKeys = s.leaseKeys := rfl
@[simp] theorem State.modSlice_pkgTenant : (s.modSlice n f).pkgTenant = s.pkgTenant := rfl
@[simp] theorem State.modSlice_scrubSeq : (s.modSlice n f).scrubSeq = s.scrubSeq := rfl
@[simp] theorem State.modSlice_fwCopies : (s.modSlice n f).fwCopies = s.fwCopies := rfl
@[simp] theorem State.modSlice_pkgid : (s.modSlice n f).pkgid = s.pkgid := rfl
@[simp] theorem State.modSlice_pkgSet : (s.modSlice n f).pkgSet = s.pkgSet := rfl
@[simp] theorem State.modSlice_ports : (s.modSlice n f).ports = s.ports := rfl
@[simp] theorem State.modSlice_fabRoute : (s.modSlice n f).fabRoute = s.fabRoute := rfl
@[simp] theorem State.modSlice_fabOut : (s.modSlice n f).fabOut = s.fabOut := rfl
@[simp] theorem State.modSlice_answers : (s.modSlice n f).answers = s.answers := rfl
@[simp] theorem State.modSlice_remoteAcc : (s.modSlice n f).remoteAcc = s.remoteAcc := rfl
@[simp] theorem State.modSlice_corrected : (s.modSlice n f).corrected = s.corrected := rfl
@[simp] theorem State.modSlice_extTenant : (s.modSlice n f).extTenant = s.extTenant := rfl
@[simp] theorem State.modSlice_startWaits : (s.modSlice n f).startWaits = s.startWaits := rfl
@[simp] theorem State.modSlice_scrubs : (s.modSlice n f).scrubs = s.scrubs := rfl
@[simp] theorem State.modSlice_running : (s.modSlice n f).running = s.running := rfl
@[simp] theorem State.modSlice_golden : (s.modSlice n f).golden = s.golden := rfl
@[simp] theorem State.modSlice_trims : (s.modSlice n f).trims = s.trims := rfl
@[simp] theorem State.modSlice_opHash : (s.modSlice n f).opHash = s.opHash := rfl
@[simp] theorem State.modSlice_fuses : (s.modSlice n f).fuses = s.fuses := rfl
@[simp] theorem State.modSlice_notices : (s.modSlice n f).notices = s.notices := rfl
@[simp] theorem State.modSlice_misses : (s.modSlice n f).misses = s.misses := rfl
@[simp] theorem State.modSlice_choosing : (s.modSlice n f).choosing = s.choosing := rfl
end

section
variable (s : State) (n : Nat) (f : FutEntry → FutEntry)
@[simp] theorem State.modFuture_agenda : (s.modFuture n f).agenda = s.agenda := rfl
@[simp] theorem State.modFuture_fuel : (s.modFuture n f).fuel = s.fuel := rfl
@[simp] theorem State.modFuture_cur : (s.modFuture n f).cur = s.cur := rfl
@[simp] theorem State.modFuture_issues : (s.modFuture n f).issues = s.issues := rfl
@[simp] theorem State.modFuture_note : (s.modFuture n f).note = s.note := rfl
@[simp] theorem State.modFuture_nextId : (s.modFuture n f).nextId = s.nextId := rfl
@[simp] theorem State.modFuture_barTests : (s.modFuture n f).barTests = s.barTests := rfl
@[simp] theorem State.modFuture_flights : (s.modFuture n f).flights = s.flights := rfl
@[simp] theorem State.modFuture_links : (s.modFuture n f).links = s.links := rfl
@[simp] theorem State.modFuture_mem : (s.modFuture n f).mem = s.mem := rfl
@[simp] theorem State.modFuture_poison : (s.modFuture n f).poison = s.poison := rfl
@[simp] theorem State.modFuture_host : (s.modFuture n f).host = s.host := rfl
@[simp] theorem State.modFuture_retiredCh : (s.modFuture n f).retiredCh = s.retiredCh := rfl
@[simp] theorem State.modFuture_withdrawn : (s.modFuture n f).withdrawn = s.withdrawn := rfl
@[simp] theorem State.modFuture_time : (s.modFuture n f).time = s.time := rfl
@[simp] theorem State.modFuture_quarters : (s.modFuture n f).quarters = s.quarters := rfl
@[simp] theorem State.modFuture_powered : (s.modFuture n f).powered = s.powered := rfl
@[simp] theorem State.modFuture_teams : (s.modFuture n f).teams = s.teams := rfl
@[simp] theorem State.modFuture_groups : (s.modFuture n f).groups = s.groups := rfl
@[simp] theorem State.modFuture_cores : (s.modFuture n f).cores = s.cores := rfl
@[simp] theorem State.modFuture_clusters : (s.modFuture n f).clusters = s.clusters := rfl
@[simp] theorem State.modFuture_dies : (s.modFuture n f).dies = s.dies := rfl
@[simp] theorem State.modFuture_slices : (s.modFuture n f).slices = s.slices := rfl
@[simp] theorem State.modFuture_parts : (s.modFuture n f).parts = s.parts := rfl
@[simp] theorem State.modFuture_ctxs : (s.modFuture n f).ctxs = s.ctxs := rfl
@[simp] theorem State.modFuture_weights : (s.modFuture n f).weights = s.weights := rfl
@[simp] theorem State.modFuture_wtabVer : (s.modFuture n f).wtabVer = s.wtabVer := rfl
@[simp] theorem State.modFuture_wshadow : (s.modFuture n f).wshadow = s.wshadow := rfl
@[simp] theorem State.modFuture_dyn : (s.modFuture n f).dyn = s.dyn := rfl
@[simp] theorem State.modFuture_resid : (s.modFuture n f).resid = s.resid := rfl
@[simp] theorem State.modFuture_pkgStanding : (s.modFuture n f).pkgStanding = s.pkgStanding := rfl
@[simp] theorem State.modFuture_shareW : (s.modFuture n f).shareW = s.shareW := rfl
@[simp] theorem State.modFuture_rscale : (s.modFuture n f).rscale = s.rscale := rfl
@[simp] theorem State.modFuture_capcfg : (s.modFuture n f).capcfg = s.capcfg := rfl
@[simp] theorem State.modFuture_capbudget : (s.modFuture n f).capbudget = s.capbudget := rfl
@[simp] theorem State.modFuture_capReports : (s.modFuture n f).capReports = s.capReports := rfl
@[simp] theorem State.modFuture_capShare : (s.modFuture n f).capShare = s.capShare := rfl
@[simp] theorem State.modFuture_capMissed : (s.modFuture n f).capMissed = s.capMissed := rfl
@[simp] theorem State.modFuture_capRefused : (s.modFuture n f).capRefused = s.capRefused := rfl
@[simp] theorem State.modFuture_capDone : (s.modFuture n f).capDone = s.capDone := rfl
@[simp] theorem State.modFuture_capDivided : (s.modFuture n f).capDivided = s.capDivided := rfl
@[simp] theorem State.modFuture_tick : (s.modFuture n f).tick = s.tick := rfl
@[simp] theorem State.modFuture_expInt : (s.modFuture n f).expInt = s.expInt := rfl
@[simp] theorem State.modFuture_funcs : (s.modFuture n f).funcs = s.funcs := rfl
@[simp] theorem State.modFuture_prqs : (s.modFuture n f).prqs = s.prqs := rfl
@[simp] theorem State.modFuture_prqWait : (s.modFuture n f).prqWait = s.prqWait := rfl
@[simp] theorem State.modFuture_parked : (s.modFuture n f).parked = s.parked := rfl
@[simp] theorem State.modFuture_msgs : (s.modFuture n f).msgs = s.msgs := rfl
@[simp] theorem State.modFuture_errRing : (s.modFuture n f).errRing = s.errRing := rfl
@[simp] theorem State.modFuture_s2inv : (s.modFuture n f).s2inv = s.s2inv := rfl
@[simp] theorem State.modFuture_ccload : (s.modFuture n f).ccload = s.ccload := rfl
@[simp] theorem State.modFuture_mailboxes : (s.modFuture n f).mailboxes = s.mailboxes := rfl
@[simp] theorem State.modFuture_cmdCores : (s.modFuture n f).cmdCores = s.cmdCores := rfl
@[simp] theorem State.modFuture_bootstat : (s.modFuture n f).bootstat = s.bootstat := rfl
@[simp] theorem State.modFuture_agtData : (s.modFuture n f).agtData = s.agtData := rfl
@[simp] theorem State.modFuture_agtCtl : (s.modFuture n f).agtCtl = s.agtCtl := rfl
@[simp] theorem State.modFuture_agtBuf : (s.modFuture n f).agtBuf = s.agtBuf := rfl
@[simp] theorem State.modFuture_agtSeq : (s.modFuture n f).agtSeq = s.agtSeq := rfl
@[simp] theorem State.modFuture_leaseKeys : (s.modFuture n f).leaseKeys = s.leaseKeys := rfl
@[simp] theorem State.modFuture_pkgTenant : (s.modFuture n f).pkgTenant = s.pkgTenant := rfl
@[simp] theorem State.modFuture_scrubSeq : (s.modFuture n f).scrubSeq = s.scrubSeq := rfl
@[simp] theorem State.modFuture_fwCopies : (s.modFuture n f).fwCopies = s.fwCopies := rfl
@[simp] theorem State.modFuture_pkgid : (s.modFuture n f).pkgid = s.pkgid := rfl
@[simp] theorem State.modFuture_pkgSet : (s.modFuture n f).pkgSet = s.pkgSet := rfl
@[simp] theorem State.modFuture_ports : (s.modFuture n f).ports = s.ports := rfl
@[simp] theorem State.modFuture_fabRoute : (s.modFuture n f).fabRoute = s.fabRoute := rfl
@[simp] theorem State.modFuture_fabOut : (s.modFuture n f).fabOut = s.fabOut := rfl
@[simp] theorem State.modFuture_answers : (s.modFuture n f).answers = s.answers := rfl
@[simp] theorem State.modFuture_remoteAcc : (s.modFuture n f).remoteAcc = s.remoteAcc := rfl
@[simp] theorem State.modFuture_corrected : (s.modFuture n f).corrected = s.corrected := rfl
@[simp] theorem State.modFuture_extTenant : (s.modFuture n f).extTenant = s.extTenant := rfl
@[simp] theorem State.modFuture_startWaits : (s.modFuture n f).startWaits = s.startWaits := rfl
@[simp] theorem State.modFuture_scrubs : (s.modFuture n f).scrubs = s.scrubs := rfl
@[simp] theorem State.modFuture_running : (s.modFuture n f).running = s.running := rfl
@[simp] theorem State.modFuture_golden : (s.modFuture n f).golden = s.golden := rfl
@[simp] theorem State.modFuture_trims : (s.modFuture n f).trims = s.trims := rfl
@[simp] theorem State.modFuture_opHash : (s.modFuture n f).opHash = s.opHash := rfl
@[simp] theorem State.modFuture_fuses : (s.modFuture n f).fuses = s.fuses := rfl
@[simp] theorem State.modFuture_notices : (s.modFuture n f).notices = s.notices := rfl
@[simp] theorem State.modFuture_misses : (s.modFuture n f).misses = s.misses := rfl
@[simp] theorem State.modFuture_choosing : (s.modFuture n f).choosing = s.choosing := rfl
end

section
variable (s : State) (p : Nat) (f : Part → Part)
@[simp] theorem State.modPart_agenda : (s.modPart p f).agenda = s.agenda := rfl
@[simp] theorem State.modPart_fuel : (s.modPart p f).fuel = s.fuel := rfl
@[simp] theorem State.modPart_cur : (s.modPart p f).cur = s.cur := rfl
@[simp] theorem State.modPart_issues : (s.modPart p f).issues = s.issues := rfl
@[simp] theorem State.modPart_note : (s.modPart p f).note = s.note := rfl
@[simp] theorem State.modPart_nextId : (s.modPart p f).nextId = s.nextId := rfl
@[simp] theorem State.modPart_barTests : (s.modPart p f).barTests = s.barTests := rfl
@[simp] theorem State.modPart_flights : (s.modPart p f).flights = s.flights := rfl
@[simp] theorem State.modPart_links : (s.modPart p f).links = s.links := rfl
@[simp] theorem State.modPart_mem : (s.modPart p f).mem = s.mem := rfl
@[simp] theorem State.modPart_poison : (s.modPart p f).poison = s.poison := rfl
@[simp] theorem State.modPart_host : (s.modPart p f).host = s.host := rfl
@[simp] theorem State.modPart_retiredCh : (s.modPart p f).retiredCh = s.retiredCh := rfl
@[simp] theorem State.modPart_withdrawn : (s.modPart p f).withdrawn = s.withdrawn := rfl
@[simp] theorem State.modPart_time : (s.modPart p f).time = s.time := rfl
@[simp] theorem State.modPart_quarters : (s.modPart p f).quarters = s.quarters := rfl
@[simp] theorem State.modPart_powered : (s.modPart p f).powered = s.powered := rfl
@[simp] theorem State.modPart_teams : (s.modPart p f).teams = s.teams := rfl
@[simp] theorem State.modPart_groups : (s.modPart p f).groups = s.groups := rfl
@[simp] theorem State.modPart_cores : (s.modPart p f).cores = s.cores := rfl
@[simp] theorem State.modPart_clusters : (s.modPart p f).clusters = s.clusters := rfl
@[simp] theorem State.modPart_dies : (s.modPart p f).dies = s.dies := rfl
@[simp] theorem State.modPart_slices : (s.modPart p f).slices = s.slices := rfl
@[simp] theorem State.modPart_futures : (s.modPart p f).futures = s.futures := rfl
@[simp] theorem State.modPart_ctxs : (s.modPart p f).ctxs = s.ctxs := rfl
@[simp] theorem State.modPart_weights : (s.modPart p f).weights = s.weights := rfl
@[simp] theorem State.modPart_wtabVer : (s.modPart p f).wtabVer = s.wtabVer := rfl
@[simp] theorem State.modPart_wshadow : (s.modPart p f).wshadow = s.wshadow := rfl
@[simp] theorem State.modPart_dyn : (s.modPart p f).dyn = s.dyn := rfl
@[simp] theorem State.modPart_resid : (s.modPart p f).resid = s.resid := rfl
@[simp] theorem State.modPart_pkgStanding : (s.modPart p f).pkgStanding = s.pkgStanding := rfl
@[simp] theorem State.modPart_shareW : (s.modPart p f).shareW = s.shareW := rfl
@[simp] theorem State.modPart_rscale : (s.modPart p f).rscale = s.rscale := rfl
@[simp] theorem State.modPart_capcfg : (s.modPart p f).capcfg = s.capcfg := rfl
@[simp] theorem State.modPart_capbudget : (s.modPart p f).capbudget = s.capbudget := rfl
@[simp] theorem State.modPart_capReports : (s.modPart p f).capReports = s.capReports := rfl
@[simp] theorem State.modPart_capShare : (s.modPart p f).capShare = s.capShare := rfl
@[simp] theorem State.modPart_capMissed : (s.modPart p f).capMissed = s.capMissed := rfl
@[simp] theorem State.modPart_capRefused : (s.modPart p f).capRefused = s.capRefused := rfl
@[simp] theorem State.modPart_capDone : (s.modPart p f).capDone = s.capDone := rfl
@[simp] theorem State.modPart_capDivided : (s.modPart p f).capDivided = s.capDivided := rfl
@[simp] theorem State.modPart_tick : (s.modPart p f).tick = s.tick := rfl
@[simp] theorem State.modPart_expInt : (s.modPart p f).expInt = s.expInt := rfl
@[simp] theorem State.modPart_funcs : (s.modPart p f).funcs = s.funcs := rfl
@[simp] theorem State.modPart_prqs : (s.modPart p f).prqs = s.prqs := rfl
@[simp] theorem State.modPart_prqWait : (s.modPart p f).prqWait = s.prqWait := rfl
@[simp] theorem State.modPart_parked : (s.modPart p f).parked = s.parked := rfl
@[simp] theorem State.modPart_msgs : (s.modPart p f).msgs = s.msgs := rfl
@[simp] theorem State.modPart_errRing : (s.modPart p f).errRing = s.errRing := rfl
@[simp] theorem State.modPart_s2inv : (s.modPart p f).s2inv = s.s2inv := rfl
@[simp] theorem State.modPart_ccload : (s.modPart p f).ccload = s.ccload := rfl
@[simp] theorem State.modPart_mailboxes : (s.modPart p f).mailboxes = s.mailboxes := rfl
@[simp] theorem State.modPart_cmdCores : (s.modPart p f).cmdCores = s.cmdCores := rfl
@[simp] theorem State.modPart_bootstat : (s.modPart p f).bootstat = s.bootstat := rfl
@[simp] theorem State.modPart_agtData : (s.modPart p f).agtData = s.agtData := rfl
@[simp] theorem State.modPart_agtCtl : (s.modPart p f).agtCtl = s.agtCtl := rfl
@[simp] theorem State.modPart_agtBuf : (s.modPart p f).agtBuf = s.agtBuf := rfl
@[simp] theorem State.modPart_agtSeq : (s.modPart p f).agtSeq = s.agtSeq := rfl
@[simp] theorem State.modPart_leaseKeys : (s.modPart p f).leaseKeys = s.leaseKeys := rfl
@[simp] theorem State.modPart_pkgTenant : (s.modPart p f).pkgTenant = s.pkgTenant := rfl
@[simp] theorem State.modPart_scrubSeq : (s.modPart p f).scrubSeq = s.scrubSeq := rfl
@[simp] theorem State.modPart_fwCopies : (s.modPart p f).fwCopies = s.fwCopies := rfl
@[simp] theorem State.modPart_pkgid : (s.modPart p f).pkgid = s.pkgid := rfl
@[simp] theorem State.modPart_pkgSet : (s.modPart p f).pkgSet = s.pkgSet := rfl
@[simp] theorem State.modPart_ports : (s.modPart p f).ports = s.ports := rfl
@[simp] theorem State.modPart_fabRoute : (s.modPart p f).fabRoute = s.fabRoute := rfl
@[simp] theorem State.modPart_fabOut : (s.modPart p f).fabOut = s.fabOut := rfl
@[simp] theorem State.modPart_answers : (s.modPart p f).answers = s.answers := rfl
@[simp] theorem State.modPart_remoteAcc : (s.modPart p f).remoteAcc = s.remoteAcc := rfl
@[simp] theorem State.modPart_corrected : (s.modPart p f).corrected = s.corrected := rfl
@[simp] theorem State.modPart_extTenant : (s.modPart p f).extTenant = s.extTenant := rfl
@[simp] theorem State.modPart_startWaits : (s.modPart p f).startWaits = s.startWaits := rfl
@[simp] theorem State.modPart_scrubs : (s.modPart p f).scrubs = s.scrubs := rfl
@[simp] theorem State.modPart_running : (s.modPart p f).running = s.running := rfl
@[simp] theorem State.modPart_golden : (s.modPart p f).golden = s.golden := rfl
@[simp] theorem State.modPart_trims : (s.modPart p f).trims = s.trims := rfl
@[simp] theorem State.modPart_opHash : (s.modPart p f).opHash = s.opHash := rfl
@[simp] theorem State.modPart_fuses : (s.modPart p f).fuses = s.fuses := rfl
@[simp] theorem State.modPart_notices : (s.modPart p f).notices = s.notices := rfl
@[simp] theorem State.modPart_misses : (s.modPart p f).misses = s.misses := rfl
@[simp] theorem State.modPart_choosing : (s.modPart p f).choosing = s.choosing := rfl
end

section
variable (s : State) (c : Nat) (f : Context → Context)
@[simp] theorem State.modCtx_agenda : (s.modCtx c f).agenda = s.agenda := rfl
@[simp] theorem State.modCtx_fuel : (s.modCtx c f).fuel = s.fuel := rfl
@[simp] theorem State.modCtx_cur : (s.modCtx c f).cur = s.cur := rfl
@[simp] theorem State.modCtx_issues : (s.modCtx c f).issues = s.issues := rfl
@[simp] theorem State.modCtx_note : (s.modCtx c f).note = s.note := rfl
@[simp] theorem State.modCtx_nextId : (s.modCtx c f).nextId = s.nextId := rfl
@[simp] theorem State.modCtx_barTests : (s.modCtx c f).barTests = s.barTests := rfl
@[simp] theorem State.modCtx_flights : (s.modCtx c f).flights = s.flights := rfl
@[simp] theorem State.modCtx_links : (s.modCtx c f).links = s.links := rfl
@[simp] theorem State.modCtx_mem : (s.modCtx c f).mem = s.mem := rfl
@[simp] theorem State.modCtx_poison : (s.modCtx c f).poison = s.poison := rfl
@[simp] theorem State.modCtx_host : (s.modCtx c f).host = s.host := rfl
@[simp] theorem State.modCtx_retiredCh : (s.modCtx c f).retiredCh = s.retiredCh := rfl
@[simp] theorem State.modCtx_withdrawn : (s.modCtx c f).withdrawn = s.withdrawn := rfl
@[simp] theorem State.modCtx_time : (s.modCtx c f).time = s.time := rfl
@[simp] theorem State.modCtx_quarters : (s.modCtx c f).quarters = s.quarters := rfl
@[simp] theorem State.modCtx_powered : (s.modCtx c f).powered = s.powered := rfl
@[simp] theorem State.modCtx_teams : (s.modCtx c f).teams = s.teams := rfl
@[simp] theorem State.modCtx_groups : (s.modCtx c f).groups = s.groups := rfl
@[simp] theorem State.modCtx_cores : (s.modCtx c f).cores = s.cores := rfl
@[simp] theorem State.modCtx_clusters : (s.modCtx c f).clusters = s.clusters := rfl
@[simp] theorem State.modCtx_dies : (s.modCtx c f).dies = s.dies := rfl
@[simp] theorem State.modCtx_slices : (s.modCtx c f).slices = s.slices := rfl
@[simp] theorem State.modCtx_futures : (s.modCtx c f).futures = s.futures := rfl
@[simp] theorem State.modCtx_parts : (s.modCtx c f).parts = s.parts := rfl
@[simp] theorem State.modCtx_weights : (s.modCtx c f).weights = s.weights := rfl
@[simp] theorem State.modCtx_wtabVer : (s.modCtx c f).wtabVer = s.wtabVer := rfl
@[simp] theorem State.modCtx_wshadow : (s.modCtx c f).wshadow = s.wshadow := rfl
@[simp] theorem State.modCtx_dyn : (s.modCtx c f).dyn = s.dyn := rfl
@[simp] theorem State.modCtx_resid : (s.modCtx c f).resid = s.resid := rfl
@[simp] theorem State.modCtx_pkgStanding : (s.modCtx c f).pkgStanding = s.pkgStanding := rfl
@[simp] theorem State.modCtx_shareW : (s.modCtx c f).shareW = s.shareW := rfl
@[simp] theorem State.modCtx_rscale : (s.modCtx c f).rscale = s.rscale := rfl
@[simp] theorem State.modCtx_capcfg : (s.modCtx c f).capcfg = s.capcfg := rfl
@[simp] theorem State.modCtx_capbudget : (s.modCtx c f).capbudget = s.capbudget := rfl
@[simp] theorem State.modCtx_capReports : (s.modCtx c f).capReports = s.capReports := rfl
@[simp] theorem State.modCtx_capShare : (s.modCtx c f).capShare = s.capShare := rfl
@[simp] theorem State.modCtx_capMissed : (s.modCtx c f).capMissed = s.capMissed := rfl
@[simp] theorem State.modCtx_capRefused : (s.modCtx c f).capRefused = s.capRefused := rfl
@[simp] theorem State.modCtx_capDone : (s.modCtx c f).capDone = s.capDone := rfl
@[simp] theorem State.modCtx_capDivided : (s.modCtx c f).capDivided = s.capDivided := rfl
@[simp] theorem State.modCtx_tick : (s.modCtx c f).tick = s.tick := rfl
@[simp] theorem State.modCtx_expInt : (s.modCtx c f).expInt = s.expInt := rfl
@[simp] theorem State.modCtx_funcs : (s.modCtx c f).funcs = s.funcs := rfl
@[simp] theorem State.modCtx_prqs : (s.modCtx c f).prqs = s.prqs := rfl
@[simp] theorem State.modCtx_prqWait : (s.modCtx c f).prqWait = s.prqWait := rfl
@[simp] theorem State.modCtx_parked : (s.modCtx c f).parked = s.parked := rfl
@[simp] theorem State.modCtx_msgs : (s.modCtx c f).msgs = s.msgs := rfl
@[simp] theorem State.modCtx_errRing : (s.modCtx c f).errRing = s.errRing := rfl
@[simp] theorem State.modCtx_s2inv : (s.modCtx c f).s2inv = s.s2inv := rfl
@[simp] theorem State.modCtx_ccload : (s.modCtx c f).ccload = s.ccload := rfl
@[simp] theorem State.modCtx_mailboxes : (s.modCtx c f).mailboxes = s.mailboxes := rfl
@[simp] theorem State.modCtx_cmdCores : (s.modCtx c f).cmdCores = s.cmdCores := rfl
@[simp] theorem State.modCtx_bootstat : (s.modCtx c f).bootstat = s.bootstat := rfl
@[simp] theorem State.modCtx_agtData : (s.modCtx c f).agtData = s.agtData := rfl
@[simp] theorem State.modCtx_agtCtl : (s.modCtx c f).agtCtl = s.agtCtl := rfl
@[simp] theorem State.modCtx_agtBuf : (s.modCtx c f).agtBuf = s.agtBuf := rfl
@[simp] theorem State.modCtx_agtSeq : (s.modCtx c f).agtSeq = s.agtSeq := rfl
@[simp] theorem State.modCtx_leaseKeys : (s.modCtx c f).leaseKeys = s.leaseKeys := rfl
@[simp] theorem State.modCtx_pkgTenant : (s.modCtx c f).pkgTenant = s.pkgTenant := rfl
@[simp] theorem State.modCtx_scrubSeq : (s.modCtx c f).scrubSeq = s.scrubSeq := rfl
@[simp] theorem State.modCtx_fwCopies : (s.modCtx c f).fwCopies = s.fwCopies := rfl
@[simp] theorem State.modCtx_pkgid : (s.modCtx c f).pkgid = s.pkgid := rfl
@[simp] theorem State.modCtx_pkgSet : (s.modCtx c f).pkgSet = s.pkgSet := rfl
@[simp] theorem State.modCtx_ports : (s.modCtx c f).ports = s.ports := rfl
@[simp] theorem State.modCtx_fabRoute : (s.modCtx c f).fabRoute = s.fabRoute := rfl
@[simp] theorem State.modCtx_fabOut : (s.modCtx c f).fabOut = s.fabOut := rfl
@[simp] theorem State.modCtx_answers : (s.modCtx c f).answers = s.answers := rfl
@[simp] theorem State.modCtx_remoteAcc : (s.modCtx c f).remoteAcc = s.remoteAcc := rfl
@[simp] theorem State.modCtx_corrected : (s.modCtx c f).corrected = s.corrected := rfl
@[simp] theorem State.modCtx_extTenant : (s.modCtx c f).extTenant = s.extTenant := rfl
@[simp] theorem State.modCtx_startWaits : (s.modCtx c f).startWaits = s.startWaits := rfl
@[simp] theorem State.modCtx_scrubs : (s.modCtx c f).scrubs = s.scrubs := rfl
@[simp] theorem State.modCtx_running : (s.modCtx c f).running = s.running := rfl
@[simp] theorem State.modCtx_golden : (s.modCtx c f).golden = s.golden := rfl
@[simp] theorem State.modCtx_trims : (s.modCtx c f).trims = s.trims := rfl
@[simp] theorem State.modCtx_opHash : (s.modCtx c f).opHash = s.opHash := rfl
@[simp] theorem State.modCtx_fuses : (s.modCtx c f).fuses = s.fuses := rfl
@[simp] theorem State.modCtx_notices : (s.modCtx c f).notices = s.notices := rfl
@[simp] theorem State.modCtx_misses : (s.modCtx c f).misses = s.misses := rfl
@[simp] theorem State.modCtx_choosing : (s.modCtx c f).choosing = s.choosing := rfl
end

section
variable (s : State) (n : Nat) (f : Func → Func)
@[simp] theorem State.modFunc_agenda : (s.modFunc n f).agenda = s.agenda := rfl
@[simp] theorem State.modFunc_fuel : (s.modFunc n f).fuel = s.fuel := rfl
@[simp] theorem State.modFunc_cur : (s.modFunc n f).cur = s.cur := rfl
@[simp] theorem State.modFunc_issues : (s.modFunc n f).issues = s.issues := rfl
@[simp] theorem State.modFunc_note : (s.modFunc n f).note = s.note := rfl
@[simp] theorem State.modFunc_nextId : (s.modFunc n f).nextId = s.nextId := rfl
@[simp] theorem State.modFunc_barTests : (s.modFunc n f).barTests = s.barTests := rfl
@[simp] theorem State.modFunc_flights : (s.modFunc n f).flights = s.flights := rfl
@[simp] theorem State.modFunc_links : (s.modFunc n f).links = s.links := rfl
@[simp] theorem State.modFunc_mem : (s.modFunc n f).mem = s.mem := rfl
@[simp] theorem State.modFunc_poison : (s.modFunc n f).poison = s.poison := rfl
@[simp] theorem State.modFunc_host : (s.modFunc n f).host = s.host := rfl
@[simp] theorem State.modFunc_retiredCh : (s.modFunc n f).retiredCh = s.retiredCh := rfl
@[simp] theorem State.modFunc_withdrawn : (s.modFunc n f).withdrawn = s.withdrawn := rfl
@[simp] theorem State.modFunc_time : (s.modFunc n f).time = s.time := rfl
@[simp] theorem State.modFunc_quarters : (s.modFunc n f).quarters = s.quarters := rfl
@[simp] theorem State.modFunc_powered : (s.modFunc n f).powered = s.powered := rfl
@[simp] theorem State.modFunc_teams : (s.modFunc n f).teams = s.teams := rfl
@[simp] theorem State.modFunc_groups : (s.modFunc n f).groups = s.groups := rfl
@[simp] theorem State.modFunc_cores : (s.modFunc n f).cores = s.cores := rfl
@[simp] theorem State.modFunc_clusters : (s.modFunc n f).clusters = s.clusters := rfl
@[simp] theorem State.modFunc_dies : (s.modFunc n f).dies = s.dies := rfl
@[simp] theorem State.modFunc_slices : (s.modFunc n f).slices = s.slices := rfl
@[simp] theorem State.modFunc_futures : (s.modFunc n f).futures = s.futures := rfl
@[simp] theorem State.modFunc_parts : (s.modFunc n f).parts = s.parts := rfl
@[simp] theorem State.modFunc_ctxs : (s.modFunc n f).ctxs = s.ctxs := rfl
@[simp] theorem State.modFunc_weights : (s.modFunc n f).weights = s.weights := rfl
@[simp] theorem State.modFunc_wtabVer : (s.modFunc n f).wtabVer = s.wtabVer := rfl
@[simp] theorem State.modFunc_wshadow : (s.modFunc n f).wshadow = s.wshadow := rfl
@[simp] theorem State.modFunc_dyn : (s.modFunc n f).dyn = s.dyn := rfl
@[simp] theorem State.modFunc_resid : (s.modFunc n f).resid = s.resid := rfl
@[simp] theorem State.modFunc_pkgStanding : (s.modFunc n f).pkgStanding = s.pkgStanding := rfl
@[simp] theorem State.modFunc_shareW : (s.modFunc n f).shareW = s.shareW := rfl
@[simp] theorem State.modFunc_rscale : (s.modFunc n f).rscale = s.rscale := rfl
@[simp] theorem State.modFunc_capcfg : (s.modFunc n f).capcfg = s.capcfg := rfl
@[simp] theorem State.modFunc_capbudget : (s.modFunc n f).capbudget = s.capbudget := rfl
@[simp] theorem State.modFunc_capReports : (s.modFunc n f).capReports = s.capReports := rfl
@[simp] theorem State.modFunc_capShare : (s.modFunc n f).capShare = s.capShare := rfl
@[simp] theorem State.modFunc_capMissed : (s.modFunc n f).capMissed = s.capMissed := rfl
@[simp] theorem State.modFunc_capRefused : (s.modFunc n f).capRefused = s.capRefused := rfl
@[simp] theorem State.modFunc_capDone : (s.modFunc n f).capDone = s.capDone := rfl
@[simp] theorem State.modFunc_capDivided : (s.modFunc n f).capDivided = s.capDivided := rfl
@[simp] theorem State.modFunc_tick : (s.modFunc n f).tick = s.tick := rfl
@[simp] theorem State.modFunc_expInt : (s.modFunc n f).expInt = s.expInt := rfl
@[simp] theorem State.modFunc_prqs : (s.modFunc n f).prqs = s.prqs := rfl
@[simp] theorem State.modFunc_prqWait : (s.modFunc n f).prqWait = s.prqWait := rfl
@[simp] theorem State.modFunc_parked : (s.modFunc n f).parked = s.parked := rfl
@[simp] theorem State.modFunc_msgs : (s.modFunc n f).msgs = s.msgs := rfl
@[simp] theorem State.modFunc_errRing : (s.modFunc n f).errRing = s.errRing := rfl
@[simp] theorem State.modFunc_s2inv : (s.modFunc n f).s2inv = s.s2inv := rfl
@[simp] theorem State.modFunc_ccload : (s.modFunc n f).ccload = s.ccload := rfl
@[simp] theorem State.modFunc_mailboxes : (s.modFunc n f).mailboxes = s.mailboxes := rfl
@[simp] theorem State.modFunc_cmdCores : (s.modFunc n f).cmdCores = s.cmdCores := rfl
@[simp] theorem State.modFunc_bootstat : (s.modFunc n f).bootstat = s.bootstat := rfl
@[simp] theorem State.modFunc_agtData : (s.modFunc n f).agtData = s.agtData := rfl
@[simp] theorem State.modFunc_agtCtl : (s.modFunc n f).agtCtl = s.agtCtl := rfl
@[simp] theorem State.modFunc_agtBuf : (s.modFunc n f).agtBuf = s.agtBuf := rfl
@[simp] theorem State.modFunc_agtSeq : (s.modFunc n f).agtSeq = s.agtSeq := rfl
@[simp] theorem State.modFunc_leaseKeys : (s.modFunc n f).leaseKeys = s.leaseKeys := rfl
@[simp] theorem State.modFunc_pkgTenant : (s.modFunc n f).pkgTenant = s.pkgTenant := rfl
@[simp] theorem State.modFunc_scrubSeq : (s.modFunc n f).scrubSeq = s.scrubSeq := rfl
@[simp] theorem State.modFunc_fwCopies : (s.modFunc n f).fwCopies = s.fwCopies := rfl
@[simp] theorem State.modFunc_pkgid : (s.modFunc n f).pkgid = s.pkgid := rfl
@[simp] theorem State.modFunc_pkgSet : (s.modFunc n f).pkgSet = s.pkgSet := rfl
@[simp] theorem State.modFunc_ports : (s.modFunc n f).ports = s.ports := rfl
@[simp] theorem State.modFunc_fabRoute : (s.modFunc n f).fabRoute = s.fabRoute := rfl
@[simp] theorem State.modFunc_fabOut : (s.modFunc n f).fabOut = s.fabOut := rfl
@[simp] theorem State.modFunc_answers : (s.modFunc n f).answers = s.answers := rfl
@[simp] theorem State.modFunc_remoteAcc : (s.modFunc n f).remoteAcc = s.remoteAcc := rfl
@[simp] theorem State.modFunc_corrected : (s.modFunc n f).corrected = s.corrected := rfl
@[simp] theorem State.modFunc_extTenant : (s.modFunc n f).extTenant = s.extTenant := rfl
@[simp] theorem State.modFunc_startWaits : (s.modFunc n f).startWaits = s.startWaits := rfl
@[simp] theorem State.modFunc_scrubs : (s.modFunc n f).scrubs = s.scrubs := rfl
@[simp] theorem State.modFunc_running : (s.modFunc n f).running = s.running := rfl
@[simp] theorem State.modFunc_golden : (s.modFunc n f).golden = s.golden := rfl
@[simp] theorem State.modFunc_trims : (s.modFunc n f).trims = s.trims := rfl
@[simp] theorem State.modFunc_opHash : (s.modFunc n f).opHash = s.opHash := rfl
@[simp] theorem State.modFunc_fuses : (s.modFunc n f).fuses = s.fuses := rfl
@[simp] theorem State.modFunc_notices : (s.modFunc n f).notices = s.notices := rfl
@[simp] theorem State.modFunc_misses : (s.modFunc n f).misses = s.misses := rfl
@[simp] theorem State.modFunc_choosing : (s.modFunc n f).choosing = s.choosing := rfl
end

section
variable (s : State) (q : Nat) (f : Quarter → Quarter)
@[simp] theorem State.modQuarter_agenda : (s.modQuarter q f).agenda = s.agenda := rfl
@[simp] theorem State.modQuarter_fuel : (s.modQuarter q f).fuel = s.fuel := rfl
@[simp] theorem State.modQuarter_cur : (s.modQuarter q f).cur = s.cur := rfl
@[simp] theorem State.modQuarter_issues : (s.modQuarter q f).issues = s.issues := rfl
@[simp] theorem State.modQuarter_note : (s.modQuarter q f).note = s.note := rfl
@[simp] theorem State.modQuarter_nextId : (s.modQuarter q f).nextId = s.nextId := rfl
@[simp] theorem State.modQuarter_barTests : (s.modQuarter q f).barTests = s.barTests := rfl
@[simp] theorem State.modQuarter_flights : (s.modQuarter q f).flights = s.flights := rfl
@[simp] theorem State.modQuarter_links : (s.modQuarter q f).links = s.links := rfl
@[simp] theorem State.modQuarter_mem : (s.modQuarter q f).mem = s.mem := rfl
@[simp] theorem State.modQuarter_poison : (s.modQuarter q f).poison = s.poison := rfl
@[simp] theorem State.modQuarter_host : (s.modQuarter q f).host = s.host := rfl
@[simp] theorem State.modQuarter_retiredCh : (s.modQuarter q f).retiredCh = s.retiredCh := rfl
@[simp] theorem State.modQuarter_withdrawn : (s.modQuarter q f).withdrawn = s.withdrawn := rfl
@[simp] theorem State.modQuarter_time : (s.modQuarter q f).time = s.time := rfl
@[simp] theorem State.modQuarter_powered : (s.modQuarter q f).powered = s.powered := rfl
@[simp] theorem State.modQuarter_teams : (s.modQuarter q f).teams = s.teams := rfl
@[simp] theorem State.modQuarter_groups : (s.modQuarter q f).groups = s.groups := rfl
@[simp] theorem State.modQuarter_cores : (s.modQuarter q f).cores = s.cores := rfl
@[simp] theorem State.modQuarter_clusters : (s.modQuarter q f).clusters = s.clusters := rfl
@[simp] theorem State.modQuarter_dies : (s.modQuarter q f).dies = s.dies := rfl
@[simp] theorem State.modQuarter_slices : (s.modQuarter q f).slices = s.slices := rfl
@[simp] theorem State.modQuarter_futures : (s.modQuarter q f).futures = s.futures := rfl
@[simp] theorem State.modQuarter_parts : (s.modQuarter q f).parts = s.parts := rfl
@[simp] theorem State.modQuarter_ctxs : (s.modQuarter q f).ctxs = s.ctxs := rfl
@[simp] theorem State.modQuarter_weights : (s.modQuarter q f).weights = s.weights := rfl
@[simp] theorem State.modQuarter_wtabVer : (s.modQuarter q f).wtabVer = s.wtabVer := rfl
@[simp] theorem State.modQuarter_wshadow : (s.modQuarter q f).wshadow = s.wshadow := rfl
@[simp] theorem State.modQuarter_dyn : (s.modQuarter q f).dyn = s.dyn := rfl
@[simp] theorem State.modQuarter_resid : (s.modQuarter q f).resid = s.resid := rfl
@[simp] theorem State.modQuarter_pkgStanding : (s.modQuarter q f).pkgStanding = s.pkgStanding := rfl
@[simp] theorem State.modQuarter_shareW : (s.modQuarter q f).shareW = s.shareW := rfl
@[simp] theorem State.modQuarter_rscale : (s.modQuarter q f).rscale = s.rscale := rfl
@[simp] theorem State.modQuarter_capcfg : (s.modQuarter q f).capcfg = s.capcfg := rfl
@[simp] theorem State.modQuarter_capbudget : (s.modQuarter q f).capbudget = s.capbudget := rfl
@[simp] theorem State.modQuarter_capReports : (s.modQuarter q f).capReports = s.capReports := rfl
@[simp] theorem State.modQuarter_capShare : (s.modQuarter q f).capShare = s.capShare := rfl
@[simp] theorem State.modQuarter_capMissed : (s.modQuarter q f).capMissed = s.capMissed := rfl
@[simp] theorem State.modQuarter_capRefused : (s.modQuarter q f).capRefused = s.capRefused := rfl
@[simp] theorem State.modQuarter_capDone : (s.modQuarter q f).capDone = s.capDone := rfl
@[simp] theorem State.modQuarter_capDivided : (s.modQuarter q f).capDivided = s.capDivided := rfl
@[simp] theorem State.modQuarter_tick : (s.modQuarter q f).tick = s.tick := rfl
@[simp] theorem State.modQuarter_expInt : (s.modQuarter q f).expInt = s.expInt := rfl
@[simp] theorem State.modQuarter_funcs : (s.modQuarter q f).funcs = s.funcs := rfl
@[simp] theorem State.modQuarter_prqs : (s.modQuarter q f).prqs = s.prqs := rfl
@[simp] theorem State.modQuarter_prqWait : (s.modQuarter q f).prqWait = s.prqWait := rfl
@[simp] theorem State.modQuarter_parked : (s.modQuarter q f).parked = s.parked := rfl
@[simp] theorem State.modQuarter_msgs : (s.modQuarter q f).msgs = s.msgs := rfl
@[simp] theorem State.modQuarter_errRing : (s.modQuarter q f).errRing = s.errRing := rfl
@[simp] theorem State.modQuarter_s2inv : (s.modQuarter q f).s2inv = s.s2inv := rfl
@[simp] theorem State.modQuarter_ccload : (s.modQuarter q f).ccload = s.ccload := rfl
@[simp] theorem State.modQuarter_mailboxes : (s.modQuarter q f).mailboxes = s.mailboxes := rfl
@[simp] theorem State.modQuarter_cmdCores : (s.modQuarter q f).cmdCores = s.cmdCores := rfl
@[simp] theorem State.modQuarter_bootstat : (s.modQuarter q f).bootstat = s.bootstat := rfl
@[simp] theorem State.modQuarter_agtData : (s.modQuarter q f).agtData = s.agtData := rfl
@[simp] theorem State.modQuarter_agtCtl : (s.modQuarter q f).agtCtl = s.agtCtl := rfl
@[simp] theorem State.modQuarter_agtBuf : (s.modQuarter q f).agtBuf = s.agtBuf := rfl
@[simp] theorem State.modQuarter_agtSeq : (s.modQuarter q f).agtSeq = s.agtSeq := rfl
@[simp] theorem State.modQuarter_leaseKeys : (s.modQuarter q f).leaseKeys = s.leaseKeys := rfl
@[simp] theorem State.modQuarter_pkgTenant : (s.modQuarter q f).pkgTenant = s.pkgTenant := rfl
@[simp] theorem State.modQuarter_scrubSeq : (s.modQuarter q f).scrubSeq = s.scrubSeq := rfl
@[simp] theorem State.modQuarter_fwCopies : (s.modQuarter q f).fwCopies = s.fwCopies := rfl
@[simp] theorem State.modQuarter_pkgid : (s.modQuarter q f).pkgid = s.pkgid := rfl
@[simp] theorem State.modQuarter_pkgSet : (s.modQuarter q f).pkgSet = s.pkgSet := rfl
@[simp] theorem State.modQuarter_ports : (s.modQuarter q f).ports = s.ports := rfl
@[simp] theorem State.modQuarter_fabRoute : (s.modQuarter q f).fabRoute = s.fabRoute := rfl
@[simp] theorem State.modQuarter_fabOut : (s.modQuarter q f).fabOut = s.fabOut := rfl
@[simp] theorem State.modQuarter_answers : (s.modQuarter q f).answers = s.answers := rfl
@[simp] theorem State.modQuarter_remoteAcc : (s.modQuarter q f).remoteAcc = s.remoteAcc := rfl
@[simp] theorem State.modQuarter_corrected : (s.modQuarter q f).corrected = s.corrected := rfl
@[simp] theorem State.modQuarter_extTenant : (s.modQuarter q f).extTenant = s.extTenant := rfl
@[simp] theorem State.modQuarter_startWaits : (s.modQuarter q f).startWaits = s.startWaits := rfl
@[simp] theorem State.modQuarter_scrubs : (s.modQuarter q f).scrubs = s.scrubs := rfl
@[simp] theorem State.modQuarter_running : (s.modQuarter q f).running = s.running := rfl
@[simp] theorem State.modQuarter_golden : (s.modQuarter q f).golden = s.golden := rfl
@[simp] theorem State.modQuarter_trims : (s.modQuarter q f).trims = s.trims := rfl
@[simp] theorem State.modQuarter_opHash : (s.modQuarter q f).opHash = s.opHash := rfl
@[simp] theorem State.modQuarter_fuses : (s.modQuarter q f).fuses = s.fuses := rfl
@[simp] theorem State.modQuarter_notices : (s.modQuarter q f).notices = s.notices := rfl
@[simp] theorem State.modQuarter_misses : (s.modQuarter q f).misses = s.misses := rfl
@[simp] theorem State.modQuarter_choosing : (s.modQuarter q f).choosing = s.choosing := rfl
end

section
variable (s : State) (t g : Nat) (G : Gang)
@[simp] theorem State.setGang_agenda : (s.setGang t g G).agenda = s.agenda := rfl
@[simp] theorem State.setGang_fuel : (s.setGang t g G).fuel = s.fuel := rfl
@[simp] theorem State.setGang_cur : (s.setGang t g G).cur = s.cur := rfl
@[simp] theorem State.setGang_issues : (s.setGang t g G).issues = s.issues := rfl
@[simp] theorem State.setGang_note : (s.setGang t g G).note = s.note := rfl
@[simp] theorem State.setGang_nextId : (s.setGang t g G).nextId = s.nextId := rfl
@[simp] theorem State.setGang_barTests : (s.setGang t g G).barTests = s.barTests := rfl
@[simp] theorem State.setGang_flights : (s.setGang t g G).flights = s.flights := rfl
@[simp] theorem State.setGang_links : (s.setGang t g G).links = s.links := rfl
@[simp] theorem State.setGang_mem : (s.setGang t g G).mem = s.mem := rfl
@[simp] theorem State.setGang_poison : (s.setGang t g G).poison = s.poison := rfl
@[simp] theorem State.setGang_host : (s.setGang t g G).host = s.host := rfl
@[simp] theorem State.setGang_retiredCh : (s.setGang t g G).retiredCh = s.retiredCh := rfl
@[simp] theorem State.setGang_withdrawn : (s.setGang t g G).withdrawn = s.withdrawn := rfl
@[simp] theorem State.setGang_time : (s.setGang t g G).time = s.time := rfl
@[simp] theorem State.setGang_quarters : (s.setGang t g G).quarters = s.quarters := rfl
@[simp] theorem State.setGang_powered : (s.setGang t g G).powered = s.powered := rfl
@[simp] theorem State.setGang_groups : (s.setGang t g G).groups = s.groups := rfl
@[simp] theorem State.setGang_cores : (s.setGang t g G).cores = s.cores := rfl
@[simp] theorem State.setGang_clusters : (s.setGang t g G).clusters = s.clusters := rfl
@[simp] theorem State.setGang_dies : (s.setGang t g G).dies = s.dies := rfl
@[simp] theorem State.setGang_slices : (s.setGang t g G).slices = s.slices := rfl
@[simp] theorem State.setGang_futures : (s.setGang t g G).futures = s.futures := rfl
@[simp] theorem State.setGang_parts : (s.setGang t g G).parts = s.parts := rfl
@[simp] theorem State.setGang_ctxs : (s.setGang t g G).ctxs = s.ctxs := rfl
@[simp] theorem State.setGang_weights : (s.setGang t g G).weights = s.weights := rfl
@[simp] theorem State.setGang_wtabVer : (s.setGang t g G).wtabVer = s.wtabVer := rfl
@[simp] theorem State.setGang_wshadow : (s.setGang t g G).wshadow = s.wshadow := rfl
@[simp] theorem State.setGang_dyn : (s.setGang t g G).dyn = s.dyn := rfl
@[simp] theorem State.setGang_resid : (s.setGang t g G).resid = s.resid := rfl
@[simp] theorem State.setGang_pkgStanding : (s.setGang t g G).pkgStanding = s.pkgStanding := rfl
@[simp] theorem State.setGang_shareW : (s.setGang t g G).shareW = s.shareW := rfl
@[simp] theorem State.setGang_rscale : (s.setGang t g G).rscale = s.rscale := rfl
@[simp] theorem State.setGang_capcfg : (s.setGang t g G).capcfg = s.capcfg := rfl
@[simp] theorem State.setGang_capbudget : (s.setGang t g G).capbudget = s.capbudget := rfl
@[simp] theorem State.setGang_capReports : (s.setGang t g G).capReports = s.capReports := rfl
@[simp] theorem State.setGang_capShare : (s.setGang t g G).capShare = s.capShare := rfl
@[simp] theorem State.setGang_capMissed : (s.setGang t g G).capMissed = s.capMissed := rfl
@[simp] theorem State.setGang_capRefused : (s.setGang t g G).capRefused = s.capRefused := rfl
@[simp] theorem State.setGang_capDone : (s.setGang t g G).capDone = s.capDone := rfl
@[simp] theorem State.setGang_capDivided : (s.setGang t g G).capDivided = s.capDivided := rfl
@[simp] theorem State.setGang_tick : (s.setGang t g G).tick = s.tick := rfl
@[simp] theorem State.setGang_expInt : (s.setGang t g G).expInt = s.expInt := rfl
@[simp] theorem State.setGang_funcs : (s.setGang t g G).funcs = s.funcs := rfl
@[simp] theorem State.setGang_prqs : (s.setGang t g G).prqs = s.prqs := rfl
@[simp] theorem State.setGang_prqWait : (s.setGang t g G).prqWait = s.prqWait := rfl
@[simp] theorem State.setGang_parked : (s.setGang t g G).parked = s.parked := rfl
@[simp] theorem State.setGang_msgs : (s.setGang t g G).msgs = s.msgs := rfl
@[simp] theorem State.setGang_errRing : (s.setGang t g G).errRing = s.errRing := rfl
@[simp] theorem State.setGang_s2inv : (s.setGang t g G).s2inv = s.s2inv := rfl
@[simp] theorem State.setGang_ccload : (s.setGang t g G).ccload = s.ccload := rfl
@[simp] theorem State.setGang_mailboxes : (s.setGang t g G).mailboxes = s.mailboxes := rfl
@[simp] theorem State.setGang_cmdCores : (s.setGang t g G).cmdCores = s.cmdCores := rfl
@[simp] theorem State.setGang_bootstat : (s.setGang t g G).bootstat = s.bootstat := rfl
@[simp] theorem State.setGang_agtData : (s.setGang t g G).agtData = s.agtData := rfl
@[simp] theorem State.setGang_agtCtl : (s.setGang t g G).agtCtl = s.agtCtl := rfl
@[simp] theorem State.setGang_agtBuf : (s.setGang t g G).agtBuf = s.agtBuf := rfl
@[simp] theorem State.setGang_agtSeq : (s.setGang t g G).agtSeq = s.agtSeq := rfl
@[simp] theorem State.setGang_leaseKeys : (s.setGang t g G).leaseKeys = s.leaseKeys := rfl
@[simp] theorem State.setGang_pkgTenant : (s.setGang t g G).pkgTenant = s.pkgTenant := rfl
@[simp] theorem State.setGang_scrubSeq : (s.setGang t g G).scrubSeq = s.scrubSeq := rfl
@[simp] theorem State.setGang_fwCopies : (s.setGang t g G).fwCopies = s.fwCopies := rfl
@[simp] theorem State.setGang_pkgid : (s.setGang t g G).pkgid = s.pkgid := rfl
@[simp] theorem State.setGang_pkgSet : (s.setGang t g G).pkgSet = s.pkgSet := rfl
@[simp] theorem State.setGang_ports : (s.setGang t g G).ports = s.ports := rfl
@[simp] theorem State.setGang_fabRoute : (s.setGang t g G).fabRoute = s.fabRoute := rfl
@[simp] theorem State.setGang_fabOut : (s.setGang t g G).fabOut = s.fabOut := rfl
@[simp] theorem State.setGang_answers : (s.setGang t g G).answers = s.answers := rfl
@[simp] theorem State.setGang_remoteAcc : (s.setGang t g G).remoteAcc = s.remoteAcc := rfl
@[simp] theorem State.setGang_corrected : (s.setGang t g G).corrected = s.corrected := rfl
@[simp] theorem State.setGang_extTenant : (s.setGang t g G).extTenant = s.extTenant := rfl
@[simp] theorem State.setGang_startWaits : (s.setGang t g G).startWaits = s.startWaits := rfl
@[simp] theorem State.setGang_scrubs : (s.setGang t g G).scrubs = s.scrubs := rfl
@[simp] theorem State.setGang_running : (s.setGang t g G).running = s.running := rfl
@[simp] theorem State.setGang_golden : (s.setGang t g G).golden = s.golden := rfl
@[simp] theorem State.setGang_trims : (s.setGang t g G).trims = s.trims := rfl
@[simp] theorem State.setGang_opHash : (s.setGang t g G).opHash = s.opHash := rfl
@[simp] theorem State.setGang_fuses : (s.setGang t g G).fuses = s.fuses := rfl
@[simp] theorem State.setGang_notices : (s.setGang t g G).notices = s.notices := rfl
@[simp] theorem State.setGang_misses : (s.setGang t g G).misses = s.misses := rfl
@[simp] theorem State.setGang_choosing : (s.setGang t g G).choosing = s.choosing := rfl
end

section
variable (s : State) (G : Gang)
@[simp] theorem State.setCur_agenda : (s.setCur G).agenda = s.agenda := rfl
@[simp] theorem State.setCur_fuel : (s.setCur G).fuel = s.fuel := rfl
@[simp] theorem State.setCur_cur : (s.setCur G).cur = s.cur := rfl
@[simp] theorem State.setCur_issues : (s.setCur G).issues = s.issues := rfl
@[simp] theorem State.setCur_note : (s.setCur G).note = s.note := rfl
@[simp] theorem State.setCur_nextId : (s.setCur G).nextId = s.nextId := rfl
@[simp] theorem State.setCur_barTests : (s.setCur G).barTests = s.barTests := rfl
@[simp] theorem State.setCur_flights : (s.setCur G).flights = s.flights := rfl
@[simp] theorem State.setCur_links : (s.setCur G).links = s.links := rfl
@[simp] theorem State.setCur_mem : (s.setCur G).mem = s.mem := rfl
@[simp] theorem State.setCur_poison : (s.setCur G).poison = s.poison := rfl
@[simp] theorem State.setCur_host : (s.setCur G).host = s.host := rfl
@[simp] theorem State.setCur_retiredCh : (s.setCur G).retiredCh = s.retiredCh := rfl
@[simp] theorem State.setCur_withdrawn : (s.setCur G).withdrawn = s.withdrawn := rfl
@[simp] theorem State.setCur_time : (s.setCur G).time = s.time := rfl
@[simp] theorem State.setCur_quarters : (s.setCur G).quarters = s.quarters := rfl
@[simp] theorem State.setCur_powered : (s.setCur G).powered = s.powered := rfl
@[simp] theorem State.setCur_groups : (s.setCur G).groups = s.groups := rfl
@[simp] theorem State.setCur_cores : (s.setCur G).cores = s.cores := rfl
@[simp] theorem State.setCur_clusters : (s.setCur G).clusters = s.clusters := rfl
@[simp] theorem State.setCur_dies : (s.setCur G).dies = s.dies := rfl
@[simp] theorem State.setCur_slices : (s.setCur G).slices = s.slices := rfl
@[simp] theorem State.setCur_futures : (s.setCur G).futures = s.futures := rfl
@[simp] theorem State.setCur_parts : (s.setCur G).parts = s.parts := rfl
@[simp] theorem State.setCur_ctxs : (s.setCur G).ctxs = s.ctxs := rfl
@[simp] theorem State.setCur_weights : (s.setCur G).weights = s.weights := rfl
@[simp] theorem State.setCur_wtabVer : (s.setCur G).wtabVer = s.wtabVer := rfl
@[simp] theorem State.setCur_wshadow : (s.setCur G).wshadow = s.wshadow := rfl
@[simp] theorem State.setCur_dyn : (s.setCur G).dyn = s.dyn := rfl
@[simp] theorem State.setCur_resid : (s.setCur G).resid = s.resid := rfl
@[simp] theorem State.setCur_pkgStanding : (s.setCur G).pkgStanding = s.pkgStanding := rfl
@[simp] theorem State.setCur_shareW : (s.setCur G).shareW = s.shareW := rfl
@[simp] theorem State.setCur_rscale : (s.setCur G).rscale = s.rscale := rfl
@[simp] theorem State.setCur_capcfg : (s.setCur G).capcfg = s.capcfg := rfl
@[simp] theorem State.setCur_capbudget : (s.setCur G).capbudget = s.capbudget := rfl
@[simp] theorem State.setCur_capReports : (s.setCur G).capReports = s.capReports := rfl
@[simp] theorem State.setCur_capShare : (s.setCur G).capShare = s.capShare := rfl
@[simp] theorem State.setCur_capMissed : (s.setCur G).capMissed = s.capMissed := rfl
@[simp] theorem State.setCur_capRefused : (s.setCur G).capRefused = s.capRefused := rfl
@[simp] theorem State.setCur_capDone : (s.setCur G).capDone = s.capDone := rfl
@[simp] theorem State.setCur_capDivided : (s.setCur G).capDivided = s.capDivided := rfl
@[simp] theorem State.setCur_tick : (s.setCur G).tick = s.tick := rfl
@[simp] theorem State.setCur_expInt : (s.setCur G).expInt = s.expInt := rfl
@[simp] theorem State.setCur_funcs : (s.setCur G).funcs = s.funcs := rfl
@[simp] theorem State.setCur_prqs : (s.setCur G).prqs = s.prqs := rfl
@[simp] theorem State.setCur_prqWait : (s.setCur G).prqWait = s.prqWait := rfl
@[simp] theorem State.setCur_parked : (s.setCur G).parked = s.parked := rfl
@[simp] theorem State.setCur_msgs : (s.setCur G).msgs = s.msgs := rfl
@[simp] theorem State.setCur_errRing : (s.setCur G).errRing = s.errRing := rfl
@[simp] theorem State.setCur_s2inv : (s.setCur G).s2inv = s.s2inv := rfl
@[simp] theorem State.setCur_ccload : (s.setCur G).ccload = s.ccload := rfl
@[simp] theorem State.setCur_mailboxes : (s.setCur G).mailboxes = s.mailboxes := rfl
@[simp] theorem State.setCur_cmdCores : (s.setCur G).cmdCores = s.cmdCores := rfl
@[simp] theorem State.setCur_bootstat : (s.setCur G).bootstat = s.bootstat := rfl
@[simp] theorem State.setCur_agtData : (s.setCur G).agtData = s.agtData := rfl
@[simp] theorem State.setCur_agtCtl : (s.setCur G).agtCtl = s.agtCtl := rfl
@[simp] theorem State.setCur_agtBuf : (s.setCur G).agtBuf = s.agtBuf := rfl
@[simp] theorem State.setCur_agtSeq : (s.setCur G).agtSeq = s.agtSeq := rfl
@[simp] theorem State.setCur_leaseKeys : (s.setCur G).leaseKeys = s.leaseKeys := rfl
@[simp] theorem State.setCur_pkgTenant : (s.setCur G).pkgTenant = s.pkgTenant := rfl
@[simp] theorem State.setCur_scrubSeq : (s.setCur G).scrubSeq = s.scrubSeq := rfl
@[simp] theorem State.setCur_fwCopies : (s.setCur G).fwCopies = s.fwCopies := rfl
@[simp] theorem State.setCur_pkgid : (s.setCur G).pkgid = s.pkgid := rfl
@[simp] theorem State.setCur_pkgSet : (s.setCur G).pkgSet = s.pkgSet := rfl
@[simp] theorem State.setCur_ports : (s.setCur G).ports = s.ports := rfl
@[simp] theorem State.setCur_fabRoute : (s.setCur G).fabRoute = s.fabRoute := rfl
@[simp] theorem State.setCur_fabOut : (s.setCur G).fabOut = s.fabOut := rfl
@[simp] theorem State.setCur_answers : (s.setCur G).answers = s.answers := rfl
@[simp] theorem State.setCur_remoteAcc : (s.setCur G).remoteAcc = s.remoteAcc := rfl
@[simp] theorem State.setCur_corrected : (s.setCur G).corrected = s.corrected := rfl
@[simp] theorem State.setCur_extTenant : (s.setCur G).extTenant = s.extTenant := rfl
@[simp] theorem State.setCur_startWaits : (s.setCur G).startWaits = s.startWaits := rfl
@[simp] theorem State.setCur_scrubs : (s.setCur G).scrubs = s.scrubs := rfl
@[simp] theorem State.setCur_running : (s.setCur G).running = s.running := rfl
@[simp] theorem State.setCur_golden : (s.setCur G).golden = s.golden := rfl
@[simp] theorem State.setCur_trims : (s.setCur G).trims = s.trims := rfl
@[simp] theorem State.setCur_opHash : (s.setCur G).opHash = s.opHash := rfl
@[simp] theorem State.setCur_fuses : (s.setCur G).fuses = s.fuses := rfl
@[simp] theorem State.setCur_notices : (s.setCur G).notices = s.notices := rfl
@[simp] theorem State.setCur_misses : (s.setCur G).misses = s.misses := rfl
@[simp] theorem State.setCur_choosing : (s.setCur G).choosing = s.choosing := rfl
end

section
variable (s : State) (c : Nat) (f : Core → Core)
@[simp] theorem State.modCore_agenda : (s.modCore c f).agenda = s.agenda := rfl
@[simp] theorem State.modCore_fuel : (s.modCore c f).fuel = s.fuel := rfl
@[simp] theorem State.modCore_cur : (s.modCore c f).cur = s.cur := rfl
@[simp] theorem State.modCore_issues : (s.modCore c f).issues = s.issues := rfl
@[simp] theorem State.modCore_note : (s.modCore c f).note = s.note := rfl
@[simp] theorem State.modCore_nextId : (s.modCore c f).nextId = s.nextId := rfl
@[simp] theorem State.modCore_barTests : (s.modCore c f).barTests = s.barTests := rfl
@[simp] theorem State.modCore_flights : (s.modCore c f).flights = s.flights := rfl
@[simp] theorem State.modCore_links : (s.modCore c f).links = s.links := rfl
@[simp] theorem State.modCore_mem : (s.modCore c f).mem = s.mem := rfl
@[simp] theorem State.modCore_poison : (s.modCore c f).poison = s.poison := rfl
@[simp] theorem State.modCore_host : (s.modCore c f).host = s.host := rfl
@[simp] theorem State.modCore_retiredCh : (s.modCore c f).retiredCh = s.retiredCh := rfl
@[simp] theorem State.modCore_withdrawn : (s.modCore c f).withdrawn = s.withdrawn := rfl
@[simp] theorem State.modCore_time : (s.modCore c f).time = s.time := rfl
@[simp] theorem State.modCore_quarters : (s.modCore c f).quarters = s.quarters := rfl
@[simp] theorem State.modCore_powered : (s.modCore c f).powered = s.powered := rfl
@[simp] theorem State.modCore_teams : (s.modCore c f).teams = s.teams := rfl
@[simp] theorem State.modCore_groups : (s.modCore c f).groups = s.groups := rfl
@[simp] theorem State.modCore_clusters : (s.modCore c f).clusters = s.clusters := rfl
@[simp] theorem State.modCore_dies : (s.modCore c f).dies = s.dies := rfl
@[simp] theorem State.modCore_slices : (s.modCore c f).slices = s.slices := rfl
@[simp] theorem State.modCore_futures : (s.modCore c f).futures = s.futures := rfl
@[simp] theorem State.modCore_parts : (s.modCore c f).parts = s.parts := rfl
@[simp] theorem State.modCore_ctxs : (s.modCore c f).ctxs = s.ctxs := rfl
@[simp] theorem State.modCore_weights : (s.modCore c f).weights = s.weights := rfl
@[simp] theorem State.modCore_wtabVer : (s.modCore c f).wtabVer = s.wtabVer := rfl
@[simp] theorem State.modCore_wshadow : (s.modCore c f).wshadow = s.wshadow := rfl
@[simp] theorem State.modCore_dyn : (s.modCore c f).dyn = s.dyn := rfl
@[simp] theorem State.modCore_resid : (s.modCore c f).resid = s.resid := rfl
@[simp] theorem State.modCore_pkgStanding : (s.modCore c f).pkgStanding = s.pkgStanding := rfl
@[simp] theorem State.modCore_shareW : (s.modCore c f).shareW = s.shareW := rfl
@[simp] theorem State.modCore_rscale : (s.modCore c f).rscale = s.rscale := rfl
@[simp] theorem State.modCore_capcfg : (s.modCore c f).capcfg = s.capcfg := rfl
@[simp] theorem State.modCore_capbudget : (s.modCore c f).capbudget = s.capbudget := rfl
@[simp] theorem State.modCore_capReports : (s.modCore c f).capReports = s.capReports := rfl
@[simp] theorem State.modCore_capShare : (s.modCore c f).capShare = s.capShare := rfl
@[simp] theorem State.modCore_capMissed : (s.modCore c f).capMissed = s.capMissed := rfl
@[simp] theorem State.modCore_capRefused : (s.modCore c f).capRefused = s.capRefused := rfl
@[simp] theorem State.modCore_capDone : (s.modCore c f).capDone = s.capDone := rfl
@[simp] theorem State.modCore_capDivided : (s.modCore c f).capDivided = s.capDivided := rfl
@[simp] theorem State.modCore_tick : (s.modCore c f).tick = s.tick := rfl
@[simp] theorem State.modCore_expInt : (s.modCore c f).expInt = s.expInt := rfl
@[simp] theorem State.modCore_funcs : (s.modCore c f).funcs = s.funcs := rfl
@[simp] theorem State.modCore_prqs : (s.modCore c f).prqs = s.prqs := rfl
@[simp] theorem State.modCore_prqWait : (s.modCore c f).prqWait = s.prqWait := rfl
@[simp] theorem State.modCore_parked : (s.modCore c f).parked = s.parked := rfl
@[simp] theorem State.modCore_msgs : (s.modCore c f).msgs = s.msgs := rfl
@[simp] theorem State.modCore_errRing : (s.modCore c f).errRing = s.errRing := rfl
@[simp] theorem State.modCore_s2inv : (s.modCore c f).s2inv = s.s2inv := rfl
@[simp] theorem State.modCore_ccload : (s.modCore c f).ccload = s.ccload := rfl
@[simp] theorem State.modCore_mailboxes : (s.modCore c f).mailboxes = s.mailboxes := rfl
@[simp] theorem State.modCore_cmdCores : (s.modCore c f).cmdCores = s.cmdCores := rfl
@[simp] theorem State.modCore_bootstat : (s.modCore c f).bootstat = s.bootstat := rfl
@[simp] theorem State.modCore_agtData : (s.modCore c f).agtData = s.agtData := rfl
@[simp] theorem State.modCore_agtCtl : (s.modCore c f).agtCtl = s.agtCtl := rfl
@[simp] theorem State.modCore_agtBuf : (s.modCore c f).agtBuf = s.agtBuf := rfl
@[simp] theorem State.modCore_agtSeq : (s.modCore c f).agtSeq = s.agtSeq := rfl
@[simp] theorem State.modCore_leaseKeys : (s.modCore c f).leaseKeys = s.leaseKeys := rfl
@[simp] theorem State.modCore_pkgTenant : (s.modCore c f).pkgTenant = s.pkgTenant := rfl
@[simp] theorem State.modCore_scrubSeq : (s.modCore c f).scrubSeq = s.scrubSeq := rfl
@[simp] theorem State.modCore_fwCopies : (s.modCore c f).fwCopies = s.fwCopies := rfl
@[simp] theorem State.modCore_pkgid : (s.modCore c f).pkgid = s.pkgid := rfl
@[simp] theorem State.modCore_pkgSet : (s.modCore c f).pkgSet = s.pkgSet := rfl
@[simp] theorem State.modCore_ports : (s.modCore c f).ports = s.ports := rfl
@[simp] theorem State.modCore_fabRoute : (s.modCore c f).fabRoute = s.fabRoute := rfl
@[simp] theorem State.modCore_fabOut : (s.modCore c f).fabOut = s.fabOut := rfl
@[simp] theorem State.modCore_answers : (s.modCore c f).answers = s.answers := rfl
@[simp] theorem State.modCore_remoteAcc : (s.modCore c f).remoteAcc = s.remoteAcc := rfl
@[simp] theorem State.modCore_corrected : (s.modCore c f).corrected = s.corrected := rfl
@[simp] theorem State.modCore_extTenant : (s.modCore c f).extTenant = s.extTenant := rfl
@[simp] theorem State.modCore_startWaits : (s.modCore c f).startWaits = s.startWaits := rfl
@[simp] theorem State.modCore_scrubs : (s.modCore c f).scrubs = s.scrubs := rfl
@[simp] theorem State.modCore_running : (s.modCore c f).running = s.running := rfl
@[simp] theorem State.modCore_golden : (s.modCore c f).golden = s.golden := rfl
@[simp] theorem State.modCore_trims : (s.modCore c f).trims = s.trims := rfl
@[simp] theorem State.modCore_opHash : (s.modCore c f).opHash = s.opHash := rfl
@[simp] theorem State.modCore_fuses : (s.modCore c f).fuses = s.fuses := rfl
@[simp] theorem State.modCore_notices : (s.modCore c f).notices = s.notices := rfl
@[simp] theorem State.modCore_misses : (s.modCore c f).misses = s.misses := rfl
@[simp] theorem State.modCore_choosing : (s.modCore c f).choosing = s.choosing := rfl
end

section
variable (G : Gang) (l r : Nat) (x : W32)
@[simp] theorem Gang.writeV_width : (G.writeV l r x).width = G.width := rfl
@[simp] theorem Gang.writeV_core : (G.writeV l r x).core = G.core := rfl
@[simp] theorem Gang.writeV_slot : (G.writeV l r x).slot = G.slot := rfl
@[simp] theorem Gang.writeV_base : (G.writeV l r x).base = G.base := rfl
@[simp] theorem Gang.writeV_poolAt : (G.writeV l r x).poolAt = G.poolAt := rfl
@[simp] theorem Gang.writeV_vbnd : (G.writeV l r x).vbnd = G.vbnd := rfl
@[simp] theorem Gang.writeV_preds : (G.writeV l r x).preds = G.preds := rfl
@[simp] theorem Gang.writeV_fstat : (G.writeV l r x).fstat = G.fstat := rfl
@[simp] theorem Gang.writeV_pcs : (G.writeV l r x).pcs = G.pcs := rfl
@[simp] theorem Gang.writeV_depth : (G.writeV l r x).depth = G.depth := rfl
@[simp] theorem Gang.writeV_lst : (G.writeV l r x).lst = G.lst := rfl
@[simp] theorem Gang.writeV_ages : (G.writeV l r x).ages = G.ages := rfl
@[simp] theorem Gang.writeV_since : (G.writeV l r x).since = G.since := rfl
@[simp] theorem Gang.writeV_yields : (G.writeV l r x).yields = G.yields := rfl
@[simp] theorem Gang.writeV_s : (G.writeV l r x).s = G.s := rfl
@[simp] theorem Gang.writeV_m : (G.writeV l r x).m = G.m := rfl
@[simp] theorem Gang.writeV_frames : (G.writeV l r x).frames = G.frames := rfl
@[simp] theorem Gang.writeV_cstk : (G.writeV l r x).cstk = G.cstk := rfl
@[simp] theorem Gang.writeV_pidx : (G.writeV l r x).pidx = G.pidx := rfl
@[simp] theorem Gang.writeV_tcause : (G.writeV l r x).tcause = G.tcause := rfl
@[simp] theorem Gang.writeV_tlanes : (G.writeV l r x).tlanes = G.tlanes := rfl
@[simp] theorem Gang.writeV_taddr : (G.writeV l r x).taddr = G.taddr := rfl
@[simp] theorem Gang.writeV_tpc : (G.writeV l r x).tpc = G.tpc := rfl
@[simp] theorem Gang.writeV_tstat : (G.writeV l r x).tstat = G.tstat := rfl
@[simp] theorem Gang.writeV_fmode : (G.writeV l r x).fmode = G.fmode := rfl
@[simp] theorem Gang.writeV_hset : (G.writeV l r x).hset = G.hset := rfl
@[simp] theorem Gang.writeV_stepArm : (G.writeV l r x).stepArm = G.stepArm := rfl
@[simp] theorem Gang.writeV_stepped : (G.writeV l r x).stepped = G.stepped := rfl
@[simp] theorem Gang.writeV_fenceId : (G.writeV l r x).fenceId = G.fenceId := rfl
@[simp] theorem Gang.writeV_pend : (G.writeV l r x).pend = G.pend := rfl
@[simp] theorem Gang.writeV_queue : (G.writeV l r x).queue = G.queue := rfl
@[simp] theorem Gang.writeV_prog : (G.writeV l r x).prog = G.prog := rfl
@[simp] theorem Gang.writeV_port : (G.writeV l r x).port = G.port := rfl
@[simp] theorem Gang.writeV_stop : (G.writeV l r x).stop = G.stop := rfl
@[simp] theorem Gang.writeV_failed : (G.writeV l r x).failed = G.failed := rfl
@[simp] theorem Gang.writeV_conts : (G.writeV l r x).conts = G.conts := rfl
@[simp] theorem Gang.writeV_lost : (G.writeV l r x).lost = G.lost := rfl
@[simp] theorem Gang.writeV_asked : (G.writeV l r x).asked = G.asked := rfl
end

section
variable (G : Gang) (r : Nat) (x : W64)
@[simp] theorem Gang.writeS_width : (G.writeS r x).width = G.width := rfl
@[simp] theorem Gang.writeS_core : (G.writeS r x).core = G.core := rfl
@[simp] theorem Gang.writeS_slot : (G.writeS r x).slot = G.slot := rfl
@[simp] theorem Gang.writeS_base : (G.writeS r x).base = G.base := rfl
@[simp] theorem Gang.writeS_poolAt : (G.writeS r x).poolAt = G.poolAt := rfl
@[simp] theorem Gang.writeS_vbnd : (G.writeS r x).vbnd = G.vbnd := rfl
@[simp] theorem Gang.writeS_pool : (G.writeS r x).pool = G.pool := rfl
@[simp] theorem Gang.writeS_preds : (G.writeS r x).preds = G.preds := rfl
@[simp] theorem Gang.writeS_fstat : (G.writeS r x).fstat = G.fstat := rfl
@[simp] theorem Gang.writeS_pcs : (G.writeS r x).pcs = G.pcs := rfl
@[simp] theorem Gang.writeS_depth : (G.writeS r x).depth = G.depth := rfl
@[simp] theorem Gang.writeS_lst : (G.writeS r x).lst = G.lst := rfl
@[simp] theorem Gang.writeS_ages : (G.writeS r x).ages = G.ages := rfl
@[simp] theorem Gang.writeS_since : (G.writeS r x).since = G.since := rfl
@[simp] theorem Gang.writeS_yields : (G.writeS r x).yields = G.yields := rfl
@[simp] theorem Gang.writeS_m : (G.writeS r x).m = G.m := rfl
@[simp] theorem Gang.writeS_frames : (G.writeS r x).frames = G.frames := rfl
@[simp] theorem Gang.writeS_cstk : (G.writeS r x).cstk = G.cstk := rfl
@[simp] theorem Gang.writeS_pidx : (G.writeS r x).pidx = G.pidx := rfl
@[simp] theorem Gang.writeS_tcause : (G.writeS r x).tcause = G.tcause := rfl
@[simp] theorem Gang.writeS_tlanes : (G.writeS r x).tlanes = G.tlanes := rfl
@[simp] theorem Gang.writeS_taddr : (G.writeS r x).taddr = G.taddr := rfl
@[simp] theorem Gang.writeS_tpc : (G.writeS r x).tpc = G.tpc := rfl
@[simp] theorem Gang.writeS_tstat : (G.writeS r x).tstat = G.tstat := rfl
@[simp] theorem Gang.writeS_fmode : (G.writeS r x).fmode = G.fmode := rfl
@[simp] theorem Gang.writeS_hset : (G.writeS r x).hset = G.hset := rfl
@[simp] theorem Gang.writeS_stepArm : (G.writeS r x).stepArm = G.stepArm := rfl
@[simp] theorem Gang.writeS_stepped : (G.writeS r x).stepped = G.stepped := rfl
@[simp] theorem Gang.writeS_fenceId : (G.writeS r x).fenceId = G.fenceId := rfl
@[simp] theorem Gang.writeS_pend : (G.writeS r x).pend = G.pend := rfl
@[simp] theorem Gang.writeS_queue : (G.writeS r x).queue = G.queue := rfl
@[simp] theorem Gang.writeS_prog : (G.writeS r x).prog = G.prog := rfl
@[simp] theorem Gang.writeS_port : (G.writeS r x).port = G.port := rfl
@[simp] theorem Gang.writeS_stop : (G.writeS r x).stop = G.stop := rfl
@[simp] theorem Gang.writeS_failed : (G.writeS r x).failed = G.failed := rfl
@[simp] theorem Gang.writeS_conts : (G.writeS r x).conts = G.conts := rfl
@[simp] theorem Gang.writeS_lost : (G.writeS r x).lost = G.lost := rfl
@[simp] theorem Gang.writeS_bad : (G.writeS r x).bad = G.bad := rfl
@[simp] theorem Gang.writeS_asked : (G.writeS r x).asked = G.asked := rfl
end

section
variable (G : Gang) (l k : Nat) (b : Bool)
@[simp] theorem Gang.writeK_width : (G.writeK l k b).width = G.width := rfl
@[simp] theorem Gang.writeK_core : (G.writeK l k b).core = G.core := rfl
@[simp] theorem Gang.writeK_slot : (G.writeK l k b).slot = G.slot := rfl
@[simp] theorem Gang.writeK_base : (G.writeK l k b).base = G.base := rfl
@[simp] theorem Gang.writeK_poolAt : (G.writeK l k b).poolAt = G.poolAt := rfl
@[simp] theorem Gang.writeK_vbnd : (G.writeK l k b).vbnd = G.vbnd := rfl
@[simp] theorem Gang.writeK_pool : (G.writeK l k b).pool = G.pool := rfl
@[simp] theorem Gang.writeK_fstat : (G.writeK l k b).fstat = G.fstat := rfl
@[simp] theorem Gang.writeK_pcs : (G.writeK l k b).pcs = G.pcs := rfl
@[simp] theorem Gang.writeK_depth : (G.writeK l k b).depth = G.depth := rfl
@[simp] theorem Gang.writeK_lst : (G.writeK l k b).lst = G.lst := rfl
@[simp] theorem Gang.writeK_ages : (G.writeK l k b).ages = G.ages := rfl
@[simp] theorem Gang.writeK_since : (G.writeK l k b).since = G.since := rfl
@[simp] theorem Gang.writeK_yields : (G.writeK l k b).yields = G.yields := rfl
@[simp] theorem Gang.writeK_s : (G.writeK l k b).s = G.s := rfl
@[simp] theorem Gang.writeK_m : (G.writeK l k b).m = G.m := rfl
@[simp] theorem Gang.writeK_frames : (G.writeK l k b).frames = G.frames := rfl
@[simp] theorem Gang.writeK_cstk : (G.writeK l k b).cstk = G.cstk := rfl
@[simp] theorem Gang.writeK_pidx : (G.writeK l k b).pidx = G.pidx := rfl
@[simp] theorem Gang.writeK_tcause : (G.writeK l k b).tcause = G.tcause := rfl
@[simp] theorem Gang.writeK_tlanes : (G.writeK l k b).tlanes = G.tlanes := rfl
@[simp] theorem Gang.writeK_taddr : (G.writeK l k b).taddr = G.taddr := rfl
@[simp] theorem Gang.writeK_tpc : (G.writeK l k b).tpc = G.tpc := rfl
@[simp] theorem Gang.writeK_tstat : (G.writeK l k b).tstat = G.tstat := rfl
@[simp] theorem Gang.writeK_fmode : (G.writeK l k b).fmode = G.fmode := rfl
@[simp] theorem Gang.writeK_hset : (G.writeK l k b).hset = G.hset := rfl
@[simp] theorem Gang.writeK_stepArm : (G.writeK l k b).stepArm = G.stepArm := rfl
@[simp] theorem Gang.writeK_stepped : (G.writeK l k b).stepped = G.stepped := rfl
@[simp] theorem Gang.writeK_fenceId : (G.writeK l k b).fenceId = G.fenceId := rfl
@[simp] theorem Gang.writeK_pend : (G.writeK l k b).pend = G.pend := rfl
@[simp] theorem Gang.writeK_queue : (G.writeK l k b).queue = G.queue := rfl
@[simp] theorem Gang.writeK_prog : (G.writeK l k b).prog = G.prog := rfl
@[simp] theorem Gang.writeK_port : (G.writeK l k b).port = G.port := rfl
@[simp] theorem Gang.writeK_stop : (G.writeK l k b).stop = G.stop := rfl
@[simp] theorem Gang.writeK_failed : (G.writeK l k b).failed = G.failed := rfl
@[simp] theorem Gang.writeK_conts : (G.writeK l k b).conts = G.conts := rfl
@[simp] theorem Gang.writeK_lost : (G.writeK l k b).lost = G.lost := rfl
@[simp] theorem Gang.writeK_bad : (G.writeK l k b).bad = G.bad := rfl
@[simp] theorem Gang.writeK_asked : (G.writeK l k b).asked = G.asked := rfl
end

section
variable (G : Gang) (k : Nat) (x : W64)
@[simp] theorem Gang.writeM_width : (G.writeM k x).width = G.width := rfl
@[simp] theorem Gang.writeM_core : (G.writeM k x).core = G.core := rfl
@[simp] theorem Gang.writeM_slot : (G.writeM k x).slot = G.slot := rfl
@[simp] theorem Gang.writeM_base : (G.writeM k x).base = G.base := rfl
@[simp] theorem Gang.writeM_poolAt : (G.writeM k x).poolAt = G.poolAt := rfl
@[simp] theorem Gang.writeM_vbnd : (G.writeM k x).vbnd = G.vbnd := rfl
@[simp] theorem Gang.writeM_pool : (G.writeM k x).pool = G.pool := rfl
@[simp] theorem Gang.writeM_preds : (G.writeM k x).preds = G.preds := rfl
@[simp] theorem Gang.writeM_fstat : (G.writeM k x).fstat = G.fstat := rfl
@[simp] theorem Gang.writeM_pcs : (G.writeM k x).pcs = G.pcs := rfl
@[simp] theorem Gang.writeM_depth : (G.writeM k x).depth = G.depth := rfl
@[simp] theorem Gang.writeM_lst : (G.writeM k x).lst = G.lst := rfl
@[simp] theorem Gang.writeM_ages : (G.writeM k x).ages = G.ages := rfl
@[simp] theorem Gang.writeM_since : (G.writeM k x).since = G.since := rfl
@[simp] theorem Gang.writeM_yields : (G.writeM k x).yields = G.yields := rfl
@[simp] theorem Gang.writeM_s : (G.writeM k x).s = G.s := rfl
@[simp] theorem Gang.writeM_frames : (G.writeM k x).frames = G.frames := rfl
@[simp] theorem Gang.writeM_cstk : (G.writeM k x).cstk = G.cstk := rfl
@[simp] theorem Gang.writeM_pidx : (G.writeM k x).pidx = G.pidx := rfl
@[simp] theorem Gang.writeM_tcause : (G.writeM k x).tcause = G.tcause := rfl
@[simp] theorem Gang.writeM_tlanes : (G.writeM k x).tlanes = G.tlanes := rfl
@[simp] theorem Gang.writeM_taddr : (G.writeM k x).taddr = G.taddr := rfl
@[simp] theorem Gang.writeM_tpc : (G.writeM k x).tpc = G.tpc := rfl
@[simp] theorem Gang.writeM_tstat : (G.writeM k x).tstat = G.tstat := rfl
@[simp] theorem Gang.writeM_fmode : (G.writeM k x).fmode = G.fmode := rfl
@[simp] theorem Gang.writeM_hset : (G.writeM k x).hset = G.hset := rfl
@[simp] theorem Gang.writeM_stepArm : (G.writeM k x).stepArm = G.stepArm := rfl
@[simp] theorem Gang.writeM_stepped : (G.writeM k x).stepped = G.stepped := rfl
@[simp] theorem Gang.writeM_fenceId : (G.writeM k x).fenceId = G.fenceId := rfl
@[simp] theorem Gang.writeM_pend : (G.writeM k x).pend = G.pend := rfl
@[simp] theorem Gang.writeM_queue : (G.writeM k x).queue = G.queue := rfl
@[simp] theorem Gang.writeM_prog : (G.writeM k x).prog = G.prog := rfl
@[simp] theorem Gang.writeM_port : (G.writeM k x).port = G.port := rfl
@[simp] theorem Gang.writeM_stop : (G.writeM k x).stop = G.stop := rfl
@[simp] theorem Gang.writeM_failed : (G.writeM k x).failed = G.failed := rfl
@[simp] theorem Gang.writeM_conts : (G.writeM k x).conts = G.conts := rfl
@[simp] theorem Gang.writeM_lost : (G.writeM k x).lost = G.lost := rfl
@[simp] theorem Gang.writeM_bad : (G.writeM k x).bad = G.bad := rfl
@[simp] theorem Gang.writeM_asked : (G.writeM k x).asked = G.asked := rfl
end

section
variable (G : Gang) (l : Nat) (x : BitVec 5)
@[simp] theorem Gang.writeFstat_width : (G.writeFstat l x).width = G.width := rfl
@[simp] theorem Gang.writeFstat_core : (G.writeFstat l x).core = G.core := rfl
@[simp] theorem Gang.writeFstat_slot : (G.writeFstat l x).slot = G.slot := rfl
@[simp] theorem Gang.writeFstat_base : (G.writeFstat l x).base = G.base := rfl
@[simp] theorem Gang.writeFstat_poolAt : (G.writeFstat l x).poolAt = G.poolAt := rfl
@[simp] theorem Gang.writeFstat_vbnd : (G.writeFstat l x).vbnd = G.vbnd := rfl
@[simp] theorem Gang.writeFstat_pool : (G.writeFstat l x).pool = G.pool := rfl
@[simp] theorem Gang.writeFstat_preds : (G.writeFstat l x).preds = G.preds := rfl
@[simp] theorem Gang.writeFstat_pcs : (G.writeFstat l x).pcs = G.pcs := rfl
@[simp] theorem Gang.writeFstat_depth : (G.writeFstat l x).depth = G.depth := rfl
@[simp] theorem Gang.writeFstat_lst : (G.writeFstat l x).lst = G.lst := rfl
@[simp] theorem Gang.writeFstat_ages : (G.writeFstat l x).ages = G.ages := rfl
@[simp] theorem Gang.writeFstat_since : (G.writeFstat l x).since = G.since := rfl
@[simp] theorem Gang.writeFstat_yields : (G.writeFstat l x).yields = G.yields := rfl
@[simp] theorem Gang.writeFstat_s : (G.writeFstat l x).s = G.s := rfl
@[simp] theorem Gang.writeFstat_m : (G.writeFstat l x).m = G.m := rfl
@[simp] theorem Gang.writeFstat_frames : (G.writeFstat l x).frames = G.frames := rfl
@[simp] theorem Gang.writeFstat_cstk : (G.writeFstat l x).cstk = G.cstk := rfl
@[simp] theorem Gang.writeFstat_pidx : (G.writeFstat l x).pidx = G.pidx := rfl
@[simp] theorem Gang.writeFstat_tcause : (G.writeFstat l x).tcause = G.tcause := rfl
@[simp] theorem Gang.writeFstat_tlanes : (G.writeFstat l x).tlanes = G.tlanes := rfl
@[simp] theorem Gang.writeFstat_taddr : (G.writeFstat l x).taddr = G.taddr := rfl
@[simp] theorem Gang.writeFstat_tpc : (G.writeFstat l x).tpc = G.tpc := rfl
@[simp] theorem Gang.writeFstat_tstat : (G.writeFstat l x).tstat = G.tstat := rfl
@[simp] theorem Gang.writeFstat_fmode : (G.writeFstat l x).fmode = G.fmode := rfl
@[simp] theorem Gang.writeFstat_hset : (G.writeFstat l x).hset = G.hset := rfl
@[simp] theorem Gang.writeFstat_stepArm : (G.writeFstat l x).stepArm = G.stepArm := rfl
@[simp] theorem Gang.writeFstat_stepped : (G.writeFstat l x).stepped = G.stepped := rfl
@[simp] theorem Gang.writeFstat_fenceId : (G.writeFstat l x).fenceId = G.fenceId := rfl
@[simp] theorem Gang.writeFstat_pend : (G.writeFstat l x).pend = G.pend := rfl
@[simp] theorem Gang.writeFstat_queue : (G.writeFstat l x).queue = G.queue := rfl
@[simp] theorem Gang.writeFstat_prog : (G.writeFstat l x).prog = G.prog := rfl
@[simp] theorem Gang.writeFstat_port : (G.writeFstat l x).port = G.port := rfl
@[simp] theorem Gang.writeFstat_stop : (G.writeFstat l x).stop = G.stop := rfl
@[simp] theorem Gang.writeFstat_failed : (G.writeFstat l x).failed = G.failed := rfl
@[simp] theorem Gang.writeFstat_conts : (G.writeFstat l x).conts = G.conts := rfl
@[simp] theorem Gang.writeFstat_lost : (G.writeFstat l x).lost = G.lost := rfl
@[simp] theorem Gang.writeFstat_bad : (G.writeFstat l x).bad = G.bad := rfl
@[simp] theorem Gang.writeFstat_asked : (G.writeFstat l x).asked = G.asked := rfl
end

section
variable (G : Gang) (l : Nat) (x : BitVec 5)
@[simp] theorem Gang.orFstat_width : (G.orFstat l x).width = G.width := rfl
@[simp] theorem Gang.orFstat_core : (G.orFstat l x).core = G.core := rfl
@[simp] theorem Gang.orFstat_slot : (G.orFstat l x).slot = G.slot := rfl
@[simp] theorem Gang.orFstat_base : (G.orFstat l x).base = G.base := rfl
@[simp] theorem Gang.orFstat_poolAt : (G.orFstat l x).poolAt = G.poolAt := rfl
@[simp] theorem Gang.orFstat_vbnd : (G.orFstat l x).vbnd = G.vbnd := rfl
@[simp] theorem Gang.orFstat_pool : (G.orFstat l x).pool = G.pool := rfl
@[simp] theorem Gang.orFstat_preds : (G.orFstat l x).preds = G.preds := rfl
@[simp] theorem Gang.orFstat_pcs : (G.orFstat l x).pcs = G.pcs := rfl
@[simp] theorem Gang.orFstat_depth : (G.orFstat l x).depth = G.depth := rfl
@[simp] theorem Gang.orFstat_lst : (G.orFstat l x).lst = G.lst := rfl
@[simp] theorem Gang.orFstat_ages : (G.orFstat l x).ages = G.ages := rfl
@[simp] theorem Gang.orFstat_since : (G.orFstat l x).since = G.since := rfl
@[simp] theorem Gang.orFstat_yields : (G.orFstat l x).yields = G.yields := rfl
@[simp] theorem Gang.orFstat_s : (G.orFstat l x).s = G.s := rfl
@[simp] theorem Gang.orFstat_m : (G.orFstat l x).m = G.m := rfl
@[simp] theorem Gang.orFstat_frames : (G.orFstat l x).frames = G.frames := rfl
@[simp] theorem Gang.orFstat_cstk : (G.orFstat l x).cstk = G.cstk := rfl
@[simp] theorem Gang.orFstat_pidx : (G.orFstat l x).pidx = G.pidx := rfl
@[simp] theorem Gang.orFstat_tcause : (G.orFstat l x).tcause = G.tcause := rfl
@[simp] theorem Gang.orFstat_tlanes : (G.orFstat l x).tlanes = G.tlanes := rfl
@[simp] theorem Gang.orFstat_taddr : (G.orFstat l x).taddr = G.taddr := rfl
@[simp] theorem Gang.orFstat_tpc : (G.orFstat l x).tpc = G.tpc := rfl
@[simp] theorem Gang.orFstat_tstat : (G.orFstat l x).tstat = G.tstat := rfl
@[simp] theorem Gang.orFstat_fmode : (G.orFstat l x).fmode = G.fmode := rfl
@[simp] theorem Gang.orFstat_hset : (G.orFstat l x).hset = G.hset := rfl
@[simp] theorem Gang.orFstat_stepArm : (G.orFstat l x).stepArm = G.stepArm := rfl
@[simp] theorem Gang.orFstat_stepped : (G.orFstat l x).stepped = G.stepped := rfl
@[simp] theorem Gang.orFstat_fenceId : (G.orFstat l x).fenceId = G.fenceId := rfl
@[simp] theorem Gang.orFstat_pend : (G.orFstat l x).pend = G.pend := rfl
@[simp] theorem Gang.orFstat_queue : (G.orFstat l x).queue = G.queue := rfl
@[simp] theorem Gang.orFstat_prog : (G.orFstat l x).prog = G.prog := rfl
@[simp] theorem Gang.orFstat_port : (G.orFstat l x).port = G.port := rfl
@[simp] theorem Gang.orFstat_stop : (G.orFstat l x).stop = G.stop := rfl
@[simp] theorem Gang.orFstat_failed : (G.orFstat l x).failed = G.failed := rfl
@[simp] theorem Gang.orFstat_conts : (G.orFstat l x).conts = G.conts := rfl
@[simp] theorem Gang.orFstat_lost : (G.orFstat l x).lost = G.lost := rfl
@[simp] theorem Gang.orFstat_bad : (G.orFstat l x).bad = G.bad := rfl
@[simp] theorem Gang.orFstat_asked : (G.orFstat l x).asked = G.asked := rfl
end

section
variable (G : Gang) (l : Nat) (x : W64)
@[simp] theorem Gang.setPc_width : (G.setPc l x).width = G.width := rfl
@[simp] theorem Gang.setPc_core : (G.setPc l x).core = G.core := rfl
@[simp] theorem Gang.setPc_slot : (G.setPc l x).slot = G.slot := rfl
@[simp] theorem Gang.setPc_base : (G.setPc l x).base = G.base := rfl
@[simp] theorem Gang.setPc_poolAt : (G.setPc l x).poolAt = G.poolAt := rfl
@[simp] theorem Gang.setPc_vbnd : (G.setPc l x).vbnd = G.vbnd := rfl
@[simp] theorem Gang.setPc_pool : (G.setPc l x).pool = G.pool := rfl
@[simp] theorem Gang.setPc_preds : (G.setPc l x).preds = G.preds := rfl
@[simp] theorem Gang.setPc_fstat : (G.setPc l x).fstat = G.fstat := rfl
@[simp] theorem Gang.setPc_depth : (G.setPc l x).depth = G.depth := rfl
@[simp] theorem Gang.setPc_lst : (G.setPc l x).lst = G.lst := rfl
@[simp] theorem Gang.setPc_ages : (G.setPc l x).ages = G.ages := rfl
@[simp] theorem Gang.setPc_since : (G.setPc l x).since = G.since := rfl
@[simp] theorem Gang.setPc_yields : (G.setPc l x).yields = G.yields := rfl
@[simp] theorem Gang.setPc_s : (G.setPc l x).s = G.s := rfl
@[simp] theorem Gang.setPc_m : (G.setPc l x).m = G.m := rfl
@[simp] theorem Gang.setPc_frames : (G.setPc l x).frames = G.frames := rfl
@[simp] theorem Gang.setPc_cstk : (G.setPc l x).cstk = G.cstk := rfl
@[simp] theorem Gang.setPc_pidx : (G.setPc l x).pidx = G.pidx := rfl
@[simp] theorem Gang.setPc_tcause : (G.setPc l x).tcause = G.tcause := rfl
@[simp] theorem Gang.setPc_tlanes : (G.setPc l x).tlanes = G.tlanes := rfl
@[simp] theorem Gang.setPc_taddr : (G.setPc l x).taddr = G.taddr := rfl
@[simp] theorem Gang.setPc_tpc : (G.setPc l x).tpc = G.tpc := rfl
@[simp] theorem Gang.setPc_tstat : (G.setPc l x).tstat = G.tstat := rfl
@[simp] theorem Gang.setPc_fmode : (G.setPc l x).fmode = G.fmode := rfl
@[simp] theorem Gang.setPc_hset : (G.setPc l x).hset = G.hset := rfl
@[simp] theorem Gang.setPc_stepArm : (G.setPc l x).stepArm = G.stepArm := rfl
@[simp] theorem Gang.setPc_stepped : (G.setPc l x).stepped = G.stepped := rfl
@[simp] theorem Gang.setPc_fenceId : (G.setPc l x).fenceId = G.fenceId := rfl
@[simp] theorem Gang.setPc_pend : (G.setPc l x).pend = G.pend := rfl
@[simp] theorem Gang.setPc_queue : (G.setPc l x).queue = G.queue := rfl
@[simp] theorem Gang.setPc_prog : (G.setPc l x).prog = G.prog := rfl
@[simp] theorem Gang.setPc_port : (G.setPc l x).port = G.port := rfl
@[simp] theorem Gang.setPc_stop : (G.setPc l x).stop = G.stop := rfl
@[simp] theorem Gang.setPc_failed : (G.setPc l x).failed = G.failed := rfl
@[simp] theorem Gang.setPc_conts : (G.setPc l x).conts = G.conts := rfl
@[simp] theorem Gang.setPc_lost : (G.setPc l x).lost = G.lost := rfl
@[simp] theorem Gang.setPc_bad : (G.setPc l x).bad = G.bad := rfl
@[simp] theorem Gang.setPc_asked : (G.setPc l x).asked = G.asked := rfl
end

section
variable (G : Gang) (l : Nat) (x : LaneState)
@[simp] theorem Gang.setLane_width : (G.setLane l x).width = G.width := rfl
@[simp] theorem Gang.setLane_core : (G.setLane l x).core = G.core := rfl
@[simp] theorem Gang.setLane_slot : (G.setLane l x).slot = G.slot := rfl
@[simp] theorem Gang.setLane_base : (G.setLane l x).base = G.base := rfl
@[simp] theorem Gang.setLane_poolAt : (G.setLane l x).poolAt = G.poolAt := rfl
@[simp] theorem Gang.setLane_vbnd : (G.setLane l x).vbnd = G.vbnd := rfl
@[simp] theorem Gang.setLane_pool : (G.setLane l x).pool = G.pool := rfl
@[simp] theorem Gang.setLane_preds : (G.setLane l x).preds = G.preds := rfl
@[simp] theorem Gang.setLane_fstat : (G.setLane l x).fstat = G.fstat := rfl
@[simp] theorem Gang.setLane_pcs : (G.setLane l x).pcs = G.pcs := rfl
@[simp] theorem Gang.setLane_depth : (G.setLane l x).depth = G.depth := rfl
@[simp] theorem Gang.setLane_ages : (G.setLane l x).ages = G.ages := rfl
@[simp] theorem Gang.setLane_since : (G.setLane l x).since = G.since := rfl
@[simp] theorem Gang.setLane_yields : (G.setLane l x).yields = G.yields := rfl
@[simp] theorem Gang.setLane_s : (G.setLane l x).s = G.s := rfl
@[simp] theorem Gang.setLane_m : (G.setLane l x).m = G.m := rfl
@[simp] theorem Gang.setLane_frames : (G.setLane l x).frames = G.frames := rfl
@[simp] theorem Gang.setLane_cstk : (G.setLane l x).cstk = G.cstk := rfl
@[simp] theorem Gang.setLane_pidx : (G.setLane l x).pidx = G.pidx := rfl
@[simp] theorem Gang.setLane_tcause : (G.setLane l x).tcause = G.tcause := rfl
@[simp] theorem Gang.setLane_tlanes : (G.setLane l x).tlanes = G.tlanes := rfl
@[simp] theorem Gang.setLane_taddr : (G.setLane l x).taddr = G.taddr := rfl
@[simp] theorem Gang.setLane_tpc : (G.setLane l x).tpc = G.tpc := rfl
@[simp] theorem Gang.setLane_tstat : (G.setLane l x).tstat = G.tstat := rfl
@[simp] theorem Gang.setLane_fmode : (G.setLane l x).fmode = G.fmode := rfl
@[simp] theorem Gang.setLane_hset : (G.setLane l x).hset = G.hset := rfl
@[simp] theorem Gang.setLane_stepArm : (G.setLane l x).stepArm = G.stepArm := rfl
@[simp] theorem Gang.setLane_stepped : (G.setLane l x).stepped = G.stepped := rfl
@[simp] theorem Gang.setLane_fenceId : (G.setLane l x).fenceId = G.fenceId := rfl
@[simp] theorem Gang.setLane_pend : (G.setLane l x).pend = G.pend := rfl
@[simp] theorem Gang.setLane_queue : (G.setLane l x).queue = G.queue := rfl
@[simp] theorem Gang.setLane_prog : (G.setLane l x).prog = G.prog := rfl
@[simp] theorem Gang.setLane_port : (G.setLane l x).port = G.port := rfl
@[simp] theorem Gang.setLane_stop : (G.setLane l x).stop = G.stop := rfl
@[simp] theorem Gang.setLane_failed : (G.setLane l x).failed = G.failed := rfl
@[simp] theorem Gang.setLane_conts : (G.setLane l x).conts = G.conts := rfl
@[simp] theorem Gang.setLane_lost : (G.setLane l x).lost = G.lost := rfl
@[simp] theorem Gang.setLane_bad : (G.setLane l x).bad = G.bad := rfl
@[simp] theorem Gang.setLane_asked : (G.setLane l x).asked = G.asked := rfl
end

section
variable (G : Gang) (l n : Nat)
@[simp] theorem Gang.setDepth_width : (G.setDepth l n).width = G.width := rfl
@[simp] theorem Gang.setDepth_core : (G.setDepth l n).core = G.core := rfl
@[simp] theorem Gang.setDepth_slot : (G.setDepth l n).slot = G.slot := rfl
@[simp] theorem Gang.setDepth_base : (G.setDepth l n).base = G.base := rfl
@[simp] theorem Gang.setDepth_poolAt : (G.setDepth l n).poolAt = G.poolAt := rfl
@[simp] theorem Gang.setDepth_vbnd : (G.setDepth l n).vbnd = G.vbnd := rfl
@[simp] theorem Gang.setDepth_pool : (G.setDepth l n).pool = G.pool := rfl
@[simp] theorem Gang.setDepth_preds : (G.setDepth l n).preds = G.preds := rfl
@[simp] theorem Gang.setDepth_fstat : (G.setDepth l n).fstat = G.fstat := rfl
@[simp] theorem Gang.setDepth_pcs : (G.setDepth l n).pcs = G.pcs := rfl
@[simp] theorem Gang.setDepth_lst : (G.setDepth l n).lst = G.lst := rfl
@[simp] theorem Gang.setDepth_ages : (G.setDepth l n).ages = G.ages := rfl
@[simp] theorem Gang.setDepth_since : (G.setDepth l n).since = G.since := rfl
@[simp] theorem Gang.setDepth_yields : (G.setDepth l n).yields = G.yields := rfl
@[simp] theorem Gang.setDepth_s : (G.setDepth l n).s = G.s := rfl
@[simp] theorem Gang.setDepth_m : (G.setDepth l n).m = G.m := rfl
@[simp] theorem Gang.setDepth_frames : (G.setDepth l n).frames = G.frames := rfl
@[simp] theorem Gang.setDepth_cstk : (G.setDepth l n).cstk = G.cstk := rfl
@[simp] theorem Gang.setDepth_pidx : (G.setDepth l n).pidx = G.pidx := rfl
@[simp] theorem Gang.setDepth_tcause : (G.setDepth l n).tcause = G.tcause := rfl
@[simp] theorem Gang.setDepth_tlanes : (G.setDepth l n).tlanes = G.tlanes := rfl
@[simp] theorem Gang.setDepth_taddr : (G.setDepth l n).taddr = G.taddr := rfl
@[simp] theorem Gang.setDepth_tpc : (G.setDepth l n).tpc = G.tpc := rfl
@[simp] theorem Gang.setDepth_tstat : (G.setDepth l n).tstat = G.tstat := rfl
@[simp] theorem Gang.setDepth_fmode : (G.setDepth l n).fmode = G.fmode := rfl
@[simp] theorem Gang.setDepth_hset : (G.setDepth l n).hset = G.hset := rfl
@[simp] theorem Gang.setDepth_stepArm : (G.setDepth l n).stepArm = G.stepArm := rfl
@[simp] theorem Gang.setDepth_stepped : (G.setDepth l n).stepped = G.stepped := rfl
@[simp] theorem Gang.setDepth_fenceId : (G.setDepth l n).fenceId = G.fenceId := rfl
@[simp] theorem Gang.setDepth_pend : (G.setDepth l n).pend = G.pend := rfl
@[simp] theorem Gang.setDepth_queue : (G.setDepth l n).queue = G.queue := rfl
@[simp] theorem Gang.setDepth_prog : (G.setDepth l n).prog = G.prog := rfl
@[simp] theorem Gang.setDepth_port : (G.setDepth l n).port = G.port := rfl
@[simp] theorem Gang.setDepth_stop : (G.setDepth l n).stop = G.stop := rfl
@[simp] theorem Gang.setDepth_failed : (G.setDepth l n).failed = G.failed := rfl
@[simp] theorem Gang.setDepth_conts : (G.setDepth l n).conts = G.conts := rfl
@[simp] theorem Gang.setDepth_lost : (G.setDepth l n).lost = G.lost := rfl
@[simp] theorem Gang.setDepth_bad : (G.setDepth l n).bad = G.bad := rfl
@[simp] theorem Gang.setDepth_asked : (G.setDepth l n).asked = G.asked := rfl
end

section
variable (G : Gang) (l n : Nat)
@[simp] theorem Gang.setAge_width : (G.setAge l n).width = G.width := rfl
@[simp] theorem Gang.setAge_core : (G.setAge l n).core = G.core := rfl
@[simp] theorem Gang.setAge_slot : (G.setAge l n).slot = G.slot := rfl
@[simp] theorem Gang.setAge_base : (G.setAge l n).base = G.base := rfl
@[simp] theorem Gang.setAge_poolAt : (G.setAge l n).poolAt = G.poolAt := rfl
@[simp] theorem Gang.setAge_vbnd : (G.setAge l n).vbnd = G.vbnd := rfl
@[simp] theorem Gang.setAge_pool : (G.setAge l n).pool = G.pool := rfl
@[simp] theorem Gang.setAge_preds : (G.setAge l n).preds = G.preds := rfl
@[simp] theorem Gang.setAge_fstat : (G.setAge l n).fstat = G.fstat := rfl
@[simp] theorem Gang.setAge_pcs : (G.setAge l n).pcs = G.pcs := rfl
@[simp] theorem Gang.setAge_depth : (G.setAge l n).depth = G.depth := rfl
@[simp] theorem Gang.setAge_lst : (G.setAge l n).lst = G.lst := rfl
@[simp] theorem Gang.setAge_since : (G.setAge l n).since = G.since := rfl
@[simp] theorem Gang.setAge_yields : (G.setAge l n).yields = G.yields := rfl
@[simp] theorem Gang.setAge_s : (G.setAge l n).s = G.s := rfl
@[simp] theorem Gang.setAge_m : (G.setAge l n).m = G.m := rfl
@[simp] theorem Gang.setAge_frames : (G.setAge l n).frames = G.frames := rfl
@[simp] theorem Gang.setAge_cstk : (G.setAge l n).cstk = G.cstk := rfl
@[simp] theorem Gang.setAge_pidx : (G.setAge l n).pidx = G.pidx := rfl
@[simp] theorem Gang.setAge_tcause : (G.setAge l n).tcause = G.tcause := rfl
@[simp] theorem Gang.setAge_tlanes : (G.setAge l n).tlanes = G.tlanes := rfl
@[simp] theorem Gang.setAge_taddr : (G.setAge l n).taddr = G.taddr := rfl
@[simp] theorem Gang.setAge_tpc : (G.setAge l n).tpc = G.tpc := rfl
@[simp] theorem Gang.setAge_tstat : (G.setAge l n).tstat = G.tstat := rfl
@[simp] theorem Gang.setAge_fmode : (G.setAge l n).fmode = G.fmode := rfl
@[simp] theorem Gang.setAge_hset : (G.setAge l n).hset = G.hset := rfl
@[simp] theorem Gang.setAge_stepArm : (G.setAge l n).stepArm = G.stepArm := rfl
@[simp] theorem Gang.setAge_stepped : (G.setAge l n).stepped = G.stepped := rfl
@[simp] theorem Gang.setAge_fenceId : (G.setAge l n).fenceId = G.fenceId := rfl
@[simp] theorem Gang.setAge_pend : (G.setAge l n).pend = G.pend := rfl
@[simp] theorem Gang.setAge_queue : (G.setAge l n).queue = G.queue := rfl
@[simp] theorem Gang.setAge_prog : (G.setAge l n).prog = G.prog := rfl
@[simp] theorem Gang.setAge_port : (G.setAge l n).port = G.port := rfl
@[simp] theorem Gang.setAge_stop : (G.setAge l n).stop = G.stop := rfl
@[simp] theorem Gang.setAge_failed : (G.setAge l n).failed = G.failed := rfl
@[simp] theorem Gang.setAge_conts : (G.setAge l n).conts = G.conts := rfl
@[simp] theorem Gang.setAge_lost : (G.setAge l n).lost = G.lost := rfl
@[simp] theorem Gang.setAge_bad : (G.setAge l n).bad = G.bad := rfl
@[simp] theorem Gang.setAge_asked : (G.setAge l n).asked = G.asked := rfl
end

section
variable (T : Team) (g : Nat) (G : Gang)
@[simp] theorem Team.setGang_ctx : (T.setGang g G).ctx = T.ctx := rfl
@[simp] theorem Team.setGang_ref : (T.setGang g G).ref = T.ref := rfl
@[simp] theorem Team.setGang_launch : (T.setGang g G).launch = T.launch := rfl
@[simp] theorem Team.setGang_index : (T.setGang g G).index = T.index := rfl
@[simp] theorem Team.setGang_state : (T.setGang g G).state = T.state := rfl
@[simp] theorem Team.setGang_die : (T.setGang g G).die = T.die := rfl
@[simp] theorem Team.setGang_core : (T.setGang g G).core = T.core := rfl
@[simp] theorem Team.setGang_serial : (T.setGang g G).serial = T.serial := rfl
@[simp] theorem Team.setGang_grid : (T.setGang g G).grid = T.grid := rfl
@[simp] theorem Team.setGang_flips : (T.setGang g G).flips = T.flips := rfl
@[simp] theorem Team.setGang_copies : (T.setGang g G).copies = T.copies := rfl
@[simp] theorem Team.setGang_saveKey : (T.setGang g G).saveKey = T.saveKey := rfl
@[simp] theorem Team.setGang_f : (T.setGang g G).f = T.f := rfl
@[simp] theorem Team.setGang_tiles : (T.setGang g G).tiles = T.tiles := rfl
@[simp] theorem Team.setGang_bars : (T.setGang g G).bars = T.bars := rfl
@[simp] theorem Team.setGang_scratch : (T.setGang g G).scratch = T.scratch := rfl
@[simp] theorem Team.setGang_shadow : (T.setGang g G).shadow = T.shadow := rfl
@[simp] theorem Team.setGang_poison : (T.setGang g G).poison = T.poison := rfl
@[simp] theorem Team.setGang_shPoison : (T.setGang g G).shPoison = T.shPoison := rfl
@[simp] theorem Team.setGang_child : (T.setGang g G).child = T.child := rfl
@[simp] theorem Team.setGang_handle : (T.setGang g G).handle = T.handle := rfl
@[simp] theorem Team.setGang_args : (T.setGang g G).args = T.args := rfl
@[simp] theorem Team.setGang_imgAddr : (T.setGang g G).imgAddr = T.imgAddr := rfl
@[simp] theorem Team.setGang_ret : (T.setGang g G).ret = T.ret := rfl
@[simp] theorem Team.setGang_stopReq : (T.setGang g G).stopReq = T.stopReq := rfl
@[simp] theorem Team.setGang_saveOff : (T.setGang g G).saveOff = T.saveOff := rfl
@[simp] theorem Team.setGang_reason : (T.setGang g G).reason = T.reason := rfl
@[simp] theorem Team.setGang_trapGang : (T.setGang g G).trapGang = T.trapGang := rfl
@[simp] theorem Team.setGang_order : (T.setGang g G).order = T.order := rfl
@[simp] theorem Team.setGang_classIn : (T.setGang g G).classIn = T.classIn := rfl
@[simp] theorem Team.setGang_placed : (T.setGang g G).placed = T.placed := rfl
@[simp] theorem Team.setGang_flush : (T.setGang g G).flush = T.flush := rfl
@[simp] theorem Team.setGang_resFrom : (T.setGang g G).resFrom = T.resFrom := rfl
@[simp] theorem Team.setGang_tried : (T.setGang g G).tried = T.tried := rfl
end

end Sys2Proof.Machine
end

