-- ==== Sys2Proof/Laws/Units.lean ====
section
/-! SUPPORT. Reading back what an update wrote: registers of a gang, and the units of the package. -/

namespace Sys2Proof.Machine

/-! ### Units -/

@[simp] theorem State.team_setTeam (s : State) (t : Nat) (T : Team) : (s.setTeam t T).team t = T := by simp [State.team, State.setTeam]
theorem State.team_setTeam_ne (s : State) {t u : Nat} (h : u ≠ t) (T : Team) : (s.setTeam t T).team u = s.team u := by
  simp [State.team, State.setTeam, tget_tput_ne _ _ h]
@[simp] theorem Team.gang_setGang (T : Team) (g : Nat) (G : Gang) : (T.setGang g G).gang g = G := by simp [Team.gang, Team.setGang]
theorem Team.gang_setGang_ne (T : Team) {g h : Nat} (e : h ≠ g) (G : Gang) : (T.setGang g G).gang h = T.gang h := by
  simp [Team.gang, Team.setGang, tget_tput_ne _ _ e]
@[simp] theorem Team.setGang_setGang (T : Team) (g : Nat) (G H : Gang) : (T.setGang g G).setGang g H = T.setGang g H := by
  simp [Team.setGang]
@[simp] theorem State.setTeam_setTeam (s : State) (t : Nat) (T U : Team) : (s.setTeam t T).setTeam t U = s.setTeam t U := by
  simp [State.setTeam]
@[simp] theorem State.gang_setGang (s : State) (t g : Nat) (G : Gang) : (s.setGang t g G).gang t g = G := by
  simp [State.gang, State.setGang, State.modTeam]
@[simp] theorem State.setGang_setGang (s : State) (t g : Nat) (G H : Gang) : (s.setGang t g G).setGang t g H = s.setGang t g H := by
  simp [State.setGang, State.modTeam]
@[simp] theorem State.curGang_setCur (s : State) (G : Gang) : (s.setCur G).curGang = G := by
  simp [State.curGang, State.setCur, State.setGang, State.modTeam, State.gang, State.setTeam, State.team]
@[simp] theorem State.setCur_setCur (s : State) (G H : Gang) : (s.setCur G).setCur H = s.setCur H := by
  simp [State.setCur, State.setGang, State.modTeam, State.setTeam, State.team]
@[simp] theorem State.curTeam_setCur (s : State) (G : Gang) : (s.setCur G).curTeam = s.curTeam.setGang s.cur.gang G := by
  simp [State.curTeam, State.setCur, State.setGang, State.modTeam, State.setTeam, State.team]
theorem State.runLanes_setCur (s : State) (G : Gang) : (s.setCur G).runLanes = lanesOf s.cur.lanes G.width := by simp [State.runLanes]
@[simp] theorem State.core_setCore (s : State) (c : Nat) (C : Core) : (s.setCore c C).core c = C := by simp [State.core, State.setCore]
theorem State.core_setCore_ne (s : State) {c d : Nat} (h : d ≠ c) (C : Core) : (s.setCore c C).core d = s.core d := by
  simp [State.core, State.setCore, tget_tput_ne _ _ h]
@[simp] theorem State.core_modCore (s : State) (c : Nat) (f : Core → Core) : (s.modCore c f).core c = f (s.core c) := by
  simp [State.modCore]
@[simp] theorem State.core_setCur (s : State) (G : Gang) (c : Nat) : (s.setCur G).core c = s.core c := rfl
@[simp] theorem State.dieOf_setCur (s : State) (G : Gang) (d : Nat) : (s.setCur G).dieOf d = s.dieOf d := rfl
@[simp] theorem State.ctx_setCur (s : State) (G : Gang) (c : Nat) : (s.setCur G).ctx c = s.ctx c := rfl
@[simp] theorem State.part_setCur (s : State) (G : Gang) (c : Nat) : (s.setCur G).part c = s.part c := rfl
@[simp] theorem State.cluster_modCluster (s : State) (c : Nat) (f : Cluster → Cluster) : (s.modCluster c f).cluster c = f (s.cluster c) := by
  simp [State.cluster, State.modCluster]
@[simp] theorem State.dieOf_modDie (s : State) (d : Nat) (f : Die → Die) : (s.modDie d f).dieOf d = f (s.dieOf d) := by
  simp [State.dieOf, State.modDie]
@[simp] theorem State.slice_modSlice (s : State) (n : Nat) (f : Slice → Slice) : (s.modSlice n f).slice n = f (s.slice n) := by
  simp [State.slice, State.modSlice]
@[simp] theorem State.future_modFuture (s : State) (n : Nat) (f : FutEntry → FutEntry) : (s.modFuture n f).future n = f (s.future n) := by
  simp [State.future, State.modFuture]
@[simp] theorem State.part_modPart (s : State) (p : Nat) (f : Part → Part) : (s.modPart p f).part p = f (s.part p) := by
  simp [State.part, State.modPart]
@[simp] theorem State.ctx_modCtx (s : State) (c : Nat) (f : Context → Context) : (s.modCtx c f).ctx c = f (s.ctx c) := by
  simp [State.ctx, State.modCtx]
@[simp] theorem State.func_modFunc (s : State) (n : Nat) (f : Func → Func) : (s.modFunc n f).func n = f (s.func n) := by
  simp [State.func, State.modFunc]
@[simp] theorem State.quarter_modQuarter (s : State) (q : Nat) (f : Quarter → Quarter) : (s.modQuarter q f).quarter q = f (s.quarter q) := by
  simp [State.quarter, State.modQuarter]

/-! ### Lanes -/

theorem mem_lanesOf {m : LaneMask} {w l : Nat} : l ∈ lanesOf m w ↔ l < w ∧ m.getLsbD l = true := by
  simp [lanesOf, upto]
theorem lanesOf_lt {m : LaneMask} {w l : Nat} (h : l ∈ lanesOf m w) : l < 64 := by
  have := (mem_lanesOf.mp h).2
  exact BitVec.lt_of_getLsbD this
theorem lanesOf_nodup (m : LaneMask) (w : Nat) : (lanesOf m w).Nodup := List.Nodup.filter _ List.nodup_range
theorem State.runLanes_lt {s : State} {l : Nat} (h : l ∈ s.runLanes) : l < 64 := lanesOf_lt h
theorem State.runLanes_nodup (s : State) : s.runLanes.Nodup := lanesOf_nodup _ _
theorem State.active_sub {s : State} {g : Grd} {l : Nat} (h : l ∈ s.active g) : l ∈ s.runLanes := (List.mem_filter.mp h).1
theorem State.active_lt {s : State} {g : Grd} {l : Nat} (h : l ∈ s.active g) : l < 64 := State.runLanes_lt (State.active_sub h)
theorem State.active_nodup (s : State) (g : Grd) : (s.active g).Nodup := List.Nodup.filter _ s.runLanes_nodup
theorem State.active_none (s : State) : s.active none = s.runLanes := by simp [State.active, guardHolds]

/-! ### Registers -/

theorem poolKey_inj {l r l' r' : Nat} (h : l < 64) (h' : l' < 64) : poolKey l r = poolKey l' r' ↔ l = l' ∧ r = r' := by
  unfold poolKey; omega
@[simp] theorem Gang.readV_writeV_same (G : Gang) (l r : Nat) (x : W32) : (G.writeV l r x).readV l r = x := by
  simp [Gang.readV, Gang.writeV]
theorem Gang.readV_writeV_ne (G : Gang) {l r l' r' : Nat} (h : l < 64) (h' : l' < 64) (e : ¬(l' = l ∧ r' = r)) (x : W32) :
    (G.writeV l r x).readV l' r' = G.readV l' r' := by
  simp only [Gang.readV, Gang.writeV]
  exact tget_tset_ne _ _ (fun hk => e ((poolKey_inj h' h).mp hk)) _
@[simp] theorem Gang.readS_writeS_same (G : Gang) (r : Nat) (x : W64) : (G.writeS r x).readS r = x := by simp [Gang.readS, Gang.writeS]
theorem Gang.readS_writeS_ne (G : Gang) {r r' : Nat} (h : r' ≠ r) (x : W64) : (G.writeS r x).readS r' = G.readS r' := by
  simp [Gang.readS, Gang.writeS, tget_tset_ne _ _ h]
@[simp] theorem Gang.readV_writeS (G : Gang) (r : Nat) (x : W64) (l n : Nat) : (G.writeS r x).readV l n = G.readV l n := rfl
@[simp] theorem Gang.readS_writeV (G : Gang) (l r : Nat) (x : W32) (n : Nat) : (G.writeV l r x).readS n = G.readS n := rfl
@[simp] theorem Gang.readK_writeV (G : Gang) (l r : Nat) (x : W32) (j k : Nat) : (G.writeV l r x).readK j k = G.readK j k := rfl
@[simp] theorem Gang.readK_writeS (G : Gang) (r : Nat) (x : W64) (j k : Nat) : (G.writeS r x).readK j k = G.readK j k := rfl
@[simp] theorem Gang.readV_writeK (G : Gang) (l k : Nat) (b : Bool) (j n : Nat) : (G.writeK l k b).readV j n = G.readV j n := rfl
@[simp] theorem Gang.readS_writeK (G : Gang) (l k : Nat) (b : Bool) (n : Nat) : (G.writeK l k b).readS n = G.readS n := rfl
@[simp] theorem Gang.readM_writeM_same (G : Gang) (k : Nat) (x : W64) : (G.writeM k x).readM k = x &&& widthMask G.width := by
  simp [Gang.readM, Gang.writeM, BitVec.and_assoc]
theorem Gang.readM_writeM_ne (G : Gang) {k j : Nat} (h : j ≠ k) (x : W64) : (G.writeM k x).readM j = G.readM j := by
  simp [Gang.readM, Gang.writeM, tget_tset_ne _ _ h]
@[simp] theorem Gang.pc_setPc_same (G : Gang) (l : Nat) (x : W64) : (G.setPc l x).pc l = x := by simp [Gang.pc, Gang.setPc]
theorem Gang.pc_setPc_ne (G : Gang) {l j : Nat} (h : j ≠ l) (x : W64) : (G.setPc l x).pc j = G.pc j := by
  simp [Gang.pc, Gang.setPc, tget_tset_ne _ _ h]
@[simp] theorem Gang.laneState_setLane_same (G : Gang) (l : Nat) (x : LaneState) : (G.setLane l x).laneState l = x := by
  simp [Gang.laneState, Gang.setLane]
theorem Gang.laneState_setLane_ne (G : Gang) {l j : Nat} (h : j ≠ l) (x : LaneState) : (G.setLane l x).laneState j = G.laneState j := by
  simp [Gang.laneState, Gang.setLane, tget_tset_ne _ _ h]
@[simp] theorem Gang.readFstat_writeFstat_same (G : Gang) (l : Nat) (x : BitVec 5) : (G.writeFstat l x).readFstat l = x := by
  simp [Gang.readFstat, Gang.writeFstat]
theorem Gang.readFstat_writeFstat_ne (G : Gang) {l j : Nat} (h : j ≠ l) (x : BitVec 5) : (G.writeFstat l x).readFstat j = G.readFstat j := by
  simp [Gang.readFstat, Gang.writeFstat, tget_tset_ne _ _ h]

theorem setBit16_same (w : BitVec 16) {k : Nat} (h : k < 16) (b : Bool) : (setBit16 w k b).getLsbD k = b := by
  unfold setBit16
  cases b <;> simp [h]
theorem setBit16_ne (w : BitVec 16) {k j : Nat} (h : j ≠ k) (b : Bool) : (setBit16 w k b).getLsbD j = w.getLsbD j := by
  unfold setBit16
  rcases Nat.lt_trichotomy j k with hj | hj | hj
  · cases b <;> by_cases h16 : j < 16 <;> simp [hj, h16]
    exact BitVec.getLsbD_of_ge _ _ (by omega)
  · exact absurd hj h
  · have h0 : j - k ≠ 0 := by omega
    cases b <;> by_cases h16 : j < 16 <;> simp [h16, h0, Nat.not_lt_of_gt hj]
    exact BitVec.getLsbD_of_ge _ _ (by omega)
@[simp] theorem Gang.readK_writeK_same (G : Gang) (l : Nat) {k : Nat} (h : k < 16) (b : Bool) : (G.writeK l k b).readK l k = b := by
  simp only [Gang.readK, Gang.predWord, Gang.writeK, tget_tset_same]
  exact setBit16_same _ h b
theorem Gang.readK_writeK_ne (G : Gang) {l k l' k' : Nat} (e : ¬(l' = l ∧ k' = k)) (b : Bool) :
    (G.writeK l k b).readK l' k' = G.readK l' k' := by
  simp only [Gang.readK, Gang.predWord, Gang.writeK]
  by_cases h : l' = l
  · subst h
    rw [tget_tset_same]
    exact setBit16_ne _ (fun hk => e ⟨rfl, hk⟩) b
  · rw [tget_tset_ne _ _ h]

/-- A pair reads back whole. -/
@[simp] theorem Gang.readPair_writePair (G : Gang) {l : Nat} (h : l < 64) (r : Nat) (x : W64) : (G.writePair l r x).readPair l r = x := by
  unfold Gang.readPair Gang.writePair
  rw [Gang.readV_writeV_same, Gang.readV_writeV_ne _ h h (by omega), Gang.readV_writeV_same]
  apply BitVec.eq_of_getLsbD_eq
  intro i hi
  rw [BitVec.getLsbD_append]
  by_cases h32 : i < 32
  · simp [h32]
  · have : 32 + (i - 32) = i := by omega
    simp [h32, this]; omega
theorem Gang.readV_writePair_ne (G : Gang) {l r l' r' : Nat} (h : l < 64) (h' : l' < 64) (e : ¬(l' = l ∧ (r' = r ∨ r' = r + 1))) (x : W64) :
    (G.writePair l r x).readV l' r' = G.readV l' r' := by
  unfold Gang.writePair
  rw [Gang.readV_writeV_ne _ h h' (by omega), Gang.readV_writeV_ne _ h h' (by omega)]

end Sys2Proof.Machine
end

