-- ==== Sys2Proof/Laws/Ops.lean ====
section
/-! SUPPORT. What each shared operation of a word does: holding, ending, pending results, stores, and the taking of a trap. -/

namespace Sys2Proof.Machine

/-! ### Running a word -/

/-- A word is held, is trapped, or does what its own body says. -/
theorem runWord_cases (i : Instr) (s : State) (body : State → Out) :
    (s.curGang.waits s.runLanes i = true ∧ runWord i s body = .next { s with note := .held }) ∨
    (s.curGang.waits s.runLanes i = false ∧ ∃ x, s.precheck i = some x ∧ runWord i s body = .next (s.trapRun x)) ∨
    (s.clear i = true ∧ runWord i s body = body s) := by
  unfold runWord State.clear
  cases hw : s.curGang.waits s.runLanes i with
  | true => simp [State.hold]
  | false =>
    cases hp : s.precheck i with
    | none => simp
    | some x => simp

/-- Check 4 of R77 comes first. -/
theorem precheck_illegal (s : State) (i : Instr) (h : i.refs.all (Ref.legal s.curTeam.launch s.curGang) = false) :
    s.precheck i = some (trapAll s.runLanes 1 0 i) := by
  simp [State.precheck, h]

/-! ### The end of a word -/

theorem State.finish_eq (s : State) (e : Bool) :
    s.finish e = s.setCur (s.curGang.closeWord s.runLanes e (fun _ => s.cur.pc + 8)) := rfl

/-- Outside a `rep` sequence the end of a word moves the PCs of its run and counts its windows. -/
theorem Gang.closeWord_plain (G : Gang) (run : List Nat) (e : Bool) (f : Nat → W64)
    (h : ∀ n a b c d m, G.prog ≠ some (.rep n a b c d m)) :
    G.closeWord run e f =
      (({ G with prog := none, failed := [] } : Gang).eachLane run (fun G l => G.setPc l (f l))).countWindows run e := by
  unfold Gang.closeWord
  split
  · rename_i n a b c d m hp
    exact absurd hp (h _ _ _ _ _ _)
  · rfl

/-- A repetition that is not the last leaves the run at its prefix; windows end where its word ends them (R86). -/
theorem Gang.closeWord_rep (G : Gang) (run : List Nat) (e : Bool) (f : Nat → W64) {n a b c d : Nat} {m : LaneMask}
    (h : G.prog = some (.rep n a b c d m)) (hn : G.pidx.toNat + 1 < n) :
    G.closeWord run e f =
      if e then ({ G with pidx := G.pidx + 1, failed := [] } : Gang).countWindows run true else { G with pidx := G.pidx + 1, failed := [] } := by
  simp [Gang.closeWord, h, hn]

/-! ### Results -/

theorem State.results_zero (s : State) (regs : List Reg) (ws : List RegWrite) :
    s.results 0 regs ws [] = (s.setCur (s.curGang.applyWrites ws)).finish false := by
  simp [State.results]
theorem State.results_window (s : State) {la : Nat} (h : la ≠ 0) (regs : List Reg) (ws : List RegWrite) (fl : Tbl Flg) :
    s.results la regs ws fl = s.openWindow la regs .data ws fl none := by
  simp [State.results, h]
theorem State.nextId_openWindow (s : State) (la : Nat) (regs : List Reg) (kind : PendKind) (ws : List RegWrite) (fl : Tbl Flg)
    (ecc : Option (LaneMask × W64)) : (s.openWindow la regs kind ws fl ecc).nextId = s.nextId + 1 := rfl

/-- Only a load of global memory may take effect later than it issues (R389). -/
theorem State.mayReread_local (s : State) (la : BitVec 4) (m : MemOp) (vec sgn : Bool) (locs : List (Nat × Loc)) (h : m.sp ≠ .glob) :
    s.mayReread la m vec sgn locs = s := by
  simp [State.mayReread, h]
/-- A result that reads nothing anew arrives as it is. -/
theorem State.reread_none (s : State) (t g : Nat) {p : Pend} (h : p.again = none) : s.reread t g p = s := by
  simp [State.reread, h]
/-- R389: all that a rereading can do: the counter of free values moves on, and the pending writes become what memory holds now, or stay. -/
theorem State.reread_some (s : State) (t g : Nat) {p : Pend} {r : Reread} (h : p.again = some r) :
    s.reread t g p = { s with fuel := s.fuel + 1 } ∨
    s.reread t g p = ({ s with fuel := s.fuel + 1 } : State).modGang t g (fun G =>
      { G with pend := G.pend.map (fun q => if q.id = p.id then { q with writes := r.writes { s with fuel := s.fuel + 1 } G } else q) }) := by
  unfold State.reread
  rw [h]
  dsimp only [State.free]
  split
  · exact Or.inr rfl
  · exact Or.inl rfl

/-! ### Stores -/

theorem State.enqueue_nil (s : State) (t g : Nat) : s.enqueue t g [] = s := rfl
theorem State.enqueue_queue (s : State) (t g : Nat) {ws : SqEntry} (h : ws ≠ []) :
    ((s.enqueue t g ws).gang t g).queue = (s.gang t g).queue ++ [ws] := by
  cases ws with
  | nil => exact absurd rfl h
  | cons w r => simp [State.enqueue, State.modGang]

/-! ### Traps (R261 to R265) -/

/-- R265: a trap whose handler is in the package: the trap registers of its gang are written, the live lanes of its run are
at the handler with age zero, and no other team changes. -/
theorem State.deliver_handler (s : State) (t g : Nat) (run : List Nat) (pc : W64) (x : TrapRec)
    (h : s.handlerOf (s.team t).ctx ((s.team t).gang g).level (lowestCause x.causes) ≠ 3) :
    ∃ H, s.deliver t g run pc x = (s.latchWdog (s.team t).ctx).setTeam t ((s.team t).setGang g H) := by
  unfold State.deliver
  exact ⟨_, if_neg h⟩

/-- R265: a trap without a handler asks that its team be saved; the host is told once it is (R276). -/
theorem State.deliver_host (s : State) (t g : Nat) (run : List Nat) (pc : W64) (x : TrapRec)
    (h : s.handlerOf (s.team t).ctx ((s.team t).gang g).level (lowestCause x.causes) = 3) :
    ∃ H : Gang, H.stop = .saved ∧ s.deliver t g run pc x =
      (s.latchWdog (s.team t).ctx).setTeam t { (s.team t).setGang g H with
        stopReq := some ((s.team t).trapRequest g (if ((s.team t).gang g).level = 2 then 7 else 6)
          (s.latchWdog (s.team t).ctx).time) } := by
  unfold State.deliver
  exact ⟨_, rfl, if_pos h⟩

/-! ### Access checks -/

theorem State.checkLanes_nil (s : State) (t g : Nat) (sp : Space) (sz : Nat) (acc : Access) :
    s.checkLanes t g sp sz acc [] = { st := s } := rfl

/-- R165: where no lane has a cause, the accesses follow. -/
theorem Checked.settle_ok (C : Checked) (h : C.causes = []) (i : Instr) (acc : Access) (all : Option (List Nat))
    (body : State → List (Nat × Loc) → Out) : C.settle i acc all body = body C.st C.locs := by
  simp [Checked.settle, h]

/-- R155, R156: a scratch access is checked against the team's space and its alignment alone. -/
theorem State.checkAccess_scratch (s : State) (t g : Nat) {a : Int} (sz : Nat) (acc : Access) (h0 : 0 ≤ a)
    (h1 : a < (s.team t).launch.scratchSpace) (h2 : a.toNat % sz = 0) :
    s.checkAccess t g .scratch a sz acc = (s, .ok (.scr a.toNat)) := by
  simp [State.checkAccess, Int.not_lt.mpr h0, Int.not_le.mpr h1, h2]

end Sys2Proof.Machine
end

