-- ==== Sys2Proof/Laws/PerInstr.lean ====
section
/-! SUPPORT. The family `RoundTrip`, one lemma per constructor: an encodable instruction is what the decoder reads from its
word. -/

namespace Sys2Proof.Laws.RoundTrip

set_option maxRecDepth 4000
set_option linter.unusedSimpArgs false
set_option linter.unusedTactic false
set_option linter.unreachableTactic false
set_option linter.unusedVariables false

/-- What the decoder reads from the word of an encodable instruction, if it has one, is that instruction. -/
def Statement (i : Instr) : Prop :=
  encodable i = true → ((memOf i).all (fun m => m.ord.encodable)) = true → ∀ w, encode i = some w → decode w = .ok i

/-- A term that is no word has none. -/
theorem none_case {i : Instr} (h : encode i = none) : Statement i := by
  intro _ _ w hw
  rw [h] at hw
  cases hw

theorem nop (g) : Statement (.nop g) := by
  intro h _ w hw
  unfold encodable at h
  obtain rfl := Option.some.inj hw
  rw [decode_join, decodeFields_of, decodeOp_01]
  simp +decide [decOp01, word, Grd] at h ⊢ <;> try simp_all +decide
theorem bra (g off) : Statement (.bra g off) := by
  intro h _ w hw
  unfold encodable at h
  obtain rfl := Option.some.inj hw
  rw [decode_join, decodeFields_of, decodeOp_02]
  simp +decide [decOp02, word, Grd] at h ⊢ <;> try simp_all +decide
theorem brx (g a) : Statement (.brx g a) := by
  intro h _ w hw
  unfold encodable at h
  obtain rfl := Option.some.inj hw
  rw [decode_join, decodeFields_of, decodeOp_03]
  simp +decide [decOp03, word, Grd] at h ⊢ <;> try simp_all +decide
theorem call (g off) : Statement (.call g off) := by
  intro h _ w hw
  unfold encodable at h
  obtain rfl := Option.some.inj hw
  rw [decode_join, decodeFields_of, decodeOp_04]
  simp +decide [decOp04, word, Grd] at h ⊢ <;> try simp_all +decide
theorem callv (g a) : Statement (.callv g a) := by
  intro h _ w hw
  unfold encodable at h
  obtain rfl := Option.some.inj hw
  rw [decode_join, decodeFields_of, decodeOp_05]
  simp +decide [decOp05, word, Grd] at h ⊢ <;> try simp_all +decide
theorem ret (g) : Statement (.ret g) := by
  intro h _ w hw
  unfold encodable at h
  obtain rfl := Option.some.inj hw
  rw [decode_join, decodeFields_of, decodeOp_06]
  simp +decide [decOp06, word, Grd] at h ⊢ <;> try simp_all +decide
theorem exit (g) : Statement (.exit g) := by
  intro h _ w hw
  unfold encodable at h
  obtain rfl := Option.some.inj hw
  rw [decode_join, decodeFields_of, decodeOp_07]
  simp +decide [decOp07, word, Grd] at h ⊢ <;> try simp_all +decide
theorem join (g d) : Statement (.join g d) := by
  intro h _ w hw
  unfold encodable at h
  obtain rfl := Option.some.inj hw
  rw [decode_join, decodeFields_of, decodeOp_08]
  simp +decide [decOp08, word, Grd] at h ⊢ <;> try simp_all +decide
theorem leave (g d) : Statement (.leave g d) := by
  intro h _ w hw
  unfold encodable at h
  obtain rfl := Option.some.inj hw
  rw [decode_join, decodeFields_of, decodeOp_09]
  simp +decide [decOp09, word, Grd] at h ⊢ <;> try simp_all +decide
theorem waitm (g a) : Statement (.waitm g a) := by
  intro h _ w hw
  unfold encodable at h
  obtain rfl := Option.some.inj hw
  rw [decode_join, decodeFields_of, decodeOp_0A]
  simp +decide [decOp0A, word, Grd] at h ⊢ <;> try simp_all +decide
theorem mset (g all d a) : Statement (.mset g all d a) := by
  intro h _ w hw
  cases all <;> (
    unfold encodable at h
    obtain rfl := Option.some.inj hw
    rw [decode_join, decodeFields_of, decodeOp_0B]
    simp +decide [decOp0B, word, Grd] at h ⊢ <;> try simp_all +decide)
theorem mmov (g d a) : Statement (.mmov g d a) := by
  intro h _ w hw
  unfold encodable at h
  obtain rfl := Option.some.inj hw
  rw [decode_join, decodeFields_of, decodeOp_0B]
  simp +decide [decOp0B, word, Grd] at h ⊢ <;> try simp_all +decide
theorem mand (g d a b) : Statement (.mand g d a b) := by
  intro h _ w hw
  unfold encodable at h
  obtain rfl := Option.some.inj hw
  rw [decode_join, decodeFields_of, decodeOp_0B]
  simp +decide [decOp0B, word, Grd] at h ⊢ <;> try simp_all +decide
theorem mor (g d a b) : Statement (.mor g d a b) := by
  intro h _ w hw
  unfold encodable at h
  obtain rfl := Option.some.inj hw
  rw [decode_join, decodeFields_of, decodeOp_0B]
  simp +decide [decOp0B, word, Grd] at h ⊢ <;> try simp_all +decide
theorem mpop (g d a) : Statement (.mpop g d a) := by
  intro h _ w hw
  unfold encodable at h
  obtain rfl := Option.some.inj hw
  rw [decode_join, decodeFields_of, decodeOp_0B]
  simp +decide [decOp0B, word, Grd] at h ⊢ <;> try simp_all +decide
theorem mfromk (g d a) : Statement (.mfromk g d a) := by
  intro h _ w hw
  unfold encodable at h
  obtain rfl := Option.some.inj hw
  rw [decode_join, decodeFields_of, decodeOp_0B]
  simp +decide [decOp0B, word, Grd] at h ⊢ <;> try simp_all +decide
theorem rep (cnt sd sa sb sc) : Statement (.rep cnt sd sa sb sc) := by
  intro h _ w hw
  obtain rfl := Option.some.inj hw
  rw [decode_join, decodeFields_of, decodeOp_0C]
  simp only [decOp0C, word, fieldsOf_fn, fieldsOf_a, fieldsOf_b, fieldsOf_c, fieldsOf_d, fieldsOf_m]
  have h1 : ∀ c : BitVec 6, (0#2 ++ c : BitVec 8).extractLsb' 0 6 = c := by decide
  have h2 : ∀ c : BitVec 6, (0#2 ++ c : BitVec 8).extractLsb' 6 2 = 0#2 := by decide
  have h3 : ∀ p q r t : BitVec 2, (p ++ q ++ r ++ t : BitVec 8).extractLsb' 6 2 = p ∧ (p ++ q ++ r ++ t : BitVec 8).extractLsb' 4 2 = q ∧ (p ++ q ++ r ++ t : BitVec 8).extractLsb' 2 2 = r ∧ (p ++ q ++ r ++ t : BitVec 8).extractLsb' 0 2 = t := by decide
  obtain ⟨a, b, c, d⟩ := h3 sd sa sb sc
  rw [h1, h2, a, b, c, d]; rfl
theorem yield (g) : Statement (.yield g) := by
  intro h _ w hw
  unfold encodable at h
  obtain rfl := Option.some.inj hw
  rw [decode_join, decodeFields_of, decodeOp_0D]
  simp +decide [decOp0D, word, Grd] at h ⊢ <;> try simp_all +decide
theorem pairWord (s0 s1) : Statement (.pairWord s0 s1) := by
  intro h _ w hw
  simp only [encodable, Bool.and_eq_true] at h
  obtain rfl := Option.some.inj hw
  exact decode_pair h.1.1 h.1.2 h.2
theorem iadd (g t d a b) : Statement (.iadd g t d a b) := by
  intro h _ w hw
  unfold encodable at h
  obtain rfl := Option.some.inj hw
  rw [decode_join, decodeFields_of, decodeOp_10]
  simp +decide [decOp10, word, Grd] at h ⊢ <;> try simp_all +decide
theorem isub (g t d a b) : Statement (.isub g t d a b) := by
  intro h _ w hw
  unfold encodable at h
  obtain rfl := Option.some.inj hw
  rw [decode_join, decodeFields_of, decodeOp_10]
  simp +decide [decOp10, word, Grd] at h ⊢ <;> try simp_all +decide
theorem iaddsat (g t d a b) : Statement (.iaddsat g t d a b) := by
  intro h _ w hw
  unfold encodable at h
  obtain rfl := Option.some.inj hw
  rw [decode_join, decodeFields_of, decodeOp_10]
  simp +decide [decOp10, word, Grd] at h ⊢ <;> try simp_all +decide
theorem isubsat (g t d a b) : Statement (.isubsat g t d a b) := by
  intro h _ w hw
  unfold encodable at h
  obtain rfl := Option.some.inj hw
  rw [decode_join, decodeFields_of, decodeOp_10]
  simp +decide [decOp10, word, Grd] at h ⊢ <;> try simp_all +decide
theorem imul (g t d a b) : Statement (.imul g t d a b) := by
  intro h _ w hw
  unfold encodable at h
  obtain rfl := Option.some.inj hw
  rw [decode_join, decodeFields_of, decodeOp_11]
  simp +decide [decOp11, word, Grd] at h ⊢ <;> try simp_all +decide
theorem imulh (g t d a b) : Statement (.imulh g t d a b) := by
  intro h _ w hw
  unfold encodable at h
  obtain rfl := Option.some.inj hw
  rw [decode_join, decodeFields_of, decodeOp_11]
  simp +decide [decOp11, word, Grd] at h ⊢ <;> try simp_all +decide
theorem imad (g t d a b c) : Statement (.imad g t d a b c) := by
  intro h _ w hw
  unfold encodable at h
  obtain rfl := Option.some.inj hw
  rw [decode_join, decodeFields_of, decodeOp_11]
  simp +decide [decOp11, word, Grd] at h ⊢ <;> try simp_all +decide
theorem idiv (g t d a b) : Statement (.idiv g t d a b) := by
  intro h _ w hw
  unfold encodable at h
  obtain rfl := Option.some.inj hw
  rw [decode_join, decodeFields_of, decodeOp_12]
  simp +decide [decOp12, word, Grd] at h ⊢ <;> try simp_all +decide
theorem irem (g t d a b) : Statement (.irem g t d a b) := by
  intro h _ w hw
  unfold encodable at h
  obtain rfl := Option.some.inj hw
  rw [decode_join, decodeFields_of, decodeOp_12]
  simp +decide [decOp12, word, Grd] at h ⊢ <;> try simp_all +decide
theorem imin (g t d a b) : Statement (.imin g t d a b) := by
  intro h _ w hw
  unfold encodable at h
  obtain rfl := Option.some.inj hw
  rw [decode_join, decodeFields_of, decodeOp_13]
  simp +decide [decOp13, word, Grd] at h ⊢ <;> try simp_all +decide
theorem imax (g t d a b) : Statement (.imax g t d a b) := by
  intro h _ w hw
  unfold encodable at h
  obtain rfl := Option.some.inj hw
  rw [decode_join, decodeFields_of, decodeOp_13]
  simp +decide [decOp13, word, Grd] at h ⊢ <;> try simp_all +decide
theorem iabs (g t sat d a) : Statement (.iabs g t sat d a) := by
  intro h _ w hw
  cases sat <;> (
    unfold encodable at h
    obtain rfl := Option.some.inj hw
    rw [decode_join, decodeFields_of, decodeOp_13]
    simp +decide [decOp13, word, Grd] at h ⊢ <;> try simp_all +decide)
theorem ineg (g t sat d a) : Statement (.ineg g t sat d a) := by
  intro h _ w hw
  cases sat <;> (
    unfold encodable at h
    obtain rfl := Option.some.inj hw
    rw [decode_join, decodeFields_of, decodeOp_13]
    simp +decide [decOp13, word, Grd] at h ⊢ <;> try simp_all +decide)
theorem and (g t d a b) : Statement (.and g t d a b) := by
  intro h _ w hw
  unfold encodable at h
  obtain rfl := Option.some.inj hw
  rw [decode_join, decodeFields_of, decodeOp_14]
  simp +decide [decOp14, word, Grd] at h ⊢ <;> try simp_all +decide
theorem or (g t d a b) : Statement (.or g t d a b) := by
  intro h _ w hw
  unfold encodable at h
  obtain rfl := Option.some.inj hw
  rw [decode_join, decodeFields_of, decodeOp_14]
  simp +decide [decOp14, word, Grd] at h ⊢ <;> try simp_all +decide
theorem xor (g t d a b) : Statement (.xor g t d a b) := by
  intro h _ w hw
  unfold encodable at h
  obtain rfl := Option.some.inj hw
  rw [decode_join, decodeFields_of, decodeOp_14]
  simp +decide [decOp14, word, Grd] at h ⊢ <;> try simp_all +decide
theorem not (g t d a) : Statement (.not g t d a) := by
  intro h _ w hw
  unfold encodable at h
  obtain rfl := Option.some.inj hw
  rw [decode_join, decodeFields_of, decodeOp_14]
  simp +decide [decOp14, word, Grd] at h ⊢ <;> try simp_all +decide
theorem andn (g t d a b) : Statement (.andn g t d a b) := by
  intro h _ w hw
  unfold encodable at h
  obtain rfl := Option.some.inj hw
  rw [decode_join, decodeFields_of, decodeOp_14]
  simp +decide [decOp14, word, Grd] at h ⊢ <;> try simp_all +decide
theorem shl (g t d a b) : Statement (.shl g t d a b) := by
  intro h _ w hw
  unfold encodable at h
  obtain rfl := Option.some.inj hw
  rw [decode_join, decodeFields_of, decodeOp_15]
  simp +decide [decOp15, word, Grd] at h ⊢ <;> try simp_all +decide
theorem shr (g t d a b) : Statement (.shr g t d a b) := by
  intro h _ w hw
  unfold encodable at h
  obtain rfl := Option.some.inj hw
  rw [decode_join, decodeFields_of, decodeOp_15]
  simp +decide [decOp15, word, Grd] at h ⊢ <;> try simp_all +decide
theorem sar (g t d a b) : Statement (.sar g t d a b) := by
  intro h _ w hw
  unfold encodable at h
  obtain rfl := Option.some.inj hw
  rw [decode_join, decodeFields_of, decodeOp_15]
  simp +decide [decOp15, word, Grd] at h ⊢ <;> try simp_all +decide
theorem rotl (g t d a b) : Statement (.rotl g t d a b) := by
  intro h _ w hw
  unfold encodable at h
  obtain rfl := Option.some.inj hw
  rw [decode_join, decodeFields_of, decodeOp_15]
  simp +decide [decOp15, word, Grd] at h ⊢ <;> try simp_all +decide
theorem bfx (g t d a b c) : Statement (.bfx g t d a b c) := by
  intro h _ w hw
  unfold encodable at h
  obtain rfl := Option.some.inj hw
  rw [decode_join, decodeFields_of, decodeOp_16]
  simp +decide [decOp16, word, Grd] at h ⊢ <;> try simp_all +decide
theorem bfi (g t d a b c) : Statement (.bfi g t d a b c) := by
  intro h _ w hw
  unfold encodable at h
  obtain rfl := Option.some.inj hw
  rw [decode_join, decodeFields_of, decodeOp_16]
  simp +decide [decOp16, word, Grd] at h ⊢ <;> try simp_all +decide
theorem popc (g t d a) : Statement (.popc g t d a) := by
  intro h _ w hw
  unfold encodable at h
  obtain rfl := Option.some.inj hw
  rw [decode_join, decodeFields_of, decodeOp_17]
  simp +decide [decOp17, word, Grd] at h ⊢ <;> try simp_all +decide
theorem clz (g t d a) : Statement (.clz g t d a) := by
  intro h _ w hw
  unfold encodable at h
  obtain rfl := Option.some.inj hw
  rw [decode_join, decodeFields_of, decodeOp_17]
  simp +decide [decOp17, word, Grd] at h ⊢ <;> try simp_all +decide
theorem ctz (g t d a) : Statement (.ctz g t d a) := by
  intro h _ w hw
  unfold encodable at h
  obtain rfl := Option.some.inj hw
  rw [decode_join, decodeFields_of, decodeOp_17]
  simp +decide [decOp17, word, Grd] at h ⊢ <;> try simp_all +decide
theorem brev (g t d a) : Statement (.brev g t d a) := by
  intro h _ w hw
  unfold encodable at h
  obtain rfl := Option.some.inj hw
  rw [decode_join, decodeFields_of, decodeOp_17]
  simp +decide [decOp17, word, Grd] at h ⊢ <;> try simp_all +decide
theorem bswap (g t d a) : Statement (.bswap g t d a) := by
  intro h _ w hw
  unfold encodable at h
  obtain rfl := Option.some.inj hw
  rw [decode_join, decodeFields_of, decodeOp_17]
  simp +decide [decOp17, word, Grd] at h ⊢ <;> try simp_all +decide
theorem sel (g t d a b c) : Statement (.sel g t d a b c) := by
  intro h _ w hw
  unfold encodable at h
  obtain rfl := Option.some.inj hw
  rw [decode_join, decodeFields_of, decodeOp_18]
  simp +decide [decOp18, word, Grd] at h ⊢ <;> try simp_all +decide
theorem mov (g t d a) : Statement (.mov g t d a) := by
  intro h _ w hw
  unfold encodable at h
  obtain rfl := Option.some.inj hw
  rw [decode_join, decodeFields_of, decodeOp_18]
  simp +decide [decOp18, word, Grd] at h ⊢ <;> try simp_all +decide
theorem lea (g t d a b sh) : Statement (.lea g t d a b sh) := by
  intro h _ w hw
  unfold encodable at h
  obtain rfl := Option.some.inj hw
  rw [decode_join, decodeFields_of, decodeOp_18]
  simp +decide [decOp18, word, Grd] at h ⊢ <;> try simp_all +decide
theorem movi (g d imm) : Statement (.movi g d imm) := by
  intro h _ w hw
  rcases d with ⟨_ | _, _⟩ <;> (
    unfold encodable at h
    obtain rfl := Option.some.inj hw
    rw [decode_join, decodeFields_of, decodeOp_19]
    simp +decide [decOp19, word, Grd] at h ⊢ <;> try simp_all +decide)
theorem movh (g d imm) : Statement (.movh g d imm) := by
  intro h _ w hw
  rcases d with ⟨_ | _, _⟩ <;> (
    unfold encodable at h
    obtain rfl := Option.some.inj hw
    rw [decode_join, decodeFields_of, decodeOp_1A]
    simp +decide [decOp1A, word, Grd] at h ⊢ <;> try simp_all +decide)
theorem icmp (g cd t d a b) : Statement (.icmp g cd t d a b) := by
  intro h _ w hw
  unfold encodable at h
  obtain rfl := Option.some.inj hw
  rw [decode_join, decodeFields_of, decodeOp_1B]
  simp +decide [decOp1B, word, Grd] at h ⊢ <;> try simp_all +decide
theorem plop (g op d a b) : Statement (.plop g op d a b) := by
  intro h _ w hw
  unfold encodable at h
  obtain rfl := Option.some.inj hw
  rw [decode_join, decodeFields_of, decodeOp_1C]
  simp +decide [decOp1C, word, Grd] at h ⊢ <;> try simp_all +decide
theorem pmov (g neg d a) : Statement (.pmov g neg d a) := by
  intro h _ w hw
  cases neg <;> (
    unfold encodable at h
    obtain rfl := Option.some.inj hw
    rw [decode_join, decodeFields_of, decodeOp_1C]
    simp +decide [decOp1C, word, Grd] at h ⊢ <;> try simp_all +decide)
theorem vote (g mode d a) : Statement (.vote g mode d a) := by
  intro h _ w hw
  unfold encodable at h
  obtain rfl := Option.some.inj hw
  rw [decode_join, decodeFields_of, decodeOp_1D]
  simp +decide [decOp1D, word, Grd] at h ⊢ <;> try simp_all +decide
theorem ballot (g d a) : Statement (.ballot g d a) := by
  intro h _ w hw
  unfold encodable at h
  obtain rfl := Option.some.inj hw
  rw [decode_join, decodeFields_of, decodeOp_1D]
  simp +decide [decOp1D, word, Grd] at h ⊢ <;> try simp_all +decide
theorem shfl (g mode t d a b pout) : Statement (.shfl g mode t d a b pout) := by
  intro h _ w hw
  cases pout <;> (
    unfold encodable at h
    obtain rfl := Option.some.inj hw
    rw [decode_join, decodeFields_of, decodeOp_1E]
    simp +decide [decOp1E, word, Grd] at h ⊢ <;> try simp_all +decide)
theorem idp4 (g sgn sat d a b c) : Statement (.idp4 g sgn sat d a b c) := by
  intro h _ w hw
  cases sgn <;> cases sat <;> (
    unfold encodable at h
    obtain rfl := Option.some.inj hw
    rw [decode_join, decodeFields_of, decodeOp_1F]
    simp +decide [decOp1F, word, Grd] at h ⊢ <;> try simp_all +decide)
theorem idp8 (g sat d a b c) : Statement (.idp8 g sat d a b c) := by
  intro h _ w hw
  cases sat <;> (
    unfold encodable at h
    obtain rfl := Option.some.inj hw
    rw [decode_join, decodeFields_of, decodeOp_1F]
    simp +decide [decOp1F, word, Grd] at h ⊢ <;> try simp_all +decide)
theorem bcast (g t d a b) : Statement (.bcast g t d a b) := by
  intro h _ w hw
  unfold encodable at h
  obtain rfl := Option.some.inj hw
  rw [decode_join, decodeFields_of, decodeOp_20]
  simp +decide [decOp20, word, Grd] at h ⊢ <;> try simp_all +decide
theorem vrd (g t d a b) : Statement (.vrd g t d a b) := by
  intro h _ w hw
  unfold encodable at h
  obtain rfl := Option.some.inj hw
  rw [decode_join, decodeFields_of, decodeOp_20]
  simp +decide [decOp20, word, Grd] at h ⊢ <;> try simp_all +decide
theorem iaddImm (g sc t d a imm) : Statement (.iaddImm g sc t d a imm) := by
  intro h _ w hw
  unfold encodable at h
  obtain rfl := Option.some.inj hw
  rw [decode_join, decodeFields_of]
  cases sc <;> simp only [Bool.false_eq_true, if_true, if_false]
  · rw [decodeOp_21]
    simp +decide [decOp21, word, Grd] at h ⊢ <;> try simp_all +decide
  · rw [decodeOp_24]
    simp +decide [decOp24, word, Grd] at h ⊢ <;> try simp_all +decide
theorem isubImm (g sc t d a imm) : Statement (.isubImm g sc t d a imm) := by
  intro h _ w hw
  unfold encodable at h
  obtain rfl := Option.some.inj hw
  rw [decode_join, decodeFields_of]
  cases sc <;> simp only [Bool.false_eq_true, if_true, if_false]
  · rw [decodeOp_21]
    simp +decide [decOp21, word, Grd] at h ⊢ <;> try simp_all +decide
  · rw [decodeOp_24]
    simp +decide [decOp24, word, Grd] at h ⊢ <;> try simp_all +decide
theorem imulImm (g sc t d a imm) : Statement (.imulImm g sc t d a imm) := by
  intro h _ w hw
  unfold encodable at h
  obtain rfl := Option.some.inj hw
  rw [decode_join, decodeFields_of]
  cases sc <;> simp only [Bool.false_eq_true, if_true, if_false]
  · rw [decodeOp_21]
    simp +decide [decOp21, word, Grd] at h ⊢ <;> try simp_all +decide
  · rw [decodeOp_24]
    simp +decide [decOp24, word, Grd] at h ⊢ <;> try simp_all +decide
theorem iminImm (g sc t d a imm) : Statement (.iminImm g sc t d a imm) := by
  intro h _ w hw
  unfold encodable at h
  obtain rfl := Option.some.inj hw
  rw [decode_join, decodeFields_of]
  cases sc <;> simp only [Bool.false_eq_true, if_true, if_false]
  · rw [decodeOp_21]
    simp +decide [decOp21, word, Grd] at h ⊢ <;> try simp_all +decide
  · rw [decodeOp_24]
    simp +decide [decOp24, word, Grd] at h ⊢ <;> try simp_all +decide
theorem imaxImm (g sc t d a imm) : Statement (.imaxImm g sc t d a imm) := by
  intro h _ w hw
  unfold encodable at h
  obtain rfl := Option.some.inj hw
  rw [decode_join, decodeFields_of]
  cases sc <;> simp only [Bool.false_eq_true, if_true, if_false]
  · rw [decodeOp_21]
    simp +decide [decOp21, word, Grd] at h ⊢ <;> try simp_all +decide
  · rw [decodeOp_24]
    simp +decide [decOp24, word, Grd] at h ⊢ <;> try simp_all +decide
theorem andImm (g sc t d a imm) : Statement (.andImm g sc t d a imm) := by
  intro h _ w hw
  unfold encodable at h
  obtain rfl := Option.some.inj hw
  rw [decode_join, decodeFields_of]
  cases sc <;> simp only [Bool.false_eq_true, if_true, if_false]
  · rw [decodeOp_22]
    simp +decide [decOp22, word, Grd] at h ⊢ <;> try simp_all +decide
  · rw [decodeOp_25]
    simp +decide [decOp25, word, Grd] at h ⊢ <;> try simp_all +decide
theorem orImm (g sc t d a imm) : Statement (.orImm g sc t d a imm) := by
  intro h _ w hw
  unfold encodable at h
  obtain rfl := Option.some.inj hw
  rw [decode_join, decodeFields_of]
  cases sc <;> simp only [Bool.false_eq_true, if_true, if_false]
  · rw [decodeOp_22]
    simp +decide [decOp22, word, Grd] at h ⊢ <;> try simp_all +decide
  · rw [decodeOp_25]
    simp +decide [decOp25, word, Grd] at h ⊢ <;> try simp_all +decide
theorem xorImm (g sc t d a imm) : Statement (.xorImm g sc t d a imm) := by
  intro h _ w hw
  unfold encodable at h
  obtain rfl := Option.some.inj hw
  rw [decode_join, decodeFields_of]
  cases sc <;> simp only [Bool.false_eq_true, if_true, if_false]
  · rw [decodeOp_22]
    simp +decide [decOp22, word, Grd] at h ⊢ <;> try simp_all +decide
  · rw [decodeOp_25]
    simp +decide [decOp25, word, Grd] at h ⊢ <;> try simp_all +decide
theorem shlImm (g sc t d a imm) : Statement (.shlImm g sc t d a imm) := by
  intro h _ w hw
  unfold encodable at h
  obtain rfl := Option.some.inj hw
  rw [decode_join, decodeFields_of]
  cases sc <;> simp only [Bool.false_eq_true, if_true, if_false]
  · rw [decodeOp_22]
    simp +decide [decOp22, word, Grd] at h ⊢ <;> try simp_all +decide
  · rw [decodeOp_25]
    simp +decide [decOp25, word, Grd] at h ⊢ <;> try simp_all +decide
theorem shrImm (g sc t d a imm) : Statement (.shrImm g sc t d a imm) := by
  intro h _ w hw
  unfold encodable at h
  obtain rfl := Option.some.inj hw
  rw [decode_join, decodeFields_of]
  cases sc <;> simp only [Bool.false_eq_true, if_true, if_false]
  · rw [decodeOp_22]
    simp +decide [decOp22, word, Grd] at h ⊢ <;> try simp_all +decide
  · rw [decodeOp_25]
    simp +decide [decOp25, word, Grd] at h ⊢ <;> try simp_all +decide
theorem sarImm (g sc t d a imm) : Statement (.sarImm g sc t d a imm) := by
  intro h _ w hw
  unfold encodable at h
  obtain rfl := Option.some.inj hw
  rw [decode_join, decodeFields_of]
  cases sc <;> simp only [Bool.false_eq_true, if_true, if_false]
  · rw [decodeOp_22]
    simp +decide [decOp22, word, Grd] at h ⊢ <;> try simp_all +decide
  · rw [decodeOp_25]
    simp +decide [decOp25, word, Grd] at h ⊢ <;> try simp_all +decide
theorem rotlImm (g sc t d a imm) : Statement (.rotlImm g sc t d a imm) := by
  intro h _ w hw
  unfold encodable at h
  obtain rfl := Option.some.inj hw
  rw [decode_join, decodeFields_of]
  cases sc <;> simp only [Bool.false_eq_true, if_true, if_false]
  · rw [decodeOp_22]
    simp +decide [decOp22, word, Grd] at h ⊢ <;> try simp_all +decide
  · rw [decodeOp_25]
    simp +decide [decOp25, word, Grd] at h ⊢ <;> try simp_all +decide
theorem icmpImm (g sc cd t d a imm) : Statement (.icmpImm g sc cd t d a imm) := by
  intro h _ w hw
  obtain rfl := Option.some.inj hw
  rw [decode_join]
  cases sc
  · simp only [Bool.false_eq_true, if_false]
    rw [decodeFields_of, decodeOp_23]
    simp only [decOp23, word, Fields.fty, Fields.imm24, fieldsOf_fn, fieldsOf_a, fieldsOf_b, fieldsOf_c, fieldsOf_d, fieldsOf_m, fieldsOf_grd]
    have : ∀ c : Cond, decide (BitVec.extractLsb' 0 3 c.code < (6 : BitVec 3)) = true := by intro c; cases c <;> decide
    rw [ext_hi3, ext_lo3, condOf_code3, ityOf_code, imm24_of, this]; rfl
  · simp only [if_true]
    rw [decodeFields_of, decodeOp_26]
    simp only [decOp26, word, Fields.fty, Fields.imm24, fieldsOf_fn, fieldsOf_a, fieldsOf_b, fieldsOf_c, fieldsOf_d, fieldsOf_m, fieldsOf_grd]
    have : ∀ c : Cond, decide (BitVec.extractLsb' 0 3 c.code < (6 : BitVec 3)) = true := by intro c; cases c <;> decide
    rw [ext_hi3, ext_lo3, condOf_code3, ityOf_code, imm24_of, this]; rfl
theorem fadd (g rm d a b) : Statement (.fadd g rm d a b) := by
  intro h _ w hw
  unfold encodable at h
  obtain rfl := Option.some.inj hw
  rw [decode_join, decodeFields_of, decodeOp_30]
  simp +decide [decOp30, word, Grd] at h ⊢ <;> try simp_all +decide
theorem fsub (g rm d a b) : Statement (.fsub g rm d a b) := by
  intro h _ w hw
  unfold encodable at h
  obtain rfl := Option.some.inj hw
  rw [decode_join, decodeFields_of, decodeOp_30]
  simp +decide [decOp30, word, Grd] at h ⊢ <;> try simp_all +decide
theorem fmul (g rm d a b) : Statement (.fmul g rm d a b) := by
  intro h _ w hw
  unfold encodable at h
  obtain rfl := Option.some.inj hw
  rw [decode_join, decodeFields_of, decodeOp_30]
  simp +decide [decOp30, word, Grd] at h ⊢ <;> try simp_all +decide
theorem ffma (g rm d a b c) : Statement (.ffma g rm d a b c) := by
  intro h _ w hw
  unfold encodable at h
  obtain rfl := Option.some.inj hw
  rw [decode_join, decodeFields_of, decodeOp_31]
  simp +decide [decOp31, word, Grd] at h ⊢ <;> try simp_all +decide
theorem fmin (g d a b) : Statement (.fmin g d a b) := by
  intro h _ w hw
  unfold encodable at h
  obtain rfl := Option.some.inj hw
  rw [decode_join, decodeFields_of, decodeOp_32]
  simp +decide [decOp32, word, Grd] at h ⊢ <;> try simp_all +decide
theorem fmax (g d a b) : Statement (.fmax g d a b) := by
  intro h _ w hw
  unfold encodable at h
  obtain rfl := Option.some.inj hw
  rw [decode_join, decodeFields_of, decodeOp_32]
  simp +decide [decOp32, word, Grd] at h ⊢ <;> try simp_all +decide
theorem fcmp (g cd d a b) : Statement (.fcmp g cd d a b) := by
  intro h _ w hw
  unfold encodable at h
  obtain rfl := Option.some.inj hw
  rw [decode_join, decodeFields_of, decodeOp_33]
  simp +decide [decOp33, word, Grd] at h ⊢ <;> try simp_all +decide
theorem fclass (g d a) : Statement (.fclass g d a) := by
  intro h _ w hw
  unfold encodable at h
  obtain rfl := Option.some.inj hw
  rw [decode_join, decodeFields_of, decodeOp_34]
  simp +decide [decOp34, word, Grd] at h ⊢ <;> try simp_all +decide
theorem frnd (g rm d a) : Statement (.frnd g rm d a) := by
  intro h _ w hw
  unfold encodable at h
  obtain rfl := Option.some.inj hw
  rw [decode_join, decodeFields_of, decodeOp_35]
  simp +decide [decOp35, word, Grd] at h ⊢ <;> try simp_all +decide
theorem fcvt (g kind rm inf d a) : Statement (.fcvt g kind rm inf d a) := by
  intro h _ w hw
  cases inf <;> (
    unfold encodable at h
    obtain rfl := Option.some.inj hw
    rw [decode_join, decodeFields_of, decodeOp_36]
    simp +decide [decOp36, word, Grd] at h ⊢ <;> try simp_all +decide)
theorem f2i (g src dst rm d a) : Statement (.f2i g src dst rm d a) := by
  intro h _ w hw
  cases dst <;> (
    unfold encodable at h
    obtain rfl := Option.some.inj hw
    rw [decode_join, decodeFields_of, decodeOp_37]
    simp +decide [decOp37, word, Grd] at h ⊢ <;> try simp_all +decide)
theorem i2f (g dst src rm d a) : Statement (.i2f g dst src rm d a) := by
  intro h _ w hw
  cases src <;> (
    unfold encodable at h
    obtain rfl := Option.some.inj hw
    rw [decode_join, decodeFields_of, decodeOp_38]
    simp +decide [decOp38, word, Grd] at h ⊢ <;> try simp_all +decide)
theorem hxadd (g rm d a b) : Statement (.hxadd g rm d a b) := by
  intro h _ w hw
  unfold encodable at h
  obtain rfl := Option.some.inj hw
  rw [decode_join, decodeFields_of, decodeOp_39]
  simp +decide [decOp39, word, Grd] at h ⊢ <;> try simp_all +decide
theorem hxmul (g rm d a b) : Statement (.hxmul g rm d a b) := by
  intro h _ w hw
  unfold encodable at h
  obtain rfl := Option.some.inj hw
  rw [decode_join, decodeFields_of, decodeOp_39]
  simp +decide [decOp39, word, Grd] at h ⊢ <;> try simp_all +decide
theorem hxfma (g rm d a b c) : Statement (.hxfma g rm d a b c) := by
  intro h _ w hw
  unfold encodable at h
  obtain rfl := Option.some.inj hw
  rw [decode_join, decodeFields_of, decodeOp_39]
  simp +decide [decOp39, word, Grd] at h ⊢ <;> try simp_all +decide
theorem bxadd (g rm d a b) : Statement (.bxadd g rm d a b) := by
  intro h _ w hw
  unfold encodable at h
  obtain rfl := Option.some.inj hw
  rw [decode_join, decodeFields_of, decodeOp_3A]
  simp +decide [decOp3A, word, Grd] at h ⊢ <;> try simp_all +decide
theorem bxmul (g rm d a b) : Statement (.bxmul g rm d a b) := by
  intro h _ w hw
  unfold encodable at h
  obtain rfl := Option.some.inj hw
  rw [decode_join, decodeFields_of, decodeOp_3A]
  simp +decide [decOp3A, word, Grd] at h ⊢ <;> try simp_all +decide
theorem bxfma (g rm d a b c) : Statement (.bxfma g rm d a b c) := by
  intro h _ w hw
  unfold encodable at h
  obtain rfl := Option.some.inj hw
  rw [decode_join, decodeFields_of, decodeOp_3A]
  simp +decide [decOp3A, word, Grd] at h ⊢ <;> try simp_all +decide
theorem fdp2 (g b16 rm d a b c) : Statement (.fdp2 g b16 rm d a b c) := by
  intro h _ w hw
  cases b16 <;> (
    unfold encodable at h
    obtain rfl := Option.some.inj hw
    rw [decode_join, decodeFields_of, decodeOp_3B]
    simp +decide [decOp3B, word, Grd] at h ⊢ <;> try simp_all +decide)
theorem frcp (g la d a) : Statement (.frcp g la d a) := by
  intro h _ w hw
  unfold encodable at h
  obtain rfl := Option.some.inj hw
  rw [decode_join, decodeFields_la _ _ _ _ _ _ _ _ _ (by cases g <;> rfl), decodeOp_3C]
  simp +decide [decOp3C, word, Grd] at h ⊢ <;> try simp_all +decide
theorem frsq (g la d a) : Statement (.frsq g la d a) := by
  intro h _ w hw
  unfold encodable at h
  obtain rfl := Option.some.inj hw
  rw [decode_join, decodeFields_la _ _ _ _ _ _ _ _ _ (by cases g <;> rfl), decodeOp_3C]
  simp +decide [decOp3C, word, Grd] at h ⊢ <;> try simp_all +decide
theorem fsqrt (g la rm d a) : Statement (.fsqrt g la rm d a) := by
  intro h _ w hw
  unfold encodable at h
  obtain rfl := Option.some.inj hw
  rw [decode_join, decodeFields_la _ _ _ _ _ _ _ _ _ (by cases g <;> rfl), decodeOp_3C]
  simp +decide [decOp3C, word, Grd] at h ⊢ <;> try simp_all +decide
theorem fexp2 (g la d a) : Statement (.fexp2 g la d a) := by
  intro h _ w hw
  unfold encodable at h
  obtain rfl := Option.some.inj hw
  rw [decode_join, decodeFields_la _ _ _ _ _ _ _ _ _ (by cases g <;> rfl), decodeOp_3C]
  simp +decide [decOp3C, word, Grd] at h ⊢ <;> try simp_all +decide
theorem flog2 (g la d a) : Statement (.flog2 g la d a) := by
  intro h _ w hw
  unfold encodable at h
  obtain rfl := Option.some.inj hw
  rw [decode_join, decodeFields_la _ _ _ _ _ _ _ _ _ (by cases g <;> rfl), decodeOp_3C]
  simp +decide [decOp3C, word, Grd] at h ⊢ <;> try simp_all +decide
theorem fsin (g la d a) : Statement (.fsin g la d a) := by
  intro h _ w hw
  unfold encodable at h
  obtain rfl := Option.some.inj hw
  rw [decode_join, decodeFields_la _ _ _ _ _ _ _ _ _ (by cases g <;> rfl), decodeOp_3C]
  simp +decide [decOp3C, word, Grd] at h ⊢ <;> try simp_all +decide
theorem fcos (g la d a) : Statement (.fcos g la d a) := by
  intro h _ w hw
  unfold encodable at h
  obtain rfl := Option.some.inj hw
  rw [decode_join, decodeFields_la _ _ _ _ _ _ _ _ _ (by cases g <;> rfl), decodeOp_3C]
  simp +decide [decOp3C, word, Grd] at h ⊢ <;> try simp_all +decide
theorem ftanh (g la d a) : Statement (.ftanh g la d a) := by
  intro h _ w hw
  unfold encodable at h
  obtain rfl := Option.some.inj hw
  rw [decode_join, decodeFields_la _ _ _ _ _ _ _ _ _ (by cases g <;> rfl), decodeOp_3C]
  simp +decide [decOp3C, word, Grd] at h ⊢ <;> try simp_all +decide
theorem fscale (g rm d a b) : Statement (.fscale g rm d a b) := by
  intro h _ w hw
  unfold encodable at h
  obtain rfl := Option.some.inj hw
  rw [decode_join, decodeFields_of, decodeOp_3D]
  simp +decide [decOp3D, word, Grd] at h ⊢ <;> try simp_all +decide
theorem fgetexp (g d a) : Statement (.fgetexp g d a) := by
  intro h _ w hw
  unfold encodable at h
  obtain rfl := Option.some.inj hw
  rw [decode_join, decodeFields_of, decodeOp_3D]
  simp +decide [decOp3D, word, Grd] at h ⊢ <;> try simp_all +decide
theorem gpack (g inf d a) : Statement (.gpack g inf d a) := by
  intro h _ w hw
  cases inf <;> (
    unfold encodable at h
    obtain rfl := Option.some.inj hw
    rw [decode_join, decodeFields_of, decodeOp_3E]
    simp +decide [decOp3E, word, Grd] at h ⊢ <;> try simp_all +decide)
theorem gunpack (g d a) : Statement (.gunpack g d a) := by
  intro h _ w hw
  unfold encodable at h
  obtain rfl := Option.some.inj hw
  rw [decode_join, decodeFields_of, decodeOp_3E]
  simp +decide [decOp3E, word, Grd] at h ⊢ <;> try simp_all +decide
theorem ld (g la m) : Statement (.ld g la m) := by
  intro h ho w hw
  have ho : m.ord.encodable = true := ho
  unfold encodable at h
  obtain rfl := Option.some.inj hw
  rw [decode_join, decodeFields_la _ _ _ _ _ _ _ _ _ (by cases g <;> rfl), decodeOp_50]
  simp only [decOp50, mem_of _ _ _ ho, osOk_of _ _ _ ho, h, word, fieldsOf_grd, fieldsOf_la, Bool.and_self, if_true]
theorem ldSigned (g la m) : Statement (.ldSigned g la m) := by
  intro h ho w hw
  have ho : m.ord.encodable = true := ho
  unfold encodable at h
  obtain rfl := Option.some.inj hw
  rw [decode_join, decodeFields_la _ _ _ _ _ _ _ _ _ (by cases g <;> rfl), decodeOp_59]
  simp only [decOp59, mem_of _ _ _ ho, osOk_of _ _ _ ho, h, word, fieldsOf_grd, fieldsOf_la, Bool.and_self, if_true]
theorem st (g m) : Statement (.st g m) := by
  intro h ho w hw
  have ho : m.ord.encodable = true := ho
  unfold encodable at h
  obtain rfl := Option.some.inj hw
  rw [decode_join, decodeFields_of, decodeOp_51]
  simp only [decOp51, mem_of _ _ _ ho, osOk_of _ _ _ ho, h, word, fieldsOf_grd, fieldsOf_la, Bool.and_self, if_true]
theorem ldv (g la m) : Statement (.ldv g la m) := by
  intro h ho w hw
  have ho : m.ord.encodable = true := ho
  unfold encodable at h
  obtain rfl := Option.some.inj hw
  rw [decode_join, decodeFields_la _ _ _ _ _ _ _ _ _ (by cases g <;> rfl), decodeOp_52]
  simp only [decOp52, mem_of _ _ _ ho, osOk_of _ _ _ ho, h, word, fieldsOf_grd, fieldsOf_la, Bool.and_self, if_true]
theorem stv (g m) : Statement (.stv g m) := by
  intro h ho w hw
  have ho : m.ord.encodable = true := ho
  unfold encodable at h
  obtain rfl := Option.some.inj hw
  rw [decode_join, decodeFields_of, decodeOp_53]
  simp only [decOp53, mem_of _ _ _ ho, osOk_of _ _ _ ho, h, word, fieldsOf_grd, fieldsOf_la, Bool.and_self, if_true]
theorem lds (g la m) : Statement (.lds g la m) := by
  intro h ho w hw
  have ho : m.ord.encodable = true := ho
  unfold encodable at h
  obtain rfl := Option.some.inj hw
  rw [decode_join, decodeFields_la _ _ _ _ _ _ _ _ _ (by cases g <;> rfl), decodeOp_54]
  simp only [decOp54, mem_of _ _ _ ho, osOk_of _ _ _ ho, h, word, fieldsOf_grd, fieldsOf_la, Bool.and_self, if_true]
theorem ldsSigned (g la m) : Statement (.ldsSigned g la m) := by
  intro h ho w hw
  have ho : m.ord.encodable = true := ho
  unfold encodable at h
  obtain rfl := Option.some.inj hw
  rw [decode_join, decodeFields_la _ _ _ _ _ _ _ _ _ (by cases g <;> rfl), decodeOp_5A]
  simp only [decOp5A, mem_of _ _ _ ho, osOk_of _ _ _ ho, h, word, fieldsOf_grd, fieldsOf_la, Bool.and_self, if_true]
theorem sts (g m) : Statement (.sts g m) := by
  intro h ho w hw
  have ho : m.ord.encodable = true := ho
  unfold encodable at h
  obtain rfl := Option.some.inj hw
  rw [decode_join, decodeFields_of, decodeOp_55]
  simp only [decOp55, mem_of _ _ _ ho, osOk_of _ _ _ ho, h, word, fieldsOf_grd, fieldsOf_la, Bool.and_self, if_true]
theorem gath (g la m) : Statement (.gath g la m) := by
  intro h ho w hw
  have ho : m.ord.encodable = true := ho
  unfold encodable at h
  obtain rfl := Option.some.inj hw
  rw [decode_join, decodeFields_la _ _ _ _ _ _ _ _ _ (by cases g <;> rfl), decodeOp_56]
  simp only [decOp56, mem_of _ _ _ ho, osOk_of _ _ _ ho, h, word, fieldsOf_grd, fieldsOf_la, Bool.and_self, if_true]
theorem gathSigned (g la m) : Statement (.gathSigned g la m) := by
  intro h ho w hw
  have ho : m.ord.encodable = true := ho
  unfold encodable at h
  obtain rfl := Option.some.inj hw
  rw [decode_join, decodeFields_la _ _ _ _ _ _ _ _ _ (by cases g <;> rfl), decodeOp_5B]
  simp only [decOp5B, mem_of _ _ _ ho, osOk_of _ _ _ ho, h, word, fieldsOf_grd, fieldsOf_la, Bool.and_self, if_true]
theorem scat (g m) : Statement (.scat g m) := by
  intro h ho w hw
  have ho : m.ord.encodable = true := ho
  unfold encodable at h
  obtain rfl := Option.some.inj hw
  rw [decode_join, decodeFields_of, decodeOp_57]
  simp only [decOp57, mem_of _ _ _ ho, osOk_of _ _ _ ho, h, word, fieldsOf_grd, fieldsOf_la, Bool.and_self, if_true]
theorem prf (g m) : Statement (.prf g m) := by
  intro h ho w hw
  have ho : m.ord.encodable = true := ho
  unfold encodable at h
  obtain rfl := Option.some.inj hw
  rw [decode_join, decodeFields_of, decodeOp_58]
  simp only [decOp58, mem_of _ _ _ ho, osOk_of _ _ _ ho, h, word, fieldsOf_grd, fieldsOf_la, Bool.and_self, if_true]
theorem loadDataReturn (team gang id) : Statement (.loadDataReturn team gang id) := none_case rfl
theorem barSync (g n cnt) : Statement (.barSync g n cnt) := by
  intro h _ w hw
  cases cnt <;> (
    unfold encodable at h
    obtain rfl := Option.some.inj hw
    rw [decode_join, decodeFields_of, decodeOp_5C]
    simp +decide [decOp5C, word, Grd] at h ⊢ <;> try simp_all +decide)
theorem barArv (g n cnt) : Statement (.barArv g n cnt) := by
  intro h _ w hw
  cases cnt <;> (
    unfold encodable at h
    obtain rfl := Option.some.inj hw
    rw [decode_join, decodeFields_of, decodeOp_5C]
    simp +decide [decOp5C, word, Grd] at h ⊢ <;> try simp_all +decide)
theorem barWait (g n) : Statement (.barWait g n) := by
  intro h _ w hw
  unfold encodable at h
  obtain rfl := Option.some.inj hw
  rw [decode_join, decodeFields_of, decodeOp_5C]
  simp +decide [decOp5C, word, Grd] at h ⊢ <;> try simp_all +decide
theorem barBytes (g n b) : Statement (.barBytes g n b) := by
  intro h _ w hw
  unfold encodable at h
  obtain rfl := Option.some.inj hw
  rw [decode_join, decodeFields_of, decodeOp_5C]
  simp +decide [decOp5C, word, Grd] at h ⊢ <;> try simp_all +decide
theorem waitA (g wide scr a b) : Statement (.waitA g wide scr a b) := by
  intro h _ w hw
  cases wide <;> cases scr <;> (
    unfold encodable at h
    obtain rfl := Option.some.inj hw
    rw [decode_join, decodeFields_of, decodeOp_5D]
    simp +decide [decOp5D, word, Grd] at h ⊢ <;> try simp_all +decide)
theorem waitT (g wide scr d a b c) : Statement (.waitT g wide scr d a b c) := by
  intro h _ w hw
  cases wide <;> cases scr <;> (
    unfold encodable at h
    obtain rfl := Option.some.inj hw
    rw [decode_join, decodeFields_of, decodeOp_5D]
    simp +decide [decOp5D, word, Grd] at h ⊢ <;> try simp_all +decide)
theorem waitTTimeout (team gang lane) : Statement (.waitTTimeout team gang lane) := none_case rfl
theorem fence (g y) : Statement (.fence g y) := by
  intro h _ w hw
  unfold encodable at h
  obtain rfl := Option.some.inj hw
  rw [decode_join, decodeFields_of, decodeOp_5E]
  simp +decide [decOp5E, word, Grd] at h ⊢ <;> try simp_all +decide
theorem atom32 (g la op ord y sgn d a b c) : Statement (.atom32 g la op ord y sgn d a b c) := by
  intro h _ w hw
  cases sgn <;> (
    unfold encodable at h
    obtain rfl := Option.some.inj hw
    rw [decode_join, decodeFields_la _ _ _ _ _ _ _ _ _ (by cases g <;> rfl), decodeOp_5F]
    simp +decide [decOp5F, word, Grd] at h ⊢ <;> try simp_all +decide)
theorem atom64 (g la op ord y sgn d a b c) : Statement (.atom64 g la op ord y sgn d a b c) := by
  intro h _ w hw
  cases sgn <;> (
    unfold encodable at h
    obtain rfl := Option.some.inj hw
    rw [decode_join, decodeFields_la _ _ _ _ _ _ _ _ _ (by cases g <;> rfl), decodeOp_60]
    simp +decide [decOp60, word, Grd] at h ⊢ <;> try simp_all +decide)
theorem cpGs (g q a b c desc) : Statement (.cpGs g q a b c desc) := by
  intro h _ w hw
  cases desc <;> (
    unfold encodable at h
    obtain rfl := Option.some.inj hw
    rw [decode_join, decodeFields_of, decodeOp_61]
    simp +decide [decOp61, word, Grd] at h ⊢ <;> try simp_all +decide)
theorem cpSg (g q a b c desc) : Statement (.cpSg g q a b c desc) := by
  intro h _ w hw
  cases desc <;> (
    unfold encodable at h
    obtain rfl := Option.some.inj hw
    rw [decode_join, decodeFields_of, decodeOp_61]
    simp +decide [decOp61, word, Grd] at h ⊢ <;> try simp_all +decide)
theorem cpGg (g q a b c desc) : Statement (.cpGg g q a b c desc) := by
  intro h _ w hw
  cases desc <;> (
    unfold encodable at h
    obtain rfl := Option.some.inj hw
    rw [decode_join, decodeFields_of, decodeOp_61]
    simp +decide [decOp61, word, Grd] at h ⊢ <;> try simp_all +decide)
theorem cpFence (g y mask desc) : Statement (.cpFence g y mask desc) := by
  intro h _ w hw
  cases desc <;> (
    unfold encodable at h
    obtain rfl := Option.some.inj hw
    rw [decode_join, decodeFields_of, decodeOp_62]
    simp +decide [decOp62, word, Grd] at h ⊢ <;> try simp_all +decide)
theorem cpPoll (g d) : Statement (.cpPoll g d) := by
  intro h _ w hw
  unfold encodable at h
  obtain rfl := Option.some.inj hw
  rw [decode_join, decodeFields_of, decodeOp_62]
  simp +decide [decOp62, word, Grd] at h ⊢ <;> try simp_all +decide
theorem copyEntryComplete (core q) : Statement (.copyEntryComplete core q) := none_case rfl
theorem lfillBar (g n a b) : Statement (.lfillBar g n a b) := by
  intro h _ w hw
  unfold encodable at h
  obtain rfl := Option.some.inj hw
  rw [decode_join, decodeFields_of, decodeOp_63]
  simp +decide [decOp63, word, Grd] at h ⊢ <;> try simp_all +decide
theorem lfillTok (g d a b c) : Statement (.lfillTok g d a b c) := by
  intro h _ w hw
  unfold encodable at h
  obtain rfl := Option.some.inj hw
  rw [decode_join, decodeFields_of, decodeOp_63]
  simp +decide [decOp63, word, Grd] at h ⊢ <;> try simp_all +decide
theorem lfillComplete (die idx) : Statement (.lfillComplete die idx) := none_case rfl
theorem storeQueueDrain (team gang) : Statement (.storeQueueDrain team gang) := none_case rfl
theorem tcfg (g d a) : Statement (.tcfg g d a) := by
  intro h _ w hw
  unfold encodable at h
  obtain rfl := Option.some.inj hw
  rw [decode_join, decodeFields_of, decodeOp_68]
  simp +decide [decOp68, word, Grd] at h ⊢ <;> try simp_all +decide
theorem tld (g la sc d a b c) : Statement (.tld g la sc d a b c) := by
  intro h _ w hw
  cases sc <;> (
    unfold encodable at h
    obtain rfl := Option.some.inj hw
    rw [decode_join, decodeFields_la _ _ _ _ _ _ _ _ _ (by cases g <;> rfl), decodeOp_69]
    simp +decide [decOp69, word, Grd] at h ⊢ <;> try simp_all +decide)
theorem tldg (g la sc bar d a b c) : Statement (.tldg g la sc bar d a b c) := by
  intro h _ w hw
  unfold encodable at h
  obtain rfl := Option.some.inj hw
  rw [decode_join, decodeFields_la _ _ _ _ _ _ _ _ _ (by cases g <;> rfl), decodeOp_6A]
  simp only [decOp6A, word, Fields.m0, Fields.m1, fieldsOf_fn, fieldsOf_a, fieldsOf_b, fieldsOf_c, fieldsOf_d, fieldsOf_m, fieldsOf_la, fieldsOf_grd]
  have h0 : ∀ (b : BitVec 4) (n s : Bool), (b ++ 0#2 ++ BitVec.ofBool n ++ BitVec.ofBool s).getLsbD 0 = s := by decide
  have h1 : ∀ (b : BitVec 4) (n s : Bool), (b ++ 0#2 ++ BitVec.ofBool n ++ BitVec.ofBool s).getLsbD 1 = n := by decide
  rw [h0, h1, tldg_bar, tldg_zero]
  cases bar <;> simp <;> intro hs <;> simpa [hs] using h
theorem tldgLanding (team gang id) : Statement (.tldgLanding team gang id) := none_case rfl
theorem tst (g sc d a b c) : Statement (.tst g sc d a b c) := by
  intro h _ w hw
  cases sc <;> (
    unfold encodable at h
    obtain rfl := Option.some.inj hw
    rw [decode_join, decodeFields_of, decodeOp_6B]
    simp +decide [decOp6B, word, Grd] at h ⊢ <;> try simp_all +decide)
theorem tzero (g d) : Statement (.tzero g d) := by
  intro h _ w hw
  unfold encodable at h
  obtain rfl := Option.some.inj hw
  rw [decode_join, decodeFields_of, decodeOp_6C]
  simp +decide [decOp6C, word, Grd] at h ⊢ <;> try simp_all +decide
theorem tmov (g sc d a b) : Statement (.tmov g sc d a b) := by
  intro h _ w hw
  cases sc <;> (
    unfold encodable at h
    obtain rfl := Option.some.inj hw
    rw [decode_join, decodeFields_of, decodeOp_6C]
    simp +decide [decOp6C, word, Grd] at h ⊢ <;> try simp_all +decide)
theorem mma (g la ring nosplit d ta tb f k) : Statement (.mma g la ring nosplit d ta tb f k) := by
  intro h _ w hw
  unfold encodable at h
  obtain rfl := Option.some.inj hw
  rw [decode_join, decodeFields_la _ _ _ _ _ _ _ _ _ (by cases g <;> rfl), decodeOp_6D]
  simp +decide [decOp6D, word, Grd] at h ⊢ <;> try simp_all +decide
theorem mmap (g la ring nosplit wide d ta tb f k) : Statement (.mmap g la ring nosplit wide d ta tb f k) := by
  intro h _ w hw
  unfold encodable at h
  obtain rfl := Option.some.inj hw
  rw [decode_join, decodeFields_la _ _ _ _ _ _ _ _ _ (by cases g <;> rfl), decodeOp_6D]
  simp +decide [decOp6D, word, Grd] at h ⊢ <;> try simp_all +decide
theorem mmac (g la a) : Statement (.mmac g la a) := by
  intro h _ w hw
  unfold encodable at h
  obtain rfl := Option.some.inj hw
  rw [decode_join, decodeFields_la _ _ _ _ _ _ _ _ _ (by cases g <;> rfl), decodeOp_6D]
  simp +decide [decOp6D, word, Grd] at h ⊢ <;> try simp_all +decide
theorem kBlockStart (core) : Statement (.kBlockStart core) := none_case rfl
theorem matrixRetire (core) : Statement (.matrixRetire core) := none_case rfl
theorem czero (g d) : Statement (.czero g d) := by
  intro h _ w hw
  unfold encodable at h
  obtain rfl := Option.some.inj hw
  rw [decode_join, decodeFields_of, decodeOp_6E]
  simp +decide [decOp6E, word, Grd] at h ⊢ <;> try simp_all +decide
theorem cmov (g d a n) : Statement (.cmov g d a n) := by
  intro h _ w hw
  unfold encodable at h
  obtain rfl := Option.some.inj hw
  rw [decode_join, decodeFields_of, decodeOp_6E]
  simp +decide [decOp6E, word, Grd] at h ⊢ <;> try simp_all +decide
theorem cmovIn (g d a n) : Statement (.cmovIn g d a n) := by
  intro h _ w hw
  unfold encodable at h
  obtain rfl := Option.some.inj hw
  rw [decode_join, decodeFields_of, decodeOp_6E]
  simp +decide [decOp6E, word, Grd] at h ⊢ <;> try simp_all +decide
theorem vbnd (g a) : Statement (.vbnd g a) := by
  intro h _ w hw
  unfold encodable at h
  obtain rfl := Option.some.inj hw
  rw [decode_join, decodeFields_of, decodeOp_6E]
  simp +decide [decOp6E, word, Grd] at h ⊢ <;> try simp_all +decide
theorem atest (g d) : Statement (.atest g d) := by
  intro h _ w hw
  unfold encodable at h
  obtain rfl := Option.some.inj hw
  rw [decode_join, decodeFields_of, decodeOp_6F]
  simp +decide [decOp6F, word, Grd] at h ⊢ <;> try simp_all +decide
theorem arraySelfTest (core failing) : Statement (.arraySelfTest core failing) := none_case rfl
theorem trap (g n) : Statement (.trap g n) := by
  intro h _ w hw
  unfold encodable at h
  obtain rfl := Option.some.inj hw
  rw [decode_join, decodeFields_of, decodeOp_7D]
  simp +decide [decOp7D, word, Grd] at h ⊢ <;> try simp_all +decide
theorem brk (g n) : Statement (.brk g n) := by
  intro h _ w hw
  unfold encodable at h
  obtain rfl := Option.some.inj hw
  rw [decode_join, decodeFields_of, decodeOp_7D]
  simp +decide [decOp7D, word, Grd] at h ⊢ <;> try simp_all +decide
theorem rfe (g skip) : Statement (.rfe g skip) := by
  intro h _ w hw
  cases skip <;> (
    unfold encodable at h
    obtain rfl := Option.some.inj hw
    rw [decode_join, decodeFields_of, decodeOp_7D]
    simp +decide [decOp7D, word, Grd] at h ⊢ <;> try simp_all +decide)
theorem sread (g dk d num) : Statement (.sread g dk d num) := by
  intro h _ w hw
  obtain rfl := Option.some.inj hw
  rw [decode_join, decodeFields_of, decodeOp_7D]
  have e : (fieldsOf 0x7D 0 g 3 d 0 0 (0#4 ++ dk.code ++ num.extractLsb' 8 2) (num.extractLsb' 0 8)).imm24 = 0#12 ++ dk.code ++ num := by
    rw [← sys_mem]; simp [Fields.imm24]
  simp only [decOp7D, word, e, sys_a, sys_b, sys_c, fieldsOf_fn, fieldsOf_a, fieldsOf_d, fieldsOf_grd]
  cases dk <;> rfl
theorem swrite (g dk a num) : Statement (.swrite g dk a num) := by
  intro h _ w hw
  unfold encodable at h
  obtain rfl := Option.some.inj hw
  rw [decode_join, decodeFields_of, decodeOp_7D]
  have e : (fieldsOf 0x7D 0 g 4 0 a 0 (0#4 ++ dk.code ++ num.extractLsb' 8 2) (num.extractLsb' 0 8)).imm24 = 0#12 ++ dk.code ++ num := by
    rw [← sys_mem]; simp [Fields.imm24]
  simp only [decOp7D, word, e, sys_a, sys_b, sys_c, fieldsOf_fn, fieldsOf_a, fieldsOf_d, fieldsOf_grd]
  cases dk <;> first | rfl | (simp at h)
theorem ctxSave (g a) : Statement (.ctxSave g a) := by
  intro h _ w hw
  unfold encodable at h
  obtain rfl := Option.some.inj hw
  rw [decode_join, decodeFields_of, decodeOp_7D]
  simp +decide [decOp7D, word, Grd] at h ⊢ <;> try simp_all +decide
theorem ctxLoad (g a) : Statement (.ctxLoad g a) := by
  intro h _ w hw
  unfold encodable at h
  obtain rfl := Option.some.inj hw
  rw [decode_join, decodeFields_of, decodeOp_7D]
  simp +decide [decOp7D, word, Grd] at h ⊢ <;> try simp_all +decide
theorem xst (g m) : Statement (.xst g m) := by
  intro h ho w hw
  have ho : m.ord.encodable = true := ho
  unfold encodable at h
  obtain rfl := Option.some.inj hw
  rw [decode_join, decodeFields_of, decodeOp_70]
  simp only [decOp70, mem_of _ _ _ ho, osOk_of _ _ _ ho, h, word, fieldsOf_grd, fieldsOf_la, Bool.and_self, if_true]
theorem xbar (g) : Statement (.xbar g) := by
  intro h _ w hw
  unfold encodable at h
  obtain rfl := Option.some.inj hw
  rw [decode_join, decodeFields_of, decodeOp_71]
  simp +decide [decOp71, word, Grd] at h ⊢ <;> try simp_all +decide
theorem cbar (g d) : Statement (.cbar g d) := by
  intro h _ w hw
  unfold encodable at h
  obtain rfl := Option.some.inj hw
  rw [decode_join, decodeFields_of, decodeOp_72]
  simp +decide [decOp72, word, Grd] at h ⊢ <;> try simp_all +decide
theorem xpoll (g d) : Statement (.xpoll g d) := by
  intro h _ w hw
  unfold encodable at h
  obtain rfl := Option.some.inj hw
  rw [decode_join, decodeFields_of, decodeOp_73]
  simp +decide [decOp73, word, Grd] at h ⊢ <;> try simp_all +decide
theorem acc (g op a b) : Statement (.acc g op a b) := by
  intro h _ w hw
  unfold encodable at h
  obtain rfl := Option.some.inj hw
  rw [decode_join, decodeFields_of, decodeOp_74]
  simp +decide [decOp74, word, Grd] at h ⊢ <;> try simp_all +decide
theorem accv (g op a b) : Statement (.accv g op a b) := by
  intro h _ w hw
  unfold encodable at h
  obtain rfl := Option.some.inj hw
  rw [decode_join, decodeFields_of, decodeOp_75]
  simp [decOp75, word, Fields.zd, Fields.zc, Fields.zx, Fields.zt, Fields.vb, Fields.ds, Fields.cs, Fields.mx, Fields.ty, Fields.bs, Fields.oa, Fields.as]
  cases op <;> first | rfl | (simp at h; done) | decide
theorem accFlush (g y) : Statement (.accFlush g y) := by
  intro h _ w hw
  unfold encodable at h
  obtain rfl := Option.some.inj hw
  rw [decode_join, decodeFields_of, decodeOp_76]
  simp +decide [decOp76, word, Grd] at h ⊢ <;> try simp_all +decide
theorem accProbe (g la d a) : Statement (.accProbe g la d a) := by
  intro h _ w hw
  unfold encodable at h
  obtain rfl := Option.some.inj hw
  rw [decode_join, decodeFields_la _ _ _ _ _ _ _ _ _ (by cases g <;> rfl), decodeOp_77]
  simp +decide [decOp77, word, Grd] at h ⊢ <;> try simp_all +decide
theorem accumulatePacketArrival (core id) : Statement (.accumulatePacketArrival core id) := none_case rfl
theorem accumulateApply (slice) : Statement (.accumulateApply slice) := none_case rfl
theorem accumulateAckArrival (core id) : Statement (.accumulateAckArrival core id) := none_case rfl
theorem bounceArrival (core id) : Statement (.bounceArrival core id) := none_case rfl
theorem residualRetry (core ctx block) : Statement (.residualRetry core ctx block) := none_case rfl
theorem grantedSend (core ctx block) : Statement (.grantedSend core ctx block) := none_case rfl
theorem ownerRecallDeadline (line) : Statement (.ownerRecallDeadline line) := none_case rfl
theorem refusalPendingClear (line) : Statement (.refusalPendingClear line) := none_case rfl
theorem futSpawn (g d a b n) : Statement (.futSpawn g d a b n) := by
  intro h _ w hw
  by_cases hn : n = 0 <;> (
    unfold encodable at h
    obtain rfl := Option.some.inj hw
    rw [decode_join, decodeFields_of, decodeOp_78]
    simp +decide [decOp78, word, Grd] at h ⊢ <;> try simp_all +decide)
theorem futDup (g d a) : Statement (.futDup g d a) := by
  intro h _ w hw
  unfold encodable at h
  obtain rfl := Option.some.inj hw
  rw [decode_join, decodeFields_of, decodeOp_79]
  simp +decide [decOp79, word, Grd] at h ⊢ <;> try simp_all +decide
theorem futDrop (g d) : Statement (.futDrop g d) := by
  intro h _ w hw
  unfold encodable at h
  obtain rfl := Option.some.inj hw
  rw [decode_join, decodeFields_of, decodeOp_79]
  simp +decide [decOp79, word, Grd] at h ⊢ <;> try simp_all +decide
theorem futSelf (g d) : Statement (.futSelf g d) := by
  intro h _ w hw
  unfold encodable at h
  obtain rfl := Option.some.inj hw
  rw [decode_join, decodeFields_of, decodeOp_79]
  simp +decide [decOp79, word, Grd] at h ⊢ <;> try simp_all +decide
theorem futCheck (g) : Statement (.futCheck g) := by
  intro h _ w hw
  unfold encodable at h
  obtain rfl := Option.some.inj hw
  rw [decode_join, decodeFields_of, decodeOp_79]
  simp +decide [decOp79, word, Grd] at h ⊢ <;> try simp_all +decide
theorem futGet (g la d a n) : Statement (.futGet g la d a n) := by
  intro h _ w hw
  by_cases hn : n = 0 <;> (
    unfold encodable at h
    obtain rfl := Option.some.inj hw
    rw [decode_join, decodeFields_la _ _ _ _ _ _ _ _ _ (by cases g <;> rfl), decodeOp_7A]
    simp +decide [decOp7A, word, Grd] at h ⊢ <;> try simp_all +decide)
theorem futPoll (g d a) : Statement (.futPoll g d a) := by
  intro h _ w hw
  unfold encodable at h
  obtain rfl := Option.some.inj hw
  rw [decode_join, decodeFields_of, decodeOp_7A]
  simp +decide [decOp7A, word, Grd] at h ⊢ <;> try simp_all +decide
theorem futPark (g a b) : Statement (.futPark g a b) := by
  intro h _ w hw
  unfold encodable at h
  obtain rfl := Option.some.inj hw
  rw [decode_join, decodeFields_of, decodeOp_7B]
  simp +decide [decOp7B, word, Grd] at h ⊢ <;> try simp_all +decide
theorem futUnpark (g d a) : Statement (.futUnpark g d a) := by
  intro h _ w hw
  unfold encodable at h
  obtain rfl := Option.some.inj hw
  rw [decode_join, decodeFields_of, decodeOp_7B]
  simp +decide [decOp7B, word, Grd] at h ⊢ <;> try simp_all +decide
theorem futRet (g a n) : Statement (.futRet g a n) := by
  intro h _ w hw
  by_cases hn : n = 0 <;> (
    unfold encodable at h
    obtain rfl := Option.some.inj hw
    rw [decode_join, decodeFields_of, decodeOp_7B]
    simp +decide [decOp7B, word, Grd] at h ⊢ <;> try simp_all +decide)
theorem futureReclaim (team) : Statement (.futureReclaim team) := none_case rfl
theorem enRead (g d sel) : Statement (.enRead g d sel) := by
  intro h _ w hw
  unfold encodable at h
  obtain rfl := Option.some.inj hw
  rw [decode_join, decodeFields_of, decodeOp_7C]
  simp +decide [decOp7C, word, Grd] at h ⊢ <;> try simp_all +decide
theorem enMark (g a) : Statement (.enMark g a) := by
  intro h _ w hw
  unfold encodable at h
  obtain rfl := Option.some.inj hw
  rw [decode_join, decodeFields_of, decodeOp_7C]
  simp +decide [decOp7C, word, Grd] at h ⊢ <;> try simp_all +decide
theorem vfReq (g d a) : Statement (.vfReq g d a) := by
  intro h _ w hw
  unfold encodable at h
  obtain rfl := Option.some.inj hw
  rw [decode_join, decodeFields_of, decodeOp_7C]
  simp +decide [decOp7C, word, Grd] at h ⊢ <;> try simp_all +decide
theorem vfStat (g d) : Statement (.vfStat g d) := by
  intro h _ w hw
  unfold encodable at h
  obtain rfl := Option.some.inj hw
  rw [decode_join, decodeFields_of, decodeOp_7C]
  simp +decide [decOp7C, word, Grd] at h ⊢ <;> try simp_all +decide
theorem collRed (g op d a b c) : Statement (.collRed g op d a b c) := by
  intro h _ w hw
  unfold encodable at h
  obtain rfl := Option.some.inj hw
  rw [decode_join, decodeFields_of, decodeOp_7C]
  simp +decide [decOp7C, word, Grd] at h ⊢ <;> try simp_all +decide
theorem collBcast (g d a b c) : Statement (.collBcast g d a b c) := by
  intro h _ w hw
  unfold encodable at h
  obtain rfl := Option.some.inj hw
  rw [decode_join, decodeFields_of, decodeOp_7C]
  simp +decide [decOp7C, word, Grd] at h ⊢ <;> try simp_all +decide
theorem collWait (g d a) : Statement (.collWait g d a) := by
  intro h _ w hw
  unfold encodable at h
  obtain rfl := Option.some.inj hw
  rw [decode_join, decodeFields_of, decodeOp_7C]
  simp +decide [decOp7C, word, Grd] at h ⊢ <;> try simp_all +decide
theorem collPartialArrival (part grp k fromPkg bcast op root mism bytes gtag len) : Statement (.collPartialArrival part grp k fromPkg bcast op root mism bytes gtag len) := none_case rfl
theorem collResultArrival (part grp k fromPkg mism bytes gtag) : Statement (.collResultArrival part grp k fromPkg mism bytes gtag) := none_case rfl
theorem collectiveTimeout (part grp k) : Statement (.collectiveTimeout part grp k) := none_case rfl
theorem bucketServeRequest (core ctx) : Statement (.bucketServeRequest core ctx) := none_case rfl
theorem grantAnswerArrival (core ctx) : Statement (.grantAnswerArrival core ctx) := none_case rfl
theorem tickBoundary : Statement .tickBoundary := none_case rfl
theorem meterRecordClose (part) : Statement (.meterRecordClose part) := none_case rfl
theorem pointChangeComplete (part) : Statement (.pointChangeComplete part) := none_case rfl
theorem capPeriodStart : Statement .capPeriodStart := none_case rfl
theorem capDivision : Statement .capDivision := none_case rfl
theorem capShareArrival (domain share) : Statement (.capShareArrival domain share) := none_case rfl
theorem sliceReadRequest (core ctx line) : Statement (.sliceReadRequest core ctx line) := none_case rfl
theorem sliceOwnRequest (core ctx line) : Statement (.sliceOwnRequest core ctx line) := none_case rfl
theorem sliceWriteRequest (core idx) : Statement (.sliceWriteRequest core idx) := none_case rfl
theorem sliceWriteback (core line) : Statement (.sliceWriteback core line) := none_case rfl
theorem pageWalk (die ctx va acc level) : Statement (.pageWalk die ctx va acc level) := none_case rfl
theorem teamPlacement (die team core) : Statement (.teamPlacement die team core) := none_case rfl
theorem teamRetire (team) : Statement (.teamRetire team) := none_case rfl
theorem spillTest (team) : Statement (.spillTest team) := none_case rfl
theorem rotationPreemption (team) : Statement (.rotationPreemption team) := none_case rfl
theorem rotationTimeout (team) : Statement (.rotationTimeout team) := none_case rfl
theorem teamSave (team) : Statement (.teamSave team) := none_case rfl
theorem teamRestore (die team core) : Statement (.teamRestore die team core) := none_case rfl
theorem watchdogExpiry (ctx) : Statement (.watchdogExpiry ctx) := none_case rfl
theorem saveBoundExpiry (team) : Statement (.saveBoundExpiry team) := none_case rfl
theorem clusterLend (cluster part) : Statement (.clusterLend cluster part) := none_case rfl
theorem clusterReclaim (cluster) : Statement (.clusterReclaim cluster) := none_case rfl
theorem reclaimRefusedTimeout (team) : Statement (.reclaimRefusedTimeout team) := none_case rfl
theorem limiterRefill (die part) : Statement (.limiterRefill die part) := none_case rfl
theorem remoteRequestAdmission (pkg tag pa req) : Statement (.remoteRequestAdmission pkg tag pa req) := none_case rfl
theorem notifyWrite (fn ring v) : Statement (.notifyWrite fn ring v) := none_case rfl
theorem ringEnable (fn ring v) : Statement (.ringEnable fn ring v) := none_case rfl
theorem ringDisable (fn ring) : Statement (.ringDisable fn ring) := none_case rfl
theorem tokenRefill (fn) : Statement (.tokenRefill fn) := none_case rfl
theorem parserDrain (fn ring) : Statement (.parserDrain fn ring) := none_case rfl
theorem parserRetry (fn ring) : Statement (.parserRetry fn ring) := none_case rfl
theorem headWritebackTimer (fn ring) : Statement (.headWritebackTimer fn ring) := none_case rfl
theorem launch (fn ring pos) : Statement (.launch fn ring pos) := none_case rfl
theorem copy (fn ring pos) : Statement (.copy fn ring pos) := none_case rfl
theorem copyPacketComplete (fn ring pos) : Statement (.copyPacketComplete fn ring pos) := none_case rfl
theorem waitMem (fn ring pos) : Statement (.waitMem fn ring pos) := none_case rfl
theorem waitMemHostPoll (fn ring pos) : Statement (.waitMemHostPoll fn ring pos) := none_case rfl
theorem writeMem (fn ring pos) : Statement (.writeMem fn ring pos) := none_case rfl
theorem fencePacket (fn ring pos) : Statement (.fencePacket fn ring pos) := none_case rfl
theorem energyMark (fn ring pos) : Statement (.energyMark fn ring pos) := none_case rfl
theorem timestamp (fn ring pos) : Statement (.timestamp fn ring pos) := none_case rfl
theorem predicate (fn ring pos) : Statement (.predicate fn ring pos) := none_case rfl
theorem relaunch (fn ring pos) : Statement (.relaunch fn ring pos) := none_case rfl
theorem tlbinvBlock (fn v) : Statement (.tlbinvBlock fn v) := none_case rfl
theorem tlbinvContext (fn v) : Statement (.tlbinvContext fn v) := none_case rfl
theorem tlbinvPartition (fn v) : Statement (.tlbinvPartition fn v) := none_case rfl
theorem s2inv (v) : Statement (.s2inv v) := none_case rfl
theorem prqResponseOk (fn id) : Statement (.prqResponseOk fn id) := none_case rfl
theorem prqResponseFail (fn id) : Statement (.prqResponseFail fn id) := none_case rfl
theorem exportRequest (fn) : Statement (.exportRequest fn) := none_case rfl
theorem notifyrateWrite (fn v) : Statement (.notifyrateWrite fn v) := none_case rfl
theorem contextEnable (ctx) : Statement (.contextEnable ctx) := none_case rfl
theorem contextDisable (ctx) : Statement (.contextDisable ctx) := none_case rfl
theorem ccload (v) : Statement (.ccload v) := none_case rfl
theorem mailboxPublish (sender m v) : Statement (.mailboxPublish sender m v) := none_case rfl
theorem mailboxClear (core m) : Statement (.mailboxClear core m) := none_case rfl
theorem agtcmdFragment (v) : Statement (.agtcmdFragment v) := none_case rfl
theorem readClearRegister (fn off) : Statement (.readClearRegister fn off) := none_case rfl
theorem registerWrite (fn off size v) : Statement (.registerWrite fn off size v) := none_case rfl
theorem coldStartCommand (c) : Statement (.coldStartCommand c) := none_case rfl
theorem warmStartCommand (c) : Statement (.warmStartCommand c) := none_case rfl
theorem recovery (c) : Statement (.recovery c) := none_case rfl
theorem writeAgturRegisters (c) : Statement (.writeAgturRegisters c) := none_case rfl
theorem setPackageTenant (c) : Statement (.setPackageTenant c) := none_case rfl
theorem setPartitionTenant (c) : Statement (.setPartitionTenant c) := none_case rfl
theorem enrolLeaseKey (c) : Statement (.enrolLeaseKey c) := none_case rfl
theorem installWeightTable (c) : Statement (.installWeightTable c) := none_case rfl
theorem retirePseudoChannel (c) : Statement (.retirePseudoChannel c) := none_case rfl
theorem drainQuarter (c) : Statement (.drainQuarter c) := none_case rfl
theorem retrainFabricPort (c) : Statement (.retrainFabricPort c) := none_case rfl
theorem replaceCommandCoreImage (c) : Statement (.replaceCommandCoreImage c) := none_case rfl
theorem reclaimLentClusters (c) : Statement (.reclaimLentClusters c) := none_case rfl
theorem assignPkgid (c) : Statement (.assignPkgid c) := none_case rfl
theorem writeAgturFirmware (c) : Statement (.writeAgturFirmware c) := none_case rfl
theorem coldStart (failStep) : Statement (.coldStart failStep) := none_case rfl
theorem warmStart (failStep kept) : Statement (.warmStart failStep kept) := none_case rfl
theorem functionLevelReset (fn) : Statement (.functionLevelReset fn) := none_case rfl
theorem thermalThrottle (quarter hot) : Statement (.thermalThrottle quarter hot) := none_case rfl
theorem thermalTrip : Statement .thermalTrip := none_case rfl
theorem softError (site) : Statement (.softError site) := none_case rfl
theorem dieFailure (die) : Statement (.dieFailure die) := none_case rfl
theorem exchangePortFailure (cluster) : Statement (.exchangePortFailure cluster) := none_case rfl
theorem pairLinkFailure (pair) : Statement (.pairLinkFailure pair) := none_case rfl
theorem portFailure (port) : Statement (.portFailure port) := none_case rfl
theorem mediumIdentify (port ok) : Statement (.mediumIdentify port ok) := none_case rfl
theorem xstWriteComplete (core) : Statement (.xstWriteComplete core) := none_case rfl
theorem flitReplay (port) : Statement (.flitReplay port) := none_case rfl
theorem msixMaskClear (fn vec) : Statement (.msixMaskClear fn vec) := none_case rfl
theorem privilegedContextSave (ctx) : Statement (.privilegedContextSave ctx) := none_case rfl
theorem trivetAgturImage (image) : Statement (.trivetAgturImage image) := none_case rfl
theorem capReportArrival (pkg domain flr demand) : Statement (.capReportArrival pkg domain flr demand) := none_case rfl
theorem illegalEncoding (w) : Statement (.illegalEncoding w) := none_case rfl
theorem fetchFault (c) : Statement (.fetchFault c) := none_case rfl

end Sys2Proof.Laws.RoundTrip
end

