-- ==== Sys2Proof/Laws/Slices.lean ====
section
/-! SUPPORT. What a Read at a home slice leaves as it is where no store, accumulate or spilled monitor is on its way there: memory,
and teams that are on no core. -/

namespace Sys2Proof.Machine

/-- No core has a store on its way, and no home slice holds an accepted accumulate or the monitor of a spilled team. -/
structure Quiet (s : State) : Prop where
  out : ∀ p ∈ s.cores, p.2.out = []
  slices : ∀ h, (s.slice h).accept = [] ∧ (s.slice h).spillMon = []

/-- A quiet state stays quiet, and memory, the package's number and every team that has no place are the same. -/
structure StillAs (s t : State) : Prop where
  mem : t.mem = s.mem
  pkgid : t.pkgid = s.pkgid
  off : ∀ k, (s.team k).onDie = false → t.team k = s.team k
  quiet : Quiet s → Quiet t

theorem StillAs.refl (s : State) : StillAs s s := ⟨rfl, rfl, fun _ _ => rfl, id⟩
theorem StillAs.trans {s t u : State} (h : StillAs s t) (k : StillAs t u) : StillAs s u :=
  ⟨k.mem.trans h.mem, k.pkgid.trans h.pkgid, fun x e => by
    have e1 := h.off x e
    rw [← e1, k.off x (by rw [e1]; exact e)], fun q => k.quiet (h.quiet q)⟩

/-- From a quiet state a step leaves it still. -/
def Still (f : State → State) : Prop := ∀ s, Quiet s → StillAs s (f s)
theorem Still.comp {f g : State → State} (hf : Still f) (hg : Still g) : Still (fun s => g (f s)) :=
  fun s q => (hf s q).trans (hg _ ((hf s q).quiet q))
theorem Still.foldl {α : Type} {f : State → α → State} (h : ∀ x, Still (fun s => f s x)) (l : List α) : Still (fun s => l.foldl f s) := by
  induction l with
  | nil => exact fun s _ => .refl s
  | cons x l ih => exact (h x).comp ih
theorem Still.ite {f g : State → State} (c : State → Prop) [∀ s, Decidable (c s)] (hf : Still f) (hg : Still g) :
    Still (fun s => if c s then f s else g s) := fun s q => by
  show StillAs s (if c s then f s else g s)
  split
  · exact hf s q
  · exact hg s q
theorem still_id : Still (fun s => s) := fun s _ => .refl s

theorem mem_of_tfind {α : Type} {t : Tbl α} {a : Nat} {v : α} (h : tfind t a = some v) : (a, v) ∈ t := by
  induction t with
  | nil => simp at h
  | cons p t ih =>
    obtain ⟨k, w⟩ := p
    simp only [tfind] at h
    split at h
    · simp_all
    · exact List.mem_cons_of_mem _ (ih h)

theorem still_modCore (c : Nat) {f : Core → Core} (h : ∀ C, (f C).out = C.out) : Still (fun s => s.modCore c f) := fun s _ =>
  ⟨rfl, rfl, fun _ _ => rfl, fun q => ⟨fun p hp => by
    rcases mem_tput (show p ∈ tput s.cores c (f (s.core c)) from hp) with e | e
    · rw [e, h]
      show (tget {} s.cores c : Core).out = []
      unfold tget
      cases e2 : tfind s.cores c with
      | none => rfl
      | some C => exact q.out _ (mem_of_tfind e2)
    · exact q.out _ e, q.slices⟩⟩
theorem still_modDie (d : Nat) (f : Die → Die) : Still (fun s => s.modDie d f) := fun _ _ =>
  ⟨rfl, rfl, fun _ _ => rfl, fun q => ⟨q.out, q.slices⟩⟩
theorem still_modMeter (core ctx : Nat) (f : Meter → Meter) : Still (fun s => s.modMeter core ctx f) := still_modCore core (fun _ => rfl)
theorem StillAs.withDyn {s t : State} (h : StillAs s t) (d : Tbl Nat) : StillAs s { t with dyn := d } :=
  ⟨h.mem, h.pkgid, h.off, fun q => ⟨(h.quiet q).out, (h.quiet q).slices⟩⟩
theorem still_chargeOnly (core ctx u dom : Nat) : Still (fun s => s.chargeOnly core ctx u dom) :=
  .ite (fun _ => core = noCore) (fun s q => (still_id s q).withDyn _)
    (fun s q => (still_modMeter core ctx (fun M => { M with rem := M.rem - u, cons := M.cons + u }) s q).withDyn _)
theorem still_modCtx (c : Nat) (f : Context → Context) : Still (fun s => s.modCtx c f) := fun _ _ =>
  ⟨rfl, rfl, fun _ _ => rfl, fun q => ⟨q.out, q.slices⟩⟩
theorem still_post (core ctx : Nat) : Still (fun s => s.post core ctx) := fun s q =>
  ((still_modMeter core ctx (fun M => { M with cons := M.cons % 8000 })).comp
    (still_modCtx ctx (fun C => ({ C with consumed := C.consumed + (s.meter core ctx).cons / 8000, dyn := C.dyn + (s.meter core ctx).cons / 8000 } :
      Context).addVJ ((s.meter core ctx).cons / 8000 : Nat)))) s q
theorem still_wantGrant (core ctx : Nat) : Still (fun s => s.wantGrant core ctx) :=
  .ite (fun s => core ≠ noCore ∧ (s.meter core ctx).wants = true) ((still_post core ctx).comp (still_modMeter core ctx _)) still_id
theorem still_chargeRaw (core ctx u dom : Nat) : Still (fun s => s.chargeRaw core ctx u dom) :=
  (still_chargeOnly core ctx u dom).comp (still_wantGrant core ctx)
theorem still_modSlice (n : Nat) {f : Slice → Slice} (h : ∀ S, (f S).accept = S.accept ∧ (f S).spillMon = S.spillMon) :
    Still (fun s => s.modSlice n f) := fun s _ =>
  ⟨rfl, rfl, fun _ _ => rfl, fun q => ⟨q.out, fun k => by
    by_cases e : k = n
    · subst e; rw [State.slice_modSlice, (h _).1, (h _).2]; exact q.slices k
    · show ((tget {} (tput s.slices n (f (s.slice n))) k : Slice).accept = [] ∧ _)
      simp only [State.slice, State.modSlice, tget_tput, e, if_false]; exact q.slices k⟩⟩
/-- Changes of the counters alone. -/
theorem still_counters (f g : State → Nat) : Still (fun s => { s with nextId := f s, fuel := g s }) := fun _ _ =>
  ⟨rfl, rfl, fun _ _ => rfl, fun q => ⟨q.out, q.slices⟩⟩

theorem still_mapOnDie (f : Team → Team) : Still (fun s => s.mapTeams (fun _ T => if T.onDie then f T else T)) := fun s _ => by
  refine ⟨rfl, rfl, fun k e => ?_, fun q => ⟨q.out, q.slices⟩⟩
  show tget {} (s.mapTeams (fun _ T => if T.onDie then f T else T)).teams k = tget {} s.teams k
  have e' : (tget {} s.teams k : Team).onDie = false := e
  revert e'
  unfold State.mapTeams tget
  generalize s.teams = ts
  intro e'
  induction ts with
  | nil => rfl
  | cons p t ih =>
    simp only [List.map_cons, tfind] at e' ⊢
    split at e' <;> rename_i h
    · simp_all
    · simp_all
theorem still_wakeLost (core line : Nat) : Still (fun s => s.wakeLost core line) := fun s q =>
  still_mapOnDie (fun T => T.mapGangs (fun _ G => if s.l1Core G.core line = core then G.wake true (onLine line) else G)) s q
theorem still_wakeSpilled (line : Nat) : Still (fun s => s.wakeSpilled line) := fun s q => by
  have e : s.wakeSpilled line = s := by
    unfold State.wakeSpilled
    simp [(q.slices _).2]
  show StillAs s (s.wakeSpilled line)
  rw [e]; exact .refl s
theorem still_modEntry (n line : Nat) (f : DirEntry → DirEntry) : Still (fun s => s.modSlice n (fun S => S.modEntry line f)) :=
  still_modSlice n (fun _ => ⟨rfl, rfl⟩)
theorem still_dropShare (core line : Nat) : Still (fun s => s.dropShare core line) := fun s q => still_modEntry _ line _ s q
theorem still_dropL1 (core line : Nat) : Still (fun s => s.dropL1 core line) := fun s q => by
  have h := still_modCore core (f := fun C => { C with l1 := C.l1.filter (fun x => !decide (x.line = line)) }) (fun _ => rfl) s q
  show StillAs s (s.dropL1 core line)
  unfold State.dropL1
  dsimp only
  split
  · exact h.trans (((still_wakeLost core line).comp (still_dropShare core line)) _ (h.quiet q))
  · exact h
theorem still_invalidate (line : Nat) (keep : Option Nat) : Still (fun s => s.invalidate line keep) := fun s q =>
  Still.foldl (f := fun s c => s.dropL1 c line) (fun c => still_dropL1 c line) ((s.holders line).filter (fun c => !decide (some c = keep))) s q
theorem still_freeBypass (line : Nat) : Still (fun s => s.freeBypass line) := fun s q => by
  show StillAs s (s.freeBypass line)
  unfold State.freeBypass
  dsimp only
  split
  · exact still_modSlice _ (f := fun S => { S with bypass := S.bypass.filter (fun e => !(decide (e.line = line))) }) (fun _ => ⟨rfl, rfl⟩) s q
  · exact .refl s
theorem still_chargeMiss (m : Miss) : Still (fun s => s.chargeMiss m) := fun s q => by
  show StillAs s (s.chargeMiss m)
  unfold State.chargeMiss
  split
  · exact ⟨rfl, rfl, fun _ _ => rfl, fun q => ⟨q.out, q.slices⟩⟩
  · exact still_chargeRaw _ _ _ _ s q
theorem still_chargeBursts (core ctx line : Nat) : Still (fun s => s.chargeBursts core ctx line) := still_chargeMiss _
theorem still_chargeL2 (core ctx line : Nat) : Still (fun s => s.chargeL2 core ctx line) := still_chargeMiss _
theorem still_ownerData (core ctx line : Nat) (e : DirEntry) : Still (fun s => s.ownerData core ctx line e) := by
  unfold State.ownerData
  refine .ite (fun _ => e.owner.isSome = true) ?_ still_id
  exact ((Still.ite (fun _ => e.way.isNone = true) (still_chargeBursts core ctx line) still_id).comp (still_modEntry _ _ _)).comp
    (still_wakeSpilled line)
theorem Slice.subOcc_rest (S : Slice) (p : Nat) : (S.subOcc p).accept = S.accept ∧ (S.subOcc p).spillMon = S.spillMon := ⟨rfl, rfl⟩
theorem still_evict (core ctx h : Nat) (e : DirEntry) : Still (fun s => s.evict core ctx h e) := by
  unfold State.evict
  refine (((still_ownerData core ctx e.line e).comp (still_invalidate e.line none)).comp
    (.ite (fun _ => (e.way.isSome && (e.dirty || e.owner.isSome)) = true) (still_chargeBursts core ctx e.line) still_id)).comp
      (still_modSlice h (fun S => ?_))
  dsimp only
  split
  · exact Slice.subOcc_rest _ _
  · exact ⟨rfl, rfl⟩
theorem still_recent (line : Nat) : Still (fun s => s.recent line) := fun s q => by
  have h := still_modEntry (homeOf (line * 128)) line (fun e => { e with stamp := s.nextId }) s q
  exact ⟨h.mem, h.pkgid, h.off, fun q => ⟨(h.quiet q).out, (h.quiet q).slices⟩⟩
theorem still_hit (core ctx line : Nat) (e : DirEntry) : Still (fun s => s.hit core ctx line e) := by
  unfold State.hit
  exact ((still_chargeL2 core ctx line).comp (.ite (fun _ => e.way.isNone = true) (still_chargeBursts core ctx line) still_id)).comp
    (still_recent line)
theorem StillAs.filled {s t : State} (h : StillAs s t) (hq : Quiet s) (n : Nat) {f : Slice → Slice}
    (hf : ∀ S, (f S).accept = S.accept ∧ (f S).spillMon = S.spillMon) : StillAs s { t.modSlice n f with nextId := t.nextId + 1 } :=
  have k := h.trans (still_modSlice n hf t (h.quiet hq))
  ⟨k.mem, k.pkgid, k.off, fun q => ⟨(k.quiet q).out, (k.quiet q).slices⟩⟩
theorem still_fill (core ctx line : Nat) : Still (fun s => s.fill core ctx line) := fun s q => by
  have h0 := ((still_chargeL2 core ctx line).comp (still_chargeBursts core ctx line)) s q
  have h1 : StillAs s (if (tfind (s.slice (homeOf (line * 128))).refused line).isNone then (s.chargeL2 core ctx line).chargeBursts core ctx line
      else ((s.chargeL2 core ctx line).chargeBursts core ctx line).modSlice (homeOf (line * 128)) (fun S => { S with refused := terase S.refused line })) := by
    split
    · exact h0
    · exact h0.trans (still_modSlice (homeOf (line * 128)) (f := fun S => { S with refused := terase S.refused line }) (fun _ => ⟨rfl, rfl⟩) _ (h0.quiet q))
  have h2 := fun e => h1.trans (still_evict core ctx (homeOf (line * 128)) e _ (h1.quiet q))
  show StillAs s (s.fill core ctx line)
  unfold State.fill
  dsimp only
  revert h1 h2
  generalize (if (tfind (s.slice (homeOf (line * 128))).refused line).isNone then _ else _ : State) = s1
  intro h1 h2
  split
  · refine StillAs.filled ?_ q _ (fun _ => ⟨rfl, rfl⟩)
    split
    · exact h2 _
    · exact h1
  · refine StillAs.filled ?_ q _ (fun _ => ⟨rfl, rfl⟩)
    split
    · exact h1
    · split
      · exact h2 _
      · exact h1
/-- R310, R324: a line is found, or is filled. -/
theorem still_lookup (core ctx line : Nat) : Still (fun s => s.lookup core ctx line) := fun s q => by
  show StillAs s (s.lookup core ctx line)
  unfold State.lookup
  split
  · exact still_hit _ _ _ _ s q
  · exact still_fill _ _ _ s q

/-- R334: with nothing accepted there is nothing to settle. -/
theorem settleLine_empty (s : State) (line : Nat) (h : (s.slice (homeOf (line * 128))).accept = []) : s.settleLine line = s := by
  simp [State.settleLine, h]
theorem still_settleLine (line : Nat) : Still (fun s => s.settleLine line) := fun s q => by
  show StillAs s (s.settleLine line)
  rw [settleLine_empty _ _ (q.slices _).1]; exact .refl s
/-- R319: with no store on its way there is none to wait for. -/
theorem still_settleEndpoint (core ctx line : Nat) : Still (fun s => s.settleEndpoint core ctx line) := fun s q => by
  have e : ∀ t, s.outWrites t = [] := fun t => by
    have : (s.cores.flatMap (fun c => (c.2.out.filter (t c.1)).map (fun w => (c.1, w)))) = [] := by
      rw [List.flatMap_eq_nil_iff]
      intro p hp
      simp [q.out p hp]
    unfold State.outWrites
    rw [this]; rfl
  show StillAs s (s.settleEndpoint core ctx line)
  unfold State.settleEndpoint
  rw [e]; exact .refl s
theorem still_inject (core ctx n : Nat) : Still (fun s => s.inject core ctx n) := fun s q => by
  show StillAs s (s.inject core ctx n)
  unfold State.inject
  dsimp only
  split
  · exact .refl s
  · exact still_modDie _ _ s q
theorem still_readAt (core ctx line : Nat) : Still (fun s => s.readAt core ctx line) := fun s q => by
  have h1 := ((still_settleLine line).comp (still_lookup core ctx line)) s q
  show StillAs s (s.readAt core ctx line)
  unfold State.readAt
  dsimp only
  split
  · split
    · rename_i e _ _ o _
      have h2 := h1.trans (still_ownerData core ctx line e _ (h1.quiet q))
      have h3 := h2.trans (still_modCore o (f := fun C =>
        { C with l1 := C.l1.map (fun (x : L1Line) => if x.line = line then { x with excl := false } else x) }) (fun _ => rfl) _ (h2.quiet q))
      exact h3.trans (still_modEntry _ line _ _ (h3.quiet q))
    · exact h1
  · exact h1

theorem still_readLine (core ctx line : Nat) : Still (fun s => s.readLine core ctx line) :=
  (still_inject core ctx 1).comp (still_readAt core ctx line)

theorem still_sliceWriteBack (core line : Nat) : Still (fun s => s.sliceWriteBack core line) := by
  unfold State.sliceWriteBack
  exact (((still_dropL1 core line).comp (still_modEntry _ _ _)).comp (still_wakeSpilled line)).comp (still_freeBypass line)
theorem still_evictL1 (core : Nat) (x : L1Line) : Still (fun s => s.evictL1 core x) := by
  unfold State.evictL1
  exact .ite (fun _ => x.excl = true) (still_sliceWriteBack core x.line) ((still_dropL1 core x.line).comp (still_freeBypass x.line))
theorem still_makeRoom (core line : Nat) : Still (fun s => s.makeRoom core line) := fun s q => by
  have hf : StillAs s s.free.2 := ⟨rfl, rfl, fun _ _ => rfl, fun q => ⟨q.out, q.slices⟩⟩
  show StillAs s (s.makeRoom core line)
  unfold State.makeRoom
  dsimp only
  split
  · exact .refl s
  · split
    · exact hf.trans (still_evictL1 core _ _ (hf.quiet q))
    · exact hf
theorem Core.setL1_out (C : Core) (line : Nat) (excl : Bool) : (C.setL1 line excl).out = C.out := by
  unfold Core.setL1; split <;> rfl
theorem still_putL1 (core line : Nat) (excl : Bool) : Still (fun s => s.putL1 core line excl) := fun s q =>
  ((still_makeRoom (s.l1Core core line) line).comp (still_modCore (s.l1Core core line) (fun C => C.setL1_out line excl))) s q

/-- R310: a Read from a quiet state. -/
theorem still_sliceRead (core ctx line : Nat) : Still (fun s => s.sliceRead core ctx line) := fun s q => by
  have h1 := ((still_settleEndpoint core ctx line).comp (still_readLine core ctx line)) s q
  have h2 := h1.trans (still_modEntry (homeOf (line * 128)) line (fun e => { e with sharers := e.sharers ||| clusterBit core }) _ (h1.quiet q))
  exact h2.trans (still_putL1 core line false _ (h2.quiet q))

end Sys2Proof.Machine
end

