-- ==== Sys2Proof/Laws/Words.lean ====
section
/-! SUPPORT. The shared shape of words: the checks before a word, its end, and what a change made lane by lane writes. -/

namespace Sys2Proof

open Machine Safety

/-! ### Whether a word runs -/

/-- A word that waits for nothing and passes its checks is its body. -/
theorem Machine.runWord_clear {i : Instr} {s : State} (h : s.clear i = true) (body : State → Out) : runWord i s body = body s := by
  unfold State.clear at h
  simp only [Bool.and_eq_true, Bool.not_eq_true', Option.isNone_iff_eq_none] at h
  unfold runWord
  rw [h.1, h.2]
  rfl

/-- The registers that a clear word names are within their limits. -/
theorem Machine.legal_of_clear {i : Instr} {s : State} (h : s.clear i = true) : ∀ r ∈ i.refs, Ref.legal s.curTeam.launch s.curGang r = true := by
  unfold State.clear at h
  simp only [Bool.and_eq_true, Bool.not_eq_true', Option.isNone_iff_eq_none] at h
  have h2 := h.2
  unfold State.precheck at h2
  by_cases hr : i.refs.all (Ref.legal s.curTeam.launch s.curGang) = true
  · exact fun r m => List.all_eq_true.mp hr r m
  · simp [hr] at h2

theorem Machine.regWord_clear {i : Instr} {s : State} (h : s.clear i = true) (g : Grd) (once : Bool) (f : Gang → Nat → Gang) :
    regWord i g once s f = .next ((s.setCur (s.curGang.mapActive (s.active g) once f)).finish false) := by
  unfold regWord
  rw [runWord_clear h]
  rfl

set_option maxHeartbeats 1000000 in
/-- Every row that is a word begins with the waits and checks of `runWord`. -/
theorem Machine.exec_word (i : Instr) (s : State) (h : i.isWord = true) : ∃ body, exec i s = runWord i s body := by
  cases i with
  | nop g => exact ⟨_, by show execNop g s = _; unfold execNop; rfl⟩
  | bra g off => exact ⟨_, by show execBra g off s = _; unfold execBra; rfl⟩
  | brx g a => exact ⟨_, by show execBrx g a s = _; unfold execBrx; rfl⟩
  | call g off => exact ⟨_, by show execCall g off s = _; unfold execCall callWord; rfl⟩
  | callv g a => exact ⟨_, by show execCallv g a s = _; unfold execCallv callWord; rfl⟩
  | ret g => exact ⟨_, by show execRet g s = _; unfold execRet; rfl⟩
  | exit g => exact ⟨_, by show execExit g s = _; unfold execExit; rfl⟩
  | join g d => exact ⟨_, by show execJoin g d s = _; unfold execJoin maskWord; rfl⟩
  | leave g d => exact ⟨_, by show execLeave g d s = _; unfold execLeave maskWord; rfl⟩
  | waitm g a => exact ⟨_, by show execWaitm g a s = _; unfold execWaitm; rfl⟩
  | mset g all d a => exact ⟨_, by show execMset g all d a s = _; unfold execMset maskWord; rfl⟩
  | mmov g d a =>
    by_cases e : d.sc
    · exact ⟨_, by show execMmov g d a s = _; unfold execMmov; rw [if_pos e]⟩
    · exact ⟨_, by show execMmov g d a s = _; unfold execMmov maskWord; rw [if_neg e]⟩
  | mand g d a b => exact ⟨_, by show execMand g d a b s = _; unfold execMand maskWord; rfl⟩
  | mor g d a b => exact ⟨_, by show execMor g d a b s = _; unfold execMor maskWord; rfl⟩
  | mpop g d a => exact ⟨_, by show execMpop g d a s = _; unfold execMpop; rfl⟩
  | mfromk g d a => exact ⟨_, by show execMfromk g d a s = _; unfold execMfromk maskWord; rfl⟩
  | rep cnt sd sa sb sc => exact ⟨_, by show execRep cnt sd sa sb sc s = _; unfold execRep; rfl⟩
  | yield g => exact ⟨_, by show execYield g s = _; unfold execYield; rfl⟩
  | pairWord s0 s1 => exact ⟨_, by show execPairWord s0 s1 s = _; unfold execPairWord floatWord; rfl⟩
  | iadd g t d a b => exact ⟨_, by show execIadd g t d a b s = _; unfold execIadd regWord; rfl⟩
  | isub g t d a b => exact ⟨_, by show execIsub g t d a b s = _; unfold execIsub regWord; rfl⟩
  | iaddsat g t d a b => exact ⟨_, by show execIaddsat g t d a b s = _; unfold execIaddsat regWord; rfl⟩
  | isubsat g t d a b => exact ⟨_, by show execIsubsat g t d a b s = _; unfold execIsubsat regWord; rfl⟩
  | imul g t d a b => exact ⟨_, by show execImul g t d a b s = _; unfold execImul regWord; rfl⟩
  | imulh g t d a b => exact ⟨_, by show execImulh g t d a b s = _; unfold execImulh regWord; rfl⟩
  | imad g t d a b c => exact ⟨_, by show execImad g t d a b c s = _; unfold execImad regWord; rfl⟩
  | idiv g t d a b => exact ⟨_, by show execIdiv g t d a b s = _; unfold execIdiv regWord; rfl⟩
  | irem g t d a b => exact ⟨_, by show execIrem g t d a b s = _; unfold execIrem regWord; rfl⟩
  | imin g t d a b => exact ⟨_, by show execImin g t d a b s = _; unfold execImin regWord; rfl⟩
  | imax g t d a b => exact ⟨_, by show execImax g t d a b s = _; unfold execImax regWord; rfl⟩
  | iabs g t sat d a => exact ⟨_, by show execIabs g t sat d a s = _; unfold execIabs regWord; rfl⟩
  | ineg g t sat d a => exact ⟨_, by show execIneg g t sat d a s = _; unfold execIneg regWord; rfl⟩
  | and g t d a b => exact ⟨_, by show execAnd g t d a b s = _; unfold execAnd regWord; rfl⟩
  | or g t d a b => exact ⟨_, by show execOr g t d a b s = _; unfold execOr regWord; rfl⟩
  | xor g t d a b => exact ⟨_, by show execXor g t d a b s = _; unfold execXor regWord; rfl⟩
  | not g t d a => exact ⟨_, by show execNot g t d a s = _; unfold execNot regWord; rfl⟩
  | andn g t d a b => exact ⟨_, by show execAndn g t d a b s = _; unfold execAndn regWord; rfl⟩
  | shl g t d a b => exact ⟨_, by show execShl g t d a b s = _; unfold execShl regWord; rfl⟩
  | shr g t d a b => exact ⟨_, by show execShr g t d a b s = _; unfold execShr regWord; rfl⟩
  | sar g t d a b => exact ⟨_, by show execSar g t d a b s = _; unfold execSar regWord; rfl⟩
  | rotl g t d a b => exact ⟨_, by show execRotl g t d a b s = _; unfold execRotl regWord; rfl⟩
  | bfx g t d a b c => exact ⟨_, by show execBfx g t d a b c s = _; unfold execBfx regWord; rfl⟩
  | bfi g t d a b c => exact ⟨_, by show execBfi g t d a b c s = _; unfold execBfi regWord; rfl⟩
  | popc g t d a => exact ⟨_, by show execPopc g t d a s = _; unfold execPopc regWord; rfl⟩
  | clz g t d a => exact ⟨_, by show execClz g t d a s = _; unfold execClz regWord; rfl⟩
  | ctz g t d a => exact ⟨_, by show execCtz g t d a s = _; unfold execCtz regWord; rfl⟩
  | brev g t d a => exact ⟨_, by show execBrev g t d a s = _; unfold execBrev regWord; rfl⟩
  | bswap g t d a => exact ⟨_, by show execBswap g t d a s = _; unfold execBswap regWord; rfl⟩
  | sel g t d a b c => exact ⟨_, by show execSel g t d a b c s = _; unfold execSel regWord; rfl⟩
  | mov g t d a => exact ⟨_, by show execMov g t d a s = _; unfold execMov regWord; rfl⟩
  | lea g t d a b sh => exact ⟨_, by show execLea g t d a b sh s = _; unfold execLea regWord; rfl⟩
  | movi g d imm => exact ⟨_, by show execMovi g d imm s = _; unfold execMovi regWord; rfl⟩
  | movh g d imm => exact ⟨_, by show execMovh g d imm s = _; unfold execMovh regWord; rfl⟩
  | icmp g cd t d a b => exact ⟨_, by show execIcmp g cd t d a b s = _; unfold execIcmp regWord; rfl⟩
  | plop g op d a b => exact ⟨_, by show execPlop g op d a b s = _; unfold execPlop regWord; rfl⟩
  | pmov g neg d a => exact ⟨_, by show execPmov g neg d a s = _; unfold execPmov regWord; rfl⟩
  | vote g mode d a => exact ⟨_, by show execVote g mode d a s = _; unfold execVote; rfl⟩
  | ballot g d a => exact ⟨_, by show execBallot g d a s = _; unfold execBallot; rfl⟩
  | shfl g mode t d a b pout => exact ⟨_, by show execShfl g mode t d a b pout s = _; unfold execShfl; rfl⟩
  | idp4 g sgn sat d a b c => exact ⟨_, by show execIdp4 g sgn sat d a b c s = _; unfold execIdp4 regWord; rfl⟩
  | idp8 g sat d a b c => exact ⟨_, by show execIdp8 g sat d a b c s = _; unfold execIdp8 regWord; rfl⟩
  | bcast g t d a b => exact ⟨_, by show execBcast g t d a b s = _; unfold execBcast; rfl⟩
  | vrd g t d a b => exact ⟨_, by show execVrd g t d a b s = _; unfold execVrd; rfl⟩
  | iaddImm g sc t d a imm => exact ⟨_, by show execIaddImm g sc t d a imm s = _; unfold execIaddImm regWord; rfl⟩
  | isubImm g sc t d a imm => exact ⟨_, by show execIsubImm g sc t d a imm s = _; unfold execIsubImm regWord; rfl⟩
  | imulImm g sc t d a imm => exact ⟨_, by show execImulImm g sc t d a imm s = _; unfold execImulImm regWord; rfl⟩
  | iminImm g sc t d a imm => exact ⟨_, by show execIminImm g sc t d a imm s = _; unfold execIminImm regWord; rfl⟩
  | imaxImm g sc t d a imm => exact ⟨_, by show execImaxImm g sc t d a imm s = _; unfold execImaxImm regWord; rfl⟩
  | andImm g sc t d a imm => exact ⟨_, by show execAndImm g sc t d a imm s = _; unfold execAndImm regWord; rfl⟩
  | orImm g sc t d a imm => exact ⟨_, by show execOrImm g sc t d a imm s = _; unfold execOrImm regWord; rfl⟩
  | xorImm g sc t d a imm => exact ⟨_, by show execXorImm g sc t d a imm s = _; unfold execXorImm regWord; rfl⟩
  | shlImm g sc t d a imm => exact ⟨_, by show execShlImm g sc t d a imm s = _; unfold execShlImm regWord; rfl⟩
  | shrImm g sc t d a imm => exact ⟨_, by show execShrImm g sc t d a imm s = _; unfold execShrImm regWord; rfl⟩
  | sarImm g sc t d a imm => exact ⟨_, by show execSarImm g sc t d a imm s = _; unfold execSarImm regWord; rfl⟩
  | rotlImm g sc t d a imm => exact ⟨_, by show execRotlImm g sc t d a imm s = _; unfold execRotlImm regWord; rfl⟩
  | icmpImm g sc cd t d a imm => exact ⟨_, by show execIcmpImm g sc cd t d a imm s = _; unfold execIcmpImm regWord; rfl⟩
  | fadd g rm d a b => exact ⟨_, by show execFadd g rm d a b s = _; unfold execFadd floatWord; rfl⟩
  | fsub g rm d a b => exact ⟨_, by show execFsub g rm d a b s = _; unfold execFsub floatWord; rfl⟩
  | fmul g rm d a b => exact ⟨_, by show execFmul g rm d a b s = _; unfold execFmul floatWord; rfl⟩
  | ffma g rm d a b c => exact ⟨_, by show execFfma g rm d a b c s = _; unfold execFfma floatWord; rfl⟩
  | fmin g d a b => exact ⟨_, by show execFmin g d a b s = _; unfold execFmin floatWord; rfl⟩
  | fmax g d a b => exact ⟨_, by show execFmax g d a b s = _; unfold execFmax floatWord; rfl⟩
  | fcmp g cd d a b => exact ⟨_, by show execFcmp g cd d a b s = _; unfold execFcmp floatWord; rfl⟩
  | fclass g d a => exact ⟨_, by show execFclass g d a s = _; unfold execFclass floatWord; rfl⟩
  | frnd g rm d a => exact ⟨_, by show execFrnd g rm d a s = _; unfold execFrnd floatWord; rfl⟩
  | fcvt g kind rm inf d a => exact ⟨_, by show execFcvt g kind rm inf d a s = _; unfold execFcvt floatWord; rfl⟩
  | f2i g src dst rm d a => exact ⟨_, by show execF2i g src dst rm d a s = _; unfold execF2i floatWord; rfl⟩
  | i2f g dst src rm d a => exact ⟨_, by show execI2f g dst src rm d a s = _; unfold execI2f floatWord; rfl⟩
  | hxadd g rm d a b => exact ⟨_, by show execHxadd g rm d a b s = _; unfold execHxadd floatWord; rfl⟩
  | hxmul g rm d a b => exact ⟨_, by show execHxmul g rm d a b s = _; unfold execHxmul floatWord; rfl⟩
  | hxfma g rm d a b c => exact ⟨_, by show execHxfma g rm d a b c s = _; unfold execHxfma floatWord; rfl⟩
  | bxadd g rm d a b => exact ⟨_, by show execBxadd g rm d a b s = _; unfold execBxadd floatWord; rfl⟩
  | bxmul g rm d a b => exact ⟨_, by show execBxmul g rm d a b s = _; unfold execBxmul floatWord; rfl⟩
  | bxfma g rm d a b c => exact ⟨_, by show execBxfma g rm d a b c s = _; unfold execBxfma floatWord; rfl⟩
  | fdp2 g b16 rm d a b c => exact ⟨_, by show execFdp2 g b16 rm d a b c s = _; unfold execFdp2 floatWord; rfl⟩
  | frcp g la d a => exact ⟨_, by show execFrcp g la d a s = _; unfold execFrcp specialWord; rfl⟩
  | frsq g la d a => exact ⟨_, by show execFrsq g la d a s = _; unfold execFrsq specialWord; rfl⟩
  | fsqrt g la rm d a => exact ⟨_, by show execFsqrt g la rm d a s = _; unfold execFsqrt specialWord; rfl⟩
  | fexp2 g la d a => exact ⟨_, by show execFexp2 g la d a s = _; unfold execFexp2 specialWord; rfl⟩
  | flog2 g la d a => exact ⟨_, by show execFlog2 g la d a s = _; unfold execFlog2 specialWord; rfl⟩
  | fsin g la d a => exact ⟨_, by show execFsin g la d a s = _; unfold execFsin specialWord; rfl⟩
  | fcos g la d a => exact ⟨_, by show execFcos g la d a s = _; unfold execFcos specialWord; rfl⟩
  | ftanh g la d a => exact ⟨_, by show execFtanh g la d a s = _; unfold execFtanh specialWord; rfl⟩
  | fscale g rm d a b => exact ⟨_, by show execFscale g rm d a b s = _; unfold execFscale floatWord; rfl⟩
  | fgetexp g d a => exact ⟨_, by show execFgetexp g d a s = _; unfold execFgetexp floatWord; rfl⟩
  | gpack g inf d a => exact ⟨_, by show execGpack g inf d a s = _; unfold execGpack floatWord; rfl⟩
  | gunpack g d a => exact ⟨_, by show execGunpack g d a s = _; unfold execGunpack floatWord; rfl⟩
  | ld g la m => exact ⟨_, by show execLd g la m s = _; unfold execLd loadWord; rfl⟩
  | ldSigned g la m => exact ⟨_, by show execLdSigned g la m s = _; unfold execLdSigned loadWord; rfl⟩
  | st g m => exact ⟨_, by show execSt g m s = _; unfold execSt storeWord; rfl⟩
  | ldv g la m => exact ⟨_, by show execLdv g la m s = _; unfold execLdv loadWord; rfl⟩
  | stv g m => exact ⟨_, by show execStv g m s = _; unfold execStv storeWord; rfl⟩
  | lds g la m => exact ⟨_, by show execLds g la m s = _; unfold execLds loadScalar; rfl⟩
  | ldsSigned g la m => exact ⟨_, by show execLdsSigned g la m s = _; unfold execLdsSigned loadScalar; rfl⟩
  | sts g m => exact ⟨_, by show execSts g m s = _; unfold execSts; rfl⟩
  | gath g la m => exact ⟨_, by show execGath g la m s = _; unfold execGath gatherWord; rfl⟩
  | gathSigned g la m => exact ⟨_, by show execGathSigned g la m s = _; unfold execGathSigned gatherWord; rfl⟩
  | scat g m => exact ⟨_, by show execScat g m s = _; unfold execScat; rfl⟩
  | prf g m => exact ⟨_, by show execPrf g m s = _; unfold execPrf; rfl⟩
  | barSync g n cnt => exact ⟨_, by show execBarSync g n cnt s = _; unfold execBarSync; rfl⟩
  | barArv g n cnt => exact ⟨_, by show execBarArv g n cnt s = _; unfold execBarArv; rfl⟩
  | barWait g n => exact ⟨_, by show execBarWait g n s = _; unfold execBarWait; rfl⟩
  | barBytes g n b => exact ⟨_, by show execBarBytes g n b s = _; unfold execBarBytes; rfl⟩
  | waitA g wide scr a b => exact ⟨_, by show execWaitA g wide scr a b s = _; unfold execWaitA waitWord; rfl⟩
  | waitT g wide scr d a b c => exact ⟨_, by show execWaitT g wide scr d a b c s = _; unfold execWaitT waitWord; rfl⟩
  | fence g y => exact ⟨_, by show execFence g y s = _; unfold execFence; rfl⟩
  | atom32 g la op ord y sgn d a b c => exact ⟨_, by show execAtom32 g la op ord y sgn d a b c s = _; unfold execAtom32 atomWord; rfl⟩
  | atom64 g la op ord y sgn d a b c => exact ⟨_, by show execAtom64 g la op ord y sgn d a b c s = _; unfold execAtom64 atomWord; rfl⟩
  | cpGs g q a b c desc => exact ⟨_, by show execCpGs g q a b c desc s = _; unfold execCpGs copyWord; rfl⟩
  | cpSg g q a b c desc => exact ⟨_, by show execCpSg g q a b c desc s = _; unfold execCpSg copyWord; rfl⟩
  | cpGg g q a b c desc => exact ⟨_, by show execCpGg g q a b c desc s = _; unfold execCpGg copyWord; rfl⟩
  | cpFence g y mask desc => exact ⟨_, by show execCpFence g y mask desc s = _; unfold execCpFence; rfl⟩
  | cpPoll g d => exact ⟨_, by show execCpPoll g d s = _; unfold execCpPoll; rfl⟩
  | lfillBar g n a b => exact ⟨_, by show execLfillBar g n a b s = _; unfold execLfillBar; rfl⟩
  | lfillTok g d a b c => exact ⟨_, by show execLfillTok g d a b c s = _; unfold execLfillTok; rfl⟩
  | tcfg g d a => exact ⟨_, by show execTcfg g d a s = _; unfold execTcfg; rfl⟩
  | tld g la sc d a b c => exact ⟨_, by show execTld g la sc d a b c s = _; unfold execTld; rfl⟩
  | tldg g la sc bar d a b c => exact ⟨_, by show execTldg g la sc bar d a b c s = _; unfold execTldg; rfl⟩
  | tst g sc d a b c => exact ⟨_, by show execTst g sc d a b c s = _; unfold execTst; rfl⟩
  | tzero g d => exact ⟨_, by show execTzero g d s = _; unfold execTzero; rfl⟩
  | tmov g sc d a b => exact ⟨_, by show execTmov g sc d a b s = _; unfold execTmov; rfl⟩
  | mma g la ring nosplit d ta tb f k => exact ⟨_, by show execMma g la ring nosplit d ta tb f k s = _; unfold execMma; rfl⟩
  | mmap g la ring nosplit wide d ta tb f k => exact ⟨_, by show execMmap g la ring nosplit wide d ta tb f k s = _; unfold execMmap; rfl⟩
  | mmac g la a => exact ⟨_, by show execMmac g la a s = _; unfold execMmac; rfl⟩
  | czero g d => exact ⟨_, by show execCzero g d s = _; unfold execCzero; rfl⟩
  | cmov g d a n => exact ⟨_, by show execCmov g d a n s = _; unfold execCmov; rfl⟩
  | cmovIn g d a n => exact ⟨_, by show execCmovIn g d a n s = _; unfold execCmovIn; rfl⟩
  | vbnd g a => exact ⟨_, by show execVbnd g a s = _; unfold execVbnd; rfl⟩
  | atest g d => exact ⟨_, by show execAtest g d s = _; unfold execAtest; rfl⟩
  | trap g n => exact ⟨_, by show execTrap g n s = _; unfold execTrap trapWord; rfl⟩
  | brk g n => exact ⟨_, by show execBrk g n s = _; unfold execBrk trapWord; rfl⟩
  | rfe g skip => exact ⟨_, by show execRfe g skip s = _; unfold execRfe; rfl⟩
  | sread g dk d num => exact ⟨_, by show execSread g dk d num s = _; unfold execSread; rfl⟩
  | swrite g dk a num => exact ⟨_, by show execSwrite g dk a num s = _; unfold execSwrite; rfl⟩
  | ctxSave g a => exact ⟨_, by show execCtxSave g a s = _; unfold execCtxSave; rfl⟩
  | ctxLoad g a => exact ⟨_, by show execCtxLoad g a s = _; unfold execCtxLoad; rfl⟩
  | xst g m => exact ⟨_, by show execXst g m s = _; unfold execXst; rfl⟩
  | xbar g => exact ⟨_, by show execXbar g s = _; unfold execXbar; rfl⟩
  | cbar g d => exact ⟨_, by show execCbar g d s = _; unfold execCbar; rfl⟩
  | xpoll g d => exact ⟨_, by show execXpoll g d s = _; unfold execXpoll; rfl⟩
  | acc g op a b => exact ⟨_, by show execAcc g op a b s = _; unfold execAcc; rfl⟩
  | accv g op a b => exact ⟨_, by show execAccv g op a b s = _; unfold execAccv; rfl⟩
  | accFlush g y => exact ⟨_, by show execAccFlush g y s = _; unfold execAccFlush; rfl⟩
  | accProbe g la d a => exact ⟨_, by show execAccProbe g la d a s = _; unfold execAccProbe; rfl⟩
  | futSpawn g d a b n => exact ⟨_, by show execFutSpawn g d a b n s = _; unfold execFutSpawn; rfl⟩
  | futDup g d a => exact ⟨_, by show execFutDup g d a s = _; unfold execFutDup; rfl⟩
  | futDrop g d => exact ⟨_, by show execFutDrop g d s = _; unfold execFutDrop; rfl⟩
  | futSelf g d => exact ⟨_, by show execFutSelf g d s = _; unfold execFutSelf; rfl⟩
  | futCheck g => exact ⟨_, by show execFutCheck g s = _; unfold execFutCheck; rfl⟩
  | futGet g la d a n => exact ⟨_, by show execFutGet g la d a n s = _; unfold execFutGet; rfl⟩
  | futPoll g d a => exact ⟨_, by show execFutPoll g d a s = _; unfold execFutPoll; rfl⟩
  | futPark g a b => exact ⟨_, by show execFutPark g a b s = _; unfold execFutPark; rfl⟩
  | futUnpark g d a => exact ⟨_, by show execFutUnpark g d a s = _; unfold execFutUnpark; rfl⟩
  | futRet g a n => exact ⟨_, by show execFutRet g a n s = _; unfold execFutRet; rfl⟩
  | enRead g d sel => exact ⟨_, by show execEnRead g d sel s = _; unfold execEnRead; rfl⟩
  | enMark g a => exact ⟨_, by show execEnMark g a s = _; unfold execEnMark; rfl⟩
  | vfReq g d a => exact ⟨_, by show execVfReq g d a s = _; unfold execVfReq; rfl⟩
  | vfStat g d => exact ⟨_, by show execVfStat g d s = _; unfold execVfStat; rfl⟩
  | collRed g op d a b c => exact ⟨_, by show execCollRed g op d a b c s = _; unfold execCollRed; rfl⟩
  | collBcast g d a b c => exact ⟨_, by show execCollBcast g d a b c s = _; unfold execCollBcast; rfl⟩
  | collWait g d a => exact ⟨_, by show execCollWait g d a s = _; unfold execCollWait; rfl⟩
  | _ => exact absurd h Bool.false_ne_true

/-! ### What a lane writes -/

theorem Safety.SameButRegs.refl (G : Gang) : SameButRegs G G := rfl
theorem Safety.SameButRegs.trans {G H K : Gang} (a : SameButRegs G H) (b : SameButRegs H K) : SameButRegs G K := by
  unfold SameButRegs at *
  cases G; cases H; cases K
  simp only [Gang.mk.injEq, true_and, and_true] at *
  simp_all

theorem Safety.OnlyWrites.refl (d : Dest) (ls : List Nat) (fl : Bool) (G : Gang) : OnlyWrites d ls fl G G :=
  ⟨fun _ _ _ _ => rfl, fun _ _ => rfl, fun _ _ _ => rfl, fun _ => rfl, fun _ h => h, .refl G⟩

/-- Fewer lanes write no more. -/
theorem Safety.OnlyWrites.mono {d : Dest} {ls ms : List Nat} {fl : Bool} {G H : Gang} (h : OnlyWrites d ls fl G H)
    (hs : ∀ l, l ∈ ls → l ∈ ms) : OnlyWrites d ms fl G H := by
  obtain ⟨a, b, c, e, f, g⟩ := h
  refine ⟨fun l hl r n => a l hl r (fun x => n ⟨hs l x.1, x.2⟩), fun r n => b r (fun x => n ⟨?_, x.2⟩), fun l k n => c l k (fun x => n ⟨hs l x.1, x.2⟩), e, f, g⟩
  intro hm
  cases ls with
  | nil => exact x.1 rfl
  | cons y t => have := hs y (by simp); simp [hm] at this

theorem Safety.OnlyWrites.trans {d : Dest} {ls : List Nat} {fl : Bool} {G H K : Gang} (a : OnlyWrites d ls fl G H) (b : OnlyWrites d ls fl H K) :
    OnlyWrites d ls fl G K :=
  ⟨fun l hl r n => (b.1 l hl r n).trans (a.1 l hl r n), fun r n => (b.2.1 r n).trans (a.2.1 r n),
   fun l k n => (b.2.2.1 l k n).trans (a.2.2.1 l k n), fun h => (b.2.2.2.1 h).trans (a.2.2.2.1 h),
   fun k hk => a.2.2.2.2.1 k (b.2.2.2.2.1 k hk), Safety.SameButRegs.trans a.2.2.2.2.2 b.2.2.2.2.2⟩

theorem Safety.OnlyWrites.flags {d : Dest} {ls : List Nat} {fl : Bool} {G H : Gang} (h : OnlyWrites d ls false G H) : OnlyWrites d ls fl G H :=
  ⟨h.1, h.2.1, h.2.2.1, fun _ => h.2.2.2.1 rfl, h.2.2.2.2.1, h.2.2.2.2.2⟩

theorem Machine.Gang.writeV_bad_sub (G : Gang) (l r : Nat) (x : W32) : ∀ k, k ∈ (G.writeV l r x).bad → k ∈ G.bad :=
  fun _ h => List.mem_of_mem_erase h

/-- R111: a result written to an operand is what the operand then holds. -/
theorem Machine.Gang.writeRaw_holds (G : Gang) (d : Opd) (wide : Bool) {l : Nat} (hl : l < 64) (x : W64) :
    (Dest.reg d wide).holds (G.writeRaw d wide l x) l x := by
  unfold Dest.holds Gang.writeRaw Gang.rawOpd
  by_cases hs : d.sc
  · simp [hs]
  · cases wide <;> simp [hs, hl]

/-- Writing an operand in one lane leaves every other register alone. -/
theorem Machine.Gang.writeRaw_only (G : Gang) (d : Opd) (wide : Bool) {l : Nat} (hl : l < 64) (x : W64) :
    OnlyWrites (.reg d wide) [l] false G (G.writeRaw d wide l x) := by
  unfold Gang.writeRaw
  by_cases hs : d.sc
  · simp only [hs, if_true]
    refine ⟨fun _ _ _ _ => rfl, fun r n => ?_, fun _ _ _ => rfl, fun _ => rfl, fun _ h => h, rfl⟩
    exact Gang.readS_writeS_ne _ (fun e => n ⟨by simp, by simp [Dest.isS, hs, e]⟩) _
  · cases wide
    · simp only [hs]
      refine ⟨fun j hj r n => ?_, fun _ _ => rfl, fun _ _ _ => rfl, fun _ => rfl, Gang.writeV_bad_sub _ _ _ _, rfl⟩
      exact Gang.readV_writeV_ne _ hl hj (fun e => n ⟨by simp [e.1], by simp [Dest.isV, hs, e.2]⟩) _
    · simp only [hs]
      refine ⟨fun j hj r n => ?_, fun _ _ => rfl, fun _ _ _ => rfl, fun _ => rfl,
        fun k h => Gang.writeV_bad_sub _ _ _ _ _ (Gang.writeV_bad_sub _ _ _ _ _ h), rfl⟩
      exact Gang.readV_writePair_ne _ hl hj (fun e => n ⟨by simp [e.1], by simp only [Dest.isV, hs]; simpa using e.2⟩) _

theorem Machine.Gang.writeK_holds (G : Gang) (d : BitVec 8) (h : d.toNat < 16) (l : Nat) (b : Bool) :
    (Dest.pred d).holds (G.writeK l d.toNat b) l ((BitVec.ofBool b).setWidth 64) := by
  unfold Dest.holds
  cases b <;> simp [h]
theorem Machine.Gang.writeK_only (G : Gang) (d : BitVec 8) (l : Nat) (b : Bool) :
    OnlyWrites (.pred d) [l] false G (G.writeK l d.toNat b) := by
  refine ⟨fun _ _ _ _ => rfl, fun _ _ => rfl, fun j k n => ?_, fun _ => rfl, fun _ h => h, rfl⟩
  exact Gang.readK_writeK_ne _ (fun e => n ⟨by simp [e.1], by simp [Dest.isK, e.2]⟩) b

/-! ### A change made in each lane -/

/-- Two gangs that a lane can not tell apart: its own registers, and all that the gang has once. -/
def Machine.LaneSame (l : Nat) (G H : Gang) : Prop :=
  (∀ r, H.readV l r = G.readV l r) ∧ (∀ r, H.readS r = G.readS r) ∧ (∀ k, H.readK l k = G.readK l k) ∧ SameButRegs G H

theorem Machine.LaneSame.refl (l : Nat) (G : Gang) : LaneSame l G G := ⟨fun _ => rfl, fun _ => rfl, fun _ => rfl, .refl G⟩

/-- Writes of other lanes, to no gang-uniform register, do not show in a lane. -/
theorem Safety.OnlyWrites.laneSame {d : Dest} {ls : List Nat} {fl : Bool} {G H : Gang} (h : OnlyWrites d ls fl G H) {l : Nat} (hl : l < 64)
    (hn : l ∉ ls) (hs : ∀ r, d.isS r = false) : LaneSame l G H :=
  ⟨fun r => h.1 l hl r (fun e => hn e.1), fun r => h.2.1 r (fun e => by simp [hs] at e), fun k => h.2.2.1 l k (fun e => hn e.1), h.2.2.2.2.2⟩

theorem Machine.LaneSame.rawOpd {l : Nat} {G H : Gang} (h : LaneSame l G H) (o : Opd) (w : Bool) : H.rawOpd o w l = G.rawOpd o w l := by
  unfold Gang.rawOpd Gang.readPair
  rw [h.1, h.1, h.2.1]
theorem Machine.LaneSame.readOp {l : Nat} {G H : Gang} (h : LaneSame l G H) (o : Opd) (t : ITy) : H.readOp o t l = G.readOp o t l := by
  unfold Gang.readOp
  rw [h.rawOpd]
theorem Machine.LaneSame.read32 {l : Nat} {G H : Gang} (h : LaneSame l G H) (o : Opd) : H.read32 o l = G.read32 o l := by
  unfold Gang.read32
  rw [h.1, h.2.1]
theorem Machine.LaneSame.fmode {l : Nat} {G H : Gang} (h : LaneSame l G H) : H.fmode = G.fmode := by
  have := congrArg Gang.fmode h.2.2.2
  simpa using this

theorem Safety.Dest.holds_congr {d : Dest} {G H : Gang} {l : Nat} (h : LaneSame l G H) {v : W64} (hv : d.holds G l v) : d.holds H l v := by
  unfold Dest.holds at *
  cases d with
  | reg o w => exact (h.rawOpd o w).trans hv
  | pred n => exact (h.2.2.1 n.toNat).trans hv

/-- A change made lane by lane, each lane writing a value that depends on that lane alone, writes that value in every lane
and nothing else. -/
theorem Machine.foldl_writes {d : Dest} {f : Gang → Nat → Gang} {val : Gang → Nat → W64} (hs : ∀ r, d.isS r = false)
    (hf : ∀ H l, l < 64 → d.holds (f H l) l (val H l) ∧ OnlyWrites d [l] false H (f H l))
    (hv : ∀ G H l, LaneSame l G H → val H l = val G l) (ls : List Nat) (hn : ls.Nodup) (h64 : ∀ l ∈ ls, l < 64) (G : Gang) :
    (∀ l ∈ ls, d.holds (ls.foldl f G) l (val G l)) ∧ OnlyWrites d ls false G (ls.foldl f G) := by
  induction ls generalizing G with
  | nil => exact ⟨by simp, .refl _ _ _ _⟩
  | cons x t ih =>
    have hx : x < 64 := h64 x (by simp)
    have hxt : x ∉ t := (List.nodup_cons.mp hn).1
    obtain ⟨h1, h2⟩ := hf G x hx
    obtain ⟨i1, i2⟩ := ih (List.nodup_cons.mp hn).2 (fun l m => h64 l (by simp [m])) (f G x)
    refine ⟨fun l m => ?_, (h2.mono (by simp)).trans (i2.mono (fun l m => by simp [m]))⟩
    rw [List.foldl_cons]
    rcases List.mem_cons.mp m with e | e
    · subst e
      exact Dest.holds_congr (i2.laneSame hx hxt hs) h1
    · have hne : l ∉ [x] := by
        intro hc; simp at hc; exact hxt (hc ▸ e)
      rw [← hv G (f G x) l (h2.laneSame (h64 l (by simp [e])) hne hs)]
      exact i1 l e

/-- The same for a word that writes once for the gang or in every lane (R113). -/
theorem Machine.mapActive_writes {d : Dest} {once : Bool} {f : Gang → Nat → Gang} {val : Gang → Nat → W64} (hs : once = false → ∀ r, d.isS r = false)
    (hf : ∀ H l, l < 64 → d.holds (f H l) l (val H l) ∧ OnlyWrites d [l] false H (f H l))
    (hv : ∀ G H l, LaneSame l G H → val H l = val G l) (ls : List Nat) (hn : ls.Nodup) (h64 : ∀ l ∈ ls, l < 64) (G : Gang) :
    (∀ l ∈ (if once then ls.take 1 else ls), d.holds (G.mapActive ls once f) l (val G l)) ∧ OnlyWrites d ls false G (G.mapActive ls once f) := by
  cases ls with
  | nil => exact ⟨by simp, .refl _ _ _ _⟩
  | cons x t =>
    cases once with
    | true =>
      obtain ⟨h1, h2⟩ := hf G x (h64 x (by simp))
      refine ⟨fun l m => ?_, h2.mono (by simp)⟩
      simp at m
      subst m
      exact h1
    | false => exact foldl_writes (hs rfl) hf hv (x :: t) hn h64 G

end Sys2Proof
end

