-- ==== Sys2Proof/Tests/Slice0.lean ====
section
/-! SUPPORT. Tests of the model: words written out from the encoding tables, terms that WellFormed refuses, single steps
with results that the manual states, and for every statement with hypotheses a state and operands that meet them. -/

namespace Sys2Proof.Tests

-- One theorem after another: many at a time ask for more stacks than the memory limit leaves.
set_option Elab.async false

open Sys2Proof Sys2Proof.Machine Sys2Proof.Safety

/-! ### Small states -/

def vo (n : BitVec 8) : Opd := ⟨false, n⟩
def so (n : BitVec 8) : Opd := ⟨true, n⟩

/-- The run that the word of `withFetchWord` is for. -/
def fetchCur : Cur := { team := 1, gang := 0, lanes := 0xFFFF, pc := 0x10000 }
/-- One placed team of one gang of 16 lanes, all about to issue the word at 0x10000. -/
def demoT (f : Team → Team) (h : Gang → Gang) : State :=
  { State.reset.withFetchWord 64 0 with issues := [], cur := fetchCur,
                                         teams := [(1, f { fetchTeam with gangs := [(0, h fetchGang)] })] }
def demo (h : Gang → Gang) : State := demoT id h
/-- Only some lanes issue. -/
def only (m : LaneMask) (s : State) : State := { s with cur := { s.cur with lanes := m } }

def after (o : Out) (p : State → Bool) : Bool :=
  match o with
  | .next t => p t
  | _ => false
/-- After the word, a condition of the issuing gang. -/
def gives (o : Out) (p : Gang → Bool) : Bool := after o (fun t => p t.curGang)
/-- The next state, where there is one. -/
def nextOf (o : Out) : State :=
  match o with
  | .next t => t
  | _ => State.reset
def runsOn (o : Out) : Bool := after o (fun _ => true)

theorem next_of {o : Out} (h : runsOn o = true) : o = .next (nextOf o) := by
  unfold runsOn after at h
  unfold nextOf
  split at h <;> simp_all

theorem snd_is {α β : Type} {x : α × β} {b : β} (h : x.2 = b) : x = (x.1, b) := Prod.ext rfl h

/-! ### Words written out from the encoding tables -/

/-- A word decodes to a term, and the term is encoded as that word. -/
def reads (p : BitVec 64 × Instr) : Bool :=
  match decode p.1 with
  | .ok i => decide (i = p.2) && decide (encode p.2 = some p.1)
  | .error _ => false
def refuses (w : BitVec 64) : Bool :=
  match decode w with
  | .ok _ => false
  | .error _ => true

theorem test_decode_control : [
  (0x0100000000000000, .nop none),
  (0x010D400000000000, .nop (some ⟨true, 5⟩)),
  (0x02088000FFFFFFFD, .bra (some ⟨false, 2⟩) 0xFFFFFFFD),
  (0x0300000006000000, .brx none (vo 6)),
  (0x0400000000000007, .call none 7),
  (0x0500000008000000, .callv none (vo 8)),
  (0x0500000003000040, .callv none (so 3)),
  (0x0609000000000000, .ret (some ⟨false, 4⟩)),
  (0x0700000000000000, .exit none),
  (0x0800000300000000, .join none 3),
  (0x0900000B00000000, .leave none 11),
  (0x0A00000002000000, .waitm none 2),
  (0x0B00000200000008, .mset none true 2 0),
  (0x0B00000109000040, .mset none false 1 9),
  (0x0B00010704000080, .mmov none (so 7) 4),
  (0x0B00010504000000, .mmov none (vo 5) 4),
  (0x0B00020102030000, .mand none 1 2 3),
  (0x0B00030102030000, .mor none 1 2 3),
  (0x0B00040602000080, .mpop none 6 2),
  (0x0B0005060F000000, .mfromk none 6 15),
  (0x0C00000000000350, .rep 3 1 1 0 0),
  (0x0C00000000003FE7, .rep 63 3 2 1 3),
  (0x0D00000000000000, .yield none)].all reads = true := by decide

theorem test_decode_integer : [
  (0x100CC00703050022, .iadd (some ⟨true, 3⟩) .i32 (vo 7) (vo 3) (so 5)),
  (0x1000010703050024, .isub none .n8 (vo 7) (vo 3) (so 5)),
  (0x1000020703050020, .iaddsat none .i8 (vo 7) (vo 3) (so 5)),
  (0x1000030703050025, .isubsat none .n16 (vo 7) (vo 3) (so 5)),
  (0x1100000703050026, .imul none .n32 (vo 7) (vo 3) (so 5)),
  (0x1100010703050022, .imulh none .i32 (vo 7) (vo 3) (so 5)),
  (0x1100020804060A03, .imad none .i64 (vo 8) (vo 4) (vo 6) (vo 10)),
  (0x1200000703050021, .idiv none .i16 (vo 7) (vo 3) (so 5)),
  (0x1200010703050022, .irem none .i32 (vo 7) (vo 3) (so 5)),
  (0x1300000703050026, .imin none .n32 (vo 7) (vo 3) (so 5)),
  (0x1300010703050022, .imax none .i32 (vo 7) (vo 3) (so 5)),
  (0x1300020102000008, .iabs none .i8 true (vo 1) (vo 2)),
  (0x13000301020000C3, .ineg none .i64 false (so 1) (so 2)),
  (0x1400000703050026, .and none .n32 (vo 7) (vo 3) (so 5)),
  (0x1400010703050026, .or none .n32 (vo 7) (vo 3) (so 5)),
  (0x1400020703050026, .xor none .n32 (vo 7) (vo 3) (so 5)),
  (0x1400030102000006, .not none .n32 (vo 1) (vo 2)),
  (0x1400040703050026, .andn none .n32 (vo 7) (vo 3) (so 5)),
  (0x1500000703050022, .shl none .i32 (vo 7) (vo 3) (so 5)),
  (0x1500010703050022, .shr none .i32 (vo 7) (vo 3) (so 5)),
  (0x1500020703050022, .sar none .i32 (vo 7) (vo 3) (so 5)),
  (0x1500030703050026, .rotl none .n32 (vo 7) (vo 3) (so 5)),
  (0x1600000102030436, .bfx none .n32 (vo 1) (vo 2) (so 3) (so 4)),
  (0x1600010102030406, .bfi none .n32 (vo 1) (vo 2) (vo 3) (vo 4)),
  (0x1700000102000007, .popc none .n64 (vo 1) (vo 2)),
  (0x1700010102000006, .clz none .n32 (vo 1) (vo 2)),
  (0x1700020102000006, .ctz none .n32 (vo 1) (vo 2)),
  (0x1700030102000006, .brev none .n32 (vo 1) (vo 2)),
  (0x1700040102000005, .bswap none .n16 (vo 1) (vo 2)),
  (0x1800000102030426, .sel none .n32 1 (vo 2) (so 3) 4),
  (0x1800010102000046, .mov none .n32 (vo 1) (so 2)),
  (0x1800020204050702, .lea none .i32 (vo 2) (vo 4) (vo 5) 7),
  (0x1900000980000000, .movi none (vo 9) 0x80000000),
  (0x1900010680000000, .movi none (so 6) 0x80000000),
  (0x1A00010600000012, .movh none (so 6) 0x12),
  (0x1B00020205010022, .icmp none .lt .i32 2 (vo 5) (so 1)),
  (0x1C00000102030005, .plop none .nor 1 2 3),
  (0x1C00010102000008, .pmov none true 1 2),
  (0x1D00000102000001, .vote none .every 1 2),
  (0x1D00010102000080, .ballot none 1 2),
  (0x1E0003010203042E, .shfl none .mirror .n32 1 2 (so 3) (some 4)),
  (0x2000000102030026, .bcast none .n32 1 2 3),
  (0x20000101020300A6, .vrd none .n32 1 2 3),
  (0x1F0000010203041C, .idp4 none false true (vo 1) (vo 2) (vo 3) (so 4)),
  (0x1F00000102030400, .idp4 none true false (vo 1) (vo 2) (vo 3) (vo 4)),
  (0x1F00010102030408, .idp8 none true (vo 1) (vo 2) (vo 3) (vo 4))].all reads = true := by decide

theorem test_decode_integer_immediate : [
  (0x2100100404FFFFFF, .iaddImm none false .i32 4 4 0xFFFFFF),
  (0x2400190405000123, .isubImm none true .i64 4 5 0x123),
  (0x2100120405000003, .imulImm none false .i32 4 5 3),
  (0x2100230405000003, .iminImm none false .n8 4 5 3),
  (0x2400140405000003, .imaxImm none true .i32 4 5 3),
  (0x22003004050000FF, .andImm none false .n32 4 5 0xFF),
  (0x25003904050000FF, .orImm none true .n64 4 5 0xFF),
  (0x22003204050000FF, .xorImm none false .n32 4 5 0xFF),
  (0x220033040500001F, .shlImm none false .n32 4 5 31),
  (0x2200140405000001, .shrImm none false .i32 4 5 1),
  (0x25001D040500003F, .sarImm none true .i64 4 5 63),
  (0x2200360405000008, .rotlImm none false .n32 4 5 8),
  (0x2600350104000064, .icmpImm none true .ge .n32 1 4 100)].all reads = true := by decide

theorem test_decode_float : [
  (0x3000000301020021, .fadd none .rz 3 (vo 1) (so 2)),
  (0x3000010301020021, .fsub none .rz 3 (vo 1) (so 2)),
  (0x3000020301020021, .fmul none .rz 3 (vo 1) (so 2)),
  (0x3100000301020404, .ffma none .dyn 3 (vo 1) (vo 2) (vo 4)),
  (0x3200000301020000, .fmin none 3 (vo 1) (vo 2)),
  (0x3200010301020040, .fmax none 3 (so 1) (vo 2)),
  (0x3300060301020000, .fcmp none .un 3 (vo 1) (vo 2)),
  (0x3400000301000000, .fclass none 3 (vo 1)),
  (0x3500000301000002, .frnd none .ru 3 (vo 1)),
  (0x3600000301000003, .fcvt none .f32f16 .rd false 3 (vo 1)),
  (0x3600070301000008, .fcvt none .f16g8 .rne true 3 (vo 1)),
  (0x3700030401000001, .f2i none .f32 (some .i64) .rz 4 (vo 1)),
  (0x3700280401000001, .f2i none .b16 none .rz 4 (vo 1)),
  (0x3800160401000000, .i2f none .f16 (some .n32) .rne 4 (vo 1)),
  (0x3900000301020021, .hxadd none .rz 3 (vo 1) (so 2)),
  (0x3900010301020021, .hxmul none .rz 3 (vo 1) (so 2)),
  (0x3900020301020404, .hxfma none .dyn 3 (vo 1) (vo 2) (vo 4)),
  (0x3A00000301020021, .bxadd none .rz 3 (vo 1) (so 2)),
  (0x3A00010301020021, .bxmul none .rz 3 (vo 1) (so 2)),
  (0x3A00020301020404, .bxfma none .dyn 3 (vo 1) (vo 2) (vo 4)),
  (0x3B00000301020408, .fdp2 none true .rne 3 (vo 1) (vo 2) (vo 4)),
  (0x3CF0000902000000, .frcp none 15 9 (vo 2)),
  (0x3C00010902000000, .frsq none 0 9 (vo 2)),
  (0x3C00020902000041, .fsqrt none 0 .rz 9 (so 2)),
  (0x3C00030902000000, .fexp2 none 0 9 (vo 2)),
  (0x3C00040902000000, .flog2 none 0 9 (vo 2)),
  (0x3C30050902000000, .fsin none 3 9 (vo 2)),
  (0x3C00060902000000, .fcos none 0 9 (vo 2)),
  (0x3C00070902000000, .ftanh none 0 9 (vo 2)),
  (0x3D00000301020000, .fscale none .rne 3 (vo 1) (vo 2)),
  (0x3D00010301000000, .fgetexp none 3 (vo 1)),
  (0x3E00000308000008, .gpack none true 3 8),
  (0x3E00010803000000, .gunpack none 8 (vo 3))].all reads = true := by decide

theorem test_decode_memory : [
  (0x5020000A04800040, .ld none 2 ⟨.none, false, false, 10, 4, .w, .glob, 0x40⟩),
  (0x5108720306400008, .st (some ⟨false, 1⟩) ⟨.rel .device, true, false, 3, 6, .h, .glob, 8⟩),
  (0x52000D0205DFFFF8, .ldv none 0 ⟨.acq .die, false, true, 2, 5, .d, .scratch, 0xFFFF8⟩),
  (0x5300000205900004, .stv none ⟨.none, false, false, 2, 5, .w, .scratch, 4⟩),
  (0x5410000205E00010, .lds none 1 ⟨.none, false, false, 2, 5, .d, .const, 16⟩),
  (0x5500340205000010, .sts none ⟨.rel .system, false, false, 2, 5, .b, .glob, 16⟩),
  (0x5600020206800000, .gath none 0 ⟨.none, true, false, 2, 6, .w, .glob, 0⟩),
  (0x5700020206900000, .scat none ⟨.none, true, false, 2, 6, .w, .scratch, 0⟩),
  (0x5800000006400080, .prf none ⟨.none, false, false, 0, 6, .h, .glob, 128⟩),
  (0x5900000206400002, .ldSigned none 0 ⟨.none, false, false, 2, 6, .h, .glob, 2⟩),
  (0x5A00000206100002, .ldsSigned none 0 ⟨.none, false, false, 2, 6, .b, .scratch, 2⟩),
  (0x5B00030206000002, .gathSigned none 0 ⟨.none, true, true, 2, 6, .b, .glob, 2⟩),
  (0x7000020102B00000, .xst none ⟨.none, true, false, 1, 2, .w, .shadow, 0⟩),
  (0x7000020306B00010, .xst none ⟨.none, true, false, 3, 6, .w, .shadow, 16⟩)].all reads = true := by decide

theorem test_decode_synchronisation : [
  (0x5C00000003040028, .barSync none 3 (some 4)),
  (0x5C0001000F000000, .barArv none 15 none),
  (0x5C00020003000000, .barWait none 3),
  (0x5C00030003040020, .barBytes none 3 4),
  (0x5D0000000405006E, .waitA none false true (so 4) (so 5)),
  (0x5D00010204060717, .waitT none true false 2 (vo 4) (vo 6) 7),
  (0x5E00040000000000, .fence none .device),
  (0x5F00080302050064, .atom32 none 0 .incw .none .device false (vo 3) (so 2) (so 5) (vo 0)),
  (0x5F10200904060004, .atom32 none 1 .add .rel .device false (vo 9) (vo 4) (vo 6) (vo 0)),
  (0x5F5012010203004B, .atom32 none 5 .max .acq .die true (vo 1) (so 2) (vo 3) (vo 0)),
  (0x6000370204060805, .atom64 none 0 .cas .acqRel .system false (vo 2) (vo 4) (vo 6) (vo 8)),
  (0x61000009040506FB, .cpGs none 3 4 5 6 (some 9)),
  (0x6100010004050671, .cpSg none 1 4 5 6 none),
  (0x6100020004050670, .cpGg none 0 4 5 6 none),
  (0x62000009000F008D, .cpFence none .system 15 (some 9)),
  (0x6200010900000080, .cpPoll none 9),
  (0x6300000004050660, .lfillBar none 6 4 5),
  (0x63000107040506F0, .lfillTok none 7 4 5 6)].all reads = true := by decide

theorem test_decode_matrix : [
  (0x6800000304000000, .tcfg none 3 4),
  (0x6920000304050601, .tld none 2 true 3 4 5 6),
  (0x6A00000304050070, .tldg none 0 false (some 7) 3 4 5 0),
  (0x6A00000304050603, .tldg none 0 true none 3 4 5 6),
  (0x6B00000304050000, .tst none false 3 4 5 0),
  (0x6C00000700000000, .tzero none 7),
  (0x6C00010708090001, .tmov none true 7 8 9),
  (0x6D300000200C0601, .mma none 3 1 false 0 0 2 12 6),
  (0x6D000101310C060E, .mmap none 0 2 true true 1 1 3 12 6),
  (0x6D00020004000000, .mmac none 0 4),
  (0x6E00000B00000000, .czero none 11),
  (0x6E00010903070000, .cmov none 9 3 7),
  (0x6E00010309070001, .cmovIn none 3 9 7),
  (0x6E00020004000000, .vbnd none 4),
  (0x6F00000400000000, .atest none 4)].all reads = true := by decide

theorem test_decode_system : [
  (0x7D00000000FF0000, .trap none 255),
  (0x7D00000000050000, .trap none 5),
  (0x7D00050004000040, .ctxSave none 4),
  (0x7D00020000000008, .rfe none true),
  (0x7D00010000070000, .brk none 7),
  (0x7D00020000000008, .rfe none true),
  (0x7D00020000000000, .rfe none false),
  (0x7D00030500000870, .sread none .scalar 5 0x70),
  (0x7D00040002000831, .swrite none .scalar 2 0x31),
  (0x7D00030600000430, .sread none .pair 6 0x30),
  (0x7D00050004000040, .ctxSave none 4),
  (0x7D00060004000040, .ctxLoad none 4)].all reads = true := by decide

theorem test_decode_cluster_and_accumulate : [
  (0x7100000000000000, .xbar none),
  (0x7200000200000000, .cbar none 2),
  (0x7300000700000080, .xpoll none 7),
  (0x7400000004070000, .acc none .addF32 (vo 4) (vo 7)),
  (0x7500010002080040, .accv none .addI32 (so 2) 8),
  (0x7500050002080040, .accv none .addB16x2 (so 2) 8),
  (0x7600040000000000, .accFlush none .device),
  (0x77200005060000C0, .accProbe none 2 5 6)].all reads = true := by decide

theorem test_decode_futures : [
  (0x7800000104080260, .futSpawn none 1 4 8 2),
  (0x7900000201000000, .futDup none 2 1),
  (0x7900010200000000, .futDrop none 2),
  (0x7900020900000080, .futSelf none 9),
  (0x7900030000000000, .futCheck none),
  (0x7A20001401000280, .futGet none 2 20 1 2),
  (0x7A00010301000000, .futPoll none 3 1),
  (0x7B00000006020040, .futPark none 6 2),
  (0x7B00010306000040, .futUnpark none 3 6),
  (0x7B0002000A000140, .futRet none 10 1)].all reads = true := by decide

theorem test_decode_energy_and_collectives : [
  (0x7C00000500010080, .enRead none 5 1),
  (0x7C00010003000040, .enMark none 3),
  (0x7C000207060000C0, .vfReq none 7 6),
  (0x7C00030800000080, .vfStat none 8),
  (0x7C00100A040506F5, .collRed none .maxI32 10 4 5 6),
  (0x7C00100A040506F0, .collRed none .addF32 10 4 5 6),
  (0x7C00110B040507F0, .collBcast none 11 4 5 7),
  (0x7C00120C0A0000C0, .collWait none 12 10)].all reads = true := by decide

theorem test_decode_pair : [
  (0x8208120064182C00, .pairWord (.iadd 4 9) (.fmul 6 11)),
  (0xA008120044200C00, .pairWord (.mov 4 9) (.movi 8 3)),
  (0xA4020400540C1000, .pairWord (.pmov 1 2) (.plopXor 3 4)),
  (0xC4080A0000000000, .pairWord (.bxfma 4 5) .nop)].all reads = true := by decide

theorem test_reject_R94_unassigned_opcode : refuses 0x0000000000000000 = true := by decide
theorem test_reject_R94_unassigned_function : refuses 0x0100010000000000 = true := by decide
theorem test_reject_R69_guard_field_without_guard : refuses 0x0100400000000000 = true := by decide
theorem test_reject_R82_window_on_a_word_without_one : refuses 0x7A20010301000000 = true := by decide
theorem test_reject_R80_bank : refuses 0x8208120064202C00 = true := by decide
theorem test_reject_R91_type_not_accepted : refuses 0x1400000703050002 = true := by decide
theorem test_reject_R74_scope_code : refuses 0x5E00060000000000 = true := by decide
theorem test_reject_R73_order_on_a_load : refuses 0x50002C0205800000 = true := by decide
theorem test_reject_R73_shadow_outside_xst : refuses 0x5000000205B00000 = true := by decide
theorem test_reject_R44_rounding_code : refuses 0x3000000301020005 = true := by decide
theorem test_reject_R70_unused_field : refuses 0x0700000100000000 = true := by decide
theorem test_reject_R87_field_of_rep : refuses 0x0C00000100000350 = true := by decide
theorem test_reject_R270_class : refuses 0x7D00040006000430 = true := by decide
theorem test_reject_R131_count : refuses 0x2200330405000020 = true := by decide
theorem test_reject_R205_ring : refuses 0x6D300000200C0603 = true := by decide
theorem test_reject_R78_low_bit : refuses 0x8208120064182C01 = true := by decide
theorem test_reject_R79_slot : refuses 0xAC08120000000000 = true := by decide

/-! ### Terms that the fields of no word give -/

theorem test_illformed_fields : [
  .mset none true 2 1,
  .imulh none .i8 (vo 1) (vo 2) (vo 3),
  .iabs none .n32 false (vo 1) (vo 2),
  .and none .i32 (vo 1) (vo 2) (vo 3),
  .shl none .n8 (vo 1) (vo 2) (vo 3),
  .bfi none .i32 (vo 1) (vo 2) (vo 3) (vo 4),
  .bswap none .n8 (vo 1) (vo 2),
  .sel none .i32 1 (vo 2) (vo 3) 4,
  .mov none .i64 (vo 1) (vo 2),
  .iadd none .i32 (so 1) (vo 2) (so 3),
  .mov none .n32 (so 1) (vo 2),
  .imad none .i32 (so 1) (so 2) (so 3) (vo 4),
  .lea none .i32 (vo 2) (vo 4) (vo 6) 8,
  .shfl none .at .i32 1 2 (vo 3) none,
  .bcast none .i8 1 2 3,
  .vrd none .i8 1 2 3,
  .andImm none false .i32 1 2 3,
  .shlImm none false .n8 1 2 3,
  .shlImm none false .n32 1 2 32,
  .fcvt none .f32f16 .rne true 1 (vo 2),
  .fcvt none .f16f32 .rz false 1 (vo 2),
  .fcvt none .f32g8 .rz false 1 (vo 2),
  .atom32 none 0 .add .none .gang true (vo 1) (vo 2) (vo 3) (vo 0),
  .atom32 none 0 .add .none .gang false (vo 1) (vo 2) (vo 3) (vo 4),
  .atom64 none 0 .cas .none .gang false (so 1) (so 2) (so 3) (vo 4),
  .cpFence none .die 0 none,
  .cpFence none .die 16 none,
  .tld none 0 false 1 2 3 4,
  .tldg none 0 false none 1 2 3 4,
  .tst none false 1 2 3 4,
  .mma none 0 3 false 0 0 1 2 3,
  .mmap none 0 3 false false 0 0 1 2 3,
  .swrite none .pair 2 0x30,
  .accv none .addI64 (vo 2) 4,
  .futSpawn none 1 2 3 9,
  .futSpawn none 1 2 3 0,
  .futGet none 0 1 2 9,
  .futGet none 1 0 2 0,
  .futRet none 1 9,
  .futRet none 1 0,
  .enRead none 1 5,
  .pairWord (.iadd 4 9) (.fmul 8 11),
  .pairWord (.shlImm 4 32) .nop,
  .pairWord (.pmov 16 2) .nop,
  .pairWord (.movi 4 9) (.movi 4 11),
  .pairWord (.pmov 4 9) (.pmov 4 11)].all (fun i => !wellFormed i) = true := by decide

theorem test_illformed_memory : [
  .ld none 0 ⟨.none, false, false, 2, 5, .w, .shadow, 0⟩,
  .ld none 0 ⟨.rel .die, false, false, 2, 5, .w, .glob, 0⟩,
  .ld none 0 ⟨.acq .gang, false, false, 2, 5, .w, .glob, 0⟩,
  .ldSigned none 0 ⟨.none, false, false, 2, 5, .w, .glob, 0⟩,
  .ldv none 0 ⟨.none, true, false, 2, 5, .w, .glob, 0⟩,
  .lds none 0 ⟨.none, true, false, 2, 5, .w, .glob, 0⟩,
  .ldsSigned none 0 ⟨.none, false, false, 2, 5, .w, .glob, 0⟩,
  .st none ⟨.none, false, false, 2, 5, .w, .const, 0⟩,
  .st none ⟨.acq .die, false, false, 2, 5, .w, .glob, 0⟩,
  .stv none ⟨.none, true, false, 2, 5, .w, .glob, 0⟩,
  .sts none ⟨.none, true, false, 2, 5, .w, .glob, 0⟩,
  .gath none 0 ⟨.none, false, false, 2, 5, .w, .shadow, 0⟩,
  .gathSigned none 0 ⟨.none, false, false, 2, 5, .w, .glob, 0⟩,
  .scat none ⟨.none, false, false, 2, 5, .w, .const, 0⟩,
  .prf none ⟨.none, false, false, 0, 5, .b, .scratch, 0⟩,
  .prf none ⟨.none, false, false, 1, 5, .b, .glob, 0⟩,
  .prf none ⟨.none, false, false, 0, 5, .w, .glob, 0⟩,
  .xst none ⟨.none, false, false, 2, 5, .w, .glob, 0⟩,
  .xst none ⟨.rel .die, false, false, 2, 5, .w, .shadow, 0⟩,
  .ld none 0 ⟨.none, false, false, 2, 64, .w, .glob, 0⟩,
  .lds none 0 ⟨.none, false, false, 64, 5, .w, .glob, 0⟩].all (fun i => !wellFormed i) = true := by decide

theorem test_illformed_registers : [
  .brx none (so 64),
  .join none 12,
  .waitm none 12,
  .mset none false 1 64,
  .mmov none (so 64) 1,
  .mmov none (vo 12) 1,
  .mand none 1 2 12,
  .mpop none 64 1,
  .mfromk none 1 16,
  .iadd none .i32 (so 64) (so 1) (so 2),
  .iadd none .i32 (vo 1) (vo 2) (so 64),
  .imad none .i32 (vo 1) (vo 2) (vo 3) (so 64),
  .sel none .n32 1 (vo 2) (vo 3) 16,
  .movi none (so 64) 0,
  .icmp none .eq .i32 16 (vo 1) (vo 2),
  .plop none .and 1 2 16,
  .vote none .some 16 1,
  .ballot none 64 1,
  .shfl none .at .n32 1 2 (vo 3) (some 16),
  .bcast none .n32 1 2 64,
  .vrd none .n32 64 2 3,
  .iaddImm none true .i32 64 1 0,
  .icmpImm none false .eq .i32 16 1 0,
  .fadd none .rne 1 (vo 2) (so 64),
  .fcmp none .eq 16 (vo 1) (vo 2),
  .barSync none 16 none,
  .barSync none 0 (some 64),
  .barBytes none 1 64,
  .waitT none false true 16 (so 1) (so 2) 3,
  .waitT none false true 1 (so 1) (so 2) 64,
  .cpGs none 0 1 2 64 none,
  .cpGs none 0 1 2 3 (some 64),
  .cpPoll none 64,
  .lfillBar none 16 1 2,
  .lfillTok none 64 1 2 3,
  .tcfg none 8 1,
  .tld none 0 false 1 64 2 0,
  .tzero none 8,
  .tmov none false 1 2 64,
  .mma none 0 0 false 16 0 1 2 3,
  .mmac none 0 64,
  .czero none 16,
  .cmov none 1 16 0,
  .cmovIn none 16 1 0,
  .vbnd none 64,
  .atest none 64,
  .sread none .scalar 64 0,
  .swrite none .scalar 64 0x31,
  .ctxSave none 64,
  .cbar none 16,
  .xpoll none 64,
  .acc none .addF32 (so 64) (vo 1),
  .accv none .addF32 (so 64) 4,
  .accProbe none 0 64 1,
  .futSpawn none 16 1 2 1,
  .futDup none 1 16,
  .futDrop none 16,
  .futSelf none 64,
  .futGet none 0 64 1 1,
  .futPoll none 16 1,
  .futPark none 64 1,
  .futUnpark none 16 1,
  .futRet none 64 1,
  .enRead none 64 0,
  .enMark none 64,
  .vfReq none 1 64,
  .vfStat none 64,
  .collRed none .addF32 1 2 3 64,
  .collBcast none 64 1 2 3,
  .collWait none 1 64].all (fun i => !wellFormed i) = true := by decide

/-! ### Single words, with results that the manual states -/

/-- R118: 100 + 80 saturates as i8; 100 + 176 saturates as n8. -/
theorem test_iaddsat_i8 : gives (exec (.iaddsat none .i8 (vo 2) (vo 3) (vo 4)) (demo fun G => (G.writeV 5 3 0x64).writeV 5 4 0x12345650))
    (fun G => G.readV 5 2 == 0x7F && G.pc 5 == 0x10008) = true := by decide +kernel
theorem test_iaddsat_n8 : gives (exec (.iaddsat none .n8 (vo 2) (vo 3) (vo 4)) (demo fun G => (G.writeV 5 3 0x64).writeV 5 4 0xB0))
    (fun G => G.readV 5 2 == 0xFF) = true := by decide +kernel
/-- R118: division by zero gives −1 (signed) or 2^w − 1, and of the most negative value by −1 gives that value. -/
theorem test_idiv_corners : gives (exec (.idiv none .i32 (vo 2) (vo 3) (vo 4)) (demo fun G => ((G.writeV 5 3 0x80000000).writeV 5 4 0xFFFFFFFF).writeV 6 3 7))
    (fun G => G.readV 5 2 == 0x80000000 && G.readV 6 2 == 0xFFFFFFFF) = true := by decide +kernel
theorem test_irem_corners : gives (exec (.irem none .i32 (vo 2) (vo 3) (vo 4))
      (demo fun G => ((((G.writeV 5 3 0x80000000).writeV 5 4 0xFFFFFFFF).writeV 6 3 0xFFFFFFF9).writeV 6 4 2)))
    (fun G => G.readV 5 2 == 0 && G.readV 6 2 == 0xFFFFFFFF) = true := by decide +kernel
/-- R120: a shift by the width or more. -/
theorem test_sar_wide : gives (exec (.sar none .n32 (vo 2) (vo 3) (vo 4)) (demo fun G => ((G.writeV 5 3 0x80000000).writeV 5 4 32).writeV 6 3 0x7FFFFFFF |>.writeV 6 4 33))
    (fun G => G.readV 5 2 == 0xFFFFFFFF && G.readV 6 2 == 0) = true := by decide +kernel
/-- R121: a field of 8 bits at 28 is cut to 4 bits and sign-extended. -/
theorem test_bfx_signed : gives (exec (.bfx none .i32 (vo 2) (vo 3) (vo 4) (vo 5)) (demo fun G => ((G.writeV 5 3 0x80000000).writeV 5 4 28).writeV 5 5 8))
    (fun G => G.readV 5 2 == 0xFFFFFFF8) = true := by decide +kernel
/-- R122: the leading zeros of zero. -/
theorem test_clz_zero : gives (exec (.clz none .n16 (vo 2) (vo 3)) (demo fun G => G.writeV 5 3 0xFFFF0000)) (fun G => G.readV 5 2 == 16) = true := by
  decide +kernel
/-- R124: s2 + 8 × v7, with v7 = −1. -/
theorem test_lea_signed : gives (exec (.lea none .i32 (vo 4) (so 2) (vo 7) 3) (demo fun G => (G.writeS 2 0x100000000).writeV 5 7 0xFFFFFFFF))
    (fun G => G.readPair 5 4 == 0xFFFFFFF8) = true := by decide +kernel
/-- R125: 0x0000_0012_8000_0000 in s6. -/
theorem test_movi_movh : gives (exec (.movi none (so 6) 0x80000000) (demo id)) (fun G => G.readS 6 == 0xFFFFFFFF80000000) = true ∧
    gives (exec (.movh none (so 6) 0x12) (demo fun G => G.writeS 6 0xFFFFFFFF80000000)) (fun G => G.readS 6 == 0x1280000000) = true := by
  decide +kernel
/-- R131: `iadd.i32 v4, v4, -1`. -/
theorem test_iaddImm : gives (exec (.iaddImm none false .i32 4 4 0xFFFFFF) (demo id)) (fun G => G.readV 15 4 == 0xFFFFFFFF) = true := by decide +kernel
/-- R132. -/
theorem test_idp4 : gives (exec (.idp4 none true false (vo 0) (vo 1) (vo 2) (vo 3))
      (demo fun G => (((G.writeV 5 1 0x80FF0203).writeV 5 2 0x7F010405).writeV 5 3 0x80000288))) (fun G => G.readV 5 0 == 0x7FFFC31E) = true := by
  decide +kernel
theorem test_idp4_sat : gives (exec (.idp4 none true true (vo 0) (vo 1) (vo 2) (vo 3))
      (demo fun G => (((G.writeV 5 1 0x80FF0203).writeV 5 2 0x7F010405).writeV 5 3 0x80000288))) (fun G => G.readV 5 0 == 0x80000000) = true := by
  decide +kernel

/-- R128: lanes 6 to 15 vote and ballot; k1 is 1 in lanes 6, 9 and 15, and in lane 0, which takes no part. -/
def voters : State := only 0xFFC0 (demo fun G => (((G.writeK 6 1 true).writeK 9 1 true).writeK 15 1 true).writeK 0 1 true)
theorem test_ballot : gives (exec (.ballot none 3 1) voters) (fun G => G.readS 3 == 0x8240 && G.pc 0 == 0x10000 && G.pc 6 == 0x10008) = true := by
  decide +kernel
theorem test_vote_every : gives (exec (.vote none .every 4 1) { voters with teams := voters.teams.map (fun p => (p.1, p.2.setGang 0 ((p.2.gang 0).writeK 0 4 true))) })
    (fun G => !G.readK 6 4 && G.readK 0 4) = true := by decide +kernel
/-- R129: `upper` by 1 reads the next lane; the last lane keeps its own value. -/
theorem test_shfl_upper : gives (exec (.shfl none .upper .i32 2 3 (so 7) (some 4)) (demo fun G => ((G.writeV 15 3 9).writeV 14 3 8).writeS 7 1))
    (fun G => G.readV 14 2 == 9 && G.readV 13 2 == 8 && G.readV 15 2 == 9 && G.readK 14 4 && !G.readK 15 4) = true := by decide +kernel

/-! ### Number formats and charges -/

/-- R48, R149: 0x5C is 0.875, 0xB5 is −10 and 0x13 is 1.5 × 2^−8; `gunpack` gives them as f32. -/
theorem test_gunpack : gives (exec (.gunpack none 4 (vo 0)) (only 1 (demo fun G => G.writeV 0 0 0x0013B55C)))
    (fun G => G.readV 0 4 == 0x3F600000 && G.readV 0 5 == 0xC1200000 && G.readV 0 6 == 0x3BC00000 && G.readV 0 7 == 0) = true := by decide +kernel
/-- R149: 0.875, −10, 3.3 and 500,000 pack to 0x037A_B55C; NX and OF are set. -/
theorem test_gpack : gives (exec (.gpack none false 0 8)
      (only 1 (demo fun G => (((G.writeV 0 8 0x3F600000).writeV 0 9 0xC1200000).writeV 0 10 0x40533333).writeV 0 11 0x48F42400)))
    (fun G => G.readV 0 0 == 0x037AB55C && G.readFstat 0 != 0) = true := by decide +kernel
/-- R137: 1 + 1 = 2. -/
theorem test_fadd : gives (exec (.fadd none .rne 0 (vo 1) (vo 2)) (only 1 (demo fun G => (G.writeV 0 1 0x3F800000).writeV 0 2 0x3F800000)))
    (fun G => G.readV 0 0 == 0x40000000) = true := by decide +kernel
/-- R437: 160 units at P4 are 106, which is 13.25 pJ. -/
theorem test_scale : scaleCharge 160 4 = 106 := by decide
/-- R308: the home of PA 0x401A80 is slice 20 of die 1, set 257. -/
theorem test_home : homeSlice 0x401A80 = (1, 20, 257) := by decide

/-! ### Memory and synchronisation -/

/-- R245: `atom.incw` on a word that holds 5, with y = 7: lanes get 5, 6, 7, 0, 1, … 4 and the word ends at 5. -/
theorem test_incw : after (exec (.atom32 none 0 .incw .none .device false (vo 3) (so 2) (so 5) (vo 0))
      { demo (fun G => (G.writeS 2 0x10100).writeS 5 7) with mem := writeNum [] 0x10100 4 5 })
    (fun t => t.curGang.readV 0 3 == 5 && t.curGang.readV 2 3 == 7 && t.curGang.readV 3 3 == 0 && t.curGang.readV 15 3 == 4 &&
      readNum t.mem 0x10100 4 == 5) = true := by decide +kernel
/-- R14, R157: a store waits in its queue; performed, its lowest byte is at the lowest address of its team's scratch. -/
theorem test_store_scratch : after (exec (.storeQueueDrain 1 0)
      (nextOf (exec (.sts none ⟨.none, false, false, 2, 5, .w, .scratch, 0⟩) (demo fun G => (G.writeS 5 0x7FFC).writeS 2 0x04030201))))
    (fun t => readByte t.curTeam.scratch 0x7FFC == 1 && readByte t.curTeam.scratch 0x7FFF == 4 && t.mem == (demo id).mem) = true := by decide +kernel

/-! ### Control and traps -/

/-- R181: a branch goes to its word's own address plus 8 × the offset. -/
theorem test_bra_back : gives (exec (.bra none 0xFFFFFFFD) (demo id)) (fun G => G.pc 0 == 0xFFE8) = true := by decide +kernel
/-- R263: the causes that go to the kernel handler at reset are 9, 10 and 11. -/
theorem test_kdeleg_reset : (State.reset.ctx 0).kdeleg = 0x0E00 := by decide
/-- R189: every lane exits. -/
theorem test_exit_ends_lanes : gives (exec (.exit none) (demo id)) (fun G => G.finished) = true := by decide +kernel

/-! ### Witnesses: encoding, memory, steps -/

theorem witness_EncodedWordsDecodeBack : [Instr.rep 63 3 3 3 3, .ld (some ⟨true, 15⟩) 15 ⟨.acq .system, true, true, 255, 255, .d, .const, 0xFFFFF⟩,
    .pairWord (.iadd 4 9) (.fmul 6 11)].all (fun i => i.isWord && encodable i && (memOf i).all (fun m => m.ord.encodable)) = true := by
  decide +kernel

theorem witness_DecodedWordsEncodeBack : decode 0x100CC00703050022 = .ok (.iadd (some ⟨true, 3⟩) .i32 (vo 7) (vo 3) (so 5)) := by
  decide +kernel

theorem witness_MemoryReadsWhatWasWritten : (1 : Nat) < ([7, 0] : List Byte).length ∧ (4 < 5 ∨ 5 + ([7, 0] : List Byte).length ≤ 4) ∧
    (7 < 5 ∨ 5 + ([7, 0] : List Byte).length ≤ 7) ∧ Memory.wf [(5, 7)] ∧ ∀ a, readByte [(5, 7)] a = readByte [(5, 7)] a :=
  ⟨by decide, by decide, by decide, by decide, fun _ => rfl⟩

theorem witness_StepsKeepMemoryCanonical : Memory.wf (State.reset.withFetchWord 64 0x0100000000000000).mem ∧
    runsOn (step (State.reset.withFetchWord 64 0x0100000000000000)) = true := by decide +kernel

/-- The state of `witness_StepRunsDecodedWord`, and what its step passes through. -/
def fetched : State := State.reset.withFetchWord 64 0x0100000000000000
def tried (c : Cur) : State := (({ fetched with issues := [] } : State).atRun c)
def mapped (c : Cur) : State := ((tried c).checkMapped c.team c.gang c.pc .exec).1
def coded (c : Cur) : State := (mapped c).codeLine ((mapped c).gang 1 0).core ((mapped c).team 1).ctx 0x10000
def paid (c : Cur) : State := (((coded c).repay (coded c).cur).payWord (.word (.nop none)) false).1
/-- The same run, with its charge taken. -/
def paidCur : Cur := { fetchCur with paid := some (24, false) }

theorem witness_StepRunsDecodedWord : fetched.agenda = [] ∧ fetched.powered = true ∧ fetched.ready = true ∧
    fetched.issues = [fetchCur] ∧ (∀ c ∈ [fetchCur, paidCur],
      ({ fetched with issues := [] } : State).stillReady c = true ∧ (tried c).cur = c ∧
      (tried c).stepLanes = [] ∧ noRep (tried c).curGang = true ∧ (tried c).cur.pc.toNat % 8 = 0 ∧ canonicalVA (tried c).cur.pc = true ∧
      ((tried c).checkMapped c.team c.gang c.pc .exec).2 = .ok (.mem 0x10000) ∧ (mapped c).isLocal 0x10000 = true ∧
      poisoned (mapped c).poison (lineOf 0x10000 * 128) 128 = false ∧ (tried c).flitsShort (coded c) = false ∧ ((coded c).core ((mapped c).gang 1 0).core).code = none ∧
      decode (BitVec.ofNat 64 (readNum (coded c).mem 0x10000 8)) = .ok (.nop none) ∧ (coded c).orphan (coded c).curTeam = false ∧
      after (exec (.nop none) (coded c)) (fun t => t.note ≠ .held && t.note ≠ .late && !t.curGang.stop.before && !(coded c).flitsShort t &&
        t.note ≠ .trapped) = true) ∧
    (((coded fetchCur).cur.paid = none ∧ (((coded fetchCur).repay (coded fetchCur).cur).payWord (.word (.nop none)) false).2 = .taken) ∧ runsOn (exec (.nop none) (paid fetchCur)) = true) ∧ (coded paidCur).cur.paid = some (24, false) := by
  decide +kernel

theorem witness_StepRunsScheduledEvent : isFetched .tickBoundary = false ∧ isFetched (.nop none) = true ∧ State.reset.powered = true ∧
    ({ State.reset with agenda := [.event .tickBoundary] } : State).agenda = .event .tickBoundary :: [] ∧
    ({ State.reset with powered := false } : State).powered = false ∧ worksUnpowered .tickBoundary = false ∧
    worksUnpowered (.coldStart 0) = true := by decide +kernel

/-- A `rep` of three words, with some repetitions done. -/
def repeating (n : Nat) : Gang → Gang := fun G => { G with prog := some (.rep 3 1 0 0 0 0xFFFF), pidx := BitVec.ofNat 64 n }
/-- A load with a window of one word. -/
def waiting (la : Nat) : Pend := ⟨9, 0xFFF8, [.v 2], 0xFFFF, [(0, la), (15, la)], .data, [], [], none, false, [], none⟩

theorem witness_WordEndAdvancesItsRun : noRep (demo id).curGang = true ∧ (demo (repeating 1)).curGang.prog = some (.rep 3 1 0 0 0 0xFFFF) ∧
    (demo (repeating 1)).curGang.pidx.toNat + 1 < 3 ∧ 3 ≤ (demo (repeating 2)).curGang.pidx.toNat + 1 ∧
    noRep (demo fun G => { G with pend := [waiting 1] }).curGang = true ∧
    ((demo fun G => { G with pend := [waiting 1] }).finish false).curGang.pend.any (fun q => !q.done) = true ∧
    ((demo fun G => { G with pend := [waiting 2] }).finish true).curGang.pend.any (fun q => !q.done) = true := by decide +kernel

theorem witness_WordsAreCheckedBeforeTheyAct :
    ((Instr.mov none .n32 (vo 8) (vo 1)).isWord = true ∧
      (demo fun G => { G with vbnd := 8 }).curGang.waits (demo fun G => { G with vbnd := 8 }).runLanes (.mov none .n32 (vo 8) (vo 1)) = false ∧
      (Instr.mov none .n32 (vo 8) (vo 1)).refs.all (Ref.legal (demo fun G => { G with vbnd := 8 }).curTeam.launch (demo fun G => { G with vbnd := 8 }).curGang) = false) ∧
    (demo fun G => { G with pend := [waiting 0] }).curGang.waits (demo fun G => { G with pend := [waiting 0] }).runLanes (.mov none .n32 (vo 2) (vo 1)) = true ∧
    ((Instr.ctxSave none 4).privileged = true ∧ (demo id).curGang.waits (demo id).runLanes (.ctxSave none 4) = false ∧ (demo id).curGang.pend = [] ∧
      (Instr.ctxSave none 4).refs.all (Ref.legal (demo id).curTeam.launch (demo id).curGang) = true ∧ (demo id).curGang.privileged = false) := by
  decide +kernel

/-! ### Witnesses: register words -/

/-- A guard that no lane of `demo id` meets. -/
def shut : Grd := some ⟨false, 3⟩

theorem witness_IntegerWordsWriteTheirResults :
    [Instr.iadd none .i32 (vo 255) (vo 3) (so 63), .imad none .i64 (so 1) (so 2) (so 3) (so 0), .sel shut .n64 254 (vo 0) (so 1) 15,
     .lea none .n64 (vo 2) (vo 4) (vo 6) 7, .movh none (so 6) 0x12, .shlImm none false .n32 4 5 31, .icmpImm none true .ge .n64 15 4 0xFFFFFF].all
      (fun i => (intSpec i).isSome && (demo id).clear i) = true ∧ (demo id).active shut = [] ∧ (demo id).active none ≠ [] := by decide +kernel

theorem witness_ValuesPassBetweenLanes :
    (demo id).clear (.vote none .same 15 0) = true ∧ (demo id).clear (.ballot none 63 15) = true ∧ (demo id).active none ≠ [] ∧
    (encodable (.shfl none .mirror .n64 254 2 (so 63) (some 15)) = true ∧ (demo id).clear (.shfl none .mirror .n64 254 2 (so 63) (some 15)) = true) ∧
    (encodable (.bcast none .n32 255 2 63) = true ∧ (demo id).clear (.bcast none .n32 255 2 63) = true) ∧
    (encodable (.vrd none .n64 63 254 0) = true ∧ (demo id).clear (.vrd none .n64 63 254 0) = true) := by decide +kernel

/-- One lane, whose v1 is +∞ and v2 is −∞, with every trap enabled: their sum is invalid. -/
def invalid : State := only 1 (demo fun G => { (G.writeV 0 1 0x7F800000).writeV 0 2 0xFF800000 with fmode := 0x1F00 })

theorem witness_FloatWordsWriteOrTrap :
    ((floatSpec (.fadd none .rne 3 (vo 1) (vo 2))).isSome && invalid.clear (.fadd none .rne 3 (vo 1) (vo 2))) = true ∧
    invalid.active none = [0] ∧
    trapping invalid.curGang.fmode (fmtF32.add .rne 0x3F800000 0x3F800000).2 = false ∧
    (∀ x ∈ floatSpec (.fadd none .rne 3 (vo 1) (vo 2)), trapping invalid.curGang.fmode (x.flags invalid.curGang 0) = true) ∧
    (∀ x ∈ floatSpec (.fmin none 3 (vo 1) (vo 2)), trapping invalid.curGang.fmode (x.flags invalid.curGang 0) = false) ∧
    invalid.clear (.fmin none 3 (vo 1) (vo 2)) = true ∧
    (specialSpec (.flog2 none 0 3 (vo 2))).isSome = true ∧ invalid.clear (.flog2 none 0 3 (vo 2)) = true ∧
    trapping invalid.curGang.fmode (specialF32 4 (modeOf .rne invalid.curGang.fmode) (invalid.curGang.read32 (vo 2) 0)).2 = true := by
  decide +kernel

theorem witness_SpecialFunctionsDeliverResults :
    (specialSpec (.frcp none 0 3 (vo 1))).isSome = true ∧ (specialSpec (.fsqrt none 15 .rz 3 (vo 1))).isSome = true ∧ (15 : BitVec 4).toNat ≠ 0 ∧
    (only 1 (demo id)).clear (.frcp none 0 3 (vo 1)) = true ∧ (only 1 (demo id)).clear (.fsqrt none 15 .rz 3 (vo 1)) = true ∧
    trapping (only 1 (demo id)).curGang.fmode (specialF32 0 (modeOf .rne (only 1 (demo id)).curGang.fmode) ((only 1 (demo id)).curGang.read32 (vo 1) 0)).2 = false ∧
    trapping (only 1 (demo id)).curGang.fmode (specialF32 2 (modeOf .rz (only 1 (demo id)).curGang.fmode) ((only 1 (demo id)).curGang.read32 (vo 1) 0)).2 = false ∧
    (only 1 (demo id)).active none = [0] ∧ trapEnables (only 1 (demo id)).curGang.fmode = 0 ∧ trapEnables (0x1F00 : W64) ≠ 0 := by decide +kernel

theorem witness_PairSlotsActAsFullInstructions :
    (only 1 (demo id)).clear (.pairWord (.iadd 4 9) (.fmul 6 11)) = true ∧ slotDest (.iadd 4 9) ≠ slotDest (.fmul 6 11) ∧ slotDest .nop = none ∧
    trapping (only 1 (demo id)).curGang.fmode (slotFlags (.iadd 4 9) (only 1 (demo id)).curGang 0 ||| slotFlags (.fmul 6 11) (only 1 (demo id)).curGang 0) = false ∧
    (only 1 (demo id)).runLanes = [0] ∧ (demo id).clear (.gunpack none 252 (vo 255)) = true := by decide +kernel

/-! ### Witnesses: control -/

/-- A word after the one at which the lanes stand. -/
def followedBy (w : Nat) (s : State) : State := { s with mem := writeNum s.mem 0x10008 8 w }
/-- Some lane of another run could issue. -/
def divided : State :=
  { only 0xFF (demo fun G => G.setPc 15 0x20000) with cur := { fetchCur with lanes := 0xFF, others := [0x8000] } }

theorem witness_BranchesMoveActiveLanes :
    (demo id).clear (.nop shut) = true ∧ noRep (demo id).curGang = true ∧ (demo id).clear (.bra none 0x80000000) = true ∧
    (demo id).clear (.brx none (vo 254)) = true ∧ (demo id).clear (.brx none (so 63)) = true ∧ divided.clear (.yield none) = true ∧
    divided.cur.others.filter (fun m => !divided.runLanes.any (fun l => m.getLsbD l)) ≠ [] ∧
    (let s := followedBy 0x30000014280200A0 (demo fun G => { G with pidx := 3 })
     s.clear (.rep 3 1 1 0 0) = true ∧ s.curGang.pidx.toNat ≤ (3 : BitVec 6).toNat ∧
     (s.fetchWord s.cur.team s.cur.gang (s.cur.pc + 8)).2 = .word 0x30000014280200A0 ∧
     repLegal 0x30000014280200A0 (stepOf 1) (stepOf 1) (stepOf 0) (stepOf 0) = true) := by decide +kernel

theorem witness_MaskWordsWriteAndRelease :
    ([Instr.join none 11, .leave shut 0, .mset none true 2 0, .mset none false 1 63, .mmov none (vo 5) 4, .mand none 1 2 3, .mor none 1 2 3, .mfromk none 6 15].all
      (fun i => (maskSpec i).isSome && (demo id).clear i)) = true ∧ (demo id).active shut = [] ∧ (demo id).active none ≠ [] ∧
    (demo id).clear (.mmov none (so 63) 11) = true ∧ (demo id).clear (.mpop none 63 11) = true ∧
    (let s := only 0xFF (demo fun G => G.writeM 11 0xFFFF)
     s.clear (.waitm none 11) = true ∧ s.active none ≠ [] ∧ noRep s.curGang = true ∧ 15 < s.curGang.width ∧
     (s.curGang.readM 11).getLsbD 15 = true ∧ 15 ∉ s.active none ∧ s.curGang.laneState 15 = .ready) ∧
    (let G := ((fetchGang.writeM 11 0x3).setLane 0 (.waiting (.mask 11))).setLane 1 .exited
     (∀ l < G.width, (G.readM 11).getLsbD l = true → G.laneState l = .exited ∨ G.laneState l = .waiting (.mask 11)) ∧
     ∃ l < G.width, ((fetchGang.writeM 11 0x8000).readM 11).getLsbD l = true ∧ (fetchGang.writeM 11 0x8000).laneState l ≠ .exited ∧
       (fetchGang.writeM 11 0x8000).laneState l ≠ .waiting (.mask 11)) := by decide +kernel

theorem witness_CallsKeepReturnAddresses :
    (let s := demo fun G => G.setDepth 5 3
     s.clear (.call none 7) = true ∧ s.clear (.callv none (so 63)) = true ∧ noRep s.curGang = true ∧
     (∀ l ∈ s.runLanes, s.curGang.laneState l = .ready) ∧ (∀ l ∈ s.curGang.liveLanes, s.curGang.callDepth l ≤ 4) ∧
     (∀ l ∈ s.active none, s.curGang.callDepth l < 4)) ∧
    (let s := demo fun G => (upto 16).foldl (fun G l => G.setDepth l 4) G
     s.clear (.ret none) = true ∧ noRep s.curGang = true ∧ (∀ l ∈ s.runLanes, s.curGang.laneState l = .ready) ∧
     (∀ l ∈ s.curGang.liveLanes, s.curGang.callDepth l ≤ 4) ∧ (∀ l ∈ s.active none, 0 < s.curGang.callDepth l) ∧
     s.clear (.exit none) = true ∧ s.active none ≠ [] ∧ exitBusy s = false) ∧
    ((demo id).clear (.ret none) = true ∧ ∃ l ∈ (demo id).active none, (demo id).curGang.callDepth l = 0) ∧
    (let s := demo fun G => G.setDepth 5 1024
     s.clear (.call none 7) = true ∧ s.clear (.callv none (vo 2)) = true ∧ ∃ l ∈ s.active none, 1024 ≤ s.curGang.callDepth l) := by decide +kernel

/-! ### Witnesses: memory words -/

/-- s4 = 0x10100, in the page that is mapped, and s5 = 0x7FFC, the last word of the scratchpad. -/
def based : Gang → Gang := fun G => (G.writeS 4 0x10100).writeS 5 0x7FFC
def globM : MemOp := ⟨.none, false, false, 2, 4, .w, .glob, 0⟩
def scrM : MemOp := ⟨.none, false, false, 2, 5, .w, .scratch, 0⟩

theorem witness_LoadsReadTheirPlaces :
    (let s := demo based
     (loadForm (.ld none 0 globM)).isSome = true ∧ s.clear (.ld none 0 globM) = true ∧
     (let C := s.checkLanes s.cur.team s.cur.gang .glob 4 .read (lanePlaces s none globM false)
      C.causes = [] ∧ ((C.st.later 0 C.locs).loadAll C.st.cur.team C.st.cur.gang 4 false C.locs).2.2 = []) ∧
     (scalarLoadForm (.lds none 15 globM)).isSome = true ∧ s.clear (.lds none 15 globM) = true ∧ s.active shut = [] ∧
     s.active none = 0 :: (upto 16).tail ∧
     (let C := s.checkLanes s.cur.team s.cur.gang .glob 4 .read [(0, laneAddr s.curGang globM false 0)]
      C.causes = [] ∧ ((C.st.later 15 C.locs).loadAll C.st.cur.team C.st.cur.gang 4 false C.locs).2.2 = []) ∧
     s.clear (.prf none { globM with d := 0, sz := .h }) = true) ∧
    (let s := demo based
     (loadForm (.ld none 3 scrM)).isSome = true ∧ s.clear (.ld none 3 scrM) = true ∧ s.misses = none ∧
     (∀ l ∈ s.active none, 0 ≤ laneAddr s.curGang scrM false l ∧ laneAddr s.curGang scrM false l < s.curTeam.launch.scratchSpace ∧
       (laneAddr s.curGang scrM false l).toNat % 4 = 0 ∧ poisoned s.curTeam.poison (laneAddr s.curGang scrM false l).toNat 4 = false ∧
       (s.curTeam.overLink s.curGang (laneAddr s.curGang scrM false l).toNat && (s.core s.curGang.core).pairLoadBad) = false) ∧
     (scalarLoadForm (.lds none 0 scrM)).isSome = true ∧ s.clear (.lds none 0 scrM) = true) := by decide +kernel

theorem witness_ResultsArriveAtOnceOrPending : noRep (demo id).curGang = true ∧
    (let s := demo fun G => { G with pend := [waiting 2] }
     (s.gang 1 0).pend.find? (fun q => decide (q.id = 9)) = some (waiting 2) ∧ (waiting 2).kind = .data ∧ (waiting 2).done = false ∧
     (waiting 2).ecc = none) := by decide +kernel

theorem witness_GathersGoLaneByLane :
    (let s := demo based
     (gatherForm (.gath none 0 scrM)).isSome = true ∧ s.clear (.gath none 0 scrM) = true ∧ s.lanesLeft none = 0 :: (upto 16).tail ∧
     0 ≤ laneAddr s.curGang scrM false 0 ∧ laneAddr s.curGang scrM false 0 < s.curTeam.launch.scratchSpace ∧
     (laneAddr s.curGang scrM false 0).toNat % 4 = 0 ∧ poisoned s.curTeam.poison (laneAddr s.curGang scrM false 0).toNat 4 = false ∧
     (s.curTeam.overLink s.curGang (laneAddr s.curGang scrM false 0).toNat && (s.core s.curGang.core).pairLoadBad) = false ∧
     s.clear (.scat none scrM) = true ∧ storeBusy s scrM = false) ∧
    (let s := demo fun G => { based G with pidx := 15, prog := some (.lanes 0xFFFF []) }
     s.clear (.gath none 0 scrM) = true ∧ s.lanesLeft none = [15] ∧ noRep s.curGang = true ∧ s.clear (.scat none scrM) = true ∧
     s.curGang.prog.isSome = true ∧ s.lanesLeft shut = []) ∧
    (let s := demo fun G => { based G with pidx := 16 }
     s.clear (.gath none 0 scrM) = true ∧ s.lanesLeft none = []) := by decide +kernel

/-- A gang with one store queued. -/
def storing (w : Write) : Gang → Gang := fun G => { G with queue := [[w]] }
/-- A core with one store on its way to its home slice. -/
def onItsWay (s : State) : State := { s with cores := tput s.cores 0 { (s.core 0) with out := [⟨7, 0, 0x202, cellsAt 0x10100 [1, 2]⟩] } }
/-- What holds of every store on its way that is listed holds of every core's. -/
theorem out_of_all (s : State) (P : OutWrite → Prop) (h : ∀ p ∈ s.cores, ∀ w ∈ p.2.out, P w) : ∀ c, ∀ w ∈ (s.core c).out, P w := by
  intro c w hw
  unfold State.core tget at hw
  cases e : tfind s.cores c with
  | none => rw [e] at hw; cases hw
  | some C => rw [e] at hw; exact h _ (mem_of_tfind e) w hw

/-- The core's L1 owns the line of 0x10100. -/
def owning (s : State) : State := { s with cores := tput s.cores 0 { (s.core 0) with l1 := [⟨0x202, true, false⟩] } }

theorem witness_StoresReachTheirPlaces :
    (let s := demo based
     (storeForm (.st none globM)).isSome = true ∧ s.clear (.st none globM) = true ∧ storeBusy s globM = false ∧
     (s.checkLanes s.cur.team s.cur.gang .glob 4 .write (lanePlaces s none globM false)).causes = [] ∧
     s.clear (.st none scrM) = true ∧ s.active none ≠ [] ∧
     (∀ l ∈ s.active none, 0 ≤ laneAddr s.curGang scrM false l ∧ laneAddr s.curGang scrM false l < s.curTeam.launch.scratchSpace ∧
       (laneAddr s.curGang scrM false l).toNat % 4 = 0) ∧
     s.clear (.sts none globM) = true ∧ s.active shut = [] ∧
     (s.checkLanes s.cur.team s.cur.gang .glob 4 .write [(0, laneAddr s.curGang globM false 0)]).causes = []) ∧
    (let s := demo (storing ⟨.scratch 1, 0x7FFE, [1, 2]⟩)
     (s.gang 1 0).queue = [⟨.scratch 1, 0x7FFE, [1, 2]⟩] :: [] ∧ s.drainHeld 1 0 = false ∧ 1 < ([1, 2] : List Byte).length ∧ (0x7FFD < 0x7FFE ∨ 0x7FFE + 2 ≤ 0x7FFD)) ∧
    (let s := demo (storing ⟨.mem, 0x10100, [1, 2]⟩)
     (s.gang 1 0).queue = [⟨.mem, 0x10100, [1, 2]⟩] :: [] ∧ (∀ k < 2, lineOf (0x10100 + k) = lineOf 0x10100) ∧
     s.isLocal (lineOf 0x10100 * 128) = true ∧ (owning s).ownsLine (s.gang 1 0).core (lineOf 0x10100) = true ∧
     (owning s).drainHeld 1 0 = false ∧ (∀ p ∈ (owning s).cores, ∀ w ∈ p.2.out, w.line ≠ lineOf 0x10100) ∧
     s.ownsLine (s.gang 1 0).core (lineOf 0x10100) = false ∧ s.drainHeld 1 0 = false) ∧
    (let s := onItsWay (demo id)
     let w : OutWrite := ⟨7, 0, 0x202, cellsAt 0x10100 [1, 2]⟩
     (s.core 0).out[0]? = some w ∧ (∀ v ∈ (s.core 0).out, v.id = w.id → v = w) ∧ s.flying w.id = false ∧ s.behind 0 w = false ∧
     s.isLocal (w.line * 128) = true ∧ (s.slice (homeOf (w.line * 128))).accept = []) := by decide +kernel

/-- The premise about every core's stores holds where it holds of the listed ones. -/
theorem witness_StoresReachTheirPlaces_out (s : State) (n : Nat) (h : ∀ p ∈ s.cores, ∀ w ∈ p.2.out, w.line ≠ n) :
    ∀ c, ∀ w ∈ (s.core c).out, w.line ≠ n := out_of_all s _ h

/-! ### Witnesses: barriers, waits, atomics, engines -/

/-- A team whose barrier 3 expects one more arrival; lane 0 waits on it. -/
def gathered : State :=
  demoT (fun T => { T with bars := [(3, { arr := 2, exp := 2 })] }) (fun G => G.setLane 0 (.waiting (.bar 3)))

theorem witness_BarriersCountArrivalsAndFlip :
    (let s := demo fun G => G.writeS 4 16
     s.clear (.barSync none 15 (some 4)) = true ∧ s.active none ≠ [] ∧ 1 ≤ (s.curGang.readS 4).toNat ∧ (s.curGang.readS 4).toNat ≤ 16 ∧
     s.storesPending s.cur.team s.cur.gang .team = false ∧ s.clear (.barArv none 0 none) = true ∧ s.clear (.barWait none 15) = true ∧
     (s.bar s.cur.team 15).ph = tget 0 (s.bar s.cur.team 15).pg s.cur.gang ∧ s.clear (.barBytes none 15 63) = true) ∧
    (let s := demoT (fun T => { T with bars := [(3, { ph := 1 })] }) id
     s.clear (.barWait none 3) = true ∧ (s.bar s.cur.team 3).ph ≠ tget 0 (s.bar s.cur.team 3).pg s.cur.gang) ∧
    (let B := gathered.bar 1 3
     B.exp ≠ 0 ∧ 1 ≤ B.exp ∧ B.exp ≤ B.arr.toNat ∧ B.pend = 0 ∧ ({ gathered with barTests := [(1, 3)] } : State).barTests = [(1, 3)] ∧ (gathered.team 1).onDie = true ∧ (gathered.team 1).gang 0 = gathered.curGang ∧
     noRep gathered.curGang = true ∧ gathered.curGang.laneState 0 = .waiting (.bar 3) ∧ gathered.curGang.laneState 1 ≠ .waiting (.bar 3)) ∧
    ¬(((gathered.team 1).gangs.filter (fun p => !p.2.finished)).length ≤ (gathered.bar 1 2).arr.toNat) := by decide +kernel

theorem witness_WaitsAndFencesHold :
    (let s := demo based
     s.clear (.waitA none false true (so 5) (so 6)) = true ∧ noRep s.curGang = true ∧ s.active none ≠ [] ∧
     (0 ≤ waitAddr s.curGang true (so 5) 0 ∧ waitAddr s.curGang true (so 5) 0 < s.curTeam.launch.scratchSpace ∧
       (waitAddr s.curGang true (so 5) 0).toNat % 4 = 0 ∧ poisoned s.curTeam.poison (waitAddr s.curGang true (so 5) 0).toNat 4 = false ∧
       (s.curTeam.overLink s.curGang (waitAddr s.curGang true (so 5) 0).toNat && (s.core s.curGang.core).pairLoadBad) = false) ∧
     numOfBytes (scratchBytes s (waitAddr s.curGang true (so 5) 0).toNat 4) = waitExpected s.curGang false (so 6) 0 ∧
     numOfBytes (scratchBytes s (waitAddr s.curGang true (so 5) 0).toNat 4) ≠ waitExpected s.curGang false (so 4) 0 ∧
     s.clear (.waitT none false true 15 (so 5) (so 6) 7) = true ∧ s.curGang.readS 7 = 0 ∧ s.curGang.readS 4 ≠ 0 ∧
     s.clear (.fence none .system) = true ∧ s.storesPending s.cur.team s.cur.gang .system = false) ∧
    (let s := { demo (fun G => G.setLane 15 (.waiting (.memory true 0 (some 15) (some 40)))) with time := 41 }
     (s.gang 1 0).laneState 15 = .waiting (.memory true 0 (some 15) (some 40)) ∧ 40 < s.time ∧ (s.team 1).onDie = true ∧
     noRep (s.gang 1 0) = true) ∧
    (let s := demo (storing ⟨.mem, 0x10100, [1, 2]⟩)
     s.clear (.fence none .team) = true ∧ s.active none ≠ [] ∧ s.storesPending s.cur.team s.cur.gang .team = true) := by decide +kernel

theorem witness_AtomicsReadAndWriteAsOneStep :
    (let s := demo based
     s.clear (.atom32 none 0 .incw .acqRel .device false (vo 3) (so 4) (so 6) (vo 0)) = true ∧
     s.storesPending s.cur.team s.cur.gang .device = false ∧
     (let C := s.checkLanes s.cur.team s.cur.gang .glob 4 .readWrite ((s.active none).map (fun l => (l, waitAddr s.curGang false (so 4) l)))
      C.causes = [] ∧ C.st.curGang.queue = [] ∧ (∀ q ∈ C.locs, C.st.lineHeld C.st.curGang.core q.2 = false) ∧ C.st.badAtoms 4 C.locs = [] ∧
      ((C.st.later 0 C.locs).atomAll 4 C.locs (fun _ x => x)).2.2 = [])) ∧
    (let s := demo based
     s.clear (.atom64 none 0 .cas .none .gang false (so 8) (so 4) (so 6) (so 7)) = true ∧
     (let C := s.checkLanes s.cur.team s.cur.gang .glob 8 .readWrite [(0, waitAddr s.curGang false (so 4) 0)]
      C.causes = [] ∧ C.st.curGang.queue = [] ∧ (∀ q ∈ C.locs, C.st.lineHeld C.st.curGang.core q.2 = false) ∧ C.st.badAtoms 8 C.locs = [] ∧
      ((C.st.later 0 C.locs).atomAll 8 C.locs (fun _ x => x)).2.2 = [])) ∧
    (State.reset.isLocal 0xBFFFFFFFFC = true ∧ (State.reset.slice (homeOf 0xBFFFFFFFFC)).accept = [] ∧
      poisoned State.reset.poison 0xBFFFFFFFFC 4 = false ∧ State.reset.cores = []) := by decide +kernel

theorem witness_AtomicsReadAndWriteAsOneStep_out : ∀ c, (State.reset.core c).out = [] := fun _ => rfl

/-- A copy of no bytes, and a fence over queues 0 and 3, oldest in their queues. -/
def copying : State := (demo id).modCopyQ 0 1 (fun Q => { Q with entries := [.copy 3 1 0 0 false false 0x10100 0x10200 0 none] })
def fencing : State :=
  ((demo id).modCopyQ 0 0 (fun Q => { Q with entries := [.fence 5 1 0 .system 9 none] })).modCopyQ 0 3
    (fun Q => { Q with entries := [.fence 5 1 0 .system 9 none] })

theorem witness_EngineWordsEnterTheirQueues :
    (let s := demo fun G => ((based G).writeS 6 0x100).writeS 7 0x7F00
     s.clear (.cpGs none 3 4 7 6 none) = true ∧ s.active none ≠ [] ∧
     copyCause s.curTeam.launch false true (s.curGang.readS 4) (s.curGang.readS 7) (s.curGang.readS 6) none = none ∧
     s.queueFault s.curGang.core 3 = none ∧ s.queueFault s.curGang.core 0 = none ∧ queueClosed s 3 = false ∧ queueClosed s 0 = false ∧
     s.curGang.queue = [] ∧ s.clear (.cpSg none 0 7 4 6 (some 5)) = true ∧
     copyCause s.curTeam.launch true false (s.curGang.readS 7) (s.curGang.readS 4) (s.curGang.readS 6) (some 0x7F00) = none ∧
     s.clear (.cpGg none 0 4 4 6 none) = true ∧
     copyCause s.curTeam.launch false false (s.curGang.readS 4) (s.curGang.readS 4) (s.curGang.readS 6) none = none ∧
     s.clear (.cpFence none .system 15 (some 5)) = true ∧
     ((s.curGang.readS 5).setWidth 32).toNat + 4 ≤ s.curTeam.launch.scratchSpace ∧ ((s.curGang.readS 5).setWidth 32).toNat % 4 = 0 ∧
     (∀ q < 4, s.queueFault s.curGang.core q = none ∧ queueClosed s q = false ∧ (s.copyQ s.curGang.core q).held s.time ≤ 16) ∧
     s.clear (.cpPoll none 63) = true ∧ s.clear (.lfillBar none 15 4 6) = true ∧
     lfillCause (s.curGang.readS 4) (s.curGang.readS 6) = none ∧ ladleBusy s = false ∧ s.clear (.lfillTok none 7 4 6 4) = true ∧
     s.active none = 0 :: (upto 16).tail ∧
     (s.checkAccess s.cur.team s.cur.gang .glob ((s.curGang.readS 4).toNat : Int) 4 .write).2 = .ok (.mem 0x10100) ∧
     ladleBusy (s.checkAccess s.cur.team s.cur.gang .glob ((s.curGang.readS 4).toNat : Int) 4 .write).1 = false) := by decide +kernel

theorem witness_EnginesCompleteTheirWork :
    (copying.copyQ 0 1).entries = .copy 3 1 0 0 false false 0x10100 0x10200 0 none :: [] ∧
    (State.copyUnits 0 1 0 0 false false (0 / 16) copying 0x10100 0x10200 (!(copying.copyQ 0 1).begun)).2 = .done ∧
    ((fencing.copyQ 0 3).entries = .fence 5 1 0 .system 9 none :: [] ∧ fencing.storesPending 1 0 .system = false ∧
      ∀ p < 4, (9 : Nat).testBit p = true → fencing.fenceReady 0 1 5 p = true) ∧
    (({ State.reset with dies := [(3, { ladle := [⟨0, 1, 0, 384, 0, 0x10000, 128, .tok 0x10100 7, false⟩] })] } : State).dieOf 3).ladle[0]? =
      some ⟨0, 1, 0, 384, 0, 0x10000, 128, .tok 0x10100 7, false⟩ := by decide +kernel

/-! ### Witnesses: tiles and the matrix array -/

def small : Tile := { ew := 1, rlen := 32, rows := 32 }
/-- Tiles 0 and 1 hold 32 rows of one k-block of bytes; a pair team holds them on both cores. -/
def tiled (T : Team) : Team := { T with tiles := [(0, small), (1, small), (8, small), (9, small)] }
/-- v12 is the format word g8 × g8, and s6 the number of k-blocks. -/
def forMatrix : Gang → Gang := fun G => ((based G).writeS 6 1).writeS 7 0x01200020
def matrix : State := demoT tiled forMatrix
/-- A pair team: gang 0 on core 0, gang 1 on core 1. -/
def paired (h : Gang → Gang) : State :=
  demoT (fun T => { tiled T with launch := { T.launch with pair := true, gangs := 2 }, gangs := T.gangs ++ [(1, h { fetchGang with core := 1 })] }) h

theorem witness_TileWordsMoveTiles :
    (matrix.clear (.tcfg none 7 7) = true ∧ matrix.active none ≠ [] ∧ tcfgLegal (matrix.curGang.readS 7) = true ∧
      matrix.tileBusy matrix.cur.team (curFollower matrix) 7 = false) ∧
    (let s := matrix
     s.clear (.tld none 0 true 0 8 8 8) = true ∧ s.curGang.queue = [] ∧ s.tileBusy s.cur.team (curFollower s) 0 = false ∧
     (let x := s.curTeam.tile (tileKey (curFollower s) 0)
      let segs := tileSegs x (s.curGang.readS 8) (s.curGang.readS 8) (s.curGang.readS 8) true
      tileCause s.curTeam.launch true x (s.curGang.readS 8) (s.curGang.readS 8) true segs = none ∧
      (∀ q ∈ segs, poisoned s.curTeam.poison q.addr.toNat q.len = false) ∧ 31 < x.rows ∧ 31 < x.rlen ∧ x.rdy = true ∧ x.ecc = false) ∧
     s.clear (.tst none true 0 8 8 8) = true ∧ s.curGang.queue.length + (rowGroups (s.curTeam.tile (tileKey (curFollower s) 0)).rows
       (tileSegs (s.curTeam.tile (tileKey (curFollower s) 0)) (s.curGang.readS 8) (s.curGang.readS 8) (s.curGang.readS 8) true)).length ≤ 32) ∧
    (let s := matrix
     s.clear (.tldg none 15 false (some 15) 0 4 8 0) = true ∧
     (let x := s.curTeam.tile (tileKey (curFollower s) 0)
      let segs := tileSegs x (s.curGang.readS 4) (s.curGang.readS 8) (s.curGang.readS 0) false
      let ps := sortBy (fun p q : Seg => decide (p.addr ≤ q.addr)) (segs.flatMap Seg.pieces)
      let C := s.checkLanes s.cur.team s.cur.gang .glob 1 .read ((List.range ps.length).zip (ps.map (·.addr)))
      tileCause s.curTeam.launch false x (s.curGang.readS 4) (s.curGang.readS 8) false segs = none ∧ C.causes = [] ∧
      C.st.tileBusy C.st.cur.team (curFollower C.st) 0 = false ∧ C.st.curGang.queue = [] ∧ C.st.fenced C.st.cur.team C.st.cur.gang = false ∧
      (C.st.holdMisses.readPieces s.curGang.core C.st.curTeam.ctx C.st.cur.team (ps.zip (C.locs.map (·.2)))).2.2 = none)) ∧
    (let s := only 0x8001 matrix
     s.clear (.tzero none 0) = true ∧ s.tileBusy s.cur.team (curFollower s) 0 = false ∧ s.clear (.tmov none false 0 1 8) = true ∧ s.clear (.tmov none true 0 1 8) = true ∧ s.active none = [0, 15] ∧
     (∀ l ∈ s.active none, (s.curGang.readS 8).toNat + 4 * l + 4 ≤ (s.curTeam.tile (tileKey (curFollower s) 0)).rows * 8) ∧
     (s.curGang.readS 8).toNat % 4 = 0) ∧
    (let p : Pend := ⟨5, 0x10000, [.t 0], 0xFFFF, [], .tile 0 (some 15) 1024, [], [], none, false, [], none⟩
     ((demo fun G => { G with pend := [p] }).gang 1 0).pend.find? (fun q => decide (q.id = 5) && !q.done) = some p) := by decide +kernel

theorem witness_AccumulatorWordsReadAndWrite :
    ((demo id).clear (.czero none 0) = true ∧ (demo id).active none ≠ [] ∧ (demo id).curGang.width ∈ [16, 32, 64] ∧
      (demo id).clear (.cmov none 255 0 63) = true ∧ (63 : BitVec 8).toNat < accRegs (demo id).curGang.width ∧
      (demo id).clear (.cmovIn none 0 255 63) = true ∧ (31 : Nat) < 32 ∧ usableAccs (demo id).curTeam.launch (demo id).curGang = 12) ∧
    (let s := demo fun G => G.writeS 4 8
     s.clear (.vbnd none 4) = true ∧ s.active none ≠ [] ∧ vbndIllegal s (s.curGang.readS 4).toNat = false) := by decide +kernel

/-- s4 names a continuation of one k-block. -/
def continued : Contin := ⟨0, 0, 1, 0, 0x10, 0, false, 0x10000, 0⟩
def withBlock : State := { matrix with mem := writeBytes matrix.mem 0x10100 (continBytes continued) }

theorem witness_MatrixWordsAreAccepted :
    (let s := matrix
     s.clear (.mma none 3 0 false 0 0 1 12 6) = true ∧ s.active none ≠ [] ∧ (∀ l ∈ s.active none, s.curGang.readV l 12 = 0) ∧ fmtValid 0 = true ∧
     operandsBad s.curTeam s.cur.gang false 0 (s.curGang.readS 6).toNat 0 0 1 (ringLen 0) = false ∧
     (s.core s.curGang.core).matOff = false ∧ s.arrayBusy s.curGang.core = false) ∧
    (let s := paired forMatrix
     s.clear (.mmap none 0 0 true true 0 0 1 12 6) = true ∧ s.active none ≠ [] ∧ mmapIllegal s.curTeam s.cur.gang = false ∧
     ((s.curTeam.gang (partnerOf s.cur.gang)).pend.any (fun p => !p.done && p.names [.v 12])) = false ∧
     (∀ l ∈ s.active none, s.curGang.readV l 12 = 0) ∧
     (∀ l ∈ (s.curTeam.gang (partnerOf s.cur.gang)).liveLanes, (s.curTeam.gang (partnerOf s.cur.gang)).readV l 12 = 0) ∧ fmtValid 0 = true ∧
     operandsBad s.curTeam s.cur.gang true 0 (s.curGang.readS 6).toNat 0 0 1 (ringLen 0) = false ∧
     (s.core s.curGang.core).matOff = false ∧ (s.core (followerCore s.curTeam)).matOff = false ∧
     s.arrayBusy s.curGang.core = false ∧ s.arrayBusy (followerCore s.curTeam) = false) ∧
    (let s := withBlock
     s.clear (.mmac none 0 4) = true ∧ s.active none ≠ [] ∧
     (let c1 := s.checkAccess s.cur.team s.cur.gang .glob ((s.curGang.readS 4).toNat : Int) 64 .read
      c1.2 = .ok (.mem 0x10100) ∧
      (let c2 := c1.1.loadLoc c1.1.cur.team c1.1.cur.gang (.mem 0x10100) 64 true
       c2.2.2 = false ∧ continOf c2.2.1 = some continued ∧ continued.pair = false ∧ continued.acc < usableAccs c2.1.curTeam.launch c2.1.curGang ∧
       (let o := continOp continued c2.1.nextId c1.1.cur.team c1.1.cur.gang
        operandsBad c2.1.curTeam c1.1.cur.gang continued.pair continued.fmt continued.kb continued.acc o.ta o.tb o.ring = false ∧
        (c2.1.core c2.1.curGang.core).matOff = false ∧ c2.1.arrayBusy c2.1.curGang.core = false)))) := by decide +kernel

def op1 : MatOp := newOp 7 1 0 false false false false 1 0 1 0 0 1 0 0x10000
def op2 : MatOp := newOp 7 1 0 true false false false 1 0 1 0 0 1 0 0x10000
def op2s : MatOp := { op2 with side := true }
def queued (a b : List MatOp) (s : State) : State :=
  { s with cores := [(0, { s.core 0 with matq := a }), (1, { s.core 0 with matq := b })] }

theorem witness_ArraysRunTheirOldestOperation :
    (op1.p % 2 = 0 ∧ ({ op1 with p := 1 } : MatOp).p % 2 = 1) ∧
    (let s := queued [op1] [] matrix
     s.arrayHead 0 = some op1 ∧ op1.pair = false ∧ op1.p < op1.kb ∧ op1.ready (s.team op1.team) = true ∧
     (s.take 0 (s.team op1.team).ctx (kBlockWeight s op1.fmt)).2 = .taken) ∧
    (let s := queued [op2] [op2s] (paired forMatrix)
     s.arrayHead 0 = some op2 ∧ op2.pair = true ∧ op2.side = false ∧ op2.p < op2.kb ∧ op2.ready (s.team op2.team) = true ∧
     s.arrayHead (followerCore (s.team op2.team)) = some op2s ∧ op2s.id = op2.id ∧ op2s.ready (s.team op2.team) = true ∧
     (s.take 0 (s.team op2.team).ctx (kBlockWeight s op2.fmt)).2 = .taken ∧
     ((s.take 0 (s.team op2.team).ctx (kBlockWeight s op2.fmt)).1.take (followerCore (s.team op2.team)) (s.team op2.team).ctx
       (kBlockWeight s op2.fmt)).2 = .taken) ∧
    (let s := demo fun G => { G with tstat := 2 }
     s.clear (.atest none 63) = true ∧ s.active none ≠ [] ∧ (s.core s.curGang.core).matq = [] ∧ (s.core 0).matOff = false ∧
     (s.core 0).damaged = [] ∧ (∀ o ∈ s.arrayHead 0, o.ran = false ∨ o.kb ≤ o.p) ∧ (31 : Nat) < 32 ∧ (s.core 0).spare = none) ∧
    (∀ k ∈ [none, some 7],
      (let s : State := { demo (fun G => { G with tstat := 2 }) with cores := [(0, { damaged := [3], spare := k })] }
       s.clear (.atest none 63) = true ∧ (s.core s.curGang.core).matq = [] ∧ (s.core 0).matOff = false ∧ (s.core 0).damaged = 3 :: [] ∧
       (s.core 0).spare = k)) ∧
    (let s : State := { State.reset with cores := [(0, { spare := some 7 })] }
     (s.core 0).matOff = false ∧ (s.core 0).damaged = [] ∧ s.arrayHead 0 = none ∧ (s.core 0).spare = some 7 ∧ 7 ≠ 8) ∧
    (let s := queued [{ op1 with p := 1 }] [] matrix
     s.arrayHead 0 = some { op1 with p := 1 } ∧ ({ op1 with p := 1 } : MatOp).kb ≤ 1 ∧ op1.bad = false) ∧
    (let s := queued [{ op2 with p := 1 }] [{ op2s with p := 1 }] (paired forMatrix)
     s.arrayHead 0 = some { op2 with p := 1 } ∧ s.arrayHead (followerCore (s.team 1)) = some { op2s with p := 1 } ∧ op2s.bad = false) ∧
    fetchGang.width ∈ [16, 32, 64] := by decide +kernel

/-! ### Witnesses: traps and system words -/

/-- Context 0 handles every trap that a kernel may, at 0x20000. -/
def handled (s : State) : State := { s with ctxs := [(0, { khandler := 0x20000, kdeleg := 0xFFFF })] }
/-- A gang in a handler entered by some lanes. -/
def inHandler (m : LaneMask) : Gang → Gang := fun G => { G with tstat := 1, hset := m, tpc := 0x10100 }

theorem witness_TrapsEnterTheHandler :
    ((handled (demo id)).curGang.pend.all (fun p => p.done) = true ∧
      ({ causes := causeAll [0, 15] 11, code := 5 } : TrapRec).causes = causeAll [0, 15] 11 ∧ [0, 15] ≠ ([] : List Nat) ∧ [0, 15].Nodup ∧
      (∀ l ∈ [0, 15], l < 64) ∧ (handled (demo id)).handlerOf 0 (handled (demo id)).curGang.level 11 ≠ 3) ∧
    ((demo id).handlerOf (demo id).curTeam.ctx (demo id).curGang.level 1 = 3 ∧ (demo id).curTeam.stopReq = none ∧
      (let r : StopReq := ⟨1, 0, false, some 0, none, 20⟩
       let s := demoT (fun T => { T with stopReq := some r }) id
       s.handlerOf s.curTeam.ctx s.curGang.level 1 = 3 ∧ s.curTeam.stopReq = some r ∧ r.stopped.isSome = true)) ∧
    ((demo id).clear (.trap none 255) = true ∧ (demo id).clear (.brk none 0) = true ∧ (demo id).active none ≠ []) ∧
    ((handled (demo id)).clear (.trap none 255) = true ∧ (handled (demo id)).clear (.brk none 0) = true ∧ (handled (demo id)).active none ≠ [] ∧
      (handled (demo id)).runLanes ≠ [] ∧ ∀ c ∈ [1, 5, 6, 7, 8, 10, 11, 12],
        (handled (demo id)).handlerOf (handled (demo id)).curTeam.ctx (handled (demo id)).curGang.level c ≠ 3) ∧
    (demo (repeating 1)).curGang.prog = some (.rep 3 1 0 0 0 0xFFFF) ∧
    ((demo id).active shut = [] ∧ (demo id).clear (.trap shut 7) = true ∧ (demo id).clear (.brk shut 7) = true) := by decide +kernel

theorem witness_ReturnsFromHandlersResume :
    (let s := demo (inHandler 0xFFFF)
     s.clear (.rfe none true) = true ∧ s.curGang.level ≠ 0 ∧ s.curGang.tstat.getLsbD 3 = false ∧ noRep s.curGang = true ∧
     s.curGang.tstat.getLsbD 7 = false ∧ (∀ l ∈ s.active none, s.curGang.hset.getLsbD l = true ∧ s.curGang.laneState l = .ready) ∧
     ∀ l ∈ s.curGang.liveLanes, s.curGang.hset.getLsbD l = true → l ∈ s.active none) ∧
    (let s := only 0x7FFF (demo (inHandler 0xFFFF))
     s.clear (.rfe none false) = true ∧ (∀ l ∈ s.active none, s.curGang.hset.getLsbD l = true ∧ s.curGang.laneState l = .ready) ∧
     ∃ l ∈ s.curGang.liveLanes, s.curGang.hset.getLsbD l = true ∧ s.curGang.laneState l = .ready ∧ l ∉ s.active none) ∧
    ((demo id).clear (.rfe none true) = true ∧ (demo id).curGang.level = 0) ∧
    (let s := demo fun G => { G with tstat := 9 }
     s.clear (.rfe none false) = true ∧ s.curGang.tstat.getLsbD 3 = true) := by decide +kernel

theorem witness_SystemReadsGiveTheirRegister :
    (demo id).clear (.sread none .scalar 63 0x70) = true ∧ (sysReg 0x70).map (·.1) = some false ∧ (demo id).active none ≠ [] ∧
    (demo id).clear (.sread none .pair 254 0x30) = true ∧ (sysReg 0x30).isSome = true ∧ (demo id).clear (.sread none .vec 255 0x30) = true ∧
    (demo id).clear (.sread none .scalar 0 0x3FF) = true ∧ sysReg 0x3FF = none ∧
    (demo id).clear (.sread none .scalar 0 0x30) = true ∧ (sysReg 0x30).map (·.1) = some true := by decide +kernel

theorem witness_SystemWritesKeepTheirFields :
    ([0x12, 0x20, 0x21, 0x22, 0x23, 0x24, 0x25, 0x26, 0x27, 0x28, 0x31].all (fun n => (demo id).clear (.swrite none .scalar 63 n)) = true ∧
      (demo id).active none ≠ [] ∧ (demo id).curGang.depthMax ≤ 4 ∧ (demo id).clear (.swrite none .vec 255 0x30) = true) ∧
    (let s := demo fun G => { G with tstat := 2 }
     s.clear (.swrite none .scalar 4 0x11) = true ∧ s.clear (.swrite none .scalar 4 0x14) = true ∧ s.curGang.privileged = true) ∧
    (let s := demo forMatrix
     s.clear (.swrite none .scalar 7 0x47) = true ∧ (0x47 : BitVec 10).toNat = 0x40 + 7 ∧ 7 < s.curTeam.launch.tiles ∧
     tcfgLegal (s.curGang.readS 7 &&& ~~~0x100000000#64) = true ∧ s.tileBusy s.cur.team (curFollower s) 7 = false) ∧
    ((demo id).clear (.swrite none .scalar 4 0x70) = true ∧ sysReg 0x70 = some (false, .ro)) ∧
    ((demo id).clear (.swrite none .scalar 4 0x11) = true ∧ sysReg 0x11 = some (false, .priv) ∧ (demo id).curGang.privileged = false) := by
  decide +kernel

theorem witness_ContextBlocksAreSavedAndLoaded :
    (let s := demo fun G => { based G with tstat := 2 }
     s.clear (.ctxSave none 4) = true ∧ s.active none ≠ [] ∧ s.curGang.queue.length < 32 ∧
     (s.checkLanes s.cur.team s.cur.gang .glob 128 .write (blockLines (s.curGang.readS 4))).causes = [] ∧ s.clear (.ctxLoad none 4) = true ∧
     (let C := s.checkLanes s.cur.team s.cur.gang .glob 128 .read (blockLines (s.curGang.readS 4))
      C.causes = [] ∧
      (C.st.readStack C.st.cur.team C.st.cur.gang 128 (C.locs.filterMap (fun q => match q.2 with
        | .mem pa => some (C.st.curGang.readS 4 + BitVec.ofNat 64 (128 * q.1), pa)
        | _ => none))).2.2 = [])) := by decide +kernel

/-! ### Witnesses: exchange groups and accumulates -/

/-- A team alone in its exchange group, with a base for `xst`. -/
def grouped (f : Team → Team) (h : Gang → Gang) : State :=
  demoT (fun T => f { T with launch := { T.launch with xg := 1 } }) (fun G => h (G.writeS 4 0x7FFC))
def shM : MemOp := ⟨.none, false, false, 2, 4, .w, .shadow, 0⟩

theorem witness_ExchangeGroupsArriveAndSwap :
    (let s := grouped id id
     s.clear (.xst none shM) = true ∧ s.curTeam.launch.xg ≠ 0 ∧ storeBusy s shM = false ∧
     (s.checkLanes s.cur.team s.cur.gang .shadow 4 .write (lanePlaces s none shM false)).causes = [] ∧
     s.clear (.xbar none) = true ∧ s.active none ≠ [] ∧ s.storesPending s.cur.team s.cur.gang .die = false ∧
     s.clear (.cbar none 15) = true ∧ s.storesPending s.cur.team s.cur.gang .cluster = false ∧ s.clear (.xpoll none 63) = true) ∧
    ((demo id).clear (.xst none shM) = true ∧ (demo id).curTeam.launch.xg = 0) ∧
    (let s : State := { grouped id id with cores := [(0, { xouts := [⟨1, 1, [(8, 1)], false⟩] })] }
     (s.core 0).xouts = ⟨1, 1, [(8, 1)], false⟩ :: [] ∧ (s.team 1).state ≠ .retired) ∧
    (let s : State := { grouped (fun T => { T with state := .retired }) id with cores := [(0, { xouts := [⟨1, 1, [(8, 1)], false⟩] })] }
     (s.core 0).xouts = ⟨1, 1, [(8, 1)], false⟩ :: [] ∧ (s.team 1).state = .retired) ∧
    (let s : State := { grouped id id with groups := [{ arrived := [0] }] }
     (s.team 1).launch.xg ≠ 0 ∧ (∀ k < (s.team 1).launch.xg, k ∈ (s.groupOf (s.team 1)).arrived) ∧
     (∀ p ∈ s.groupTeams (s.team 1).ctx (s.team 1).serial (s.team 1).groupNum, p.2.state ≠ .saving ∧ p.2.state ≠ .saved ∧ s.xstToTeam p.1 = false ∧
       (p.2.onDie = true → ∀ g ∈ (s.team p.1).gangs, s.storesPending p.1 g.1 .die = false)) ∧
     (1, s.team 1) ∈ s.teams ∧ (s.team 1).inGroup 0 0 0 = true ∧ (s.team 1).onDie = true) := by decide +kernel

theorem witness_AccumulateWordsSendAddends :
    (let s := demo based
     s.clear (.acc none .addI64 (so 4) (vo 2)) = true ∧ s.clear (.accv none .addB16x2 (so 4) 252) = true ∧
     (let C := s.checkLanes s.cur.team s.cur.gang .glob 16 .write ((s.active none).map (fun l => (l, ((s.curGang.rawOpd (so 4) true l).toNat : Int))))
      C.causes = [] ∧ C.st.portFree C.st.curGang.core = true ∧ C.st.isLocal (0x10100 / 64 * 64) = true) ∧
     s.clear (.accFlush none .system) = true ∧ s.active none = 0 :: (upto 16).tail ∧ noRep s.curGang = true ∧ s.clear (.accProbe none 15 63 4) = true ∧
     (s.checkAccess s.cur.team s.cur.gang .glob ((s.curGang.readS 4).toNat : Int) 1 .probe).2 = .ok (.mem 0x10100) ∧
     (let t := (s.checkAccess s.cur.team s.cur.gang .glob ((s.curGang.readS 4).toNat : Int) 1 .probe).1
      (t.core t.curGang.core).unanswered t.curTeam.ctx (0x10100 / 64) = [])) := by decide +kernel

def packet (stage : PktStage) : Packet := ⟨4, 0, 0, 0x404, .addF32, [(15, 7)], none, 0, false, false, [], stage, 0, none, 0⟩
/-- Core 2 has one unanswered packet. -/
def sent (stage : PktStage) : State := { State.reset with cores := [(2, { pkts := [packet stage] })] }
/-- The home slice of the packet. -/
def itsHome : Nat := homeOf 0x10100
def held (b : Bool) : Resid := ⟨0, 0x404, .addF32, [(15, 7)], 3, 0, false, b, 0, [], 0⟩

theorem witness_PacketsAreAcceptedAppliedAndAnswered :
    (AccOpc.addF32 ≠ .addI64 ∧ tsortedFrom 0 [(0, (7 : W32)), (15, 7)] = true ∧ ∀ q ∈ [(0, (7 : W32)), (15, 7)], q.1 < 16) ∧
    (let s := sent .sent
     (s.core 2).pkts.find? (fun q => decide (q.id = 4)) = some (packet .sent) ∧ (packet .sent).granted = false ∧ s.flying 4 = false ∧
     s.packetBehind 2 (packet .sent) = false ∧ s.portFree 2 = true ∧ s.isLocal (0x404 * 64) = true ∧ s.heldExclusive (0x404 / 2) = false ∧ homeOf (0x404 * 64) = itsHome ∧
     (s.slice itsHome).accept.length + (s.slice itsHome).grants.length < 64 ∧ s.acceptOf itsHome 0 < 16 ∧ (packet .sent).late = false) ∧
    (let s : State := { sent .sent with slices := [(itsHome, { grants := (upto 64).map (fun _ => 1) })] }
     64 ≤ (s.slice itsHome).accept.length + (s.slice itsHome).grants.length) ∧
    (let s : State := { sent .accepted with slices := [(itsHome, { accept := [(2, 4)] })] }
     (s.slice itsHome).accept = (2, 4) :: [] ∧ (s.core 2).pkts.find? (fun q => decide (q.id = 4)) = some (packet .accepted)) ∧
    (((sent .applied).core 2).pkts.find? (fun q => decide (q.id = 4)) = some (packet .applied) ∧ (sent .applied).flying 4 = false ∧
      (sent .applied).answerBehind 2 (packet .applied) = false) ∧
    (((sent (.refused false)).core 2).pkts.find? (fun q => decide (q.id = 4)) = some (packet (.refused false)) ∧
      (sent (.refused false)).answerBehind 2 (packet (.refused false)) = false ∧ ((sent (.refused false)).core 2).entry 0 0x404 = none) ∧
    (let s : State := { State.reset with cores := [(2, { resid := [held false] })] }
     (s.core 2).entry 0 0x404 = some (held false) ∧ (s.core 2).unanswered 0 0x404 = [] ∧ s.remoteRoom 0x404 = true ∧
     s.limited 2 0 (writeFlits (4 * (held false).slots.length)) = false) ∧
    (let s : State := { State.reset with cores := [(2, { resid := [held true] })], slices := [(itsHome, { grants := [2] })] }
     (s.core 2).entry 0 0x404 = some (held true) ∧ (s.core 2).unanswered 0 0x404 = [] ∧ s.remoteRoom 0x404 = true ∧ 0 < s.unusedGrants 2 itsHome ∧
     s.limited 2 0 (writeFlits (4 * (held true).slots.length)) = false) ∧
    (let b := 2 ^ 36 + 0x404
     let s : State := { State.reset with cores := [(2, { resid := [{ held true with block := b }] })] }
     (s.core 2).entry 0 b = some { held true with block := b } ∧ (s.core 2).unanswered 0 b = [] ∧ s.remoteRoom b = true ∧ s.isLocal (b * 64) = false) ∧
    (let e : DirEntry := ⟨0x202, 0, 0, some 3, false, false, none, 0, 0, some (0, 5)⟩
     let s : State := { State.reset with slices := [(itsHome, { dir := [e] })], time := 65541 }
     (s.slice (homeOf (0x202 * 128))).entry 0x202 = some e ∧ e.owner = some 3 ∧ e.refuse = some (0, 5) ∧ 5 + 65536 ≤ s.time ∧
     ({ s with time := 65540 } : State).time < 5 + 65536) := by decide +kernel

/-! ### Witnesses: futures -/

/-- Future 5 of die 0, held in f1 and by nothing else. -/
def future (st : FutState) (n : Nat) : State :=
  { demoT (fun T => { T with f := [(1, handleOf 5 9)] }) based with futures := [(5, { state := st, gen := 9, count := n, results := [1, 2] })] }
def spawnBytes : List Byte := bytesOfNum 8 0x10000 ++ List.replicate 16 0 ++ [8, 0, 16, 1] ++ List.replicate 36 0
def spawning : State := { demo based with mem := writeBytes (demo based).mem 0x10100 spawnBytes, parts := [(0, { cfg := 0x8000000001000001, ext := [] })] }

theorem witness_FutureWordsMoveReferences :
    (let s := future .running 65534
     s.clear (.futDup none 15 1) = true ∧ s.active none ≠ [] ∧ s.curTeam.readF 1 ≠ 0 ∧ s.futLive s.curTeam.ctx (s.curTeam.readF 1) = true ∧
     (s.future (futKey (s.curTeam.readF 1))).count < 65535 ∧ s.curTeam.readF 15 = 0 ∧ s.clear (.futDrop none 1) = true ∧ s.clear (.futPoll none 15 1) = true ∧
     s.clear (.futPark none 4 1) = true ∧ s.curGang.queue = [] ∧
     (let c := s.checkAccess s.cur.team s.cur.gang .glob ((s.curGang.readS 4).toNat : Int) 4 .readWrite
      c.2 = .ok (.mem 0x10100) ∧ c.1.storesPending c.1.cur.team c.1.cur.gang .device = false ∧ c.1.curGang.queue = [] ∧ c.1.lineHeld c.1.curGang.core (.mem 0x10100) = false ∧
      (c.1.peekToken (.mem 0x10100)).2 = (0, false) ∧
      (c.1.peekToken (.mem 0x10100)).1.badSource ((c.1.peekToken (.mem 0x10100)).1.curTeam.readF 1) = none ∧
      s.clear (.futUnpark none 15 4) = true ∧ (c.1.peekToken (.mem 0x10100)).1.curTeam.readF 15 = 0)) ∧
    (let s : State := { future .running 2 with mem := writeNum (future .running 2).mem 0x10100 4 (handleOf 5 9).toNat }
     s.clear (.futUnpark none 15 4) = true ∧
     (let c := s.checkAccess s.cur.team s.cur.gang .glob ((s.curGang.readS 4).toNat : Int) 4 .readWrite
      c.2 = .ok (.mem 0x10100) ∧ c.1.curGang.queue = [] ∧ c.1.lineHeld c.1.curGang.core (.mem 0x10100) = false ∧
      (c.1.peekToken (.mem 0x10100)).2 = (handleOf 5 9, false) ∧ handleOf 5 9 ≠ 0 ∧
      (c.1.peekToken (.mem 0x10100)).1.futLive s.curTeam.ctx (handleOf 5 9) = true)) ∧
    ((demo id).curTeam.readF 1 = 0 ∧ (demo id).clear (.futDup none 15 1) = true ∧ (demo id).clear (.futPoll none 15 1) = true ∧ (demo id).clear (.futDrop none 1) = true) ∧
    (let s : State := { future .running 2 with futures := [] }
     s.curTeam.readF 1 ≠ 0 ∧ s.futLive s.curTeam.ctx (s.curTeam.readF 1) = false) := by decide +kernel

theorem witness_FutSelfAndCheckChangeNoReference : (demo id).clear (.futSelf none 63) = true ∧ (demo id).active none ≠ [] ∧
    (demo id).clear (.futSelf shut 0) = true ∧ (demo id).clear (.futCheck none) = true := by decide +kernel

theorem witness_FuturesSpawnCompleteAndReturn :
    (let s := spawning
     s.clear (.futSpawn none 1 4 56 8) = true ∧ s.active none ≠ [] ∧
     (let c := s.checkAccess s.cur.team s.cur.gang .glob ((s.curGang.readS 4).toNat : Int) 64 .read
      c.2 = .ok (.mem 0x10100) ∧
      (let d := c.1.loadLoc c.1.cur.team c.1.cur.gang (.mem 0x10100) 64 true
       d.2.1 = spawnBytes ∧ d.2.2 = false ∧ (spawnDesc spawnBytes).isSome = true ∧
       (∀ x ∈ spawnDesc spawnBytes, x.1.cBytes = 0 ∧ d.1.everFits (d.1.partOf d.1.curTeam.ctx) x.1 = true) ∧
       d.1.curTeam.readF 1 = 0 ∧ d.1.storesPending d.1.cur.team d.1.cur.gang .device = false ∧
       d.1.futMay (dieOfCore d.1.curGang.core) (d.1.partOf d.1.curTeam.ctx) = true))) ∧
    ((future .completed 1).clear (.futGet none 0 56 1 8) = true ∧ (future .completed 1).active none ≠ [] ∧
      (∀ l ∈ (future .completed 1).active none, tget 0 (future .completed 1).curGang.lost l = 0) ∧
      (future .completed 1).badGet ((future .completed 1).curTeam.readF 1) = none ∧
      ((future .completed 1).future (futKey ((future .completed 1).curTeam.readF 1))).state = .completed) ∧
    ((future .running 1).clear (.futGet none 15 56 1 8) = true ∧ (future .running 1).clear (.futGet none 0 0 1 0) = true ∧
      (future .running 1).badGet ((future .running 1).curTeam.readF 1) = none ∧
      ((future .running 1).future (futKey ((future .running 1).curTeam.readF 1))).state ≠ .completed) ∧
    (let s := demoT (fun T => { T with child := true }) id
     s.clear (.futRet none 56 8) = true ∧ s.active none ≠ [] ∧ s.curTeam.child = true ∧
     ∀ q ∈ s.curTeam.gangs, q.1 ≠ s.cur.gang → q.2.finished = true) ∧
    ((demo id).clear (.futRet none 0 0) = true ∧ (demo id).curTeam.child = false) := by decide +kernel

/-! ### Witnesses: energy and collectives -/

theorem witness_EnergyWordsReadMarkAndRequest :
    (demo id).clear (.enRead none 63 4) = true ∧ (demo id).active none ≠ [] ∧ (4 : BitVec 8).toNat < 5 ∧ (demo id).clear (.enRead none 0 0) = true ∧
    (demo id).clear (.enMark none 63) = true ∧ (demo id).clear (.vfReq none 63 0) = true := by decide +kernel

theorem witness_VfStatWaitsForItsPoint :
    (demo id).clear (.vfStat none 63) = true ∧ (demo id).active none ≠ [] ∧ ((demo id).part ((demo id).partOf (demo id).curTeam.ctx)).busy = none ∧
    ((demo id).part ((demo id).partOf (demo id).curTeam.ctx)).pendT = false ∧
    (let s : State := { demo id with parts := [((demo id).partOf 0, { busy := some (0, 3) })] }
     s.clear (.vfStat none 63) = true ∧ (s.part (s.partOf s.curTeam.ctx)).busy.isSome = true ∧ noRep s.curGang = true) ∧
    (let G : Gang := { fetchGang with lst := [(3, .point 63)] }
     noRep G = true ∧ 3 < G.width ∧ G.laneState 3 = .point 63 ∧ ∀ k < G.width, ∀ e, G.laneState k = .point e → e = 63) := by
  refine ⟨by decide +kernel, by decide +kernel, by decide +kernel, by decide +kernel, by decide +kernel, by decide, by decide, by decide, ?_⟩
  intro k hk e he
  have hw : k < 16 := hk
  interval_cases k <;> simp_all [Gang.laneState, fetchGang, freshGang, tget, tfind]

/-- A meter that has asked its bucket, or whose answer is on its way. -/
def asking (m : Meter) : State := { State.reset with cores := [(2, { meters := [(1, m)] })] }

theorem witness_GrantsTicksAndPointsAct :
    (((asking { req := true }).meter 2 1).req = true ∧ ((asking { req := true }).meter 2 1).answer = none) ∧
    ((asking { req := true, answer := some 0 }).meter 2 1).answer = some 0 ∧
    (let G : Gang := { fetchGang with stop := .energy 512000 0 }
     let s : State := { asking { req := true, answer := some 64 } with teams := [(1, { ctx := 1, gangs := [(0, { G with core := 2 })] })] }
     (s.meter 2 1).answer = some 64 ∧ (1, s.team 1) ∈ s.teams ∧ (s.team 1).ctx = 1 ∧ (0, { G with core := 2 }) ∈ (s.team 1).gangs) ∧
    ({ State.reset with time := Config.tickPeriods } : State).tick < ({ State.reset with time := Config.tickPeriods } : State).time / Config.tickPeriods ∧
    (let s : State := { State.reset with wshadow := some ([1], 2), ctxs := [(0, { cap := 5 })] }
     s.wshadow = some ([1], 2) ∧ (0, s.ctx 0) ∈ s.ctxs) ∧
    (let s : State := { State.reset with parts := [(1, { busy := some (0, 3), target := 4, pendT := true })], time := 24000 }
     (s.part 1).busy = some (0, 3) ∧ 0 + 24000 ≤ s.time ∧ (s.part 1).pendT = true ∧ (s.part 1).target ≠ 3) ∧
    (let s : State := { State.reset with parts := [(1, { closed := [[1]] })] }
     (s.part 1).closed ≠ []) ∧ (List.replicate 560 (0 : Byte)).length = 560 := by decide +kernel

theorem witness_CapsFollowTheirShares :
    (let s : State := { State.reset with time := 2400000, capcfg := 0x4000, capShare := some 9 }
     s.capDone < s.time / 2400000 ∧ s.capRole ≠ 0 ∧ s.capShare = some 9) ∧
    (let s : State := { State.reset with time := 480000, capcfg := 0x8000 }
     s.capRole = 2 ∧ s.capDivided = false ∧ 480000 ≤ s.time % 2400000 ∧ s.capShare = none) ∧
    (sumBy (·.2.1) [(0, 3, 9), (1, 4, 4)] ≤ 7 ∧ capShares 7 [(0, 3, 9), (1, 4, 4)] ≠ []) := by decide +kernel

/-! ### Witnesses: collectives, slices and teams -/

/-- A partition 0 with quarter 0, context 0 and extent 0. -/
def part0 : Part := { cfg := 0x8000000001000001, ext := [(0, 1)] }
/-- The issuing team is of a partition whose collective group 15 is as given; sregs 6 and 7 hold control words. -/
def colls (n : Nat) (K : CollGroup) : State :=
  { demo (fun G => (((based G).writeS 5 0x10200).writeS 6 (BitVec.ofNat 64 (15 * 65536 + n))).writeS 7 (BitVec.ofNat 64 (15 * 2 ^ 32 + K.count))) with
    parts := [(0, { part0 with coll := [(15, K)] })] }
/-- A root without children, of a group of one member. -/
def alone : CollGroup := { a := 0x8000000000010000 }
def opn (k : Nat) : CollOpn := ⟨k, false, .addI32, 0, 4, 0, 0, [(0, 0x10200, 4)], some [1, 0, 0, 0], false, 0, false, 24000000, 0⟩

/-- What a collective word's checks leave, for the addresses of sregs 4 and 5. -/
def collReady (s : State) (n : Nat) : Bool :=
  let G := s.curGang
  let C := s.checkLanes s.cur.team s.cur.gang .glob 4 .read (pieceAddrs (G.readS 4) n)
  let D := C.st.checkLanes C.st.cur.team C.st.cur.gang .glob 4 .write (pieceAddrs (G.readS 5) n)
  decide (collCause [G.readS 4, G.readS 5] n = none ∧ C.causes = [] ∧ D.causes = [] ∧ C.st.awayPiece C.locs = none ∧
    D.st.awayPiece D.locs = none ∧ D.st.storesPending D.st.cur.team D.st.cur.gang .system = false ∧
    (D.st.collSource (G.readS 4) n C.locs).2.2 = none)

theorem witness_CollectiveWordsBeginAndWait :
    (let s := colls 256 alone
     s.clear (.collRed none .addF32 63 4 5 6) = true ∧ s.clear (.collBcast none 63 4 5 6) = true ∧ s.active none ≠ [] ∧
     s.partOf s.curTeam.ctx = 0 ∧ s.curGang.readS 6 = 0xF0100 ∧ ctrlLegal false alone.members 0xF0100 = true ∧ ctrlLegal true alone.members 0xF0100 = true ∧
     alone.rank = ctrlRoot 0xF0100 ∧ s.group 0 15 = alone ∧ alone.flying < 4 ∧ collReady s 256 = true) ∧
    collReady (colls 4 alone) 4 = true ∧ ctrlLegal false 1 260 = false ∧ ctrlLegal true 1 0x100000004 = false ∧
    ((colls 260 alone).clear (.collRed none .addF32 63 4 5 6) = true ∧ (colls 260 alone).active none ≠ []) ∧
    ((colls 4 {}).group 0 15).enabled = false ∧
    (let K : CollGroup := { a := 0x8000000100010000 }
     K.enabled = true ∧ ∃ c ∈ K.links, (colls 4 K).reachable c = false) ∧
    (alone.enabled = true ∧ alone.rank = 0 ∧ alone.kids = [] ∧ alone.early = [] ∧ ∀ q ∈ alone.ops, q.k ≠ 1) ∧
    (let K : CollGroup := { alone with count := 1, ops := [{ opn 1 with status := 1 }] }
     (colls 4 K).clear (.collWait none 0 7) = true ∧ (colls 4 K).active none ≠ [] ∧ K.statusOf ((colls 4 K).curGang.readS 7) = some 1 ∧
     (colls 4 K).group 0 15 = K) ∧
    (let K : CollGroup := { alone with count := 1, ops := [opn 1] }
     (colls 4 K).clear (.collWait none 63 7) = true ∧ K.statusOf ((colls 4 K).curGang.readS 7) = none) := by decide +kernel

/-- A group with one child, package 5, or with the parent 5. -/
def withKid : CollGroup := { a := 0x8000000000010000, b := 0x0A00000200001400, count := 1, ops := [opn 1] }
def withParent : CollGroup := { a := 0x8000000100010000, b := 0x0A00000400000005, count := 1, ops := [{ opn 1 with sentUp := true }] }

theorem witness_CollectivesCompleteOverTheTree :
    withKid.kids = [5] ∧ withKid.accepts 1 withKid.kids 5 = false ∧ withKid.accepts 0 withKid.kids 6 = false ∧ withKid.accepts 0 withKid.kids 5 = true ∧ withKid.count < 2 ∧ 1 ≤ withKid.count ∧
    (colls 4 withKid).group 0 15 = withKid ∧ (colls 4 withKid).collOp 0 15 1 = some (opn 1) ∧ (opn 1).got < withKid.kids.length ∧
    withParent.enabled = true ∧ withParent.hasParent = true ∧ withParent.parent = 5 ∧ (colls 4 withParent).collOp 0 15 1 = some { opn 1 with sentUp := true } ∧
    (opn 1).status = 0 ∧ (opn 1).deadline ≤ ({ colls 4 withKid with time := 24000000 } : State).time := by decide +kernel

def entryOf (own : Option Nat) : DirEntry := ⟨0x202, 0, 0, own, false, false, none, 0, 0, none⟩
/-- The slice of line 0x202 has the entry given; core 511 may hold the line exclusive. -/
def lined (e : DirEntry) (excl : Bool) : State :=
  { State.reset with slices := [(homeOf (0x202 * 128), { dir := [e] })], cores := [(511, { l1 := [⟨0x202, excl, false⟩] })] }
/-- Context 0 maps its first GiB to extent 0, without stage 2. -/
def mappedCtx : State :=
  { State.reset with
    parts := [(0, part0)], ctxs := [(0, { en := true, s1root := 0x1000, level := 1 })]
    mem := writeNum (writeNum (writeNum [] 0x1000 8 0x2001) 0x2000 8 0x3001) 0x3000 8 0xDF }

theorem witness_SlicesKeepTheirDirectory :
    511 < 512 ∧
    ((lined (entryOf none) false).limited 511 0 1 = false ∧ (lined (entryOf none) false).ownHeld 511 0x202 = false ∧ (lined (entryOf none) false).ownsLine 511 0x202 = false) ∧
    (lined { entryOf none with refuse := some (0, 0) } false).ownHeld 511 0x202 = true ∧
    ((lined (entryOf (some 511)) true).core 511).l1.any (fun x => decide (x.line = 0x202) && x.excl) = true ∧
    (∃ e, ((mappedCtx.walkReads (mappedCtx.chargeCore 0) 0 ((0x3FFFFFF8 : W64).toNat % 2 ^ 57)).walk 0 0 ((0x3FFFFFF8 : W64).toNat % 2 ^ 57) .read 0).2 = .ok e) := by
  refine ⟨by decide, by decide +kernel, by decide +kernel, by decide +kernel, ⟨0, 0, 30, 0, 0, true, true, true, false, true⟩, ?_⟩
  decide +kernel

/-- R317: cluster 3 to slice 20 in 11 hops, its reply, and slice 21 to memory port 4, which turns at (1, 5) and (1, 7). -/
theorem test_routes :
    route (clusterSite 3) (sliceSite 20) = [(⟨6, 0⟩, .west), (⟨5, 0⟩, .west), (⟨4, 0⟩, .west), (⟨3, 0⟩, .west), (⟨2, 0⟩, .west),
      (⟨1, 0⟩, .west), (⟨0, 0⟩, .south), (⟨0, 1⟩, .south), (⟨0, 2⟩, .south), (⟨0, 3⟩, .south), (⟨0, 4⟩, .south)] ∧
    (route (sliceSite 20) (clusterSite 3)).map (·.2) = List.replicate 5 .north ++ List.replicate 6 .east ∧
    route (sliceSite 21) (memPortSite 4) = [(⟨2, 5⟩, .west), (⟨1, 5⟩, .south), (⟨1, 6⟩, .south), (⟨1, 7⟩, .west)] := by decide

def flightOf (id cls since : Nat) : Flight := { id := id, cls := cls, flits := 5, ports := [4], since := since }

theorem witness_RoutesAreMinimalAndTurnAtFullRouters :
    (fullRouter 6 0 = true ∧ fullRouter 0 5 = false ∧ fullRouter 7 7 = true ∧ fullRouter 0 7 = false) ∧
    (let fs := [flightOf 1 7 0, flightOf 2 1 0, flightOf 3 0 0]
     headOf fs 0 = some (flightOf 3 0 0) ∧ headOf (fs.take 2) 0 = none ∧ headOf (fs.take 2) 1 = some (flightOf 2 1 0) ∧
     headOf (fs.take 1) 0 = none ∧ headOf (fs.take 1) 1 = none ∧ headOf (fs.take 1) 7 = some (flightOf 1 7 0) ∧ (flightOf 1 7 0).since + 256 ≤ 256) ∧
    (let fs := [flightOf 4 6 0]
     headOf fs 0 = none ∧ headOf fs 1 = none ∧ headOf fs 7 = none ∧ (arbitrate 0 [] fs 9).1 = some (flightOf 4 6 0) ∧ weightOf 0 6 = 0) := by
  decide +kernel

/-- One queued team of context 0, and a die that may place it. -/
def queuedTeam (f : Team → Team) : State :=
  { mappedCtx with teams := [(1, f { launch := { entry := 0x10000, gangs := 16 }, state := .queued })], nextId := 2 }
/-- The team is on core 0 and its one gang is as given. -/
def put (f : Team → Team) (G : Gang) : State := { mappedCtx with teams := [(1, f { fetchTeam with gangs := [(0, G)] })], nextId := 2 }
def ended : Gang := { fetchGang with lst := (upto 64).map (fun l => (l, .exited)) }

theorem witness_TeamsArePlacedAndRetire :
    ((queuedTeam id).chosenPlaces 0 1 0 false = [(1, 0)] ∧ ([(1, 0)].map (·.1)).Nodup ∧ (∀ q ∈ [((1 : Nat), 0)], q.1 < (queuedTeam id).nextId) ∧
      15 < ((queuedTeam id).team 1).launch.gangs) ∧
    (((put id ended).team 1).state = .placed ∧ ((put id ended).team 1).ended = true ∧ ((put id ended).team 1).flush = none) ∧
    (let s := put (fun T => { T with flush := some 7 }) ended
     (s.team 1).flush = some 7 ∧ s.flushDone 7 = true ∧ (s.team 1).storesDone = true ∧ s.storesHome (s.team 1) = true ∧ s.engineWork 1 = false) ∧
    (let s : State := { put (fun T => { T with flush := some 7 }) ended with cores := [(0, { pkts := [{ packet .sent with cov := [7] }] })] }
     (s.team 1).flush = some 7 ∧ s.flushDone 7 = false) ∧
    (let child (x : TeamState) (T : Team) : Team := { T with state := x, child := true, handle := handleOf 5 9 }
     let o (s : State) : State := { s with futures := [(5, { state := .orphaned, gen := 9 })] }
     (o (put (child .saved) fetchGang)).orphan ((o (put (child .saved) fetchGang)).team 1) = true ∧
     (o (put (child .queued) fetchGang)).orphan ((o (put (child .queued) fetchGang)).team 1) = true ∧
     (let s := o (put (child .placed) { fetchGang with stop := .energy 1 0 })
      s.orphan (s.team 1) = true ∧ (s.team 1).state = .placed ∧ (s.team 1).allFinished = false ∧
      (s.team 1).gangs.all (fun p => p.2.reclaimable) = true)) := by decide +kernel

/-! ### Witnesses: saves, kills, lending and other packages -/

/-- Context 0 with a save area; its one team has a small launch. -/
def smallTeam (f : Team → Team) (g : Gang → Gang) : State :=
  { mappedCtx with
    ctxs := [(0, { en := true, s1root := 0x1000, level := 1000000000, saveBase := 0x100000, saveSize := 65536 })]
    teams := [(1, f { launch := { entry := 0x10000 }, state := .placed, gangs := [(0, g (freshGang { entry := 0x10000 }))] })]
    nextId := 2, time := 2400000 }
def asked (r : Nat) (forced : Bool) (stopped : Option Nat) (T : Team) : Team := 
  { T with stopReq := some { reason := r, since := 0, forced := forced, stopped := stopped, gang := none } }
def waitsBar (G : Gang) : Gang := G.setLanes G.allLanes (.waiting (.bar 0))
/-- Another team of context 0 that waits for a place. -/
def withQueued (s : State) : State := { s with teams := s.teams ++ [(2, { launch := { entry := 0x10000 } })], nextId := 3 }
/-- A team whose save is about to be written. -/
def saving : State := smallTeam (fun T => asked 1 false (some 0) { T with state := .saving, saveOff := some 0, flush := some 7 }) id
theorem witness_TeamsAreStoppedSavedAndRestored :
    (((smallTeam id id).team 1).state = .placed ∧ (smallTeam id id).orphan ((smallTeam id id).team 1) = false ∧ ((smallTeam id id).team 1).stopReq = none ∧ tfind (smallTeam id id).teams 1 = some ((smallTeam id id).team 1) ∧
      ((smallTeam id id).team 1).ctx = 0) ∧
    (let s := smallTeam (asked 1 false none) id
     (s.team 1).stopReq = some ⟨1, 0, false, none, none, 20⟩ ∧ 0 + 20 * 2400 ≤ s.time ∧
     tfind (s.team 1).gangs 0 = some ((s.team 1).gang 0) ∧ ((s.team 1).gang 0).finished = false ∧ ((s.team 1).gang 0).level ≠ 2 ∧
     ((s.team 1).gang 0).stop = .none ∧ ((s.team 1).gang 0).delayed = false ∧ ((s.team 1).gang 0).inPoint = false ∧
     s.orphan (s.team 1) = false ∧ (s.team 1).ended = false ∧
     (let s1 := s.askMates 1 ⟨1, 0, false, none, none, 20⟩
      let s2 := (s1.mates 1).foldl (fun (s : State) u => s.markStops u) s1
      let ts := (s2.mates 1).filter (fun u => decide ((s2.team u).state = .placed) && !(s2.team u).ended)
      let s3 := ts.foldl (fun (s : State) u => s.modTeam u (fun T =>
        { T with stopReq := T.stopReq.map (fun r => { r with stopped := some (r.stopped.getD s.time) }) })) s2
      s2.groupStopped 1 = true ∧ (∀ u ∈ ts, s3.nosplitOp u = false) ∧ (State.reserveAll ts s3).isSome = true)) ∧
    (let s := smallTeam (asked 1 false none) (fun G => { G with tstat := 2 })
     (s.team 1).state = .placed ∧ (s.team 1).stopReq = some ⟨1, 0, false, none, none, 20⟩ ∧ s.orphan (s.team 1) = false ∧ (s.team 1).ended = false ∧
     (let s1 := s.askMates 1 ⟨1, 0, false, none, none, 20⟩
      ((s1.mates 1).foldl (fun (s : State) u => s.markStops u) s1).groupStopped 1 = false)) ∧
    (let s := withQueued (smallTeam id waitsBar)
     (s.team 1).launch.xg = 0 ∧ s.spillReason 1 = some 3 ∧ s.teamQueued (dieOfCore (s.team 1).core) = true ∧ s.monitorRoom (s.spilling [1]) = true ∧
     s.orphan (s.team 1) = false ∧ (∀ p ∈ (s.team 1).gangs, p.2.resultsIn = true ∧ p.2.delayed = false ∧ p.2.inPoint = false) ∧
     s.opsEnd 1 = false ∧ s.nosplitOp 1 = false ∧ (s.saveRoom 1).isSome = true ∧
     (({ s with ctxs := s.ctxs.map (fun q => (q.1, { q.2 with saveSize := 0 })) } : State).saveRoom 1).isSome = false) ∧
    ((saving.team 1).state = .saving ∧ saving.drained 1 = true ∧ (saving.team 1).stopReq = some ⟨1, 0, false, some 0, none, 20⟩ ∧
      ((saving.modTeam 1 (fun T => T.mapGangs (fun _ G => G.endWindows))).recordPlaces 1 (saving.team 1).core .write).2.isSome = true ∧
      (saving.ctx (saving.team 1).ctx).wdDefer = false ∧ ∀ q ∈ saving.slices, ∀ m ∈ q.2.spillMon, m.2 ≠ 1) := by decide +kernel

/-- Partition 0 owns quarter 0 and lends it; partition 1 owns quarter 1, which is drained, and borrows. Both have a team
queued on die 0. -/
def lending (C : Cluster) : State :=
  { State.reset with
    parts := [(0, { cfg := 0x8000000101000001 }), (1, { cfg := 0x8002000001010002 })]
    ctxs := [(1, { en := true, level := 1, saveSize := 65536 })]
    quarters := [(1, { drained := true })], clusters := [(7, C)], teams := [(1, { ctx := 1, launch := { entry := 8 } })], nextId := 2 }
/-- The owner wants its cluster back: its context 0 cannot place a team, since quarter 0 is drained. -/
def wanting (ts : Tbl Team) : State :=
  { lending { lent := some 1 } with ctxs := [(0, { en := true, level := 1 })], quarters := [(0, { drained := true })],
                                    teams := (2, { launch := { entry := 8 } }) :: ts }

theorem witness_OverdueContextsDieAndClustersMove :
    (let s : State := { smallTeam id id with ctxs := [(0, { en := true, wdog := 1, wdogNow := 1, wdStart := some 0 })] }
     (s.ctx 0).dying = none ∧ tfind s.teams 1 = some (s.team 1) ∧ (s.team 1).ctx = 0 ∧
     (s.ctx 0).wdStart = some 0 ∧ (s.ctx 0).wdogNow ≠ 0 ∧ 0 + (s.ctx 0).wdogNow * 2400000 ≤ s.time ∧
     ∀ p ∈ s.teams, p.2.ctx = 0 → p.2.state ≠ .saving ∧ p.2.stopReq = none) ∧
    (∃ p ∈ saving.teams, p.2.ctx = 0 ∧ p.2.state = .saving) ∧
    ((saving.team 1).stopReq = some ⟨1, 0, false, some 0, none, 20⟩ ∧ (saving.team 1).onDie = true ∧ 0 + 1200000 ≤ saving.time) ∧
    (let s : State := { smallTeam (asked 5 false none) (fun G => { G with tstat := 2 }) with clusters := [(0, { lent := some 0, reclaim := some 0 })] }
     (s.team 1).stopReq = some ⟨5, 0, false, none, none, 20⟩ ∧ (s.team 1).state = .placed ∧ 1 ∈ s.mates 1 ∧
     (s.cluster (clusterOfCore (s.team 1).core)).reclaim = some 0 ∧ 0 + 2400000 ≤ s.time ∧
     (0, (s.team 1).gang 0) ∈ (s.team 1).gangs ∧ ((s.team 1).gang 0).finished = false ∧ ((s.team 1).gang 0).level = 2) ∧
    ((lending {}).lendable 7 = true ∧ ((lending {}).part 1).borrows = true ∧ (lending {}).ownerOf (7 / 8) ≠ some 1 ∧
      (lending {}).stuckHead (7 / 32) 1 (fun t => ((lending {}).saveRoom t).isSome) = true) ∧
    ((wanting []).ownerOf (7 / 8) = some 0 ∧ (wanting []).stuckHead (7 / 32) 0 (fun _ => true) = true ∧
      ((wanting []).cluster 7).lent.isSome = true ∧ ((wanting []).cluster 7).reclaim = none ∧ (wanting []).clusterIdle 7 = true) ∧
    (let s := wanting [(3, { ctx := 1, state := .placed, core := 31, gangs := [(0, fetchGang)] })]
     s.ownerOf (7 / 8) = some 0 ∧ s.stuckHead (7 / 32) 0 (fun _ => true) = true ∧ s.clusterIdle 7 = false ∧ tfind s.teams 3 = some (s.team 3) ∧
     clusterOfCore (s.team 3).core = 7 ∧ s.orphan (s.team 3) = false ∧ (s.team 3).stopReq = none) ∧
    (⟨1, 0, false, none, none, 20⟩ : StopReq).reason < 5 ∧
    tget 0 (State.reset.dieOf 0).limAt 0 / 1024 < ({ State.reset with time := 1024 } : State).time / 1024 := by decide +kernel

/-- Partition 0 admits tag 9 to its extent 0. -/
def serving : State := { smallTeam id (fun G => G.setLanes G.allLanes (.waiting (.memory false 0x202 (some 0) none))) with
  parts := [(0, { part0 with fabtag := 0x90000 })] }

theorem witness_RemoteRequestsAreServed :
    serving.admits 9 0x10100 = some 0 ∧ serving.admits 9 0x3FFFFFFF = some 0 ∧ serving.admits 0 0x10100 = none ∧ serving.admits 9 0x40000000 = none ∧
    poisoned ((serving.settleLine (lineOf 0x10100)).invalidate (lineOf 0x10100) none).poison 0x10100 8 = false ∧
    serving.ownWaits 0x10100 = false ∧
    (let s : State := { serving with slices := [(homeOf 0x10100, { dir := [{ entryOf none with refuse := some (0, 0) }] })] }
     s.ownWaits 0x10100 = true ∧ s.admits 9 0x10100 = some 0) ∧
    serving.heldExclusive (lineOf 0x10100) = false ∧
    (serving.slice (homeOf 0x10100)).accept.length + (serving.slice (homeOf 0x10100)).grants.length < 64 ∧
    (serving.slice (homeOf 0x10100)).spillMon.length < 1024 ∧
    (tfind serving.teams 1 = some (serving.team 1) ∧ (serving.team 1).onDie = true ∧ (0, (serving.team 1).gang 0) ∈ (serving.team 1).gangs ∧
      ((serving.team 1).gang 0).prog = none ∧ 15 ∈ ((serving.team 1).gang 0).allLanes ∧
      ((serving.team 1).gang 0).laneState 15 = .waiting (.memory false 0x202 (some 0) none) ∧ lineOf 0x10100 = 0x202) := by decide +kernel

/-! ### Witnesses: a team comes back from its record -/

/-- Bytes in memory from an address on. -/
def cellsFrom : Nat → List Byte → Tbl Byte
  | _, [] => []
  | a, b :: t => (a, b) :: cellsFrom (a + 1) t

theorem tget_cellsFrom (a k : Nat) (bs : List Byte) (h : k < bs.length) : tget (0 : Byte) (cellsFrom a bs) (a + k) = bs[k] := by
  induction bs generalizing a k with
  | nil => simp at h
  | cons b t ih =>
    cases k with
    | zero => simp [cellsFrom, tget, tfind]
    | succ k =>
      have e : a + (k + 1) = a + 1 + k := by omega
      have := ih (a + 1) k (by simpa using h)
      simp only [tget, cellsFrom, tfind, List.getElem_cons_succ] at this ⊢
      rw [if_neg (by omega), e]
      exact this

theorem readBytes_cellsFrom (a o n : Nat) (bs : List Byte) (h : o + n ≤ bs.length) :
    readBytes (cellsFrom a bs) (a + o) n = (bs.drop o).take n := by
  apply List.ext_getElem
  · simp [readBytes, upto]; omega
  · intro i h1 h2
    simp only [readBytes, upto, List.length_map, List.length_range] at h1
    simp only [readBytes, upto, List.getElem_map, List.getElem_range, List.getElem_take, List.getElem_drop, readByte]
    rw [Nat.add_assoc, tget_cellsFrom a (o + i) bs (by omega)]

theorem chunks_flatMap (bs : List Byte) (n k : Nat) : (List.range k).flatMap (fun i => (bs.drop (n * i)).take n) = bs.take (n * k) := by
  induction k with
  | zero => simp
  | succ k ih => rw [List.range_succ, List.flatMap_append, ih, Nat.mul_succ, List.take_add]; simp

/-- A team in a record, and context 0, whose save area lies in a page that the die knows. -/
def recTeam (st : TeamState) (r : Nat) : Team :=
  { launch := { entry := 0x10000 }, state := st, classIn := 1, saveKey := 7, saveOff := some 0, reason := r, gangs := [(0, freshGang { entry := 0x10000 })] }
def recT : Team := recTeam .queued 0
/-- What a state of these witnesses has of its own: its team, its functions and its watchdog. -/
structure RecEnv where
  st : TeamState
  reason : Nat
  funcs : Tbl Func
  wd : Option Nat
def recQueued : RecEnv := ⟨.queued, 0, [], none⟩
def recPage : TlbEntry := ⟨0, 0, 30, 0, 0, true, true, true, false, true⟩
def inRecord (x : RecEnv) (m : Tbl Byte) : State :=
  { State.reset with
    mem := m, parts := [(0, part0)]
    ctxs := [(0, { en := true, level := 1000000000, saveBase := 0x100000, saveSize := 65536, wdStart := x.wd })]
    dies := [(0, { tlb := [recPage] })], cores := [(0, { tlb := [recPage] })], teams := [(1, recTeam x.st x.reason)], funcs := x.funcs, nextId := 2 }
def recPlaces : List (Nat × Nat) := (List.range 59).map (fun k => (128 * k, 0x100000 + 128 * k))

theorem translate_hit (s : State) (core c : Nat) (va : W64) (acc : Access) (level : Nat) (e : TlbEntry)
    (h : s.tlbHit core c (va.toNat % 2 ^ 57) = some e) (hk : s.tlbKeep core e = s) (hr : rightsOk acc e.r e.w e.x = true) (hl : levelOk acc e.sup level = true)
    (hd : e.d = true) : s.translate core c va acc level = (s, .ok (e.pa + (va.toNat % 2 ^ 57 - e.va))) := by
  unfold State.translate
  generalize va.toNat % 2 ^ 57 = a at *
  simp [h, hr, hl, hd, hk]

theorem translateAt_recPage (x : RecEnv) (m : Tbl Byte) (va : W64) (h : va.toNat < 2 ^ 30) :
    (inRecord x m).translateAt 0 0 va .readWrite 2 = (inRecord x m, .ok va.toNat) := by
  have e : va.toNat % 2 ^ 57 = va.toNat := Nat.mod_eq_of_lt (by omega)
  have hit : (inRecord x m).tlbHit 0 0 (va.toNat % 2 ^ 57) = some recPage := by
    have f : tlbFind [recPage] 0 (va.toNat % 2 ^ 57) = some recPage := by simp [tlbFind, recPage]; omega
    show ((tlbFind [recPage] 0 (va.toNat % 2 ^ 57) <|> tlbFind _ 0 _) <|> tlbFind _ 0 _) = _
    rw [f]; rfl
  have hw : (inRecord x m).walks 0 0 (va.toNat % 2 ^ 57) .readWrite 2 = false := by
    unfold State.walks; rw [hit]; decide
  have ht := translate_hit (inRecord x m) 0 0 va .readWrite 2 recPage hit
    (by show (if [recPage].elem recPage then _ else _) = _; rfl) (by decide) (by decide) (by decide)
  unfold State.translateAt
  simp only [hw, Bool.false_eq_true, if_false]
  rw [ht, e]
  simp [recPage]

theorem recordPlaces_inRecord (x : RecEnv) (m : Tbl Byte) : 
    (inRecord x m).recordPlaces 1 0 .readWrite = (inRecord x m, some recPlaces) := by
  have gen : ∀ (l : List (Nat × W64)) (acc : List (Nat × Nat)), (∀ q ∈ l, q.2.toNat < 2 ^ 30) →
      l.foldl (fun (r : State × Option (List (Nat × Nat))) q =>
        match r.1.translateAt 0 ((inRecord x m).team 1).ctx q.2 .readWrite 2 with
        | (s1, .ok pa) => (s1, r.2.map (fun l => l ++ [(q.1, pa)]))
        | (s1, .missing p z true) => ((s1.requestPage ((inRecord x m).team 1).ctx p z .readWrite false).1, none)
        | (s1, _) => (s1, none)) (inRecord x m, some acc) = (inRecord x m, some (acc ++ l.map (fun q => (q.1, q.2.toNat)))) := by
    intro l
    induction l with
    | nil => intro acc _; simp
    | cons q l ih =>
      intro acc h
      have ht := translateAt_recPage x m q.2 (h q (by simp))
      have hc : ((inRecord x m).team 1).ctx = 0 := rfl
      rw [List.foldl_cons]
      simp only [hc] at ih ⊢
      rw [ht]
      simp only [Option.map_some]
      rw [ih _ (fun x hx => h x (by simp [hx]))]
      simp
  have e : (inRecord x m).recordLines 1 = (inRecord recQueued []).recordLines 1 := rfl
  have p : ((inRecord recQueued []).recordLines 1).map (fun q => (q.1, q.2.toNat)) = recPlaces := by decide +kernel
  have g := gen ((inRecord x m).recordLines 1) [] (by rw [e]; decide +kernel)
  rw [List.nil_append, e, p] at g
  exact g

/-- What is read is what stands in memory. -/
theorem readRecord_inRecord (x : RecEnv) (ho : (recTeam x.st x.reason).onDie = false) (m : Tbl Byte) : ∃ t, (inRecord x m).readRecord 1 0 = (t, some (recPlaces, ⟨recPlaces.flatMap (fun q => readBytes m q.2 128)⟩)) ∧
    t.team 1 = recTeam x.st x.reason := by
  have gen : ∀ (l : List (Nat × Nat)) (s : State) (acc : List Byte), s.mem = m → s.pkgid = 0 → Quiet s → s.team 1 = recTeam x.st x.reason →
      (∀ q ∈ l, q.2 < 2 ^ 30) →
      ∃ t, l.foldl (fun (r : State × List Byte) q =>
        if r.1.isLocal q.2 then
          let s1 := r.1.sliceRead 0 0 (lineOf q.2)
          (s1, r.2 ++ readBytes s1.mem q.2 128)
        else match r.1.remoteRead 0 0 q.2 128 true with
          | (s1, bs, _) => (s1, r.2 ++ bs)) (s, acc) = (t, acc ++ l.flatMap (fun q => readBytes m q.2 128)) ∧ t.team 1 = recTeam x.st x.reason := by
    intro l
    induction l with
    | nil => intro s acc _ _ _ ht _; exact ⟨s, by simp, ht⟩
    | cons q l ih =>
      intro s acc hm hp ha ht hq
      have hk := still_sliceRead 0 0 (lineOf q.2) s ha
      have hl : s.isLocal q.2 = true := by
        have := hq q (by simp)
        simp [State.isLocal, State.package, hp]; omega
      rw [List.foldl_cons]
      simp only [hl, if_true]
      obtain ⟨t, e1, e2⟩ := ih (s.sliceRead 0 0 (lineOf q.2)) (acc ++ readBytes (s.sliceRead 0 0 (lineOf q.2)).mem q.2 128)
        (hk.mem.trans hm) (hk.pkgid.trans hp) (hk.quiet ha) ((hk.off 1 (by rw [ht]; exact ho)).trans ht)
        (fun x hx => hq x (by simp [hx]))
      refine ⟨t, ?_, e2⟩
      rw [e1, hk.mem, hm]
      simp
  obtain ⟨t, e1, e2⟩ := gen recPlaces (inRecord x m) [] rfl rfl ⟨fun _ h => (by simp [inRecord] at h; rw [h]), fun _ => ⟨rfl, rfl⟩⟩ rfl (by decide +kernel)
  refine ⟨t, ?_, e2⟩
  unfold State.readRecord
  rw [recordPlaces_inRecord x m]
  simp only
  have hc : ((inRecord x m).team 1).ctx = 0 := rfl
  rw [hc, e1]
  simp

def recImage : List Byte := recordBytes recT 1 0 7

/-- What stands in the record before its own parts. -/
def recHead : List Byte := recordHeader recT 1 0 ++ padTo 2560 (recT.gangs.flatMap (fun p => gangSection recT.launch p.2)) ++
  padTo 128 (regsSection recT) ++ padTo 0 (tilesSection recT)

theorem recSizes : recT.sectionSizes = [2560, 128, 0, 256, 0, 4096, 256] := by decide +kernel
theorem recOffsets : recT.sectionOffsets = [256, 2816, 2944, 2944, 3200, 3200, 7296] := by decide +kernel
theorem recHead_length : recHead.length = 2944 := by decide +kernel
theorem own_length (o n : Nat) : (ownSection 7 o n).length = n := by simp [ownSection, upto]

theorem recImage_eq : recImage = recHead ++ ownSection 7 2944 256 ++ ownSection 7 3200 4096 ++ ownSection 7 7296 256 := by
  have z0 : padTo 0 (scratchSection recT) = [] := by simp [padTo]
  simp [recImage, recHead, recordBytes, recSizes, recOffsets, z0, List.append_assoc]

theorem recImage_length : recImage.length = 7552 := by
  rw [recImage_eq]
  simp only [List.length_append, recHead_length, own_length]

theorem recImage_read : recPlaces.flatMap (fun q => readBytes (cellsFrom 0x100000 recImage) q.2 128) = recImage := by
  have h := chunks_flatMap recImage 128 59
  rw [List.take_of_length_le (by rw [recImage_length])] at h
  refine Eq.trans ?_ h
  rw [recPlaces, List.flatMap_map]
  apply List.flatMap_congr
  intro k hk
  rw [List.mem_range] at hk
  exact readBytes_cellsFrom 0x100000 (128 * k) 128 recImage (by rw [recImage_length]; omega)

theorem own_drop (a b c : List Byte) (o z : Nat) (ha : a.length = o) (hb : b.length = z) :
    ((a ++ b ++ c).drop o).take z = b := by
  subst ha hb; simp

/-- The record's own parts stand where the record says. -/
theorem recImage_own :
    (recImage.drop 2944).take 256 = ownSection 7 2944 256 ∧ (recImage.drop 3200).take 4096 = ownSection 7 3200 4096 ∧
    (recImage.drop 7296).take 256 = ownSection 7 7296 256 := by
  have l := recHead_length
  rw [recImage_eq]
  generalize recHead = a at *
  refine ⟨?_, ?_, ?_⟩
  · have := own_drop a (ownSection 7 2944 256) (ownSection 7 3200 4096 ++ ownSection 7 7296 256) 2944 256 l (own_length _ _)
    simpa using this
  · exact own_drop (a ++ ownSection 7 2944 256) (ownSection 7 3200 4096) (ownSection 7 7296 256) 3200 4096 (by simp [l, own_length]) (own_length _ _)
  · have := own_drop (a ++ ownSection 7 2944 256 ++ ownSection 7 3200 4096) (ownSection 7 7296 256) [] 7296 256 (by simp [l, own_length]) (own_length _ _)
    simpa using this

theorem recordValid_recImage (T : Team) (h : T = recT ∨ T = recTeam .saved 6) : recordValid T (T.restore ⟨recImage⟩) ⟨recImage⟩ = true := by
  obtain ⟨h3, h5, h6⟩ := recImage_own
  have z : T.sectionSizes = [2560, 128, 0, 256, 0, 4096, 256] := by rcases h with rfl | rfl <;> decide +kernel
  have o : T.sectionOffsets = [256, 2816, 2944, 2944, 3200, 3200, 7296] := by rcases h with rfl | rfl <;> decide +kernel
  have k : T.saveKey = 7 := by rcases h with rfl | rfl <;> rfl
  unfold recordValid
  simp only [Record.part, z, o, List.getD_cons_zero, List.getD_cons_succ]
  rw [k, h3, h5, h6]
  simp only [decide_true, Bool.and_true, Bool.and_eq_true]
  rcases h with rfl | rfl
  · refine ⟨⟨⟨⟨⟨⟨⟨?_, ?_⟩, ?_⟩, ?_⟩, ?_⟩, ?_⟩, ?_⟩, ?_⟩ <;> decide +kernel
  · refine ⟨⟨⟨⟨⟨⟨⟨?_, ?_⟩, ?_⟩, ?_⟩, ?_⟩, ?_⟩, ?_⟩, ?_⟩ <;> decide +kernel

theorem witness_TeamsAreRestored :
    (let s := inRecord recQueued (cellsFrom 0x100000 recImage)
     s.chosenPlaces 0 1 0 true = [(1, 0)] ∧ ∃ t ps x, s.readRecord 1 0 = (t, some (ps, x)) ∧
       recordValid (t.team 1) ((t.team 1).restore x) x = true) ∧
    (let s := inRecord recQueued []
     s.chosenPlaces 0 1 0 true = [(1, 0)] ∧ ∃ t ps x, s.readRecord 1 0 = (t, some (ps, x)) ∧
       recordValid (t.team 1) ((t.team 1).restore x) x = false) := by
  refine ⟨⟨by decide +kernel, ?_⟩, by decide +kernel, ?_⟩
  · obtain ⟨t, e, ht⟩ := readRecord_inRecord recQueued rfl (cellsFrom 0x100000 recImage)
    rw [recImage_read] at e
    exact ⟨t, _, _, e, by rw [ht]; exact recordValid_recImage _ (.inl rfl)⟩
  · obtain ⟨t, e, ht⟩ := readRecord_inRecord recQueued rfl []
    exact ⟨t, _, _, e, by rw [ht]; decide +kernel⟩

/-- A RELAUNCH of a team whose record is whole: the packet on its turn, and what its start leaves. -/
def relPkt : PktRun := { pos := 0, bytes := bytesOfNum 4 0 ++ bytesOfNum 1 9 ++ List.replicate 11 0 ++ bytesOfNum 8 0x100000 ++ List.replicate 40 0 }
def relRing (p : PktRun) : Tbl Func := [(1, { rings := [(7, { base := 0x8000, en := true, log2n := 3, tail := 1, head := 1, pkts := [p] })] })]
def relaunching : RecEnv := ⟨.saved, 6, relRing relPkt, none⟩

theorem witness_TeamsAreRelaunched :
    (let s := inRecord relaunching (cellsFrom 0x100000 recImage)
     s.pktTurn 1 7 0 = some relPkt ∧ slotType relPkt.bytes = 9 ∧ s.ringCtx 1 7 = 0 ∧ (s.cmdCore 1).held = false ∧ (s.cmdCore 1).golden = true ∧
     (s.startPkt 1 7 0).savedAt 0 (BitVec.ofNat 64 (relPkt.num 16 8)) = some 1 ∧
     ∃ t ps x, (s.startPkt 1 7 0).readRecord 1 ((s.startPkt 1 7 0).chargeCore 0) = (t, some (ps, x)) ∧
       recordValid (t.team 1) ((t.team 1).restore x) x = true ∧
       (t.team 1).state = .saved) := by
  refine ⟨by decide +kernel, by decide +kernel, by decide +kernel, by decide +kernel, by decide +kernel, by decide +kernel, ?_⟩
  obtain ⟨t, e, ht⟩ := readRecord_inRecord ⟨.saved, 6, relRing { relPkt with started := true }, some 0⟩ rfl (cellsFrom 0x100000 recImage)
  rw [recImage_read] at e
  exact ⟨t, _, _, e, by rw [ht]; exact recordValid_recImage _ (.inr rfl), by rw [ht]; rfl⟩

/-! ### Witnesses: rings and packets -/

/-- A slot: sequence 0, type and flags, then eight-byte words. -/
def slotOf (ty flags : Nat) (ws : List Nat) : List Byte :=
  bytesOfNum 4 0 ++ bytesOfNum 1 ty ++ bytesOfNum 1 flags ++ bytesOfNum 2 0 ++ ws.flatMap (bytesOfNum 8) ++ List.replicate (56 - 8 * ws.length) 0
/-- Ring 7 of function 1, the last of context 0, with a packet in its first slot; host memory at 0x8000 holds the slots. -/
def ringed (f : Ring → Ring) (bs : List Byte) : State :=
  { smallTeam id id with
    host := writeBytes [] (busKey 1 0x8000) bs
    funcs := [(1, { rings := [(7, f { base := 0x8000, en := true, log2n := 3, headwb := 0x9000, tail := 1, run := true })] })] }
/-- The packet has been taken. -/
def taken (g : PktRun → PktRun) (bs : List Byte) : State := ringed (fun R => { R with head := 1, pkts := [g { pos := 0, bytes := bs }] }) bs
def turnOf (s : State) : Option PktRun := s.pktTurn 1 7 0

theorem witness_RingsAreServed :
    (let s := ringed (fun R => { R with en := false }) []
     s.ringOk 1 7 = true ∧ s.ringOk 1 8 = false ∧ (s.func 1).usable = true ∧ (s.ring 1 7).en = false ∧
     ((0x80000010 : W64).extractLsb' 0 5).toNat = 16 ∧ ((0x80000003 : W64).extractLsb' 0 5).toNat = 3) ∧
    (let s := ringed id []
     s.ringOk 1 7 = true ∧ (s.func 1).usable = true ∧ (s.ring 1 7).en = true ∧ (s.ring 1 7).log2n = 3 ∧
     ((10 : BitVec 32) - (s.ring 1 7).tail).toNat = 9 ∧ 2 ^ 3 < ((10 : BitVec 32) - (s.ring 1 7).head).toNat ∧
     ((8 : BitVec 32) - (s.ring 1 7).head).toNat ≤ 2 ^ 3 ∧ 1 ≤ ((8 : BitVec 32) - (s.ring 1 7).tail).toNat ∧
     ((1 : BitVec 32) - (s.ring 1 7).tail).toNat = 0 ∧ 2 ^ 31 ≤ ((0 : BitVec 32) - (s.ring 1 7).tail).toNat ∧
     (s.func 1).rate ≠ 0 ∧ 2400 ≤ (s.func 1).creditAt s.time ∧ s.waitingRings 1 = []) ∧
    (let s := ringed (fun R => { R with wakeAgain := true, run := false }) []
     s.waitingRings 1 = 7 :: [] ∧ 2400 ≤ (s.func 1).creditAt s.time ∧
     1 ≤ 1 ∧ 16 ≤ 16 ∧ (s.func 0).usable = true) ∧
    (let s : State := { ringed id [] with funcs := [(1, { (ringed id []).func 1 with rate := 0 })] }
     (s.func 1).rate = 0) ∧
    (let s : State := { ringed id [] with funcs := [(1, { (ringed id []).func 1 with credit := 0, refillAt := 2400000 })] }
     (s.func 1).rate ≠ 0 ∧ (s.func 1).creditAt s.time < 2400) ∧
    (let bs := slotOf 6 0 [0, 9]
     let s := ringed id bs
     let R := s.ring 1 7
     (s.cmdCore 0).held = false ∧ (s.cmdCore 0).golden = true ∧ R.run = true ∧ R.waitSlot = none ∧ R.en = true ∧ R.head ≠ R.tail ∧
     (s.func 1).usable = true ∧ R.stopped = false ∧ s.readSlot 1 R R.head = bs ∧ seqOk bs R.head = true ∧ slotType bs ≠ 8 ∧ packetOk bs = true) ∧
    seqOk (bytesOfNum 4 1) 0 = false ∧ ((taken id []).ring 1 7).head = ((taken id []).ring 1 7).tail ∧
    (let s := ringed (fun R => { R with waitSlot := some 0, wbDirty := some 0 }) []
     (s.ring 1 7).waitSlot = some 0 ∧ 0 + 4800 ≤ s.time ∧ (s.ring 1 7).wbDirty = some 0 ∧ 0 + 48000 ≤ s.time) := by decide +kernel

/-- A LAUNCH of one team whose entry is as given. -/
def launchSlot (entry gangs : Nat) : List Byte :=
  slotOf 1 0 [0, entry, 0, 2 ^ 32, 1 + 2 ^ 32, 8 * 2 ^ 32 + 16 * 2 ^ 48 + gangs * 2 ^ 56, 0]
def launchPkt (entry gangs : Nat) : PktRun := { pos := 0, bytes := launchSlot entry gangs }
/-- A COPY of n bytes; `fl` says which ends are in host memory. -/
def copySlot (fl : Nat) : List Byte := slotOf 2 0 [0, 0x10100, 0x10200, 16, fl]
def going (p : PktRun) : PktRun := { p with started := true }
/-- A test of the device or host word at 0x10100 for equality with zero. -/
def testSlot (ty host : Nat) : List Byte := slotOf ty 0 [0, 0x10100, 0, 0xFFFFFFFF, 4 * 256 + host * 65536 + 2 ^ 24 + 2 ^ 32]
def packetOf (bs : List Byte) : PktRun := { pos := 0, bytes := bs }

theorem witness_PacketsActAndComplete :
    (turnOf (taken id (launchSlot 12 1)) = some (launchPkt 12 1) ∧ slotType (launchSlot 12 1) = 1 ∧ (taken id []).dieDown = false ∧
      ((taken id []).ctx ((taken id []).ringCtx 1 7)).en = true ∧ (({ taken id [] with ctxs := [] } : State).ctx 0).en = false ∧
      launchBad (launchOf (launchPkt 12 1)) = some 2 ∧
      turnOf (taken id (launchSlot 8 16)) = some (launchPkt 8 16) ∧ launchBad (launchOf (launchPkt 8 16)) = none ∧
      ((taken id (launchSlot 8 16)).startPkt 1 7 0).everFits 0 (launchOf (launchPkt 8 16)) = true ∧ (launchOf (launchPkt 8 16)).cAddr = 0 ∧
      (let s : State := { taken id (launchSlot 8 16) with parts := [(0, { part0 with cfg := 0x8000000001000000 })] }
       turnOf s = some (launchPkt 8 16) ∧ (s.startPkt 1 7 0).everFits 0 (launchOf (launchPkt 8 16)) = false)) ∧
    (let bs := slotOf 9 0 [0, 0x100000]
     turnOf (taken id bs) = some (packetOf bs) ∧ slotType bs = 9 ∧ ((taken id bs).startPkt 1 7 0).savedAt 0 0x100000 = none) := by decide +kernel

theorem witness_CopiesAct :
    (let bs := copySlot 3
     turnOf (taken going bs) = some (going (packetOf bs)) ∧ slotType bs = 2 ∧ (packetOf bs).srcHost = true ∧ (packetOf bs).dstHost = true) ∧
    (let bs := copySlot 1
     let p := packetOf bs
     p.srcHost = true ∧ p.dstHost = false ∧ ((taken going bs).pktLines 0 (going p) .write (linePieces 0x10200 16)).2.2 = none) ∧
    (let bs := copySlot 2
     let p := packetOf bs
     let r := (taken going bs).pktLines 0 (going p) .read (linePieces 0x10100 16)
     p.srcHost = false ∧ p.dstHost = true ∧ r.2.2 = none ∧ (r.1.pktReads 0 r.2.1).2.2 = false) ∧
    (let bs := copySlot 0
     let p := packetOf bs
     let r := (taken going bs).pktLines 0 (going p) .read (linePieces 0x10100 16)
     let q := r.1.pktLines 0 (going p) .write (linePieces 0x10200 16)
     turnOf (taken going bs) = some (going p) ∧ p.srcHost = false ∧ p.dstHost = false ∧ r.2.2 = none ∧ q.2.2 = none ∧ (q.1.pktReads 0 r.2.1).2.2 = false) := by decide +kernel

theorem witness_TestsAndWritesAct :
    (let bs := testSlot 3 0
     turnOf (taken id bs) = some (packetOf bs) ∧ slotType bs = 3 ∧ (((taken id bs).startPkt 1 7 0).testRead 1 7 0 (packetOf bs)).2 = some 0 ∧
     testHolds (packetOf bs) 0 = true ∧ testHolds (packetOf bs) 1 = false) ∧
    (let bs := testSlot 3 1
     turnOf (taken going bs) = some (going (packetOf bs)) ∧ (going (packetOf bs)).testHost = true ∧ 0 + 2400 ≤ (taken going bs).time) ∧
    (let bs := testSlot 8 1
     turnOf (taken id bs) = some (packetOf bs) ∧ slotType bs = 8 ∧ (((taken id bs).startPkt 1 7 0).testRead 1 7 0 (packetOf bs)).2 = some 0) ∧
    (let bs := slotOf 4 0 [0, 0x10100, 7, 264]
     turnOf (taken id bs) = some (packetOf bs) ∧ slotType bs = 4 ∧ (packetOf bs).num 33 1 = 1) ∧
    (let bs := slotOf 4 0 [0, 0x10100, 7, 8]
     turnOf (taken id bs) = some (packetOf bs) ∧ (packetOf bs).num 33 1 ≠ 1 ∧
     (((taken id bs).startPkt 1 7 0).pktAccess 0 (packetOf bs) 0x10100 .write).2 = .ok 0x10100) ∧
    (let bs := slotOf 5 0 [0, 0]
     turnOf (taken id bs) = some (packetOf bs) ∧ slotType bs = 5 ∧ (packetOf bs).num 16 1 ≠ 1) ∧
    (let bs := slotOf 6 0 [0, 9]
     turnOf (taken id bs) = some (packetOf bs) ∧ slotType bs = 6) ∧
    (let bs := slotOf 7 0 [0, 0x10100, 1]
     turnOf (taken id bs) = some (packetOf bs) ∧ slotType bs = 7 ∧ (packetOf bs).num 24 1 = 1) ∧
    (∀ k < 2, ((taken id []).cmdCore k).held = false ∧ ((taken id []).cmdCore k).golden = true) := by decide +kernel

/-- A packet that asks for its status word, at 0x9008, beside HEAD and COMP. -/
theorem witness_PacketsComplete :
    (let bs := slotOf 6 2 [0x9008, 9]
     ((taken id bs).ring 1 7).pkt 0 = some (packetOf bs) ∧ (packetOf bs).code = none ∧ (packetOf bs).status = true ∧
     (packetOf bs).num 8 8 % 8 = 0 ∧ 255 < 256 ∧ 16777215 < 2 ^ 24 ∧ ((taken id bs).ring 1 7).headwb.toNat + 4 + 4 ≤ (packetOf bs).num 8 8) ∧
    (let bs := slotOf 6 2 [0x8FF8, 9]
     ((taken id bs).ring 1 7).pkt 0 = some (packetOf bs) ∧ (packetOf bs).num 8 8 + 8 ≤ ((taken id bs).ring 1 7).headwb.toNat + 4) := by decide +kernel

/-! ### Witnesses: host registers, commands, starts and failures -/

def prq5 : PageReq := ⟨5, 1, 0, 0, 0x10000, false, 0, 0, none⟩
/-- A page request of function 1 that a gang waits for. -/
def asks : State :=
  { smallTeam id (fun G => { G with stop := .replay [5] [] }) with prqs := [prq5], dies := [(0, { tlb := [recPage] }), (3, { tlb := [recPage] })] }

theorem witness_InvalidationsAndAnswersTakeEffect :
    ((asks.cmdCore 2).held = false ∧ (asks.cmdCore 2).golden = true ∧ (∀ fn ≤ 16, (asks.func fn).usable = true) ∧
      (asks.part (partOfFn 1)).hasCtx (tlbCtx 0) = true ∧ (asks.part (partOfFn 16)).hasCtx (tlbCtx 0) = false ∧ (asks.func 1).tlbq = [] ∧
      (asks.func 0).tlbq = [] ∧ asks.parked = [] ∧ ([{ v := 0, s2 := false }] : List TlbReq) ≠ [] ∧ 1 < 17 ∧ (List.replicate 17 (0 : Nat)).length = 17 ∧
      recPage.ctx = tlbCtx 0 ∧ recPage.va < tlbBase 0 + 2 ^ tlbSize 0 ∧ tlbBase 0 < recPage.va + 2 ^ recPage.size) ∧
    (((0 : W64).extractLsb' 10 2).toNat = 0 ∧ ((1024 : W64).extractLsb' 10 2).toNat = 1 ∧ ((2048 : W64).extractLsb' 10 2).toNat = 2) ∧
    (asks.prqs.find? (fun q => decide (q.id = 5)) = some prq5 ∧ prq5.fn = 1 ∧ tfind asks.teams 1 = some (asks.team 1) ∧ (asks.team 1).ctx = prq5.ctx ∧
      tfind (asks.team 1).gangs 0 = some ((asks.team 1).gang 0) ∧ ((asks.team 1).gang 0).stop = .replay [5] []) ∧
    ((0 : Nat) < 16 ∧ (asks.part 0).enabled = true) := by decide +kernel

theorem witness_HostRegistersAndMailboxesAct :
    (mappedCtx.ctxOk 0 = true ∧ (mappedCtx.ctx 0).dying = none ∧ (mappedCtx.ctx 0).en = true ∧ tfind (put id fetchGang).teams 1 = some ((put id fetchGang).team 1) ∧ ((put id fetchGang).team 1).ctx = 0 ∧
      (let s : State := { mappedCtx with ctxs := [] }
       s.ctxOk 0 = true ∧ (s.ctx 0).dying = none ∧ (s.ctx 0).en = false)) ∧
    ((mappedCtx.func 0).usable = true ∧ (15 : W64).getLsbD 3 = true ∧ mappedCtx.ccload.getLsbD 3 = false ∧ ({ mappedCtx with ccload := 8 } : State).ccload.getLsbD 3 = true) ∧
    ((7 : Nat) < 8 ∧ (15 : Nat) < 16 ∧ (mappedCtx.cmdCore 7).held = false ∧ (mappedCtx.mailbox 15).full = false ∧ (6 : Nat) < 8 ∧ 6 ≠ (mappedCtx.mailbox 15).rcv ∧
      (let s : State := { mappedCtx with mailboxes := [(15, { full := true })] }
       (s.mailbox 15).full = true ∧ (s.mailbox 15).since = s.time ∧ (s.mailbox 15).sender ≤ 7) ∧
      (let s : State := { mappedCtx with mailboxes := [(15, { full := true, sender := 1 })] }
       (s.mailbox 15).since = s.time ∧ 0 < (s.mailbox 15).sender)) ∧
    ((16 : Nat) < 17 ∧ (17 : Nat) < 18 ∧ (63 : Nat) < 64) ∧
    ((8 : Nat) % 8 = 0 ∧ (4 : Nat) % 4 = 0 ∧ (4 : Nat) / 8 * 8 ≠ 0x800638 ∧ coreTwo 1 0x808 = false ∧ coreTwo 1 0x104 = true ∧
      (mappedCtx.cmdCore 2).held = false ∧ (mappedCtx.cmdCore 2).golden = true) ∧
    (let s : State := { mappedCtx with funcs := [(16, { usable := false })] }
     (s.func 16).usable = false ∧ (s.func 1).usable = true) ∧
    (7 < 8 * (mappedCtx.part (partOfFn 1)).ctxCount ∧ (mappedCtx.part (partOfFn 1)).ctxCount ≤ 256 ∧ (mappedCtx.ring 1 7).en = false) ∧
    (ctlFrag 1 * 56 ≠ mappedCtx.agtBuf.length ∧ 46 < ctlFrag 47 ∧ ctlFrag 0 * 56 = mappedCtx.agtBuf.length ∧ ctlFrag 46 ≤ 46 ∧ (0 : W64).getLsbD 14 = false ∧
      (List.replicate (46 * 56) (0 : Byte)).length = ctlFrag 46 * 56 ∧
      mappedCtx.agtCtl.getLsbD 15 = false ∧ ({ mappedCtx with agtCtl := 0x8000 } : State).agtCtl.getLsbD 15 = true) := by decide +kernel

def command (code : Nat) (body : List Byte) (sig : List Byte) : Command := ⟨true, code, 1, Config.serial, 0, body, sig, true⟩
/-- Bytes of words of eight. -/
def wordsOf (ws : List Nat) : List Byte := ws.flatMap (bytesOfNum 8)

/-- Whether a signature verifies is a free value: where it does, a command of a legal form with the next sequence number
is not refused. -/
theorem accepted_of_verified (s : State) (code : Nat) (body sig : List Byte) (hs : s.agtSeq < 1) (h : body.length ≤ 2048)
    (h8 : body.length % 8 = 0) (hl : ∀ sig, commandLayout (command code body sig) = true)
    (hv : Config.verify s.opHash (commandBytes (command code body sig)) sig = true) :
    (command code body sig).mgmt = true ∧ s.refuses (command code body sig) = none := by
  refine ⟨rfl, ?_⟩
  unfold State.refuses
  have e1 : (command code body sig).body = body := rfl
  have e2 : (command code body sig).zero = 0 := rfl
  have e3 : (command code body sig).serial = Config.serial := rfl
  have e4 : (command code body sig).sig = sig := rfl
  have e5 : (command code body sig).seq = 1 := rfl
  have e6 : (command code body sig).magic = true := rfl
  rw [e1, e2, e3, e4, e5, e6, hl sig, hv, if_neg (by simp [h8]; omega), if_neg (by simp), if_neg (by simp), if_neg (by omega)]

/-- Every command of the management port, with a body of a legal form. -/
def bodies : List (Nat × List Byte) :=
  [(0x0001, []), (0x0002, []), (0x0003, []), (0x0010, wordsOf [0x0011 * 2 ^ 48, 100]), (0x0011, wordsOf [9]), (0x0012, wordsOf [15, 9]),
   (0x0013, wordsOf (List.replicate 66 1)), (0x0020, wordsOf [1, 2, 3, 4, 5, 6, 7, 8, 9]), (0x0021, wordsOf [767]), (0x0022, wordsOf [15]),
   (0x0023, wordsOf [17]), (0x0024, wordsOf [7, 0x8000]), (0x0025, wordsOf [3 + 2 ^ 32]), (0x0026, wordsOf [2 ^ 20 - 1]), (0x0030, wordsOf [1, 0x8000])]

def numbered : State := { mappedCtx with agtSeq := 1 }
theorem pairs_written : (numbered.writePairs (regPairs (command 0x0010 (wordsOf [0x0011 * 2 ^ 48, 100]) []))).isLeft = true := by decide +kernel
theorem pair_refused : numbered.runCommand (command 0x0010 (wordsOf [2 ^ 32, 100]) []) = .inr 0 := by
  rfl

theorem bodies_legal : ∀ q ∈ bodies, commandLayout (command q.1 q.2 []) = true := by decide +kernel

theorem witness_CommandsActOrChangeNothing :
    (mappedCtx.agtBuf = [] ∧ mappedCtx.agtCtl.getLsbD 15 = false ∧ mappedCtx.scrubs = [] ∧ mappedCtx.recovering = false ∧
      ({ mappedCtx with bootstat := 2 } : State).recovering = true ∧ mappedCtx.powered = true ∧ { mappedCtx with agtBuf := [0] }.agtBuf ≠ [] ∧ mappedCtx.agtSeq < 1 ∧ ∀ q ∈ bodies, q.2.length ≤ 2048 ∧ q.2.length % 8 = 0) ∧
    (∀ q ∈ bodies, ∀ sig, commandLayout (command q.1 q.2 sig) = true) ∧
    (∀ sig, (numbered.writePairs (regPairs (command 0x0010 (wordsOf [0x0011 * 2 ^ 48, 100]) sig))).isLeft = true) ∧
    (∀ sig, numbered.runCommand (command 0x0010 (wordsOf [2 ^ 32, 100]) sig) = .inr 0) ∧
    (5 ≤ mappedCtx.freeExtents.length ∧ 767 ∉ mappedCtx.retiredCh ∧ (mappedCtx.retiredCh.filter (fun h => decide (h / 192 = 767 / 192))).length < 2) ∧
    (mappedCtx.part 0).hasExtent (0x10100 % 2 ^ 42 / 2 ^ 30) = true ∧ mappedCtx.refuses (command 0x7777 [] []) = some 6 := by
  refine ⟨by decide +kernel, ?_, fun _ => pairs_written, fun _ => pair_refused, by decide +kernel, by decide +kernel, by decide +kernel⟩
  exact fun q hq _ => bodies_legal q hq

theorem witness_StartsAndResetsClear :
    mappedCtx.powered = true ∧ mappedCtx.scrubs = [] ∧ (2 : W64).getLsbD 1 = true ∧
    ((mappedCtx.func 1).flr = false ∧ tfind (put id fetchGang).teams 1 = some ((put id fetchGang).team 1) ∧ (put id fetchGang).partOf 0 = partOfFn 1 ∧
      ((put id fetchGang).ctx 0).en = true ∧ ((put id fetchGang).ctx 0).dying = none) ∧
    (let s : State := { mappedCtx with funcs := [(1, { usable := false, flr := true })] }
     (s.func 1).flr = true ∧ s.delivered (partOfFn 1) = true ∧
     (let u : State := { s with cores := [(0, { pkts := [packet .sent] })] }
      (u.func 1).flr = true ∧ u.delivered (partOfFn 1) = false)) := by decide +kernel

/-- What verifies is free: where every part of an image's check answers so, Agtur's image and a command core's are accepted. -/
theorem image_accepted_of_verified (s : State) (img : List Byte) (core : Nat) (hf : imageForm img = true) (hs : s.fuses.signed img = true) :
    (Config.imageForAgtur (imageHead img) = true → s.fuses.minimum ≤ (Config.imageVersion (imageHead img)).toNat → s.agturImage img = true) ∧
    ((Config.imageCores (imageHead img)).getLsbD core = true → s.coreImage core img = true) := by
  simp_all [State.agturImage, State.coreImage]

theorem witness_FailuresAreContained :
    ((mappedCtx.quarter 15).hot ≠ true ∧ tfind (put id fetchGang).teams 1 = some ((put id fetchGang).team 1) ∧ ((put id fetchGang).ctx 0).en = true ∧
      ((put id fetchGang).ctx 0).dying = none ∧ ((put id fetchGang).team 1).onDie = true) ∧
    (let s : State := { mappedCtx with cores := [(511, { xouts := [⟨1, 1, [(8, 1)], false⟩] })] }
     (s.core 511).xouts[0]? = some ⟨1, 1, [(8, 1)], false⟩) ∧
    (let s := put (fun T => { T with launch := { T.launch with xg := 2 }, core := 511 }) fetchGang
     (s.team 1).onDie = true ∧ clusterOfCore (s.team 1).core = 127 ∧ (s.team 1).launch.xg ≠ 0 ∧ tfind s.teams 1 = some (s.team 1)) ∧
    (7 < 8 ∧ 17 < 18) := by decide +kernel

end Sys2Proof.Tests
end

section
/-! What a turn of the schedule that names an event does (notes/assumptions/2.md). -/

namespace Sys2Proof.Machine

/-- A turn of an event is a turn of `eventTurn` in the state that has left the turn behind. -/
theorem step_event {s : State} {i : Instr} {rest : List Turn} (h : s.agenda = .event i :: rest) :
    step s = ({ s with agenda := rest } : State).eventTurn i := by
  simp only [step, h]

/-- What is fetched, and what has no power, waits for no turn of its own (R171, R503). -/
theorem State.eventTurn_idle {s : State} {i : Instr} (h : isFetched i = true ∨ (s.powered = false ∧ worksUnpowered i = false)) :
    s.eventTurn i = .next s := by
  unfold State.eventTurn
  rcases h with h | ⟨hp, hw⟩
  · simp [h]
  · simp [hp, hw]

/-- A row of an event that has the power it needs is done. -/
theorem State.eventTurn_acts {s : State} {i : Instr} (h : isFetched i = false) (hp : s.powered = true ∨ worksUnpowered i = true) :
    s.eventTurn i = exec i s := by
  unfold State.eventTurn
  rcases hp with hp | hp <;> simp [h, hp]

end Sys2Proof.Machine

open Sys2Proof.Machine in
/-- Settles O8. The schedule is the model's choice (log entry 2), and which rows act without power is log entry 35. -/
theorem stepRunsScheduledEvent : Obligations.StepRunsScheduledEvent := by
  intro s i rest hs
  constructor
  · intro hi hp
    rw [step_event hs]
    exact State.eventTurn_acts hi hp
  · intro hi
    rw [step_event hs]
    exact State.eventTurn_idle hi
end

section
/-! Reading memory: what a write of several bytes leaves in each byte, and canonical memories told apart by what they read (R14). -/

namespace Sys2Proof.Machine

theorem readByte_writeBytes_above (m : Tbl Byte) {a b : Nat} (bs : List Byte) (h : a + bs.length ≤ b) :
    readByte (writeBytes m a bs) b = readByte m b := by
  induction bs generalizing m a with
  | nil => rfl
  | cons x t ih =>
    rw [List.length_cons] at h
    rw [writeBytes, ih _ (by omega), readByte_writeByte_ne _ (by omega)]

theorem readByte_writeBytes_of_lt (m : Tbl Byte) (a : Nat) (bs : List Byte) {k : Nat} (h : k < bs.length) :
    readByte (writeBytes m a bs) (a + k) = bs[k] := by
  induction bs generalizing m a k with
  | nil => simp at h
  | cons x t ih =>
    cases k with
    | zero => rw [writeBytes, Nat.add_zero, readByte_writeBytes_below _ (by omega)]; simp
    | succ k =>
      rw [writeBytes, show a + (k + 1) = a + 1 + k by omega, ih _ _ (by simpa using h)]
      rfl

theorem tget_cons (d : Byte) (k : Nat) (v : Byte) (t : Tbl Byte) (a : Nat) : tget d ((k, v) :: t) a = if a = k then v else tget d t a := by
  simp only [tget, tfind]
  split <;> rfl

/-- Below its first key a table reads the default. -/
theorem tget_below (d : Byte) {b a : Nat} {t : Tbl Byte} (ht : tsortedFrom b t = true) (h : a < b) : tget d t a = d := by
  rw [tget, tfind_none_below ht h, Option.getD_none]

theorem twf_cons {k : Nat} {v : Byte} {t : Tbl Byte} (h : twf 0 ((k, v) :: t) = true) :
    v ≠ 0 ∧ tsortedFrom (k + 1) t = true ∧ twf 0 t = true := by
  simp only [twf, tsortedFrom, List.all_cons, Bool.and_eq_true, decide_eq_true_eq] at h ⊢
  obtain ⟨⟨_, hs⟩, hv, ht⟩ := h
  exact ⟨hv, hs, tsortedFrom_mono (Nat.zero_le _) hs, ht⟩

/-- Two canonical tables that read alike have no first difference: the lower of two first keys reads the default in the
other table. -/
theorem eq_of_tget_eq {m n : Tbl Byte} (hm : twf 0 m = true) (hn : twf 0 n = true) (h : ∀ a, tget 0 m a = tget 0 n a) : m = n := by
  induction m generalizing n with
  | nil =>
    cases n with
    | nil => rfl
    | cons q n =>
      obtain ⟨k, w⟩ := q
      have hk := h k
      rw [tget_cons, if_pos rfl, tget_nil] at hk
      exact absurd hk.symm (twf_cons hn).1
  | cons p m ih =>
    obtain ⟨j, v⟩ := p
    obtain ⟨hv, hjm, hm'⟩ := twf_cons hm
    cases n with
    | nil =>
      have hj := h j
      rw [tget_cons, if_pos rfl, tget_nil] at hj
      exact absurd hj hv
    | cons q n =>
      obtain ⟨k, w⟩ := q
      obtain ⟨hw, hkn, hn'⟩ := twf_cons hn
      have hj := h j
      have hk := h k
      rw [tget_cons, tget_cons, if_pos rfl] at hj hk
      rcases Nat.lt_trichotomy j k with hlt | rfl | hgt
      · rw [if_neg (by omega), tget_below 0 hkn (by omega)] at hj
        exact absurd hj hv
      · rw [if_pos rfl] at hj
        subst hj
        refine congrArg _ (ih hm' hn' fun a => ?_)
        by_cases ha : a = j
        · subst ha
          rw [tget_below 0 hjm (by omega), tget_below 0 hkn (by omega)]
        · have := h a
          rwa [tget_cons, tget_cons, if_neg ha, if_neg ha] at this
      · rw [if_neg (by omega), tget_below 0 hjm (by omega)] at hk
        exact absurd hk.symm hw

end Sys2Proof.Machine

open Sys2Proof.Machine in
/-- Settles O4, by induction on the bytes that are written and on the two canonical lists. -/
theorem memoryReadsWhatWasWritten : Obligations.MemoryReadsWhatWasWritten := by
  refine ⟨fun m a bs => ⟨fun k h => readByte_writeBytes_of_lt m a bs h, ?_, fun h => wf_writeBytes h a bs⟩, fun m n hm hn => eq_of_tget_eq hm hn⟩
  rintro b (h | h)
  · exact readByte_writeBytes_below m h bs
  · exact readByte_writeBytes_above m bs h
end


section
/-! The canonical form of the package's memory (R14, notes/assumptions/4.md) as a property of the state and of what a meaning
answers, and the ways in which a state is built from others. The sections after this one hold one rule for each function of the
model that builds a state, in the order of the model's files: it keeps the form. -/

namespace Sys2Proof.Machine

/-- The package's memory is in canonical form. -/
def State.Canon (s : State) : Prop := Memory.wf s.mem

/-- If a meaning answers a next state, its memory is in canonical form. -/
def Out.Canon (o : Out) : Prop := ∀ t, o = .next t → t.Canon

theorem State.Canon.same {s t : State} (hs : s.Canon) (e : t.mem = s.mem) : t.Canon := by
  unfold State.Canon
  rw [e]
  exact hs

theorem State.Canon.of_wf {s : State} (h : Memory.wf s.mem) : s.Canon := h

theorem wf_ite {m n : Tbl Byte} {c : Prop} [Decidable c] (hm : Memory.wf m) (hn : Memory.wf n) : Memory.wf (if c then m else n) := by
  split
  · exact hm
  · exact hn

theorem wf_nil : Memory.wf [] := rfl

theorem State.Canon.ite {s t : State} {c : Prop} [Decidable c] (hs : s.Canon) (ht : t.Canon) : (if c then s else t).Canon := by
  split
  · exact hs
  · exact ht

theorem State.Canon.iteFst {α : Type} {p q : State × α} {c : Prop} [Decidable c] (hp : p.1.Canon) (hq : q.1.Canon) :
    (if c then p else q).1.Canon := by
  split
  · exact hp
  · exact hq

/-- The state of a pair, where the pair is written out. -/
theorem State.Canon.fst {α : Type} {p : State × α} {s : State} {x : α} (hp : p.1.Canon) (e : p = (s, x)) : s.Canon := by
  subst e
  exact hp

theorem State.Canon.snd {α : Type} {p : α × State} {s : State} {x : α} (hp : p.2.Canon) (e : p = (x, s)) : s.Canon := by
  subst e
  exact hp

theorem State.Canon.foldl {α : Type} {f : State → α → State} {s : State} {l : List α} (hs : s.Canon)
    (hf : ∀ s x, s.Canon → (f s x).Canon) : (l.foldl f s).Canon := by
  induction l generalizing s with
  | nil => exact hs
  | cons x l ih => exact ih (hf s x hs)

/-- The same, where each element answers more than a state. -/
theorem State.Canon.foldlFst {α β : Type} {f : State × β → α → State × β} {p : State × β} {l : List α} (hp : p.1.Canon)
    (hf : ∀ p x, p.1.Canon → (f p x).1.Canon) : (l.foldl f p).1.Canon := by
  induction l generalizing p with
  | nil => exact hp
  | cons x l ih => exact ih (hf p x hp)

theorem State.Canon.foldlSt {α : Type} {f : Checked → α → Checked} {C : Checked} {l : List α} (hC : C.st.Canon)
    (hf : ∀ C x, C.st.Canon → (f C x).st.Canon) : (l.foldl f C).st.Canon := by
  induction l generalizing C with
  | nil => exact hC
  | cons x l ih => exact ih (hf C x hC)

theorem State.Canon.next {s : State} (hs : s.Canon) : Out.Canon (.next s) := by
  intro t e
  cases e
  exact hs

theorem Out.Canon.ite {o p : Out} {c : Prop} [Decidable c] (ho : Out.Canon o) (hp : Out.Canon p) : Out.Canon (if c then o else p) := by
  split
  · exact ho
  · exact hp

/-- The state that a write to Agtur's registers leaves, if it is not refused. -/
def Written.Canon (r : Option State) : Prop := ∀ t, r = some t → t.Canon

theorem Written.Canon.some {s : State} (hs : s.Canon) : Written.Canon (some s) := by
  intro t e
  cases e
  exact hs

theorem Written.Canon.none : Written.Canon none := by
  intro t e
  cases e

theorem Written.Canon.ite {p q : Option State} {c : Prop} [Decidable c] (hp : Written.Canon p) (hq : Written.Canon q) :
    Written.Canon (if c then p else q) := by
  split
  · exact hp
  · exact hq

/-- The state that a command to Agtur leaves, if it is not refused. -/
def Command.Canon (r : State ⊕ Nat) : Prop := ∀ t, r = .inl t → t.Canon

theorem Command.Canon.inl {s : State} (hs : s.Canon) : Command.Canon (.inl s) := by
  intro t e
  cases e
  exact hs

theorem Command.Canon.inr {n : Nat} : Command.Canon (.inr n) := by
  intro t e
  cases e

theorem Command.Canon.ite {p q : State ⊕ Nat} {c : Prop} [Decidable c] (hp : Command.Canon p) (hq : Command.Canon q) :
    Command.Canon (if c then p else q) := by
  split
  · exact hp
  · exact hq

/-- What an event that is due answers, if there is one. -/
def Out.Due (p : Option Out) : Prop := ∀ o, p = some o → Out.Canon o

theorem Out.Due.none : Out.Due none := by
  intro o e
  cases e

theorem Out.Due.orElse {p q : Option Out} (hp : Out.Due p) (hq : Out.Due q) : Out.Due (p <|> q) := by
  intro o e
  cases p with
  | none => exact hq o e
  | some o' => exact hp o e

theorem Out.Due.findSome {α : Type} {l : List α} {f : α → Option Out} (hf : ∀ x, Out.Due (f x)) : Out.Due (l.findSome? f) := by
  intro o e
  obtain ⟨x, -, hx⟩ := List.exists_of_findSome?_eq_some e
  exact hf x o hx

theorem Out.Due.ite {p q : Option Out} {c : Prop} [Decidable c] (hp : Out.Due p) (hq : Out.Due q) : Out.Due (if c then p else q) := by
  split
  · exact hp
  · exact hq

theorem Out.Due.tryEvent {s : State} {o : Out} (ho : Out.Canon o) : Out.Due (tryEvent s o) := by
  intro p e
  unfold Machine.tryEvent at e
  split at e
  · split at e
    · cases e
    · cases e
      exact ho
  · cases e
    exact ho

theorem Out.Due.dueIf {s : State} {c : Bool} {f : State → Out} (hf : Out.Canon (f s)) : Out.Due (dueIf s c f) := by
  unfold Machine.dueIf
  exact .ite (.tryEvent hf) .none

/-- The states that a trial of a word holds. -/
def Trial.Canon : Trial → Prop
  | .held s => s.Canon
  | .instead s => s.Canon
  | .ready s _ _ s1 => s.Canon ∧ s1.Canon
  | .ends o => Out.Canon o

theorem Trial.Canon.ite {x y : Trial} {c : Prop} [Decidable c] (hx : x.Canon) (hy : y.Canon) : (if c then x else y).Canon := by
  split
  · exact hx
  · exact hy

theorem wf_putCells {m : Tbl Byte} (h : Memory.wf m) (cells : List Host.Cell) : Memory.wf (putCells m cells) := by
  unfold putCells
  induction cells generalizing m with
  | nil => exact h
  | cons q t ih => exact ih (wf_writeByte h q.1 q.2)

end Sys2Proof.Machine
end

section
/-! What is defined in Machine/Lanes.lean keeps memory in canonical form. -/

namespace Sys2Proof.Machine

theorem State.Canon.setTeam {s : State} {t : Nat} {T : Team} (hs : s.Canon) : (s.setTeam t T).Canon := .same hs (State.mem_setTeam ..)

theorem State.Canon.modTeam {s : State} {t : Nat} {f : Team → Team} (hs : s.Canon) : (s.modTeam t f).Canon :=
  .same hs (State.mem_modTeam ..)

theorem State.Canon.setGang {s : State} {t g : Nat} {G : Gang} (hs : s.Canon) : (s.setGang t g G).Canon :=
  .same hs (State.mem_setGang ..)

theorem State.Canon.modGang {s : State} {t g : Nat} {f : Gang → Gang} (hs : s.Canon) : (s.modGang t g f).Canon :=
  .same hs (State.mem_modGang ..)

theorem State.Canon.setCur {s : State} {G : Gang} (hs : s.Canon) : (s.setCur G).Canon := .same hs (State.mem_setCur ..)

theorem State.Canon.modCore {s : State} {c : Nat} {f : Core → Core} (hs : s.Canon) : (s.modCore c f).Canon :=
  .same hs (State.mem_modCore ..)

theorem State.Canon.modCluster {s : State} {c : Nat} {f : Cluster → Cluster} (hs : s.Canon) : (s.modCluster c f).Canon :=
  .same hs (State.mem_modCluster ..)

theorem State.Canon.modDie {s : State} {d : Nat} {f : Die → Die} (hs : s.Canon) : (s.modDie d f).Canon :=
  .same hs (State.mem_modDie ..)

theorem State.Canon.modSlice {s : State} {n : Nat} {f : Slice → Slice} (hs : s.Canon) : (s.modSlice n f).Canon :=
  .same hs (State.mem_modSlice ..)

theorem State.Canon.modFuture {s : State} {n : Nat} {f : FutEntry → FutEntry} (hs : s.Canon) : (s.modFuture n f).Canon :=
  .same hs (State.mem_modFuture ..)

theorem State.Canon.modPart {s : State} {p : Nat} {f : Part → Part} (hs : s.Canon) : (s.modPart p f).Canon :=
  .same hs (State.mem_modPart ..)

theorem State.Canon.modCtx {s : State} {c : Nat} {f : Context → Context} (hs : s.Canon) : (s.modCtx c f).Canon :=
  .same hs (State.mem_modCtx ..)

theorem State.Canon.modFunc {s : State} {f : Nat} {g : Func → Func} (hs : s.Canon) : (s.modFunc f g).Canon :=
  .same hs (State.mem_modFunc ..)

theorem State.Canon.modQuarter {s : State} {q : Nat} {f : Quarter → Quarter} (hs : s.Canon) : (s.modQuarter q f).Canon :=
  .same hs (State.mem_modQuarter ..)

theorem State.Canon.free {s : State} (hs : s.Canon) : s.free.2.Canon := .same hs rfl

end Sys2Proof.Machine
end

section
/-! What is defined in Machine/Mem.lean keeps memory in canonical form. -/

namespace Sys2Proof.Machine

theorem State.Canon.sendMsg {s : State} {fn vec : Nat} (hs : s.Canon) : (s.sendMsg fn vec).Canon := by
  unfold State.sendMsg
  extract_lets E
  exact .same hs rfl

theorem State.Canon.signal {s : State} {fn vec : Nat} (hs : s.Canon) : (s.signal fn vec).Canon := .same hs (State.mem_signal ..)

theorem State.Canon.tellHost {s : State} {c : Nat} {n : Notice} (hs : s.Canon) : (s.tellHost c n).Canon := by
  unfold State.tellHost
  extract_lets fn
  exact .signal (.same hs rfl)

theorem State.Canon.hostPut {s : State} {fn a : Nat} {bs : List Byte} (hs : s.Canon) : (s.hostPut fn a bs).Canon :=
  .same hs (State.mem_hostPut ..)

theorem State.Canon.ringOut {s : State} {fn size : Nat} {R : RecRing} {n : Nat} (hs : s.Canon) : (s.ringOut fn size R n).1.Canon := by
  unfold State.ringOut
  extract_lets s1
  have h1 : s1.Canon := .foldl hs (fun _ _ h' => h'.hostPut)
  exact .iteFst h1 hs

theorem State.Canon.flushErr {s : State} (hs : s.Canon) : s.flushErr.Canon := by
  unfold State.flushErr
  split
  · rename_i s1 _ heq
    have h1 : s1.Canon := State.Canon.fst hs.ringOut heq
    exact .signal (.same h1 rfl)
  · exact hs

theorem State.Canon.flushMtr {s : State} {fn : Nat} (hs : s.Canon) : (s.flushMtr fn).Canon := by
  unfold State.flushMtr
  extract_lets R
  split
  · rename_i s1 _ heq
    have h1 : s1.Canon := State.Canon.fst hs.ringOut heq
    exact h1.modFunc.signal
  · exact hs

theorem State.Canon.flushPrqOne {s : State} {fn : Nat} (hs : s.Canon) : (s.flushPrqOne fn).Canon := by
  unfold State.flushPrqOne
  extract_lets R n blocked
  split
  · exact hs
  · extract_lets s1 s2
    have h1 : s1.Canon := hs.hostPut
    have h2 : s2.Canon := .same h1 rfl
    exact .ite hs h2.modFunc.signal

theorem State.Canon.flushPrq {s : State} {fn : Nat} (hs : s.Canon) : (s.flushPrq fn).Canon := by
  unfold State.flushPrq
  exact .foldl hs (fun _ _ h' => h'.flushPrqOne)

theorem State.Canon.markLeaf {s : State} {pa : Nat} {e : W64} {wr : Bool} (hs : s.Canon) : (s.markLeaf pa e wr).1.Canon := by
  unfold State.markLeaf
  extract_lets e'
  exact .iteFst hs (.of_wf (wf_writeNum hs _ _ _))

theorem State.Canon.walkS2 {s : State} {p ipa : Nat} {wr : Bool} {ls : List Nat} {tbl : Nat} (hs : s.Canon) :
    (s.walkS2 p ipa wr ls tbl).1.Canon := by
  induction ls generalizing tbl with
  | nil => exact hs
  | cons l ls ih =>
    unfold State.walkS2
    extract_lets q ea e z
    exact .iteFst hs (.iteFst hs (.iteFst hs (.iteFst hs.markLeaf ih)))

theorem State.Canon.stage2 {s : State} {p ipa : Nat} {wr : Bool} (hs : s.Canon) : (s.stage2 p ipa wr).1.Canon := by
  unfold State.stage2
  extract_lets P r
  have hr : r.1.Canon := hs.walkS2
  refine .iteFst ?_ ?_
  · split
    · exact .iteFst hr hr
    · exact hr
  · split
    · exact hs
    · exact hs

theorem State.Canon.walkS1 {s : State} {c p va : Nat} {acc : Access} {level : Nat} {ls : List Nat} {tbl : Nat} (hs : s.Canon) :
    (s.walkS1 c p va acc level ls tbl).1.Canon := by
  induction ls generalizing s tbl with
  | nil => exact hs
  | cons l ls ih =>
    unfold State.walkS1
    extract_lets eip
    have hs1 := hs.stage2 (p := p) (ipa := eip) (wr := false)
    split
    · rename_i heq
      exact hs1.fst heq
    · rename_i heq
      exact hs1.fst heq
    · rename_i s1 _ _ _ _ _ _ heq
      have h1 : s1.Canon := hs1.fst heq
      extract_lets q ea e z ipa sup upd
      have hs2 := h1.stage2 (p := p) (ipa := ipa) (wr := false)
      refine .iteFst h1 (.iteFst h1 (.iteFst ?_ (ih h1)))
      split
      · rename_i heq2
        exact hs2.fst heq2
      · rename_i heq2
        exact hs2.fst heq2
      · rename_i s2 _ _ _ _ _ _ heq2
        have h2 : s2.Canon := hs2.fst heq2
        extract_lets r' w' x' s3 zm
        have h3 : s3.Canon := .ite h2.stage2 h2
        exact .iteFst h2 (.iteFst h2 (.ite h3.markLeaf.stage2 h3.markLeaf))

theorem State.Canon.tlbKeep {s : State} {core : Nat} {e : TlbEntry} (hs : s.Canon) : (s.tlbKeep core e).Canon := by
  unfold State.tlbKeep
  extract_lets x cl s1 s2
  have h1 : s1.Canon := .ite (.same hs rfl) hs
  have h2 : s2.Canon := h1.modCore
  exact .ite hs (.ite h2 h2.modCluster)

theorem State.Canon.walk {s : State} {die c va : Nat} {acc : Access} {level : Nat} (hs : s.Canon) :
    (s.walk die c va acc level).1.Canon := by
  unfold State.walk
  extract_lets p
  split
  · rename_i s1 _ heq
    have h1 : s1.Canon := State.Canon.fst hs.walkS1 heq
    extract_lets s2
    have h2 : s2.Canon := .ite (.same h1 rfl) h1
    exact h2.modDie
  · rename_i s1 heq
    have h1 : s1.Canon := State.Canon.fst hs.walkS1 heq
    exact h1.signal
  · exact hs.walkS1

theorem State.Canon.walkFor {s : State} {core c a : Nat} {acc : Access} {level : Nat} (hs : s.Canon) :
    (s.walkFor core c a acc level).1.Canon := by
  unfold State.walkFor
  split
  · rename_i s1 _ heq
    have h1 : s1.Canon := State.Canon.fst hs.walk heq
    exact h1.tlbKeep
  · rename_i heq
    exact State.Canon.fst hs.walk heq
  · rename_i heq
    exact State.Canon.fst hs.walk heq

theorem State.Canon.translate {s : State} {core c : Nat} {va : W64} {acc : Access} {level : Nat} (hs : s.Canon) :
    (s.translate core c va acc level).1.Canon := by
  unfold State.translate
  extract_lets a
  split
  · exact .iteFst hs (.iteFst hs.walkFor hs.tlbKeep)
  · exact hs.walkFor

theorem State.Canon.requestPage {s : State} {c page : Nat} {s2 : Bool} {acc : Access} {engine : Bool} (hs : s.Canon) :
    (s.requestPage c page s2 acc engine).1.Canon := by
  unfold State.requestPage
  extract_lets p id r
  split
  · exact hs
  · exact .iteFst (.flushPrq (.same hs rfl)) hs

end Sys2Proof.Machine
end

section
/-! What is defined in Machine/Meter.lean keeps memory in canonical form. -/

namespace Sys2Proof.Machine

theorem State.Canon.modMeter {s : State} {core ctx : Nat} {f : Meter → Meter} (hs : s.Canon) : (s.modMeter core ctx f).Canon :=
  hs.modCore

theorem State.Canon.post {s : State} {core ctx : Nat} (hs : s.Canon) : (s.post core ctx).Canon := by
  unfold State.post
  extract_lets n s1
  have h1 : s1.Canon := hs.modMeter
  exact h1.modCtx

theorem State.Canon.refund {s : State} {core ctx u : Nat} (hs : s.Canon) : (s.refund core ctx u).Canon := by
  unfold State.refund
  extract_lets dom k s1 s2
  have h1 : s1.Canon := hs.modMeter
  have h2 : s2.Canon := .ite h1 h1.modCtx
  exact .ite hs (.same h2 rfl)

theorem State.Canon.refundLanes {s : State} {t g : Nat} (hs : s.Canon) : (s.refundLanes t g).Canon := by
  unfold State.refundLanes
  extract_lets G
  split
  · exact hs.setGang.refund
  · exact hs

theorem State.Canon.wantGrant {s : State} {core ctx : Nat} (hs : s.Canon) : (s.wantGrant core ctx).Canon :=
  .same hs (State.mem_wantGrant ..)

theorem State.Canon.chargeRaw {s : State} {core ctx u dom : Nat} (hs : s.Canon) : (s.chargeRaw core ctx u dom).Canon :=
  .same hs (State.mem_chargeRaw ..)

theorem State.Canon.chargeMiss {s : State} {m : Miss} (hs : s.Canon) : (s.chargeMiss m).Canon := by
  unfold State.chargeMiss
  split
  · exact .same hs rfl
  · exact hs.chargeRaw

theorem State.Canon.holdMisses {s : State} (hs : s.Canon) : s.holdMisses.Canon := .same hs rfl

theorem State.Canon.takeMisses {s : State} (hs : s.Canon) : s.takeMisses.1.Canon := .same hs rfl

theorem State.Canon.chargeMisses {s : State} {l : List Miss} (hs : s.Canon) : (s.chargeMisses l).Canon :=
  .same hs (State.mem_chargeMisses ..)

theorem State.Canon.surcharge {s : State} {core ctx u : Nat} (hs : s.Canon) : (s.surcharge core ctx u).Canon := hs.chargeRaw

theorem State.Canon.take {s : State} {core ctx u : Nat} (hs : s.Canon) : (s.take core ctx u).1.Canon := by
  unfold State.take
  extract_lets e M
  exact .iteFst (.iteFst hs (.iteFst hs hs.post.modMeter)) hs.chargeRaw

theorem State.Canon.returnMeter {s : State} {core ctx : Nat} (hs : s.Canon) : (s.returnMeter core ctx).Canon := by
  unfold State.returnMeter
  extract_lets M n s1
  have h1 : s1.Canon := hs.modCtx
  exact .ite hs h1.modCore

theorem State.Canon.inject {s : State} {core ctx flits : Nat} (hs : s.Canon) : (s.inject core ctx flits).Canon := by
  unfold State.inject
  extract_lets d p
  exact .ite hs hs.modDie

theorem State.Canon.errorRecord {s : State} {time source severity part ctx die unit addr count : Nat} (hs : s.Canon) :
    (s.errorRecord time source severity part ctx die unit addr count).Canon := by
  unfold State.errorRecord
  extract_lets rec_ base
  exact .flushErr (.same hs rfl)

theorem State.Canon.report {s : State} {source severity part ctx die unit addr : Nat} (hs : s.Canon) :
    (s.report source severity part ctx die unit addr).Canon :=
  hs.errorRecord

theorem State.Canon.reportCorrected {s : State} {source die unit addr : Nat} (hs : s.Canon) :
    (s.reportCorrected source die unit addr).Canon := by
  unfold State.reportCorrected
  extract_lets same
  exact .ite (.same hs rfl) (.same hs rfl)

theorem State.Canon.flushCorrected {s : State} (hs : s.Canon) : s.flushCorrected.Canon := by
  unfold State.flushCorrected
  exact .foldl (.same hs rfl) (fun _ _ h' => h'.errorRecord)

end Sys2Proof.Machine
end

section
/-! What is defined in Machine/Mesh.lean keeps memory in canonical form. -/

namespace Sys2Proof.Machine

theorem State.Canon.fly {s : State} {id cls flits : Nat} {ports : List Nat} (hs : s.Canon) : (s.fly id cls flits ports).Canon :=
  .same hs rfl

theorem State.Canon.land {s : State} {id : Nat} (hs : s.Canon) : (s.land id).Canon := .same hs rfl

theorem State.Canon.portCycle {s : State} {p : Nat} (hs : s.Canon) : (s.portCycle p).Canon := by
  unfold State.portCycle
  extract_lets L
  refine .ite hs ?_
  split
  · exact .same hs rfl
  · exact .same hs rfl

theorem State.Canon.meshCycle {s : State} (hs : s.Canon) : s.meshCycle.Canon := by
  unfold State.meshCycle
  extract_lets ps s1
  have h1 : s1.Canon := .foldl hs (fun _ _ h' => h'.portCycle)
  exact .same h1 rfl

end Sys2Proof.Machine
end

section
/-! What is defined in Machine/Remote.lean keeps memory in canonical form. -/

namespace Sys2Proof.Machine

theorem State.Canon.sendFlits {s : State} {pkg cls pa : Nat} {bytes : List Byte} (hs : s.Canon) :
    (s.sendFlits pkg cls pa bytes).Canon := by
  unfold State.sendFlits
  exact .ite hs (.same hs rfl)

theorem State.Canon.sendRequest {s : State} {ctx cls pa : Nat} {bytes : List Byte} {offs : List Nat} (hs : s.Canon) :
    (s.sendRequest ctx cls pa bytes offs).Canon := by
  unfold State.sendRequest
  exact .ite hs (.same hs rfl)

theorem State.Canon.sendSlots {s : State} {ctx block : Nat} {slots : Tbl W32} (hs : s.Canon) :
    (s.sendSlots ctx block slots).Canon :=
  hs.sendRequest

theorem State.Canon.chargeFlits {s : State} {core ctx n : Nat} (hs : s.Canon) : (s.chargeFlits core ctx n).Canon := hs.chargeRaw

theorem State.Canon.chargeReturned {s : State} {core ctx : Nat} (hs : s.Canon) : (s.chargeReturned core ctx).Canon := by
  unfold State.chargeReturned
  extract_lets base
  have hbase : base.Canon := hs.modMeter
  exact .wantGrant (.same hbase rfl)

theorem State.Canon.refusedThere {s : State} (hs : s.Canon) : s.refusedThere.Canon := by
  unfold State.refusedThere
  exact .ite (.signal (.same hs rfl)) (.same hs rfl)

theorem State.Canon.remoteRead {s : State} {core ctx pa n : Nat} {fresh : Bool} (hs : s.Canon) :
    (s.remoteRead core ctx pa n fresh).1.Canon := by
  unfold State.remoteRead
  extract_lets s1
  have h1 : s1.Canon := .ite hs.sendRequest.chargeFlits.chargeReturned.refusedThere hs
  exact .iteFst (.same h1 rfl) hs

theorem State.Canon.remoteWrite {s : State} {core ctx : Nat} {cells : List Host.Cell} (hs : s.Canon) :
    (s.remoteWrite core ctx cells).Canon := by
  unfold State.remoteWrite
  extract_lets pa pkg s1
  have h1 : s1.Canon := hs.sendRequest
  exact .ite h1.chargeFlits.chargeReturned.refusedThere hs.signal

theorem State.Canon.remoteAtomic {s : State} {core ctx pa n : Nat} (hs : s.Canon) : (s.remoteAtomic core ctx pa n).1.Canon := by
  unfold State.remoteAtomic
  extract_lets s1
  have h1 : s1.Canon := hs.sendRequest.chargeFlits.chargeReturned.refusedThere
  exact .iteFst (.same h1 rfl) hs

end Sys2Proof.Machine
end

section
/-! What is defined in Machine/Slices.lean keeps memory in canonical form. -/

namespace Sys2Proof.Machine

theorem State.Canon.mapTeams {s : State} {f : Nat → Team → Team} (hs : s.Canon) : (s.mapTeams f).Canon :=
  .same hs (State.mem_mapTeams ..)

theorem State.Canon.relaunch {s : State} {t : Nat} (hs : s.Canon) : (s.relaunch t).Canon := by
  unfold State.relaunch
  extract_lets T base
  have hbase : base.Canon := hs.setTeam
  exact .ite (.same hbase rfl) hs

theorem State.Canon.requeue {s : State} {t : Nat} (hs : s.Canon) : (s.requeue t).Canon := by
  unfold State.requeue
  extract_lets T
  exact .ite hs (.ite hs.relaunch (.foldl hs (fun _ _ h' => h'.relaunch)))

theorem State.Canon.wakeLine {s : State} {line : Nat} (hs : s.Canon) : (s.wakeLine line).Canon := by
  unfold State.wakeLine
  extract_lets base
  have hbase : base.Canon := hs.mapTeams
  exact .same hbase rfl

theorem State.Canon.wakeScratch {s : State} {t block : Nat} (hs : s.Canon) : (s.wakeScratch t block).Canon := by
  unfold State.wakeScratch
  extract_lets test T
  exact .ite hs.setTeam (.ite hs.requeue hs)

theorem State.Canon.wakeSpilled {s : State} {line : Nat} (hs : s.Canon) : (s.wakeSpilled line).Canon := by
  unfold State.wakeSpilled
  extract_lets h ts s1
  have h1 : s1.Canon := .foldl hs (fun _ _ h' => .ite h'.sendFlits h'.requeue)
  exact .ite h1 h1.modSlice

theorem State.Canon.monitorL1 {s : State} {core line : Nat} (hs : s.Canon) : (s.monitorL1 core line).Canon := by
  unfold State.monitorL1
  extract_lets c s1
  have h1 : s1.Canon := hs.modCore
  exact h1.modSlice

theorem State.Canon.wakeLost {s : State} {core line : Nat} (hs : s.Canon) : (s.wakeLost core line).Canon := hs.mapTeams

theorem State.Canon.dropShare {s : State} {core line : Nat} (hs : s.Canon) : (s.dropShare core line).Canon := hs.modSlice

theorem State.Canon.dropL1 {s : State} {core line : Nat} (hs : s.Canon) : (s.dropL1 core line).Canon := by
  unfold State.dropL1
  extract_lets mon s1
  have h1 : s1.Canon := hs.modCore
  exact .ite h1.wakeLost.dropShare h1

theorem State.Canon.invalidate {s : State} {line : Nat} {keep : Option Nat} (hs : s.Canon) : (s.invalidate line keep).Canon :=
  .same hs (State.mem_invalidate ..)

theorem State.Canon.chargeL2 {s : State} {core ctx line : Nat} (hs : s.Canon) : (s.chargeL2 core ctx line).Canon := hs.chargeMiss

theorem State.Canon.chargeBursts {s : State} {core ctx line : Nat} (hs : s.Canon) : (s.chargeBursts core ctx line).Canon :=
  hs.chargeMiss

theorem State.Canon.ownerData {s : State} {core ctx line : Nat} {e : DirEntry} (hs : s.Canon) :
    (s.ownerData core ctx line e).Canon := by
  unfold State.ownerData
  extract_lets s1
  have h1 : s1.Canon := .ite hs.chargeBursts hs
  exact .ite h1.modSlice.wakeSpilled hs

theorem State.Canon.evict {s : State} {core ctx h : Nat} {e : DirEntry} (hs : s.Canon) : (s.evict core ctx h e).Canon := by
  unfold State.evict
  extract_lets s1 s2
  have h1 : s1.Canon := hs.ownerData.invalidate
  have h2 : s2.Canon := .ite h1.chargeBursts h1
  exact h2.modSlice

theorem State.Canon.freeBypass {s : State} {line : Nat} (hs : s.Canon) : (s.freeBypass line).Canon := by
  unfold State.freeBypass
  extract_lets h
  exact .ite hs.modSlice hs

theorem State.Canon.fill {s : State} {core ctx line : Nat} (hs : s.Canon) : (s.fill core ctx line).Canon := by
  unfold State.fill
  extract_lets h p set s1 old s1' new bl s2 base
  have h1 : s1.Canon := hs.chargeL2.chargeBursts
  have h1' : s1'.Canon := .ite h1 h1.modSlice
  have h2 : s2.Canon := by
    unfold s2
    refine .ite h1' ?_
    split
    · exact h1'.evict
    · exact h1'
  have hbase : base.Canon := h2.modSlice
  split
  · extract_lets old' s2' base'
    have h2' : s2'.Canon := by
      unfold s2'
      clear_value old'
      split
      · exact h1'.evict
      · exact h1'
    have hbase' : base'.Canon := h2'.modSlice
    exact .same hbase' rfl
  · exact .same hbase rfl

theorem State.Canon.recent {s : State} {line : Nat} (hs : s.Canon) : (s.recent line).Canon := by
  unfold State.recent
  extract_lets base
  have hbase : base.Canon := hs.modSlice
  exact .same hbase rfl

theorem State.Canon.hit {s : State} {core ctx line : Nat} {e : DirEntry} (hs : s.Canon) : (s.hit core ctx line e).Canon := by
  unfold State.hit
  extract_lets s1
  have h1 : s1.Canon := hs.chargeL2
  exact .recent (.ite h1.chargeBursts h1)

theorem State.Canon.lookup {s : State} {core ctx line : Nat} (hs : s.Canon) : (s.lookup core ctx line).Canon := by
  unfold State.lookup
  split
  · exact hs.hit
  · exact hs.fill

theorem State.Canon.writtenLine {s : State} {core ctx line : Nat} {keep : Option Nat} (hs : s.Canon) :
    (s.writtenLine core ctx line keep).Canon := by
  unfold State.writtenLine
  extract_lets h s2 s3 s4 s5
  have h2 : s2.Canon := by
    unfold s2
    split
    · exact hs.ownerData
    · exact hs
  have h3 : s3.Canon := h2.invalidate
  have h4 : s4.Canon := by
    unfold s4
    split
    · exact h3.modCore
    · exact h3
  have h5 : s5.Canon := h4.modSlice
  exact h5.wakeLine.wakeSpilled.freeBypass

theorem State.Canon.sliceWriteLine {s : State} {core ctx line : Nat} {keep : Option Nat} (hs : s.Canon) :
    (s.sliceWriteLine core ctx line keep).Canon :=
  hs.lookup.writtenLine

theorem State.Canon.nextNumber {s : State} (hs : s.Canon) : s.nextNumber.Canon := .same hs rfl

theorem State.Canon.applyHead {s : State} {h : Nat} (hs : s.Canon) : (s.applyHead h).Canon := by
  unfold State.applyHead
  split
  · exact hs
  · extract_lets s0
    have h0 : s0.Canon := hs.modSlice
    split
    · exact h0
    · extract_lets line s1 s2 s3
      have h1 : s1.Canon := h0.sliceWriteLine
      have h2 : s2.Canon := .of_wf (wf_applySlots h1 _ _ _)
      have h3 : s3.Canon := .ite h2.report h2
      exact h3.modCore.nextNumber.fly

theorem State.Canon.settleLine {s : State} {line : Nat} (hs : s.Canon) : (s.settleLine line).Canon := by
  unfold State.settleLine
  extract_lets h isFor
  exact .ite (.foldl hs (fun _ _ h' => .ite h'.applyHead h')) hs

theorem State.Canon.readAt {s : State} {core ctx line : Nat} (hs : s.Canon) : (s.readAt core ctx line).Canon := by
  unfold State.readAt
  extract_lets h s1
  have h1 : s1.Canon := hs.settleLine.lookup
  split
  · split
    · extract_lets s2
      have h2 : s2.Canon := h1.ownerData.modCore
      exact h2.modSlice
    · exact h1
  · exact h1

theorem State.Canon.walkReads {s : State} {core c va : Nat} (hs : s.Canon) : (s.walkReads core c va).Canon := by
  unfold State.walkReads
  exact .foldl hs (fun _ _ h' => .ite h'.readAt.freeBypass h')

theorem State.Canon.walkWrites {s0 : State} {core c va : Nat} {s : State} (hs : s.Canon) : (s0.walkWrites core c va s).Canon := by
  unfold State.walkWrites
  exact .foldl hs (fun _ _ h' => h'.sliceWriteLine)

theorem State.Canon.translateAt {s : State} {core c : Nat} {va : W64} {acc : Access} {level : Nat} (hs : s.Canon) :
    (s.translateAt core c va acc level).1.Canon := by
  unfold State.translateAt
  extract_lets a s0 r
  have h0 : s0.Canon := hs.walkReads
  have hr : r.1.Canon := h0.translate
  exact .iteFst hr.walkWrites hs.translate

theorem State.Canon.putBytes {s : State} {cells : List Host.Cell} (hs : s.Canon) : (s.putBytes cells).Canon :=
  .of_wf (wf_putCells hs _)

theorem State.Canon.writeHome {s : State} {core ctx line : Nat} {cells : List Host.Cell} (hs : s.Canon) :
    (s.writeHome core ctx line cells).Canon := by
  unfold State.writeHome
  extract_lets keep s1
  have h1 : s1.Canon := hs.settleLine.sliceWriteLine
  exact .ite h1.putBytes hs.remoteWrite

theorem State.Canon.sendWrite {s : State} {core id : Nat} (hs : s.Canon) : (s.sendWrite core id).Canon := by
  unfold State.sendWrite
  split
  · exact hs
  · exact hs.land.modCore.writeHome

theorem State.Canon.settleEndpoint {s : State} {core ctx line : Nat} (hs : s.Canon) : (s.settleEndpoint core ctx line).Canon := by
  unfold State.settleEndpoint
  exact .foldl hs (fun _ _ h' => h'.sendWrite.returnMeter)

theorem State.Canon.sliceWriteBack {s : State} {core line : Nat} (hs : s.Canon) : (s.sliceWriteBack core line).Canon := by
  unfold State.sliceWriteBack
  extract_lets s1
  have h1 : s1.Canon := hs.dropL1
  exact h1.modSlice.wakeSpilled.freeBypass

theorem State.Canon.evictL1 {s : State} {core : Nat} {x : L1Line} (hs : s.Canon) : (s.evictL1 core x).Canon := by
  unfold State.evictL1
  exact .ite hs.sliceWriteBack hs.dropL1.freeBypass

theorem State.Canon.makeRoom {s : State} {core line : Nat} (hs : s.Canon) : (s.makeRoom core line).Canon := by
  unfold State.makeRoom
  extract_lets C s1
  have h1 : s1.Canon := hs.free
  refine .ite hs ?_
  split
  · exact h1.evictL1
  · exact h1

theorem State.Canon.putL1 {s : State} {core line : Nat} {excl : Bool} (hs : s.Canon) : (s.putL1 core line excl).Canon := by
  unfold State.putL1
  extract_lets c
  exact hs.makeRoom.modCore

theorem State.Canon.takeBanks {s : State} {core : Nat} (hs : s.Canon) : (s.takeBanks core).Canon := by
  unfold State.takeBanks
  extract_lets ls lost s1 s2
  have h1 : s1.Canon := .same hs rfl
  have h2 : s2.Canon := .foldl h1 (fun _ _ h' => .ite h'.evictL1 h')
  exact .foldl h2 (fun _ _ h' => h'.evictL1)

theorem State.Canon.readLine {s : State} {core ctx line : Nat} (hs : s.Canon) : (s.readLine core ctx line).Canon := hs.inject.readAt

theorem State.Canon.fetchLine {s : State} {core ctx line : Nat} (hs : s.Canon) : (s.fetchLine core ctx line).Canon :=
  hs.readLine.freeBypass

theorem State.Canon.sliceFetch {s : State} {core ctx line : Nat} (hs : s.Canon) : (s.sliceFetch core ctx line).Canon :=
  hs.settleEndpoint.fetchLine

theorem State.Canon.sliceRead {s : State} {core ctx line : Nat} (hs : s.Canon) : (s.sliceRead core ctx line).Canon := by
  unfold State.sliceRead
  extract_lets s1
  have h1 : s1.Canon := hs.settleEndpoint.readLine
  exact h1.modSlice.putL1

theorem State.Canon.touch {s : State} {core ctx line : Nat} (hs : s.Canon) : (s.touch core ctx line).Canon := by
  unfold State.touch
  split
  · exact hs
  · exact hs.sliceRead

theorem State.Canon.sliceOwn {s : State} {core ctx line : Nat} (hs : s.Canon) : (s.sliceOwn core ctx line).Canon := by
  unfold State.sliceOwn
  extract_lets h s1 c s2 s3 s4
  have h1 : s1.Canon := hs.settleEndpoint.inject.settleLine.lookup
  have h2 : s2.Canon := by
    unfold s2
    split
    · exact h1.ownerData
    · exact h1
  have h3 : s3.Canon := h2.invalidate
  have h4 : s4.Canon := h3.modSlice
  exact .ite hs h4.putL1.wakeSpilled

end Sys2Proof.Machine
end

section
/-! What is defined in Machine/Ops.lean keeps memory in canonical form. -/

namespace Sys2Proof.Machine

theorem Out.Canon.hold {s : State} (hs : s.Canon) : Out.Canon (s.hold) := State.Canon.next (.same hs rfl)

theorem State.Canon.finish {s : State} {ends : Bool} (hs : s.Canon) : (s.finish ends).Canon := .same hs (State.mem_finish ..)

theorem State.Canon.finishAt {s : State} {ends : Bool} {f : Nat → W64} (hs : s.Canon) : (s.finishAt ends f).Canon :=
  .same hs (State.mem_finishAt ..)

theorem Out.Canon.next {s : State} (hs : s.Canon) : Out.Canon (s.next) := hs.finish.next

theorem Out.Canon.nextEnds {s : State} (hs : s.Canon) : Out.Canon (s.nextEnds) := hs.finish.next

theorem State.Canon.openWindow {s : State} {la : Nat} {regs : List Reg} {kind : PendKind} {ws : List RegWrite} {fl : Tbl Flg}
    {ecc : Option (LaneMask × W64)} (hs : s.Canon) :
    (s.openWindow la regs kind ws fl ecc).Canon := by
  unfold State.openWindow
  split
  · rename_i s' _ heq
    have h' : s'.Canon := State.Canon.fst hs.takeMisses heq
    extract_lets p s1 base base'
    have h1 : s1.Canon := h'.finish
    have hbase' : base'.Canon := h1.setCur
    exact .same hbase' rfl

theorem State.Canon.results {s : State} {la : Nat} {regs : List Reg} {ws : List RegWrite} {fl : Tbl Flg} (hs : s.Canon) :
    (s.results la regs ws fl).Canon := by
  unfold State.results
  extract_lets G
  exact .ite hs.setCur.finish hs.openWindow

theorem State.Canon.latchWdog {s : State} {c : Nat} (hs : s.Canon) : (s.latchWdog c).Canon := .same hs (State.mem_latchWdog ..)

theorem State.Canon.deliver {s : State} {t g : Nat} {run : List Nat} {pc : W64} {x : TrapRec} (hs : s.Canon) :
    (s.deliver t g run pc x).Canon := by
  unfold State.deliver
  extract_lets T G live n m G0 x' s' base base' h G1 G2
  have h' : s'.Canon := hs.latchWdog
  exact .ite h'.setTeam h'.setTeam

theorem State.Canon.lateTrap {s : State} {t g : Nat} {p : Pend} {cause : Nat} {lanes : LaneMask} {addr : W64} (hs : s.Canon) :
    (s.lateTrap t g p cause lanes addr).Canon := by
  unfold State.lateTrap
  extract_lets G ls s1
  have h1 : s1.Canon := hs.setGang
  clear_value ls
  split
  · exact h1
  · extract_lets run
    exact h1.deliver

theorem State.Canon.completeData {s : State} {t g : Nat} (hs : s.Canon) : (s.completeData t g).Canon := by
  unfold State.completeData
  extract_lets G
  exact hs.setGang.chargeMisses

theorem State.Canon.resolveMisses {s : State} {t : Nat} (hs : s.Canon) : (s.resolveMisses t).Canon := by
  unfold State.resolveMisses
  exact .foldl hs (fun _ _ h' => h'.chargeMisses)

theorem State.Canon.takeLate {s : State} {t g : Nat} {p : Pend} (hs : s.Canon) : (s.takeLate t g p).Canon := by
  unfold State.takeLate
  split
  · exact hs.chargeMisses.lateTrap
  · exact hs

theorem State.Canon.trapRun {s : State} {x : TrapRec} (hs : s.Canon) : (s.trapRun x).Canon := by
  unfold State.trapRun
  extract_lets s1 G G1 base
  have h1 : s1.Canon := hs.completeData
  have hbase : base.Canon := h1.setCur.deliver
  refine .ite h1.setCur ?_
  split
  · extract_lets base'
    have hbase' : base'.Canon := h1.takeLate
    exact .same hbase' rfl
  · exact .same hbase rfl

theorem Out.Canon.runWord {i : Instr} {s : State} {body : State → Out} (hs : s.Canon) (hbody : ∀ x0, x0.Canon → Out.Canon (body x0)) :
    Out.Canon (runWord i s body) := by
  unfold Machine.runWord
  refine .ite (.hold hs) ?_
  split
  · exact hs.trapRun.next
  · exact hbody _ hs

theorem State.Canon.trapAllRun {s : State} {i : Instr} {c : Nat} {addr : W64} (hs : s.Canon) : (s.trapAllRun i c addr).Canon :=
  .same hs (State.mem_trapAllRun ..)

theorem State.Canon.trapLanes {s : State} {i : Instr} {ls : List Nat} {c : Nat} {addr : W64} (hs : s.Canon) :
    (s.trapLanes i ls c addr).Canon :=
  .same hs (State.mem_trapLanes ..)

theorem State.Canon.checkMapped {s : State} {t g : Nat} {va : W64} {acc : Access} (hs : s.Canon) :
    (s.checkMapped t g va acc).1.Canon := by
  unfold State.checkMapped
  extract_lets T G page
  refine .iteFst hs ?_
  split
  · rename_i heq
    exact State.Canon.fst hs.translateAt heq
  · rename_i heq
    exact State.Canon.fst hs.translateAt heq
  · rename_i heq
    exact State.Canon.fst hs.translateAt heq

theorem State.Canon.checkImage {s : State} {t g : Nat} {va : W64} {sz : Nat} {acc : Access} (hs : s.Canon) :
    (s.checkImage t g va sz acc).1.Canon := by
  unfold State.checkImage
  extract_lets n
  split
  · rename_i s2 _ heq
    have h2 : s2.Canon := State.Canon.fst hs.checkMapped heq
    refine .iteFst h2 ?_
    split
    · rename_i heq'
      exact State.Canon.fst h2.checkMapped heq'
    · exact h2.checkMapped
  · exact hs.checkMapped

theorem State.Canon.checkAccess {s : State} {t g : Nat} {sp : Space} {a : ℤ} {sz : Nat} {acc : Access} (hs : s.Canon) :
    (s.checkAccess t g sp a sz acc).1.Canon := by
  unfold State.checkAccess
  extract_lets T va
  split
  · exact .iteFst hs (.iteFst hs hs.checkMapped)
  · exact .iteFst hs (.iteFst hs hs)
  · exact .iteFst hs (.iteFst hs hs)
  · exact .iteFst hs (.iteFst hs (.iteFst (.iteFst hs hs.checkImage) (.iteFst hs hs.checkImage)))

theorem State.Canon.checkLanes {s : State} {t g : Nat} {sp : Space} {sz : Nat} {acc : Access} {ls : List (Nat × ℤ)} (hs : s.Canon) :
    (s.checkLanes t g sp sz acc ls).st.Canon := by
  unfold State.checkLanes
  refine .foldlSt hs (fun C q hC => ?_)
  split
  · rename_i heq
    exact State.Canon.fst hC.checkAccess heq
  · rename_i heq
    exact State.Canon.fst hC.checkAccess heq
  · rename_i heq
    exact State.Canon.fst hC.checkAccess heq

theorem State.Canon.requestAll {s : State} {c : Nat} {keys : List (PageKey × Access)} (hs : s.Canon) :
    (s.requestAll c keys).1.Canon := by
  unfold State.requestAll
  refine .foldlFst hs (fun r k hr => ?_)
  split
  · rename_i heq
    exact State.Canon.fst hr.requestPage heq
  · rename_i heq
    exact State.Canon.fst hr.requestPage heq

theorem State.Canon.stallFor {s : State} {t g : Nat} {keys : List ((PageKey × Access) × W64)} (hs : s.Canon) :
    (s.stallFor t g keys).Canon := by
  unfold State.stallFor
  extract_lets r s1
  have hr : r.1.Canon := hs.requestAll
  have h1 : s1.Canon := hr.modGang
  exact .ite h1 (.same h1 rfl)

theorem State.Canon.stall {s : State} {t g : Nat} {acc : Access} {keys : List (PageKey × W64)} (hs : s.Canon) :
    (s.stall t g acc keys).Canon :=
  hs.stallFor

theorem Out.Canon.settle {C : Checked} {i : Instr} {acc : Access} {all : Option (List Nat)} {body : State → List (Nat × Loc) → Out}
    (hC : C.st.Canon) (hbody : ∀ x0 x1, x0.Canon → Out.Canon (body x0 x1)) :
    Out.Canon (C.settle i acc all body) := by
  unfold Machine.Checked.settle
  extract_lets c a causes
  exact .ite (hbody _ _ hC) (.ite hC.stall.next hC.trapRun.next)

theorem State.Canon.loadMem {s : State} {t g pa n : Nat} {fresh : Bool} (hs : s.Canon) : (s.loadMem t g pa n fresh).1.Canon := by
  unfold State.loadMem
  extract_lets T G s1
  have h1 : s1.Canon := hs.touch
  refine .iteFst h1 ?_
  split
  · rename_i heq
    exact State.Canon.fst hs.remoteRead heq

theorem State.Canon.loadLoc {s : State} {t g : Nat} {l : Loc} {n : Nat} {fresh : Bool} (hs : s.Canon) :
    (s.loadLoc t g l n fresh).1.Canon := by
  unfold State.loadLoc
  extract_lets T G
  split
  · exact hs.loadMem
  · extract_lets r q
    have hr : r.1.Canon := hs.loadMem
    exact hr.loadMem
  · extract_lets bs
    exact .iteFst hs.modCore hs
  · exact hs
  · exact hs

theorem State.Canon.mayReread {s : State} {la : BitVec 4} {m : MemOp} {vec sgn : Bool} {locs : List (Nat × Loc)} (hs : s.Canon) :
    (s.mayReread la m vec sgn locs).Canon := by
  unfold State.mayReread
  extract_lets ps n whole late G
  exact .ite hs hs.setCur

theorem State.Canon.reread {s : State} {t g : Nat} {p : Pend} (hs : s.Canon) : (s.reread t g p).Canon := by
  unfold State.reread
  split
  · exact hs
  · exact .ite (.modGang (.same hs rfl)) (.same hs rfl)

theorem State.Canon.enqueue {s : State} {t g : Nat} {ws : SqEntry} (hs : s.Canon) : (s.enqueue t g ws).Canon :=
  .same hs (State.mem_enqueue ..)

theorem State.Canon.putMem {s : State} {pa : Nat} {bs : List Byte} (hs : s.Canon) : (s.putMem pa bs).Canon :=
  .of_wf (wf_writeBytes hs _ _)

theorem State.Canon.putScratchCells {s : State} {t : Nat} {cells : List Host.Cell} (hs : s.Canon) :
    (s.putScratchCells t cells).Canon := by
  unfold State.putScratchCells
  exact .foldl hs.modTeam (fun _ _ h' => h'.wakeScratch)

theorem State.Canon.putScratch {s : State} {t a : Nat} {bs : List Byte} (hs : s.Canon) : (s.putScratch t a bs).Canon :=
  hs.modTeam.wakeScratch

theorem State.Canon.putShadow {s : State} {t : Nat} {cells : List Host.Cell} (hs : s.Canon) : (s.putShadow t cells).Canon := hs.modTeam

theorem State.Canon.leaveLine {s : State} {core ctx line : Nat} {cells : List Host.Cell} (hs : s.Canon) :
    (s.leaveLine core ctx line cells).Canon := by
  unfold State.leaveLine
  extract_lets s1 w base
  have h1 : s1.Canon := .foldl hs (fun _ _ h' => h'.sendWrite)
  have hbase : base.Canon := hs.inject.modCore.fly
  exact .ite h1.putBytes.wakeLine.wakeSpilled (.same hbase rfl)

theorem State.Canon.leaveQueue {s : State} {core t : Nat} {e : SqEntry} (hs : s.Canon) : (s.leaveQueue core t e).Canon := by
  unfold State.leaveQueue
  refine .foldl hs (fun s' tgt h' => ?_)
  split
  · exact h'.putScratchCells
  · exact h'.modCore
  · exact .foldl h' (fun _ _ h'' => h''.leaveLine)

theorem State.Canon.drainOne {s : State} {t g : Nat} (hs : s.Canon) : (s.drainOne t g).Canon := by
  unfold State.drainOne
  extract_lets G
  split
  · exact hs
  · exact hs.setGang.leaveQueue

theorem State.Canon.drainAll {s : State} {t g : Nat} (hs : s.Canon) : (s.drainAll t g).Canon := by
  unfold State.drainAll
  exact .foldl hs (fun _ _ h' => h'.drainOne)

end Sys2Proof.Machine
end

section
/-! What is defined in Machine/Memory.lean keeps memory in canonical form. -/

namespace Sys2Proof.Machine

theorem Out.Canon.endLoad {s : State} {i : Instr} {la : BitVec 4} {regs : List Reg} {ws : List RegWrite} {bad : List Nat} {addr : W64}
    {again : optParam (State → State) id} (hs : s.Canon) (hagain : ∀ x0, x0.Canon → (again x0).Canon) :
    Out.Canon (s.endLoad i la regs ws bad addr again) := by
  unfold State.endLoad
  exact .ite (hagain _ hs.results).next (.ite hs.trapLanes.next hs.openWindow.next)

theorem State.Canon.later {s : State} {la : BitVec 4} {locs : List (Nat × Loc)} (hs : s.Canon) : (s.later la locs).Canon := by
  unfold State.later
  exact .ite hs hs.holdMisses

theorem Out.Canon.loadWord {i : Instr} {g : Grd} {la : BitVec 4} {m : MemOp} {sgn contig : Bool} {s : State} (hs : s.Canon) :
    Out.Canon (loadWord i g la m sgn contig s) := by
  unfold Machine.loadWord
  refine .runWord hs (fun s' h' => ?_)
  extract_lets ls
  refine .settle h'.checkLanes ((fun s'' locs h'' => .endLoad (.foldlFst h''.later (fun r q hr => ?_)) (fun _ h''' => h'''.mayReread)))
  split
  · rename_i heq
    exact State.Canon.fst hr.loadLoc heq

theorem Out.Canon.execLd {g : Grd} {la : BitVec 4} {m : MemOp} {s : State} (hs : s.Canon) : Out.Canon (execLd g la m s) := .loadWord hs

theorem Out.Canon.execLdSigned {g : Grd} {la : BitVec 4} {m : MemOp} {s : State} (hs : s.Canon) :
    Out.Canon (execLdSigned g la m s) :=
  .loadWord hs

theorem Out.Canon.execLdv {g : Grd} {la : BitVec 4} {m : MemOp} {s : State} (hs : s.Canon) : Out.Canon (execLdv g la m s) :=
  .loadWord hs

theorem Out.Canon.loadScalar {i : Instr} {g : Grd} {la : BitVec 4} {m : MemOp} {sgn : Bool} {s : State} (hs : s.Canon) :
    Out.Canon (loadScalar i g la m sgn s) := by
  unfold Machine.loadScalar
  refine .runWord hs (fun s' h' => ?_)
  split
  · exact .next h'
  · refine .settle h'.checkLanes ((fun s'' locs h'' => .endLoad (.foldlFst h''.later (fun r q' hr => ?_))
      (fun _ h''' => h'''.mayReread)))
    split
    · rename_i heq'
      exact State.Canon.fst hr.loadLoc heq'

theorem Out.Canon.execLds {g : Grd} {la : BitVec 4} {m : MemOp} {s : State} (hs : s.Canon) : Out.Canon (execLds g la m s) :=
  .loadScalar hs

theorem Out.Canon.execLdsSigned {g : Grd} {la : BitVec 4} {m : MemOp} {s : State} (hs : s.Canon) :
    Out.Canon (execLdsSigned g la m s) :=
  .loadScalar hs

theorem Out.Canon.storeWord {i : Instr} {g : Grd} {m : MemOp} {contig : Bool} {s : State} (hs : s.Canon) :
    Out.Canon (storeWord i g m contig s) := by
  unfold Machine.storeWord
  refine .runWord hs ((fun s' h' => .ite (.hold h') (.settle h'.checkLanes (fun s'' locs h'' => ?_))))
  extract_lets ws
  exact .next h''.enqueue

theorem Out.Canon.execSt {g : Grd} {m : MemOp} {s : State} (hs : s.Canon) : Out.Canon (execSt g m s) := .storeWord hs

theorem Out.Canon.execStv {g : Grd} {m : MemOp} {s : State} (hs : s.Canon) : Out.Canon (execStv g m s) := .storeWord hs

theorem Out.Canon.execSts {g : Grd} {m : MemOp} {s : State} (hs : s.Canon) : Out.Canon (execSts g m s) := by
  unfold Machine.execSts
  refine .runWord hs (fun s' h' => .ite (.hold h') ?_)
  split
  · exact h'.finish.next
  · refine .settle h'.checkLanes (fun s'' locs h'' => ?_)
    extract_lets ws
    exact .next h''.enqueue

theorem Out.Canon.gatherLane {i : Instr} {m : MemOp} {acc : Access} {s : State} {l : Nat} {body : State → Loc → Out} (hs : s.Canon)
    (hbody : ∀ x0 x1, x0.Canon → Out.Canon (body x0 x1)) :
    Out.Canon (gatherLane i m acc s l body) := by
  unfold Machine.gatherLane
  extract_lets a base s0
  have h0 : s0.Canon := hs.setCur
  refine .settle h0.checkLanes (fun s' locs h' => ?_)
  split
  · exact h'.next
  · exact hbody _ _ h'

theorem Out.Canon.gatherWord {i : Instr} {g : Grd} {la : BitVec 4} {m : MemOp} {sgn : Bool} {s : State} (hs : s.Canon) :
    Out.Canon (gatherWord i g la m sgn s) := by
  unfold Machine.gatherWord
  refine .runWord hs (fun s' h' => ?_)
  extract_lets base
  split
  · exact .next h'.setCur
  · refine .gatherLane h' (fun s'' loc h'' => ?_)
    split
    · rename_i s1 fst heq'
      have h1 : s1.Canon := State.Canon.fst h''.loadLoc heq'
      exact h1.trapLanes.next
    · rename_i s1 _ heq'
      have h1 : s1.Canon := State.Canon.fst h''.loadLoc heq'
      extract_lets G
      exact .ite h1.setCur.results.next h1.setCur.next

theorem Out.Canon.execGath {g : Grd} {la : BitVec 4} {m : MemOp} {s : State} (hs : s.Canon) : Out.Canon (execGath g la m s) :=
  .gatherWord hs

theorem Out.Canon.execGathSigned {g : Grd} {la : BitVec 4} {m : MemOp} {s : State} (hs : s.Canon) :
    Out.Canon (execGathSigned g la m s) :=
  .gatherWord hs

theorem Out.Canon.execScat {g : Grd} {m : MemOp} {s : State} (hs : s.Canon) : Out.Canon (execScat g m s) := by
  unfold Machine.execScat
  refine .runWord hs (fun s' h' => ?_)
  extract_lets started base
  refine .ite (.hold h') ?_
  split
  · exact h'.setCur.finish.next
  · refine .gatherLane h' (fun s'' loc h'' => ?_)
    extract_lets ws G
    exact .ite h''.setCur.finish.next h''.setCur.next

theorem State.Canon.prefetchLine {s : State} {core ctx line : Nat} {toL1 : Bool} (hs : s.Canon) :
    (s.prefetchLine core ctx line toL1).Canon := by
  unfold State.prefetchLine
  refine .ite ?_ ?_
  · split
    · exact hs
    · exact hs.sliceRead.surcharge
  · split
    · exact hs.inject.recent
    · exact hs.settleEndpoint.inject.fill.freeBypass

theorem State.Canon.prefetchLane {s : State} {m : MemOp} {a : ℤ} (hs : s.Canon) : (s.prefetchLane m a).Canon := by
  unfold State.prefetchLane
  split
  · rename_i s1 _ heq
    have h1 : s1.Canon := State.Canon.fst hs.checkAccess heq
    exact .ite h1.prefetchLine h1
  · rename_i heq
    exact State.Canon.fst hs.checkAccess heq

theorem Out.Canon.execPrf {g : Grd} {m : MemOp} {s : State} (hs : s.Canon) : Out.Canon (execPrf g m s) := by
  unfold Machine.execPrf
  exact .runWord hs ((fun _ h' => .next (.foldl h' (fun _ _ h'' => h''.prefetchLane))))

theorem Out.Canon.execLoadDataReturn {team gang id : Nat} {s : State} (hs : s.Canon) :
    Out.Canon (execLoadDataReturn team gang id s) := by
  unfold Machine.execLoadDataReturn
  extract_lets G s1
  have h1 : s1.Canon := hs.completeData
  split
  · exact hs.next
  · extract_lets s1'
    have h1' : s1'.Canon := hs.reread
    split
    · exact h1'.setGang.chargeMisses.next
    · exact .ite h1.next h1.takeLate.next

end Sys2Proof.Machine
end

section
/-! What is defined in Machine/Sync.lean keeps memory in canonical form. -/

namespace Sys2Proof.Machine

theorem State.Canon.parkWith {s : State} {ends : Bool} {act : List Nat} {w : Nat → WaitOn} (hs : s.Canon) :
    (s.parkWith ends act w).Canon := by
  unfold State.parkWith
  extract_lets s1
  have h1 : s1.Canon := by
    unfold s1
    split
    · exact .ite hs.setCur hs
    · exact hs.finishAt
  exact .ite hs.finish h1.setCur

theorem State.Canon.park {s : State} {act : List Nat} {w : Nat → WaitOn} (hs : s.Canon) : (s.park act w).Canon := hs.parkWith

theorem State.Canon.setBar {s : State} {t n : Nat} {B : Bar} (hs : s.Canon) : (s.setBar t n B).Canon := hs.modTeam

theorem State.Canon.freeBar {s : State} {t n : Nat} (hs : s.Canon) : (s.freeBar t n).Canon := by
  unfold State.freeBar
  refine .foldl hs ?_
  intro s' p h'
  extract_lets G
  refine .ite h' (.ite h'.setGang ?_)
  split
  rename_i s1 heq
  have h1 : s1.Canon := State.Canon.snd h'.free heq
  exact .ite h1.setGang h1.setGang

theorem State.Canon.freeDelayed {s : State} (hs : s.Canon) : s.freeDelayed.Canon := hs.mapTeams

theorem State.Canon.tryFlip {s : State} {t n : Nat} (hs : s.Canon) : (s.tryFlip t n).Canon := by
  unfold State.tryFlip
  extract_lets T B e had T1 s1
  have h1 : s1.Canon := hs.setTeam
  exact .ite (.ite hs.setTeam.freeBar (.ite h1.requeue h1)) hs

theorem State.Canon.askFlip {s : State} {t n : Nat} (hs : s.Canon) : (s.askFlip t n).Canon := by
  unfold State.askFlip
  exact .ite hs (.same hs rfl)

theorem State.Canon.settleBars {s : State} (hs : s.Canon) : s.settleBars.Canon := by
  unfold State.settleBars
  exact .foldl (.same hs rfl) (fun _ _ h' => h'.tryFlip)

theorem State.Canon.arrive {s : State} {n : Nat} {act : List Nat} {cnt : Option Nat} (hs : s.Canon) : (s.arrive n act cnt).Canon := by
  unfold State.arrive
  extract_lets t g B B1 B2
  exact hs.setBar

theorem State.Canon.barsAfterExit {s : State} {t g : Nat} (hs : s.Canon) : (s.barsAfterExit t g).Canon := by
  unfold State.barsAfterExit
  refine .foldl hs (fun s' n h' => ?_)
  extract_lets B s1
  have h1 : s1.Canon := .ite h' h'.setBar
  exact h1.askFlip

theorem Out.Canon.execBarSync {g : Grd} {n : BitVec 8} {cnt : Option (BitVec 8)} {s : State} (hs : s.Canon) :
    Out.Canon (execBarSync g n cnt s) := by
  unfold Machine.execBarSync
  refine .runWord hs (fun s' h' => ?_)
  extract_lets act
  exact .ite h'.finish.next (.ite h'.trapLanes.next (.ite (.hold h') h'.arrive.park.askFlip.next))

theorem Out.Canon.execBarArv {g : Grd} {n : BitVec 8} {cnt : Option (BitVec 8)} {s : State} (hs : s.Canon) :
    Out.Canon (execBarArv g n cnt s) := by
  unfold Machine.execBarArv
  refine .runWord hs (fun s' h' => ?_)
  extract_lets act
  exact .ite h'.finish.next (.ite h'.trapLanes.next (.ite (.hold h') h'.arrive.finish.askFlip.next))

theorem Out.Canon.execBarWait {g : Grd} {n : BitVec 8} {s : State} (hs : s.Canon) : Out.Canon (execBarWait g n s) := by
  unfold Machine.execBarWait
  refine .runWord hs (fun s' h' => ?_)
  extract_lets B
  exact .ite h'.park.next h'.finish.next

theorem State.Canon.addPend {s : State} {t n : Nat} {x : BitVec 32} (hs : s.Canon) : (s.addPend t n x).Canon := by
  unfold State.addPend
  extract_lets base
  exact hs.setBar.askFlip

theorem State.Canon.subPend {s : State} {t n : Nat} {x : BitVec 32} (hs : s.Canon) : (s.subPend t n x).Canon := by
  unfold State.subPend
  exact .ite hs hs.addPend

theorem Out.Canon.execBarBytes {g : Grd} {n b : BitVec 8} {s : State} (hs : s.Canon) : Out.Canon (execBarBytes g n b s) := by
  unfold Machine.execBarBytes
  exact .runWord hs (fun _ h' => .ite h'.finish.next h'.finish.addPend.next)

theorem State.Canon.armAndLoad {s : State} {t g : Nat} {l : Loc} {n : Nat} (hs : s.Canon) : (s.armAndLoad t g l n).1.Canon := by
  unfold State.armAndLoad
  split
  · rename_i s1 _ _ heq
    have h1 : s1.Canon := State.Canon.fst hs.loadLoc heq
    extract_lets s2
    have h2 : s2.Canon := by
      unfold s2
      split
      · exact .ite h1.monitorL1 h1
      · exact h1
    exact h2

theorem State.Canon.armAll {s : State} {t g n : Nat} {locs : List (Nat × Loc)} (hs : s.Canon) : (s.armAll t g n locs).1.Canon := by
  unfold State.armAll
  refine .foldlFst hs (fun r q hr => ?_)
  split
  · rename_i heq
    exact State.Canon.fst hr.armAndLoad heq

theorem State.Canon.wakeGone {s : State} {core : Nat} {lines : List Nat} (hs : s.Canon) : (s.wakeGone core lines).Canon := by
  unfold State.wakeGone
  exact .foldl hs (fun _ _ h' => .ite h'.wakeLost h')

theorem Out.Canon.waitWord {i : Instr} {g : Grd} {wide scr : Bool} {a b : Opd} {timed : Option (BitVec 8 × BitVec 8)} {s : State}
    (hs : s.Canon) :
    Out.Canon (waitWord i g wide scr a b timed s) := by
  unfold Machine.waitWord
  refine .runWord hs (fun s' h' => ?_)
  extract_lets act ls
  refine .settle h'.checkLanes (fun s'' locs h'' => ?_)
  split
  · rename_i s1 _ heq
    have h1 : s1.Canon := State.Canon.fst h''.armAll heq
    extract_lets G same lines
    split
    · exact h1.trapLanes.next
    · split
      · exact h1.park.wakeGone.next
      · extract_lets period sleep out s2
        have h2 : s2.Canon := h1.setCur
        exact h2.park.wakeGone.next

theorem Out.Canon.execWaitA {g : Grd} {wide scr : Bool} {a b : Opd} {s : State} (hs : s.Canon) :
    Out.Canon (execWaitA g wide scr a b s) :=
  .waitWord hs

theorem Out.Canon.execWaitT {g : Grd} {wide scr : Bool} {d : BitVec 8} {a b : Opd} {c : BitVec 8} {s : State} (hs : s.Canon) :
    Out.Canon (execWaitT g wide scr d a b c s) :=
  .waitWord hs

theorem State.Canon.timeOut {s : State} {t g l : Nat} (hs : s.Canon) : (s.timeOut t g l).Canon := by
  unfold State.timeOut
  extract_lets G
  split
  · exact .ite hs.setGang (.ite hs hs.setGang.requeue)
  · exact hs

theorem Out.Canon.execWaitTTimeout {team gang lane : Nat} {s : State} (hs : s.Canon) :
    Out.Canon (execWaitTTimeout team gang lane s) := by
  unfold Machine.execWaitTTimeout
  exact .ite hs.timeOut.next hs.next

theorem State.Canon.timeOuts {s : State} (hs : s.Canon) : s.timeOuts.Canon := by
  unfold State.timeOuts
  exact .foldl hs (fun _ _ h' => .foldl h' (fun _ _ h'' => .foldl h'' (fun _ _ h''' => .ite h'''.timeOut h''')))

theorem Out.Canon.execFence {g : Grd} {y : Scope} {s : State} (hs : s.Canon) : Out.Canon (execFence g y s) := by
  unfold Machine.execFence
  exact .runWord hs (fun _ h' => .ite (.hold h') (.next h'))

theorem State.Canon.atomicAt {s : State} {core ctx pa n : Nat} {f : Nat → Nat} (hs : s.Canon) :
    (s.atomicAt core ctx pa n f).1.Canon := by
  unfold State.atomicAt
  extract_lets s1 x
  have h1 : s1.Canon := hs.sliceOwn
  exact .iteFst (.iteFst h1 h1.putMem.wakeLine.wakeSpilled) hs.remoteAtomic

theorem State.Canon.atomLanes {s : State} {n : Nat} {locs : List (Nat × Loc)} {f : Nat → Nat → Nat} (hs : s.Canon) :
    (atomLanes s n locs f).1.Canon := by
  unfold Machine.atomLanes
  refine .foldlFst hs (fun r q hr => ?_)
  split
  · split
    · rename_i heq'
      exact State.Canon.fst hr.atomicAt heq'
  · exact hr

theorem State.Canon.atomAll {s : State} {n : Nat} {locs : List (Nat × Loc)} {f : Nat → Nat → Nat} (hs : s.Canon) :
    (s.atomAll n locs f).1.Canon := by
  unfold State.atomAll
  extract_lets far
  split
  · rename_i s1 _ heq
    have h1 : s1.Canon := State.Canon.fst hs.atomLanes heq
    refine .foldlFst h1 (fun r q hr => ?_)
    split
    · split
      · rename_i heq'
        exact State.Canon.fst hr.atomicAt heq'
    · exact hr
  · exact hs.atomLanes

theorem Out.Canon.atomWord {i : Instr} {wide : Bool} {g : Grd} {la : BitVec 4} {op : AtomOp} {ord : AtomOrd} {y : Scope} {sgn : Bool}
    {d a b c : Opd} {s : State} (hs : s.Canon) : Out.Canon (atomWord i wide g la op ord y sgn d a b c s) := by
  unfold Machine.atomWord
  refine .runWord hs ?_
  intro s' h'
  extract_lets act who t n ls
  refine .ite (.hold h') (.settle h'.checkLanes ?_)
  intro s'' locs h''
  refine .ite (.hold h'') ?_
  extract_lets G bad0 r
  have hr : r.1.Canon := .iteFst h''.later.atomAll h''
  exact .endLoad hr (fun _ h => h)

theorem Out.Canon.execAtom32 {g : Grd} {la : BitVec 4} {op : AtomOp} {ord : AtomOrd} {y : Scope} {sgn : Bool} {d a b c : Opd}
    {s : State} (hs : s.Canon) :
    Out.Canon (execAtom32 g la op ord y sgn d a b c s) :=
  .atomWord hs

theorem Out.Canon.execAtom64 {g : Grd} {la : BitVec 4} {op : AtomOp} {ord : AtomOrd} {y : Scope} {sgn : Bool} {d a b c : Opd}
    {s : State} (hs : s.Canon) :
    Out.Canon (execAtom64 g la op ord y sgn d a b c s) :=
  .atomWord hs

theorem State.Canon.modCopyQ {s : State} {core q : Nat} {f : CopyQueue → CopyQueue} (hs : s.Canon) : (s.modCopyQ core q f).Canon :=
  hs.modCore

theorem State.Canon.clearFault {s : State} {core q : Nat} (hs : s.Canon) : (s.clearFault core q).Canon := by
  unfold State.clearFault
  exact .ite hs.modCopyQ hs

theorem Out.Canon.copyWord {i : Instr} {g : Grd} {q : BitVec 2} {srcScr dstScr : Bool} {a b c : BitVec 8} {desc : Option (BitVec 8)}
    {s : State} (hs : s.Canon) :
    Out.Canon (copyWord i g q srcScr dstScr a b c desc s) := by
  unfold Machine.copyWord
  refine .runWord hs (fun s' h' => ?_)
  extract_lets act G dw e base
  have hbase : base.Canon := h'.modCopyQ
  refine .ite (.next h') ?_
  split
  · exact h'.trapLanes.next
  · split
    · exact h'.trapLanes.clearFault.next
    · exact .ite (.hold h') (.next (.same hbase rfl))

theorem Out.Canon.execCpGs {g : Grd} {q : BitVec 2} {a b c : BitVec 8} {desc : Option (BitVec 8)} {s : State} (hs : s.Canon) :
    Out.Canon (execCpGs g q a b c desc s) :=
  .copyWord hs

theorem Out.Canon.execCpSg {g : Grd} {q : BitVec 2} {a b c : BitVec 8} {desc : Option (BitVec 8)} {s : State} (hs : s.Canon) :
    Out.Canon (execCpSg g q a b c desc s) :=
  .copyWord hs

theorem Out.Canon.execCpGg {g : Grd} {q : BitVec 2} {a b c : BitVec 8} {desc : Option (BitVec 8)} {s : State} (hs : s.Canon) :
    Out.Canon (execCpGg g q a b c desc s) :=
  .copyWord hs

theorem Out.Canon.execCpFence {g : Grd} {y : Scope} {mask : BitVec 8} {desc : Option (BitVec 8)} {s : State} (hs : s.Canon) :
    Out.Canon (execCpFence g y mask desc s) := by
  unfold Machine.execCpFence
  extract_lets qs
  refine .runWord hs (fun s' h' => ?_)
  extract_lets act G dw da e s1 base base'
  have h1 : s1.Canon := .foldl h' (fun _ _ h'' => h''.modCopyQ)
  have hbase' : base'.Canon := h1.setCur
  refine .ite (.next h') (.ite h'.trapLanes.next (.ite h'.trapLanes.next ?_))
  split
  · split
    · exact h'.trapLanes.clearFault.next
    · exact h'.next
  · exact .ite (.hold h') (.next (.same hbase' rfl))

theorem Out.Canon.execCpPoll {g : Grd} {d : BitVec 8} {s : State} (hs : s.Canon) : Out.Canon (execCpPoll g d s) := by
  unfold Machine.execCpPoll
  exact .runWord hs (fun _ h' => .next h'.setCur)

theorem State.Canon.engineLoc {s : State} {t g level : Nat} {scr : Bool} {a : W64} {acc : Access} (hs : s.Canon) :
    (s.engineLoc t g level scr a acc).1.Canon := by
  unfold State.engineLoc
  extract_lets T
  refine .iteFst hs ?_
  split
  · rename_i heq
    exact State.Canon.fst hs.translateAt heq
  · rename_i heq
    exact State.Canon.fst hs.translateAt heq
  · rename_i heq
    exact State.Canon.fst hs.translateAt heq

theorem State.Canon.engineRead {s : State} {core ctx t : Nat} {l : Loc} {n : Nat} {fresh : Bool} (hs : s.Canon) :
    (s.engineRead core ctx t l n fresh).1.Canon := by
  unfold State.engineRead
  split
  · extract_lets s1
    have h1 : s1.Canon := .ite hs.sliceFetch hs
    exact .iteFst h1 hs.remoteRead
  · exact hs
  · exact hs

theorem State.Canon.engineWrite {s : State} {core ctx t : Nat} {l : Loc} {bs : List Byte} {n : Nat} {fresh bad : Bool} (hs : s.Canon) :
    (s.engineWrite core ctx t l bs n fresh bad).Canon := by
  unfold State.engineWrite
  split
  · extract_lets line s1 s2
    have h1 : s1.Canon := .ite hs.settleEndpoint.inject.settleLine.sliceWriteLine hs.settleLine.writtenLine
    have h2 : s2.Canon := h1.putMem
    exact .ite (.ite (.same h2 rfl) h2) hs.remoteWrite
  · extract_lets s1
    have h1 : s1.Canon := hs.putScratch
    exact .ite h1.modTeam h1
  · exact hs

theorem State.Canon.requestWrite {s : State} {core ctx pa : Nat} {bs : List Byte} (hs : s.Canon) :
    (s.requestWrite core ctx pa bs).Canon := by
  unfold State.requestWrite
  extract_lets cells
  refine .foldl hs (fun s' l h' => ?_)
  extract_lets row
  exact .writeHome (.ite h'.inject h')

theorem State.Canon.copyUnits {core t g level : Nat} {srcScr dstScr : Bool} {n : Nat} {s : State} {src dst : W64} {first : Bool}
    (hs : s.Canon) :
    (State.copyUnits core t g level srcScr dstScr n s src dst first).1.Canon := by
  induction n generalizing s src dst first with
  | zero => exact hs
  | succ n ih =>
    unfold State.copyUnits
    split
    · rename_i heq
      exact State.Canon.fst hs.engineLoc heq
    · rename_i heq
      exact State.Canon.fst hs.engineLoc heq
    · rename_i s1 _ heq
      have h1 : s1.Canon := State.Canon.fst hs.engineLoc heq
      split
      · rename_i heq2
        exact State.Canon.fst h1.engineLoc heq2
      · rename_i heq2
        exact State.Canon.fst h1.engineLoc heq2
      · rename_i s2 _ heq2
        have h2 : s2.Canon := State.Canon.fst h1.engineLoc heq2
        extract_lets ctx
        refine .iteFst hs ?_
        split
        rename_i s3 _ _ heq3
        have h3 : s3.Canon := State.Canon.fst h2.engineRead heq3
        extract_lets s4 blocks s5
        have h4 : s4.Canon := h3.engineWrite
        have h5 : s5.Canon := .ite h4 h4.surcharge
        exact ih h5

theorem State.Canon.writeDesc {s : State} {t : Nat} {desc : Option W64} (hs : s.Canon) : (s.writeDesc t desc).Canon := by
  unfold State.writeDesc
  split
  · exact hs.putScratch
  · exact hs

theorem State.Canon.faultQueue {s : State} {core q t g c : Nat} {a : W64} (hs : s.Canon) : (s.faultQueue core q t g c a).Canon := by
  unfold State.faultQueue
  extract_lets gone s1
  have h1 : s1.Canon := hs.modCopyQ
  exact h1.modCore

theorem State.Canon.enterTeam {s : State} {t core : Nat} (hs : s.Canon) : (s.enterTeam t core).Canon := by
  unfold State.enterTeam
  refine .foldl hs (fun s' x h' => ?_)
  extract_lets c
  exact .ite h'.modTeam.modCopyQ h'

theorem State.Canon.enterCopies {s : State} {core : Nat} (hs : s.Canon) : (s.enterCopies core).Canon := by
  unfold State.enterCopies
  exact .foldl hs (fun _ _ h' => .ite h'.enterTeam h')

theorem Out.Canon.execCopyEntryComplete {core q : Nat} {s : State} (hs : s.Canon) : Out.Canon (execCopyEntryComplete core q s) := by
  unfold Machine.execCopyEntryComplete
  split
  · exact hs.next
  · exact .ite (State.Canon.next (.returnMeter (.enterCopies (.foldl hs.writeDesc (fun _ _ h => h.modCopyQ))))) hs.next
  · rename_i t g level srcScr dstScr src dst len _ _ _
    have hu (r : _) : (State.copyUnits core t g level srcScr dstScr (len / 16) s src dst r).1.Canon := hs.copyUnits
    split
    · rename_i heq
      exact ((State.Canon.fst (hu _) heq).writeDesc.modCopyQ.enterCopies.returnMeter).next
    · rename_i heq
      exact ((State.Canon.fst (hu _) heq).faultQueue.enterCopies.returnMeter).next
    · rename_i heq
      exact (State.Canon.fst (hu _) heq).modCopyQ.next
    · rename_i heq
      exact (State.Canon.fst (hu _) heq).requestPage.modCopyQ.next

theorem State.Canon.enterLadle {s : State} {a : W64} {len : Nat} {fin : FillDone} (hs : s.Canon) : (s.enterLadle a len fin).Canon := by
  unfold State.enterLadle
  extract_lets G
  exact hs.modDie

theorem Out.Canon.execLfillBar {g : Grd} {n a b : BitVec 8} {s : State} (hs : s.Canon) : Out.Canon (execLfillBar g n a b s) := by
  unfold Machine.execLfillBar
  refine .runWord hs (fun s' h' => ?_)
  extract_lets act G
  refine .ite (.next h') ?_
  split
  · exact h'.trapLanes.next
  · exact .ite (.hold h') (.next h'.enterLadle)

theorem Out.Canon.execLfillTok {g : Grd} {d a b c : BitVec 8} {s : State} (hs : s.Canon) : Out.Canon (execLfillTok g d a b c s) := by
  unfold Machine.execLfillTok
  refine .runWord hs (fun s' h' => ?_)
  extract_lets act G
  split
  · clear_value act
    split
    · exact .next h'
    · exact h'.trapLanes.next
  · clear_value act
    split
    · exact .next h'
    · refine .settle h'.checkLanes (fun s'' locs h'' => .ite (.hold h'') ?_)
      split
      · exact .next h''.enterLadle
      · exact .next h''

theorem State.Canon.install {s : State} {core ctx line : Nat} (hs : s.Canon) : (s.install core ctx line).Canon := by
  unfold State.install
  extract_lets h
  split
  · exact hs.fill
  · exact hs.modSlice.fill.modSlice

theorem State.Canon.fillLine {s : State} {c : FillCmd} {va : W64} (hs : s.Canon) : (s.fillLine c va).Canon := by
  unfold State.fillLine
  split
  · rename_i s1 _ heq
    have h1 : s1.Canon := State.Canon.fst hs.translateAt heq
    extract_lets line
    refine .ite ?_ h1
    split
    · exact h1.hit
    · exact .ite h1 h1.install
  · rename_i heq
    exact State.Canon.fst hs.translateAt heq

theorem State.Canon.runFill {s : State} {c : FillCmd} (hs : s.Canon) : (s.runFill c).Canon := by
  unfold State.runFill
  exact .ite hs (.foldl hs (fun _ _ h' => h'.fillLine))

theorem Out.Canon.execLfillComplete {die idx : Nat} {s : State} (hs : s.Canon) : Out.Canon (execLfillComplete die idx s) := by
  unfold Machine.execLfillComplete
  extract_lets s0 s1
  have h0 : s0.Canon := .foldl hs (fun _ _ h' => h'.runFill)
  have h1 : s1.Canon := h0.modDie
  split
  · exact hs.next
  · split
    · exact h1.subPend.returnMeter.next
    · exact h1.writeHome.returnMeter.next

theorem Out.Canon.execStoreQueueDrain {team gang : Nat} {s : State} (hs : s.Canon) : Out.Canon (execStoreQueueDrain team gang s) := by
  unfold Machine.execStoreQueueDrain
  exact .ite hs.next hs.drainOne.next

end Sys2Proof.Machine
end

section
/-! What is defined in Machine/Accumulate.lean keeps memory in canonical form. -/

namespace Sys2Proof.Machine

theorem State.Canon.takePort {s : State} {core : Nat} (hs : s.Canon) : (s.takePort core).Canon := hs.modCore

theorem State.Canon.chargePacket {s : State} {core ctx block w : Nat} (hs : s.Canon) : (s.chargePacket core ctx block w).Canon :=
  hs.chargeRaw

theorem State.Canon.unbookEntry {s : State} {core : Nat} {e : Resid} (hs : s.Canon) : (s.unbookEntry core e).Canon := by
  unfold State.unbookEntry
  exact .ite hs.modSlice hs

theorem State.Canon.sendPacket {s : State} {core : Nat} {p : Packet} (hs : s.Canon) : (s.sendPacket core p).Canon := by
  unfold State.sendPacket
  extract_lets n s1 s2
  have h1 : s1.Canon := hs.modCore.inject.chargePacket.fly
  have h2 : s2.Canon := h1.sendSlots.chargeFlits
  exact .ite h1 (.same h2 rfl)

theorem State.Canon.leavePort {s : State} {core : Nat} {a : Addend} (hs : s.Canon) : (s.leavePort core a).1.Canon := by
  unfold State.leavePort
  extract_lets C out ent hk e p
  clear_value ent
  split
  · extract_lets e1 rest full p' s1
    have h1 : s1.Canon := .modCore (.ite hs.unbookEntry hs)
    exact .iteFst hs.modCore (.iteFst (.iteFst hs hs.modCore) (.iteFst hs (.sendPacket (.same h1 rfl))))
  · exact .iteFst hs (.iteFst (.iteFst hs hs.modCore) (.iteFst hs (.sendPacket (.same hs rfl))))

theorem State.Canon.corePort {s : State} {core : Nat} (hs : s.Canon) : (s.corePort core).Canon := by
  unfold State.corePort
  refine .foldlFst hs (fun r x hr => ?_)
  extract_lets a
  refine .iteFst hr ?_
  split
  · rename_i s1 heq
    have h1 : s1.Canon := State.Canon.fst hr.leavePort heq
    exact h1.modGang
  · rename_i heq
    exact State.Canon.fst hr.leavePort heq

theorem State.Canon.startFlush {s : State} {ctx : Nat} {cores : List Nat} (hs : s.Canon) : (s.startFlush ctx cores).Canon := by
  unfold State.startFlush
  extract_lets f s1 s2
  have h1 : s1.Canon := .same hs rfl
  have h2 : s2.Canon := .foldl h1 (fun _ _ h' => h'.modCore)
  exact h2.mapTeams

theorem State.Canon.endFlushes {s : State} (hs : s.Canon) : s.endFlushes.Canon := hs.mapTeams

theorem State.Canon.afterAnswer {s : State} {core ctx : Nat} (hs : s.Canon) : (s.afterAnswer core ctx).Canon :=
  hs.corePort.endFlushes.returnMeter

theorem Out.Canon.accWord {i : Instr} {g : Grd} {op : AccOpc} {a : Opd} {sz : Nat} {slots : Gang → Nat → Nat → Tbl W32} {s : State}
    (hs : s.Canon) :
    Out.Canon (accWord i g op a sz slots s) := by
  unfold Machine.accWord
  refine .runWord hs (fun s' h' => ?_)
  extract_lets ls
  refine .settle h'.checkLanes (fun s'' locs h'' => ?_)
  extract_lets G core ctx xs bs here sent adds base s0 s1 base'
  have hbase : base.Canon := .ite h'' h''.signal
  have h0 : s0.Canon := .same hbase rfl
  have h1 : s1.Canon := .finish (.ite h0 h0.takePort)
  exact .ite (.hold h'') h1.setCur.corePort.next

theorem Out.Canon.execAcc {g : Grd} {op : AccOpc} {a b : Opd} {s : State} (hs : s.Canon) : Out.Canon (execAcc g op a b s) :=
  .accWord hs

theorem Out.Canon.execAccv {g : Grd} {op : AccOpc} {a : Opd} {b : BitVec 8} {s : State} (hs : s.Canon) :
    Out.Canon (execAccv g op a b s) :=
  .accWord hs

theorem Out.Canon.execAccFlush {g : Grd} {y : Scope} {s : State} (hs : s.Canon) : Out.Canon (execAccFlush g y s) := by
  unfold Machine.execAccFlush
  refine .runWord hs (fun s' h' => ?_)
  extract_lets act f s1 s2 s3
  have h1 : s1.Canon := h'.startFlush
  have h2 : s2.Canon := by
    unfold s2
    split
    · exact h1.setCur
    · exact h1.finishAt
  have h3 : s3.Canon := h2.setCur
  exact .ite h'.finish.next h3.setCur.next

theorem Out.Canon.execAccProbe {g : Grd} {la : BitVec 4} {d a : BitVec 8} {s : State} (hs : s.Canon) :
    Out.Canon (execAccProbe g la d a s) := by
  unfold Machine.execAccProbe
  extract_lets i
  refine .runWord hs (fun s' h' => ?_)
  split
  · exact .next h'
  · refine .settle h'.checkLanes (fun s'' locs h'' => ?_)
    extract_lets C block
    exact .ite (.hold h'') h''.results.next

theorem State.Canon.refusalPending {s : State} {line : Nat} (hs : s.Canon) : (s.refusalPending line).Canon := hs.modSlice

theorem State.Canon.acceptPacket {s : State} {core : Nat} {p : Packet} (hs : s.Canon) : (s.acceptPacket core p).Canon := by
  unfold State.acceptPacket
  extract_lets h s1
  have h1 : s1.Canon := hs.modCore
  exact h1.modSlice

theorem State.Canon.bounceBack {s : State} {core : Nat} {p : Packet} (hs : s.Canon) : (s.bounceBack core p).Canon := hs.nextNumber.fly

theorem Out.Canon.execAccumulatePacketArrival {core id : Nat} {s : State} (hs : s.Canon) :
    Out.Canon (execAccumulatePacketArrival core id s) := by
  unfold Machine.execAccumulatePacketArrival
  split
  · exact hs.next
  · extract_lets h S excl p1 s1 s2
    have h1 : s1.Canon := hs.modCore.bounceBack
    have h2 : s2.Canon := .ite h1.refusalPending h1
    exact .ite hs.next (.ite (.ite hs.refusalPending.modCore.next hs.acceptPacket.next)
        (.ite (State.Canon.next (.ite h2.modSlice h2)) hs.acceptPacket.next))

theorem Out.Canon.execAccumulateApply {slice : Nat} {s : State} (hs : s.Canon) : Out.Canon (execAccumulateApply slice s) :=
  hs.applyHead.next

theorem State.Canon.answered {s : State} {core : Nat} {p : Packet} (hs : s.Canon) : (s.answered core p).Canon := by
  unfold State.answered
  extract_lets s1 base
  have h1 : s1.Canon := hs.modCore
  have hbase : base.Canon := h1.chargeFlits
  exact .ite h1 (.same hbase rfl)

theorem Out.Canon.execAccumulateAckArrival {core id : Nat} {s : State} (hs : s.Canon) :
    Out.Canon (execAccumulateAckArrival core id s) := by
  unfold Machine.execAccumulateAckArrival
  split
  · exact hs.next
  · exact hs.answered.afterAnswer.next

theorem Out.Canon.execBounceArrival {core id : Nat} {s : State} (hs : s.Canon) : Out.Canon (execBounceArrival core id s) := by
  unfold Machine.execBounceArrival
  split
  · exact hs.next
  · extract_lets s1 go
    have h1 : s1.Canon := hs.takePort.answered.chargePacket
    have hgo : ∀ booked, Out.Canon (go booked) := by
      intro booked
      unfold go
      extract_lets again s2 e
      have h2 : s2.Canon := .ite h1.modSlice h1
      exact h2.modCore.afterAnswer.next
    split
    · exact hgo _
    · exact .ite hs.next (hgo _)
    · exact hs.next

theorem State.Canon.sendEntry {s : State} {core : Nat} {e : Resid} {granted : Bool} (hs : s.Canon) :
    (s.sendEntry core e granted).Canon := by
  unfold State.sendEntry
  extract_lets p base
  have hbase : base.Canon := hs.takePort.modCore
  exact .sendPacket (.same hbase rfl)

theorem Out.Canon.execResidualRetry {core ctx block : Nat} {s : State} (hs : s.Canon) :
    Out.Canon (execResidualRetry core ctx block s) := by
  unfold Machine.execResidualRetry
  split
  · exact hs.next
  · exact .ite hs.next hs.sendEntry.next

theorem Out.Canon.execGrantedSend {core ctx block : Nat} {s : State} (hs : s.Canon) :
    Out.Canon (execGrantedSend core ctx block s) := by
  unfold Machine.execGrantedSend
  split
  · exact hs.next
  · exact .ite hs.next (.ite (.ite hs.next hs.sendEntry.next)
      (.ite (State.Canon.next (.sendEntry (.same hs rfl))) (State.Canon.next (.same hs rfl))))

theorem Out.Canon.execOwnerRecallDeadline {line : Nat} {s : State} (hs : s.Canon) : Out.Canon (execOwnerRecallDeadline line s) := by
  unfold Machine.execOwnerRecallDeadline
  split
  · exact hs.next
  · split
    · exact hs.sliceWriteBack.next
    · exact hs.next

theorem Out.Canon.execRefusalPendingClear {line : Nat} {s : State} (hs : s.Canon) : Out.Canon (execRefusalPendingClear line s) := by
  unfold Machine.execRefusalPendingClear
  split
  · exact hs.next
  · split
    · exact .ite hs.modSlice.freeBypass.next hs.next
    · exact hs.next

theorem State.Canon.orElse {o : Out} {s : State} (ho : Out.Canon o) (hs : s.Canon) : (o.orElse s).Canon := by
  unfold Out.orElse
  split
  · exact ho _ rfl
  · exact hs

theorem State.Canon.portEvent {s : State} {core : Nat} (hs : s.Canon) : (s.portEvent core).Canon := by
  unfold State.portEvent
  extract_lets C back idle ready
  refine .ite hs ?_
  split
  · exact .orElse (.execBounceArrival hs) hs
  · split
    · exact .ite (.orElse (.execGrantedSend hs) hs) hs.sendEntry
    · exact hs

theorem State.Canon.sliceBounds {s : State} (hs : s.Canon) : s.sliceBounds.Canon := by
  unfold State.sliceBounds
  refine .foldl hs (fun s' q h' => ?_)
  extract_lets s1
  have h1 : s1.Canon := .ite h'.applyHead h'
  refine .foldl h1.modSlice (fun s'' e h'' => ?_)
  split
  · exact h''
  · exact .ite (.orElse (.execRefusalPendingClear h'') h'') (.ite (.orElse (.execOwnerRecallDeadline h'') h'') h'')

end Sys2Proof.Machine
end

section
/-! What is defined in Machine/Cluster.lean keeps memory in canonical form. -/

namespace Sys2Proof.Machine

theorem State.Canon.setGroup {s : State} {T : Team} {X : XGroup} (hs : s.Canon) : (s.setGroup T X).Canon := .same hs rfl

theorem State.Canon.tryExchange {s : State} {T : Team} (hs : s.Canon) : (s.tryExchange T).Canon := by
  unfold State.tryExchange
  extract_lets X ts here s1
  have h1 : s1.Canon := hs.setGroup
  exact .ite h1.mapTeams hs

theorem State.Canon.tryArriveX {s : State} {t : Nat} (hs : s.Canon) : (s.tryArriveX t).Canon := by
  unfold State.tryArriveX
  extract_lets T X s1
  have h1 : s1.Canon := .ite hs.setGroup hs
  exact h1.tryExchange

theorem Out.Canon.execXst {g : Grd} {m : MemOp} {s : State} (hs : s.Canon) : Out.Canon (execXst g m s) := by
  unfold Machine.execXst
  refine .runWord hs ((fun s' h' => .ite h'.trapAllRun.next (.ite (.hold h') (.settle h'.checkLanes (fun s'' locs h'' => ?_)))))
  extract_lets ws
  exact .next h''.enqueue

theorem Out.Canon.execXbar {g : Grd} {s : State} (hs : s.Canon) : Out.Canon (execXbar g s) := by
  unfold Machine.execXbar
  refine .runWord hs (fun s' h' => ?_)
  extract_lets act X k s1
  have h1 : s1.Canon := h'.setGroup
  exact .ite h'.trapAllRun.next (.ite h'.finish.next (.ite (.hold h') h1.park.tryArriveX.next))

theorem Out.Canon.execXpoll {g : Grd} {d : BitVec 8} {s : State} (hs : s.Canon) : Out.Canon (execXpoll g d s) := by
  unfold Machine.execXpoll
  exact .runWord hs (fun _ h' => .ite h'.trapAllRun.next (.next h'.setCur))

theorem Out.Canon.execXstWriteComplete {core : Nat} {s : State} (hs : s.Canon) : Out.Canon (execXstWriteComplete core s) := by
  unfold Machine.execXstWriteComplete
  split
  · exact hs.next
  · extract_lets s1 s2 s3
    have h1 : s1.Canon := hs.modCore
    have h2 : s2.Canon := h1.putShadow
    have h3 : s3.Canon := .ite h2.modTeam h2
    exact .ite h1.tryExchange.next h3.tryExchange.next

theorem State.Canon.setCbar {s : State} {cl : Nat} {T : Team} {E : CbarEntry} (hs : s.Canon) : (s.setCbar cl T E).Canon :=
  hs.modCluster

theorem State.Canon.tryCbar {s : State} {cl : Nat} {T : Team} {gone : Option Nat} (hs : s.Canon) : (s.tryCbar cl T gone).Canon := by
  unfold State.tryCbar
  extract_lets E ms
  exact .ite (.foldl hs.setCbar (fun _ _ h' => h'.modTeam)) hs

theorem Out.Canon.execCbar {g : Grd} {d : BitVec 8} {s : State} (hs : s.Canon) : Out.Canon (execCbar g d s) := by
  unfold Machine.execCbar
  refine .runWord hs (fun s' h' => ?_)
  extract_lets act cl E k s1
  have h1 : s1.Canon := h'.setCbar
  exact .ite h'.finish.next (.ite (.hold h') h1.park.tryCbar.next)

theorem State.Canon.leaveCbar {s : State} {t : Nat} (hs : s.Canon) : (s.leaveCbar t).Canon := by
  unfold State.leaveCbar
  extract_lets T cl E
  exact .ite hs.setCbar.tryCbar hs

theorem State.Canon.afterExit {s : State} {t g : Nat} (hs : s.Canon) : (s.afterExit t g).Canon := by
  unfold State.afterExit
  extract_lets s1 T s2
  have h1 : s1.Canon := hs.barsAfterExit
  have h2 : s2.Canon := .ite h1 h1.tryArriveX
  exact .ite h2.tryCbar h2

theorem State.Canon.settleGroups {s : State} (hs : s.Canon) : s.settleGroups.Canon := by
  unfold State.settleGroups
  extract_lets s1
  have h1 : s1.Canon := by
    unfold s1
    refine .foldl hs (fun s' X h' => .ite h' ?_)
    split
    · exact h'.tryExchange
    · exact h'
  refine .foldl h1 (fun s' c h' => .foldl h' (fun s'' E h'' => .ite h'' ?_))
  split
  · exact h''.tryCbar
  · exact h''

end Sys2Proof.Machine
end

section
/-! What is defined in Machine/Control.lean keeps memory in canonical form. -/

namespace Sys2Proof.Machine

theorem Out.Canon.execNop {g : Grd} {s : State} (hs : s.Canon) : Out.Canon (execNop g s) := by
  unfold Machine.execNop
  exact .runWord hs (fun _ h' => .next h')

theorem State.Canon.branch {s : State} {ends : Bool} {act : List Nat} {target : Nat → W64} (hs : s.Canon) :
    (s.branch ends act target).Canon :=
  hs.finishAt

theorem Out.Canon.execBra {g : Grd} {off : BitVec 32} {s : State} (hs : s.Canon) : Out.Canon (execBra g off s) := by
  unfold Machine.execBra
  exact .runWord hs (fun _ h' => h'.branch.next)

theorem Out.Canon.execBrx {g : Grd} {a : Opd} {s : State} (hs : s.Canon) : Out.Canon (execBrx g a s) := by
  unfold Machine.execBrx
  exact .runWord hs (fun _ h' => h'.branch.next)

theorem State.Canon.checkStack {s : State} {t g : Nat} {accs : List StackAcc} (hs : s.Canon) : (s.checkStack t g accs).1.Canon := by
  induction accs generalizing s with
  | nil => exact hs
  | cons a rest ih =>
    unfold State.checkStack
    split
    · rename_i heq
      exact State.Canon.fst hs.checkAccess heq
    · rename_i s1 _ _ heq
      have h1 : s1.Canon := State.Canon.fst hs.checkAccess heq
      refine .iteFst ?_ h1
      split
      · rename_i heq2
        exact State.Canon.fst (ih h1) heq2
      · rename_i heq2
        exact State.Canon.fst (ih h1) heq2
      · rename_i heq2
        exact State.Canon.fst (ih h1) heq2
    · rename_i s1 _ heq
      have h1 : s1.Canon := State.Canon.fst hs.checkAccess heq
      extract_lets pa
      split
      · rename_i heq2
        exact State.Canon.fst (ih h1) heq2
      · exact ih h1

theorem Out.Canon.withStack {i : Instr} {act : List Nat} {accs : List StackAcc} {entries : Nat} {s : State}
    {body : State → List Nat → Out} (hs : s.Canon) (hbody : ∀ x0 x1, x0.Canon → Out.Canon (body x0 x1)) :
    Out.Canon (withStack i act accs entries s body) := by
  unfold Machine.withStack
  refine .ite (hbody _ _ hs) (.ite hs.trapLanes.next (.ite (.hold hs) ?_))
  split
  · rename_i s1 _ heq
    have h1 : s1.Canon := State.Canon.fst hs.checkStack heq
    exact hbody _ _ h1
  · rename_i s1 _ _ heq
    have h1 : s1.Canon := State.Canon.fst hs.checkStack heq
    exact h1.trapLanes.next
  · rename_i s1 _ heq
    have h1 : s1.Canon := State.Canon.fst hs.checkStack heq
    exact h1.stallFor.next

theorem State.Canon.readStack {s : State} {t g n : Nat} {pas : List (W64 × Nat)} (hs : s.Canon) : (s.readStack t g n pas).1.Canon := by
  unfold State.readStack
  refine .foldlFst hs (fun r q hr => ?_)
  split
  · rename_i heq
    exact State.Canon.fst hr.loadLoc heq

theorem State.Canon.chargeStack {s : State} {lines : Nat} (hs : s.Canon) : (s.chargeStack lines).Canon := by
  unfold State.chargeStack
  exact .ite hs hs.surcharge

theorem Out.Canon.moveFrames {i : Instr} {act : List Nat} {d1 : Nat} {exited : Bool} {s : State} {fillAt : List (Nat × W64 × Nat)}
    {spillAt : List (Nat × Nat)} {upd : State → State} (hs : s.Canon) (hupd : ∀ x0, x0.Canon → (upd x0).Canon) :
    Out.Canon (moveFrames i act d1 exited s fillAt spillAt upd) := by
  unfold Machine.moveFrames
  extract_lets js sj
  split
  · rename_i s1 _ _ heq
    have h1 : s1.Canon := State.Canon.fst hs.readStack heq
    extract_lets G G1 s2 G2 s3 keep base s4
    have h2 : s2.Canon := hupd _ h1.setCur
    have h3 : s3.Canon := by
      unfold s3
      refine .foldl h2 (fun s' j h' => ?_)
      extract_lets lines
      exact h'.enqueue
    have h4 : s4.Canon := h3.setCur.chargeStack
    split
    · exact h1.trapLanes.next
    · exact State.Canon.next (.ite h4.afterExit h4)

theorem Out.Canon.callWord {i : Instr} {g : Grd} {target : Gang → Nat → W64} {s : State} (hs : s.Canon) :
    Out.Canon (callWord i g target s) := by
  unfold Machine.callWord
  refine .runWord hs (fun s' h' => ?_)
  extract_lets act G d0 d1 direct spills accs
  refine .ite h'.trapLanes.next (.withStack h' (fun s'' pas h'' => ?_))
  extract_lets ret own places
  refine .moveFrames h'' (fun s''' h''' => ?_)
  extract_lets G1 s1
  have h1 : s1.Canon := h'''.setCur.enqueue
  exact h1.branch

theorem Out.Canon.execCall {g : Grd} {off : BitVec 32} {s : State} (hs : s.Canon) : Out.Canon (execCall g off s) := .callWord hs

theorem Out.Canon.execCallv {g : Grd} {a : Opd} {s : State} (hs : s.Canon) : Out.Canon (execCallv g a s) := .callWord hs

theorem Out.Canon.execRet {g : Grd} {s : State} (hs : s.Canon) : Out.Canon (execRet g s) := by
  unfold Machine.execRet
  extract_lets i
  refine .runWord hs (fun s' h' => ?_)
  extract_lets act G d0 d1 direct fills accs
  refine .ite h'.trapLanes.next (.withStack h' (fun s'' pas h'' => ?_))
  split
  · rename_i s1 _ _ heq
    have h1 : s1.Canon := State.Canon.fst h''.readStack heq
    extract_lets dest
    split
    · exact h1.trapLanes.next
    · exact .moveFrames h1 (fun _ h''' => h'''.setCur.branch)

theorem Out.Canon.execExit {g : Grd} {s : State} (hs : s.Canon) : Out.Canon (execExit g s) := by
  unfold Machine.execExit
  extract_lets i
  refine .runWord hs (fun s' h' => ?_)
  extract_lets act G d0 d1 fills
  refine .ite h'.finish.next (.ite (.hold h') (.withStack h' ((fun s'' pas h'' => .moveFrames h'' (fun s''' h''' => ?_)))))
  extract_lets s1
  have h1 : s1.Canon := h'''.branch
  exact h1.setCur

theorem Out.Canon.maskWord {i : Instr} {g : Grd} {d : BitVec 8} {s : State} {f : Gang → List Nat → W64} (hs : s.Canon) :
    Out.Canon (maskWord i g d s f) := by
  unfold Machine.maskWord
  refine .runWord hs (fun s' h' => ?_)
  extract_lets act s1
  have h1 : s1.Canon := h'.setCur.finish
  exact .ite (.next h') h1.setCur.next

theorem Out.Canon.execJoin {g : Grd} {d : BitVec 8} {s : State} (hs : s.Canon) : Out.Canon (execJoin g d s) := .maskWord hs

theorem Out.Canon.execLeave {g : Grd} {d : BitVec 8} {s : State} (hs : s.Canon) : Out.Canon (execLeave g d s) := .maskWord hs

theorem Out.Canon.execMset {g : Grd} {all : Bool} {d a : BitVec 8} {s : State} (hs : s.Canon) : Out.Canon (execMset g all d a s) :=
  .maskWord hs

theorem Out.Canon.execMand {g : Grd} {d a b : BitVec 8} {s : State} (hs : s.Canon) : Out.Canon (execMand g d a b s) := .maskWord hs

theorem Out.Canon.execMor {g : Grd} {d a b : BitVec 8} {s : State} (hs : s.Canon) : Out.Canon (execMor g d a b s) := .maskWord hs

theorem Out.Canon.execMfromk {g : Grd} {d a : BitVec 8} {s : State} (hs : s.Canon) : Out.Canon (execMfromk g d a s) := .maskWord hs

theorem Out.Canon.execMmov {g : Grd} {d : Opd} {a : BitVec 8} {s : State} (hs : s.Canon) : Out.Canon (execMmov g d a s) := by
  unfold Machine.execMmov
  exact .ite (.runWord hs (fun _ h' => .next h'.setCur)) (.maskWord hs)

theorem Out.Canon.execMpop {g : Grd} {d a : BitVec 8} {s : State} (hs : s.Canon) : Out.Canon (execMpop g d a s) := by
  unfold Machine.execMpop
  exact .runWord hs (fun _ h' => .next h'.setCur)

theorem Out.Canon.execWaitm {g : Grd} {a : BitVec 8} {s : State} (hs : s.Canon) : Out.Canon (execWaitm g a s) := by
  unfold Machine.execWaitm
  refine .runWord hs (fun s' h' => ?_)
  extract_lets s1
  have h1 : s1.Canon := h'.park
  exact h1.setCur.next

theorem Out.Canon.execYield {g : Grd} {s : State} (hs : s.Canon) : Out.Canon (execYield g s) := by
  unfold Machine.execYield
  refine .runWord hs (fun s' h' => ?_)
  extract_lets act run others s1 base
  have h1 : s1.Canon := h'.finish
  exact State.Canon.next (.ite h1 h1.setCur)

theorem State.Canon.codeLine {s : State} {core ctx pa : Nat} (hs : s.Canon) : (s.codeLine core ctx pa).Canon := by
  unfold State.codeLine
  extract_lets line s1
  have h1 : s1.Canon := hs.free.modCore
  exact .ite hs (.ite h1.sliceFetch.modSlice h1)

theorem State.Canon.codeWord {s : State} {t g pa : Nat} (hs : s.Canon) : (s.codeWord t g pa).1.Canon := by
  unfold State.codeWord
  extract_lets core s' new
  have h' : s'.Canon := hs.codeLine
  refine .iteFst ?_ ?_
  · split
    · exact h'
    · extract_lets old
      exact .iteFst h' h'
  · split
    · rename_i fst heq
      exact State.Canon.fst hs.remoteRead heq
    · rename_i heq
      exact State.Canon.fst hs.remoteRead heq

theorem State.Canon.fetchWord {s : State} {t g : Nat} {va : W64} (hs : s.Canon) : (s.fetchWord t g va).1.Canon := by
  unfold State.fetchWord
  refine .iteFst hs (.iteFst hs ?_)
  split
  · rename_i s1 _ heq
    have h1 : s1.Canon := State.Canon.fst hs.checkMapped heq
    refine .iteFst h1 ?_
    split
    · rename_i heq'
      exact State.Canon.fst h1.codeWord heq'
    · rename_i heq'
      exact State.Canon.fst h1.codeWord heq'
  · rename_i heq
    exact State.Canon.fst hs.checkMapped heq
  · rename_i heq
    exact State.Canon.fst hs.checkMapped heq
  · rename_i heq
    exact State.Canon.fst hs.checkMapped heq

theorem Out.Canon.execRep {cnt : BitVec 6} {sd sa sb sc : BitVec 2} {s : State} (hs : s.Canon) :
    Out.Canon (execRep cnt sd sa sb sc s) := by
  unfold Machine.execRep
  extract_lets i
  refine .runWord hs (fun s' h' => ?_)
  extract_lets G s1
  have h1 : s1.Canon := h'.setCur
  refine .ite h1.finishAt.next ?_
  split
  · rename_i s1' _ heq
    have h1' : s1'.Canon := State.Canon.fst h'.fetchWord heq
    exact h1'.trapAllRun.next
  · rename_i s1' _ heq
    have h1' : s1'.Canon := State.Canon.fst h'.fetchWord heq
    exact h1'.stall.next
  · rename_i s1' _ heq
    have h1' : s1'.Canon := State.Canon.fst h'.fetchWord heq
    extract_lets base
    exact .ite h1'.setCur.next h1'.trapAllRun.next

end Sys2Proof.Machine
end

section
/-! What is defined in Machine/Matrix.lean keeps memory in canonical form. -/

namespace Sys2Proof.Machine

theorem State.Canon.modTile {s : State} {n : Nat} {f : Tile → Tile} (hs : s.Canon) : (s.modTile n f).Canon := by
  unfold State.modTile
  extract_lets k
  exact hs.modTeam

theorem Out.Canon.tileWord {i : Instr} {g : Grd} {s : State} {body : State → List Nat → Out} (hs : s.Canon)
    (hbody : ∀ x0 x1, x0.Canon → Out.Canon (body x0 x1)) :
    Out.Canon (tileWord i g s body) := by
  unfold Machine.tileWord
  exact .runWord hs (fun _ h' => .ite (.next h') (hbody _ _ h'))

theorem Out.Canon.execTcfg {g : Grd} {d a : BitVec 8} {s : State} (hs : s.Canon) : Out.Canon (execTcfg g d a s) := by
  unfold Machine.execTcfg
  refine .tileWord hs (fun s' act h' => ?_)
  extract_lets w
  exact .ite h'.trapLanes.next (.ite (.hold h') (.next h'.modTile))

theorem Out.Canon.execTld {g : Grd} {la : BitVec 4} {sc : Bool} {d a b c : BitVec 8} {s : State} (hs : s.Canon) :
    Out.Canon (execTld g la sc d a b c s) := by
  unfold Machine.execTld
  extract_lets i
  refine .tileWord hs (fun s' act h' => ?_)
  extract_lets G x segs x1
  split
  · exact h'.trapLanes.next
  · refine .ite (.hold h') ?_
    split
    · exact h'.trapLanes.next
    · exact h'.modTile.results.next

theorem State.Canon.readPieces {s : State} {core ctx t : Nat} {ps : List (Seg × Loc)} (hs : s.Canon) :
    (s.readPieces core ctx t ps).1.Canon := by
  unfold State.readPieces
  extract_lets parts r
  have hr : r.1.Canon := by
    unfold r
    refine .foldlFst hs (fun r' q hr' => ?_)
    split
    · rename_i heq
      exact State.Canon.fst hr'.engineRead heq
  exact hr

theorem Out.Canon.execTldg {g : Grd} {la : BitVec 4} {sc : Bool} {bar : Option (BitVec 4)} {d a b c : BitVec 8} {s : State}
    (hs : s.Canon) :
    Out.Canon (execTldg g la sc bar d a b c s) := by
  unfold Machine.execTldg
  extract_lets i
  refine .tileWord hs (fun s' act h' => ?_)
  extract_lets G x segs ps C n
  have hC : C.st.Canon := h'.checkLanes
  split
  · exact h'.trapLanes.next
  · refine .settle hC (fun s'' locs h'' => .ite (.hold h'') ?_)
    split
    · rename_i s1 fst _ heq'
      have h1 : s1.Canon := State.Canon.fst h''.holdMisses.readPieces heq'
      exact h1.takeMisses.chargeMisses.trapLanes.next
    · rename_i s1 _ heq'
      have h1 : s1.Canon := State.Canon.fst h''.holdMisses.readPieces heq'
      extract_lets x1 s2
      have h2 : s2.Canon := h1.modTile
      exact h2.openWindow.next

theorem Out.Canon.execTldgLanding {team gang id : Nat} {s : State} (hs : s.Canon) : Out.Canon (execTldgLanding team gang id s) := by
  unfold Machine.execTldgLanding
  extract_lets T G
  split
  · exact hs.next
  · split
    · extract_lets k base s1
      have h1 : s1.Canon := hs.setTeam.chargeMisses
      split
      · exact h1.subPend.next
      · exact h1.next
    · exact hs.next

theorem Out.Canon.execTst {g : Grd} {sc : Bool} {d a b c : BitVec 8} {s : State} (hs : s.Canon) :
    Out.Canon (execTst g sc d a b c s) := by
  unfold Machine.execTst
  extract_lets i
  refine .tileWord hs (fun s' act h' => ?_)
  extract_lets G x segs parts put
  split
  · exact h'.trapLanes.next
  · exact .ite (.hold h') (.ite h'.trapLanes.next (.next (.foldl h' (fun _ _ h'' => h''.enqueue))))

theorem Out.Canon.execTzero {g : Grd} {d : BitVec 8} {s : State} (hs : s.Canon) : Out.Canon (execTzero g d s) := by
  unfold Machine.execTzero
  exact .tileWord hs (fun _ _ h' => .ite (.hold h') (.next h'.modTile))

theorem Out.Canon.execTmov {g : Grd} {sc : Bool} {d a b : BitVec 8} {s : State} (hs : s.Canon) :
    Out.Canon (execTmov g sc d a b s) := by
  unfold Machine.execTmov
  extract_lets i
  refine .tileWord hs (fun s' act h' => ?_)
  extract_lets G x base size off
  split
  · exact h'.trapLanes.next
  · exact .ite h'.trapLanes.next (.ite (.hold h') (.next h'.modTile))

theorem State.Canon.enterArray {s : State} {o : MatOp} (hs : s.Canon) : (s.enterArray o).Canon := by
  unfold State.enterArray
  extract_lets T G s1 s2 p base
  have h1 : s1.Canon := hs.modCore
  have h2 : s2.Canon := h1.modCore
  have hbase : base.Canon := h2.modGang
  exact .ite (.same hbase rfl) h1

theorem Out.Canon.matrixWord {i : Instr} {g : Grd} {la : BitVec 4} {ring : BitVec 2} {nosplit pair wide : Bool} {d : BitVec 8}
    {ta tb : BitVec 3} {f k : BitVec 8} {s : State} (hs : s.Canon) :
    Out.Canon (matrixWord i g la ring nosplit pair wide d ta tb f k s) := by
  unfold Machine.matrixWord
  refine .tileWord hs (fun s' act h' => ?_)
  extract_lets T G P fw w kb diff o s1
  have h1 : s1.Canon := .enterArray (.same h' rfl)
  refine .ite h'.trapLanes.next (.ite (.hold h') ?_)
  split
  · exact h'.trapLanes.next
  · clear_value diff
    split
    · exact h'.trapLanes.next
    · exact .ite h'.trapLanes.next (.ite h'.trapLanes.next (.ite (.hold h') h1.openWindow.next))

theorem Out.Canon.execMma {g : Grd} {la : BitVec 4} {ring : BitVec 2} {nosplit : Bool} {d : BitVec 8} {ta tb : BitVec 3}
    {f k : BitVec 8} {s : State} (hs : s.Canon) :
    Out.Canon (execMma g la ring nosplit d ta tb f k s) :=
  .matrixWord hs

theorem Out.Canon.execMmap {g : Grd} {la : BitVec 4} {ring : BitVec 2} {nosplit wide : Bool} {d : BitVec 8} {ta tb : BitVec 3}
    {f k : BitVec 8} {s : State} (hs : s.Canon) :
    Out.Canon (execMmap g la ring nosplit wide d ta tb f k s) :=
  .matrixWord hs

theorem Out.Canon.execMmac {g : Grd} {la : BitVec 4} {a : BitVec 8} {s : State} (hs : s.Canon) : Out.Canon (execMmac g la a s) := by
  unfold Machine.execMmac
  extract_lets i
  refine .tileWord hs (fun s' act h' => ?_)
  extract_lets addr
  refine .settle h'.checkLanes (fun s'' locs h'' => ?_)
  split
  · exact h''.next
  · split
    · rename_i s1 _ heq
      have h1 : s1.Canon := State.Canon.fst h''.loadLoc heq
      exact h1.trapLanes.next
    · rename_i s1 _ heq
      have h1 : s1.Canon := State.Canon.fst h''.loadLoc heq
      extract_lets T G
      split
      · exact h1.trapLanes.next
      · extract_lets o s2
        have h2 : s2.Canon := .enterArray (.same h1 rfl)
        exact .ite h1.trapLanes.next (.ite h1.trapLanes.next (.ite (.hold h1) h2.openWindow.next))

theorem State.Canon.setHead {s : State} {core : Nat} {o : MatOp} (hs : s.Canon) : (s.setHead core o).Canon := hs.modCore

theorem Out.Canon.execKBlockStart {core : Nat} {s : State} (hs : s.Canon) : Out.Canon (execKBlockStart core s) := by
  unfold Machine.execKBlockStart
  split
  · exact hs.next
  · extract_lets T fc
    refine .ite hs.next (.ite hs.next (.ite ?_ ?_))
    · split
      · rename_i s1 heq'
        have h1 : s1.Canon := State.Canon.fst hs.take heq'
        exact h1.next
      · rename_i s1 heq'
        have h1 : s1.Canon := State.Canon.fst hs.take heq'
        exact h1.setHead.next
      · rename_i s1 heq'
        have h1 : s1.Canon := State.Canon.fst hs.take heq'
        exact h1.setHead.modTeam.next
    · split
      · exact hs.next
      · refine .ite hs.next ?_
        split
        · rename_i s1 heq'
          have h1 : s1.Canon := State.Canon.fst hs.take heq'
          exact h1.next
        · rename_i s1 heq'
          have h1 : s1.Canon := State.Canon.fst hs.take heq'
          exact h1.setHead.next
        · rename_i s1 heq'
          have h1 : s1.Canon := State.Canon.fst hs.take heq'
          extract_lets s2
          have h2 : s2.Canon := h1.take
          split
          · exact h2.setHead.setHead.modTeam.next
          · exact hs.take.next
          · exact hs.setHead.setHead.next

theorem State.Canon.endOp {s : State} {t g id : Nat} {rec_ : Option MatOp} {raise : Bool} (hs : s.Canon) :
    (s.endOp t g id rec_ raise).Canon := by
  unfold State.endOp
  extract_lets T G G1
  split
  · exact hs.setTeam
  · exact .ite hs.setTeam hs.setTeam

theorem State.Canon.dropOp {s : State} {id : Nat} (hs : s.Canon) : (s.dropOp id).Canon := .same hs rfl

theorem Out.Canon.execMatrixRetire {core : Nat} {s : State} (hs : s.Canon) : Out.Canon (execMatrixRetire core s) := by
  unfold Machine.execMatrixRetire
  split
  · exact hs.next
  · extract_lets twin bad s1 s2
    have h1 : s1.Canon := hs.dropOp
    have h2 : s2.Canon := by
      unfold s2
      clear_value twin
      split
      · exact h1.endOp
      · exact h1
    exact .ite hs.next h2.endOp.next

theorem Out.Canon.execCzero {g : Grd} {d : BitVec 8} {s : State} (hs : s.Canon) : Out.Canon (execCzero g d s) := by
  unfold Machine.execCzero
  refine .tileWord hs (fun s' x h' => ?_)
  extract_lets L
  exact .next h'.setCur

theorem Out.Canon.execCmov {g : Grd} {d a n : BitVec 8} {s : State} (hs : s.Canon) : Out.Canon (execCmov g d a n s) := by
  unfold Machine.execCmov
  refine .runWord hs (fun s' h' => ?_)
  extract_lets L W
  exact .ite h'.trapAllRun.next (.next h'.setCur)

theorem Out.Canon.execCmovIn {g : Grd} {d a n : BitVec 8} {s : State} (hs : s.Canon) : Out.Canon (execCmovIn g d a n s) := by
  unfold Machine.execCmovIn
  refine .runWord hs (fun s' h' => ?_)
  extract_lets L W
  exact .ite h'.trapAllRun.next (.next h'.setCur)

theorem Out.Canon.execVbnd {g : Grd} {a : BitVec 8} {s : State} (hs : s.Canon) : Out.Canon (execVbnd g a s) := by
  unfold Machine.execVbnd
  refine .tileWord hs (fun s' act h' => ?_)
  extract_lets G n base
  exact .ite h'.trapLanes.next (.next h'.setCur)

theorem State.Canon.disableArray {s : State} {core : Nat} (hs : s.Canon) : (s.disableArray core).Canon := by
  unfold State.disableArray
  extract_lets ops s1
  have h1 : s1.Canon := hs.modCore
  refine .foldl h1 (fun s' o h' => ?_)
  extract_lets s2 s3
  have h2 : s2.Canon := h'.dropOp
  have h3 : s3.Canon := .ite h2.endOp h2
  exact h3.endOp

theorem State.Canon.failColumn {s : State} {core col : Nat} (hs : s.Canon) : (s.failColumn core col).Canon := by
  unfold State.failColumn
  extract_lets C
  refine .ite hs ?_
  split
  · exact hs.modCore.report
  · exact hs.disableArray.report

theorem State.Canon.selfTest {s : State} {core : Nat} (hs : s.Canon) : (s.selfTest core).1.Canon := by
  unfold State.selfTest
  extract_lets C
  refine .iteFst hs ?_
  split
  · exact hs.failColumn
  · exact hs.modCore

theorem State.Canon.damage {s : State} {core col : Nat} (hs : s.Canon) : (s.damage core col).Canon := hs.modCore

theorem Out.Canon.execAtest {g : Grd} {d : BitVec 8} {s : State} (hs : s.Canon) : Out.Canon (execAtest g d s) := by
  unfold Machine.execAtest
  refine .runWord hs ?_
  intro s' h'
  exact .ite (.next h') (.ite (.hold h') (.next h'.selfTest.setCur))

theorem Out.Canon.execArraySelfTest {core : Nat} {failing : Option Nat} {s : State} (hs : s.Canon) :
    Out.Canon (execArraySelfTest core failing s) := by
  unfold Machine.execArraySelfTest
  refine .ite hs.next ?_
  split
  · exact hs.selfTest.next
  · exact hs.damage.selfTest.next

end Sys2Proof.Machine
end

section
/-! What is defined in Machine/System.lean keeps memory in canonical form. -/

namespace Sys2Proof.Machine

theorem Out.Canon.execIllegalEncoding {w : BitVec 64} {s : State} (hs : s.Canon) : Out.Canon (execIllegalEncoding w s) :=
  hs.trapRun.next

theorem Out.Canon.execFetchFault {c : FetchCause} {s : State} (hs : s.Canon) : Out.Canon (execFetchFault c s) := hs.trapRun.next

theorem Out.Canon.trapWord {i : Instr} {g : Grd} {cause : Nat} {n : BitVec 8} {s : State} (hs : s.Canon) :
    Out.Canon (trapWord i g cause n s) := by
  unfold Machine.trapWord
  exact .runWord hs (fun _ h' => .ite h'.finish.next h'.trapRun.next)

theorem Out.Canon.execTrap {g : Grd} {n : BitVec 8} {s : State} (hs : s.Canon) : Out.Canon (execTrap g n s) := .trapWord hs

theorem Out.Canon.execBrk {g : Grd} {n : BitVec 8} {s : State} (hs : s.Canon) : Out.Canon (execBrk g n s) := .trapWord hs

theorem Out.Canon.execRfe {g : Grd} {skip : Bool} {s : State} (hs : s.Canon) : Out.Canon (execRfe g skip s) := by
  unfold Machine.execRfe
  refine .runWord hs (fun s' h' => .ite h'.trapAllRun.next ?_)
  extract_lets act s1
  have h1 : s1.Canon := h'.finishAt
  exact h1.setCur.next

theorem Out.Canon.execSread {g : Grd} {dk : SysDk} {d : BitVec 8} {num : BitVec 10} {s : State} (hs : s.Canon) :
    Out.Canon (execSread g dk d num s) := by
  unfold Machine.execSread
  extract_lets i
  refine .runWord hs (fun s' h' => ?_)
  extract_lets v
  split
  · exact h'.trapAllRun.next
  · refine .ite h'.trapAllRun.next ?_
    split
    · exact .next h'.setCur
    · exact .next h'.setCur
    · exact .next h'.setCur

theorem Out.Canon.writeTcfg {i : Instr} {act : List Nat} {n : Nat} {x : W64} {s : State} (hs : s.Canon) :
    Out.Canon (writeTcfg i act n x s) := by
  unfold Machine.writeTcfg
  exact .ite hs.trapLanes.next (.ite (.hold hs) (.next hs.modTile))

theorem Out.Canon.execSwrite {g : Grd} {dk : SysDk} {a : BitVec 8} {num : BitVec 10} {s : State} (hs : s.Canon) :
    Out.Canon (execSwrite g dk a num s) := by
  unfold Machine.execSwrite
  extract_lets i
  refine .runWord hs (fun s' h' => ?_)
  extract_lets act G x
  split
  · exact h'.trapAllRun.next
  · exact .ite h'.trapAllRun.next (.ite h'.trapAllRun.next (.ite (.next h')
      (.ite (.next h'.setCur) (.ite (.next h'.modCore) (.ite (.next h'.modCtx)
      (.ite h'.trapLanes.next (.ite (.writeTcfg h') (.next h'.setCur))))))))

theorem Out.Canon.execCtxSave {g : Grd} {a : BitVec 8} {s : State} (hs : s.Canon) : Out.Canon (execCtxSave g a s) := by
  unfold Machine.execCtxSave
  extract_lets i
  refine .runWord hs (fun s' h' => ?_)
  extract_lets act
  refine .ite h'.finish.next (.ite (.hold h') (.settle h'.checkLanes (fun s'' locs h'' => ?_)))
  extract_lets bs ws
  exact .nextEnds h''.enqueue

theorem Out.Canon.execCtxLoad {g : Grd} {a : BitVec 8} {s : State} (hs : s.Canon) : Out.Canon (execCtxLoad g a s) := by
  unfold Machine.execCtxLoad
  extract_lets i
  refine .runWord hs (fun s' h' => ?_)
  extract_lets act
  refine .ite h'.finish.next (.settle h'.checkLanes (fun s'' locs h'' => ?_))
  split
  · rename_i s1 fst _ _ heq
    have h1 : s1.Canon := State.Canon.fst h''.readStack heq
    exact h1.trapLanes.next
  · rename_i s1 _ heq
    have h1 : s1.Canon := State.Canon.fst h''.readStack heq
    extract_lets s2 G ls
    have h2 : s2.Canon := h1.finish
    exact h2.setCur.next

end Sys2Proof.Machine
end

section
/-! What is defined in Machine/Dispatcher.lean keeps memory in canonical form. -/

namespace Sys2Proof.Machine

theorem State.Canon.placeGang {s : State} {t core g : Nat} {G : Gang} (hs : s.Canon) : (s.placeGang t core g G).Canon := by
  unfold State.placeGang
  extract_lets T c gs slot at_
  exact hs.setTeam

theorem State.Canon.cleanCluster {s : State} {cl : Nat} {fused : Bool} (hs : s.Canon) : (s.cleanCluster cl fused).Canon := by
  unfold State.cleanCluster
  extract_lets s1
  have h1 : s1.Canon := .foldl hs (fun _ _ h' => .foldl h' (fun _ _ h'' => h''.evictL1))
  exact h1.modCluster

theorem State.Canon.placeTeam {s : State} {t core : Nat} {gangs : List Gang} (hs : s.Canon) : (s.placeTeam t core gangs).Canon := by
  unfold State.placeTeam
  extract_lets s' T cl s0 s1 off s1' s2 s3
  have h' : s'.Canon := hs.mapTeams
  have h0 : s0.Canon := .ite h'.cleanCluster (.ite h'.cleanCluster h')
  have h1 : s1.Canon := h0.setTeam
  have h1' : s1'.Canon := h1.modTeam
  have h2 : s2.Canon := .foldl (.same h1' rfl) (fun _ _ h'' => h''.placeGang)
  have h3 : s3.Canon := .foldl h2 (fun _ _ h'' => h''.modMeter)
  exact .ite h3 (.foldl h3 (fun _ _ h'' => h''.takeBanks))

theorem State.Canon.freshCode {s : State} {t core : Nat} (hs : s.Canon) : (s.freshCode t core).Canon := by
  unfold State.freshCode
  extract_lets T
  exact .ite hs hs.modCore

theorem State.Canon.freshTile {s : State} {core : Nat} (hs : s.Canon) : (s.freshTile core).Canon := by
  unfold State.freshTile
  exact .ite hs hs.modCore

theorem State.Canon.firstPlacement {s : State} {t core : Nat} (hs : s.Canon) : (s.firstPlacement t core).Canon := by
  unfold State.firstPlacement
  extract_lets T s1 cs s1' s2
  have h1 : s1.Canon := hs.setTeam
  have h1' : s1'.Canon := .foldl h1 (fun _ _ h' => h'.freshTile.freshCode)
  have h2 : s2.Canon := h1'.placeTeam
  exact .ite h2.modFuture h2

end Sys2Proof.Machine
end

section
/-! What is defined in Machine/Futures.lean keeps memory in canonical form. -/

namespace Sys2Proof.Machine

theorem State.Canon.freeFuture {s : State} {key : Nat} (hs : s.Canon) : (s.freeFuture key).Canon := hs.modFuture

theorem State.Canon.tellGetters {s : State} {h : BitVec 32} {f : Gang → Gang} (hs : s.Canon) : (s.tellGetters h f).Canon := by
  unfold State.tellGetters
  extract_lets wake s1
  have h1 : s1.Canon := hs.mapTeams
  exact .foldl h1 (fun _ _ h' => h'.requeue)

theorem State.Canon.completeFuture {s : State} {h : BitVec 32} {res : List W32} (hs : s.Canon) : (s.completeFuture h res).Canon := by
  unfold State.completeFuture
  exact .ite hs.modFuture.tellGetters hs

theorem State.Canon.dropRef {s : State} {h : BitVec 32} (hs : s.Canon) : (s.dropRef h).Canon := by
  unfold State.dropRef
  extract_lets key E s1
  have h1 : s1.Canon := hs.modFuture
  refine .ite hs.modFuture ?_
  split
  · exact hs.freeFuture
  · exact hs.modTeam.freeFuture.tellGetters
  · exact hs
  · exact .tellGetters (.ite h1.modTeam h1)

theorem State.Canon.dropRegs {s : State} {t : Nat} (hs : s.Canon) : (s.dropRegs t).Canon := by
  unfold State.dropRegs
  extract_lets fs
  exact .foldl hs.modTeam (fun _ _ h' => .ite h' h'.dropRef)

theorem State.Canon.setF {s : State} {r : Nat} {h : BitVec 32} (hs : s.Canon) : (s.setF r h).Canon := hs.modTeam

theorem Out.Canon.futTrap {s : State} {i : Instr} {act : List Nat} {reason : Nat} {v : W64} (hs : s.Canon) :
    Out.Canon (s.futTrap i act reason v) :=
  hs.trapLanes.next

theorem Out.Canon.futWord {i : Instr} {g : Grd} {s : State} {body : State → List Nat → Out} (hs : s.Canon)
    (hbody : ∀ x0 x1, x0.Canon → Out.Canon (body x0 x1)) :
    Out.Canon (futWord i g s body) := by
  unfold Machine.futWord
  exact .runWord hs (fun _ h' => .ite (.next h') (hbody _ _ h'))

theorem State.Canon.enterChild {s : State} {r : Nat} {L : Launch} {img : W64} {args : List W64} (hs : s.Canon) :
    (s.enterChild r L img args).Canon := by
  unfold State.enterChild
  extract_lets d ctx key h t child s1 base
  have h1 : s1.Canon := hs.modFuture.setF
  have hbase : base.Canon := h1.setTeam
  exact .same hbase rfl

theorem State.Canon.badImage {s : State} {locs : List (Nat × Loc)} (hs : s.Canon) : (s.badImage locs).1.Canon := by
  unfold State.badImage
  refine .foldlFst hs (fun r q hr => ?_)
  split
  · refine .iteFst hr ?_
    split
    · rename_i heq'
      exact State.Canon.fst hr.remoteRead heq'
  · exact hr

theorem Out.Canon.execFutSpawn {g : Grd} {d a b n : BitVec 8} {s : State} (hs : s.Canon) : Out.Canon (execFutSpawn g d a b n s) := by
  unfold Machine.execFutSpawn
  extract_lets i
  refine .futWord hs (fun s' act h' => ?_)
  extract_lets addr
  refine .settle h'.checkLanes (fun s'' locs h'' => ?_)
  split
  · exact .hold h''
  · split
    · rename_i s1 _ heq
      have h1 : s1.Canon := State.Canon.fst h''.loadLoc heq
      exact h1.trapLanes.next
    · rename_i s1 _ heq
      have h1 : s1.Canon := State.Canon.fst h''.loadLoc heq
      split
      · exact .futTrap h1
      · extract_lets lines
        refine .ite (.futTrap h1) (.ite (.futTrap h1) (.settle h1.checkLanes (fun s''' locs' h''' => ?_)))
        split
        · rename_i s1' _ heq'
          have h1' : s1'.Canon := State.Canon.fst h'''.badImage heq'
          exact h1'.trapLanes.next
        · rename_i s1' heq'
          have h1' : s1'.Canon := State.Canon.fst h'''.badImage heq'
          exact .ite (.hold h1') (.ite (.hold h1') (.next h1'.enterChild))

theorem Out.Canon.execFutDup {g : Grd} {d a : BitVec 8} {s : State} (hs : s.Canon) : Out.Canon (execFutDup g d a s) := by
  unfold Machine.execFutDup
  extract_lets i
  refine .futWord hs (fun s' act h' => ?_)
  extract_lets h
  split
  · exact .futTrap h'
  · exact .ite (.futTrap h') (.ite (.futTrap h') (.next h'.modFuture.setF))

theorem Out.Canon.execFutDrop {g : Grd} {d : BitVec 8} {s : State} (hs : s.Canon) : Out.Canon (execFutDrop g d s) := by
  unfold Machine.execFutDrop
  extract_lets i
  refine .futWord hs (fun s' act h' => ?_)
  extract_lets h
  split
  · exact .futTrap h'
  · exact .next h'.setF.dropRef

theorem Out.Canon.execFutSelf {g : Grd} {d : BitVec 8} {s : State} (hs : s.Canon) : Out.Canon (execFutSelf g d s) := by
  unfold Machine.execFutSelf
  exact .futWord hs (fun _ _ h' => .next h'.setCur)

theorem Out.Canon.execFutCheck {g : Grd} {s : State} (hs : s.Canon) : Out.Canon (execFutCheck g s) := by
  unfold Machine.execFutCheck
  exact .futWord hs (fun _ _ h' => .next h')

theorem Out.Canon.execFutGet {g : Grd} {la : BitVec 4} {d a n : BitVec 8} {s : State} (hs : s.Canon) :
    Out.Canon (execFutGet g la d a n s) := by
  unfold Machine.execFutGet
  extract_lets i regs
  refine .futWord hs (fun s' act h' => ?_)
  extract_lets G h E
  split
  · exact .futTrap h'.setCur
  · split
    · exact .futTrap h'
    · exact .ite h'.results.next (.ite h'.parkWith.next h'.openWindow.next)

theorem Out.Canon.execFutPoll {g : Grd} {d a : BitVec 8} {s : State} (hs : s.Canon) : Out.Canon (execFutPoll g d a s) := by
  unfold Machine.execFutPoll
  extract_lets i
  refine .futWord hs (fun s' act h' => ?_)
  extract_lets h b
  split
  · exact .futTrap h'
  · exact .next h'.setCur

theorem Out.Canon.execFutRet {g : Grd} {a n : BitVec 8} {s : State} (hs : s.Canon) : Out.Canon (execFutRet g a n s) := by
  unfold Machine.execFutRet
  extract_lets i
  refine .futWord hs (fun s' act h' => ?_)
  extract_lets T res s1 s2
  have h1 : s1.Canon := h'.finish
  have h2 : s2.Canon := h1.modTeam
  exact .ite (.futTrap h') (.ite (.hold h') h2.setCur.afterExit.next)

theorem State.Canon.peekToken {s : State} {l : Loc} (hs : s.Canon) : (s.peekToken l).1.Canon := by
  unfold State.peekToken
  split
  · extract_lets s1
    have h1 : s1.Canon := hs.sliceOwn
    refine .iteFst h1 ?_
    split
    · rename_i heq
      exact State.Canon.fst hs.remoteAtomic heq
  · exact hs

theorem State.Canon.putToken {s : State} {l : Loc} {x : BitVec 32} (hs : s.Canon) : (s.putToken l x).Canon := by
  unfold State.putToken
  split
  · exact .ite hs.atomicAt hs
  · exact hs

theorem Out.Canon.tokenWord {i : Instr} {g : Grd} {a : BitVec 8} {rel : Bool} {s : State}
    {body : State → State → List Nat → Loc → BitVec 32 → Out} (hs : s.Canon)
    (hbody : ∀ x0 x1 x2 x3 x4, x0.Canon → x1.Canon → Out.Canon (body x0 x1 x2 x3 x4)) :
    Out.Canon (tokenWord i g a rel s body) := by
  unfold Machine.tokenWord
  refine .futWord hs (fun s' act h' => ?_)
  extract_lets addr
  refine .settle h'.checkLanes (fun s'' locs h'' => ?_)
  split
  · exact .hold h''
  · refine .ite (.hold h'') ?_
    split
    · exact h''.trapLanes.next
    · rename_i s1 _ heq
      have h1 : s1.Canon := State.Canon.fst h''.peekToken heq
      exact hbody _ _ _ _ _ h'' h1

theorem Out.Canon.execFutPark {g : Grd} {a b : BitVec 8} {s : State} (hs : s.Canon) : Out.Canon (execFutPark g a b s) := by
  unfold Machine.execFutPark
  extract_lets i
  refine .tokenWord hs (fun s' s1 act loc x h' h1 => ?_)
  extract_lets h
  split
  · exact .futTrap h'
  · exact .ite (.futTrap h') (.next h1.putToken.setF)

theorem Out.Canon.execFutUnpark {g : Grd} {d a : BitVec 8} {s : State} (hs : s.Canon) : Out.Canon (execFutUnpark g d a s) := by
  unfold Machine.execFutUnpark
  extract_lets i
  exact .tokenWord hs ((fun _ _ _ _ _ h' h1 => .ite (.futTrap h') (.ite (.futTrap h') (.ite (.next h1) (.next h1.putToken.setF)))))

end Sys2Proof.Machine
end

section
/-! What is defined in Machine/Energy.lean keeps memory in canonical form. -/

namespace Sys2Proof.Machine

theorem State.Canon.countVolts {s : State} (hs : s.Canon) : s.countVolts.Canon := by
  unfold State.countVolts
  exact .foldl hs (fun _ _ hr => hr.modQuarter)

theorem State.Canon.endPoints {s : State} {p : Nat} (hs : s.Canon) : (s.endPoints p).Canon := by
  unfold State.endPoints
  exact .ite hs hs.mapTeams

theorem Out.Canon.execPointChangeComplete {part : Nat} {s : State} (hs : s.Canon) : Out.Canon (execPointChangeComplete part s) := by
  unfold Machine.execPointChangeComplete
  split
  · exact .ite hs.countVolts.modPart.endPoints.next hs.next
  · exact hs.next

theorem Out.Canon.energyWord {i : Instr} {g : Grd} {s : State} {body : State → Out} (hs : s.Canon)
    (hbody : ∀ x0, x0.Canon → Out.Canon (body x0)) :
    Out.Canon (energyWord i g s body) := by
  unfold Machine.energyWord
  exact .runWord hs (fun _ h' => .ite (.next h') (hbody _ h'))

theorem Out.Canon.execEnRead {g : Grd} {d sel : BitVec 8} {s : State} (hs : s.Canon) : Out.Canon (execEnRead g d sel s) := by
  unfold Machine.execEnRead
  refine .energyWord hs (fun s' h' => ?_)
  extract_lets c s1
  have h1 : s1.Canon := .ite h'.post h'
  exact .next h1.setCur

theorem Out.Canon.execEnMark {g : Grd} {a : BitVec 8} {s : State} (hs : s.Canon) : Out.Canon (execEnMark g a s) := by
  unfold Machine.execEnMark
  refine .energyWord hs (fun s' h' => ?_)
  extract_lets c s1
  have h1 : s1.Canon := h'.post
  exact .next h1.modCtx

theorem Out.Canon.execVfReq {g : Grd} {d a : BitVec 8} {s : State} (hs : s.Canon) : Out.Canon (execVfReq g d a s) := by
  unfold Machine.execVfReq
  refine .energyWord hs (fun s' h' => ?_)
  extract_lets c p r s1
  have h1 : s1.Canon := h'.countVolts.modPart
  exact .next h1.setCur

theorem Out.Canon.execVfStat {g : Grd} {d : BitVec 8} {s : State} (hs : s.Canon) : Out.Canon (execVfStat g d s) := by
  unfold Machine.execVfStat
  refine .energyWord hs (fun s' h' => ?_)
  extract_lets p act s1
  have h1 : s1.Canon := by
    unfold s1
    split
    · exact h'
    · exact h'.finishAt
  exact .ite h1.setCur.next (.next h'.setCur)

theorem Out.Canon.execBucketServeRequest {core ctx : Nat} {s : State} (hs : s.Canon) :
    Out.Canon (execBucketServeRequest core ctx s) := by
  unfold Machine.execBucketServeRequest
  extract_lets M r s1
  have h1 : s1.Canon := hs.modCtx.modMeter
  exact .ite (State.Canon.next (.ite (.same h1 rfl) h1)) hs.next

theorem State.Canon.endEnergyStops {s : State} {core ctx : Nat} (hs : s.Canon) : (s.endEnergyStops core ctx).Canon := by
  unfold State.endEnergyStops
  extract_lets rem
  exact hs.mapTeams

theorem Out.Canon.execGrantAnswerArrival {core ctx : Nat} {s : State} (hs : s.Canon) :
    Out.Canon (execGrantAnswerArrival core ctx s) := by
  unfold Machine.execGrantAnswerArrival
  split
  · exact hs.next
  · exact hs.modMeter.next
  · extract_lets s1
    have h1 : s1.Canon := hs.modMeter
    exact h1.endEnergyStops.wantGrant.next

theorem State.Canon.countSlots {s : State} {t : Nat} (hs : s.Canon) : (s.countSlots t).Canon := by
  unfold State.countSlots
  extract_lets T n s1
  have h1 : s1.Canon := .foldl hs (fun _ _ h' => .same h' rfl)
  exact h1.setTeam

theorem State.Canon.chargeStanding {s : State} {dom : Nat} {stat corr : ℤ} (hs : s.Canon) :
    (s.chargeStanding dom stat corr).Canon := by
  unfold State.chargeStanding
  split
  · exact hs.modPart
  · exact .same hs rfl

theorem State.Canon.staticTick {s : State} {dom S : Nat} (hs : s.Canon) : (s.staticTick dom S).Canon := by
  unfold State.staticTick
  extract_lets hcap cs part s1
  have h1 : s1.Canon := .foldl hs (fun _ _ hr => hr.modCtx)
  exact h1.chargeStanding

theorem State.Canon.correctTick {s : State} {dom S tick : Nat} (hs : s.Canon) : (s.correctTick dom S tick).Canon := by
  unfold State.correctTick
  extract_lets cs ds hs' far sumD R ws tot part rest
  split
  · exact hs.chargeStanding
  · refine .ite hs.chargeStanding (.foldl hs (fun r q hr => ?_))
    extract_lets share
    exact .ite hr (.ite (.same hr rfl) hr.modCtx)

theorem State.Canon.postAll {s : State} (hs : s.Canon) : s.postAll.Canon := by
  unfold State.postAll
  exact .foldl hs (fun _ _ h' => .foldl h' (fun _ _ h'' => h''.post))

theorem State.Canon.refillAll {s : State} (hs : s.Canon) : s.refillAll.Canon := by
  unfold State.refillAll
  exact .foldl hs (fun _ _ hr => hr.modCtx)

theorem State.Canon.clearRefusals {s : State} (hs : s.Canon) : s.clearRefusals.Canon := by
  unfold State.clearRefusals
  exact .foldl hs (fun _ _ h' => .foldl h' (fun _ _ h'' => .ite h''.post.modMeter h''))

theorem State.Canon.closeRecords {s : State} {p last : Nat} (hs : s.Canon) : (s.closeRecords p last).Canon := by
  unfold State.closeRecords
  extract_lets P cs own recs s1
  have h1 : s1.Canon := .foldl hs (fun _ _ hr => hr.modCtx)
  exact h1.modPart

theorem State.Canon.putMtr {s : State} {fn : Nat} {recs : List (List Byte)} (hs : s.Canon) : (s.putMtr fn recs).Canon :=
  hs.modFunc.flushMtr

theorem Out.Canon.execMeterRecordClose {part : Nat} {s : State} (hs : s.Canon) : Out.Canon (execMeterRecordClose part s) := by
  unfold Machine.execMeterRecordClose
  extract_lets recs
  exact .ite hs.next hs.modPart.putMtr.putMtr.next

theorem State.Canon.askOne {s : State} {t reason : Nat} {forced : Bool} {stopped : Option Nat} (hs : s.Canon) :
    (s.askOne t reason forced stopped).Canon := by
  unfold State.askOne
  extract_lets T
  refine .ite hs ?_
  split
  · exact hs.latchWdog.modTeam
  · exact .ite hs.modTeam hs

theorem State.Canon.askStop {s : State} {t reason : Nat} (hs : s.Canon) : (s.askStop t reason).Canon := by
  unfold State.askStop
  exact .foldl hs (fun _ _ h' => h'.askOne)

theorem State.Canon.shareRotation {s : State} {d p : Nat} (hs : s.Canon) : (s.shareRotation d p).Canon := by
  unfold State.shareRotation
  extract_lets mine y here x
  clear_value x y
  split
  · refine .ite ?_ hs
    split
    · exact hs.askStop
    · exact hs
  · exact hs

theorem State.Canon.takeWeights {s : State} (hs : s.Canon) : s.takeWeights.Canon := by
  unfold State.takeWeights
  split
  · exact .same hs rfl
  · exact hs

theorem Out.Canon.execTickBoundary {s : State} (hs : s.Canon) : Out.Canon (execTickBoundary s) := by
  unfold Machine.execTickBoundary
  extract_lets n s1 s2 s3 s4 s5 s6 s7
  have h1 : s1.Canon := .foldl hs.postAll (fun _ _ h => h.countSlots)
  have h2 : s2.Canon := h1.countVolts
  have h3 : s3.Canon := .foldl h2 (fun _ _ h => h.staticTick.correctTick)
  have h4 : s4.Canon := by
    clear_value s3
    exact .same h3 rfl
  have h5 : s5.Canon := h4.refillAll
  have h6 : s6.Canon := .foldl h5 (fun _ _ h => h.closeRecords)
  have h7 : s7.Canon := h6.takeWeights.clearRefusals.flushCorrected
  exact .ite hs.next (State.Canon.next (.foldl h7 (fun _ _ h => .foldl h (fun _ _ h' => h'.shareRotation))))

theorem State.Canon.takeReport {s : State} {pkg flr demand : Nat} (hs : s.Canon) : (s.takeReport pkg flr demand).Canon := .same hs rfl

theorem State.Canon.sendReport {s : State} {energy : Nat} (hs : s.Canon) : (s.sendReport energy).Canon := by
  unfold State.sendReport
  extract_lets d s1
  have h1 : s1.Canon := .same hs rfl
  exact .ite h1.takeReport h1.sendFlits

theorem State.Canon.takeShare {s : State} (hs : s.Canon) : s.takeShare.Canon := by
  unfold State.takeShare
  refine .ite (.same hs rfl) ?_
  split
  · exact .same hs rfl
  · exact .ite (.same hs rfl) (.same hs rfl)

theorem Out.Canon.execCapPeriodStart {s : State} (hs : s.Canon) : Out.Canon (execCapPeriodStart s) := by
  unfold Machine.execCapPeriodStart
  extract_lets energy base s1 s2 s3
  have hbase : base.Canon := hs.countVolts.takeShare
  have h1 : s1.Canon := .same hbase rfl
  have h2 : s2.Canon := .same h1 rfl
  have h3 : s3.Canon := .ite h2.signal h2
  exact .ite hs.next (State.Canon.next (.ite h3 h3.sendReport))

theorem Out.Canon.execCapDivision {s : State} (hs : s.Canon) : Out.Canon (execCapDivision s) := by
  unfold Machine.execCapDivision
  extract_lets s1
  have h1 : s1.Canon := .same hs rfl
  exact .ite hs.next (State.Canon.next (.foldl h1 (fun _ _ hr => .ite (.same hr rfl) hr.sendFlits)))

theorem Out.Canon.execCapShareArrival {domain share : Nat} {s : State} (hs : s.Canon) :
    Out.Canon (execCapShareArrival domain share s) := by
  unfold Machine.execCapShareArrival
  exact State.Canon.next (.ite (.same hs rfl) hs)

theorem Out.Canon.execCapReportArrival {pkg domain flr demand : Nat} {s : State} (hs : s.Canon) :
    Out.Canon (execCapReportArrival pkg domain flr demand s) := by
  unfold Machine.execCapReportArrival
  exact State.Canon.next (.ite hs.takeReport hs)

end Sys2Proof.Machine
end

section
/-! What is defined in Machine/Collectives.lean keeps memory in canonical form. -/

namespace Sys2Proof.Machine

theorem State.Canon.modGroup {s : State} {p g : Nat} {f : CollGroup → CollGroup} (hs : s.Canon) : (s.modGroup p g f).Canon :=
  hs.modPart

theorem State.Canon.modCollOp {s : State} {p g k : Nat} {f : CollOpn → CollOpn} (hs : s.Canon) : (s.modCollOp p g k f).Canon :=
  hs.modGroup

theorem State.Canon.tellWaiters {s : State} {p : Nat} {x : W64} {st : Nat} (hs : s.Canon) : (s.tellWaiters p x st).Canon := by
  unfold State.tellWaiters
  extract_lets wake s1
  have h1 : s1.Canon := hs.mapTeams
  exact .foldl h1 (fun _ _ h' => h'.requeue)

theorem State.Canon.endColl {s : State} {p g k st : Nat} (hs : s.Canon) : (s.endColl p g k st).Canon := hs.modCollOp.tellWaiters

theorem State.Canon.sendColl {s : State} {g : Nat} {o : CollOpn} {pkg : Nat} (hs : s.Canon) : (s.sendColl g o pkg).Canon := by
  unfold State.sendColl
  extract_lets body
  exact hs.sendFlits.chargeFlits.returnMeter

theorem State.Canon.finishColl {s : State} {p g : Nat} {o : CollOpn} (hs : s.Canon) : (s.finishColl p g o).Canon := by
  unfold State.finishColl
  extract_lets s1 v s2
  have h1 : s1.Canon := .foldl hs (fun _ _ h' => h'.sendColl)
  have h2 : s2.Canon := .foldl h1 (fun _ _ h' => h'.requestWrite)
  exact .ite h1.endColl h2.returnMeter.endColl

theorem State.Canon.advanceColl {s : State} {p g k : Nat} (hs : s.Canon) : (s.advanceColl p g k).Canon := by
  unfold State.advanceColl
  extract_lets G
  split
  · exact hs
  · exact .ite hs (.ite hs.sendColl.modCollOp hs.finishColl)

theorem State.Canon.beginColl {s : State} {p g : Nat} {o : CollOpn} (hs : s.Canon) : (s.beginColl p g o).Canon := by
  unfold State.beginColl
  extract_lets G mine o1 s1
  have h1 : s1.Canon := hs.modGroup
  exact .ite h1.endColl (.ite h1.endColl h1.advanceColl)

theorem State.Canon.collSource {s : State} {src : W64} {n : Nat} {locs : List (Nat × Loc)} (hs : s.Canon) :
    (s.collSource src n locs).1.Canon := by
  unfold State.collSource
  refine .foldlFst hs (fun r q hr => ?_)
  extract_lets len
  split
  · rename_i heq
    exact State.Canon.fst hr.loadLoc heq

theorem Out.Canon.collWord {i : Instr} {gd : Grd} {bcast : Bool} {op : CollOp} {d a b c : BitVec 8} {s : State} (hs : s.Canon) :
    Out.Canon (collWord i gd bcast op d a b c s) := by
  unfold Machine.collWord
  refine .energyWord hs (fun s' h' => ?_)
  extract_lets act G src dst w n p g grp reads k
  refine .ite h'.trapLanes.next ?_
  split
  · exact h'.trapLanes.next
  · refine .settle h'.checkLanes (fun s'' sl h'' => ?_)
    split
    · exact h''.trapLanes.next
    · refine .settle h''.checkLanes (fun s''' dl h''' => ?_)
      extract_lets places
      split
      · exact h'''.trapLanes.next
      · refine .ite (.hold h''') (.ite (.hold h''') ?_)
        split
        · rename_i s1 fst _ heq'
          have h1 : s1.Canon := State.Canon.fst h'''.collSource heq'
          exact h1.trapLanes.next
        · rename_i s1 _ heq'
          have h1 : s1.Canon := State.Canon.fst h'''.collSource heq'
          extract_lets o s2
          have h2 : s2.Canon := h1.setCur
          exact .next h2.beginColl

theorem Out.Canon.execCollRed {g : Grd} {op : CollOp} {d a b c : BitVec 8} {s : State} (hs : s.Canon) :
    Out.Canon (execCollRed g op d a b c s) :=
  .collWord hs

theorem Out.Canon.execCollBcast {g : Grd} {d a b c : BitVec 8} {s : State} (hs : s.Canon) : Out.Canon (execCollBcast g d a b c s) :=
  .collWord hs

theorem Out.Canon.execCollWait {g : Grd} {d a : BitVec 8} {s : State} (hs : s.Canon) : Out.Canon (execCollWait g d a s) := by
  unfold Machine.execCollWait
  refine .runWord hs (fun s' h' => ?_)
  extract_lets act x
  refine .ite h'.finish.next ?_
  split
  · exact .nextEnds h'.setCur
  · exact h'.park.next

theorem Out.Canon.execCollPartialArrival {part grp k fromPkg : Nat} {bcast : Bool} {op : Option CollOp} {root : Nat} {mism : Bool}
    {bytes : Option (List Byte)} {gtag len : Nat} {s : State} (hs : s.Canon) :
    Out.Canon (execCollPartialArrival part grp k fromPkg bcast op root mism bytes gtag len s) := by
  unfold Machine.execCollPartialArrival
  extract_lets G q
  refine .ite hs.signal.next (.ite hs.modGroup.next ?_)
  split
  · exact .ite hs.modCollOp.advanceColl.next hs.next
  · exact hs.next

theorem Out.Canon.execCollResultArrival {part grp k fromPkg : Nat} {mism : Bool} {bytes : List Byte} {gtag : Nat} {s : State}
    (hs : s.Canon) :
    Out.Canon (execCollResultArrival part grp k fromPkg mism bytes gtag s) := by
  unfold Machine.execCollResultArrival
  extract_lets G
  refine .ite hs.signal.next ?_
  split
  · exact .ite hs.finishColl.next hs.next
  · exact hs.next

theorem Out.Canon.execCollectiveTimeout {part grp k : Nat} {s : State} (hs : s.Canon) :
    Out.Canon (execCollectiveTimeout part grp k s) := by
  unfold Machine.execCollectiveTimeout
  split
  · exact .ite hs.endColl.next hs.next
  · exact hs.next

theorem State.Canon.collUnreachable {s : State} (hs : s.Canon) : s.collUnreachable.Canon := by
  unfold State.collUnreachable
  exact .foldl hs (fun _ _ h' => .foldl h' (fun _ _ h'' => .ite (.foldl h'' (fun _ _ h''' => h'''.endColl)) h''))

end Sys2Proof.Machine
end

section
/-! What is defined in Machine/Rings.lean keeps memory in canonical form. -/

namespace Sys2Proof.Machine

theorem State.Canon.modRing {s : State} {fn ring : Nat} {f : Ring → Ring} (hs : s.Canon) : (s.modRing fn ring f).Canon := hs.modFunc

theorem State.Canon.modPkt {s : State} {fn ring pos : Nat} {f : PktRun → PktRun} (hs : s.Canon) : (s.modPkt fn ring pos f).Canon :=
  hs.modRing

theorem State.Canon.writeBackHead {s : State} {fn ring : Nat} (hs : s.Canon) : (s.writeBackHead fn ring).Canon := by
  unfold State.writeBackHead
  extract_lets R
  exact hs.hostPut.hostPut.modRing

theorem State.Canon.writeBackComp {s : State} {fn ring : Nat} (hs : s.Canon) : (s.writeBackComp fn ring).Canon := by
  unfold State.writeBackComp
  extract_lets R
  exact hs.hostPut

theorem State.Canon.watch {s : State} {c : Nat} (hs : s.Canon) : (s.watch c).Canon := by
  unfold State.watch
  exact .ite hs.modCtx hs.modCtx

theorem State.Canon.restartWatch {s : State} {c : Nat} (hs : s.Canon) : (s.restartWatch c).Canon := hs.modCtx.watch

theorem State.Canon.completePkt {s : State} {fn ring pos code detail : Nat} (hs : s.Canon) :
    (s.completePkt fn ring pos code detail).Canon := by
  unfold State.completePkt
  split
  · exact hs
  · extract_lets s1 s2 old s3 s4 v s5
    have h1 : s1.Canon := .ite hs.hostPut hs
    have h2 : s2.Canon := h1.modPkt
    have h3 : s3.Canon := h2.modRing
    have h4 : s4.Canon := .ite h3 h3.writeBackComp
    have h5 : s5.Canon := .ite h4.signal h4
    exact .ite hs h5.restartWatch

theorem State.Canon.killPackets {s : State} {c : Nat} (hs : s.Canon) : (s.killPackets c).Canon := by
  unfold State.killPackets
  exact .foldl hs (fun _ _ h' => .foldl h' (fun _ _ h'' => .ite (.foldl h'' (fun _ _ h''' => h'''.completePkt)) h''))

theorem State.Canon.releaseParked {s : State} {p : Nat} (hs : s.Canon) : (s.releaseParked p).Canon := by
  unfold State.releaseParked
  split
  · exact hs
  · split
    · extract_lets r s1
      have hr : r.1.Canon := hs.requestAll
      have h1 : s1.Canon := hr.modGang
      exact .ite (.same h1 rfl) h1
    · exact .same hs rfl

theorem State.Canon.freePrq {s : State} {id : Nat} (hs : s.Canon) : (s.freePrq id).Canon := by
  unfold State.freePrq
  split
  · exact hs
  · exact .flushPrq (.releaseParked (.same hs rfl))

theorem State.Canon.killPrqs {s : State} {c : Nat} (hs : s.Canon) : (s.killPrqs c).Canon := by
  unfold State.killPrqs
  exact .foldl hs (fun _ _ h' => h'.freePrq)

theorem State.Canon.failCopies {s : State} {c : Nat} {key : PageKey} (hs : s.Canon) : (s.failCopies c key).Canon := by
  unfold State.failCopies
  refine .foldl hs (fun s' C h' => .foldl h' (fun s'' q h'' => ?_))
  split
  · exact .ite h''.faultQueue h''
  · exact h''

theorem State.Canon.answerPrq {s : State} {id : Nat} {fail : Bool} (hs : s.Canon) : (s.answerPrq id fail).Canon := by
  unfold State.answerPrq
  split
  · exact hs
  · extract_lets key s1 s2 s3
    have h1 : s1.Canon := hs.mapTeams
    have h2 : s2.Canon := .ite h1.failCopies h1
    have h3 : s3.Canon := .same h2 rfl
    exact h3.freePrq

end Sys2Proof.Machine
end

section
/-! What is defined in Machine/Saves.lean keeps memory in canonical form. -/

namespace Sys2Proof.Machine

theorem State.Canon.markStops {s : State} {t : Nat} (hs : s.Canon) : (s.markStops t).Canon := by
  unfold State.markStops
  extract_lets T
  split
  · exact hs
  · extract_lets s1
    have h1 : s1.Canon := hs.setTeam
    exact .ite hs (.foldl h1 (fun _ _ h' => .ite h'.refundLanes h'))

theorem State.Canon.splitOp {s : State} {core : Nat} {o : MatOp} (hs : s.Canon) : (s.splitOp core o).Canon := by
  unfold State.splitOp
  extract_lets T twin c fin s1
  have h1 : s1.Canon := hs.dropOp.modGang
  clear_value twin
  split
  · exact h1.modGang
  · exact h1

theorem State.Canon.splitTeam {s : State} {t : Nat} (hs : s.Canon) : (s.splitTeam t).Canon := by
  unfold State.splitTeam
  exact .foldl hs (fun _ _ h' => .foldl h' (fun _ _ h'' => h''.splitOp))

theorem State.Canon.recordPlaces {s : State} {t core : Nat} {acc : Access} (hs : s.Canon) : (s.recordPlaces t core acc).1.Canon := by
  unfold State.recordPlaces
  refine .foldlFst hs (fun r q hr => ?_)
  split
  · rename_i heq
    exact State.Canon.fst hr.translateAt heq
  · rename_i s1 _ _ heq
    have h1 : s1.Canon := State.Canon.fst hr.translateAt heq
    exact h1.requestPage
  · rename_i heq
    exact State.Canon.fst hr.translateAt heq

theorem State.Canon.putRecord {s : State} {core ctx : Nat} {places : List (Nat × Nat)} {bs : List Byte} (hs : s.Canon) :
    (s.putRecord core ctx places bs).Canon := by
  unfold State.putRecord
  extract_lets put s1
  have hput : ∀ s q, s.Canon → (put s q).Canon := by
    intro s' q h'
    unfold put
    extract_lets row
    exact .ite h'.requestWrite h'.requestWrite
  have h1 : s1.Canon := .foldl hs (fun _ _ h' => hput _ _ h')
  split
  · exact h1.requestWrite
  · exact h1

theorem State.Canon.spillMonitors {s : State} {t : Nat} (hs : s.Canon) : (s.spillMonitors t).Canon := by
  unfold State.spillMonitors
  exact .foldl hs (fun _ _ h' => h'.modSlice)

theorem State.Canon.skipSave {s : State} {t : Nat} (hs : s.Canon) : (s.skipSave t).Canon := by
  unfold State.skipSave
  extract_lets T
  split
  · exact .ite hs.setTeam hs.setTeam
  · exact hs

theorem State.Canon.beginSave {s : State} {t : Nat} (hs : s.Canon) : (s.beginSave t).Canon := by
  unfold State.beginSave
  extract_lets T s1 f s2
  have h1 : s1.Canon := hs.splitTeam
  have h2 : s2.Canon := h1.startFlush.modTeam
  exact .same h2 rfl

theorem State.Canon.letIssue {s : State} {t : Nat} (hs : s.Canon) : (s.letIssue t).Canon := hs.modTeam

theorem State.Canon.reserveAll {ts : List Nat} {s t : State} (hs : s.Canon) (e : State.reserveAll ts s = some t) : t.Canon := by
  induction ts generalizing s with
  | nil =>
    cases e
    exact hs
  | cons u us ih =>
    unfold State.reserveAll at e
    split at e
    · cases e
    · exact ih hs.modTeam e

theorem State.Canon.beginSaves {s : State} {t : Nat} (hs : s.Canon) : (s.beginSaves t).Canon := by
  unfold State.beginSaves
  extract_lets ts s1
  have h1 : s1.Canon := .foldl hs (fun _ _ h => h.modTeam)
  refine .ite (.foldl h1 (fun _ _ h => h.letIssue)) ?_
  split
  · rename_i heq
    exact .foldl (h1.reserveAll heq) (fun _ _ h => h.beginSave)
  · exact .tellHost (.foldl h1 (fun _ _ h => h.skipSave))

theorem State.Canon.takeCopies {s : State} {t : Nat} (hs : s.Canon) : (s.takeCopies t).Canon := by
  unfold State.takeCopies
  extract_lets T found s1
  have h1 : s1.Canon := .same hs rfl
  exact h1.modTeam

theorem State.Canon.emptyTlbs {s : State} {cl : Nat} (hs : s.Canon) : (s.emptyTlbs cl).Canon := by
  unfold State.emptyTlbs
  exact .foldl hs.modCluster (fun _ _ h' => h'.modCore)

theorem State.Canon.settleCluster {s : State} {cl : Nat} (hs : s.Canon) : (s.settleCluster cl).Canon := by
  unfold State.settleCluster
  extract_lets C
  exact .ite hs (.ite hs.cleanCluster.emptyTlbs.modCluster (.ite hs.cleanCluster hs))

theorem State.Canon.leavePlace {s : State} {t core : Nat} {cores : List Nat} (hs : s.Canon) : (s.leavePlace t core cores).Canon := by
  unfold State.leavePlace
  extract_lets s1
  have h1 : s1.Canon := hs.settleCluster
  exact .foldl h1 (fun _ _ h' => h'.enterCopies.returnMeter)

theorem State.Canon.afterSave {s : State} {t : Nat} (hs : s.Canon) : (s.afterSave t).Canon := by
  unfold State.afterSave
  extract_lets T
  exact .ite hs.relaunch (.ite hs.requeue hs)

theorem State.Canon.finishSave {s : State} {t : Nat} (hs : s.Canon) : (s.finishSave t).Canon := by
  unfold State.finishSave
  extract_lets s' T reason
  have h' : s'.Canon := hs.modTeam
  split
  · rename_i heq
    exact State.Canon.fst h'.recordPlaces heq
  · rename_i s1 _ heq
    have h1 : s1.Canon := State.Canon.fst h'.recordPlaces heq
    extract_lets key s2 s3 s4 s5 s6
    have h2 : s2.Canon := .putRecord (.same h1 rfl)
    have h3 : s3.Canon := h2.countSlots.takeCopies.leaveCbar
    have h4 : s4.Canon := .ite h3.spillMonitors h3
    have h5 : s5.Canon := h4.modTeam
    have h6 : s6.Canon := h5.leavePlace.afterSave
    exact .ite h6.signal h6

theorem State.Canon.readRecord {s : State} {t core : Nat} (hs : s.Canon) : (s.readRecord t core).1.Canon := by
  unfold State.readRecord
  extract_lets ctx
  split
  · rename_i heq
    exact State.Canon.fst hs.recordPlaces heq
  · rename_i s1 _ heq
    have h1 : s1.Canon := State.Canon.fst hs.recordPlaces heq
    extract_lets r
    have hr : r.1.Canon := by
      unfold r
      refine .foldlFst h1 (fun r' q hr' => .iteFst ?_ ?_)
      · extract_lets s1'
        exact hr'.sliceRead
      · split
        · rename_i heq'
          exact State.Canon.fst hr'.remoteRead heq'
    exact hr

theorem State.Canon.dropMonitors {s : State} {t : Nat} (hs : s.Canon) : (s.dropMonitors t).Canon := .same hs rfl

theorem State.Canon.loadTeam {s : State} {t core : Nat} {places : List (Nat × Nat)} {r : Record} (hs : s.Canon) :
    (s.loadTeam t core places r).Canon := by
  unfold State.loadTeam
  extract_lets T gangs s1 base s2 s3
  have h1 : s1.Canon := by
    unfold s1
    split
    · exact hs.requestWrite
    · exact hs
  have h2 : s2.Canon := h1.dropMonitors.setTeam
  have h3 : s3.Canon := .foldl h2.placeTeam (fun _ _ h' => h'.freshCode)
  exact .foldl h3 (fun _ _ h' => h'.enterCopies)

theorem State.Canon.badRecord {s : State} {t : Nat} (hs : s.Canon) : (s.badRecord t).Canon := hs.modTeam.tellHost

theorem State.Canon.acceptConts {s : State} {t g : Nat} (hs : s.Canon) : (s.acceptConts t g).Canon := by
  unfold State.acceptConts
  extract_lets G T
  split
  · exact hs
  · extract_lets pend base o s1 base' p base''
    have hbase : base.Canon := hs.modGang
    have h1 : s1.Canon := .enterArray (.same hs rfl)
    have hbase'' : base''.Canon := h1.modGang
    exact .ite (.same hbase rfl) (.ite hs (.same hbase'' rfl))

end Sys2Proof.Machine
end

section
/-! What is defined in Machine/Teams.lean keeps memory in canonical form. -/

namespace Sys2Proof.Machine

theorem State.Canon.dropOps {s : State} {t : Nat} (hs : s.Canon) : (s.dropOps t).Canon := .same hs rfl

theorem State.Canon.dropCopies {s : State} {t : Nat} {started : Bool} (hs : s.Canon) : (s.dropCopies t started).Canon := by
  unfold State.dropCopies
  extract_lets base
  have hbase : base.Canon := hs.modTeam
  exact .same hbase rfl

theorem State.Canon.dropFaults {s : State} {t : Nat} {tell : Bool} (hs : s.Canon) : (s.dropFaults t tell).Canon := by
  unfold State.dropFaults
  extract_lets mine any s1
  have h1 : s1.Canon := .same hs rfl
  exact .ite h1.signal h1

theorem State.Canon.dropLadle {s : State} {t : Nat} (hs : s.Canon) : (s.dropLadle t).Canon := .same hs rfl

theorem State.Canon.dropRequests {s : State} {t : Nat} (hs : s.Canon) : (s.dropRequests t).Canon := by
  unfold State.dropRequests
  extract_lets mine others
  exact .foldl (.same hs rfl) (fun _ _ h' => h'.freePrq)

theorem State.Canon.queueIndex {s : State} {T : Team} {k : Nat} (hs : s.Canon) : (s.queueIndex T k).Canon := by
  unfold State.queueIndex
  extract_lets base
  have hbase : base.Canon := hs.setTeam
  exact .ite hs (.same hbase rfl)

theorem State.Canon.queueNext {s : State} {T : Team} {k : Nat} (hs : s.Canon) : (s.queueNext T k).Canon := by
  unfold State.queueNext
  exact .ite hs (.foldl hs (fun _ _ h' => h'.queueIndex))

theorem Out.Canon.execTeamPlacement {die team core : Nat} {s : State} (hs : s.Canon) :
    Out.Canon (execTeamPlacement die team core s) := by
  unfold Machine.execTeamPlacement
  extract_lets T
  split
  · exact hs.next
  · extract_lets s1 k
    have h1 : s1.Canon := .foldl hs (fun _ _ h' => h'.firstPlacement)
    exact h1.queueNext.watch.next

theorem State.Canon.endFuture {s : State} {T : Team} (hs : s.Canon) : (s.endFuture T).Canon := by
  unfold State.endFuture
  extract_lets E
  exact .ite hs (.ite hs (.ite hs.completeFuture (.ite hs.freeFuture hs)))

theorem State.Canon.endLaunch {s : State} {T : Team} (hs : s.Canon) : (s.endLaunch T).Canon := by
  unfold State.endLaunch
  split
  · exact .ite hs hs.completePkt
  · exact hs

theorem State.Canon.endGroup {s : State} {T : Team} (hs : s.Canon) : (s.endGroup T).Canon := by
  unfold State.endGroup
  exact .ite hs (.ite (.same hs rfl) hs.tryExchange)

theorem State.Canon.endTeam {s : State} {t : Nat} {placed : Bool} (hs : s.Canon) : (s.endTeam t placed).Canon := by
  unfold State.endTeam
  extract_lets T cores s1 s2 s3 s4 s5
  have h1 : s1.Canon := .ite hs.countSlots hs
  have h2 : s2.Canon := h1.endFuture.dropRegs.dropMonitors
  have h3 : s3.Canon := .ite h2.leaveCbar h2
  have h4 : s4.Canon := h3.modTeam
  have h5 : s5.Canon := h4.endGroup.endLaunch
  exact .watch (.ite h5.leavePlace h5)

theorem Out.Canon.execTeamRetire {team : Nat} {s : State} (hs : s.Canon) : Out.Canon (execTeamRetire team s) := by
  unfold Machine.execTeamRetire
  extract_lets T
  refine .ite hs.next ?_
  split
  · exact hs.startFlush.modTeam.next
  · exact .ite hs.dropFaults.endTeam.next hs.next

theorem State.Canon.killTeam {s : State} {t : Nat} (hs : s.Canon) : (s.killTeam t).Canon := by
  unfold State.killTeam
  extract_lets T s1 s2
  have h1 : s1.Canon := .ite hs.resolveMisses.modTeam hs
  have h2 : s2.Canon := h1.dropOps.dropCopies.dropFaults.dropLadle
  exact h2.modTeam.dropMonitors

theorem State.Canon.freeKilled {s : State} {t : Nat} (hs : s.Canon) : (s.freeKilled t).Canon := by
  unfold State.freeKilled
  extract_lets T s1 s2
  have h1 : s1.Canon := .ite hs.countSlots.leaveCbar hs
  have h2 : s2.Canon := h1.modTeam
  exact .ite h2.leavePlace h2

theorem State.Canon.endKill {s : State} {c : Nat} (hs : s.Canon) : (s.endKill c).Canon := by
  unfold State.endKill
  extract_lets ts cores s2 s3 s4 s5
  have h2 : s2.Canon := .foldl hs (fun _ _ h' => h'.freeKilled)
  have h3 : s3.Canon := .same h2 rfl
  have h4 : s4.Canon := h3.killPrqs.killPackets
  have h5 : s5.Canon := .foldl h4 (fun _ _ h' => h'.returnMeter)
  exact h5.modCtx.tellHost

theorem State.Canon.settleKills {s : State} (hs : s.Canon) : s.settleKills.Canon := by
  unfold State.settleKills
  refine .foldl hs (fun s' q h' => ?_)
  split
  · exact .ite h'.endKill h'
  · exact h'

theorem State.Canon.killFor {s : State} {c : Nat} {why : Notice} (hs : s.Canon) : (s.killFor c why).Canon := by
  unfold State.killFor
  extract_lets f s0 s1 s2
  have h0 : s0.Canon := .same hs rfl
  have h1 : s1.Canon := h0.startFlush
  have h2 : s2.Canon := .foldl h1 (fun _ _ h' => h'.killTeam)
  exact .ite hs h2.modCtx.settleKills

theorem State.Canon.killTold {s : State} {c : Nat} (hs : s.Canon) : (s.killTold c).Canon := hs.killFor

theorem State.Canon.deliverSlots {s : State} {core ctx block : Nat} {op : AccOpc} {slots : Tbl W32} (hs : s.Canon) :
    (s.deliverSlots core ctx block op slots).Canon := by
  unfold State.deliverSlots
  extract_lets h s0 s1 s2
  have h0 : s0.Canon := hs.settleLine.sliceWriteLine
  have h1 : s1.Canon := h0.modSlice
  have h2 : s2.Canon := .of_wf (wf_applySlots h1 _ _ _)
  exact .ite (.ite h2.report h2) hs.sendSlots

theorem State.Canon.deliverAll {s : State} {c : Nat} (hs : s.Canon) : (s.deliverAll c).Canon := by
  unfold State.deliverAll
  refine .foldl hs (fun s' k h' => ?_)
  extract_lets C pkts s1 s2 s3 s4
  have h1 : s1.Canon := .foldl h' (fun _ _ h'' => h''.settleLine)
  have h2 : s2.Canon := .foldl h1 (fun _ _ h'' => .deliverSlots (.ite h''.modSlice h''))
  have h3 : s3.Canon := .foldl h2 (fun _ _ h'' => h''.unbookEntry.chargePacket.deliverSlots)
  have h4 : s4.Canon := .foldl h3 (fun _ _ h'' => h''.chargePacket.deliverSlots)
  exact h4.modCore

theorem State.Canon.killNow {s : State} {c : Nat} {why : Notice} (hs : s.Canon) : (s.killNow c why).Canon := by
  unfold State.killNow
  extract_lets s1
  have h1 : s1.Canon := hs.killFor
  exact .ite h1.deliverAll.endKill h1

theorem State.Canon.goOnStopping {s : State} {t : Nat} (hs : s.Canon) : (s.goOnStopping t).Canon := by
  unfold State.goOnStopping
  extract_lets s1
  have h1 : s1.Canon := .foldl hs (fun _ _ h' => h'.markStops)
  exact .ite h1.beginSaves h1

theorem Out.Canon.execSpillTest {team : Nat} {s : State} (hs : s.Canon) : Out.Canon (execSpillTest team s) := by
  unfold Machine.execSpillTest
  extract_lets T s1 ts rs
  have h1 : s1.Canon := hs.modTeam
  clear_value rs
  split
  · exact h1.next
  · exact .ite h1.next (State.Canon.next (.goOnStopping (.foldl h1 (fun _ _ h' => h'.askOne))))

theorem Out.Canon.execRotationPreemption {team : Nat} {s : State} (hs : s.Canon) : Out.Canon (execRotationPreemption team s) :=
  hs.askStop.next

theorem Out.Canon.execPrivilegedContextSave {ctx : Nat} {s : State} (hs : s.Canon) : Out.Canon (execPrivilegedContextSave ctx s) := by
  unfold Machine.execPrivilegedContextSave
  exact State.Canon.next (.foldl hs (fun _ _ h' => h'.askStop))

theorem Out.Canon.execRotationTimeout {team : Nat} {s : State} (hs : s.Canon) : Out.Canon (execRotationTimeout team s) := by
  unfold Machine.execRotationTimeout
  extract_lets T
  split
  · exact hs.next
  · exact .ite hs.next hs.modTeam.markStops.next

theorem State.Canon.askMates {s : State} {t : Nat} {r : StopReq} (hs : s.Canon) : (s.askMates t r).Canon := by
  unfold State.askMates
  exact .foldl hs (fun _ _ h' => h'.askOne)

theorem State.Canon.deferredKill {s : State} {c : Nat} (hs : s.Canon) : (s.deferredKill c).Canon := by
  unfold State.deferredKill
  exact .ite hs.killFor hs

theorem Out.Canon.execTeamSave {team : Nat} {s : State} (hs : s.Canon) : Out.Canon (execTeamSave team s) := by
  unfold Machine.execTeamSave
  extract_lets T s1
  have h1 : s1.Canon := hs.finishSave
  refine .ite hs.next (.ite (.ite (.ite h1.modTeam.next h1.deferredKill.watch.next) hs.next) ?_)
  split
  · exact hs.next
  · exact .ite hs.next hs.askMates.goOnStopping.next

theorem Out.Canon.execTeamRestore {die team core : Nat} {s : State} (hs : s.Canon) : Out.Canon (execTeamRestore die team core s) := by
  unfold Machine.execTeamRestore
  split
  · exact hs.next
  · extract_lets r got
    have hr : r.1.Canon := by
      unfold r
      refine .foldlFst hs (fun r' q hr' => ?_)
      split
      · rename_i heq
        exact State.Canon.fst hr'.readRecord heq
    exact .ite (State.Canon.next (.foldl hr (fun _ _ h1 => h1.modTeam)))
        (.ite (State.Canon.next (.watch (.foldl hr (fun _ _ h' => h'.loadTeam))))
        (State.Canon.next (.foldl hr (fun _ _ h' => h'.badRecord))))

theorem Out.Canon.execWatchdogExpiry {ctx : Nat} {s : State} (hs : s.Canon) : Out.Canon (execWatchdogExpiry ctx s) := by
  unfold Machine.execWatchdogExpiry
  extract_lets C
  split
  · exact hs.next
  · exact .ite hs.next (.ite hs.modCtx.next hs.killFor.next)

theorem State.Canon.partRecord {s : State} {t : Nat} (hs : s.Canon) : (s.partRecord t).Canon := by
  unfold State.partRecord
  extract_lets T
  refine .ite hs ?_
  split
  · rename_i s1 heq
    have h1 : s1.Canon := State.Canon.fst hs.recordPlaces heq
    exact hs
  · rename_i s1 _ heq
    have h1 : s1.Canon := State.Canon.fst hs.recordPlaces heq
    extract_lets bs written
    exact .putRecord (.same h1 rfl)

theorem Out.Canon.execSaveBoundExpiry {team : Nat} {s : State} (hs : s.Canon) : Out.Canon (execSaveBoundExpiry team s) := by
  unfold Machine.execSaveBoundExpiry
  extract_lets T
  split
  · exact hs.next
  · split
    · exact .ite hs.partRecord.killFor.next hs.next
    · exact hs.next

theorem Out.Canon.execClusterLend {cluster part : Nat} {s : State} (hs : s.Canon) : Out.Canon (execClusterLend cluster part s) := by
  unfold Machine.execClusterLend
  exact .ite hs.cleanCluster.modCluster.next hs.next

theorem State.Canon.startReclaim {s : State} {cl : Nat} (hs : s.Canon) : (s.startReclaim cl).Canon := by
  unfold State.startReclaim
  extract_lets C s1
  have h1 : s1.Canon := hs.modCluster
  exact .ite hs (.settleCluster (.foldl h1 (fun _ _ h' => h'.askStop)))

theorem Out.Canon.execClusterReclaim {cluster : Nat} {s : State} (hs : s.Canon) : Out.Canon (execClusterReclaim cluster s) := by
  unfold Machine.execClusterReclaim
  split
  · exact .ite hs.startReclaim.next hs.next
  · exact hs.next

theorem Out.Canon.execReclaimRefusedTimeout {team : Nat} {s : State} (hs : s.Canon) :
    Out.Canon (execReclaimRefusedTimeout team s) := by
  unfold Machine.execReclaimRefusedTimeout
  extract_lets T
  split
  · exact hs.next
  · exact .ite hs.killFor.next hs.next

theorem Out.Canon.execFutureReclaim {team : Nat} {s : State} (hs : s.Canon) : Out.Canon (execFutureReclaim team s) := by
  unfold Machine.execFutureReclaim
  extract_lets T s1 s2
  have h1 : s1.Canon := .foldl hs.resolveMisses (fun _ _ h' => h'.drainAll)
  have h2 : s2.Canon := h1.dropOps.dropCopies.dropRequests
  exact .ite hs.next (.ite hs.endTeam.next (.ite hs.setTeam.next (.ite h2.modTeam.next hs.next)))

theorem Out.Canon.execLimiterRefill {die part : Nat} {s : State} (hs : s.Canon) : Out.Canon (execLimiterRefill die part s) := by
  unfold Machine.execLimiterRefill
  extract_lets D n
  exact .ite hs.next hs.modDie.next

end Sys2Proof.Machine
end

section
/-! What is defined in Machine/Fabric.lean keeps memory in canonical form. -/

namespace Sys2Proof.Machine

theorem State.Canon.saveEcc {s : State} {t pa : Nat} (hs : s.Canon) : (s.saveEcc t pa).Canon := by
  unfold State.saveEcc
  extract_lets T
  split
  · exact hs
  · extract_lets ls pc run base
    exact .ite hs hs.setTeam

theorem State.Canon.flushEcc {s : State} {f pa : Nat} (hs : s.Canon) : (s.flushEcc f pa).Canon := by
  unfold State.flushEcc
  refine .foldl hs (fun s' T h' => ?_)
  extract_lets s1
  have h1 : s1.Canon := .ite h'.saveEcc h'
  refine .foldl h1 (fun s'' g h'' => ?_)
  extract_lets G run
  clear_value run
  split
  · exact h''
  · exact h''.setGang.deliver

theorem State.Canon.discardAddends {s : State} {lost : Nat → Bool} {source : Nat} (hs : s.Canon) :
    (s.discardAddends lost source).Canon := by
  unfold State.discardAddends
  refine .foldl hs (fun s' c h' => ?_)
  extract_lets C es ps gs covs s1 s2 s3 blocks s4 s5
  have h1 : s1.Canon := h'.modCore
  have h2 : s2.Canon := .foldl h1 (fun _ _ h'' => .ite h'' (.same h'' rfl))
  have h3 : s3.Canon := .foldl h2 (fun _ _ h'' => h''.modGang)
  have h4 : s4.Canon := .foldl h3 (fun _ _ h'' => h''.report)
  have h5 : s5.Canon := .foldl h4 (fun _ _ h'' => h''.flushEcc)
  exact h5.corePort

theorem State.Canon.loseUnreachable {s : State} (hs : s.Canon) : s.loseUnreachable.Canon := by
  unfold State.loseUnreachable
  extract_lets away
  exact hs.discardAddends.collUnreachable.endFlushes

theorem State.Canon.setPortState {s : State} {p st : Nat} (hs : s.Canon) : (s.setPortState p st).Canon := by
  unfold State.setPortState
  extract_lets base
  exact .ite hs (.signal (.same hs rfl))

theorem State.Canon.moveFlits {s : State} {p : Nat} (hs : s.Canon) : (s.moveFlits p).Canon := .same hs rfl

theorem Out.Canon.execPortFailure {port : Nat} {s : State} (hs : s.Canon) : Out.Canon (execPortFailure port s) := by
  unfold Machine.execPortFailure
  exact .ite hs.next hs.setPortState.moveFlits.loseUnreachable.next

theorem Out.Canon.execFlitReplay {port : Nat} {s : State} (hs : s.Canon) : Out.Canon (execFlitReplay port s) := by
  unfold Machine.execFlitReplay
  extract_lets base
  exact .ite hs.next (State.Canon.next (.same hs rfl))

theorem State.Canon.raisePort {s : State} {p : Nat} (hs : s.Canon) : (s.raisePort p).Canon := by
  unfold State.raisePort
  extract_lets P
  exact hs.setPortState

theorem Out.Canon.execMediumIdentify {port : Nat} {ok : Bool} {s : State} (hs : s.Canon) :
    Out.Canon (execMediumIdentify port ok s) := by
  unfold Machine.execMediumIdentify
  extract_lets base P
  exact .ite hs.next (.ite (State.Canon.next (.raisePort (.same hs rfl))) hs.setPortState.moveFlits.loseUnreachable.next)

theorem State.Canon.retrain {s : State} {p : Nat} (hs : s.Canon) : (s.retrain p).Canon := hs.setPortState.moveFlits.raisePort

theorem State.Canon.assignNumbers {s : State} {v : W64} (hs : s.Canon) : (s.assignNumbers v).Canon := by
  unfold State.assignNumbers
  exact .foldl (.same hs rfl) (fun _ _ h' => .ite h'.raisePort h')

theorem State.Canon.reply {s before : State} {pkg pa : Nat} {bytes : List Byte} (hs : s.Canon) :
    (s.reply before pkg pa bytes).Canon := by
  unfold State.reply
  exact .ite hs (.same hs rfl)

theorem State.Canon.homeStore {s : State} {p pa : Nat} {bs : List Byte} (hs : s.Canon) : (s.homeStore p pa bs).Canon :=
  hs.settleLine.sliceWriteLine.putMem

theorem State.Canon.remoteAccum {s : State} {pkg p pa : Nat} {op : AccOpc} {slots : Tbl W32} {late : Bool} (hs : s.Canon) :
    (s.remoteAccum pkg p pa op slots late).Canon := by
  unfold State.remoteAccum
  extract_lets line h S full s1 s2 s0 s1' s2'
  have h1 : s1.Canon := .ite hs.refusalPending hs
  have h2 : s2.Canon := .ite h1.modSlice h1
  have h0 : s0.Canon := hs.settleLine.sliceWriteLine
  have h1' : s1'.Canon := .of_wf (wf_applySlots h0 _ _ _)
  have h2' : s2'.Canon := .ite h1'.report h1'
  exact .ite h2.reply h2'.modSlice.reply

theorem Out.Canon.execRemoteRequestAdmission {pkg tag pa : Nat} {req : RemoteReq} {s : State} (hs : s.Canon) :
    Out.Canon (execRemoteRequestAdmission pkg tag pa req s) := by
  unfold Machine.execRemoteRequestAdmission
  extract_lets line s1 s1' s1''
  have h1 : s1.Canon := hs.wakeLine
  have h1' : s1'.Canon := hs.signal
  have h1'' : s1''.Canon := hs.settleLine.invalidate
  split
  · exact State.Canon.next (.foldl h1 (fun _ _ h' => h'.requeue))
  · split
    · exact h1'.reply.next
    · extract_lets s1'''
      have h1''' : s1'''.Canon := hs.sliceFetch
      split
      · exact h1'''.reply.next
      · exact hs.homeStore.reply.next
      · extract_lets n x'
        exact .ite hs.next (.ite h1''.reply.next h1''.homeStore.reply.next)
      · exact hs.remoteAccum.next
      · exact .ite hs.modSlice.next hs.sendFlits.next
      · exact hs.next

theorem Out.Canon.execExchangePortFailure {cluster : Nat} {s : State} (hs : s.Canon) :
    Out.Canon (execExchangePortFailure cluster s) := by
  unfold Machine.execExchangePortFailure
  extract_lets cs s1
  have h1 : s1.Canon := hs.modCluster
  exact State.Canon.next (.report (.foldl h1 (fun _ _ h' => h'.killTold)))

theorem Out.Canon.execPairLinkFailure {pair : Nat} {s : State} (hs : s.Canon) : Out.Canon (execPairLinkFailure pair s) :=
  hs.modCore.modCore.report.next

end Sys2Proof.Machine
end

section
/-! What is defined in Machine/Integer.lean keeps memory in canonical form. -/

namespace Sys2Proof.Machine

theorem Out.Canon.regWord {i : Instr} {g : Grd} {once : Bool} {s : State} {f : Gang → Nat → Gang} (hs : s.Canon) :
    Out.Canon (regWord i g once s f) := by
  unfold Machine.regWord
  exact .runWord hs (fun _ h' => .next h'.setCur)

theorem Out.Canon.execIadd {g : Grd} {t : ITy} {d a b : Opd} {s : State} (hs : s.Canon) : Out.Canon (execIadd g t d a b s) :=
  .regWord hs

theorem Out.Canon.execIsub {g : Grd} {t : ITy} {d a b : Opd} {s : State} (hs : s.Canon) : Out.Canon (execIsub g t d a b s) :=
  .regWord hs

theorem Out.Canon.execIaddsat {g : Grd} {t : ITy} {d a b : Opd} {s : State} (hs : s.Canon) : Out.Canon (execIaddsat g t d a b s) :=
  .regWord hs

theorem Out.Canon.execIsubsat {g : Grd} {t : ITy} {d a b : Opd} {s : State} (hs : s.Canon) : Out.Canon (execIsubsat g t d a b s) :=
  .regWord hs

theorem Out.Canon.execImul {g : Grd} {t : ITy} {d a b : Opd} {s : State} (hs : s.Canon) : Out.Canon (execImul g t d a b s) :=
  .regWord hs

theorem Out.Canon.execImulh {g : Grd} {t : ITy} {d a b : Opd} {s : State} (hs : s.Canon) : Out.Canon (execImulh g t d a b s) :=
  .regWord hs

theorem Out.Canon.execImad {g : Grd} {t : ITy} {d a b c : Opd} {s : State} (hs : s.Canon) : Out.Canon (execImad g t d a b c s) :=
  .regWord hs

theorem Out.Canon.execIdiv {g : Grd} {t : ITy} {d a b : Opd} {s : State} (hs : s.Canon) : Out.Canon (execIdiv g t d a b s) :=
  .regWord hs

theorem Out.Canon.execIrem {g : Grd} {t : ITy} {d a b : Opd} {s : State} (hs : s.Canon) : Out.Canon (execIrem g t d a b s) :=
  .regWord hs

theorem Out.Canon.execImin {g : Grd} {t : ITy} {d a b : Opd} {s : State} (hs : s.Canon) : Out.Canon (execImin g t d a b s) :=
  .regWord hs

theorem Out.Canon.execImax {g : Grd} {t : ITy} {d a b : Opd} {s : State} (hs : s.Canon) : Out.Canon (execImax g t d a b s) :=
  .regWord hs

theorem Out.Canon.execIabs {g : Grd} {t : ITy} {sat : Bool} {d a : Opd} {s : State} (hs : s.Canon) :
    Out.Canon (execIabs g t sat d a s) :=
  .regWord hs

theorem Out.Canon.execIneg {g : Grd} {t : ITy} {sat : Bool} {d a : Opd} {s : State} (hs : s.Canon) :
    Out.Canon (execIneg g t sat d a s) :=
  .regWord hs

theorem Out.Canon.execAnd {g : Grd} {t : ITy} {d a b : Opd} {s : State} (hs : s.Canon) : Out.Canon (execAnd g t d a b s) := .regWord hs

theorem Out.Canon.execOr {g : Grd} {t : ITy} {d a b : Opd} {s : State} (hs : s.Canon) : Out.Canon (execOr g t d a b s) := .regWord hs

theorem Out.Canon.execXor {g : Grd} {t : ITy} {d a b : Opd} {s : State} (hs : s.Canon) : Out.Canon (execXor g t d a b s) := .regWord hs

theorem Out.Canon.execNot {g : Grd} {t : ITy} {d a : Opd} {s : State} (hs : s.Canon) : Out.Canon (execNot g t d a s) := .regWord hs

theorem Out.Canon.execAndn {g : Grd} {t : ITy} {d a b : Opd} {s : State} (hs : s.Canon) : Out.Canon (execAndn g t d a b s) :=
  .regWord hs

theorem Out.Canon.execShl {g : Grd} {t : ITy} {d a b : Opd} {s : State} (hs : s.Canon) : Out.Canon (execShl g t d a b s) := .regWord hs

theorem Out.Canon.execShr {g : Grd} {t : ITy} {d a b : Opd} {s : State} (hs : s.Canon) : Out.Canon (execShr g t d a b s) := .regWord hs

theorem Out.Canon.execSar {g : Grd} {t : ITy} {d a b : Opd} {s : State} (hs : s.Canon) : Out.Canon (execSar g t d a b s) := .regWord hs

theorem Out.Canon.execRotl {g : Grd} {t : ITy} {d a b : Opd} {s : State} (hs : s.Canon) : Out.Canon (execRotl g t d a b s) :=
  .regWord hs

theorem Out.Canon.execBfx {g : Grd} {t : ITy} {d a b c : Opd} {s : State} (hs : s.Canon) : Out.Canon (execBfx g t d a b c s) :=
  .regWord hs

theorem Out.Canon.execBfi {g : Grd} {t : ITy} {d a b c : Opd} {s : State} (hs : s.Canon) : Out.Canon (execBfi g t d a b c s) :=
  .regWord hs

theorem Out.Canon.execPopc {g : Grd} {t : ITy} {d a : Opd} {s : State} (hs : s.Canon) : Out.Canon (execPopc g t d a s) := .regWord hs

theorem Out.Canon.execClz {g : Grd} {t : ITy} {d a : Opd} {s : State} (hs : s.Canon) : Out.Canon (execClz g t d a s) := .regWord hs

theorem Out.Canon.execCtz {g : Grd} {t : ITy} {d a : Opd} {s : State} (hs : s.Canon) : Out.Canon (execCtz g t d a s) := .regWord hs

theorem Out.Canon.execBrev {g : Grd} {t : ITy} {d a : Opd} {s : State} (hs : s.Canon) : Out.Canon (execBrev g t d a s) := .regWord hs

theorem Out.Canon.execBswap {g : Grd} {t : ITy} {d a : Opd} {s : State} (hs : s.Canon) : Out.Canon (execBswap g t d a s) := .regWord hs

theorem Out.Canon.execSel {g : Grd} {t : ITy} {d : BitVec 8} {a b : Opd} {c : BitVec 8} {s : State} (hs : s.Canon) :
    Out.Canon (execSel g t d a b c s) :=
  .regWord hs

theorem Out.Canon.execMov {g : Grd} {t : ITy} {d a : Opd} {s : State} (hs : s.Canon) : Out.Canon (execMov g t d a s) := .regWord hs

theorem Out.Canon.execLea {g : Grd} {t : ITy} {d a b : Opd} {sh : BitVec 8} {s : State} (hs : s.Canon) :
    Out.Canon (execLea g t d a b sh s) :=
  .regWord hs

theorem Out.Canon.execMovi {g : Grd} {d : Opd} {imm : BitVec 32} {s : State} (hs : s.Canon) : Out.Canon (execMovi g d imm s) :=
  .regWord hs

theorem Out.Canon.execMovh {g : Grd} {d : Opd} {imm : BitVec 32} {s : State} (hs : s.Canon) : Out.Canon (execMovh g d imm s) :=
  .regWord hs

theorem Out.Canon.execIcmp {g : Grd} {cd : Cond} {t : ITy} {d : BitVec 8} {a b : Opd} {s : State} (hs : s.Canon) :
    Out.Canon (execIcmp g cd t d a b s) :=
  .regWord hs

theorem Out.Canon.execPlop {g : Grd} {op : PlopOp} {d a b : BitVec 8} {s : State} (hs : s.Canon) :
    Out.Canon (execPlop g op d a b s) :=
  .regWord hs

theorem Out.Canon.execPmov {g : Grd} {neg : Bool} {d a : BitVec 8} {s : State} (hs : s.Canon) : Out.Canon (execPmov g neg d a s) :=
  .regWord hs

theorem Out.Canon.execVote {g : Grd} {mode : VoteMode} {d a : BitVec 8} {s : State} (hs : s.Canon) :
    Out.Canon (execVote g mode d a s) := by
  unfold Machine.execVote
  refine .runWord hs (fun s' h' => ?_)
  extract_lets v
  exact .next h'.setCur

theorem Out.Canon.execBallot {g : Grd} {d a : BitVec 8} {s : State} (hs : s.Canon) : Out.Canon (execBallot g d a s) := by
  unfold Machine.execBallot
  refine .runWord hs (fun s' h' => ?_)
  extract_lets v
  exact .next h'.setCur

theorem Out.Canon.execShfl {g : Grd} {mode : ShflMode} {t : ITy} {d a : BitVec 8} {b : Opd} {pout : Option (BitVec 8)} {s : State}
    (hs : s.Canon) :
    Out.Canon (execShfl g mode t d a b pout s) := by
  unfold Machine.execShfl
  refine .runWord hs (fun s' h' => ?_)
  extract_lets G act vals
  exact .next h'.setCur

theorem Out.Canon.execBcast {g : Grd} {t : ITy} {d a b : BitVec 8} {s : State} (hs : s.Canon) : Out.Canon (execBcast g t d a b s) := by
  unfold Machine.execBcast
  refine .runWord hs (fun s' h' => ?_)
  extract_lets G x
  exact .next h'.setCur

theorem Out.Canon.execVrd {g : Grd} {t : ITy} {d a b : BitVec 8} {s : State} (hs : s.Canon) : Out.Canon (execVrd g t d a b s) := by
  unfold Machine.execVrd
  refine .runWord hs (fun s' h' => ?_)
  extract_lets G x
  exact .next h'.setCur

theorem Out.Canon.execIdp4 {g : Grd} {sgn sat : Bool} {d a b c : Opd} {s : State} (hs : s.Canon) :
    Out.Canon (execIdp4 g sgn sat d a b c s) :=
  .regWord hs

theorem Out.Canon.execIdp8 {g : Grd} {sat : Bool} {d a b c : Opd} {s : State} (hs : s.Canon) :
    Out.Canon (execIdp8 g sat d a b c s) :=
  .regWord hs

theorem Out.Canon.execIaddImm {g : Grd} {sc : Bool} {t : ITy} {d a : BitVec 8} {im : BitVec 24} {s : State} (hs : s.Canon) :
    Out.Canon (execIaddImm g sc t d a im s) :=
  .regWord hs

theorem Out.Canon.execIsubImm {g : Grd} {sc : Bool} {t : ITy} {d a : BitVec 8} {im : BitVec 24} {s : State} (hs : s.Canon) :
    Out.Canon (execIsubImm g sc t d a im s) :=
  .regWord hs

theorem Out.Canon.execImulImm {g : Grd} {sc : Bool} {t : ITy} {d a : BitVec 8} {im : BitVec 24} {s : State} (hs : s.Canon) :
    Out.Canon (execImulImm g sc t d a im s) :=
  .regWord hs

theorem Out.Canon.execIminImm {g : Grd} {sc : Bool} {t : ITy} {d a : BitVec 8} {im : BitVec 24} {s : State} (hs : s.Canon) :
    Out.Canon (execIminImm g sc t d a im s) :=
  .regWord hs

theorem Out.Canon.execImaxImm {g : Grd} {sc : Bool} {t : ITy} {d a : BitVec 8} {im : BitVec 24} {s : State} (hs : s.Canon) :
    Out.Canon (execImaxImm g sc t d a im s) :=
  .regWord hs

theorem Out.Canon.execAndImm {g : Grd} {sc : Bool} {t : ITy} {d a : BitVec 8} {im : BitVec 24} {s : State} (hs : s.Canon) :
    Out.Canon (execAndImm g sc t d a im s) :=
  .regWord hs

theorem Out.Canon.execOrImm {g : Grd} {sc : Bool} {t : ITy} {d a : BitVec 8} {im : BitVec 24} {s : State} (hs : s.Canon) :
    Out.Canon (execOrImm g sc t d a im s) :=
  .regWord hs

theorem Out.Canon.execXorImm {g : Grd} {sc : Bool} {t : ITy} {d a : BitVec 8} {im : BitVec 24} {s : State} (hs : s.Canon) :
    Out.Canon (execXorImm g sc t d a im s) :=
  .regWord hs

theorem Out.Canon.execShlImm {g : Grd} {sc : Bool} {t : ITy} {d a : BitVec 8} {im : BitVec 24} {s : State} (hs : s.Canon) :
    Out.Canon (execShlImm g sc t d a im s) :=
  .regWord hs

theorem Out.Canon.execShrImm {g : Grd} {sc : Bool} {t : ITy} {d a : BitVec 8} {im : BitVec 24} {s : State} (hs : s.Canon) :
    Out.Canon (execShrImm g sc t d a im s) :=
  .regWord hs

theorem Out.Canon.execSarImm {g : Grd} {sc : Bool} {t : ITy} {d a : BitVec 8} {im : BitVec 24} {s : State} (hs : s.Canon) :
    Out.Canon (execSarImm g sc t d a im s) :=
  .regWord hs

theorem Out.Canon.execRotlImm {g : Grd} {sc : Bool} {t : ITy} {d a : BitVec 8} {im : BitVec 24} {s : State} (hs : s.Canon) :
    Out.Canon (execRotlImm g sc t d a im s) :=
  .regWord hs

theorem Out.Canon.execIcmpImm {g : Grd} {sc : Bool} {cd : Cond} {t : ITy} {d a : BitVec 8} {im : BitVec 24} {s : State} (hs : s.Canon) :
    Out.Canon (execIcmpImm g sc cd t d a im s) :=
  .regWord hs

end Sys2Proof.Machine
end

section
/-! What is defined in Machine/Float.lean keeps memory in canonical form. -/

namespace Sys2Proof.Machine

theorem Out.Canon.floatEffects {s : State} {i : Instr} {rs : List (Nat × LaneEff)} (hs : s.Canon) :
    Out.Canon (s.floatEffects i rs) := by
  unfold State.floatEffects
  extract_lets G
  split
  · exact .next hs.setCur
  · exact hs.trapLanes.next

theorem Out.Canon.floatWord {i : Instr} {g : Grd} {s : State} {comp : Gang → Nat → LaneEff} (hs : s.Canon) :
    Out.Canon (floatWord i g s comp) := by
  unfold Machine.floatWord
  exact .runWord hs (fun _ h' => .floatEffects h')

theorem Out.Canon.execFadd {g : Grd} {rm : Rm} {d : BitVec 8} {a b : Opd} {s : State} (hs : s.Canon) :
    Out.Canon (execFadd g rm d a b s) :=
  .floatWord hs

theorem Out.Canon.execFsub {g : Grd} {rm : Rm} {d : BitVec 8} {a b : Opd} {s : State} (hs : s.Canon) :
    Out.Canon (execFsub g rm d a b s) :=
  .floatWord hs

theorem Out.Canon.execFmul {g : Grd} {rm : Rm} {d : BitVec 8} {a b : Opd} {s : State} (hs : s.Canon) :
    Out.Canon (execFmul g rm d a b s) :=
  .floatWord hs

theorem Out.Canon.execFfma {g : Grd} {rm : Rm} {d : BitVec 8} {a b c : Opd} {s : State} (hs : s.Canon) :
    Out.Canon (execFfma g rm d a b c s) :=
  .floatWord hs

theorem Out.Canon.execFmin {g : Grd} {d : BitVec 8} {a b : Opd} {s : State} (hs : s.Canon) : Out.Canon (execFmin g d a b s) :=
  .floatWord hs

theorem Out.Canon.execFmax {g : Grd} {d : BitVec 8} {a b : Opd} {s : State} (hs : s.Canon) : Out.Canon (execFmax g d a b s) :=
  .floatWord hs

theorem Out.Canon.execFcmp {g : Grd} {cd : FCond} {d : BitVec 8} {a b : Opd} {s : State} (hs : s.Canon) :
    Out.Canon (execFcmp g cd d a b s) :=
  .floatWord hs

theorem Out.Canon.execFclass {g : Grd} {d : BitVec 8} {a : Opd} {s : State} (hs : s.Canon) : Out.Canon (execFclass g d a s) :=
  .floatWord hs

theorem Out.Canon.execFrnd {g : Grd} {rm : Rm} {d : BitVec 8} {a : Opd} {s : State} (hs : s.Canon) :
    Out.Canon (execFrnd g rm d a s) :=
  .floatWord hs

theorem Out.Canon.execFscale {g : Grd} {rm : Rm} {d : BitVec 8} {a b : Opd} {s : State} (hs : s.Canon) :
    Out.Canon (execFscale g rm d a b s) :=
  .floatWord hs

theorem Out.Canon.execFgetexp {g : Grd} {d : BitVec 8} {a : Opd} {s : State} (hs : s.Canon) : Out.Canon (execFgetexp g d a s) :=
  .floatWord hs

theorem Out.Canon.execFcvt {g : Grd} {kind : CvtKind} {rm : Rm} {inf : Bool} {d : BitVec 8} {a : Opd} {s : State} (hs : s.Canon) :
    Out.Canon (execFcvt g kind rm inf d a s) :=
  .floatWord hs

theorem Out.Canon.execF2i {g : Grd} {src : FFmt} {dst : Option ITy} {rm : Rm} {d : BitVec 8} {a : Opd} {s : State} (hs : s.Canon) :
    Out.Canon (execF2i g src dst rm d a s) :=
  .floatWord hs

theorem Out.Canon.execI2f {g : Grd} {dst : FFmt} {src : Option ITy} {rm : Rm} {d : BitVec 8} {a : Opd} {s : State} (hs : s.Canon) :
    Out.Canon (execI2f g dst src rm d a s) :=
  .floatWord hs

theorem Out.Canon.execHxadd {g : Grd} {rm : Rm} {d : BitVec 8} {a b : Opd} {s : State} (hs : s.Canon) :
    Out.Canon (execHxadd g rm d a b s) :=
  .floatWord hs

theorem Out.Canon.execHxmul {g : Grd} {rm : Rm} {d : BitVec 8} {a b : Opd} {s : State} (hs : s.Canon) :
    Out.Canon (execHxmul g rm d a b s) :=
  .floatWord hs

theorem Out.Canon.execHxfma {g : Grd} {rm : Rm} {d : BitVec 8} {a b c : Opd} {s : State} (hs : s.Canon) :
    Out.Canon (execHxfma g rm d a b c s) :=
  .floatWord hs

theorem Out.Canon.execBxadd {g : Grd} {rm : Rm} {d : BitVec 8} {a b : Opd} {s : State} (hs : s.Canon) :
    Out.Canon (execBxadd g rm d a b s) :=
  .floatWord hs

theorem Out.Canon.execBxmul {g : Grd} {rm : Rm} {d : BitVec 8} {a b : Opd} {s : State} (hs : s.Canon) :
    Out.Canon (execBxmul g rm d a b s) :=
  .floatWord hs

theorem Out.Canon.execBxfma {g : Grd} {rm : Rm} {d : BitVec 8} {a b c : Opd} {s : State} (hs : s.Canon) :
    Out.Canon (execBxfma g rm d a b c s) :=
  .floatWord hs

theorem Out.Canon.execFdp2 {g : Grd} {b16 : Bool} {rm : Rm} {d : BitVec 8} {a b c : Opd} {s : State} (hs : s.Canon) :
    Out.Canon (execFdp2 g b16 rm d a b c s) :=
  .floatWord hs

theorem Out.Canon.specialWord {i : Instr} {fn : Nat} {g : Grd} {la : BitVec 4} {rm : Rm} {d : BitVec 8} {a : Opd} {s : State}
    (hs : s.Canon) :
    Out.Canon (specialWord i fn g la rm d a s) := by
  unfold Machine.specialWord
  refine .runWord hs (fun s' h' => ?_)
  extract_lets G rs
  split
  · exact h'.results.next
  · exact h'.trapLanes.next

theorem Out.Canon.execFrcp {g : Grd} {la : BitVec 4} {d : BitVec 8} {a : Opd} {s : State} (hs : s.Canon) :
    Out.Canon (execFrcp g la d a s) :=
  .specialWord hs

theorem Out.Canon.execFrsq {g : Grd} {la : BitVec 4} {d : BitVec 8} {a : Opd} {s : State} (hs : s.Canon) :
    Out.Canon (execFrsq g la d a s) :=
  .specialWord hs

theorem Out.Canon.execFsqrt {g : Grd} {la : BitVec 4} {rm : Rm} {d : BitVec 8} {a : Opd} {s : State} (hs : s.Canon) :
    Out.Canon (execFsqrt g la rm d a s) :=
  .specialWord hs

theorem Out.Canon.execFexp2 {g : Grd} {la : BitVec 4} {d : BitVec 8} {a : Opd} {s : State} (hs : s.Canon) :
    Out.Canon (execFexp2 g la d a s) :=
  .specialWord hs

theorem Out.Canon.execFlog2 {g : Grd} {la : BitVec 4} {d : BitVec 8} {a : Opd} {s : State} (hs : s.Canon) :
    Out.Canon (execFlog2 g la d a s) :=
  .specialWord hs

theorem Out.Canon.execFsin {g : Grd} {la : BitVec 4} {d : BitVec 8} {a : Opd} {s : State} (hs : s.Canon) :
    Out.Canon (execFsin g la d a s) :=
  .specialWord hs

theorem Out.Canon.execFcos {g : Grd} {la : BitVec 4} {d : BitVec 8} {a : Opd} {s : State} (hs : s.Canon) :
    Out.Canon (execFcos g la d a s) :=
  .specialWord hs

theorem Out.Canon.execFtanh {g : Grd} {la : BitVec 4} {d : BitVec 8} {a : Opd} {s : State} (hs : s.Canon) :
    Out.Canon (execFtanh g la d a s) :=
  .specialWord hs

theorem Out.Canon.execGpack {g : Grd} {inf : Bool} {d a : BitVec 8} {s : State} (hs : s.Canon) :
    Out.Canon (execGpack g inf d a s) :=
  .floatWord hs

theorem Out.Canon.execGunpack {g : Grd} {d : BitVec 8} {a : Opd} {s : State} (hs : s.Canon) : Out.Canon (execGunpack g d a s) :=
  .floatWord hs

theorem Out.Canon.execPairWord {s0 s1 : Slot} {s : State} (hs : s.Canon) : Out.Canon (execPairWord s0 s1 s) := .floatWord hs

end Sys2Proof.Machine
end

section
/-! What is defined in Machine/Home.lean keeps memory in canonical form. -/

namespace Sys2Proof.Machine

theorem Out.Canon.execSliceReadRequest {core ctx line : Nat} {s : State} (hs : s.Canon) :
    Out.Canon (execSliceReadRequest core ctx line s) := by
  unfold Machine.execSliceReadRequest
  exact .ite hs.next hs.sliceRead.next

theorem Out.Canon.execSliceOwnRequest {core ctx line : Nat} {s : State} (hs : s.Canon) :
    Out.Canon (execSliceOwnRequest core ctx line s) := by
  unfold Machine.execSliceOwnRequest
  exact .ite hs.next hs.sliceOwn.next

theorem Out.Canon.execSliceWriteRequest {core idx : Nat} {s : State} (hs : s.Canon) :
    Out.Canon (execSliceWriteRequest core idx s) := by
  unfold Machine.execSliceWriteRequest
  split
  · exact hs.next
  · exact .ite hs.next hs.sendWrite.returnMeter.next

theorem Out.Canon.execSliceWriteback {core line : Nat} {s : State} (hs : s.Canon) : Out.Canon (execSliceWriteback core line s) := by
  unfold Machine.execSliceWriteback
  exact .ite hs.sliceWriteBack.next hs.next

theorem Out.Canon.execPageWalk {die ctx : Nat} {va : BitVec 64} {acc : Access} {level : Nat} {s : State} (hs : s.Canon) :
    Out.Canon (execPageWalk die ctx va acc level s) := by
  unfold Machine.execPageWalk
  extract_lets core a s0
  have h0 : s0.Canon := hs.walkReads
  exact h0.walk.walkWrites.returnMeter.next

end Sys2Proof.Machine
end

section
/-! What is defined in Machine/Host.lean keeps memory in canonical form. -/

namespace Sys2Proof.Machine

theorem Out.Canon.onCore {s : State} {c : Nat} {body : State → Out} (hs : s.Canon) (hbody : ∀ x0, x0.Canon → Out.Canon (body x0)) :
    Out.Canon (s.onCore c body) := by
  unfold State.onCore
  exact .ite hs.next (hbody _ hs)

theorem Out.Canon.onPacket {s : State} {c : Nat} {started : Bool} {body : State → Out} (hs : s.Canon)
    (hbody : ∀ x0, x0.Canon → Out.Canon (body x0)) :
    Out.Canon (s.onPacket c started body) := by
  unfold State.onPacket
  exact .ite hs.next (hbody _ hs)

theorem State.Canon.dropWrite {s : State} {fn : Nat} (hs : s.Canon) : (s.dropWrite fn).Canon := hs.modFunc

theorem Out.Canon.pageWrite {s : State} {fn : Nat} {body : State → Out} (hs : s.Canon) (hbody : ∀ x0, x0.Canon → Out.Canon (body x0)) :
    Out.Canon (s.pageWrite fn body) := by
  unfold State.pageWrite
  exact .ite hs.next (.ite (hbody _ hs) hs.dropWrite.next)

theorem State.Canon.writePrqCtl {s : State} {fn : Nat} {v : W64} (hs : s.Canon) : (s.writePrqCtl fn v).Canon := by
  unfold State.writePrqCtl
  extract_lets r s1
  have h1 : s1.Canon := hs.modFunc
  exact .ite (.flushPrq (.same h1 rfl)) h1

theorem State.Canon.writeMtrCtl {s : State} {fn : Nat} {v : W64} (hs : s.Canon) : (s.writeMtrCtl fn v).Canon := hs.modFunc.flushMtr

theorem State.Canon.writeErrCtl {s : State} {v : W64} (hs : s.Canon) : (s.writeErrCtl v).Canon := .flushErr (.same hs rfl)

theorem Out.Canon.execRingEnable {fn ring : Nat} {v : BitVec 64} {s : State} (hs : s.Canon) :
    Out.Canon (execRingEnable fn ring v s) := by
  unfold Machine.execRingEnable
  exact .pageWrite hs (fun _ h' => .ite h'.modRing.next h'.next)

theorem Out.Canon.execRingDisable {fn ring : Nat} {s : State} (hs : s.Canon) : Out.Canon (execRingDisable fn ring s) := by
  unfold Machine.execRingDisable
  exact .pageWrite hs (fun _ h' => .ite h'.modRing.next h'.next)

theorem State.Canon.notify {s : State} {fn ring : Nat} {v : BitVec 32} (hs : s.Canon) : (s.notify fn ring v).Canon := by
  unfold State.notify
  extract_lets R s1
  have h1 : s1.Canon := .ite hs.modRing hs
  refine .ite hs (.ite hs.modRing.signal ?_)
  split
  · exact h1.modFunc.modRing
  · exact h1.modRing

theorem Out.Canon.execNotifyWrite {fn ring : Nat} {v : BitVec 32} {s : State} (hs : s.Canon) :
    Out.Canon (execNotifyWrite fn ring v s) := by
  unfold Machine.execNotifyWrite
  exact .pageWrite hs (fun _ h' => .ite h'.notify.next h'.next)

theorem State.Canon.serveTokens {s : State} {fn : Nat} (hs : s.Canon) : (s.serveTokens fn).Canon := by
  unfold State.serveTokens
  refine .foldl hs (fun s' r h' => ?_)
  split
  · exact h'.modFunc.modRing
  · exact h'

theorem Out.Canon.execTokenRefill {fn : Nat} {s : State} (hs : s.Canon) : Out.Canon (execTokenRefill fn s) := hs.serveTokens.next

theorem State.Canon.writeRate {s : State} {fn : Nat} {v : W64} (hs : s.Canon) : (s.writeRate fn v).Canon := by
  unfold State.writeRate
  extract_lets d
  exact hs.modFunc.serveTokens

theorem Out.Canon.execNotifyrateWrite {fn : Nat} {v : BitVec 64} {s : State} (hs : s.Canon) :
    Out.Canon (execNotifyrateWrite fn v s) := by
  unfold Machine.execNotifyrateWrite
  exact .pageWrite hs (fun _ h' => .ite h'.writeRate.next h'.next)

theorem State.Canon.takeSlots {s : State} {fn ring : Nat} {slots : List (List Byte)} (hs : s.Canon) :
    (s.takeSlots fn ring slots).Canon :=
  hs.modRing

theorem State.Canon.refuseAll {s : State} {fn ring : Nat} {keys : List Nat} (hs : s.Canon) : (s.refuseAll fn ring keys).Canon := by
  unfold State.refuseAll
  exact .foldl hs (fun _ _ h' => h'.completePkt)

theorem State.Canon.parseHead {s : State} {fn ring : Nat} (hs : s.Canon) : (s.parseHead fn ring).Canon := by
  unfold State.parseHead
  extract_lets R bs wait n ps arms s1 keys tooMany broken s2
  have hwait : wait.Canon := hs.modRing
  have h1 : s1.Canon := hs.takeSlots
  have h2 : s2.Canon := .ite h1.refuseAll h1.refuseAll
  exact .ite hwait (.ite hwait h2.watch)

theorem State.Canon.drainRing {s : State} {fn ring : Nat} (hs : s.Canon) : (s.drainRing fn ring).Canon := by
  unfold State.drainRing
  extract_lets R
  exact .ite hs (.ite hs.parseHead hs.writeBackHead.modRing)

theorem Out.Canon.execParserDrain {fn ring : Nat} {s : State} (hs : s.Canon) : Out.Canon (execParserDrain fn ring s) := by
  unfold Machine.execParserDrain
  exact .onCore hs (fun _ h' => h'.drainRing.next)

theorem Out.Canon.execParserRetry {fn ring : Nat} {s : State} (hs : s.Canon) : Out.Canon (execParserRetry fn ring s) := by
  unfold Machine.execParserRetry
  refine .onCore hs (fun s' h' => ?_)
  split
  · exact .ite h'.modRing.next h'.next
  · exact h'.next

theorem Out.Canon.execHeadWritebackTimer {fn ring : Nat} {s : State} (hs : s.Canon) :
    Out.Canon (execHeadWritebackTimer fn ring s) := by
  unfold Machine.execHeadWritebackTimer
  refine .onCore hs (fun s' h' => ?_)
  split
  · exact .ite h'.writeBackHead.next h'.next
  · exact h'.next

theorem State.Canon.pktAccess {s : State} {c : Nat} {p : PktRun} {va : W64} {acc : Access} (hs : s.Canon) :
    (s.pktAccess c p va acc).1.Canon := by
  unfold State.pktAccess
  refine .iteFst hs (.iteFst hs ?_)
  split
  · rename_i heq
    exact State.Canon.fst hs.translateAt heq
  · rename_i heq
    exact State.Canon.fst hs.translateAt heq
  · rename_i heq
    exact State.Canon.fst hs.translateAt heq
  · rename_i s1 _ _ heq
    have h1 : s1.Canon := State.Canon.fst hs.translateAt heq
    extract_lets r
    exact h1.requestPage

theorem State.Canon.pktLines {s : State} {c : Nat} {p : PktRun} {acc : Access} {l : List (W64 × Nat)} (hs : s.Canon) :
    (s.pktLines c p acc l).1.Canon := by
  induction l generalizing s with
  | nil => exact hs
  | cons q l ih =>
    unfold State.pktLines
    split
    · rename_i heq
      exact ih (State.Canon.fst hs.pktAccess heq)
    · rename_i heq
      exact State.Canon.fst hs.pktAccess heq

theorem State.Canon.pktRead {s : State} {c pa n : Nat} (hs : s.Canon) : (s.pktRead c pa n).1.Canon := by
  unfold State.pktRead
  extract_lets k s1
  have h1 : s1.Canon := hs.sliceFetch
  clear_value s1
  exact .iteFst h1 hs.remoteRead

theorem State.Canon.pktReads {s : State} {c : Nat} {ps : List (Nat × Nat)} (hs : s.Canon) : (s.pktReads c ps).1.Canon := by
  unfold State.pktReads
  exact .foldlFst hs (fun _ _ h => h.pktRead)

theorem State.Canon.pktWrites {s : State} {c : Nat} {l : List (Nat × Nat)} {bs : List Byte} (hs : s.Canon) :
    (s.pktWrites c l bs).Canon := by
  induction l generalizing s bs with
  | nil => exact hs
  | cons q l ih => exact ih hs.requestWrite

theorem State.Canon.pktEnd {s : State} {c : Nat} (hs : s.Canon) : (s.pktEnd c).Canon := hs.returnMeter

theorem State.Canon.pktStop {s : State} {fn ring pos : Nat} {x : PktAcc} (hs : s.Canon) : (s.pktStop fn ring pos x).Canon := by
  unfold State.pktStop
  extract_lets c
  split
  · exact hs.completePkt.pktEnd
  · exact hs.modPkt.pktEnd
  · exact hs

theorem State.Canon.startPkt {s : State} {fn ring pos : Nat} (hs : s.Canon) : (s.startPkt fn ring pos).Canon := hs.modPkt.watch

theorem State.Canon.pktOf {s : State} {fn ring pos ty : Nat} {body : State → PktRun → State} (hs : s.Canon)
    (hbody : ∀ x0 x1, x0.Canon → (body x0 x1).Canon) :
    (s.pktOf fn ring pos ty body).Canon := by
  unfold State.pktOf
  split
  · exact .ite (hbody _ _ hs.startPkt) hs
  · exact hs

theorem Out.Canon.servePkt {s : State} {c fn ring pos ty : Nat} {body : State → PktRun → State} (hs : s.Canon)
    (hbody : ∀ x0 x1, x0.Canon → (body x0 x1).Canon) :
    Out.Canon (s.servePkt c fn ring pos ty body) := by
  unfold State.servePkt
  exact .onPacket hs ((fun _ h' => (h'.pktOf (fun _ _ ha => hbody _ _ ha)).next))

theorem State.Canon.beginLaunch {s : State} {fn ring pos : Nat} {L : Launch} (hs : s.Canon) : (s.beginLaunch fn ring pos L).Canon := by
  unfold State.beginLaunch
  extract_lets c n T s1
  have h1 : s1.Canon := .modCtx (.same hs rfl)
  exact h1.modPkt.queueNext.watch

theorem State.Canon.launchPkt {s : State} {fn ring pos : Nat} {p : PktRun} (hs : s.Canon) : (s.launchPkt fn ring pos p).Canon := by
  unfold State.launchPkt
  extract_lets c L
  refine .ite hs (.ite hs.completePkt ?_)
  split
  · exact hs.completePkt
  · refine .ite hs.completePkt (.ite hs.beginLaunch ?_)
    split
    · rename_i s1 fst _ heq'
      have h1 : s1.Canon := State.Canon.fst hs.pktLines heq'
      exact h1.pktStop
    · rename_i s1 _ heq'
      have h1 : s1.Canon := State.Canon.fst hs.pktLines heq'
      extract_lets r
      have hr : r.1.Canon := h1.pktReads
      exact .ite hr.pktStop hr.pktEnd.beginLaunch

theorem Out.Canon.execLaunch {fn ring pos : Nat} {s : State} (hs : s.Canon) : Out.Canon (execLaunch fn ring pos s) := by
  unfold Machine.execLaunch
  exact .ite hs.next (.servePkt hs (fun _ _ h' => h'.launchPkt))

theorem Out.Canon.execCopy {fn ring pos : Nat} {s : State} (hs : s.Canon) : Out.Canon (execCopy fn ring pos s) := by
  unfold Machine.execCopy
  exact .servePkt hs (fun _ _ h' => h')

theorem State.Canon.copyPkt {s : State} {fn ring pos : Nat} {p : PktRun} (hs : s.Canon) : (s.copyPkt fn ring pos p).Canon := by
  unfold State.copyPkt
  extract_lets c src dst n a b r s1
  have ha : a.1.Canon := .iteFst hs hs.pktLines
  have hb : b.1.Canon := .iteFst ha ha.pktLines
  have hr : r.1.Canon := .iteFst hb hb.pktReads
  have h1 : s1.Canon := .ite hr.hostPut hr.pktWrites
  split
  · exact ha.pktStop
  · split
    · exact hb.pktStop
    · exact .ite hr.pktStop h1.pktEnd.completePkt

theorem Out.Canon.execCopyPacketComplete {fn ring pos : Nat} {s : State} (hs : s.Canon) :
    Out.Canon (execCopyPacketComplete fn ring pos s) := by
  unfold Machine.execCopyPacketComplete
  refine .onPacket hs (fun s' h' => ?_)
  split
  · exact .ite h'.copyPkt.next h'.next
  · exact h'.next

theorem State.Canon.testRead {s : State} {fn ring pos : Nat} {p : PktRun} (hs : s.Canon) : (s.testRead fn ring pos p).1.Canon := by
  unfold State.testRead
  extract_lets c n
  refine .iteFst hs ?_
  split
  · rename_i s1 _ heq
    have h1 : s1.Canon := State.Canon.fst hs.pktAccess heq
    extract_lets r
    have hr : r.1.Canon := h1.pktRead
    exact .iteFst hr.pktStop hr.pktEnd.modPkt
  · rename_i heq
    exact State.Canon.pktStop (State.Canon.fst hs.pktAccess heq)

theorem State.Canon.waitPkt {s : State} {fn ring pos : Nat} {p : PktRun} (hs : s.Canon) : (s.waitPkt fn ring pos p).Canon := by
  unfold State.waitPkt
  split
  · rename_i s1 _ heq
    have h1 : s1.Canon := State.Canon.fst hs.testRead heq
    exact .ite h1.completePkt h1.modPkt
  · rename_i heq
    exact State.Canon.fst hs.testRead heq

theorem Out.Canon.execWaitMem {fn ring pos : Nat} {s : State} (hs : s.Canon) : Out.Canon (execWaitMem fn ring pos s) := by
  unfold Machine.execWaitMem
  exact .servePkt hs (fun _ _ h' => h'.waitPkt)

theorem Out.Canon.execWaitMemHostPoll {fn ring pos : Nat} {s : State} (hs : s.Canon) :
    Out.Canon (execWaitMemHostPoll fn ring pos s) := by
  unfold Machine.execWaitMemHostPoll
  refine .onPacket hs (fun s' h' => ?_)
  split
  · exact .ite h'.waitPkt.next h'.next
  · exact h'.next

theorem State.Canon.writePkt {s : State} {fn ring pos : Nat} {p : PktRun} {host : Bool} {bs : List Byte} (hs : s.Canon) :
    (s.writePkt fn ring pos p host bs).Canon := by
  unfold State.writePkt
  extract_lets c a
  refine .ite hs.hostPut.completePkt ?_
  split
  · rename_i s1 _ heq
    have h1 : s1.Canon := State.Canon.fst hs.pktAccess heq
    exact h1.requestWrite.pktEnd.completePkt
  · rename_i s1 _ _ heq
    have h1 : s1.Canon := State.Canon.fst hs.pktAccess heq
    exact h1.pktStop

theorem Out.Canon.execWriteMem {fn ring pos : Nat} {s : State} (hs : s.Canon) : Out.Canon (execWriteMem fn ring pos s) := by
  unfold Machine.execWriteMem
  exact .servePkt hs (fun _ _ h' => h'.writePkt)

theorem State.Canon.fencePkt {s : State} {fn ring pos : Nat} {p : PktRun} (hs : s.Canon) : (s.fencePkt fn ring pos p).Canon := by
  unfold State.fencePkt
  extract_lets ws left
  exact .ite hs.completePkt hs.modPkt

theorem Out.Canon.execFencePacket {fn ring pos : Nat} {s : State} (hs : s.Canon) : Out.Canon (execFencePacket fn ring pos s) := by
  unfold Machine.execFencePacket
  exact .servePkt hs (fun _ _ h' => h'.fencePkt)

theorem Out.Canon.execEnergyMark {fn ring pos : Nat} {s : State} (hs : s.Canon) : Out.Canon (execEnergyMark fn ring pos s) := by
  unfold Machine.execEnergyMark
  exact .servePkt hs (fun _ _ h' => h'.modCtx.completePkt)

theorem Out.Canon.execTimestamp {fn ring pos : Nat} {s : State} (hs : s.Canon) : Out.Canon (execTimestamp fn ring pos s) := by
  unfold Machine.execTimestamp
  exact .servePkt hs (fun _ _ h' => h'.writePkt)

theorem State.Canon.skipAll {s : State} {fn ring : Nat} {keys : List Nat} (hs : s.Canon) : (s.skipAll fn ring keys).Canon := by
  unfold State.skipAll
  exact .foldl hs (fun _ _ h' => h'.completePkt)

theorem State.Canon.predicatePkt {s : State} {fn ring pos : Nat} {p : PktRun} (hs : s.Canon) :
    (s.predicatePkt fn ring pos p).Canon := by
  unfold State.predicatePkt
  extract_lets A B key first last
  split
  · rename_i s1 _ heq
    have h1 : s1.Canon := State.Canon.fst hs.testRead heq
    exact h1.skipAll.completePkt
  · rename_i heq
    exact State.Canon.fst hs.testRead heq

theorem Out.Canon.execPredicate {fn ring pos : Nat} {s : State} (hs : s.Canon) : Out.Canon (execPredicate fn ring pos s) := by
  unfold Machine.execPredicate
  exact .servePkt hs (fun _ _ h' => h'.predicatePkt)

theorem State.Canon.relaunchPkt {s : State} {fn ring pos : Nat} {p : PktRun} (hs : s.Canon) : (s.relaunchPkt fn ring pos p).Canon := by
  unfold State.relaunchPkt
  extract_lets c
  split
  · exact hs.completePkt
  · split
    · rename_i s1 heq'
      have h1 : s1.Canon := State.Canon.fst hs.readRecord heq'
      exact h1.modPkt.pktEnd
    · rename_i s1 fst _ heq'
      have h1 : s1.Canon := State.Canon.fst hs.readRecord heq'
      exact .ite (.watch (.completePkt (.foldl h1.pktEnd (fun _ _ h' => .ite h'.relaunch h')))) h1.pktEnd.completePkt

theorem Out.Canon.execRelaunch {fn ring pos : Nat} {s : State} (hs : s.Canon) : Out.Canon (execRelaunch fn ring pos s) := by
  unfold Machine.execRelaunch
  exact .servePkt hs (fun _ _ h' => h'.relaunchPkt)

theorem State.Canon.dropTlb {s : State} {test : TlbEntry → Bool} (hs : s.Canon) : (s.dropTlb test).Canon := .same hs rfl

theorem State.Canon.tlbReject {s : State} {fn : Nat} (hs : s.Canon) : (s.tlbReject fn).Canon := hs.modFunc

theorem State.Canon.tlbBegin {s : State} {fn : Nat} {q : TlbReq} (hs : s.Canon) : (s.tlbBegin fn q).1.Canon := by
  unfold State.tlbBegin
  extract_lets on s1 f base s2 s3 s4
  have h1 : s1.Canon := .foldl hs (fun _ _ h' => .ite (.foldl h' (fun _ _ h'' => h''.drainAll)) h')
  have hbase : base.Canon := h1.dropTlb
  have h2 : s2.Canon := .same hbase rfl
  have h3 : s3.Canon := .same h2 rfl
  exact h3.mapTeams

theorem State.Canon.tlbStep {s : State} {fn : Nat} (hs : s.Canon) : (s.tlbStep fn).Canon := by
  unfold State.tlbStep
  split
  · exact hs
  · rename_i t _
    split
    · exact hs.tlbBegin.modFunc
    · refine .ite ?_ hs
      cases t with
      | nil => exact hs.modFunc
      | cons q' t' => exact hs.tlbBegin.modFunc

theorem State.Canon.tlbAsk {s : State} {fn : Nat} {q : TlbReq} (hs : s.Canon) : (s.tlbAsk fn q).Canon := by
  unfold State.tlbAsk
  extract_lets l s1
  have h1 : s1.Canon := hs.modFunc
  exact .ite hs.tlbReject (.ite h1.tlbStep h1)

theorem State.Canon.writeTlbinv {s : State} {fn : Nat} {v : W64} (hs : s.Canon) : (s.writeTlbinv fn v).Canon := by
  unfold State.writeTlbinv
  extract_lets s1
  have h1 : s1.Canon := hs.modFunc
  exact .ite h1.tlbReject h1.tlbAsk

theorem Out.Canon.execTlbinvBlock {fn : Nat} {v : BitVec 64} {s : State} (hs : s.Canon) : Out.Canon (execTlbinvBlock fn v s) := by
  unfold Machine.execTlbinvBlock
  exact .pageWrite hs ((fun _ h' => .onCore h' (fun _ h'' => h''.writeTlbinv.next)))

theorem Out.Canon.execTlbinvContext {fn : Nat} {v : BitVec 64} {s : State} (hs : s.Canon) : Out.Canon (execTlbinvContext fn v s) := by
  unfold Machine.execTlbinvContext
  exact .pageWrite hs ((fun _ h' => .onCore h' (fun _ h'' => h''.writeTlbinv.next)))

theorem Out.Canon.execTlbinvPartition {fn : Nat} {v : BitVec 64} {s : State} (hs : s.Canon) :
    Out.Canon (execTlbinvPartition fn v s) := by
  unfold Machine.execTlbinvPartition
  exact .pageWrite hs ((fun _ h' => .onCore h' (fun _ h'' => h''.writeTlbinv.next)))

theorem State.Canon.writeS2inv {s : State} {v : W64} (hs : s.Canon) : (s.writeS2inv v).Canon := by
  unfold State.writeS2inv
  extract_lets s1
  have h1 : s1.Canon := .same hs rfl
  exact .ite h1.tlbReject h1.tlbAsk

theorem Out.Canon.execS2inv {v : BitVec 64} {s : State} (hs : s.Canon) : Out.Canon (execS2inv v s) := by
  unfold Machine.execS2inv
  exact .pageWrite hs ((fun _ h' => .onCore h' (fun _ h'' => h''.writeS2inv.next)))

theorem State.Canon.respond {s : State} {fn id : Nat} {fail : Bool} (hs : s.Canon) : (s.respond fn id fail).Canon := by
  unfold State.respond
  extract_lets s1
  have h1 : s1.Canon := hs.modFunc
  exact .ite h1.answerPrq h1

theorem Out.Canon.execPrqResponseOk {fn id : Nat} {s : State} (hs : s.Canon) : Out.Canon (execPrqResponseOk fn id s) := by
  unfold Machine.execPrqResponseOk
  exact .pageWrite hs ((fun _ h' => .onCore h' (fun _ h'' => h''.respond.next)))

theorem Out.Canon.execPrqResponseFail {fn id : Nat} {s : State} (hs : s.Canon) : Out.Canon (execPrqResponseFail fn id s) := by
  unfold Machine.execPrqResponseFail
  exact .pageWrite hs ((fun _ h' => .onCore h' (fun _ h'' => h''.respond.next)))

theorem State.Canon.askExport {s : State} {fn : Nat} (hs : s.Canon) : (s.askExport fn).Canon := by
  unfold State.askExport
  exact .ite (.foldl hs (fun _ _ h' => .ite h'.modPart h')) hs.modPart

theorem Out.Canon.execExportRequest {fn : Nat} {s : State} (hs : s.Canon) : Out.Canon (execExportRequest fn s) := by
  unfold Machine.execExportRequest
  exact .pageWrite hs (fun _ h' => h'.askExport.next)

theorem State.Canon.stopRings {s : State} {c : Nat} {stop : Bool} (hs : s.Canon) : (s.stopRings c stop).Canon := by
  unfold State.stopRings
  extract_lets fn mine
  exact hs.modFunc

theorem State.Canon.enableCtx {s : State} {c : Nat} (hs : s.Canon) : (s.enableCtx c).Canon := by
  unfold State.enableCtx
  extract_lets others v
  exact .ite hs hs.modCtx.stopRings

theorem State.Canon.disableCtx {s : State} {c : Nat} (hs : s.Canon) : (s.disableCtx c).Canon := by
  unfold State.disableCtx
  exact .ite hs.modCtx.stopRings.killFor hs

theorem Out.Canon.enWrite {s : State} {c : Nat} {body : State → State} (hs : s.Canon) (hbody : ∀ x0, x0.Canon → (body x0).Canon) :
    Out.Canon (s.enWrite c body) := by
  unfold State.enWrite
  exact .ite (.pageWrite hs ((fun _ h' => .onCore h' (fun _ h'' => (hbody _ h'').next)))) hs.next

theorem Out.Canon.execContextEnable {ctx : Nat} {s : State} (hs : s.Canon) : Out.Canon (execContextEnable ctx s) := by
  unfold Machine.execContextEnable
  exact .enWrite hs (fun _ h' => h'.enableCtx)

theorem Out.Canon.execContextDisable {ctx : Nat} {s : State} (hs : s.Canon) : Out.Canon (execContextDisable ctx s) := by
  unfold Machine.execContextDisable
  exact .enWrite hs (fun _ h' => h'.disableCtx)

theorem State.Canon.writeDescriptor {s : State} {c o : Nat} {v : W64} (hs : s.Canon) : (s.writeDescriptor c o v).Canon := by
  unfold State.writeDescriptor
  extract_lets s1
  have h1 : s1.Canon := hs.modCtx
  exact .ite (.ite h1.enableCtx h1.disableCtx) h1

theorem State.Canon.loadImage {s : State} {core : Nat} {addr : W64} (hs : s.Canon) : (s.loadImage core addr).1.Canon := by
  unfold State.loadImage
  extract_lets img ok base
  exact .same hs rfl

theorem State.Canon.writeCcload {s : State} {v : W64} (hs : s.Canon) : (s.writeCcload v).Canon := by
  unfold State.writeCcload
  extract_lets keep c base
  exact .ite hs (.ite (.same hs rfl) (.same hs rfl))

theorem Out.Canon.execCcload {v : BitVec 64} {s : State} (hs : s.Canon) : Out.Canon (execCcload v s) := by
  unfold Machine.execCcload
  exact .pageWrite hs (fun _ h' => h'.writeCcload.next)

theorem State.Canon.endLoading {s : State} (hs : s.Canon) : s.endLoading.Canon := by
  unfold State.endLoading
  extract_lets r base
  have hr : r.1.Canon := hs.loadImage
  exact .ite (.same hr rfl) hs

theorem State.Canon.setMailbox {s : State} {m : Nat} {M : Mailbox} (hs : s.Canon) : (s.setMailbox m M).Canon := .same hs rfl

theorem State.Canon.interruptCore {s : State} {c : Nat} (hs : s.Canon) : (s.interruptCore c).Canon := by
  unfold State.interruptCore
  extract_lets base
  exact .same hs rfl

theorem State.Canon.publish {s : State} {sender m : Nat} {v : W64} (hs : s.Canon) : (s.publish sender m v).Canon := by
  unfold State.publish
  extract_lets M
  exact .ite hs hs.setMailbox.interruptCore

theorem Out.Canon.execMailboxPublish {sender m : Nat} {v : BitVec 64} {s : State} (hs : s.Canon) :
    Out.Canon (execMailboxPublish sender m v s) := by
  unfold Machine.execMailboxPublish
  exact .ite hs.publish.next hs.next

theorem State.Canon.clearMailbox {s : State} {core m : Nat} (hs : s.Canon) : (s.clearMailbox core m).Canon := by
  unfold State.clearMailbox
  extract_lets base base' base''
  have hbase' : base'.Canon := hs.setMailbox
  exact .ite (.same hbase' rfl) hs

theorem Out.Canon.execMailboxClear {core m : Nat} {s : State} (hs : s.Canon) : Out.Canon (execMailboxClear core m s) := by
  unfold Machine.execMailboxClear
  exact .ite hs.clearMailbox.next hs.next

theorem State.Canon.mailboxWrite {s : State} {core m o size : Nat} {v : W64} (hs : s.Canon) :
    (s.mailboxWrite core m o size v).Canon := by
  unfold State.mailboxWrite
  extract_lets M s1 base
  have h1 : s1.Canon := .ite hs.clearMailbox hs
  exact .ite hs.publish (.ite (.ite hs hs.setMailbox) (.ite h1.setMailbox hs))

theorem Out.Canon.execReadClearRegister {fn off : Nat} {s : State} (hs : s.Canon) : Out.Canon (execReadClearRegister fn off s) := by
  unfold Machine.execReadClearRegister
  extract_lets base
  exact .ite hs.modFunc.next (.ite (State.Canon.next (.same hs rfl)) hs.next)

theorem State.Canon.writeColl {s : State} {p g : Nat} {b : Bool} {v : W64} (hs : s.Canon) : (s.writeColl p g b v).Canon := by
  unfold State.writeColl
  exact .ite hs.modGroup hs

theorem State.Canon.vfWrite {s : State} {fn off : Nat} {v : W64} {low : Bool} (hs : s.Canon) : (s.vfWrite fn off v low).Canon := by
  unfold State.vfWrite
  extract_lets p n r
  refine .ite hs.modPart (.ite hs.modPart (.ite hs.writeColl (.ite hs.writeDescriptor (.ite ?_ hs))))
  split
  · exact hs.modRing
  · exact hs.modRing
  · exact hs.modRing
  · exact .ite hs.notify hs
  · exact hs

theorem State.Canon.writeS2ctl {s : State} {p : Nat} {v : W64} (hs : s.Canon) : (s.writeS2ctl p v).Canon := hs.modPart

theorem State.Canon.pfWrite {s : State} {off : Nat} {v : W64} (hs : s.Canon) : (s.pfWrite off v).Canon := by
  unfold State.pfWrite
  exact .ite hs.writeRate (.ite hs.writeCcload (.ite hs.writeS2ctl
      (.ite hs.writeS2inv (.ite (.same hs rfl) (.ite (.same hs rfl) (.ite hs.writeErrCtl hs))))))

theorem State.Canon.regPut {s : State} {fn off : Nat} {v : W64} {low : Bool} (hs : s.Canon) : (s.regPut fn off v low).Canon := by
  unfold State.regPut
  exact .ite hs.writeTlbinv (.ite (.ite hs.modFunc hs) (.ite (.ite hs.respond hs)
      (.ite hs.modFunc (.ite hs.writePrqCtl (.ite hs.modFunc (.ite hs.writeMtrCtl
      (.ite (.ite hs.askExport hs) (.ite hs.pfWrite hs.vfWrite))))))))

theorem State.Canon.sendPending {s : State} {fn vec : Nat} (hs : s.Canon) : (s.sendPending fn vec).Canon := by
  unfold State.sendPending
  exact .ite hs.modFunc.sendMsg hs

theorem State.Canon.msixWrite {s : State} {fn off size : Nat} {v : W64} (hs : s.Canon) : (s.msixWrite fn off size v).Canon := by
  unfold State.msixWrite
  extract_lets k E put mask s2 s1
  have hput : ∀ E s, s.Canon → (put E s).Canon := (fun _ _ h' => h'.modFunc)
  have hmask : ∀ b s, s.Canon → (mask b s).Canon := (fun _ _ h' => h'.modFunc)
  have h2 : s2.Canon := hput _ _ hs
  have h1 : s1.Canon := by
    unfold s1
    refine .ite ?_ (.ite hs.modFunc hs)
    split
    · exact hput _ _ hs
    · exact hput _ _ hs
    · exact .ite (hmask _ _ h2) h2
    · exact hmask _ _ hs
  exact .foldl h1 (fun _ _ h' => h'.sendPending)

theorem Out.Canon.execMsixMaskClear {fn vec : Nat} {s : State} (hs : s.Canon) : Out.Canon (execMsixMaskClear fn vec s) := by
  unfold Machine.execMsixMaskClear
  exact .ite hs.next hs.modFunc.sendPending.next

end Sys2Proof.Machine
end

section
/-! What is defined in Machine/Life.lean keeps memory in canonical form. -/

namespace Sys2Proof.Machine

theorem State.Canon.holdExtents {s : State} {p : Nat} (hs : s.Canon) : (s.holdExtents p).Canon := by
  unfold State.holdExtents
  exact .same hs rfl

theorem State.Canon.killAll {s : State} (hs : s.Canon) : s.killAll.Canon := by
  unfold State.killAll
  exact .foldl hs (fun _ _ h' => h'.killTold)

theorem State.Canon.killAllNow {s : State} {why : Notice} (hs : s.Canon) : (s.killAllNow why).Canon := by
  unfold State.killAllNow
  exact .foldl hs (fun _ _ h' => h'.killNow)

theorem State.Canon.recover {s : State} (hs : s.Canon) : s.recover.Canon := by
  unfold State.recover
  extract_lets s1
  have h1 : s1.Canon := hs.killAllNow
  exact .same h1 rfl

theorem State.Canon.clearScope {s : State} {scope : Option Nat} (hs : s.Canon) : (s.clearScope scope).Canon := by
  unfold State.clearScope
  extract_lets drop ctx s1
  have h1 : s1.Canon := .foldl hs (fun _ _ h' => h'.freePrq)
  exact .of_wf (wf_filter h1 _)

theorem State.Canon.scrubDone {s : State} {scope : Option Nat} {tenant : W64} {t0 : Nat} (hs : s.Canon) :
    (s.scrubDone scope tenant t0).Canon := by
  unfold State.scrubDone
  extract_lets ext head
  exact .putMtr (.same hs rfl)

theorem State.Canon.startScrub {s : State} {scope : Option Nat} {tenant : W64} {mgmt : Bool} (hs : s.Canon) :
    (s.startScrub scope tenant mgmt).Canon := by
  unfold State.startScrub
  extract_lets s1 s2 s3 s4
  have h1 : s1.Canon := .foldl hs (fun _ _ h' => h'.killNow)
  have h2 : s2.Canon := .ite h1.recover h1
  have h3 : s3.Canon := .foldl h2 (fun _ _ h' => h'.modFunc)
  have h4 : s4.Canon := .same h3 rfl
  exact .foldl h4 (fun _ _ h' => h'.startReclaim)

theorem State.Canon.endScrub {s : State} {x : Scrub} (hs : s.Canon) : (s.endScrub x).Canon := by
  unfold State.endScrub
  extract_lets s1 s2
  have h1 : s1.Canon := .clearScope (.same hs rfl)
  have h2 : s2.Canon := h1.scrubDone.signal
  exact .foldl h2 (fun _ _ h' => .ite h' h'.modFunc)

theorem State.Canon.keepOutside {s r : State} (hr : r.Canon) : (s.keepOutside r).Canon := .same hr rfl

theorem State.Canon.endStart {s : State} {scrub : Bool} {failStep : Nat} {boot : W64} (hs : s.Canon) :
    (s.endStart scrub failStep boot).Canon := by
  unfold State.endStart
  extract_lets s1 s2
  have h1 : s1.Canon := .same hs rfl
  have h2 : s2.Canon := .ite h1.scrubDone h1
  exact .ite h2.signal (.ite h2 (.same h2 rfl))

theorem State.Canon.coldFrom {s : State} {img : Option (List Byte)} {copyB : Bool} {told : Nat} (hs : s.Canon) :
    (s.coldFrom img copyB told).Canon := by
  unfold State.coldFrom
  extract_lets f done
  exact .endStart (.keepOutside (.of_wf (wf_ite wf_nil hs)))

theorem State.Canon.startCold {s : State} {told : Nat} (hs : s.Canon) : (s.startCold told).Canon := hs.coldFrom

theorem State.Canon.trainPorts {s : State} (hs : s.Canon) : s.trainPorts.Canon := by
  unfold State.trainPorts
  exact .foldl hs (fun _ _ h' => .ite h'.raisePort h')

theorem State.Canon.startWarm {s : State} {told : Nat} {kept : Bool} (hs : s.Canon) : (s.startWarm told kept).Canon := by
  unfold State.startWarm
  extract_lets s' copy f held fresh r
  have h' : s'.Canon := hs.countVolts
  have hr : r.Canon := .of_wf (show Memory.wf (if held then s'.mem else []) from wf_ite h' wf_nil)
  exact .endStart (.ite hr.trainPorts hr)

theorem Out.Canon.execColdStart {failStep : Nat} {s : State} (hs : s.Canon) : Out.Canon (execColdStart failStep s) := hs.startCold.next

theorem Out.Canon.execWarmStart {failStep : Nat} {kept : Bool} {s : State} (hs : s.Canon) :
    Out.Canon (execWarmStart failStep kept s) := by
  unfold Machine.execWarmStart
  exact .ite hs.next (.ite hs.startWarm.next (State.Canon.next (.same hs rfl)))

theorem Out.Canon.execTrivetAgturImage {image : List Byte} {s : State} (hs : s.Canon) : Out.Canon (execTrivetAgturImage image s) := by
  unfold Machine.execTrivetAgturImage
  exact .ite hs.coldFrom.next hs.next

theorem State.Canon.quarterDown {s : State} {q : Nat} (hs : s.Canon) : (s.quarterDown q).Canon := by
  unfold State.quarterDown
  extract_lets cls idle
  exact .ite (.modQuarter (.foldl hs (fun _ _ h' => h'.cleanCluster.emptyTlbs))) hs

theorem State.Canon.drainQuarter {s : State} {q : Nat} (hs : s.Canon) : (s.drainQuarter q).Canon := by
  unfold State.drainQuarter
  extract_lets s1
  have h1 : s1.Canon := hs.modQuarter
  exact .foldl h1 (fun _ _ h' => h'.askStop)

theorem State.Canon.handOver {s : State} {core : Nat} (hs : s.Canon) : (s.handOver core).Canon := by
  unfold State.handOver
  refine .ite hs (.foldl hs (fun s' i h' => ?_))
  extract_lets r
  have hr : r.2.Canon := h'.free
  exact hr.mailboxWrite

theorem State.Canon.reclaimMask {s : State} {die mask : Nat} (hs : s.Canon) : (s.reclaimMask die mask).Canon := by
  unfold State.reclaimMask
  exact .foldl hs (fun _ _ h' => h'.startReclaim)

theorem State.Canon.startOrWait {s : State} {r : StartReq} (hs : s.Canon) : (s.startOrWait r).Canon := by
  unfold State.startOrWait
  refine .ite (.same hs rfl) ?_
  split
  · exact hs.startCold
  · exact hs.startWarm

theorem Written.Canon.writePartcfg {s : State} {p : Nat} {v : W64} (hs : s.Canon) : Written.Canon (s.writePartcfg p v) := by
  unfold State.writePartcfg
  extract_lets P w s1 frozen
  have h1 : s1.Canon := hs.modPart
  exact .ite .none (.ite (.ite .none (.ite (.some h1) (.ite (.some h1.modPart) .none)))
    (.some (.ite hs.countVolts.modPart.modPart.holdExtents h1)))

theorem Written.Canon.writeExtmap {s : State} {p n : Nat} {v : W64} (hs : s.Canon) : Written.Canon (s.writeExtmap p n v) := by
  unfold State.writeExtmap
  extract_lets s1
  exact .ite .none (.some hs.modPart)

theorem Written.Canon.writeAgtur {s : State} {kind inst : Nat} {v : W64} (hs : s.Canon) :
    Written.Canon (s.writeAgtur kind inst v) := by
  unfold State.writeAgtur
  extract_lets ok part
  have hok (b : Bool) (t : State) (ht : t.Canon) : Written.Canon (ok b t) := .ite (.some ht) .none
  split
  · exact .writePartcfg hs
  · exact .writeExtmap hs
  · exact hok _ _ hs.modQuarter
  · exact hok _ _ hs.modPart
  · exact hok _ _ hs.modPart
  · exact hok _ _ hs.modPart
  · exact hok _ _ hs.modPart
  · exact hok _ _ hs.modDie
  · exact hok _ _ hs.modDie
  · exact hok _ _ hs.modDie
  · exact hok _ _ hs.modSlice
  · exact hok _ _ (.same hs rfl)
  · exact hok _ _ hs.modPart
  · exact hok _ _ hs.modPart
  · exact .ite (hok _ _ (.same hs rfl)) (hok _ _ (.same hs rfl))
  · exact hok _ _ hs.modPart
  · exact hok _ _ (.same hs rfl)
  · exact .none

theorem Written.Canon.writePair {s : State} {q : Nat × W64} (hs : s.Canon) : Written.Canon (s.writePair q) := by
  unfold State.writePair
  split
  · exact .none
  · exact .writeAgtur hs

theorem Command.Canon.applyPairs {s : State} {i : Nat} {l : List (Nat × W64)} (hs : s.Canon) : Command.Canon (s.applyPairs i l) := by
  induction l generalizing s i with
  | nil => exact .inl hs
  | cons q l ih =>
    unfold State.applyPairs
    split
    · rename_i heq
      exact ih (Written.Canon.writePair hs _ heq)
    · exact .inr

theorem Command.Canon.writePairs {s : State} {l : List (Nat × W64)} (hs : s.Canon) : Command.Canon (s.writePairs l) := by
  unfold State.writePairs
  split
  · exact .inr
  · exact .applyPairs hs

theorem Command.Canon.retireChannel {s : State} {ch : Nat} (hs : s.Canon) : Command.Canon (s.retireChannel ch) := by
  unfold State.retireChannel
  exact .ite .inr (.ite .inr (.inl (.signal (.same hs rfl))))

theorem Command.Canon.replaceImage {s : State} {core : Nat} {addr : W64} (hs : s.Canon) :
    Command.Canon (s.replaceImage core addr) := by
  unfold State.replaceImage
  extract_lets r
  exact .ite (.inl hs.handOver.loadImage) .inr

theorem Command.Canon.writeFirmware {s : State} {copy : Nat} {addr : W64} (hs : s.Canon) :
    Command.Canon (s.writeFirmware copy addr) := by
  unfold State.writeFirmware
  extract_lets img
  exact .ite (.inl (.same hs rfl)) .inr

theorem Command.Canon.runCommand {s : State} {c : Command} (hs : s.Canon) : Command.Canon (s.runCommand c) := by
  unfold State.runCommand
  extract_lets n w
  split
  · exact .inl hs.startOrWait
  · exact .ite (.inl hs.startOrWait) .inr
  · exact .inl hs.recover
  · exact .writePairs hs
  · exact .inl (.startScrub (.same hs rfl))
  · exact .inl hs.modPart.startScrub
  · exact .inl (.same hs rfl)
  · exact .inl (.same hs rfl)
  · exact .retireChannel hs
  · exact .inl hs.drainQuarter
  · exact .inl hs.retrain
  · exact .replaceImage hs
  · exact .inl hs.reclaimMask
  · exact .inl hs.assignNumbers
  · exact .writeFirmware hs
  · exact .inl hs

theorem State.Canon.agtur {s : State} {c : Command} (hs : s.Canon) : (s.agtur c).1.Canon := by
  unfold State.agtur
  split
  · exact hs
  · extract_lets s1
    have h1 : s1.Canon := .same hs rfl
    split
    · rename_i heq
      exact Command.Canon.runCommand h1 _ heq
    · exact h1

theorem State.Canon.agtStatus {s : State} {st detail : Nat} (hs : s.Canon) : (s.agtStatus st detail).Canon := .same hs rfl

theorem State.Canon.agtEnd {s : State} {st detail : Nat} (hs : s.Canon) : (s.agtEnd st detail).Canon := hs.agtStatus.signal

theorem State.Canon.answer {s : State} {st detail : Nat} (hs : s.Canon) : (s.answer st detail).Canon := .same hs rfl

theorem State.Canon.tell {s : State} {mgmt : Bool} {st detail : Nat} (hs : s.Canon) : (s.tell mgmt st detail).Canon := by
  unfold State.tell
  exact .ite hs.answer hs.agtEnd

theorem State.Canon.runTold {s : State} {c : Command} (hs : s.Canon) : (s.runTold c).Canon := by
  unfold State.runTold
  extract_lets r
  have hr : r.1.Canon := hs.agtur
  refine .ite ?_ (.ite (.ite hr hr.agtStatus) hr.tell)
  split
  · rename_i t heq
    have ha : State.Canon { s with agtSeq := c.seq } := .same hs rfl
    exact Command.Canon.runCommand ha.tell t heq
  · exact hr

theorem State.Canon.command {s : State} {c : Command} {code : Nat} (hs : s.Canon) : (s.command c code).Canon := by
  unfold State.command
  exact .ite hs (.ite hs.answer hs.runTold)

theorem Out.Canon.execColdStartCommand {c : Command} {s : State} (hs : s.Canon) : Out.Canon (execColdStartCommand c s) :=
  hs.command.next

theorem Out.Canon.execWarmStartCommand {c : Command} {s : State} (hs : s.Canon) : Out.Canon (execWarmStartCommand c s) :=
  hs.command.next

theorem Out.Canon.execRecovery {c : Command} {s : State} (hs : s.Canon) : Out.Canon (execRecovery c s) := hs.command.next

theorem Out.Canon.execWriteAgturRegisters {c : Command} {s : State} (hs : s.Canon) : Out.Canon (execWriteAgturRegisters c s) :=
  hs.command.next

theorem Out.Canon.execSetPackageTenant {c : Command} {s : State} (hs : s.Canon) : Out.Canon (execSetPackageTenant c s) :=
  hs.command.next

theorem Out.Canon.execSetPartitionTenant {c : Command} {s : State} (hs : s.Canon) : Out.Canon (execSetPartitionTenant c s) :=
  hs.command.next

theorem Out.Canon.execEnrolLeaseKey {c : Command} {s : State} (hs : s.Canon) : Out.Canon (execEnrolLeaseKey c s) := hs.command.next

theorem Out.Canon.execInstallWeightTable {c : Command} {s : State} (hs : s.Canon) : Out.Canon (execInstallWeightTable c s) :=
  hs.command.next

theorem Out.Canon.execRetirePseudoChannel {c : Command} {s : State} (hs : s.Canon) : Out.Canon (execRetirePseudoChannel c s) :=
  hs.command.next

theorem Out.Canon.execDrainQuarter {c : Command} {s : State} (hs : s.Canon) : Out.Canon (execDrainQuarter c s) := hs.command.next

theorem Out.Canon.execRetrainFabricPort {c : Command} {s : State} (hs : s.Canon) : Out.Canon (execRetrainFabricPort c s) :=
  hs.command.next

theorem Out.Canon.execReplaceCommandCoreImage {c : Command} {s : State} (hs : s.Canon) :
    Out.Canon (execReplaceCommandCoreImage c s) :=
  hs.command.next

theorem Out.Canon.execReclaimLentClusters {c : Command} {s : State} (hs : s.Canon) : Out.Canon (execReclaimLentClusters c s) :=
  hs.command.next

theorem Out.Canon.execAssignPkgid {c : Command} {s : State} (hs : s.Canon) : Out.Canon (execAssignPkgid c s) := hs.command.next

theorem Out.Canon.execWriteAgturFirmware {c : Command} {s : State} (hs : s.Canon) : Out.Canon (execWriteAgturFirmware c s) :=
  hs.command.next

theorem State.Canon.putFrag {s : State} {v : W64} (hs : s.Canon) : (s.putFrag v).Canon := .same hs rfl

theorem State.Canon.postFragment {s : State} {v : W64} (hs : s.Canon) : (s.postFragment v).Canon := by
  unfold State.postFragment
  extract_lets s1
  have h1 : s1.Canon := hs.putFrag
  exact .ite h1 (.ite h1.agtStatus (.same h1 rfl))

theorem State.Canon.takeFragment {s : State} (hs : s.Canon) : s.takeFragment.Canon := by
  unfold State.takeFragment
  extract_lets v buf base
  have hbase : base.Canon := hs.agtStatus
  refine .ite hs.agtStatus (.ite (.same hs rfl) ?_)
  split
  · exact hs.agtEnd
  · exact .runTold (.same hbase rfl)

theorem State.Canon.settleAgtur {s : State} (hs : s.Canon) : s.settleAgtur.Canon := by
  unfold State.settleAgtur
  exact .ite hs (.ite hs.agtStatus hs.takeFragment)

theorem State.Canon.settleScrubs {s : State} (hs : s.Canon) : s.settleScrubs.Canon := by
  unfold State.settleScrubs
  extract_lets s1
  have h1 : s1.Canon := .foldl hs (fun _ _ h' => h'.endScrub.tell)
  split
  · exact .ite (.startOrWait (.same h1 rfl)) h1
  · exact h1

theorem State.Canon.settlePeriod {s : State} (hs : s.Canon) : s.settlePeriod.Canon := by
  unfold State.settlePeriod
  extract_lets s1 s2
  have h1 : s1.Canon := hs.settleAgtur.settleScrubs.endLoading
  have h2 : s2.Canon := .foldl h1 (fun _ _ h' => .ite h' h'.tlbStep)
  exact .foldl h2 (fun _ _ h' => h'.quarterDown)

theorem Out.Canon.execAgtcmdFragment {v : BitVec 64} {s : State} (hs : s.Canon) : Out.Canon (execAgtcmdFragment v s) := by
  unfold Machine.execAgtcmdFragment
  exact .pageWrite hs (fun _ h' => h'.postFragment.next)

theorem Out.Canon.writeReg {s : State} {fn off size : Nat} {v : W64} (hs : s.Canon) : Out.Canon (s.writeReg fn off size v) := by
  unfold State.writeReg
  extract_lets low body
  have hbody : ∀ s, s.Canon → Out.Canon (body s) := (fun _ h' => h'.regPut.next)
  exact .ite (State.Canon.next (.ite hs.postFragment hs)) (.ite (.onCore hs (fun _ h' => hbody _ h')) (hbody _ hs))

theorem Out.Canon.coreWrite {s : State} {core a size : Nat} {v : W64} (hs : s.Canon) : Out.Canon (s.coreWrite core a size v) := by
  unfold State.coreWrite
  refine .ite hs.next ?_
  split
  · exact .pageWrite hs (fun _ h' => .writeReg h')
  · exact hs.mailboxWrite.next
  · exact hs.next

theorem Out.Canon.execRegisterWrite {fn off size : Nat} {v : BitVec 64} {s : State} (hs : s.Canon) :
    Out.Canon (execRegisterWrite fn off size v s) := by
  unfold Machine.execRegisterWrite
  exact .ite hs.next (.ite (.ite (.pageWrite hs (fun _ h' => .writeReg h')) hs.next)
      (.ite (.coreWrite hs) (.ite (.pageWrite hs (fun _ h' => h'.msixWrite.next)) hs.next)))

theorem State.Canon.beginReset {s : State} {p : Nat} (hs : s.Canon) : (s.beginReset p).Canon := by
  unfold State.beginReset
  extract_lets s1
  have h1 : s1.Canon := hs.modFunc
  exact .foldl h1 (fun _ _ h' => h'.killFor)

theorem State.Canon.endReset {s : State} {p : Nat} (hs : s.Canon) : (s.endReset p).Canon := by
  unfold State.endReset
  extract_lets fn s1 s2
  have h1 : s1.Canon := hs.modFunc
  have h2 : s2.Canon := h1.modPart
  exact .same h2 rfl

theorem State.Canon.resetZero {s : State} (hs : s.Canon) : s.resetZero.Canon := .same hs rfl

theorem Out.Canon.execFunctionLevelReset {fn : Nat} {s : State} (hs : s.Canon) : Out.Canon (execFunctionLevelReset fn s) := by
  unfold Machine.execFunctionLevelReset
  extract_lets s1 s1'
  have h1 : s1.Canon := .foldl hs (fun _ _ h' => h'.beginReset)
  have h1' : s1'.Canon := .foldl hs (fun _ _ h' => h'.endReset)
  exact .ite hs.next (.ite h1.modFunc.next (.ite (State.Canon.next (.ite h1'.resetZero h1')) hs.next))

theorem State.Canon.addPoison {s : State} {u : Nat} (hs : s.Canon) : (s.addPoison u).Canon := .same hs rfl

theorem Out.Canon.execSoftError {site : ErrSite} {s : State} (hs : s.Canon) : Out.Canon (execSoftError site s) := by
  unfold Machine.execSoftError
  extract_lets unit rep base r
  have hrep : ∀ s src sev ctx core addr, s.Canon → (rep s src sev ctx core addr).Canon := (fun _ _ _ _ _ _ h' => h'.report)
  have hbase : base.Canon := hs.killAll
  have hr : r.2.Canon := hs.free
  split
  · extract_lets T
    exact .ite (hrep _ _ _ _ _ _ hs.modGang).next hs.next
  · extract_lets T
    exact .ite (hrep _ _ _ _ _ _ hs.modTeam).next hs.next
  · extract_lets T
    exact .ite (hrep _ _ _ _ _ _ hs.modTeam).next hs.next
  · exact hs.reportCorrected.next
  · extract_lets s1
    have h1 : s1.Canon := .foldl hs.sliceWriteBack (fun _ _ h' => h'.addPoison)
    exact .ite h1.report.next hs.next
  · exact hs.reportCorrected.next
  · exact hs.addPoison.report.next
  · exact hs.addPoison.report.next
  · exact hs.reportCorrected.next
  · exact (hrep _ _ _ _ _ _ hs.killTold).next
  · extract_lets E
    exact .ite hs.next hs.killTold.report.next
  · extract_lets base'
    exact .ite (State.Canon.next (.report (.same hbase rfl))) hs.next
  · extract_lets T
    exact .ite (hrep _ _ _ _ _ _ hs.modTeam).next hs.next
  · exact hr.failColumn.report.next
  · exact hs.modCore.report.next
  · exact hs.modCore.report.next
  · exact hs.damage.next

theorem Out.Canon.execDieFailure {die : Nat} {s : State} (hs : s.Canon) : Out.Canon (execDieFailure die s) := by
  unfold Machine.execDieFailure
  extract_lets s1 s2
  have h1 : s1.Canon := hs.modDie
  have h2 : s2.Canon := h1.discardAddends
  exact h2.killAll.report.next

theorem Out.Canon.execThermalThrottle {quarter : Nat} {hot : Bool} {s : State} (hs : s.Canon) :
    Out.Canon (execThermalThrottle quarter hot s) := by
  unfold Machine.execThermalThrottle
  exact .ite hs.next hs.modQuarter.report.next

theorem Out.Canon.execThermalTrip {s : State} (hs : s.Canon) : Out.Canon (execThermalTrip s) := by
  unfold Machine.execThermalTrip
  extract_lets base
  have hbase : base.Canon := hs.killAllNow.report
  exact State.Canon.next (.same hbase rfl)

end Sys2Proof.Machine
end

section
/-! What is defined in Machine/Dispatch.lean keeps memory in canonical form. -/

namespace Sys2Proof.Machine

theorem Out.Canon.exec {i : Instr} {s : State} (hs : s.Canon) : Out.Canon (exec i s) := by
  cases i with
  | nop => exact .execNop hs
  | bra => exact .execBra hs
  | brx => exact .execBrx hs
  | call => exact .execCall hs
  | callv => exact .execCallv hs
  | ret => exact .execRet hs
  | exit => exact .execExit hs
  | join => exact .execJoin hs
  | leave => exact .execLeave hs
  | waitm => exact .execWaitm hs
  | mset => exact .execMset hs
  | mmov => exact .execMmov hs
  | mand => exact .execMand hs
  | mor => exact .execMor hs
  | mpop => exact .execMpop hs
  | mfromk => exact .execMfromk hs
  | rep => exact .execRep hs
  | yield => exact .execYield hs
  | pairWord => exact .execPairWord hs
  | iadd => exact .execIadd hs
  | isub => exact .execIsub hs
  | iaddsat => exact .execIaddsat hs
  | isubsat => exact .execIsubsat hs
  | imul => exact .execImul hs
  | imulh => exact .execImulh hs
  | imad => exact .execImad hs
  | idiv => exact .execIdiv hs
  | irem => exact .execIrem hs
  | imin => exact .execImin hs
  | imax => exact .execImax hs
  | iabs => exact .execIabs hs
  | ineg => exact .execIneg hs
  | and => exact .execAnd hs
  | or => exact .execOr hs
  | xor => exact .execXor hs
  | not => exact .execNot hs
  | andn => exact .execAndn hs
  | shl => exact .execShl hs
  | shr => exact .execShr hs
  | sar => exact .execSar hs
  | rotl => exact .execRotl hs
  | bfx => exact .execBfx hs
  | bfi => exact .execBfi hs
  | popc => exact .execPopc hs
  | clz => exact .execClz hs
  | ctz => exact .execCtz hs
  | brev => exact .execBrev hs
  | bswap => exact .execBswap hs
  | sel => exact .execSel hs
  | mov => exact .execMov hs
  | lea => exact .execLea hs
  | movi => exact .execMovi hs
  | movh => exact .execMovh hs
  | icmp => exact .execIcmp hs
  | plop => exact .execPlop hs
  | pmov => exact .execPmov hs
  | vote => exact .execVote hs
  | ballot => exact .execBallot hs
  | shfl => exact .execShfl hs
  | idp4 => exact .execIdp4 hs
  | idp8 => exact .execIdp8 hs
  | bcast => exact .execBcast hs
  | vrd => exact .execVrd hs
  | iaddImm => exact .execIaddImm hs
  | isubImm => exact .execIsubImm hs
  | imulImm => exact .execImulImm hs
  | iminImm => exact .execIminImm hs
  | imaxImm => exact .execImaxImm hs
  | andImm => exact .execAndImm hs
  | orImm => exact .execOrImm hs
  | xorImm => exact .execXorImm hs
  | shlImm => exact .execShlImm hs
  | shrImm => exact .execShrImm hs
  | sarImm => exact .execSarImm hs
  | rotlImm => exact .execRotlImm hs
  | icmpImm => exact .execIcmpImm hs
  | fadd => exact .execFadd hs
  | fsub => exact .execFsub hs
  | fmul => exact .execFmul hs
  | ffma => exact .execFfma hs
  | fmin => exact .execFmin hs
  | fmax => exact .execFmax hs
  | fcmp => exact .execFcmp hs
  | fclass => exact .execFclass hs
  | frnd => exact .execFrnd hs
  | fcvt => exact .execFcvt hs
  | f2i => exact .execF2i hs
  | i2f => exact .execI2f hs
  | hxadd => exact .execHxadd hs
  | hxmul => exact .execHxmul hs
  | hxfma => exact .execHxfma hs
  | bxadd => exact .execBxadd hs
  | bxmul => exact .execBxmul hs
  | bxfma => exact .execBxfma hs
  | fdp2 => exact .execFdp2 hs
  | frcp => exact .execFrcp hs
  | frsq => exact .execFrsq hs
  | fsqrt => exact .execFsqrt hs
  | fexp2 => exact .execFexp2 hs
  | flog2 => exact .execFlog2 hs
  | fsin => exact .execFsin hs
  | fcos => exact .execFcos hs
  | ftanh => exact .execFtanh hs
  | fscale => exact .execFscale hs
  | fgetexp => exact .execFgetexp hs
  | gpack => exact .execGpack hs
  | gunpack => exact .execGunpack hs
  | ld => exact .execLd hs
  | ldSigned => exact .execLdSigned hs
  | st => exact .execSt hs
  | ldv => exact .execLdv hs
  | stv => exact .execStv hs
  | lds => exact .execLds hs
  | ldsSigned => exact .execLdsSigned hs
  | sts => exact .execSts hs
  | gath => exact .execGath hs
  | gathSigned => exact .execGathSigned hs
  | scat => exact .execScat hs
  | prf => exact .execPrf hs
  | loadDataReturn => exact .execLoadDataReturn hs
  | barSync => exact .execBarSync hs
  | barArv => exact .execBarArv hs
  | barWait => exact .execBarWait hs
  | barBytes => exact .execBarBytes hs
  | waitA => exact .execWaitA hs
  | waitT => exact .execWaitT hs
  | waitTTimeout => exact .execWaitTTimeout hs
  | fence => exact .execFence hs
  | atom32 => exact .execAtom32 hs
  | atom64 => exact .execAtom64 hs
  | cpGs => exact .execCpGs hs
  | cpSg => exact .execCpSg hs
  | cpGg => exact .execCpGg hs
  | cpFence => exact .execCpFence hs
  | cpPoll => exact .execCpPoll hs
  | copyEntryComplete => exact .execCopyEntryComplete hs
  | lfillBar => exact .execLfillBar hs
  | lfillTok => exact .execLfillTok hs
  | lfillComplete => exact .execLfillComplete hs
  | storeQueueDrain => exact .execStoreQueueDrain hs
  | tcfg => exact .execTcfg hs
  | tld => exact .execTld hs
  | tldg => exact .execTldg hs
  | tldgLanding => exact .execTldgLanding hs
  | tst => exact .execTst hs
  | tzero => exact .execTzero hs
  | tmov => exact .execTmov hs
  | mma => exact .execMma hs
  | mmap => exact .execMmap hs
  | mmac => exact .execMmac hs
  | kBlockStart => exact .execKBlockStart hs
  | matrixRetire => exact .execMatrixRetire hs
  | czero => exact .execCzero hs
  | cmov => exact .execCmov hs
  | cmovIn => exact .execCmovIn hs
  | vbnd => exact .execVbnd hs
  | atest => exact .execAtest hs
  | arraySelfTest => exact .execArraySelfTest hs
  | trap => exact .execTrap hs
  | brk => exact .execBrk hs
  | rfe => exact .execRfe hs
  | sread => exact .execSread hs
  | swrite => exact .execSwrite hs
  | ctxSave => exact .execCtxSave hs
  | ctxLoad => exact .execCtxLoad hs
  | xst => exact .execXst hs
  | xbar => exact .execXbar hs
  | cbar => exact .execCbar hs
  | xpoll => exact .execXpoll hs
  | acc => exact .execAcc hs
  | accv => exact .execAccv hs
  | accFlush => exact .execAccFlush hs
  | accProbe => exact .execAccProbe hs
  | accumulatePacketArrival => exact .execAccumulatePacketArrival hs
  | accumulateApply => exact .execAccumulateApply hs
  | accumulateAckArrival => exact .execAccumulateAckArrival hs
  | bounceArrival => exact .execBounceArrival hs
  | residualRetry => exact .execResidualRetry hs
  | grantedSend => exact .execGrantedSend hs
  | ownerRecallDeadline => exact .execOwnerRecallDeadline hs
  | refusalPendingClear => exact .execRefusalPendingClear hs
  | futSpawn => exact .execFutSpawn hs
  | futDup => exact .execFutDup hs
  | futDrop => exact .execFutDrop hs
  | futSelf => exact .execFutSelf hs
  | futCheck => exact .execFutCheck hs
  | futGet => exact .execFutGet hs
  | futPoll => exact .execFutPoll hs
  | futPark => exact .execFutPark hs
  | futUnpark => exact .execFutUnpark hs
  | futRet => exact .execFutRet hs
  | futureReclaim => exact .execFutureReclaim hs
  | enRead => exact .execEnRead hs
  | enMark => exact .execEnMark hs
  | vfReq => exact .execVfReq hs
  | vfStat => exact .execVfStat hs
  | collRed => exact .execCollRed hs
  | collBcast => exact .execCollBcast hs
  | collWait => exact .execCollWait hs
  | collPartialArrival => exact .execCollPartialArrival hs
  | collResultArrival => exact .execCollResultArrival hs
  | collectiveTimeout => exact .execCollectiveTimeout hs
  | bucketServeRequest => exact .execBucketServeRequest hs
  | grantAnswerArrival => exact .execGrantAnswerArrival hs
  | tickBoundary => exact .execTickBoundary hs
  | meterRecordClose => exact .execMeterRecordClose hs
  | pointChangeComplete => exact .execPointChangeComplete hs
  | capPeriodStart => exact .execCapPeriodStart hs
  | capDivision => exact .execCapDivision hs
  | capShareArrival => exact .execCapShareArrival hs
  | sliceReadRequest => exact .execSliceReadRequest hs
  | sliceOwnRequest => exact .execSliceOwnRequest hs
  | sliceWriteRequest => exact .execSliceWriteRequest hs
  | sliceWriteback => exact .execSliceWriteback hs
  | pageWalk => exact .execPageWalk hs
  | teamPlacement => exact .execTeamPlacement hs
  | teamRetire => exact .execTeamRetire hs
  | spillTest => exact .execSpillTest hs
  | rotationPreemption => exact .execRotationPreemption hs
  | rotationTimeout => exact .execRotationTimeout hs
  | teamSave => exact .execTeamSave hs
  | teamRestore => exact .execTeamRestore hs
  | watchdogExpiry => exact .execWatchdogExpiry hs
  | saveBoundExpiry => exact .execSaveBoundExpiry hs
  | clusterLend => exact .execClusterLend hs
  | clusterReclaim => exact .execClusterReclaim hs
  | reclaimRefusedTimeout => exact .execReclaimRefusedTimeout hs
  | limiterRefill => exact .execLimiterRefill hs
  | remoteRequestAdmission => exact .execRemoteRequestAdmission hs
  | notifyWrite => exact .execNotifyWrite hs
  | ringEnable => exact .execRingEnable hs
  | ringDisable => exact .execRingDisable hs
  | tokenRefill => exact .execTokenRefill hs
  | parserDrain => exact .execParserDrain hs
  | parserRetry => exact .execParserRetry hs
  | headWritebackTimer => exact .execHeadWritebackTimer hs
  | launch => exact .execLaunch hs
  | copy => exact .execCopy hs
  | copyPacketComplete => exact .execCopyPacketComplete hs
  | waitMem => exact .execWaitMem hs
  | waitMemHostPoll => exact .execWaitMemHostPoll hs
  | writeMem => exact .execWriteMem hs
  | fencePacket => exact .execFencePacket hs
  | energyMark => exact .execEnergyMark hs
  | timestamp => exact .execTimestamp hs
  | predicate => exact .execPredicate hs
  | relaunch => exact .execRelaunch hs
  | tlbinvBlock => exact .execTlbinvBlock hs
  | tlbinvContext => exact .execTlbinvContext hs
  | tlbinvPartition => exact .execTlbinvPartition hs
  | s2inv => exact .execS2inv hs
  | prqResponseOk => exact .execPrqResponseOk hs
  | prqResponseFail => exact .execPrqResponseFail hs
  | exportRequest => exact .execExportRequest hs
  | notifyrateWrite => exact .execNotifyrateWrite hs
  | contextEnable => exact .execContextEnable hs
  | contextDisable => exact .execContextDisable hs
  | ccload => exact .execCcload hs
  | mailboxPublish => exact .execMailboxPublish hs
  | mailboxClear => exact .execMailboxClear hs
  | agtcmdFragment => exact .execAgtcmdFragment hs
  | readClearRegister => exact .execReadClearRegister hs
  | registerWrite => exact .execRegisterWrite hs
  | coldStartCommand => exact .execColdStartCommand hs
  | warmStartCommand => exact .execWarmStartCommand hs
  | recovery => exact .execRecovery hs
  | writeAgturRegisters => exact .execWriteAgturRegisters hs
  | setPackageTenant => exact .execSetPackageTenant hs
  | setPartitionTenant => exact .execSetPartitionTenant hs
  | enrolLeaseKey => exact .execEnrolLeaseKey hs
  | installWeightTable => exact .execInstallWeightTable hs
  | retirePseudoChannel => exact .execRetirePseudoChannel hs
  | drainQuarter => exact .execDrainQuarter hs
  | retrainFabricPort => exact .execRetrainFabricPort hs
  | replaceCommandCoreImage => exact .execReplaceCommandCoreImage hs
  | reclaimLentClusters => exact .execReclaimLentClusters hs
  | assignPkgid => exact .execAssignPkgid hs
  | writeAgturFirmware => exact .execWriteAgturFirmware hs
  | coldStart => exact .execColdStart hs
  | warmStart => exact .execWarmStart hs
  | functionLevelReset => exact .execFunctionLevelReset hs
  | thermalThrottle => exact .execThermalThrottle hs
  | thermalTrip => exact .execThermalTrip hs
  | softError => exact .execSoftError hs
  | dieFailure => exact .execDieFailure hs
  | exchangePortFailure => exact .execExchangePortFailure hs
  | pairLinkFailure => exact .execPairLinkFailure hs
  | portFailure => exact .execPortFailure hs
  | mediumIdentify => exact .execMediumIdentify hs
  | xstWriteComplete => exact .execXstWriteComplete hs
  | flitReplay => exact .execFlitReplay hs
  | msixMaskClear => exact .execMsixMaskClear hs
  | privilegedContextSave => exact .execPrivilegedContextSave hs
  | trivetAgturImage => exact .execTrivetAgturImage hs
  | capReportArrival => exact .execCapReportArrival hs
  | illegalEncoding w => exact .execIllegalEncoding (w := w) hs
  | fetchFault => exact .execFetchFault hs

end Sys2Proof.Machine
end

section
/-! What is defined in Machine/Issue.lean keeps memory in canonical form. -/

namespace Sys2Proof.Machine

theorem State.Canon.nextWord {s : State} (hs : s.Canon) : s.nextWord.1.Canon := by
  unfold State.nextWord
  extract_lets t g read
  have hread (va : W64) (f : W64 → NextWord) : (read va f).1.Canon := by
    unfold read
    split
    · rename_i heq
      exact State.Canon.fst hs.fetchWord heq
    · rename_i heq
      exact State.Canon.fst hs.fetchWord heq
    · rename_i heq
      exact State.Canon.fst hs.fetchWord heq
  split
  · exact hread _ _
  · exact hread _ _

theorem Out.Canon.runNext {s : State} {w : NextWord} (hs : s.Canon) : Out.Canon (s.runNext w) := by
  unfold State.runNext
  split
  · exact .exec hs
  · exact .execIllegalEncoding hs
  · exact .execFetchFault hs
  · exact hs.stall.next

theorem State.Canon.payWord {s : State} {w : NextWord} {trapped : Bool} (hs : s.Canon) : (s.payWord w trapped).1.Canon := by
  unfold State.payWord
  exact .iteFst hs hs.take

theorem State.Canon.energyStop {s : State} {u : Nat} (hs : s.Canon) : (s.energyStop u).Canon := by
  unfold State.energyStop
  extract_lets base
  exact hs.setCur

theorem State.Canon.keepLanes {s old : State} {w : NextWord} (hs : s.Canon) : (s.keepLanes old w).Canon := by
  unfold State.keepLanes
  extract_lets base
  split
  · split
    · exact hs
    · extract_lets costs
      split
      · exact hs.setCur
      · exact .ite hs.refund hs
  · exact hs

theorem State.Canon.keepStep {s old : State} (hs : s.Canon) : (s.keepStep old).Canon := by
  unfold State.keepStep
  extract_lets m base
  exact .ite hs.setCur hs

theorem State.Canon.repay {s : State} {c : Cur} (hs : s.Canon) : (s.repay c).Canon := by
  unfold State.repay
  split
  · exact hs.refund
  · exact hs

theorem Trial.Canon.tryWord {s : State} {w : NextWord} (hs : s.Canon) : (s.tryWord w).Canon := by
  unfold State.tryWord
  split
  · rename_i s1 heq
    have h1 : s1.Canon := Out.Canon.runNext hs _ heq
    exact .ite h1 (.ite h1 (.ite h1.refundLanes (.ite hs ⟨hs, h1⟩)))
  · exact Out.Canon.runNext hs

theorem Trial.Canon.tryCur {s : State} (hs : s.Canon) : s.tryCur.Canon := by
  unfold State.tryCur
  split
  · exact hs.trapRun
  · split
    rename_i s1 _ heq
    have h1 : s1.Canon := State.Canon.fst hs.nextWord heq
    exact .ite hs (.ite h1.setCur.refundLanes (.tryWord h1))

theorem State.Canon.ageGang {s3 s2 : State} (h3 : s3.Canon) : (s3.ageGang s2).Canon := by
  unfold State.ageGang
  extract_lets c G G1 s4
  have h4 : s4.Canon := h3.setGang
  exact .same h4 rfl

theorem State.Canon.settleReads {s : State} {w : NextWord} (hs : s.Canon) : (s.settleReads w).Canon := by
  unfold State.settleReads
  extract_lets on
  exact .ite hs hs.setCur

theorem State.Canon.issued {s3 s2 : State} {w : NextWord} (h3 : s3.Canon) : (s3.issued s2 w).Canon :=
  h3.keepLanes.settleReads.keepStep.ageGang

theorem Out.Canon.runIssued {s : State} {w : NextWord} (hs : s.Canon) : Out.Canon (match s.runNext w with
    | .next s3 => .next (s3.issued s w)
    | o => o) := by
  have ho := Out.Canon.runNext hs (w := w)
  split
  · rename_i heq
    exact (State.Canon.issued (ho _ heq)).next
  · exact ho

theorem Out.Canon.payAndIssue {s s1 : State} {w : NextWord} {trapped : Bool} (hs : s.Canon) (h1 : s1.Canon) :
    Out.Canon (s.payAndIssue w trapped s1) := by
  unfold State.payAndIssue
  split
  · refine .ite (State.Canon.issued h1).next ?_
    have hp (b : Bool) : ((s.repay s.cur).payWord w b).1.Canon := hs.repay.payWord
    split
    · rename_i heq
      exact State.Canon.next (.same (State.Canon.fst (hp _) heq) rfl)
    · rename_i heq
      exact (State.Canon.fst (hp _) heq).energyStop.next
    · rename_i heq
      exact .runIssued (State.Canon.fst (hp _) heq)
  · split
    · rename_i heq
      exact State.Canon.next (.same (State.Canon.fst hs.payWord heq) rfl)
    · rename_i heq
      exact (State.Canon.fst hs.payWord heq).energyStop.next
    · rename_i heq
      exact .runIssued (State.Canon.fst hs.payWord heq)

theorem Out.Canon.issueCur {s : State} (hs : s.Canon) : Out.Canon s.issueCur := by
  unfold State.issueCur
  have ht := Trial.Canon.tryCur hs
  split
  · rename_i heq
    rw [heq] at ht
    exact (State.Canon.repay ht).next
  · rename_i heq
    rw [heq] at ht
    exact (State.Canon.repay ht).next
  · rename_i heq
    rw [heq] at ht
    exact .payAndIssue ht.1 ht.2
  · rename_i heq
    rw [heq] at ht
    exact ht

theorem State.Canon.atRun {s : State} {c : Cur} (hs : s.Canon) : (s.atRun c).Canon := by
  unfold State.atRun
  extract_lets s1 base
  have h1 : s1.Canon := .same hs rfl
  split
  · exact h1.setCur
  · exact h1

theorem State.Canon.tryRun {s : State} {c : Cur} (hs : s.Canon) : (s.tryRun c).1.Canon := by
  unfold State.tryRun
  have ht := Trial.Canon.tryCur (hs.atRun (c := c))
  split
  · rename_i heq
    rw [heq] at ht
    exact .same ht rfl
  · exact hs

theorem State.Canon.openRuns {s : State} {t g : Nat} {groups : List (W64 × List Nat)} (hs : s.Canon) :
    (s.openRuns t g groups).1.Canon := by
  unfold State.openRuns
  refine .foldlFst hs (fun r q hr => ?_)
  split
  · exact hr
  · split
    · rename_i heq
      exact State.Canon.fst hr.tryRun heq
    · rename_i heq
      exact State.Canon.fst hr.tryRun heq

theorem State.Canon.payRun {s : State} {c : Cur} (hs : s.Canon) : (s.payRun c).1.Canon := by
  unfold State.payRun
  have ht := Trial.Canon.tryCur (hs.atRun (c := c))
  split
  · rename_i heq
    rw [heq] at ht
    obtain ⟨h0, -⟩ := ht
    extract_lets n
    split
    · rename_i heq'
      exact .same (State.Canon.fst h0.payWord heq') rfl
    · rename_i heq'
      exact .same (State.Canon.fst h0.payWord heq') rfl
    · exact hs
  · exact hs
  · exact hs

theorem State.Canon.takeGang {s : State} {t g : Nat} {taken : List Nat} {todo : List Cur} (hs : s.Canon) :
    (s.takeGang t g taken todo).1.Canon := by
  unfold State.takeGang
  extract_lets G0
  split
  rename_i s0 _ heq0
  have h0 : s0.Canon := State.Canon.fst hs.openRuns heq0
  split
  rename_i s1 _ heq1
  have h1 : s1.Canon := State.Canon.fst h0.openRuns heq1
  extract_lets G chosen ageing G1 more start
  refine .iteFst (.ite h1 h1.setGang) ?_
  have hstart (r : State × List Cur × List Nat × Bool) (q : W64 × List Nat) (hr : r.1.Canon) : (start r q).1.Canon := by
    unfold start
    refine .iteFst hr ?_
    extract_lets others
    split
    · rename_i heq
      exact State.Canon.fst hr.payRun heq
    · rename_i heq
      exact State.Canon.fst hr.payRun heq
    · rename_i heq
      exact State.Canon.fst hr.payRun heq
  split
  rename_i s2 _ _ _ heq2
  have h2 : s2.Canon := State.Canon.fst (.foldlFst h1.setGang hstart) heq2
  exact .ite h2.modGang h2

theorem State.Canon.coreCycle {s : State} {c : Nat} (hs : s.Canon) : (s.coreCycle c).Canon := by
  unfold State.coreCycle
  exact .same (.foldlFst hs (fun _ _ hr => hr.takeGang)) rfl

theorem State.Canon.orderIssues {s : State} (hs : s.Canon) : s.orderIssues.Canon := by
  unfold State.orderIssues
  extract_lets slot core key ctx bs asks
  exact .same hs rfl

theorem State.Canon.tickQuarter {s : State} {q : Nat} (hs : s.Canon) : (s.tickQuarter q).1.Canon := by
  unfold State.tickQuarter
  extract_lets n
  exact .iteFst hs (.iteFst hs.modQuarter hs.modQuarter)

theorem State.Canon.turnSlot {s : State} {q : Nat} (hs : s.Canon) : (s.turnSlot q).Canon := hs.modQuarter

theorem State.Canon.quarterCycle {s : State} {q : Nat} (hs : s.Canon) : (s.quarterCycle q).Canon := by
  unfold State.quarterCycle
  extract_lets s1
  have h1 : s1.Canon := .foldl hs (fun _ _ h' => h'.portEvent)
  exact .foldl h1 (fun _ _ h' => h'.coreCycle)

theorem State.Canon.endCycle {s : State} (hs : s.Canon) : s.endCycle.Canon := hs.settleBars.settleGroups.settleKills.settlePeriod

theorem State.Canon.beginCycle {s : State} (hs : s.Canon) : s.beginCycle.Canon := by
  unfold State.beginCycle
  extract_lets ended s0 s1 r freed
  have he : ended.Canon := hs.endCycle
  clear_value ended
  have h0 : s0.Canon := .same he rfl
  have h1 : s1.Canon := h0.timeOuts.meshCycle.sliceBounds
  clear_value s1
  have hr : r.1.Canon := by
    refine .foldlFst h1 ?_
    intro p q hp
    split
    · rename_i heq
      exact (State.Canon.fst hp.tickQuarter heq).turnSlot
    · rename_i heq
      exact State.Canon.fst hp.tickQuarter heq
  clear_value r
  have hf : freed.Canon := hr.freeDelayed
  clear_value freed
  exact .same hf rfl

theorem Out.Canon.chooseTurn {s : State} {qs : List Nat} (hs : s.Canon) : Out.Canon (s.chooseTurn qs) := by
  unfold State.chooseTurn
  exact .ite (.execTickBoundary hs) (State.Canon.next (.orderIssues (.foldl (.same hs rfl) (fun _ _ h' => h'.quarterCycle))))

theorem Out.Canon.issueNext {s : State} {c : Cur} {rest : List Cur} (hs : s.Canon) : Out.Canon (s.issueNext c rest) := by
  unfold State.issueNext
  extract_lets s1
  have h1 : s1.Canon := .same hs rfl
  have hc : State.Canon { s1 with cur := c } := .same h1 rfl
  have ho := Out.Canon.issueCur (h1.atRun (c := c))
  refine .ite ?_ (State.Canon.next (.same (hc.repay (c := c)) rfl))
  split
  · rename_i heq
    exact State.Canon.next (.same (ho _ heq) rfl)
  · exact ho

theorem State.Canon.idleCycle {s : State} (hs : s.Canon) : s.idleCycle.Canon := by
  unfold State.idleCycle
  extract_lets s1
  have h1 : s1.Canon := hs.settlePeriod
  clear_value s1
  exact .same h1 rfl

theorem Out.Canon.issueTurn {s : State} (hs : s.Canon) : Out.Canon s.issueTurn := by
  unfold State.issueTurn
  refine .ite hs.idleCycle.next ?_
  split
  · exact .issueNext hs
  · split
    · exact .chooseTurn hs
    · exact hs.beginCycle.next

theorem Out.Due.duePend {s : State} {t g : Nat} {G : Gang} {p : Pend} (hs : s.Canon) : Out.Due (s.duePend t g G p) := by
  unfold State.duePend
  refine .ite .none ?_
  split
  · exact .tryEvent (.execTldgLanding hs)
  · exact .ite (.dueIf (.execLoadDataReturn hs)) .none
  · exact .none
  · exact .dueIf (.execLoadDataReturn hs)

theorem Out.Due.dueGang {s : State} {t g : Nat} {T : Team} {G : Gang} (hs : s.Canon) : Out.Due (s.dueGang t g T G) := by
  unfold State.dueGang
  exact .orElse (.findSome (fun _ => .duePend hs)) (.orElse (.dueIf (.execStoreQueueDrain hs)) (.dueIf hs.acceptConts.next))

theorem Out.Due.dueTeam {s : State} {t : Nat} {T : Team} (hs : s.Canon) : Out.Due (s.dueTeam t T) := by
  unfold State.dueTeam
  refine .ite .none (.orElse ?_ (.orElse ?_ (.orElse ?_ (.orElse ?_ (.orElse ?_ (.orElse ?_ (.orElse ?_ ?_)))))))
  · exact .findSome (fun _ => .dueGang hs)
  · exact .dueIf (.execFutureReclaim hs)
  · exact .dueIf (.execTeamRetire hs)
  · exact .dueIf (.execReclaimRefusedTimeout hs)
  · exact .dueIf (.execSaveBoundExpiry hs)
  · exact .dueIf (.execRotationTimeout hs)
  · exact .dueIf (.execTeamSave hs)
  · exact .dueIf (.execSpillTest hs)

theorem Out.Due.duePacket {s : State} {c : Nat} {p : Packet} (hs : s.Canon) : Out.Due (s.duePacket c p) := by
  unfold State.duePacket
  split
  · exact .dueIf (.execAccumulatePacketArrival hs)
  · exact .dueIf (.execAccumulatePacketArrival hs)
  · exact .tryEvent (.execAccumulateAckArrival hs)
  · exact .none

theorem Out.Due.dueCopyQ {s : State} {c q : Nat} {Q : CopyQueue} (hs : s.Canon) : Out.Due (s.dueCopyQ c q Q) := by
  unfold State.dueCopyQ
  split
  · exact .none
  · exact .dueIf (.execCopyEntryComplete hs)

theorem Out.Due.dueStore {s : State} {c : Nat} {C : Core} (hs : s.Canon) : Out.Due (s.dueStore c C) := by
  unfold State.dueStore
  split
  · exact .tryEvent (.execSliceWriteRequest hs)
  · exact .none

theorem Out.Due.dueCore {s : State} {c : Nat} {C : Core} (hs : s.Canon) : Out.Due (s.dueCore c C) := by
  unfold State.dueCore
  refine .orElse ?_ (.orElse ?_ (.orElse ?_ (.orElse ?_ (.orElse ?_ (.orElse ?_ (.orElse ?_ (.orElse ?_ ?_)))))))
  · exact .findSome (fun _ => .orElse (.dueIf (.execBucketServeRequest hs)) (.dueIf (.execGrantAnswerArrival hs)))
  · exact .dueStore hs
  · exact .dueIf (.execXstWriteComplete hs)
  · exact .findSome (fun _ => .duePacket hs)
  · exact .dueIf hs.corePort.next
  · exact .findSome (fun _ => .dueCopyQ hs)
  · exact .dueIf (.execMatrixRetire hs)
  · exact .dueIf (.execArraySelfTest hs)
  · exact .dueIf (.execKBlockStart hs)

theorem Out.Due.dueTests {s : State} (hs : s.Canon) : Out.Due s.dueTests := by
  unfold State.dueTests
  exact .ite .none (.findSome (fun _ => .dueIf (.execArraySelfTest hs)))

theorem Out.Due.duePlacement {s : State} {d : Nat} (hs : s.Canon) : Out.Due (s.duePlacement d) := by
  unfold State.duePlacement
  split
  · exact .none
  · extract_lets T
    split
    · exact .none
    · exact .ite (.dueIf (.execTeamRestore hs)) (.tryEvent (.execTeamPlacement hs))

theorem Out.Due.dueDie {s : State} {d : Nat} {D : Die} (hs : s.Canon) : Out.Due (s.dueDie d D) := by
  unfold State.dueDie
  refine .orElse (.findSome ?_) (.findSome (fun _ => .dueIf (.execLimiterRefill hs)))
  intro i
  split
  · exact .tryEvent (.execLfillComplete hs)
  · exact .none

theorem Out.Due.dueSlice {s : State} {n : Nat} {S : Slice} (hs : s.Canon) : Out.Due (s.dueSlice n S) := by
  unfold State.dueSlice
  exact .dueIf (.execAccumulateApply hs)

theorem Out.Due.duePkt {s : State} {fn ring : Nat} {p : PktRun} (hs : s.Canon) : Out.Due (s.duePkt fn ring p) := by
  unfold State.duePkt
  split
  · exact .none
  · extract_lets again
    split
    · exact .dueIf (.execLaunch hs)
    · exact .ite (.dueIf (.execCopyPacketComplete hs)) (.dueIf (.execCopy hs))
    · exact .ite (.dueIf (.execWaitMemHostPoll hs)) (.dueIf (.execWaitMem hs))
    · exact .dueIf (.execWriteMem hs)
    · exact .dueIf (.execFencePacket hs)
    · exact .dueIf (.execEnergyMark hs)
    · exact .dueIf (.execTimestamp hs)
    · exact .dueIf (.execPredicate hs)
    · exact .dueIf (.execRelaunch hs)
    · exact .none

theorem Out.Due.dueRing {s : State} {fn ring : Nat} {R : Ring} (hs : s.Canon) : Out.Due (s.dueRing fn ring R) := by
  unfold State.dueRing
  refine .orElse ?_ (.orElse ?_ (.orElse ?_ (.findSome (fun _ => .duePkt hs))))
  · exact .dueIf (.execParserRetry hs)
  · exact .dueIf (.execParserDrain hs)
  · exact .dueIf (.execHeadWritebackTimer hs)

theorem Out.Due.dueFunc {s : State} {fn : Nat} {F : Func} (hs : s.Canon) : Out.Due (s.dueFunc fn F) := by
  unfold State.dueFunc
  refine .orElse ?_ (.orElse ?_ (.orElse ?_ (.findSome (fun _ => .dueRing hs))))
  · exact .dueIf (.execFunctionLevelReset hs)
  · exact .dueIf (.execTokenRefill hs)
  · exact .dueIf hs.flushMtr.next

theorem Out.Due.duePart {s : State} {p : Nat} {P : Part} (hs : s.Canon) : Out.Due (s.duePart p P) := by
  unfold State.duePart
  refine .orElse ?_ (.orElse ?_ (.findSome (fun _ => .findSome (fun _ => .dueIf (.execCollectiveTimeout hs)))))
  · exact .dueIf (.execMeterRecordClose hs)
  · exact .dueIf (.execPointChangeComplete hs)

theorem Out.Due.dueEnergy {s : State} (hs : s.Canon) : Out.Due s.dueEnergy := by
  unfold State.dueEnergy
  exact .orElse (.dueIf (.execTickBoundary hs)) (.orElse (.dueIf (.execCapPeriodStart hs)) (.dueIf (.execCapDivision hs)))

theorem Out.Due.dueLending {s : State} (hs : s.Canon) : Out.Due s.dueLending := by
  unfold State.dueLending
  refine .orElse (.findSome (fun _ => .dueIf (.execClusterReclaim hs))) (.findSome ?_)
  intro p
  exact .ite (.findSome (fun _ => .tryEvent (.execClusterLend hs))) .none

theorem Out.Due.dueEvent {s : State} (hs : s.Canon) : Out.Due s.dueEvent := by
  unfold State.dueEvent
  refine .orElse ?_ (.orElse ?_ (.orElse ?_ (.orElse ?_ (.orElse ?_
      (.orElse ?_ (.orElse ?_ (.orElse ?_ (.orElse ?_ (.orElse ?_ ?_)))))))))
  · exact .dueEnergy hs
  · exact .findSome (fun _ => .dueTeam hs)
  · exact .findSome (fun _ => .dueCore hs)
  · exact .dueTests hs
  · exact .findSome (fun _ => .dueDie hs)
  · exact .findSome (fun _ => .dueSlice hs)
  · exact .findSome (fun _ => .dueFunc hs)
  · exact .findSome (fun _ => .duePart hs)
  · exact .findSome (fun _ => .dueIf (.execWatchdogExpiry hs))
  · exact .findSome (fun _ => .duePlacement hs)
  · exact .dueLending hs

theorem Out.Canon.freeTurn {s : State} (hs : s.Canon) : Out.Canon s.freeTurn := by
  unfold State.freeTurn
  refine .ite hs.idleCycle.next ?_
  split
  · exact .issueNext hs
  · split
    · exact hs.beginCycle.next
    · split
      · rename_i heq
        exact Out.Due.dueEvent hs _ heq
      · exact .chooseTurn hs

end Sys2Proof.Machine
end

section
/-! What is defined in Machine/Step.lean keeps memory in canonical form. -/

namespace Sys2Proof.Machine

theorem Out.Canon.eventTurn {s : State} {i : Instr} (hs : s.Canon) : Out.Canon (s.eventTurn i) := by
  unfold State.eventTurn
  exact .ite hs.next (.exec hs)

end Sys2Proof.Machine
end

section
/-! Every step keeps the package's memory in canonical form. -/

namespace Sys2Proof.Machine

theorem Out.Canon.step {s : State} (hs : s.Canon) : Out.Canon (step s) := by
  unfold Machine.step
  split
  · exact .eventTurn (.same hs rfl)
  · exact State.Canon.next (.hostPut (.same hs rfl))
  · exact .issueTurn (.same hs rfl)
  · exact .freeTurn hs

/-- Settles O5, by one rule for each function that a step runs: memory changes only by writes (`writeNum`, `writeBytes`,
`applySlots`, `putCells`), by a filter, or by being emptied, and each of these keeps the form. -/
theorem stepsKeepMemoryCanonical : Obligations.StepsKeepMemoryCanonical := by
  unfold Obligations.StepsKeepMemoryCanonical Safety.Kept
  intro s t hs e
  exact Out.Canon.step hs t e

end Sys2Proof.Machine
end

section
/-! What no function of a kill undoes (R280, R347): a team that has ended stays ended, no team comes onto a die, and whether a context is
enabled or dying changes only where its kill begins or ends. -/

namespace Sys2Proof.Machine

theorem tfind_map {α β : Type} (f : Nat → α → β) (t : Tbl α) (k : Nat) :
    tfind (t.map (fun p => (p.1, f p.1 p.2))) k = (tfind t k).map (f k) := by
  induction t with
  | nil => rfl
  | cons p t ih =>
    obtain ⟨j, v⟩ := p
    simp only [List.map_cons, tfind]
    split
    · rename_i h
      subst h
      rfl
    · exact ih

/-- A read of a table whose values were mapped, where the map keeps the default. -/
theorem tget_map {α β : Type} (f : Nat → α → β) {d : α} {e : β} (t : Tbl α) (k : Nat) (h : f k d = e) :
    tget e (t.map (fun p => (p.1, f p.1 p.2))) k = f k (tget d t k) := by
  unfold tget
  rw [tfind_map]
  cases tfind t k with
  | none => exact h.symm
  | some v => rfl

theorem State.ctx_modCtx_ne (s : State) {c d : Nat} (h : d ≠ c) (f : Context → Context) : (s.modCtx c f).ctx d = s.ctx d := by
  simp [State.ctx, State.modCtx, tget_tput_ne _ _ h]

/-- What may become of a team while contexts are killed: it is still of its context, it comes onto no die, and its end stands. -/
structure Team.Declines (T U : Team) : Prop where
  ctx : U.ctx = T.ctx
  onDie : U.onDie = true → T.onDie = true
  retired : T.state = .retired → U.state = .retired
  killed : T.state = .killed → U.state = .killed ∨ U.state = .retired

theorem Team.Declines.same {T U : Team} (hc : U.ctx = T.ctx) (hs : U.state = T.state) : T.Declines U := by
  refine ⟨hc, ?_, fun h => hs.trans h, fun h => .inl (hs.trans h)⟩
  unfold Team.onDie
  rw [hs]
  exact id

theorem Team.Declines.refl (T : Team) : T.Declines T := .same rfl rfl

theorem Team.Declines.trans {T U V : Team} (h : T.Declines U) (k : U.Declines V) : T.Declines V := by
  refine ⟨k.ctx.trans h.ctx, fun e => h.onDie (k.onDie e), fun e => k.retired (h.retired e), fun e => ?_⟩
  rcases h.killed e with e | e
  · exact k.killed e
  · exact .inr (k.retired e)

/-- A team that is killed or retired ends. -/
theorem Team.Declines.retire {T U : Team} (hc : U.ctx = T.ctx) (hs : U.state = .retired) : T.Declines U := by
  refine ⟨hc, fun h => ?_, fun _ => hs, fun _ => .inr hs⟩
  simp [Team.onDie, hs] at h

/-- A team that is killed keeps its place on the die until the kill ends (R280). -/
theorem Team.Declines.kill {T U : Team} (hc : U.ctx = T.ctx) (hs : U.state = if T.onDie then .killed else .retired) : T.Declines U := by
  refine ⟨hc, fun h => ?_, fun h => ?_, fun h => ?_⟩
  · by_contra hT
    rw [if_neg hT] at hs
    simp [Team.onDie, hs] at h
  · simpa [Team.onDie, h] using hs
  · left
    simpa [Team.onDie, h] using hs

/-- From `o` to `s` each team declines, none is forgotten, and a context is enabled where it was. -/
structure State.Wanes (o s : State) : Prop where
  team : ∀ k, (o.team k).Declines (s.team k)
  kept : ∀ k, (tfind o.teams k).isSome = true → (tfind s.teams k).isSome = true
  en : ∀ c, (s.ctx c).en = (o.ctx c).en

theorem State.Wanes.refl (s : State) : s.Wanes s := ⟨fun _ => .refl _, fun _ => id, fun _ => rfl⟩

theorem State.Wanes.trans {s t u : State} (h : s.Wanes t) (k : t.Wanes u) : s.Wanes u :=
  ⟨fun n => (h.team n).trans (k.team n), fun n e => k.kept n (h.kept n e), fun c => (k.en c).trans (h.en c)⟩

/-- The same, and no kill begins or ends. -/
structure State.Declines (o s : State) : Prop extends State.Wanes o s where
  dying : ∀ c, (s.ctx c).dying = (o.ctx c).dying

theorem State.Declines.refl (s : State) : s.Declines s := ⟨.refl s, fun _ => rfl⟩

section
variable {o s u : State}

theorem State.Declines.same (hs : o.Declines s) (ht : u.teams = s.teams) (hc : u.ctxs = s.ctxs) : o.Declines u := by
  have hteam (k : Nat) : u.team k = s.team k := by rw [State.team, State.team, ht]
  have hctx (c : Nat) : u.ctx c = s.ctx c := by rw [State.ctx, State.ctx, hc]
  refine ⟨⟨fun k => ?_, fun k e => ?_, fun c => ?_⟩, fun c => ?_⟩
  · exact hteam k ▸ hs.team k
  · exact ht ▸ hs.kept k e
  · exact hctx c ▸ hs.en c
  · exact hctx c ▸ hs.dying c

theorem State.Declines.ite {c : Prop} [Decidable c] (hs : o.Declines s) (hu : o.Declines u) : o.Declines (if c then s else u) := by
  split
  · exact hs
  · exact hu

theorem State.Declines.fst {α : Type} {p : State × α} {x : α} (hp : o.Declines p.1) (e : p = (s, x)) : o.Declines s := by
  subst e
  exact hp

theorem State.Declines.foldl {α : Type} {f : State → α → State} {l : List α} (hs : o.Declines s)
    (hf : ∀ s x, o.Declines s → o.Declines (f s x)) : o.Declines (l.foldl f s) := by
  induction l generalizing s with
  | nil => exact hs
  | cons x l ih => exact ih (hf s x hs)

theorem State.Declines.foldlFst {α β : Type} {f : State × β → α → State × β} {p : State × β} {l : List α} (hp : o.Declines p.1)
    (hf : ∀ p x, o.Declines p.1 → o.Declines (f p x).1) : o.Declines (l.foldl f p).1 := by
  induction l generalizing p with
  | nil => exact hp
  | cons x l ih => exact ih (hf p x hp)

end

section
variable {o s : State} {t g c n fn ring core line : Nat}

/-! ### Updates of one unit -/

theorem State.Declines.setTeam {T : Team} (hs : o.Declines s) (hT : (o.team t).Declines T) : o.Declines (s.setTeam t T) := by
  refine ⟨⟨fun k => ?_, fun k e => ?_, hs.en⟩, hs.dying⟩
  · by_cases h : k = t
    · rw [h, State.team_setTeam]
      exact hT
    · rw [State.team_setTeam_ne _ h]
      exact hs.team k
  · unfold State.setTeam
    by_cases h : k = t
    · rw [h, tfind_tput_same]
      rfl
    · rw [tfind_tput_ne _ h]
      exact hs.kept k e

theorem State.Declines.modTeam {f : Team → Team} (hs : o.Declines s) (hf : ∀ T, Team.Declines T (f T)) : o.Declines (s.modTeam t f) := by
  refine .setTeam hs ?_
  exact (hs.team t).trans (hf _)

theorem State.Declines.mapTeams {f : Nat → Team → Team} (hs : o.Declines s) (hf : ∀ k T, Team.Declines T (f k T)) : o.Declines (s.mapTeams f) := by
  refine ⟨⟨fun k => ?_, fun k e => ?_, hs.en⟩, hs.dying⟩
  · have hk := hs.team k
    unfold State.team tget at hk ⊢
    unfold State.mapTeams
    rw [tfind_map]
    cases h : tfind s.teams k with
    | none => rwa [h] at hk
    | some T =>
      rw [h] at hk
      exact hk.trans (hf k T)
  · unfold State.mapTeams
    rw [tfind_map, Option.isSome_map]
    exact hs.kept k e

theorem State.Declines.modGang {f : Gang → Gang} (hs : o.Declines s) : o.Declines (s.modGang t g f) := by
  unfold State.modGang State.setGang
  exact hs.modTeam (fun _ => .same rfl rfl)

theorem State.Declines.modCtx {f : Context → Context} (hs : o.Declines s) (hf : ∀ C, (f C).en = C.en ∧ (f C).dying = C.dying) :
    o.Declines (s.modCtx c f) := by
  have hd (d : Nat) : ((s.modCtx c f).ctx d).en = (s.ctx d).en ∧ ((s.modCtx c f).ctx d).dying = (s.ctx d).dying := by
    by_cases h : d = c
    · rw [h, State.ctx_modCtx]
      exact hf _
    · rw [State.ctx_modCtx_ne _ h]
      exact ⟨rfl, rfl⟩
  exact ⟨⟨hs.team, hs.kept, fun d => (hd d).1.trans (hs.en d)⟩, fun d => (hd d).2.trans (hs.dying d)⟩

theorem State.Declines.modCore {f : Core → Core} (hs : o.Declines s) : o.Declines (s.modCore c f) := .same hs rfl rfl
theorem State.Declines.modCluster {f : Cluster → Cluster} (hs : o.Declines s) : o.Declines (s.modCluster c f) := .same hs rfl rfl
theorem State.Declines.modSlice {f : Slice → Slice} (hs : o.Declines s) : o.Declines (s.modSlice n f) := .same hs rfl rfl
theorem State.Declines.modFunc {f : Func → Func} (hs : o.Declines s) : o.Declines (s.modFunc fn f) := .same hs rfl rfl
theorem State.Declines.modCopyQ {f : CopyQueue → CopyQueue} (hs : o.Declines s) : o.Declines (s.modCopyQ core n f) := .same hs rfl rfl
theorem State.Declines.modRing {f : Ring → Ring} (hs : o.Declines s) : o.Declines (s.modRing fn ring f) := .same hs rfl rfl
theorem State.Declines.modPkt {f : PktRun → PktRun} (hs : o.Declines s) : o.Declines (s.modPkt fn ring n f) := .same hs rfl rfl
theorem State.Declines.modMeter {f : Meter → Meter} (hs : o.Declines s) : o.Declines (s.modMeter core c f) := .same hs rfl rfl
theorem State.Declines.hostPut {a : Nat} {bs : List Byte} (hs : o.Declines s) : o.Declines (s.hostPut fn a bs) := .same hs rfl rfl

/-! ### Messages, page requests and charges -/

theorem State.Declines.signal {vec : Nat} (hs : o.Declines s) : o.Declines (s.signal fn vec) := by
  unfold State.signal
  exact .ite (.same hs rfl rfl) hs.modFunc

theorem State.Declines.tellHost {why : Notice} (hs : o.Declines s) : o.Declines (s.tellHost c why) := by
  unfold State.tellHost
  extract_lets fn
  exact .signal (.same hs rfl rfl)

theorem State.Declines.flushPrqOne (hs : o.Declines s) : o.Declines (s.flushPrqOne fn) := by
  unfold State.flushPrqOne
  extract_lets R n blocked
  split
  · exact hs
  · extract_lets s1 s2
    have h2 : o.Declines s2 := .same hs rfl rfl
    exact .ite hs h2.modFunc.signal

theorem State.Declines.flushPrq (hs : o.Declines s) : o.Declines (s.flushPrq fn) := by
  unfold State.flushPrq
  exact .foldl hs (fun _ _ h => h.flushPrqOne)

theorem State.Declines.requestPage {page : Nat} {s2 : Bool} {acc : Access} {engine : Bool} (hs : o.Declines s) :
    o.Declines (s.requestPage c page s2 acc engine).1 := by
  unfold State.requestPage
  extract_lets p id r
  split
  · exact hs
  · split
    · exact .flushPrq (.same hs rfl rfl)
    · exact hs

theorem State.Declines.requestAll {keys : List (PageKey × Access)} (hs : o.Declines s) : o.Declines (s.requestAll c keys).1 := by
  unfold State.requestAll
  refine .foldlFst hs (fun r k hr => ?_)
  split
  · rename_i heq
    exact State.Declines.fst hr.requestPage heq
  · rename_i heq
    exact State.Declines.fst hr.requestPage heq

theorem State.Declines.releaseParked (hs : o.Declines s) : o.Declines (s.releaseParked n) := by
  unfold State.releaseParked
  split
  · exact hs
  · split
    · extract_lets r s1
      have h1 : o.Declines s1 := hs.requestAll.modGang
      exact .ite (.same h1 rfl rfl) h1
    · exact .same hs rfl rfl

theorem State.Declines.freePrq (hs : o.Declines s) : o.Declines (s.freePrq n) := by
  unfold State.freePrq
  split
  · exact hs
  · exact .flushPrq (.releaseParked (.same hs rfl rfl))

theorem State.Declines.killPrqs (hs : o.Declines s) : o.Declines (s.killPrqs c) := by
  unfold State.killPrqs
  exact .foldl hs (fun _ _ h => h.freePrq)

theorem State.Declines.post (hs : o.Declines s) : o.Declines (s.post core c) := by
  unfold State.post
  extract_lets n s1
  have h1 : o.Declines s1 := hs.modMeter
  exact h1.modCtx (fun _ => ⟨rfl, rfl⟩)

theorem State.Declines.wantGrant (hs : o.Declines s) : o.Declines (s.wantGrant core c) := by
  unfold State.wantGrant
  exact .ite hs.post.modMeter hs

theorem State.Declines.chargeRaw {u dom : Nat} (hs : o.Declines s) : o.Declines (s.chargeRaw core c u dom) := by
  unfold State.chargeRaw
  refine .wantGrant ?_
  unfold State.chargeOnly
  extract_lets s1
  have h1 : o.Declines s1 := hs.modMeter
  clear_value s1
  exact .ite (.same hs rfl rfl) (.same h1 rfl rfl)

theorem State.Declines.chargeMiss {m : Miss} (hs : o.Declines s) : o.Declines (s.chargeMiss m) := by
  unfold State.chargeMiss
  split
  · exact .same hs rfl rfl
  · exact hs.chargeRaw

theorem State.Declines.resolveMisses (hs : o.Declines s) : o.Declines (s.resolveMisses t) := by
  unfold State.resolveMisses State.chargeMisses
  exact .foldl hs (fun _ _ h => .foldl h (fun _ _ h' => h'.chargeMiss))

theorem State.Declines.returnMeter (hs : o.Declines s) : o.Declines (s.returnMeter core c) := by
  unfold State.returnMeter
  extract_lets M n s1
  have h1 : o.Declines s1 := hs.modCtx (fun _ => ⟨rfl, rfl⟩)
  exact .ite hs h1.modCore

/-! ### Lines and clusters -/

theorem State.Declines.sendFlits {pkg cls pa : Nat} {bytes : List Byte} (hs : o.Declines s) : o.Declines (s.sendFlits pkg cls pa bytes) := by
  unfold State.sendFlits
  exact .ite hs (.same hs rfl rfl)

/-- A team that was spilled is queued again; it has not ended, and is on no die. -/
theorem State.Declines.relaunch (hs : o.Declines s) : o.Declines (s.relaunch t) := by
  unfold State.relaunch
  extract_lets T base
  split
  · rename_i hT
    have hq : T.Declines { T with state := .queued, classIn := 1, order := s.nextId } := by
      refine ⟨rfl, fun h => ?_, fun h => ?_, fun h => ?_⟩
      · simp [Team.onDie] at h
      · simp [hT] at h
      · simp [hT] at h
    have hbase : o.Declines base := hs.setTeam ((hs.team t).trans hq)
    exact .same hbase rfl rfl
  · exact hs

theorem State.Declines.requeue (hs : o.Declines s) : o.Declines (s.requeue t) := by
  unfold State.requeue
  extract_lets T
  exact .ite hs (.ite hs.relaunch (.foldl hs (fun _ _ h => h.relaunch)))

theorem State.Declines.wakeSpilled (hs : o.Declines s) : o.Declines (s.wakeSpilled line) := by
  unfold State.wakeSpilled
  extract_lets h ts s1
  have h1 : o.Declines s1 := .foldl hs (fun _ _ h => .ite h.sendFlits h.requeue)
  exact .ite h1 h1.modSlice

theorem State.Declines.wakeLost (hs : o.Declines s) : o.Declines (s.wakeLost core line) := by
  unfold State.wakeLost
  refine hs.mapTeams (fun _ T => ?_)
  split
  · exact .same rfl rfl
  · exact .refl T

theorem State.Declines.dropL1 (hs : o.Declines s) : o.Declines (s.dropL1 core line) := by
  unfold State.dropL1 State.dropShare
  extract_lets mon s1
  have h1 : o.Declines s1 := hs.modCore
  exact .ite h1.wakeLost.modSlice h1

theorem State.Declines.freeBypass (hs : o.Declines s) : o.Declines (s.freeBypass line) := by
  unfold State.freeBypass
  extract_lets h
  exact .ite hs.modSlice hs

theorem State.Declines.evictL1 {x : L1Line} (hs : o.Declines s) : o.Declines (s.evictL1 core x) := by
  unfold State.evictL1 State.sliceWriteBack
  exact .ite hs.dropL1.modSlice.wakeSpilled.freeBypass hs.dropL1.freeBypass

theorem State.Declines.cleanCluster {fused : Bool} (hs : o.Declines s) : o.Declines (s.cleanCluster c fused) := by
  unfold State.cleanCluster
  extract_lets s1
  have h1 : o.Declines s1 := .foldl hs (fun _ _ h => .foldl h (fun _ _ h' => h'.evictL1))
  exact h1.modCluster

theorem State.Declines.emptyTlbs (hs : o.Declines s) : o.Declines (s.emptyTlbs c) := by
  unfold State.emptyTlbs
  exact .foldl hs.modCluster (fun _ _ h => h.modCore)

theorem State.Declines.settleCluster (hs : o.Declines s) : o.Declines (s.settleCluster c) := by
  unfold State.settleCluster
  extract_lets C
  exact .ite hs (.ite hs.cleanCluster.emptyTlbs.modCluster (.ite hs.cleanCluster hs))

theorem State.Declines.tryCbar {T : Team} {gone : Option Nat} (hs : o.Declines s) : o.Declines (s.tryCbar c T gone) := by
  unfold State.tryCbar State.setCbar
  extract_lets E ms
  exact .ite (.foldl hs.modCluster (fun _ _ h => h.modTeam (fun _ => .same rfl rfl))) hs

theorem State.Declines.leaveCbar (hs : o.Declines s) : o.Declines (s.leaveCbar t) := by
  unfold State.leaveCbar State.setCbar
  extract_lets T cl E
  exact .ite hs.modCluster.tryCbar hs

/-! ### Copies, places and flushes -/

theorem State.Declines.enterTeam (hs : o.Declines s) : o.Declines (s.enterTeam t core) := by
  unfold State.enterTeam
  refine .foldl hs (fun s' x h => ?_)
  extract_lets c
  have h' : o.Declines (s'.modTeam t (fun T => { T with copies := T.copies.erase x })) := h.modTeam (fun _ => .same rfl rfl)
  exact .ite h'.modCopyQ h

theorem State.Declines.enterCopies (hs : o.Declines s) : o.Declines (s.enterCopies core) := by
  unfold State.enterCopies
  exact .foldl hs (fun _ _ h => .ite h.enterTeam h)

theorem State.Declines.leavePlace {cores : List Nat} (hs : o.Declines s) : o.Declines (s.leavePlace t core cores) := by
  unfold State.leavePlace
  extract_lets s1
  exact .foldl hs.settleCluster (fun _ _ h => h.enterCopies.returnMeter)

theorem State.Declines.countSlots (hs : o.Declines s) : o.Declines (s.countSlots t) := by
  unfold State.countSlots
  extract_lets T n s1
  have h1 : s1.teams = s.teams ∧ s1.ctxs = s.ctxs :=
    List.foldlRecOn (motive := fun u : State => u.teams = s.teams ∧ u.ctxs = s.ctxs) _ _ ⟨rfl, rfl⟩ (fun _ h _ _ => h)
  have h2 : o.Declines (s.setTeam t { T with resFrom := s.time }) := hs.modTeam (f := fun T => { T with resFrom := s.time }) (fun _ => .same rfl rfl)
  exact h2.same (by simp [State.setTeam, h1.1]) h1.2

theorem State.Declines.startFlush {cores : List Nat} (hs : o.Declines s) : o.Declines (s.startFlush c cores) := by
  unfold State.startFlush
  extract_lets f s1 s2
  have h1 : o.Declines s1 := .same hs rfl rfl
  have h2 : o.Declines s2 := .foldl h1 (fun _ _ h => h.modCore)
  refine h2.mapTeams (fun _ T => ?_)
  split
  · exact .same rfl rfl
  · exact .refl T

theorem State.Declines.dropCopies {started : Bool} (hs : o.Declines s) : o.Declines (s.dropCopies t started) := by
  unfold State.dropCopies
  extract_lets base
  have hbase : o.Declines base := hs.modTeam (fun _ => .same rfl rfl)
  exact .same hbase rfl rfl

theorem State.Declines.dropMonitors (hs : o.Declines s) : o.Declines (s.dropMonitors t) := .same hs rfl rfl

theorem State.Declines.dropFaults {tell : Bool} (hs : o.Declines s) : o.Declines (s.dropFaults t tell) := by
  unfold State.dropFaults
  extract_lets mine any s1
  have h1 : o.Declines s1 := .same hs rfl rfl
  exact .ite h1.signal h1

/-! ### Packets -/

theorem State.Declines.watch (hs : o.Declines s) : o.Declines (s.watch c) := by
  unfold State.watch
  refine .ite (hs.modCtx (fun C => ?_)) (hs.modCtx (fun _ => ⟨rfl, rfl⟩))
  split
  · exact ⟨rfl, rfl⟩
  · exact ⟨rfl, rfl⟩

theorem State.Declines.restartWatch (hs : o.Declines s) : o.Declines (s.restartWatch c) := by
  unfold State.restartWatch
  exact .watch (hs.modCtx (fun _ => ⟨rfl, rfl⟩))

theorem State.Declines.completePkt {code detail : Nat} (hs : o.Declines s) : o.Declines (s.completePkt fn ring n code detail) := by
  unfold State.completePkt
  split
  · exact hs
  · extract_lets s1 s2 old s3 s4 v s5
    have h1 : o.Declines s1 := .ite hs.hostPut hs
    have h3 : o.Declines s3 := h1.modPkt.modRing
    have h4 : o.Declines s4 := .ite h3 h3.hostPut
    have h5 : o.Declines s5 := .ite h4.signal h4
    exact .ite hs h5.restartWatch

theorem State.Declines.killPackets (hs : o.Declines s) : o.Declines (s.killPackets c) := by
  unfold State.killPackets
  exact .foldl hs (fun _ _ h => .foldl h (fun _ _ h' => .ite (.foldl h' (fun _ _ h'' => h''.completePkt)) h'))

theorem State.Declines.stopRings {stop : Bool} (hs : o.Declines s) : o.Declines (s.stopRings c stop) := by
  unfold State.stopRings
  extract_lets fn mine
  exact hs.modFunc

/-! ### The end of a team -/

theorem State.Declines.killTeam (hs : o.Declines s) : o.Declines (s.killTeam t) := by
  unfold State.killTeam
  extract_lets T s1 s2
  have h1 : o.Declines s1 := .ite (hs.resolveMisses.modTeam (fun _ => .same rfl rfl)) hs
  have h0 : o.Declines (s1.dropOps t) := .same h1 rfl rfl
  have h2 : o.Declines s2 := .same (h0.dropCopies (t := t) (started := false)).dropFaults rfl rfl
  exact .dropMonitors (h2.modTeam (fun _ => .kill rfl rfl))

theorem State.Declines.freeKilled (hs : o.Declines s) : o.Declines (s.freeKilled t) := by
  unfold State.freeKilled
  extract_lets T s1 s2
  have h1 : o.Declines s1 := .ite hs.countSlots.leaveCbar hs
  have h2 : o.Declines s2 := h1.modTeam (fun _ => .retire rfl rfl)
  exact .ite h2.leavePlace h2

end
end Sys2Proof.Machine
end

section
/-! How kills begin and end (R280, R347), and what becomes of a team of the context that is killed. -/

namespace Sys2Proof.Machine

/-- A fold that does for each element what it does for one of them: `P` holds until then, and `Q` from then on. -/
theorem foldl_of_mem {α σ : Type} {f : σ → α → σ} {P Q : σ → Prop} {a : α} {l : List α} {s : σ} (ha : a ∈ l) (hs : P s)
    (hP : ∀ s x, P s → P (f s x)) (hPQ : ∀ s, P s → Q (f s a)) (hQ : ∀ s x, Q s → Q (f s x)) : Q (l.foldl f s) := by
  induction l generalizing s with
  | nil => cases ha
  | cons x l ih =>
    rcases List.mem_cons.mp ha with rfl | h
    · exact List.foldlRecOn (motive := Q) l f (hPQ s hs) (fun s h x _ => hQ s x h)
    · exact ih h (hP s x hs)

theorem State.Wanes.foldl {α : Type} {f : State → α → State} {l : List α} {o s : State} (hs : o.Wanes s)
    (hf : ∀ s x, State.Wanes s (f s x)) : o.Wanes (l.foldl f s) :=
  List.foldlRecOn (motive := o.Wanes) l f hs (fun s h x _ => h.trans (hf s x))

theorem State.Wanes.modCtx (s : State) {c : Nat} {f : Context → Context} (hf : (f (s.ctx c)).en = (s.ctx c).en) : s.Wanes (s.modCtx c f) := by
  refine ⟨fun _ => .refl _, fun _ => id, fun d => ?_⟩
  by_cases h : d = c
  · rw [h, State.ctx_modCtx, hf]
  · rw [State.ctx_modCtx_ne _ h]

theorem State.mem_liveTeams {s : State} {k c : Nat} (hk : (tfind s.teams k).isSome = true) (hc : (s.team k).ctx = c)
    (hr : (s.team k).state ≠ .retired) : (k, s.team k) ∈ s.liveTeams c := by
  obtain ⟨T, hT⟩ := Option.isSome_iff_exists.mp hk
  have hteam : s.team k = T := by simp [State.team, tget, hT]
  simp only [State.liveTeams, List.mem_filter, hteam]
  refine ⟨mem_of_tfind hT, ?_⟩
  rw [hteam] at hc hr
  simp [hc, hr]

/-! ### What the two ends of a kill do -/

/-- What the end of a kill leaves of its context, and what its beginning does. -/
def Context.killEnded (C : Context) : Context := { C with wdStart := none, wdDefer := false, dying := none, why := .killed }
def Context.killBegun (f : Nat) (why : Notice) (C : Context) : Context := { C with wdStart := none, wdDefer := false, dying := some f, why := why }

theorem State.team_modTeam (s : State) (t : Nat) (f : Team → Team) : (s.modTeam t f).team t = f (s.team t) := by
  rw [State.modTeam, State.team_setTeam]

theorem State.team_dropMonitors (s : State) (t k : Nat) : (s.dropMonitors t).team k = s.team k := rfl

theorem State.team_killTeam (s : State) (t : Nat) : ((s.killTeam t).team t).state = .killed ∨ ((s.killTeam t).team t).state = .retired := by
  unfold State.killTeam
  extract_lets T s1 s2
  rw [State.team_dropMonitors, State.team_modTeam]
  dsimp only
  split
  · exact .inl rfl
  · exact .inr rfl

theorem State.team_freeKilled (s : State) (t : Nat) : ((s.freeKilled t).team t).state = .retired := by
  unfold State.freeKilled
  extract_lets T s1 s2
  have h2 : (s2.team t).state = .retired := by
    unfold s2
    rw [State.team_modTeam]
  split
  · exact ((State.Declines.refl s2).leavePlace.team t).retired h2
  · exact h2

/-- The end of a kill retires the teams of its context, and then its context is dying no more. -/
theorem State.endKill_eq (s : State) (c : Nat) : ∃ u, s.Declines u ∧ (∀ p ∈ s.liveTeams c, (u.team p.1).state = .retired) ∧
    (u.modCtx c Context.killEnded).Declines (s.endKill c) := by
  unfold State.endKill
  extract_lets ts cores s2 s3 s4 s5
  have h2 : s.Declines s2 := .foldl (.refl s) (fun _ _ h => h.freeKilled)
  have hts (p : Nat × Team) (hp : p ∈ ts) : (s2.team p.1).state = .retired :=
    foldl_of_mem (P := fun _ => True) (Q := fun u => (u.team p.1).state = .retired) hp trivial (fun _ _ _ => trivial)
      (fun u _ => u.team_freeKilled p.1) (fun u q h => ((State.Declines.refl u).freeKilled.team p.1).retired h)
  clear_value s2
  have h5 : s2.Declines s5 := by
    refine .foldl (.killPackets (.killPrqs ?_)) (fun _ _ h => h.returnMeter)
    exact .same (.refl s2) rfl rfl
  clear_value s5
  refine ⟨s5, ?_, fun p hp => (h5.team p.1).retired (hts p hp), (State.Declines.refl (s5.modCtx c Context.killEnded)).tellHost⟩
  exact ⟨h2.toWanes.trans h5.toWanes, fun d => (h5.dying d).trans (h2.dying d)⟩

/-- The beginning of a kill stops the teams of its context, which is dying from then on. -/
theorem State.killFor_eq (s : State) (c : Nat) (why : Notice) (h : (s.ctx c).dying = none) : ∃ u, s.Declines u ∧
    (∀ p ∈ s.liveTeams c, (u.team p.1).state = .killed ∨ (u.team p.1).state = .retired) ∧
    s.killFor c why = (u.modCtx c (Context.killBegun s.nextId why)).settleKills := by
  unfold State.killFor
  extract_lets f s0 s1 s2
  rw [if_neg (by simp [h])]
  have h1 : s.Declines s1 := .startFlush (.same (.refl s) rfl rfl)
  have h2 : s.Declines s2 := .foldl h1 (fun _ _ h => h.killTeam)
  refine ⟨s2, h2, fun p hp => ?_, rfl⟩
  refine foldl_of_mem (P := fun _ => True) (Q := fun u : State => (u.team p.1).state = .killed ∨ (u.team p.1).state = .retired) hp trivial
    (fun _ _ _ => trivial) (fun u _ => u.team_killTeam p.1) (fun u q h => ?_)
  have hk := (State.Declines.refl u).killTeam (t := q.1)
  rcases h with h | h
  · exact (hk.team p.1).killed h
  · exact .inr ((hk.team p.1).retired h)

theorem State.killFor_dying {s : State} {c : Nat} {why : Notice} (h : (s.ctx c).dying ≠ none) : s.killFor c why = s := by
  unfold State.killFor
  exact if_pos (Option.isSome_iff_ne_none.mpr h)

/-! ### What kills keep -/

theorem State.wanes_endKill (s : State) (c : Nat) : s.Wanes (s.endKill c) := by
  obtain ⟨u, hu, -, he⟩ := s.endKill_eq c
  exact (hu.toWanes.trans (.modCtx u rfl)).trans he.toWanes

theorem State.wanes_settleKills (s : State) : s.Wanes s.settleKills := by
  unfold State.settleKills
  refine .foldl (.refl s) (fun s q => ?_)
  split
  · split
    · exact s.wanes_endKill q.1
    · exact .refl s
  · exact .refl s

theorem State.wanes_killFor (s : State) (c : Nat) (why : Notice) : s.Wanes (s.killFor c why) := by
  by_cases h : (s.ctx c).dying = none
  · obtain ⟨u, hu, -, he⟩ := s.killFor_eq c why h
    rw [he]
    exact (hu.toWanes.trans (.modCtx u rfl)).trans (State.wanes_settleKills _)
  · rw [State.killFor_dying h]
    exact .refl s

theorem State.dying_endKill (s : State) (c d : Nat) :
    ((s.endKill c).ctx d).dying = if d = c then none else (s.ctx d).dying := by
  obtain ⟨u, hu, -, he⟩ := s.endKill_eq c
  rw [he.dying d]
  split
  · rename_i h
    rw [h, State.ctx_modCtx]
    rfl
  · rename_i h
    rw [State.ctx_modCtx_ne _ h]
    exact hu.dying d

/-- A property that the end of every kill keeps. -/
theorem State.settleKills_induction {P : State → Prop} {s : State} (hs : P s) (h : ∀ s c, P s → P (s.endKill c)) : P s.settleKills := by
  unfold State.settleKills
  refine List.foldlRecOn (motive := P) _ _ hs (fun s hs q _ => ?_)
  split
  · split
    · exact h s q.1 hs
    · exact hs
  · exact hs

/-- A kill of one context begins no other's. -/
theorem State.dying_killFor_ne {s : State} {c d : Nat} {why : Notice} (h : d ≠ c) (hd : (s.ctx d).dying = none) :
    ((s.killFor c why).ctx d).dying = none := by
  by_cases hc : (s.ctx c).dying = none
  · obtain ⟨u, hu, -, he⟩ := s.killFor_eq c why hc
    rw [he]
    refine State.settleKills_induction (P := fun u => (u.ctx d).dying = none) ?_ (fun u q hu => ?_)
    · rw [State.ctx_modCtx_ne _ h, hu.dying, hd]
    · rw [State.dying_endKill, hu, ite_self]
  · rw [State.killFor_dying hc]
    exact hd

/-! ### A team whose context is killed -/

/-- R280: a team of a context has retired, or keeps its place on a die until the kill of the context ends. -/
structure State.Ended (s : State) (k c : Nat) : Prop where
  mem : (tfind s.teams k).isSome = true
  ctx : (s.team k).ctx = c
  state : (s.team k).state = .retired ∨ (s.team k).state = .killed ∧ (s.ctx c).dying.isSome = true

theorem State.Ended.declines {s t : State} {k c : Nat} (h : s.Ended k c) (ht : s.Declines t) : t.Ended k c := by
  refine ⟨ht.kept k h.mem, (ht.team k).ctx.trans h.ctx, ?_⟩
  rcases h.state with hr | ⟨hk, hd⟩
  · exact .inl ((ht.team k).retired hr)
  · rw [ht.dying c]
    exact ((ht.team k).killed hk).symm.imp_right (fun hk => ⟨hk, hd⟩)

theorem State.Ended.modCtx {s : State} {k c d : Nat} {f : Context → Context} (h : s.Ended k c)
    (hd : d = c → (f (s.ctx c)).dying.isSome = true ∨ (s.team k).state = .retired) : (s.modCtx d f).Ended k c := by
  refine ⟨h.mem, h.ctx, ?_⟩
  show (s.team k).state = .retired ∨ (s.team k).state = .killed ∧ _
  by_cases hdc : d = c
  · subst hdc
    rw [State.ctx_modCtx]
    rcases hd rfl with hf | hr
    · exact h.state.imp_right (fun hk => ⟨hk.1, hf⟩)
    · exact .inl hr
  · rw [State.ctx_modCtx_ne _ (Ne.symm hdc)]
    exact h.state

theorem State.Ended.endKill {s : State} {k c : Nat} (h : s.Ended k c) (d : Nat) : (s.endKill d).Ended k c := by
  obtain ⟨u, hu, hl, he⟩ := s.endKill_eq d
  refine .declines (.modCtx (h.declines hu) (fun hdc => .inr ?_)) he
  by_cases hr : (s.team k).state = .retired
  · exact (hu.team k).retired hr
  · exact hl _ (State.mem_liveTeams h.mem (h.ctx.trans hdc.symm) hr)

theorem State.Ended.settleKills {s : State} {k c : Nat} (h : s.Ended k c) : s.settleKills.Ended k c :=
  State.settleKills_induction (P := fun s => s.Ended k c) h (fun _ d h => h.endKill d)

theorem State.Ended.killFor {s : State} {k c : Nat} (h : s.Ended k c) (d : Nat) (why : Notice) : (s.killFor d why).Ended k c := by
  by_cases hd : (s.ctx d).dying = none
  · obtain ⟨u, hu, -, he⟩ := s.killFor_eq d why hd
    rw [he]
    exact .settleKills (.modCtx (h.declines hu) (fun _ => .inl rfl))
  · rw [State.killFor_dying hd]
    exact h

/-- The kill of a context that was not dying ends its teams. -/
theorem State.ended_killFor {s : State} {k c : Nat} {why : Notice} (hd : (s.ctx c).dying = none)
    (hk : (tfind s.teams k).isSome = true) (hc : (s.team k).ctx = c) : (s.killFor c why).Ended k c := by
  obtain ⟨u, hu, hl, he⟩ := s.killFor_eq c why hd
  rw [he]
  refine .settleKills ⟨hu.kept k hk, (hu.team k).ctx.trans hc, ?_⟩
  show (u.team k).state = .retired ∨ (u.team k).state = .killed ∧ _
  rw [State.ctx_modCtx]
  by_cases hr : (s.team k).state = .retired
  · exact .inl ((hu.team k).retired hr)
  · exact (hl _ (State.mem_liveTeams hk hc hr)).symm.imp_right (fun h => ⟨h, rfl⟩)

/-- What an ended team shows: it has retired, or it was on a die and is killed, and its context is dying. -/
theorem State.Ended.of_wanes {o s : State} {k c : Nat} (h : s.Ended k c) (hw : o.Wanes s) :
    (s.team k).state = .retired ∨ (o.team k).onDie = true ∧ (s.team k).state = .killed ∧ (s.ctx c).dying.isSome = true := by
  refine h.state.imp_right (fun ⟨hk, hd⟩ => ⟨(hw.team k).onDie ?_, hk, hd⟩)
  simp [Team.onDie, hk]

end Sys2Proof.Machine
end

section
/-! What starts and resets leave as it was (R19, R482, R492 to R496). -/

namespace Sys2Proof.Machine

/-! ### Messages, records and ports -/

theorem State.signal_eq (s : State) (fn vec : Nat) : ∃ F M, s.signal fn vec = { s with funcs := F, msgs := M } := by
  unfold State.signal
  split
  · exact ⟨s.funcs, _, rfl⟩
  · exact ⟨_, s.msgs, rfl⟩

theorem State.hostPuts_eq {α : Type} (s : State) (l : List α) (fn : Nat) (a : α → Nat) (b : α → List Byte) :
    ∃ H, l.foldl (fun s q => State.hostPut s fn (a q) (b q)) s = { s with host := H } := by
  induction l generalizing s with
  | nil => exact ⟨s.host, rfl⟩
  | cons q l ih =>
    obtain ⟨H, hH⟩ := ih (s.hostPut fn (a q) (b q))
    exact ⟨H, hH⟩

theorem State.ringOut_eq (s : State) (fn size : Nat) (R : RecRing) (n : Nat) : ∃ H, (s.ringOut fn size R n).1 = { s with host := H } := by
  unfold State.ringOut
  split
  · exact s.hostPuts_eq _ fn _ _
  · exact ⟨s.host, rfl⟩

theorem State.flushMtr_eq (s : State) (fn : Nat) : ∃ F H M, s.flushMtr fn = { s with funcs := F, host := H, msgs := M } := by
  unfold State.flushMtr
  extract_lets R
  obtain ⟨H, hH⟩ := s.ringOut_eq fn 1536 R (R.room s.time 0 R.waiting)
  split
  · rename_i s1 R' heq
    rw [heq] at hH
    obtain ⟨F, M, h⟩ := (s1.modFunc fn (fun F => { F with mtr := R' })).signal_eq fn 2
    dsimp only at hH
    rw [h, hH]
    exact ⟨F, H, M, rfl⟩
  · exact ⟨s.funcs, s.host, s.msgs, rfl⟩

theorem State.putMtr_eq (s : State) (fn : Nat) (recs : List (List Byte)) :
    ∃ F H M, s.putMtr fn recs = { s with funcs := F, host := H, msgs := M } := by
  unfold State.putMtr
  obtain ⟨F, H, M, h⟩ := (s.modFunc fn (fun F => { F with mtr := { F.mtr with waiting := F.mtr.waiting ++ recs } })).flushMtr_eq fn
  rw [h]
  exact ⟨F, H, M, rfl⟩

theorem State.setPortState_eq (s : State) (p st : Nat) : ∃ P F M, s.setPortState p st = { s with ports := P, funcs := F, msgs := M } := by
  unfold State.setPortState
  split
  · exact ⟨s.ports, s.funcs, s.msgs, rfl⟩
  · obtain ⟨F, M, h⟩ := State.signal_eq { s with ports := tput s.ports p { s.port p with state := st } } 0 1
    rw [h]
    exact ⟨_, F, M, rfl⟩

theorem State.trainPorts_eq (s : State) : ∃ P F M, s.trainPorts = { s with ports := P, funcs := F, msgs := M } := by
  unfold State.trainPorts
  refine List.foldlRecOn (motive := fun u : State => ∃ P F M, u = { s with ports := P, funcs := F, msgs := M }) _ _
    ⟨s.ports, s.funcs, s.msgs, rfl⟩ (fun u hu p _ => ?_)
  obtain ⟨P, F, M, rfl⟩ := hu
  split
  · unfold State.raisePort
    extract_lets Q
    exact State.setPortState_eq _ p _
  · exact ⟨P, F, M, rfl⟩

theorem State.countVolts_eq (s : State) : ∃ Q, s.countVolts = { s with quarters := Q } := by
  unfold State.countVolts
  refine List.foldlRecOn (motive := fun u : State => ∃ Q, u = { s with quarters := Q }) _ _ ⟨s.quarters, rfl⟩ (fun u hu q _ => ?_)
  obtain ⟨Q, rfl⟩ := hu
  exact ⟨_, rfl⟩

/-! ### Starts -/

theorem State.scrubDone_eq (s : State) (scope : Option Nat) (tenant : W64) (t0 : Nat) :
    ∃ F H M n, s.scrubDone scope tenant t0 = { s with funcs := F, host := H, msgs := M, scrubSeq := n } := by
  unfold State.scrubDone
  extract_lets ext head
  obtain ⟨F, H, M, h⟩ := State.putMtr_eq { s with scrubSeq := s.scrubSeq + 1 } 0 [Config.scrubRecord head]
  rw [h]
  exact ⟨F, H, M, _, rfl⟩

/-- R492 steps 5 to 7, R494: BOOTSTAT is written, and a failure from step 2 on is told on the management port. -/
theorem State.endStart_eq (s : State) (scrub : Bool) (f : Nat) (boot : W64) : ∃ F H M n C, s.endStart scrub f boot =
    { s with bootstat := boot, cmdCores := C, funcs := F, host := H, msgs := M, scrubSeq := n,
             answers := if f = 0 ∨ f = 1 then s.answers else s.answers ++ [.startFailed f] } := by
  unfold State.endStart
  extract_lets s1 s2
  have h2 : ∃ F H M n, s2 = { s1 with funcs := F, host := H, msgs := M, scrubSeq := n } := by
    unfold s2
    split
    · exact s1.scrubDone_eq none s1.pkgTenant s1.time
    · exact ⟨s1.funcs, s1.host, s1.msgs, s1.scrubSeq, rfl⟩
  clear_value s2
  obtain ⟨F, H, M, n, rfl⟩ := h2
  split
  · rename_i h0
    obtain ⟨F', M', h⟩ := State.signal_eq { s1 with funcs := F, host := H, msgs := M, scrubSeq := n } 0 2
    rw [h, if_pos (.inl h0)]
    exact ⟨F', H, M', n, _, rfl⟩
  · rename_i h0
    split
    · rename_i h1
      rw [if_pos (.inr h1)]
      exact ⟨F, H, M, n, _, rfl⟩
    · rename_i h1
      rw [if_neg (by simp [h0, h1])]
      exact ⟨F, H, M, n, _, rfl⟩

/-- R493: the fields of BOOTSTAT after a start. -/
theorem bootWord_fields {f : Nat} (hf : f ≤ 7) (b w : Bool) : (bootWord b w f).getLsbD 0 = decide (f = 0) ∧
    (bootWord b w f).getLsbD 1 = decide (f = 1) ∧ ((bootWord b w f).extractLsb' 32 4).toNat = f := by
  have h : ∀ f < 8, ∀ b w : Bool, (bootWord b w f).getLsbD 0 = decide (f = 0) ∧
    (bootWord b w f).getLsbD 1 = decide (f = 1) ∧ ((bootWord b w f).extractLsb' 32 4).toNat = f := by decide
  exact h f (by omega) b w

/-! ### The step at which a start fails (R492) -/

theorem State.failAt_false (s : State) (n : Nat) : s.failAt false n = 1 := rfl

theorem State.failAt_told (s : State) {n : Nat} (h : 2 ≤ n) (h' : n ≤ 5) : s.failAt true n = n := by
  simp [State.failAt, h, h']

theorem State.failAt_golden {s : State} {n : Nat} (h : ¬(2 ≤ n ∧ n ≤ 5)) (hg : ∀ c < 8, s.goldenOk c = true) :
    s.failAt true n = if n = 7 then 7 else 0 := by
  have hall : (upto 8).all s.goldenOk = true := by simpa [upto] using hg
  simp only [State.failAt, hall]
  rw [if_neg (by simp), if_neg h, if_neg (by simp)]

theorem State.failAt_not_golden {s : State} {c : Nat} (hc : c < 8) (hg : s.goldenOk c = false) : s.failAt true 0 = 6 := by
  have hall : (upto 8).all s.goldenOk = false := by
    simp only [upto, List.all_eq_false, List.mem_range]
    exact ⟨c, hc, by simp [hg]⟩
  simp [State.failAt, hall]

theorem State.failAt_le (s : State) (b : Bool) (n : Nat) : s.failAt b n ≤ 7 := by
  unfold State.failAt
  repeat' split
  all_goals omega

theorem State.failAt_true_ne_one (s : State) (n : Nat) : s.failAt true n ≠ 1 := by
  unfold State.failAt
  rw [if_neg (by simp)]
  repeat' split
  all_goals omega

/-- R492: what a cold start makes of a state, where `f` is the step at which it fails, or 0. -/
structure State.ColdStart (s : State) (f : Nat) (copyB : Bool) (img : List Byte) (t : State) : Prop where
  bootstat : t.bootstat = bootWord copyB false f
  running : t.running = img
  answers : t.answers = if f = 0 ∨ f = 1 then s.answers else s.answers ++ [.startFailed f]
  mem : t.mem = if f = 0 ∨ 6 ≤ f then [] else s.mem
  poison : t.poison = if f = 0 ∨ 6 ≤ f then [] else s.poison
  teams : t.teams = []
  cores : t.cores = []
  time : t.time = 0
  agtSeq : t.agtSeq = s.agtSeq
  retiredCh : t.retiredCh = s.retiredCh
  withdrawn : t.withdrawn = s.withdrawn
  fwCopies : t.fwCopies = s.fwCopies

theorem reaches_iff (f k : Nat) : reaches f k = true ↔ f = 0 ∨ k ≤ f := by
  simp [reaches]

theorem State.coldStart_coldFrom (s : State) (img : Option (List Byte)) (copyB : Bool) (told : Nat) :
    s.ColdStart (s.failAt img.isSome told) copyB (img.getD []) (s.coldFrom img copyB told) := by
  unfold State.coldFrom
  extract_lets f done fresh
  obtain ⟨F, H, M, n, C, h⟩ := State.endStart_eq (s.keepOutside { fresh with
    funcs := [], running := img.getD [], powered := reaches f 3, mem := if done then [] else s.mem, poison := if done then [] else s.poison,
    leaseKeys := if done then [] else s.leaseKeys, extTenant := if done then [] else s.extTenant }) true f (bootWord copyB false f)
  rw [h]
  refine ⟨rfl, rfl, rfl, ?_, ?_, rfl, rfl, rfl, rfl, rfl, rfl, rfl⟩
  · exact if_congr (reaches_iff f 6) rfl rfl
  · exact if_congr (reaches_iff f 6) rfl rfl

theorem State.coldStart_startCold (s : State) (n : Nat) : ∃ img,
    s.ColdStart (s.failAt s.bootCopy.isSome n) (s.bootCopy == some 1) img (s.startCold n) := by
  have h := s.coldStart_coldFrom (s.bootCopy.map (fun k => s.fwCopies.getD k [])) (s.bootCopy == some 1) n
  rw [Option.isSome_map] at h
  exact ⟨_, h⟩

/-- R492: what a warm start from a copy that verifies, with golden images that verify, makes of a state. -/
structure State.WarmStart (s : State) (kept : Bool) (t : State) : Prop where
  ready : t.ready = true
  mem : t.mem = if kept then s.mem else []
  parts : t.parts = s.parts.map (fun p => (p.1, p.2.afterWarm))
  teams : t.teams = []
  cores : t.cores = []
  time : t.time = s.time
  agtSeq : t.agtSeq = s.agtSeq
  fabRoute : t.fabRoute = s.fabRoute
  pkgid : t.pkgid = s.pkgid

theorem State.warmStart_startWarm {s : State} (hb : s.bootCopy.isSome = true) (hg : ∀ c < 8, s.goldenOk c = true) (kept : Bool) :
    s.WarmStart kept (s.startWarm 0 kept) := by
  unfold State.startWarm
  obtain ⟨Q, hQ⟩ := s.countVolts_eq
  rw [hQ]
  extract_lets u copy f held fresh r
  have hf : f = 0 := by
    have hcopy : copy.isSome = true := hb
    have hgu : ∀ c < 8, u.goldenOk c = true := hg
    unfold f
    rw [hcopy, State.failAt_golden (by omega) hgu]
    rfl
  have hheld : held = kept := by
    simp [held, hf, reaches]
  have hr : ∃ P F M, (if reaches f 5 = true then r.trainPorts else r) = { r with ports := P, funcs := F, msgs := M } := by
    split
    · exact r.trainPorts_eq
    · exact ⟨r.ports, r.funcs, r.msgs, rfl⟩
  obtain ⟨P, F, M, hr⟩ := hr
  obtain ⟨F', H, M', n, C, h⟩ := State.endStart_eq { r with ports := P, funcs := F, msgs := M } (!kept) f (bootWord (copy == some 1) true f)
  rw [hr, h]
  refine ⟨?_, ?_, rfl, rfl, rfl, rfl, rfl, rfl, rfl⟩
  · show (bootWord (copy == some 1) true f).getLsbD 0 = true
    rw [hf, (bootWord_fields (by omega) _ _).1]
    rfl
  · show (if held = true then s.mem else []) = _
    rw [hheld]

end Sys2Proof.Machine
end

section
/-! Function-level resets (R19, R482, R483; notes/assumptions/16.md), and the starts. -/

namespace Sys2Proof.Machine

/-! ### The kills of a reset -/

/-- A team of a context whose kill is still to begin, or has. -/
structure State.Doomed (s : State) (k c : Nat) : Prop where
  mem : (tfind s.teams k).isSome = true
  ctx : (s.team k).ctx = c
  kill : (s.ctx c).dying = none ∨ s.Ended k c

theorem State.Doomed.ended {s : State} {k c : Nat} (h : s.Doomed k c) (why : Notice) : (s.killFor c why).Ended k c := by
  rcases h.kill with hd | he
  · exact State.ended_killFor hd h.mem h.ctx
  · exact he.killFor c why

theorem State.Doomed.killFor {s : State} {k c : Nat} (h : s.Doomed k c) (d : Nat) (why : Notice) : (s.killFor d why).Doomed k c := by
  have hw := s.wanes_killFor d why
  refine ⟨hw.kept k h.mem, (hw.team k).ctx.trans h.ctx, ?_⟩
  by_cases hdc : d = c
  · subst hdc
    exact .inr (h.ended why)
  · exact h.kill.imp (State.dying_killFor_ne (Ne.symm hdc)) (fun he => he.killFor d why)

theorem State.mem_liveCtxs {s : State} {c : Nat} (h : (s.ctx c).en = true) : c ∈ s.liveCtxs := by
  unfold State.ctx tget at h
  cases hc : tfind s.ctxs c with
  | none => simp [hc] at h
  | some C =>
    rw [hc] at h
    refine List.mem_map.mpr ⟨(c, C), List.mem_filter.mpr ⟨mem_of_tfind hc, ?_⟩, rfl⟩
    rw [Option.getD_some] at h
    simp [h]

theorem State.team_of_tfind {s : State} {k : Nat} {T : Team} (h : tfind s.teams k = some T) : s.team k = T := by
  simp [State.team, tget, h]

theorem State.wanes_beginReset (s : State) (p : Nat) : s.Wanes (s.beginReset p) := by
  unfold State.beginReset
  extract_lets s1
  exact .foldl (State.Declines.refl s).modFunc.toWanes (fun s c => s.wanes_killFor c .functionReset)

/-- R482 step 1: the teams of the function's partition end. -/
theorem State.ended_beginReset {s : State} {p k : Nat} {T : Team} (hk : tfind s.teams k = some T) (hp : s.partOf T.ctx = p)
    (hen : (s.ctx T.ctx).en = true) (hd : (s.ctx T.ctx).dying = none) : (s.beginReset p).Ended k T.ctx := by
  unfold State.beginReset
  extract_lets s1
  have hlive : T.ctx ∈ s1.liveCtxs.filter (fun c => decide (s.partOf c = p)) := by
    refine List.mem_filter.mpr ⟨State.mem_liveCtxs hen, ?_⟩
    exact decide_eq_true hp
  refine foldl_of_mem (P := fun u : State => u.Doomed k T.ctx) (Q := fun u : State => u.Ended k T.ctx) hlive ⟨?_, ?_, .inl hd⟩
    (fun u c h => h.killFor c _) (fun u h => h.ended _) (fun u c h => h.killFor c _)
  · exact Option.isSome_iff_exists.mpr ⟨T, hk⟩
  · exact congrArg Team.ctx (State.team_of_tfind hk)

/-! ### The two phases of a reset of a partition's function -/

theorem resetParts_of_pos {fn : Nat} (h : 1 ≤ fn) : resetParts fn = [partOfFn fn] := by
  simp [resetParts, Nat.ne_of_gt h]

theorem fnOfPart_partOfFn {fn : Nat} (h : 1 ≤ fn) : fnOfPart (partOfFn fn) = fn := by
  simp only [fnOfPart, partOfFn]
  omega

section
variable {s : State} {fn : Nat} (h1 : 1 ≤ fn) (h16 : fn ≤ 16)
include h1 h16

/-- R482 step 1: a reset begins. -/
theorem exec_functionLevelReset_begins (hflr : (s.func fn).flr = false) : exec (.functionLevelReset fn) s =
    .next ((s.beginReset (partOfFn fn)).modFunc fn (fun F => { F with usable := false, flr := true, msixPend := 0 })) := by
  show execFunctionLevelReset fn s = _
  unfold execFunctionLevelReset
  rw [if_neg (by omega), if_pos (by simp [hflr]), resetParts_of_pos h1]
  rfl

theorem exec_functionLevelReset_waits (hflr : (s.func fn).flr = true) (hd : s.delivered (partOfFn fn) = false) :
    exec (.functionLevelReset fn) s = .next s := by
  show execFunctionLevelReset fn s = _
  unfold execFunctionLevelReset
  rw [if_neg (by omega), if_neg (by simp [hflr]), resetParts_of_pos h1, if_neg (by simp [hd])]

/-- R482 steps 2 and 3: a reset ends. -/
theorem exec_functionLevelReset_ends (hflr : (s.func fn).flr = true) (hd : s.delivered (partOfFn fn) = true) :
    exec (.functionLevelReset fn) s = .next (s.endReset (partOfFn fn)) := by
  show execFunctionLevelReset fn s = _
  unfold execFunctionLevelReset
  rw [if_neg (by omega), if_neg (by simp [hflr]), resetParts_of_pos h1, if_pos (by simp [hd])]
  dsimp only
  rw [if_neg (by omega)]
  rfl

end

theorem State.func_endReset {s : State} {p : Nat} (hs : s.scrubs = []) :
    (s.endReset p).func (fnOfPart p) = { (s.func (fnOfPart p)).afterReset s.time with usable := true } := by
  unfold State.endReset
  extract_lets fn s1 s2
  show s1.func (fnOfPart p) = _
  unfold s1
  rw [State.func_modFunc, hs]
  rfl

theorem State.part_endReset (s : State) (p : Nat) : (s.endReset p).part p = (s.part p).afterReset := by
  unfold State.endReset
  extract_lets fn s1 s2
  show s2.part p = _
  unfold s2
  rw [State.part_modPart]
  rfl

/-! ### The obligation -/

theorem coldStart_clears (s : State) (hb : s.bootCopy.isSome = true) (hg : ∀ c < 8, s.goldenOk c = true) :
    ∃ t, exec (.coldStart 0) s = .next t ∧ t.mem = [] ∧ t.poison = [] ∧ t.teams = [] ∧ t.cores = [] ∧ t.ready = true ∧ t.time = 0 ∧
    t.agtSeq = s.agtSeq ∧ t.retiredCh = s.retiredCh ∧ t.withdrawn = s.withdrawn ∧ t.fwCopies = s.fwCopies := by
  obtain ⟨img, h⟩ := s.coldStart_startCold 0
  rw [hb, State.failAt_golden (by omega) hg, if_neg (by omega)] at h
  refine ⟨_, rfl, ?_, ?_, h.teams, h.cores, ?_, h.time, h.agtSeq, h.retiredCh, h.withdrawn, h.fwCopies⟩
  · rw [h.mem]
    rfl
  · rw [h.poison]
    rfl
  · rw [State.ready, h.bootstat, (bootWord_fields (by omega) _ _).1]
    rfl

theorem warmStart_keeps (s : State) (kept : Bool) (hp : s.powered = true) (hs : s.scrubs = []) (hb : s.bootCopy.isSome = true)
    (hg : ∀ c < 8, s.goldenOk c = true) : ∃ t, exec (.warmStart 0 kept) s = .next t ∧ t.teams = [] ∧ t.cores = [] ∧
    t.ready = true ∧ t.time = s.time ∧ t.agtSeq = s.agtSeq ∧ t.fabRoute = s.fabRoute ∧ t.pkgid = s.pkgid ∧
    t.mem = (if kept then s.mem else []) ∧ ∀ p, (t.part p).cfg = (s.part p).cfg ∧ (t.part p).tenant = (s.part p).tenant := by
  have h := State.warmStart_startWarm hb hg kept
  have he : exec (.warmStart 0 kept) s = .next (s.startWarm 0 kept) := by
    show execWarmStart 0 kept s = _
    simp [execWarmStart, hp, hs]
  refine ⟨_, he, h.teams, h.cores, h.ready, h.time, h.agtSeq, h.fabRoute, h.pkgid, h.mem, fun p => ?_⟩
  have hpart : (s.startWarm 0 kept).part p = (s.part p).afterWarm := by
    rw [State.part, h.parts]
    exact tget_map (d := {}) (e := {}) (fun _ P => P.afterWarm) s.parts p rfl
  rw [hpart]
  exact ⟨rfl, rfl⟩

theorem warmStart_waits (s : State) (n : Nat) (kept : Bool) (hp : s.powered = true) (hs : s.scrubs ≠ []) :
    exec (.warmStart n kept) s = .next { s with startWaits := some (.warm n kept) } := by
  show execWarmStart n kept s = _
  simp [execWarmStart, hp, hs]

theorem trivetAgturImage_starts (s : State) (img : List Byte) (hb : s.bootstat.getLsbD 1 = true) :
    (s.agturImage img = true → ∃ t, exec (.trivetAgturImage img) s = .next t ∧ t.running = img ∧ t.bootstat.getLsbD 1 = false ∧
      t.teams = [] ∧ t.fwCopies = s.fwCopies) ∧
    (s.agturImage img = false → exec (.trivetAgturImage img) s = .next s) := by
  refine ⟨fun hi => ?_, fun hi => ?_⟩
  · have h := s.coldStart_coldFrom (some img) false (Config.startFails s.time % 8)
    have he : exec (.trivetAgturImage img) s = .next (s.coldFrom (some img) false (Config.startFails s.time % 8)) :=
      if_pos (by rw [hb, hi]; rfl)
    refine ⟨_, he, h.running, ?_, h.teams, h.fwCopies⟩
    rw [h.bootstat, (bootWord_fields (s.failAt_le _ _) _ _).2.1]
    exact decide_eq_false (s.failAt_true_ne_one _)
  · exact if_neg (by simp [hi])

theorem coldStart_tells (s : State) (n : Nat) : ∃ t, exec (.coldStart n) s = .next t ∧
    (let f := s.failAt s.bootCopy.isSome n
     t.ready = decide (f = 0) ∧ (t.bootstat.extractLsb' 32 4).toNat = f ∧ t.bootstat.getLsbD 1 = decide (f = 1) ∧
     t.answers = (if f = 0 ∨ f = 1 then s.answers else s.answers ++ [.startFailed f]) ∧ t.mem = (if f = 0 ∨ 6 ≤ f then [] else s.mem)) := by
  obtain ⟨img, h⟩ := s.coldStart_startCold n
  obtain ⟨hready, hrecov, hstep⟩ := bootWord_fields (s.failAt_le s.bootCopy.isSome n) (s.bootCopy == some 1) false
  rw [← h.bootstat] at hready hrecov hstep
  exact ⟨_, rfl, hready, hstep, hrecov, h.answers, h.mem⟩

theorem functionLevelReset_acts (s : State) (fn : Nat) (h1 : 1 ≤ fn) (h16 : fn ≤ 16) :
    ((s.func fn).flr = false → ∃ t, exec (.functionLevelReset fn) s = .next t ∧ (t.func fn).usable = false ∧ (t.func fn).flr = true ∧
      ∀ k T, tfind s.teams k = some T → s.partOf T.ctx = partOfFn fn → (s.ctx T.ctx).en = true → (s.ctx T.ctx).dying = none →
        (t.team k).state = .retired ∨ (T.onDie = true ∧ (t.team k).state = .killed ∧ (t.ctx T.ctx).dying.isSome = true)) ∧
    ((s.func fn).flr = true → s.delivered (partOfFn fn) = false → exec (.functionLevelReset fn) s = .next s) ∧
    ((s.func fn).flr = true → s.delivered (partOfFn fn) = true → s.scrubs = [] → ∃ t, exec (.functionLevelReset fn) s = .next t ∧
      (t.func fn).usable = true ∧ (t.func fn).flr = false ∧ (t.func fn).rings = [] ∧ (t.func fn).flrDrop = (s.func fn).flrDrop ∧
      (t.part (partOfFn fn)).shandler = 0 ∧ (t.part (partOfFn fn)).cfg = (s.part (partOfFn fn)).cfg ∧ t.mem = s.mem) := by
  refine ⟨fun hflr => ?_, exec_functionLevelReset_waits h1 h16, fun hflr hd hs => ?_⟩
  · refine ⟨_, exec_functionLevelReset_begins h1 h16 hflr, ?_, ?_, fun k T hk hp hen hdy => ?_⟩
    · rw [State.func_modFunc]
    · rw [State.func_modFunc]
    · have hT := State.team_of_tfind hk
      have h := (State.ended_beginReset hk hp hen hdy).of_wanes (s.wanes_beginReset _)
      rw [hT] at h
      exact h
  · refine ⟨_, exec_functionLevelReset_ends h1 h16 hflr hd, ?_⟩
    have hf := State.func_endReset (p := partOfFn fn) hs
    rw [fnOfPart_partOfFn h1] at hf
    rw [hf, State.part_endReset]
    exact ⟨rfl, rfl, rfl, rfl, rfl, rfl, rfl⟩

/-- Settles O59. That a reset has two phases, its kills and its end once the accumulates are delivered, is the model's choice
(notes/assumptions/16.md), and so is that a start which fails before its scrub keeps what memory held (notes/assumptions/63.md). -/
theorem startsAndResetsClear : Obligations.StartsAndResetsClear := by
  unfold Obligations.StartsAndResetsClear
  refine ⟨coldStart_clears, warmStart_keeps, warmStart_waits, trivetAgturImage_starts, fun s n _ => coldStart_tells s n, fun s n => ?_,
    functionLevelReset_acts⟩
  refine ⟨s.failAt_false n, s.failAt_told, fun c hc hg => State.failAt_not_golden hc hg, fun hg => ⟨?_, ?_⟩⟩
  · rw [State.failAt_golden (by omega) hg, if_pos rfl]
  · rw [State.failAt_golden (by omega) hg, if_neg (by omega)]

end Sys2Proof.Machine
end

section
/-! Contexts, images, mailboxes and registers of the host interface (R18, R435, R449, R452, R469 to R471, R483, R485, R486, R490). -/

namespace Sys2Proof.Machine

/-! ### Pages and command cores (R470, R484) -/

theorem State.func_modFunc_ne (s : State) {f j : Nat} (h : j ≠ f) (g : Func → Func) : (s.modFunc f g).func j = s.func j := by
  simp [State.func, State.modFunc, tget_tput_ne _ _ h]

theorem State.ring_modRing (s : State) (fn r : Nat) (f : Ring → Ring) : (s.modRing fn r f).ring fn r = f (s.ring fn r) := by
  rw [State.ring, State.modRing, State.func_modFunc, tget_tput_same]
  rfl

theorem State.onCore_acts {s : State} {c : Nat} (hh : (s.cmdCore c).held = false) (hg : (s.cmdCore c).golden = true) (body : State → Out) :
    s.onCore c body = body s := by
  simp [State.onCore, hh, hg]

theorem State.pageWrite_usable {s : State} {fn : Nat} (h16 : fn ≤ 16) (hu : (s.func fn).usable = true) (body : State → Out) :
    s.pageWrite fn body = body s := by
  rw [State.pageWrite, if_neg (by omega), if_pos hu]

/-- R483: a page of a function that is being reset takes no write. -/
theorem State.pageWrite_dropped {s : State} {fn : Nat} (h16 : fn ≤ 16) (hu : (s.func fn).usable = false) (body : State → Out) :
    s.pageWrite fn body = .next (s.dropWrite fn) := by
  rw [State.pageWrite, if_neg (by omega), if_neg (by simp [hu])]

/-! ### Contexts (R449, R452, R471) -/

theorem State.ctx_stopRings (s : State) (c k : Nat) (stop : Bool) : (s.stopRings c stop).ctx k = s.ctx k := rfl

/-- R471: a write of EN, where command core 2 serves it. -/
theorem State.enWrite_acts {s : State} {c : Nat} (hh : (s.cmdCore 2).held = false) (hg : (s.cmdCore 2).golden = true) (hc : s.ctxOk c = true)
    (body : State → State) : s.enWrite c body = .next (body s) := by
  simp only [State.ctxOk, Bool.and_eq_true, decide_eq_true_eq] at hc
  obtain ⟨hp, hu⟩ := hc
  have hfn : fnOfPart (s.partOf c) ≤ 16 := by
    unfold fnOfPart
    omega
  rw [State.enWrite, if_pos hp, State.pageWrite_usable hfn hu, State.onCore_acts hh hg]

theorem State.ctx_enableCtx {s : State} {c : Nat} (hen : (s.ctx c).en = false) (hd : (s.ctx c).dying = none) :
    ((s.enableCtx c).ctx c).en = true ∧ ((s.enableCtx c).ctx c).level = 0 ∧ ((s.enableCtx c).ctx c).consumed = 0 ∧
    ∀ k, k ≠ c → (s.enableCtx c).ctx k = s.ctx k := by
  unfold State.enableCtx
  extract_lets others v
  rw [if_neg (by simp [hen, hd])]
  rw [State.ctx_stopRings, State.ctx_modCtx]
  exact ⟨rfl, rfl, rfl, fun k hk => by rw [State.ctx_stopRings, State.ctx_modCtx_ne s hk]⟩

theorem State.en_disableCtx {s : State} {c : Nat} (hen : (s.ctx c).en = true) : ((s.disableCtx c).ctx c).en = false := by
  rw [State.disableCtx, if_pos hen, (State.wanes_killFor _ c .disabled).en, State.ctx_stopRings, State.ctx_modCtx]

/-- R471: a context that is disabled is killed. -/
theorem State.teams_disableCtx {s : State} {c k : Nat} {T : Team} (hen : (s.ctx c).en = true) (hd : (s.ctx c).dying = none)
    (hk : tfind s.teams k = some T) (hT : T.ctx = c) : ((s.disableCtx c).team k).state = .retired ∨
      (T.onDie = true ∧ ((s.disableCtx c).team k).state = .killed ∧ ((s.disableCtx c).ctx c).dying.isSome = true) := by
  rw [State.disableCtx, if_pos hen]
  generalize hu : (s.modCtx c (fun C => { C with en := false })).stopRings c true = u
  have hteams : u.teams = s.teams := by rw [← hu]; rfl
  have hdying : (u.ctx c).dying = none := by rw [← hu, State.ctx_stopRings, State.ctx_modCtx, hd]
  have hteam : u.team k = T := State.team_of_tfind (by rw [hteams, hk])
  have he : (u.killFor c .disabled).Ended k c :=
    State.ended_killFor hdying (by rw [hteams, hk]; rfl) (by rw [hteam, hT])
  have h := he.of_wanes (u.wanes_killFor c .disabled)
  rw [hteam] at h
  exact h

theorem contextWrites_act (s : State) (c : Nat) (hh : (s.cmdCore 2).held = false) (hg : (s.cmdCore 2).golden = true) (hc : s.ctxOk c = true)
    (hd : (s.ctx c).dying = none) :
    ((s.ctx c).en = false → ∃ t, exec (.contextEnable c) s = .next t ∧ (t.ctx c).en = true ∧ (t.ctx c).level = 0 ∧ (t.ctx c).consumed = 0 ∧
      ∀ k, k ≠ c → t.ctx k = s.ctx k) ∧
    ((s.ctx c).en = true → ∃ t, exec (.contextDisable c) s = .next t ∧ (t.ctx c).en = false ∧
      ∀ k T, tfind s.teams k = some T → T.ctx = c →
        (t.team k).state = .retired ∨ (T.onDie = true ∧ (t.team k).state = .killed ∧ (t.ctx c).dying.isSome = true)) := by
  refine ⟨fun hen => ⟨s.enableCtx c, ?_, State.ctx_enableCtx hen hd⟩, fun hen => ⟨s.disableCtx c, ?_, State.en_disableCtx hen, ?_⟩⟩
  · exact State.enWrite_acts hh hg hc _
  · exact State.enWrite_acts hh hg hc _
  · exact fun k T hk hT => State.teams_disableCtx hen hd hk hT

/-! ### Images (R485) -/

/-- R485: the fields of CCLOAD once it is written anew: BUSY, and STATUS. -/
theorem ccload_fields (v w : W64) :
    ((v &&& 0xFFFFFFFFFFFFF007) ||| w).getLsbD 3 = w.getLsbD 3 ∧
    ((v &&& 0xFFFFFFFFFFFFF007) ||| w).extractLsb' 10 2 = w.extractLsb' 10 2 := by
  refine ⟨by simp, ?_⟩
  rw [BitVec.extractLsb'_or, BitVec.extractLsb'_and]
  simp

theorem State.cmdCore_put (s : State) (c : Nat) (C : CmdCore) : State.cmdCore { s with cmdCores := tput s.cmdCores c C } c = C :=
  tget_tput_same _ _ _ _

theorem exec_ccload {s : State} (v : W64) (hu : (s.func 0).usable = true) : exec (.ccload v) s = .next (s.writeCcload v) := by
  show execCcload v s = _
  exact State.pageWrite_usable (by omega) hu _

theorem ccload_starts (s : State) (v : W64) (hu : (s.func 0).usable = true) (hb : s.ccload.getLsbD 3 = false) (hv : v.getLsbD 3 = true) :
    ∃ t, exec (.ccload v) s = .next t ∧ t.ccload.getLsbD 3 = true ∧ (t.ccload.extractLsb' 10 2).toNat = 1 ∧
      (t.cmdCore (v.extractLsb' 0 3).toNat).held = true ∧ t.mem = s.mem := by
  refine ⟨s.writeCcload v, exec_ccload v hu, ?_⟩
  obtain ⟨hbusy, hstatus⟩ := ccload_fields v 0x408
  unfold State.writeCcload
  rw [if_neg (Bool.eq_false_iff.mp hb)]
  dsimp only
  rw [if_pos hv]
  refine ⟨?_, ?_, ?_, rfl⟩
  · exact hbusy
  · exact congrArg BitVec.toNat hstatus
  · exact congrArg CmdCore.held (tget_tput_same _ _ _ _)

/-- R485: while a load is in progress, CCLOAD takes no write. -/
theorem ccload_busy (s : State) (v : W64) (hu : (s.func 0).usable = true) (hb : s.ccload.getLsbD 3 = true) :
    exec (.ccload v) s = .next s := by
  rw [exec_ccload v hu, State.writeCcload, if_pos hb]

theorem State.endLoading_eq {s : State} (hb : s.ccload.getLsbD 3 = true) :
    s.endLoading =
      let c := (s.ccload.extractLsb' 0 3).toNat
      let img := s.imageAt (s.ccload &&& ~~~0xFFF#64)
      { s with
        cmdCores := tput s.cmdCores c (if s.coreImage c img then CmdCore.start img (s.fuses.signed img) else { (s.cmdCore c) with held := true })
        ccload := (s.ccload &&& 0xFFFFFFFFFFFFF007) ||| (if s.coreImage c img then 0x800 else 0xC00) } := by
  unfold State.endLoading State.loadImage
  rw [if_pos hb]

theorem ccload_ends (s : State) (hb : s.ccload.getLsbD 3 = true) :
    (let c := (s.ccload.extractLsb' 0 3).toNat
     let img := s.imageAt (s.ccload &&& ~~~0xFFF#64)
     let t := s.endLoading
     t.ccload.getLsbD 3 = false ∧
     (s.coreImage c img = true → (t.ccload.extractLsb' 10 2).toNat = 2 ∧ t.cmdCore c = CmdCore.start img (s.fuses.signed img)) ∧
     (s.coreImage c img = false → (t.ccload.extractLsb' 10 2).toNat = 3 ∧ (t.cmdCore c).held = true)) := by
  extract_lets c img t
  have hcc : t.ccload = (s.ccload &&& 0xFFFFFFFFFFFFF007) ||| (if s.coreImage c img then 0x800 else 0xC00) := by
    unfold t
    rw [State.endLoading_eq hb]
  have hcore : t.cmdCore c = if s.coreImage c img then CmdCore.start img (s.fuses.signed img) else { (s.cmdCore c) with held := true } := by
    unfold t
    rw [State.endLoading_eq hb]
    exact tget_tput_same _ _ _ _
  obtain ⟨hbusy, hstatus⟩ := ccload_fields s.ccload (if s.coreImage c img then 0x800 else 0xC00)
  rw [← hcc] at hbusy hstatus
  refine ⟨?_, fun h => ?_, fun h => ?_⟩
  · rw [hbusy]
    split <;> rfl
  · rw [hstatus, hcore, h]
    exact ⟨rfl, rfl⟩
  · rw [hstatus, hcore, h]
    exact ⟨rfl, rfl⟩

/-! ### Mailboxes (R486) -/

theorem mailboxPublish_acts (s : State) (a m : Nat) (v : W64) (hm : m < 16) (ha : a < 8) (hh : (s.cmdCore a).held = false) :
    ((s.mailbox m).full = false ∨ (s.mailbox m).since = s.time ∧ a < (s.mailbox m).sender → ∃ t, exec (.mailboxPublish a m v) s = .next t ∧
      t.mailbox m = { (s.mailbox m) with data := writeBytes (s.mailbox m).data 56 (bytesOfNum 8 v.toNat), full := true, sender := a, since := s.time } ∧
      (t.cmdCore (s.mailbox m).rcv).irq = true) ∧
    ((s.mailbox m).full = true → (s.mailbox m).since ≠ s.time ∨ (s.mailbox m).sender ≤ a → exec (.mailboxPublish a m v) s = .next s) := by
  have he : exec (.mailboxPublish a m v) s = .next (s.publish a m v) := if_pos ⟨hm, ha, by simp [hh]⟩
  refine ⟨fun h => ⟨_, he, ?_⟩, fun hf h => he.trans ?_⟩
  · unfold State.publish
    dsimp only
    rw [if_neg ?_]
    · exact ⟨tget_tput_same _ _ _ _, congrArg CmdCore.irq (tget_tput_same _ _ _ _)⟩
    · rcases h with h | ⟨ht, hs⟩
      · simp [h]
      · simp [ht, hs]
  · unfold State.publish
    have hlater : ¬((s.mailbox m).since = s.time ∧ a < (s.mailbox m).sender) := by omega
    exact congrArg _ (if_pos ⟨hf, by simpa [Decidable.or_iff_not_imp_left] using hlater⟩)

theorem mailboxClear_acts (s : State) (a m : Nat) (hm : m < 16) (ha : a < 8) (hh : (s.cmdCore a).held = false) :
    (a = (s.mailbox m).rcv → ∃ t, exec (.mailboxClear a m) s = .next t ∧ t.mailbox m = { (s.mailbox m) with full := false } ∧
      (t.cmdCore a).irq = false) ∧
    (a ≠ (s.mailbox m).rcv → exec (.mailboxClear a m) s = .next s) := by
  have he : exec (.mailboxClear a m) s = .next (s.clearMailbox a m) := if_pos ⟨hm, ha, by simp [hh]⟩
  refine ⟨fun h => ⟨_, he, ?_⟩, fun h => ?_⟩
  · rw [State.clearMailbox, if_pos h]
    exact ⟨tget_tput_same _ _ _ _, congrArg CmdCore.irq (tget_tput_same _ _ _ _)⟩
  · rw [he, State.clearMailbox, if_neg h]

/-! ### Registers that a read clears (R18) -/

theorem readClear_flrDrop (s : State) (k : Nat) (hk : k < 17) : ∃ t, exec (.readClearRegister 0 (0x800100 + 8 * k)) s = .next t ∧
    t.func k = { s.func k with flrDrop := 0 } ∧ ∀ j, j ≠ k → t.func j = s.func j := by
  refine ⟨s.modFunc k (fun F => { F with flrDrop := 0 }), ?_, State.func_modFunc _ _ _, fun j hj => State.func_modFunc_ne s hj _⟩
  show execReadClearRegister _ _ s = _
  rw [execReadClearRegister, if_pos (by omega), show (0x800100 + 8 * k - 0x800100) / 8 = k by omega]

theorem readClear_replays (s : State) (p : Nat) (hp : p < 18) : ∃ t, exec (.readClearRegister 25 p) s = .next t ∧
    t.port p = { s.port p with replays := 0 } ∧ ∀ q, q ≠ p → t.port q = s.port q := by
  refine ⟨{ s with ports := tput s.ports p { (s.port p) with replays := 0 } }, ?_, tget_tput_same _ _ _ _, fun q hq => tget_tput_ne _ _ hq _⟩
  show execReadClearRegister _ _ s = _
  rw [execReadClearRegister, if_neg (by omega), if_pos ⟨rfl, hp⟩]
  rfl

/-! ### MSI-X (R435) -/

/-- One bit of a word is cleared. -/
theorem getLsbD_clearBit {w : W64} {i : Nat} (h : i < 64) : (w &&& ~~~(1#64 <<< i)).getLsbD i = false := by
  simp [h]

/-- R434, R435: what becomes of the pending bit of a vector, and of its message. -/
theorem State.sendPending_acts (s : State) (fn vec : Nat) (h : vec < 64) :
    let F := s.func fn
    let goes := F.msixPend.getLsbD vec && F.msixOpen vec
    ((s.sendPending fn vec).func fn).msixMask = F.msixMask ∧
    ((s.sendPending fn vec).func fn).msixPend.getLsbD vec = (F.msixPend.getLsbD vec && !goes) ∧
    (s.sendPending fn vec).msgs = if goes then s.msgs ++ [(fn, vec, (tget {} F.msixTab vec).addr, (tget {} F.msixTab vec).data)] else s.msgs := by
  intro F goes
  unfold State.sendPending
  by_cases hg : goes = true
  · have hg' := hg
    simp only [goes, Bool.and_eq_true] at hg'
    rw [if_pos hg', if_pos hg, hg]
    generalize hu : s.modFunc fn (fun F => { F with msixPend := F.msixPend &&& ~~~(1#64 <<< vec) }) = u
    have hf : u.func fn = { F with msixPend := F.msixPend &&& ~~~(1#64 <<< vec) } := by rw [← hu, State.func_modFunc]
    have hm : u.msgs = s.msgs := by rw [← hu]; rfl
    refine ⟨?_, ?_, ?_⟩
    · show (u.func fn).msixMask = _
      rw [hf]
    · show (u.func fn).msixPend.getLsbD vec = _
      rw [hf, getLsbD_clearBit h]
      simp
    · show u.msgs ++ _ = _
      rw [hm, hf]
  · have hg' := hg
    simp only [goes, Bool.and_eq_true] at hg'
    rw [if_neg hg', if_neg hg]
    refine ⟨rfl, ?_, rfl⟩
    rw [Bool.not_eq_true] at hg
    rw [hg, Bool.not_false, Bool.and_true]

theorem msixMaskClear_delivers (s : State) (fn vec : Nat) (hfn : fn ≤ 16) (hv : vec < 64) :
    (let F := s.func fn
     let goes := F.msixPend.getLsbD vec && F.msixOn && !F.msixHeld
     ∃ t, exec (.msixMaskClear fn vec) s = .next t ∧ (t.func fn).msixMask.getLsbD vec = false ∧
       (t.func fn).msixPend.getLsbD vec = (F.msixPend.getLsbD vec && !goes) ∧
       t.msgs = if goes then s.msgs ++ [(fn, vec, (tget {} F.msixTab vec).addr, (tget {} F.msixTab vec).data)] else s.msgs) := by
  intro F goes
  refine ⟨_, if_neg (by omega), ?_⟩
  generalize hu : s.modFunc fn (fun F => { F with msixMask := F.msixMask &&& ~~~(1#64 <<< vec) }) = u
  have hf : u.func fn = { F with msixMask := F.msixMask &&& ~~~(1#64 <<< vec) } := by rw [← hu, State.func_modFunc]
  have hm : u.msgs = s.msgs := by rw [← hu]; rfl
  have hopen : ((u.func fn).msixPend.getLsbD vec && (u.func fn).msixOpen vec) = goes := by
    rw [hf, Func.msixOpen, getLsbD_clearBit hv, Bool.not_false, Bool.and_true, ← Bool.and_assoc]
  obtain ⟨hmask, hpend, hmsgs⟩ := u.sendPending_acts fn vec hv
  rw [hopen] at hpend hmsgs
  rw [hmask, hpend, hmsgs, hm, hf]
  exact ⟨getLsbD_clearBit hv, rfl, rfl⟩

/-! ### Writes of registers (R469, R470, R483) -/

theorem exec_registerWrite {s : State} {fn off size : Nat} {v : W64} (hfn : fn ≤ 16) (hoff : off < 0x1000000)
    (ha : (size = 8 ∧ off % 8 = 0) ∨ (size = 4 ∧ off % 4 = 0)) :
    exec (.registerWrite fn off size v) s = s.pageWrite fn (fun s => s.writeReg fn off size v) := by
  show execRegisterWrite _ _ _ _ s = _
  rw [execRegisterWrite, if_neg (by simp only [decide_eq_true ha, Bool.not_true, Bool.false_eq_true, not_false_eq_true]), if_pos hfn, if_pos hoff]

theorem pageAt_of_page {fn off : Nat} (hfn : fn ≤ 16) (hoff : off < 0x1000000) :
    pageAt (0xC000000000 + 0x1000000 * fn + off) = some (fn, off) := by
  rw [pageAt, if_pos (by omega), show (0xC000000000 + 0x1000000 * fn + off - 0xC000000000) / 0x1000000 = fn by omega,
    show (0xC000000000 + 0x1000000 * fn + off) % 0x1000000 = off by omega]

/-- R469: a command core's write reaches the function page at its address. -/
theorem exec_registerWrite_core {s : State} {fn off size k : Nat} {v : W64} (hfn : fn ≤ 16) (hoff : off < 0x1000000)
    (ha : (size = 8 ∧ off % 8 = 0) ∨ (size = 4 ∧ off % 4 = 0)) (hk : k < 8) (hh : (s.cmdCore k).held = false) :
    exec (.registerWrite (17 + k) (0xC000000000 + 0x1000000 * fn + off) size v) s = exec (.registerWrite fn off size v) s := by
  have ha' : (size = 8 ∧ (0xC000000000 + 0x1000000 * fn + off) % 8 = 0) ∨ (size = 4 ∧ (0xC000000000 + 0x1000000 * fn + off) % 4 = 0) := by omega
  rw [exec_registerWrite hfn hoff ha]
  show execRegisterWrite _ _ _ _ s = _
  rw [execRegisterWrite, if_neg (by simp only [decide_eq_true ha', Bool.not_true, Bool.false_eq_true, not_false_eq_true]), if_neg (by omega), if_pos (by omega), Nat.add_sub_cancel_left, State.coreWrite,
    if_neg (by simp [hh]), pageAt_of_page hfn hoff]

theorem State.writeReg_put {s : State} {fn off size : Nat} {v : W64} (hctl : fn ≠ 0 ∨ off / 8 * 8 ≠ 0x800638)
    (hcore : coreTwo fn off = false ∨ (s.cmdCore 2).held = false ∧ (s.cmdCore 2).golden = true) :
    s.writeReg fn off size v = .next (s.regPut fn (off / 8 * 8) (s.merged fn off size v) (size = 8 || off % 8 = 0)) := by
  unfold State.writeReg
  extract_lets low body
  rw [if_neg (by omega)]
  rcases hcore with h | ⟨hh, hg⟩
  · rw [if_neg (by simp [h])]
  · rw [State.onCore_acts hh hg, ite_self]

theorem State.dropWrite_counts (s : State) (fn : Nat) :
    ((s.dropWrite fn).func fn).flrDrop = (if (s.func fn).flrDrop = 0xFFFFFFFF then (s.func fn).flrDrop else (s.func fn).flrDrop + 1) ∧
    (s.dropWrite fn).mem = s.mem ∧ ∀ j, j ≠ fn → (s.dropWrite fn).func j = s.func j := by
  refine ⟨?_, rfl, fun j hj => State.func_modFunc_ne s hj _⟩
  rw [State.dropWrite, State.func_modFunc]

theorem registerWrite_acts (s : State) (fn off size : Nat) (v : W64) (hfn : fn ≤ 16) (hoff : off < 0x1000000)
    (ha : (size = 8 ∧ off % 8 = 0) ∨ (size = 4 ∧ off % 4 = 0)) :
    ((s.func fn).usable = false → ∃ t, exec (.registerWrite fn off size v) s = .next t ∧
      t = s.dropWrite fn ∧ (t.func fn).flrDrop = (if (s.func fn).flrDrop = 0xFFFFFFFF then (s.func fn).flrDrop else (s.func fn).flrDrop + 1) ∧
      t.mem = s.mem ∧ ∀ j, j ≠ fn → t.func j = s.func j) ∧
    ((s.func fn).usable = true → fn ≠ 0 ∨ off / 8 * 8 ≠ 0x800638 → coreTwo fn off = false ∨ (s.cmdCore 2).held = false ∧ (s.cmdCore 2).golden = true →
      exec (.registerWrite fn off size v) s = .next (s.regPut fn (off / 8 * 8) (s.merged fn off size v) (size = 8 || off % 8 = 0))) ∧
    (∀ k < 8, (s.cmdCore k).held = false →
      exec (.registerWrite (17 + k) (0xC000000000 + 0x1000000 * fn + off) size v) s = exec (.registerWrite fn off size v) s) := by
  refine ⟨fun hu => ⟨_, ?_, rfl, s.dropWrite_counts fn⟩, fun hu hctl hcore => ?_, fun k hk hh => exec_registerWrite_core hfn hoff ha hk hh⟩
  · rw [exec_registerWrite hfn hoff ha, State.pageWrite_dropped hfn hu]
  · rw [exec_registerWrite hfn hoff ha, State.pageWrite_usable hfn hu, State.writeReg_put hctl hcore]

/-- R470: the offsets of the rings lie behind the registers that every function has. -/
theorem State.regPut_ring {s : State} {fn off : Nat} (v : W64) (low : Bool) (h1 : 1 ≤ fn) (h : 0x20000 ≤ off) :
    s.regPut fn off v low = s.vfWrite fn off v low := by
  unfold State.regPut
  iterate 9 rw [if_neg (by omega)]

/-- R472: the base register of a ring. -/
theorem State.vfWrite_ringBase {s : State} {fn r : Nat} (v : W64) (low : Bool) (hr : r < 8 * (s.part (partOfFn fn)).ctxCount)
    (hn : (s.part (partOfFn fn)).ctxCount ≤ 256) :
    s.vfWrite fn (0x20000 + 64 * r) v low = s.modRing fn r (fun R => if R.en then R else { R with base := v &&& ~~~0xFFF#64 }) := by
  unfold State.vfWrite
  extract_lets p n r'
  replace hr : r < 8 * n := hr
  replace hn : n ≤ 256 := hn
  have hr' : r' = r := by omega
  have h0 : (0x20000 + 64 * r) % 64 = 0 := by omega
  rw [if_neg (by omega), if_neg (by omega), if_neg (by omega), if_neg (by omega), if_pos (by omega), h0, hr']
  rfl

theorem ringBase_written (s : State) (fn r : Nat) (v : W64) (h1 : 1 ≤ fn) (hr : r < 8 * (s.part (partOfFn fn)).ctxCount)
    (hn : (s.part (partOfFn fn)).ctxCount ≤ 256) (hen : (s.ring fn r).en = false) :
    ((s.regPut fn (0x20000 + 64 * r) v true).ring fn r).base = v &&& ~~~0xFFF#64 := by
  rw [State.regPut_ring v true h1 (by omega), State.vfWrite_ringBase v true hr hn, State.ring_modRing, if_neg (by simp [hen])]

/-- R483: what a function that is being reset discards. -/
theorem pageWrites_dropped (s : State) (fn k : Nat) (v : W64) (x : BitVec 32) (h16 : fn ≤ 16) (hu : (s.func fn).usable = false) :
    exec (.ringEnable fn k v) s = .next (s.dropWrite fn) ∧ exec (.ringDisable fn k) s = .next (s.dropWrite fn) ∧
    exec (.notifyWrite fn k x) s = .next (s.dropWrite fn) ∧ exec (.tlbinvBlock fn v) s = .next (s.dropWrite fn) ∧
    exec (.tlbinvContext fn v) s = .next (s.dropWrite fn) ∧ exec (.tlbinvPartition fn v) s = .next (s.dropWrite fn) ∧
    exec (.prqResponseOk fn k) s = .next (s.dropWrite fn) ∧ exec (.prqResponseFail fn k) s = .next (s.dropWrite fn) ∧
    exec (.exportRequest fn) s = .next (s.dropWrite fn) := by
  have h := State.pageWrite_dropped h16 hu
  refine ⟨?_, ?_, ?_, ?_, ?_, ?_, ?_, ?_, ?_⟩
  · show execRingEnable fn k v s = _
    exact h _
  · show execRingDisable fn k s = _
    exact h _
  · show execNotifyWrite fn k x s = _
    exact h _
  · show execTlbinvBlock fn v s = _
    exact h _
  · show execTlbinvContext fn v s = _
    exact h _
  · show execTlbinvPartition fn v s = _
    exact h _
  · show execPrqResponseOk fn k s = _
    exact h _
  · show execPrqResponseFail fn k s = _
    exact h _
  · show execExportRequest fn s = _
    exact h _

/-! ### Command fragments (R490) -/

theorem exec_agtcmdFragment {s : State} (v : W64) (hu : (s.func 0).usable = true) :
    exec (.agtcmdFragment v) s = .next (s.postFragment (v ||| 0x8000)) := by
  show execAgtcmdFragment v s = _
  exact State.pageWrite_usable (by omega) hu _

/-- R490: FRAG and LAST are the only bits that a posted fragment takes from the write. -/
theorem State.putFrag_go (s : State) (v : W64) : s.putFrag (v ||| 0x8000) = s.putFrag v := by
  have h : (v ||| 0x8000) &&& 0x403F = v &&& 0x403F := by
    rw [BitVec.and_comm, BitVec.and_or_distrib_left]
    simp [BitVec.and_comm]
  rw [State.putFrag, h]
  rfl

/-- R490: FRAG and LAST as they were written, and GO. -/
theorem posted_fields (old v : W64) :
    ctlFrag (((old &&& ~~~0x403F#64) ||| (v &&& 0x403F)) ||| 0x8000) = ctlFrag v ∧
    (((old &&& ~~~0x403F#64) ||| (v &&& 0x403F)) ||| 0x8000).getLsbD 14 = v.getLsbD 14 ∧
    (((old &&& ~~~0x403F#64) ||| (v &&& 0x403F)) ||| 0x8000).getLsbD 15 = true := by
  refine ⟨?_, by simp, by simp⟩
  have hall : (0x403F : W64).extractLsb' 0 6 = BitVec.allOnes 6 := rfl
  refine congrArg BitVec.toNat (?_ : BitVec.extractLsb' 0 6 _ = BitVec.extractLsb' 0 6 v)
  rw [BitVec.extractLsb'_or, BitVec.extractLsb'_or, BitVec.extractLsb'_and, BitVec.extractLsb'_and, hall, BitVec.and_allOnes]
  simp

theorem agtcmdFragment_posts (s : State) (v : W64) (hu : (s.func 0).usable = true) :
    (s.agtCtl.getLsbD 15 = true → exec (.agtcmdFragment v) s = .next ((s.putFrag v).agtStatus 6 0)) ∧
    (s.agtCtl.getLsbD 15 = false → ∃ t, exec (.agtcmdFragment v) s = .next t ∧ t.agtCtl.getLsbD 15 = true ∧ ctlFrag t.agtCtl = ctlFrag v ∧
      t.agtCtl.getLsbD 14 = v.getLsbD 14 ∧ t.agtBuf = s.agtBuf) := by
  have hgo : (v ||| 0x8000).getLsbD 15 = true := by simp
  refine ⟨fun hb => ?_, fun hb => ?_⟩
  · rw [exec_agtcmdFragment v hu, State.postFragment, if_neg (by rw [hgo]; simp), if_pos hb, State.putFrag_go]
  · obtain ⟨hfrag, hlast, hposted⟩ := posted_fields s.agtCtl v
    have he : s.postFragment (v ||| 0x8000) = { s.putFrag v with agtCtl := (s.putFrag v).agtCtl ||| 0x8000 } := by
      rw [State.postFragment, if_neg (by rw [hgo]; simp), if_neg (Bool.eq_false_iff.mp hb), State.putFrag_go]
    refine ⟨_, exec_agtcmdFragment v hu, ?_⟩
    rw [he]
    exact ⟨hposted, hfrag, hlast, rfl⟩

theorem takeFragment_acts (s : State) :
    (ctlFrag s.agtCtl * 56 ≠ s.agtBuf.length ∨ 46 < ctlFrag s.agtCtl → s.takeFragment = s.agtStatus 6 0) ∧
    (ctlFrag s.agtCtl * 56 = s.agtBuf.length → ctlFrag s.agtCtl ≤ 46 → s.agtCtl.getLsbD 14 = false →
      s.takeFragment.agtBuf = s.agtBuf ++ (List.range 7).flatMap (fun i => bytesOfNum 8 (tget 0 s.agtData i).toNat) ∧
      s.takeFragment.agtCtl = BitVec.ofNat 64 (2 ^ 40) ||| (s.agtCtl &&& 0x403F)) := by
  unfold State.takeFragment
  extract_lets c buf
  refine ⟨fun h => if_pos h, fun hlen hfrag hlast => ?_⟩
  rw [if_neg (not_or.mpr ⟨not_not.mpr hlen, Nat.not_lt.mpr hfrag⟩), if_pos (by simp only [c, hlast, Bool.not_false])]
  exact ⟨rfl, rfl⟩

/-! ### The obligation -/

/-- Settles O57. The model's choices behind it: which rows stand for writes of command cores and for reads that clear (function numbers
17 + c and 25, notes/assumptions/11.md), when a fragment is taken (notes/assumptions/26.md), how images and mailboxes act
(notes/assumptions/68.md), and the MSI-X structures (notes/assumptions/69.md). -/
theorem hostRegistersAndMailboxesAct : Obligations.HostRegistersAndMailboxesAct := by
  unfold Obligations.HostRegistersAndMailboxesAct
  exact ⟨contextWrites_act, ⟨ccload_starts, fun s v => ccload_busy s v, ccload_ends⟩, mailboxPublish_acts, mailboxClear_acts,
    readClear_flrDrop, readClear_replays, msixMaskClear_delivers, registerWrite_acts, pageWrites_dropped, ringBase_written,
    agtcmdFragment_posts, takeFragment_acts⟩

end Sys2Proof.Machine
end

section
/-! System registers (R35 to R38, R40, R134, R135, R197, R270). -/

namespace Sys2Proof.Machine

open Sys2Proof.Safety

/-! ### Reads -/

section
variable {s : State} {g : Grd} {dk : SysDk} {d : BitVec 8} {num : BitVec 10}

theorem exec_sread_illegal (hc : s.clear (.sread g dk d num) = true)
    (h : sysReg num.toNat = none ∨ (dk = .scalar ∧ ∃ k, sysReg num.toNat = some (true, k))) :
    exec (.sread g dk d num) s = .next (s.trapRun (trapAll s.runLanes 1 0 (.sread g dk d num))) := by
  show execSread g dk d num s = _
  rw [execSread, runWord_clear hc]
  rcases h with h | ⟨rfl, k, h⟩ <;> rw [h] <;> rfl

/-- R36: a register of the gang, to a scalar register. -/
theorem exec_sread_scalar {k : SysAccess} (hc : s.clear (.sread g .scalar d num) = true) (hk : sysReg num.toNat = some (false, k)) :
    exec (.sread g .scalar d num) s = .next ((s.setCur (s.curGang.mapOnce (s.active g)
      (fun G => G.writeS d.toNat (s.readSys s.cur.team s.cur.gang 0 num.toNat)))).finish false) := by
  show execSread g .scalar d num s = _
  rw [execSread, runWord_clear hc, hk]
  rfl

/-- R37: any register, to a vector register or a pair of each lane. -/
theorem exec_sread_lanes {wide : Bool} {k : Bool × SysAccess} (hc : s.clear (.sread g (if wide then .pair else .vec) d num) = true)
    (hk : sysReg num.toNat = some k) :
    exec (.sread g (if wide then .pair else .vec) d num) s = .next ((s.setCur (s.curGang.eachLane (s.active g)
      (fun G l => G.writeRaw ⟨false, d⟩ wide l (s.readSys s.cur.team s.cur.gang l num.toNat)))).finish false) := by
  show execSread g _ d num s = _
  rw [execSread, runWord_clear hc, hk]
  obtain ⟨lane, acc⟩ := k
  cases wide <;> cases lane <;> rfl
end

/-- R33: a scalar that is written once, if some lane is active, holds the value, and nothing else changes. -/
theorem Gang.mapOnce_writeS (G : Gang) (ls : List Nat) (d : BitVec 8) (v : W64) :
    (ls ≠ [] → (G.mapOnce ls (fun G => G.writeS d.toNat v)).readS d.toNat = v) ∧
    OnlyWrites (.reg ⟨true, d⟩ true) ls false G (G.mapOnce ls (fun G => G.writeS d.toNat v)) := by
  cases ls with
  | nil => exact ⟨fun h => absurd rfl h, .refl ..⟩
  | cons l ls =>
    refine ⟨fun _ => Gang.readS_writeS_same .., fun _ _ _ _ => rfl, fun r hr => ?_, fun _ _ _ => rfl, fun _ => rfl, fun _ h => h, rfl⟩
    exact Gang.readS_writeS_ne _ (fun e => hr ⟨List.cons_ne_nil l ls, by simp [Dest.isS, e]⟩) _

/-- Settles O34. That TIME reads the same on every core is the model's choice (notes/assumptions/53.md). -/
theorem systemReadsGiveTheirRegister : Obligations.SystemReadsGiveTheirRegister := by
  unfold Obligations.SystemReadsGiveTheirRegister
  refine ⟨fun g d num s k hc hk hlane => ?_, fun g d num s wide k hc hk => ?_, fun g dk d num s => exec_sread_illegal⟩
  · obtain ⟨lane, acc⟩ := k
    obtain rfl : lane = false := hlane
    exact ⟨_, exec_sread_scalar hc hk, Gang.mapOnce_writeS ..⟩
  · refine ⟨_, exec_sread_lanes hc hk, ?_⟩
    exact foldl_writes (fun _ => rfl) (fun H l hl => ⟨H.writeRaw_holds _ wide hl _, H.writeRaw_only _ wide hl _⟩)
      (val := fun _ l => s.readSys s.cur.team s.cur.gang l num.toNat) (fun _ _ _ _ => rfl)
      (s.active g) (s.active_nodup g) (fun _ => State.active_lt) s.curGang

/-! ### Writes -/

section
variable {s : State} {g : Grd} {dk : SysDk} {a : BitVec 8} {num : BitVec 10}

theorem exec_swrite_illegal (hc : s.clear (.swrite g dk a num) = true) (h : sysReg num.toNat = none ∨ ∃ lane, sysReg num.toNat = some (lane, .ro)) :
    exec (.swrite g dk a num) s = .next (s.trapRun (trapAll s.runLanes 1 0 (.swrite g dk a num))) := by
  show execSwrite g dk a num s = _
  rw [execSwrite, runWord_clear hc]
  rcases h with h | ⟨lane, h⟩
  · rw [h]; rfl
  · rw [h]; exact if_pos (.inl rfl)

/-- R35: the privileged registers are no Lane registers. -/
theorem sysReg_priv {n : Nat} {lane : Bool} (h : sysReg n = some (lane, .priv)) : lane = false := by
  unfold sysReg at h
  simp only [apply_ite (· = some (lane, SysAccess.priv)), Option.some.injEq, Prod.mk.injEq, reduceCtorEq, and_false, ite_self] at h
  grind

theorem exec_swrite_privilege (hc : s.clear (.swrite g .scalar a num) = true) {lane : Bool} (h : sysReg num.toNat = some (lane, .priv))
    (hp : s.curGang.privileged = false) :
    exec (.swrite g .scalar a num) s = .next (s.trapRun (trapAll s.runLanes 2 0 (.swrite g .scalar a num))) := by
  obtain rfl := sysReg_priv h
  show execSwrite g .scalar a num s = _
  rw [execSwrite, runWord_clear hc, h]
  exact (if_neg (by decide)).trans (if_pos ⟨rfl, by rw [hp]; rfl⟩)

/-- R36, R134, R135, R262: a register of the gang takes its value at once. -/
theorem exec_swrite_gang (hc : s.clear (.swrite g .scalar a num) = true) (ha : s.active g ≠ []) (hk : sysReg num.toNat = some (false, .rw))
    (hlt : num.toNat < 0x40) (hd : num.toNat = 0x12 → s.curGang.depthMax ≤ 4) :
    exec (.swrite g .scalar a num) s =
      .next ((s.setCur (s.curGang.writeSys num.toNat (s.curGang.readS a.toNat))).finish false) := by
  have h11 : num ≠ 17#10 := fun e => absurd hk (by subst e; decide)
  have h14 : num ≠ 20#10 := fun e => absurd hk (by subst e; decide)
  have h12 : ¬(num = 18#10 ∧ 4 < s.curGang.depthMax) := fun ⟨e, h⟩ => Nat.not_lt.mpr (hd (by subst e; rfl)) h
  show execSwrite g .scalar a num s = _
  rw [execSwrite, runWord_clear hc, hk]
  simp [ha, h11, h14, h12, Nat.not_le.mpr hlt, State.next]

/-- R46, R134: FSTAT takes its value in each lane of Active. -/
theorem exec_swrite_fstat (hk : dk ≠ .scalar) (hc : s.clear (.swrite g dk a 0x30) = true) (ha : s.active g ≠ []) :
    exec (.swrite g dk a 0x30) s = .next ((s.setCur (s.curGang.eachLane (s.active g)
      (fun G l => G.writeFstat l ((G.readV l a.toNat).setWidth 5)))).finish false) := by
  show execSwrite g dk a 0x30 s = _
  rw [execSwrite, runWord_clear hc]
  simp [sysReg, hk, ha, State.next]

/-- R36: at the privileged level a privileged register is written. -/
theorem exec_swrite_ageMax (hc : s.clear (.swrite g .scalar a 0x11) = true) (ha : s.active g ≠ []) (hp : s.curGang.privileged = true) :
    exec (.swrite g .scalar a 0x11) s = .next ((s.modCore s.curGang.core (fun C =>
      { C with ageMax := max 16 ((s.curGang.readS a.toNat).toNat % 65536) })).finish false) := by
  show execSwrite g .scalar a 0x11 s = _
  rw [execSwrite, runWord_clear hc]
  simp [sysReg, hp, ha, State.next]

theorem exec_swrite_spillt (hc : s.clear (.swrite g .scalar a 0x14) = true) (ha : s.active g ≠ []) (hp : s.curGang.privileged = true) :
    exec (.swrite g .scalar a 0x14) s = .next ((s.modCtx s.curTeam.ctx (fun C =>
      { C with spillt := (s.curGang.readS a.toNat).toNat % 65536 })).finish false) := by
  show execSwrite g .scalar a 0x14 s = _
  rw [execSwrite, runWord_clear hc]
  simp [sysReg, hp, ha, State.next]

theorem sysReg_tcfg {n : Nat} (h : n < 8) : sysReg (0x40 + n) = some (false, .rw) := by
  revert n
  decide

theorem writeTcfg_legal {i : Instr} {ls : List Nat} {n : Nat} {x : W64} (ht : n < s.curTeam.launch.tiles)
    (hl : tcfgLegal (x &&& ~~~0x100000000#64) = true) (hb : s.tileBusy s.cur.team (curFollower s) n = false) :
    writeTcfg i ls n x s = .next ((s.modTile n (fun y => y.config x)).finish false) := by
  rw [writeTcfg, if_neg (not_or.mpr ⟨Nat.not_le.mpr ht, by rw [hl]; decide⟩), hb]
  rfl

/-- R197: TCFG of a tile that is not busy takes a legal value. -/
theorem exec_swrite_tcfg {n : Nat} (hc : s.clear (.swrite g .scalar a num) = true) (ha : s.active g ≠ []) (hn : num.toNat = 0x40 + n)
    (h8 : n < 8) (ht : n < s.curTeam.launch.tiles) (hl : tcfgLegal (s.curGang.readS a.toNat &&& ~~~0x100000000#64) = true)
    (hb : s.tileBusy s.cur.team (curFollower s) n = false) :
    exec (.swrite g .scalar a num) s = .next ((s.modTile n (fun y => y.config (s.curGang.readS a.toNat))).finish false) := by
  have low : ∀ k : BitVec 10, k.toNat < 0x40 → num ≠ k := fun k hk e => by subst e; omega
  show execSwrite g .scalar a num s = _
  rw [execSwrite, runWord_clear hc, hn, sysReg_tcfg h8]
  simp [ha, low 17#10 (by decide), low 18#10 (by decide), low 20#10 (by decide), writeTcfg_legal ht hl hb]
end

/-! ### What a write leaves -/

/-- The gang's registers that `swrite` writes whole or in part (R35). -/
def gangSysRegs : List Nat := [0x12, 0x20, 0x21, 0x22, 0x23, 0x24, 0x25, 0x26, 0x27, 0x28, 0x31]

theorem sysReg_gang {n : Nat} (h : n ∈ gangSysRegs) : sysReg n = some (false, .rw) ∧ n < 0x40 := by
  revert n
  decide

theorem Gang.writeSys_frame (G : Gang) {n : Nat} (h : n ∈ gangSysRegs) (x : W64) :
    { G.writeSys n x with cstk := G.cstk, pidx := G.pidx, tcause := G.tcause, tlanes := G.tlanes, taddr := G.taddr, tpc := G.tpc,
                          tstat := G.tstat, fmode := G.fmode } = G := by
  simp only [gangSysRegs, List.mem_cons, List.not_mem_nil, or_false] at h
  rcases h with rfl | rfl | rfl | rfl | rfl | rfl | rfl | rfl | rfl | rfl | rfl <;> rfl

/-- R38, R134, R135, R184, R262: the fields that each register keeps. -/
theorem State.readSys_writeSys (s : State) (G : Gang) {n : Nat} (h : n ∈ gangSysRegs) (x : W64) :
    (s.setCur (G.writeSys n x)).readSys s.cur.team s.cur.gang 0 n =
      if n = 0x12 then x &&& 0x01FFFFFFFFFFFF80 else if n = 0x20 then x &&& 0xFFFF else if n = 0x21 then x &&& 0xFF0F
      else if n = 0x28 then (G.tstat &&& ~~~0x80#64) ||| (x &&& 0x80) else if n = 0x31 then x &&& 0x1F03 else x := by
  have hG (H : Gang) : ((s.setCur H).team s.cur.team).gang s.cur.gang = H := s.curGang_setCur H
  simp only [gangSysRegs, List.mem_cons, List.not_mem_nil, or_false] at h
  rcases h with rfl | rfl | rfl | rfl | rfl | rfl | rfl | rfl | rfl | rfl | rfl <;> simp [State.readSys, hG, Gang.writeSys]

/-- FSTAT written lane by lane from a vector register: the lanes that are written hold its low five bits, and all else is the same. -/
theorem Gang.eachLane_writeFstat (G : Gang) (r : Nat) {ls : List Nat} (hn : ls.Nodup) :
    (∀ l ∈ ls, (G.eachLane ls (fun G l => G.writeFstat l ((G.readV l r).setWidth 5))).readFstat l = (G.readV l r).setWidth 5) ∧
    (∀ l, l ∉ ls → (G.eachLane ls (fun G l => G.writeFstat l ((G.readV l r).setWidth 5))).readFstat l = G.readFstat l) ∧
    { G.eachLane ls (fun G l => G.writeFstat l ((G.readV l r).setWidth 5)) with fstat := G.fstat } = G := by
  induction ls generalizing G with
  | nil => exact ⟨fun _ h => absurd h List.not_mem_nil, fun _ _ => rfl, rfl⟩
  | cons x ls ih =>
    obtain ⟨hx, hn⟩ := List.nodup_cons.mp hn
    obtain ⟨hin, hout, hrest⟩ := ih (G.writeFstat x ((G.readV x r).setWidth 5)) hn
    refine ⟨fun l hl => ?_, fun l hl => ?_, congrArg (fun H : Gang => { H with fstat := G.fstat }) hrest⟩
    · rcases List.mem_cons.mp hl with rfl | hl
      · exact (hout l hx).trans (Gang.readFstat_writeFstat_same ..)
      · exact hin l hl
    · obtain ⟨hne, hl⟩ := not_or.mp (fun h => hl (List.mem_cons.mpr h))
      exact (hout l hl).trans (Gang.readFstat_writeFstat_ne _ hne _)

/-- Settles O35. -/
theorem systemWritesKeepTheirFields : Obligations.SystemWritesKeepTheirFields := by
  unfold Obligations.SystemWritesKeepTheirFields
  refine ⟨fun g a num s hc ha hnum => ?_, fun g dk a s hk hc ha => ?_, fun g a s => exec_swrite_ageMax, fun g a s => exec_swrite_spillt,
    fun g a num n s => exec_swrite_tcfg, fun g dk a num s hc => ⟨exec_swrite_illegal hc, fun ⟨lane, h⟩ hd hp => ?_⟩⟩
  · have hmem : num.toNat ∈ gangSysRegs := hnum.elim (List.mem_cons_of_mem _) (fun h => h.1 ▸ List.mem_cons_self ..)
    have hdepth : num.toNat = 0x12 → s.curGang.depthMax ≤ 4 := fun e => hnum.elim (fun h => absurd (e ▸ h) (by decide)) (·.2)
    obtain ⟨hk, hlt⟩ := sysReg_gang hmem
    exact ⟨_, exec_swrite_gang hc ha hk hlt hdepth, s.readSys_writeSys _ hmem _, Gang.writeSys_frame _ hmem _⟩
  · exact ⟨_, exec_swrite_fstat hk hc ha, Gang.eachLane_writeFstat _ _ (s.active_nodup g)⟩
  · subst hd
    exact exec_swrite_privilege hc h hp

end Sys2Proof.Machine
end

section
/-! What happens to a team while others come to their places and leave them, and while its own stores leave its queues: a placed team
stays in its place, a retired one stays retired, and a gang whose lanes are all Ready at the entry stays so, because what wakes lanes
wakes only those that wait (R34, R238, R354, R360). -/

namespace Sys2Proof.Machine

/-! ### Tables of gangs -/

theorem tsortedFrom_map {α β : Type} (f : Nat → α → β) (t : Tbl α) (b : Nat) :
    tsortedFrom b (t.map (fun p => (p.1, f p.1 p.2))) = tsortedFrom b t := by
  induction t generalizing b with
  | nil => rfl
  | cons p t ih => simp [tsortedFrom, ih]

theorem length_tput_listed {α : Type} {t : Tbl α} {b a : Nat} {v : α} (hs : tsortedFrom b t = true) (h : (tfind t a).isSome = true) :
    (tput t a v).length = t.length := by
  induction t generalizing b with
  | nil => simp at h
  | cons p t ih =>
    obtain ⟨k, w⟩ := p
    simp only [tsortedFrom, Bool.and_eq_true, decide_eq_true_eq] at hs
    by_cases hk : a = k
    · simp [tput, hk]
    · rw [tfind, if_neg hk] at h
      have hlt : ¬a < k := fun hlt => by simp [tfind_none_below hs.2 (Nat.lt_succ_of_lt hlt)] at h
      simp [tput, hk, hlt, ih hs.2 h]

theorem tput_above {α : Type} {t : Tbl α} {a : Nat} (v : α) (h : ∀ p ∈ t, p.1 < a) : tput t a v = t ++ [(a, v)] := by
  induction t with
  | nil => rfl
  | cons p t ih =>
    have hp := h p (List.mem_cons_self ..)
    rw [tput, if_neg (Nat.ne_of_gt hp), if_neg (Nat.not_lt.mpr hp.le), ih (fun q hq => h q (List.mem_cons_of_mem _ hq)), List.cons_append]

theorem tfind_map_const {α : Type} {v : α} {ls : List Nat} {l : Nat} (h : l ∈ ls) : tfind (ls.map (fun l => (l, v))) l = some v := by
  induction ls with
  | nil => exact absurd h List.not_mem_nil
  | cons x ls ih =>
    rw [List.map_cons, tfind]
    split
    · rfl
    · exact ih (List.mem_of_ne_of_mem ‹_› h)

theorem Team.gang_mapGangs (T : Team) (f : Nat → Gang → Gang) (g : Nat) :
    (T.mapGangs f).gang g = f g (T.gang g) ∨ (T.mapGangs f).gang g = T.gang g := by
  unfold Team.gang Team.mapGangs tget
  rw [tfind_map]
  cases tfind T.gangs g with
  | none => exact .inr rfl
  | some G => exact .inl rfl

/-- A gang that is not the one of an empty table is listed. -/
theorem Team.listed_of_ne {T : Team} {g : Nat} (h : T.gang g ≠ {}) : (tfind T.gangs g).isSome = true := by
  unfold Team.gang tget at h
  cases hg : tfind T.gangs g with
  | none => rw [hg] at h; exact absurd rfl h
  | some G => rfl

/-! ### Fresh gangs -/

/-- Every lane of a gang is Ready at the entry of its launch (R34). -/
structure Gang.Fresh (L : Launch) (G : Gang) : Prop where
  width : G.width = L.gw
  lanes : ∀ l < L.gw, G.pc l = L.entry ∧ G.laneState l = .ready

section
variable {L : Launch} {G H : Gang}

theorem Gang.Fresh.same (h : G.Fresh L) (hw : H.width = G.width) (hp : H.pcs = G.pcs) (hl : H.lst = G.lst) : H.Fresh L := by
  refine ⟨hw.trans h.width, fun l hlt => ?_⟩
  unfold Gang.pc Gang.laneState
  rw [hp, hl]
  exact h.lanes l hlt

theorem Gang.leaveWait_nil (G : Gang) : G.leaveWait [] = G := by
  unfold Gang.leaveWait
  split
  · rfl
  · rfl

/-- No lane of a gang whose lanes are all Ready waits. -/
theorem Gang.wake_ready {v : Bool} {test : WaitOn → Bool} (h : ∀ l < G.width, G.laneState l = .ready) : G.wake v test = G := by
  have hw : G.waiters test = [] := by
    refine List.filter_eq_nil_iff.mpr (fun l hl => ?_)
    rw [h l (List.mem_range.mp hl)]
    exact Bool.false_ne_true
  unfold Gang.wake
  rw [hw]
  exact G.leaveWait_nil

theorem Gang.Fresh.wake {v : Bool} {test : WaitOn → Bool} (h : G.Fresh L) : (G.wake v test).Fresh L := by
  rwa [Gang.wake_ready fun l hl => (h.lanes l (h.width ▸ hl)).2]

theorem freshGang_fresh (L : Launch) : (freshGang L).Fresh L := by
  refine ⟨rfl, fun l hl => ⟨?_, rfl⟩⟩
  by_cases he : L.entry = 0
  · simp [freshGang, Gang.pc, he]
  · unfold Gang.pc freshGang tget upto
    rw [if_neg he]
    exact congrArg (Option.getD · 0) (tfind_map_const (List.mem_range.mpr hl))
end

/-! ### What becomes of a team -/

/-- A team keeps its launch and core; one that is placed or retired stays so, with the gangs that it lists, and fresh gangs stay fresh. -/
structure Team.Bides (T U : Team) : Prop where
  launch : U.launch = T.launch
  core : U.core = T.core
  placed : T.state = .placed → U.state = .placed
  retired : T.state = .retired → U.state = .retired
  gangs : tsortedFrom 0 T.gangs = true → tsortedFrom 0 U.gangs = true ∧ U.gangs.length = T.gangs.length
  listed : ∀ g, (tfind T.gangs g).isSome = true → (tfind U.gangs g).isSome = true
  fresh : ∀ g, (T.gang g).Fresh T.launch → (U.gang g).Fresh T.launch

section
variable {T U V : Team}

/-- A change that touches neither the launch, the place nor the gangs of a team. -/
theorem Team.Bides.same (hl : U.launch = T.launch) (hc : U.core = T.core) (hs : U.state = T.state) (hg : U.gangs = T.gangs) :
    T.Bides U := by
  refine ⟨hl, hc, fun h => hs.trans h, fun h => hs.trans h, ?_, ?_, ?_⟩
  · rw [hg]
    exact fun h => ⟨h, rfl⟩
  · rw [hg]
    exact fun _ => id
  · unfold Team.gang
    rw [hg]
    exact fun _ => id

theorem Team.Bides.refl (T : Team) : T.Bides T := .same rfl rfl rfl rfl

theorem Team.Bides.trans (h : T.Bides U) (k : U.Bides V) : T.Bides V where
  launch := k.launch.trans h.launch
  core := k.core.trans h.core
  placed e := k.placed (h.placed e)
  retired e := k.retired (h.retired e)
  gangs e := ⟨(k.gangs (h.gangs e).1).1, (k.gangs (h.gangs e).1).2.trans (h.gangs e).2⟩
  listed g e := k.listed g (h.listed g e)
  fresh g e := h.launch ▸ k.fresh g (h.launch.symm ▸ h.fresh g e)

theorem Team.Bides.mapGangs {f : Nat → Gang → Gang} (hf : ∀ g G, G.Fresh T.launch → (f g G).Fresh T.launch) :
    T.Bides (T.mapGangs f) where
  launch := rfl
  core := rfl
  placed := id
  retired := id
  gangs e := ⟨(tsortedFrom_map f T.gangs 0).trans e, List.length_map _⟩
  listed g e := by
    unfold Team.mapGangs
    rwa [tfind_map, Option.isSome_map]
  fresh g e := by
    rcases T.gang_mapGangs f g with h | h
    · rw [h]
      exact hf g _ e
    · rwa [h]

theorem Team.Bides.setGang {g : Nat} {G : Gang} (hg : (tfind T.gangs g).isSome = true)
    (hG : (T.gang g).Fresh T.launch → G.Fresh T.launch) :
    T.Bides (T.setGang g G) where
  launch := rfl
  core := rfl
  placed := id
  retired := id
  gangs e := ⟨tsortedFrom_tput (Nat.zero_le g) G e, length_tput_listed e hg⟩
  listed j e := by
    by_cases h : j = g
    · exact h ▸ congrArg Option.isSome (tfind_tput_same T.gangs g G)
    · exact (congrArg Option.isSome (tfind_tput_ne T.gangs h G)).trans e
  fresh j e := by
    by_cases h : j = g
    · rw [h, Team.gang_setGang]
      exact hG (h ▸ e)
    · rwa [Team.gang_setGang_ne _ h]

/-- R277: a saved team that is queued has no place. -/
theorem Team.Bides.queued {n m : Nat} (h : T.state = .saved) : T.Bides { T with state := .queued, classIn := n, order := m } :=
  ⟨rfl, rfl, fun e => by simp [h] at e, fun e => by simp [h] at e, fun e => ⟨e, rfl⟩, fun _ => id, fun _ => id⟩

/-- R238: lanes that wait are woken. -/
theorem Team.Bides.wake {v : Bool} {test : Gang → WaitOn → Bool} : T.Bides (T.mapGangs (fun _ G => G.wake v (test G))) :=
  .mapGangs (fun _ _ h => h.wake)
end

/-- From `o` to `s` team `k` bides, and no number that had been given is free again. -/
structure State.Bides (o : State) (k : Nat) (s : State) : Prop where
  team : (o.team k).Bides (s.team k)
  next : o.nextId ≤ s.nextId

theorem State.Bides.refl (s : State) (k : Nat) : s.Bides k s := ⟨.refl _, Nat.le_refl _⟩

section
variable {o s u : State} {k : Nat}

/-- A step that gives out numbers. -/
theorem State.Bides.numbered (hs : o.Bides k s) (ht : u.teams = s.teams) (hn : s.nextId ≤ u.nextId) : o.Bides k u := by
  refine ⟨?_, Nat.le_trans hs.next hn⟩
  have h : u.team k = s.team k := by rw [State.team, State.team, ht]
  exact h ▸ hs.team

theorem State.Bides.same (hs : o.Bides k s) (ht : u.teams = s.teams) (hn : u.nextId = s.nextId) : o.Bides k u :=
  hs.numbered ht (Nat.le_of_eq hn.symm)

theorem State.Bides.ite {c : Prop} [Decidable c] (hs : o.Bides k s) (hu : o.Bides k u) : o.Bides k (if c then s else u) := by
  split
  · exact hs
  · exact hu

theorem State.Bides.fst {α : Type} {p : State × α} {x : α} (hp : o.Bides k p.1) (e : p = (s, x)) : o.Bides k s := by
  subst e
  exact hp

theorem State.Bides.foldl {α : Type} {f : State → α → State} {l : List α} (hs : o.Bides k s)
    (hf : ∀ s x, o.Bides k s → o.Bides k (f s x)) : o.Bides k (l.foldl f s) := by
  induction l generalizing s with
  | nil => exact hs
  | cons x l ih => exact ih (hf s x hs)

theorem State.Bides.foldlFst {α β : Type} {f : State × β → α → State × β} {p : State × β} {l : List α} (hp : o.Bides k p.1)
    (hf : ∀ p x, o.Bides k p.1 → o.Bides k (f p x).1) : o.Bides k (l.foldl f p).1 := by
  induction l generalizing p with
  | nil => exact hp
  | cons x l ih => exact ih (hf p x hp)
end

section
variable {o s : State} {k t g c n fn ring core line : Nat}

/-! ### Updates of one unit -/

theorem State.Bides.setTeam {T : Team} (hs : o.Bides k s) (hT : t = k → (s.team k).Bides T) : o.Bides k (s.setTeam t T) := by
  refine ⟨?_, hs.next⟩
  by_cases h : k = t
  · rw [h, State.team_setTeam]
    subst h
    exact hs.team.trans (hT rfl)
  · rw [State.team_setTeam_ne _ h]
    exact hs.team

theorem State.Bides.modTeam {f : Team → Team} (hs : o.Bides k s) (hf : ∀ T, Team.Bides T (f T)) : o.Bides k (s.modTeam t f) :=
  hs.setTeam (fun e => e ▸ hf _)

theorem State.Bides.setGang {G : Gang} (hs : o.Bides k s) (hg : (tfind (s.team t).gangs g).isSome = true)
    (hG : ∀ L, (s.gang t g).Fresh L → G.Fresh L) : o.Bides k (s.setGang t g G) :=
  hs.setTeam (fun e => e ▸ .setGang hg (hG _))

theorem State.Bides.mapTeams {f : Nat → Team → Team} (hs : o.Bides k s) (hf : ∀ j T, Team.Bides T (f j T)) :
    o.Bides k (s.mapTeams f) := by
  refine ⟨?_, hs.next⟩
  have hk := hs.team
  unfold State.team tget at hk ⊢
  unfold State.mapTeams
  rw [tfind_map]
  cases h : tfind s.teams k with
  | none => rwa [h] at hk
  | some T =>
    rw [h] at hk
    exact hk.trans (hf k T)

theorem State.Bides.modCtx {f : Context → Context} (hs : o.Bides k s) : o.Bides k (s.modCtx c f) := .same hs rfl rfl
theorem State.Bides.modCore {f : Core → Core} (hs : o.Bides k s) : o.Bides k (s.modCore c f) := .same hs rfl rfl
theorem State.Bides.modCluster {f : Cluster → Cluster} (hs : o.Bides k s) : o.Bides k (s.modCluster c f) := .same hs rfl rfl
theorem State.Bides.modDie {f : Die → Die} (hs : o.Bides k s) : o.Bides k (s.modDie c f) := .same hs rfl rfl
theorem State.Bides.modSlice {f : Slice → Slice} (hs : o.Bides k s) : o.Bides k (s.modSlice n f) := .same hs rfl rfl
theorem State.Bides.modFuture {f : FutEntry → FutEntry} (hs : o.Bides k s) : o.Bides k (s.modFuture n f) := .same hs rfl rfl
theorem State.Bides.modFunc {f : Func → Func} (hs : o.Bides k s) : o.Bides k (s.modFunc fn f) := .same hs rfl rfl
theorem State.Bides.modCopyQ {f : CopyQueue → CopyQueue} (hs : o.Bides k s) : o.Bides k (s.modCopyQ core n f) := .same hs rfl rfl
theorem State.Bides.modRing {f : Ring → Ring} (hs : o.Bides k s) : o.Bides k (s.modRing fn ring f) := .same hs rfl rfl
theorem State.Bides.modPkt {f : PktRun → PktRun} (hs : o.Bides k s) : o.Bides k (s.modPkt fn ring n f) := .same hs rfl rfl
theorem State.Bides.modMeter {f : Meter → Meter} (hs : o.Bides k s) : o.Bides k (s.modMeter core c f) := .same hs rfl rfl
theorem State.Bides.hostPut {a : Nat} {bs : List Byte} (hs : o.Bides k s) : o.Bides k (s.hostPut fn a bs) := .same hs rfl rfl

/-! ### Messages, page requests and charges -/

theorem State.Bides.signal {vec : Nat} (hs : o.Bides k s) : o.Bides k (s.signal fn vec) := by
  unfold State.signal
  exact .ite (.same hs rfl rfl) hs.modFunc

theorem State.Bides.errorRecord {time source severity part ctx die unit addr count : Nat} (hs : o.Bides k s) :
    o.Bides k (s.errorRecord time source severity part ctx die unit addr count) := by
  unfold State.errorRecord State.flushErr
  extract_lets bytes
  split
  · rename_i s1 _ heq
    have h1 : o.Bides k s1 := by
      refine State.Bides.fst ?_ heq
      unfold State.ringOut
      extract_lets s2
      have h2 : o.Bides k s2 := .foldl (.same hs rfl rfl) (fun _ _ h => h.hostPut)
      split
      · exact h2
      · exact .same hs rfl rfl
    exact .signal (.same h1 rfl rfl)
  · exact .same hs rfl rfl

theorem State.Bides.flushPrqOne (hs : o.Bides k s) : o.Bides k (s.flushPrqOne fn) := by
  unfold State.flushPrqOne
  extract_lets R n blocked
  split
  · exact hs
  · extract_lets s1 s2
    have h2 : o.Bides k s2 := .same hs rfl rfl
    exact .ite hs h2.modFunc.signal

theorem State.Bides.flushPrq (hs : o.Bides k s) : o.Bides k (s.flushPrq fn) := by
  unfold State.flushPrq
  exact .foldl hs (fun _ _ h => h.flushPrqOne)

theorem State.Bides.requestPage {page : Nat} {s2 : Bool} {acc : Access} {engine : Bool} (hs : o.Bides k s) :
    o.Bides k (s.requestPage c page s2 acc engine).1 := by
  unfold State.requestPage
  extract_lets p id r
  split
  · exact hs
  · split
    · exact .flushPrq (.same hs rfl rfl)
    · exact hs

theorem State.Bides.requestAll {keys : List (PageKey × Access)} (hs : o.Bides k s) : o.Bides k (s.requestAll c keys).1 := by
  unfold State.requestAll
  refine .foldlFst hs (fun r x hr => ?_)
  split
  · rename_i heq
    exact State.Bides.fst hr.requestPage heq
  · rename_i heq
    exact State.Bides.fst hr.requestPage heq

/-- R430: the gang that asks anew stands at a replay, so that its team lists it. -/
theorem State.Bides.releaseParked (hs : o.Bides k s) : o.Bides k (s.releaseParked n) := by
  unfold State.releaseParked
  split
  · exact hs
  · rename_i q _
    split
    · rename_i ids want hstop
      extract_lets r s1
      have hq : (tfind (s.team q.1).gangs q.2).isSome = true := by
        refine Team.listed_of_ne (fun e => ?_)
        rw [State.gang, e] at hstop
        cases hstop
      have h1 : o.Bides k s1 :=
        hs.requestAll.setGang ((State.Bides.refl s q.1).requestAll.team.listed _ hq) (fun _ h => h.same rfl rfl rfl)
      exact .ite (.same h1 rfl rfl) h1
    · exact .same hs rfl rfl

theorem State.Bides.freePrq (hs : o.Bides k s) : o.Bides k (s.freePrq n) := by
  unfold State.freePrq
  split
  · exact hs
  · exact .flushPrq (.releaseParked (.same hs rfl rfl))

theorem State.Bides.wantGrant (hs : o.Bides k s) : o.Bides k (s.wantGrant core c) := by
  unfold State.wantGrant
  exact .ite (.same hs rfl rfl) hs

theorem State.Bides.chargeRaw {u dom : Nat} (hs : o.Bides k s) : o.Bides k (s.chargeRaw core c u dom) := by
  unfold State.chargeRaw State.chargeOnly
  exact .wantGrant (.ite (.same hs rfl rfl) (.same hs rfl rfl))

theorem State.Bides.chargeMiss {m : Miss} (hs : o.Bides k s) : o.Bides k (s.chargeMiss m) := by
  unfold State.chargeMiss
  split
  · exact .same hs rfl rfl
  · exact hs.chargeRaw

theorem State.Bides.resolveMisses (hs : o.Bides k s) : o.Bides k (s.resolveMisses t) := by
  unfold State.resolveMisses State.chargeMisses
  exact .foldl hs (fun _ _ h => .foldl h (fun _ _ h' => h'.chargeMiss))

theorem State.Bides.returnMeter (hs : o.Bides k s) : o.Bides k (s.returnMeter core c) := by
  unfold State.returnMeter
  exact .ite hs (.same hs rfl rfl)

theorem State.Bides.inject {flits : Nat} (hs : o.Bides k s) : o.Bides k (s.inject core c flits) := by
  unfold State.inject
  exact .ite hs hs.modDie

theorem State.Bides.chargeReturned (hs : o.Bides k s) : o.Bides k (s.chargeReturned core c) := by
  unfold State.chargeReturned
  exact .wantGrant (.same hs rfl rfl)

theorem State.Bides.refusedThere (hs : o.Bides k s) : o.Bides k s.refusedThere := by
  unfold State.refusedThere
  exact .ite (.signal (.same hs rfl rfl)) (.same hs rfl rfl)

theorem State.nextId_inject (s : State) (core ctx flits : Nat) : (s.inject core ctx flits).nextId = s.nextId := by
  unfold State.inject
  extract_lets d p
  split
  · rfl
  · rfl

theorem State.Bides.remoteWrite {cells : List Host.Cell} (hs : o.Bides k s) : o.Bides k (s.remoteWrite core c cells) := by
  unfold State.remoteWrite State.sendRequest State.chargeFlits
  extract_lets pa pkg s1
  have h1 : o.Bides k s1 := .ite hs (.same hs rfl rfl)
  exact .ite h1.chargeRaw.chargeReturned.refusedThere hs.signal

/-! ### Lines and clusters -/

theorem State.Bides.sendFlits {pkg cls pa : Nat} {bytes : List Byte} (hs : o.Bides k s) : o.Bides k (s.sendFlits pkg cls pa bytes) := by
  unfold State.sendFlits
  exact .ite hs (.same hs rfl rfl)

theorem State.Bides.relaunch (hs : o.Bides k s) : o.Bides k (s.relaunch t) := by
  unfold State.relaunch
  extract_lets T base
  split
  · rename_i hT
    have hbase : o.Bides k base := hs.setTeam (fun e => e ▸ .queued hT)
    exact .numbered hbase rfl (Nat.le_succ _)
  · exact hs

theorem State.Bides.requeue (hs : o.Bides k s) : o.Bides k (s.requeue t) := by
  unfold State.requeue
  extract_lets T
  exact .ite hs (.ite hs.relaunch (.foldl hs (fun _ _ h => h.relaunch)))

theorem State.Bides.wakeSpilled (hs : o.Bides k s) : o.Bides k (s.wakeSpilled line) := by
  unfold State.wakeSpilled
  extract_lets h ts s1
  have h1 : o.Bides k s1 := .foldl hs (fun _ _ h => .ite h.sendFlits h.requeue)
  exact .ite h1 h1.modSlice

theorem State.Bides.wakeLine (hs : o.Bides k s) : o.Bides k (s.wakeLine line) := by
  unfold State.wakeLine
  extract_lets base
  have hbase : o.Bides k base := by
    refine hs.mapTeams (fun _ T => ?_)
    split
    · exact .wake
    · exact .refl T
  exact .same hbase rfl rfl

theorem State.Bides.wakeScratch (hs : o.Bides k s) : o.Bides k (s.wakeScratch t n) := by
  unfold State.wakeScratch
  extract_lets test T
  exact .ite (hs.setTeam (fun e => e ▸ .wake)) (.ite hs.requeue hs)

theorem State.Bides.wakeLost (hs : o.Bides k s) : o.Bides k (s.wakeLost core line) := by
  unfold State.wakeLost
  refine hs.mapTeams (fun _ T => ?_)
  split
  · refine .mapGangs (fun _ G h => ?_)
    split
    · exact h.wake
    · exact h
  · exact .refl T

theorem State.Bides.dropL1 (hs : o.Bides k s) : o.Bides k (s.dropL1 core line) := by
  unfold State.dropL1 State.dropShare
  extract_lets mon s1
  have h1 : o.Bides k s1 := hs.modCore
  exact .ite h1.wakeLost.modSlice h1

theorem State.Bides.invalidate {keep : Option Nat} (hs : o.Bides k s) : o.Bides k (s.invalidate line keep) := by
  unfold State.invalidate
  exact .foldl hs (fun _ _ h => h.dropL1)

theorem State.Bides.freeBypass (hs : o.Bides k s) : o.Bides k (s.freeBypass line) := by
  unfold State.freeBypass
  extract_lets h
  exact .ite hs.modSlice hs

theorem State.Bides.evictL1 {x : L1Line} (hs : o.Bides k s) : o.Bides k (s.evictL1 core x) := by
  unfold State.evictL1 State.sliceWriteBack
  exact .ite hs.dropL1.modSlice.wakeSpilled.freeBypass hs.dropL1.freeBypass

theorem State.Bides.takeBanks (hs : o.Bides k s) : o.Bides k (s.takeBanks core) := by
  unfold State.takeBanks
  extract_lets ls lost s1 s2
  have h2 : o.Bides k s2 := .foldl (.same hs rfl rfl) (fun _ _ h => .ite h.evictL1 h)
  exact .foldl h2 (fun _ _ h => h.evictL1)

theorem State.Bides.cleanCluster {fused : Bool} (hs : o.Bides k s) : o.Bides k (s.cleanCluster c fused) := by
  unfold State.cleanCluster
  extract_lets s1
  have h1 : o.Bides k s1 := .foldl hs (fun _ _ h => .foldl h (fun _ _ h' => h'.evictL1))
  exact h1.modCluster

theorem State.Bides.emptyTlbs (hs : o.Bides k s) : o.Bides k (s.emptyTlbs c) := by
  unfold State.emptyTlbs
  exact .foldl hs.modCluster (fun _ _ h => h.modCore)

theorem State.Bides.settleCluster (hs : o.Bides k s) : o.Bides k (s.settleCluster c) := by
  unfold State.settleCluster
  extract_lets C
  exact .ite hs (.ite hs.cleanCluster.emptyTlbs.modCluster (.ite hs.cleanCluster hs))

/-! ### Writes at the home slices -/

theorem State.Bides.ownerData {e : DirEntry} (hs : o.Bides k s) : o.Bides k (s.ownerData core c line e) := by
  unfold State.ownerData
  extract_lets s1
  have h1 : o.Bides k s1 := .ite hs.chargeMiss hs
  exact .ite h1.modSlice.wakeSpilled hs

theorem State.Bides.evict {e : DirEntry} (hs : o.Bides k s) : o.Bides k (s.evict core c n e) := by
  unfold State.evict
  extract_lets s1 s2
  have h1 : o.Bides k s1 := hs.ownerData.invalidate
  have h2 : o.Bides k s2 := .ite h1.chargeMiss h1
  exact h2.modSlice

theorem State.Bides.fill (hs : o.Bides k s) : o.Bides k (s.fill core c line) := by
  unfold State.fill
  extract_lets h p set s1 old s1' new bl s2 base
  have h1 : o.Bides k s1 := hs.chargeMiss.chargeMiss
  have h1' : o.Bides k s1' := .ite h1 h1.modSlice
  clear_value s1'
  split
  · extract_lets old' s2' base'
    have h2' : o.Bides k s2' := by
      unfold s2'
      clear_value old'
      split
      · exact h1'.evict
      · exact h1'
    exact .numbered h2' rfl (Nat.le_succ _)
  · have h2 : o.Bides k s2 := by
      unfold s2
      refine .ite h1' ?_
      split
      · exact h1'.evict
      · exact h1'
    exact .numbered h2 rfl (Nat.le_succ _)

theorem State.Bides.lookup (hs : o.Bides k s) : o.Bides k (s.lookup core c line) := by
  unfold State.lookup
  split
  · unfold State.hit State.recent
    extract_lets s1
    have h1 : o.Bides k s1 := hs.chargeMiss
    exact .numbered (.ite h1.chargeMiss h1) rfl (Nat.le_succ _)
  · exact hs.fill

theorem State.Bides.sliceWriteLine {keep : Option Nat} (hs : o.Bides k s) : o.Bides k (s.sliceWriteLine core c line keep) := by
  unfold State.sliceWriteLine State.writtenLine
  extract_lets h s2 s3 s4 s5
  have h2 : o.Bides k s2 := by
    unfold s2
    split
    · exact hs.lookup.ownerData
    · exact hs.lookup
  have h3 : o.Bides k s3 := h2.invalidate
  have h4 : o.Bides k s4 := by
    unfold s4
    split
    · exact h3.modCore
    · exact h3
  have h5 : o.Bides k s5 := h4.modSlice
  exact h5.wakeLine.wakeSpilled.freeBypass

theorem State.Bides.nextNumber (hs : o.Bides k s) : o.Bides k s.nextNumber := .numbered hs rfl (Nat.le_succ _)

theorem State.Bides.fly {cls flits : Nat} {ports : List Nat} (hs : o.Bides k s) : o.Bides k (s.fly n cls flits ports) := .same hs rfl rfl

theorem State.Bides.applyHead (hs : o.Bides k s) : o.Bides k (s.applyHead n) := by
  unfold State.applyHead
  split
  · exact hs
  · extract_lets s0
    have h0 : o.Bides k s0 := hs.modSlice
    split
    · exact h0
    · extract_lets line s1 s2 s3
      have h1 : o.Bides k s1 := h0.sliceWriteLine
      clear_value s1
      have h2 : o.Bides k s2 := .same h1 rfl rfl
      have h3 : o.Bides k s3 := .ite h2.errorRecord h2
      exact h3.modCore.nextNumber.fly

theorem State.Bides.settleLine (hs : o.Bides k s) : o.Bides k (s.settleLine line) := by
  unfold State.settleLine
  extract_lets h isFor
  exact .ite (.foldl hs (fun _ _ h => .ite h.applyHead h)) hs

theorem State.Bides.sendWrite (hs : o.Bides k s) : o.Bides k (s.sendWrite core n) := by
  unfold State.sendWrite
  split
  · exact hs
  · have h1 : o.Bides k ((s.land n).modCore core (fun C => { C with out := C.out.filter (fun v => decide (v.id ≠ n)) })) := .same hs rfl rfl
    unfold State.writeHome
    extract_lets keep s1
    have h2 : o.Bides k s1 := h1.settleLine.sliceWriteLine
    clear_value s1
    exact .ite (.same h2 rfl rfl) h1.remoteWrite

/-! ### Store queues -/

theorem State.Bides.putScratchCells {cells : List Host.Cell} (hs : o.Bides k s) : o.Bides k (s.putScratchCells t cells) := by
  unfold State.putScratchCells
  exact .foldl (hs.modTeam (fun _ => .same rfl rfl rfl rfl)) (fun _ _ h => h.wakeScratch)

theorem State.Bides.leaveLine {cells : List Host.Cell} (hs : o.Bides k s) : o.Bides k (s.leaveLine core c line cells) := by
  unfold State.leaveLine
  extract_lets s1 w base
  have h1 : o.Bides k s1 := .foldl hs (fun _ _ h => h.sendWrite)
  have h2 : o.Bides k (s1.putBytes cells) := .same h1 rfl rfl
  have hbase : o.Bides k base := .same hs.inject rfl rfl
  have hn : base.nextId = s.nextId := s.nextId_inject core c w.flits
  exact .ite h2.wakeLine.wakeSpilled (.numbered hbase rfl (Nat.le_succ_of_le (Nat.le_of_eq hn)))

theorem State.Bides.leaveQueue {e : SqEntry} (hs : o.Bides k s) : o.Bides k (s.leaveQueue core t e) := by
  unfold State.leaveQueue
  refine .foldl hs (fun s' tgt h => ?_)
  split
  · exact h.putScratchCells
  · exact h.modCore
  · exact .foldl h (fun _ _ h' => h'.leaveLine)

/-- R228: a gang with an entry in its queue is listed. -/
theorem State.Bides.drainOne (hs : o.Bides k s) : o.Bides k (s.drainOne t g) := by
  unfold State.drainOne
  extract_lets G
  split
  · exact hs
  · rename_i e rest hq
    have hg : (tfind (s.team t).gangs g).isSome = true := by
      refine Team.listed_of_ne (fun h => ?_)
      rw [show G = {} from h] at hq
      cases hq
    exact (hs.setGang (G := { G with queue := rest }) hg (fun _ h => h.same rfl rfl rfl)).leaveQueue

theorem State.Bides.drainAll (hs : o.Bides k s) : o.Bides k (s.drainAll t g) := by
  unfold State.drainAll
  exact .foldl hs (fun _ _ h => h.drainOne)

/-! ### Packets, groups and places -/

theorem State.Bides.watch (hs : o.Bides k s) : o.Bides k (s.watch c) := by
  unfold State.watch
  exact .ite hs.modCtx hs.modCtx

theorem State.Bides.completePkt {code detail : Nat} (hs : o.Bides k s) : o.Bides k (s.completePkt fn ring n code detail) := by
  unfold State.completePkt
  split
  · exact hs
  · extract_lets s1 s2 old s3 s4 v s5
    have h1 : o.Bides k s1 := .ite hs.hostPut hs
    have h3 : o.Bides k s3 := h1.modPkt.modRing
    have h4 : o.Bides k s4 := .ite h3 h3.hostPut
    have h5 : o.Bides k s5 := .ite h4.signal h4
    exact .ite hs h5.modCtx.watch

theorem State.Bides.tryExchange {T : Team} (hs : o.Bides k s) : o.Bides k (s.tryExchange T) := by
  unfold State.tryExchange
  extract_lets X ts here s1
  have h1 : o.Bides k s1 := .same hs rfl rfl
  refine .ite (h1.mapTeams (fun _ U => ?_)) hs
  split
  · exact Team.Bides.trans (U := { U with scratch := U.shadow, shadow := U.scratch, poison := U.shPoison, shPoison := U.poison })
      (.same rfl rfl rfl rfl) .wake
  · exact .refl U

theorem State.Bides.enterTeam (hs : o.Bides k s) : o.Bides k (s.enterTeam t core) := by
  unfold State.enterTeam
  refine .foldl hs (fun s' x h => ?_)
  extract_lets c
  have h' : o.Bides k (s'.modTeam t (fun T => { T with copies := T.copies.erase x })) := h.modTeam (fun _ => .same rfl rfl rfl rfl)
  exact .ite h'.modCopyQ h

theorem State.Bides.leavePlace {cores : List Nat} (hs : o.Bides k s) : o.Bides k (s.leavePlace t core cores) := by
  unfold State.leavePlace State.enterCopies
  extract_lets s1
  have h1 : o.Bides k s1 := hs.settleCluster
  exact .foldl h1 (fun _ _ h => .returnMeter (.foldl h (fun _ _ h' => .ite h'.enterTeam h')))

theorem State.Bides.dropCopies {started : Bool} (hs : o.Bides k s) : o.Bides k (s.dropCopies t started) := by
  unfold State.dropCopies
  exact .same (hs.modTeam (f := fun T => { T with copies := [] }) (fun _ => .same rfl rfl rfl rfl)) rfl rfl

theorem State.Bides.dropRequests (hs : o.Bides k s) : o.Bides k (s.dropRequests t) := by
  unfold State.dropRequests
  extract_lets mine others
  exact .foldl (.same hs rfl rfl) (fun _ _ h => h.freePrq)

end
end Sys2Proof.Machine
end

section
/-! Teams come to their places and leave them (R34, R354, R356, R360, R372, R374, R375). -/

namespace Sys2Proof.Machine

/-! ### A first placement (R34, R354) -/

/-- A team holds its place on a core with the fresh gangs of its launch. -/
structure Team.Started (L : Launch) (core : Nat) (T : Team) : Prop where
  launch : T.launch = L
  core : T.core = core
  state : T.state = .placed
  sorted : tsortedFrom 0 T.gangs = true
  length : T.gangs.length = L.gangs
  fresh : ∀ g < L.gangs, (T.gang g).Fresh L

theorem Team.Started.bides {L : Launch} {core : Nat} {T U : Team} (h : T.Started L core) (b : T.Bides U) : U.Started L core where
  launch := b.launch.trans h.launch
  core := b.core.trans h.core
  state := b.placed h.state
  sorted := (b.gangs h.sorted).1
  length := (b.gangs h.sorted).2.trans h.length
  fresh g hg := h.launch ▸ b.fresh g (h.launch.symm ▸ h.fresh g hg)

/-- The first `n` gangs of a team have got their places, and it lists no others. -/
structure Team.Filled (L : Launch) (n : Nat) (T U : Team) : Prop where
  rest : U.launch = T.launch ∧ U.core = T.core ∧ U.state = T.state
  sorted : tsortedFrom 0 U.gangs = true
  below : ∀ p ∈ U.gangs, p.1 < n
  length : U.gangs.length = n
  fresh : ∀ g < n, (U.gang g).Fresh L

theorem Team.Filled.setGang {L : Launch} {n : Nat} {T U : Team} {G : Gang} (h : T.Filled L n U) (hG : G.Fresh L) :
    T.Filled L (n + 1) (U.setGang n G) where
  rest := h.rest
  sorted := tsortedFrom_tput (Nat.zero_le n) G h.sorted
  below p hp := by
    rw [Team.setGang, tput_above G h.below] at hp
    rcases List.mem_append.mp hp with hp | hp
    · exact Nat.lt_succ_of_lt (h.below p hp)
    · rw [List.mem_singleton.mp hp]
      exact Nat.lt_succ_self n
  length := by
    rw [Team.setGang, tput_above G h.below, List.length_append, h.length]
    rfl
  fresh g hg := by
    by_cases e : g = n
    · rwa [e, Team.gang_setGang]
    · rw [Team.gang_setGang_ne _ e]
      exact h.fresh g (Nat.lt_of_le_of_ne (Nat.le_of_lt_succ hg) e)

theorem upto_zip_map {α : Type} (n : Nat) (x : α) :
    (upto ((upto n).map (fun _ => x)).length).zip ((upto n).map (fun _ => x)) = (upto n).map (fun g => (g, x)) :=
  List.ext_getElem (by simp [upto]) (by simp [upto])

theorem State.placeGangs_filled (s : State) (t core : Nat) (L : Launch) (h : (s.team t).gangs = []) (n : Nat) :
    (s.team t).Filled L n ((((upto n).map (fun g => (g, freshGang L))).foldl (fun s q => s.placeGang t core q.1 q.2) s).team t) := by
  induction n with
  | zero => exact ⟨⟨rfl, rfl, rfl⟩, by simp [upto, h, tsortedFrom], by simp [upto, h], by simp [upto, h], by simp⟩
  | succ n ih =>
    rw [show upto (n + 1) = upto n ++ [n] from List.range_succ, List.map_append, List.foldl_append]
    refine (State.team_setTeam _ t _).symm ▸ ih.setGang ?_
    exact (freshGang_fresh L).same rfl rfl rfl

theorem Gang.Fresh.keepRead {L : Launch} {G : Gang} {test : Reread → Bool} (h : G.Fresh L) : (G.keepRead test).Fresh L :=
  h.same rfl rfl rfl

/-- R383: the loads of gangs that were alone on a core keep what they have read. -/
theorem Team.Bides.keepReads {T : Team} {core : Nat} : T.Bides { T with gangs := T.gangs.map (fun g =>
    if g.2.core = core ∨ g.2.core = core + 1 then (g.1, g.2.keepRead (fun _ => true)) else g) } := by
  have e : T.mapGangs (fun _ G => if G.core = core ∨ G.core = core + 1 then G.keepRead (fun _ => true) else G) = { T with
      gangs := T.gangs.map (fun g => if g.2.core = core ∨ g.2.core = core + 1 then (g.1, g.2.keepRead (fun _ => true)) else g) } := by
    refine congrArg (fun gs => { T with gangs := gs }) (List.map_congr_left (fun g _ => ?_))
    dsimp only
    split
    · rfl
    · rfl
  rw [← e]
  refine .mapGangs (fun g G h => ?_)
  split
  · exact h.keepRead
  · exact h

section
variable {o s : State} {k t core : Nat}

/-- R356: a team takes its place with fresh gangs. -/
theorem State.placeTeam_started {L : Launch} (hL : (s.team t).launch = L) :
    ((s.placeTeam t core ((upto L.gangs).map (fun _ => freshGang L))).team t).Started L core := by
  unfold State.placeTeam
  rw [upto_zip_map]
  extract_lets s' T cl s0 s1 off s1' s2 s3
  have hT : T.launch = L := ((State.Bides.refl s t).mapTeams (fun _ _ => .keepReads)).team.launch.trans hL
  have h1 : s1'.team t = { T with
      core := core, state := .placed, gangs := [], placed := s0.nextId, resFrom := s0.time, stopReq := none, saveOff := off } := by
    simp only [s1', s1, State.modTeam, State.team_setTeam]
  have h2 : (s1'.team t).Filled L L.gangs (s2.team t) :=
    State.placeGangs_filled { s1' with nextId := s0.nextId + 1 } t core L (congrArg Team.gangs h1) L.gangs
  rw [h1] at h2
  obtain ⟨hlaunch, hcore, hstate⟩ := h2.rest
  have hstart : (s2.team t).Started L core := ⟨hlaunch.trans hT, hcore, hstate, h2.sorted, h2.length, h2.fresh⟩
  have h3 : s2.Bides t s3 := .foldl (.refl s2 t) (fun _ _ h => h.modMeter)
  exact hstart.bides (State.Bides.ite h3 (.foldl h3 (fun _ _ h => h.takeBanks))).team

theorem State.Bides.placeTeam {gangs : List Gang} (hs : o.Bides k s) (h : t ≠ k) : o.Bides k (s.placeTeam t core gangs) := by
  unfold State.placeTeam
  extract_lets s' T cl s0 s1 off s1' s2 s3
  have hs' : o.Bides k s' := hs.mapTeams (fun _ _ => .keepReads)
  have h0 : o.Bides k s0 := .ite hs'.cleanCluster (.ite hs'.cleanCluster hs')
  have h1 : o.Bides k s1' := (h0.setTeam (t := t) (fun e => absurd e h)).setTeam (fun e => absurd e h)
  have h2 : o.Bides k s2 := .foldl (.numbered h1 rfl (Nat.le_succ _)) (fun _ _ hu => hu.setTeam (fun e => absurd e h))
  have h3 : o.Bides k s3 := .foldl h2 (fun _ _ hu => hu.modMeter)
  exact .ite h3 (.foldl h3 (fun _ _ hu => hu.takeBanks))

/-- R67, R337: what a first placement finds on its cores. -/
theorem State.Bides.freshCore {c : Nat} (hs : o.Bides k s) : o.Bides k ((s.freshTile c).freshCode t c) := by
  have h1 : o.Bides k (s.freshTile c) := by
    unfold State.freshTile
    exact .ite hs hs.modCore
  unfold State.freshCode
  exact .ite h1 h1.modCore

theorem State.firstPlacement_started {L : Launch} (hL : (s.team t).launch = L) : ((s.firstPlacement t core).team t).Started L core := by
  unfold State.firstPlacement
  extract_lets T s1 cs s1' s2
  have h1 : (s1.team t).launch = L := by rwa [State.team_setTeam]
  have h1' : s1.Bides t s1' := .foldl (.refl s1 t) (fun _ _ h => h.freshCore)
  have h2 : (s2.team t).Started L core := hL ▸ State.placeTeam_started (h1'.team.launch.trans (h1.trans hL.symm))
  exact h2.bides (State.Bides.ite (State.Bides.refl s2 t).modFuture (.refl s2 t)).team

theorem State.Bides.firstPlacement (hs : o.Bides k s) (h : t ≠ k) : o.Bides k (s.firstPlacement t core) := by
  unfold State.firstPlacement
  extract_lets T s1 cs s1' s2
  have h1 : o.Bides k s1 := hs.setTeam (fun e => absurd e h)
  have h1' : o.Bides k s1' := .foldl h1 (fun _ _ hu => hu.freshCore)
  have h2 : o.Bides k s2 := h1'.placeTeam h
  exact .ite h2.modFuture h2

/-! ### The teams that a dispatcher chose (R354, R356) -/

/-- R354: the teams that are made have numbers of their own. -/
theorem State.Bides.queueNext {T : Team} {n : Nat} (hs : o.Bides k s) (hk : k < o.nextId) : o.Bides k (s.queueNext T n) := by
  unfold State.queueNext
  refine .ite hs (.foldl hs (fun u i hu => ?_))
  unfold State.queueIndex
  extract_lets base
  have hbase : o.Bides k base := hu.setTeam (fun e => absurd (e ▸ hu.next) (Nat.not_le.mpr hk))
  exact .ite hu (.numbered hbase rfl (Nat.le_succ _))

theorem State.Bides.placements {ps : List (Nat × Nat)} (hs : o.Bides k s) (h : ∀ p ∈ ps, p.1 ≠ k) :
    o.Bides k (ps.foldl (fun s q => s.firstPlacement q.1 q.2) s) := by
  induction ps generalizing s with
  | nil => exact hs
  | cons p ps ih => exact ih (hs.firstPlacement (h p (List.mem_cons_self ..))) (fun r hr => h r (List.mem_cons_of_mem _ hr))

theorem State.placements_started {ps : List (Nat × Nat)} (hn : (ps.map (·.1)).Nodup) {q : Nat × Nat} (hq : q ∈ ps) :
    ((ps.foldl (fun s q => s.firstPlacement q.1 q.2) s).team q.1).Started (s.team q.1).launch q.2 := by
  induction ps generalizing s with
  | nil => exact absurd hq List.not_mem_nil
  | cons p ps ih =>
    obtain ⟨hp, hn⟩ := List.nodup_cons.mp hn
    have hne (r : Nat × Nat) (hr : r ∈ ps) : r.1 ≠ p.1 := fun e => hp (List.mem_map.mpr ⟨r, hr, e⟩)
    rw [List.foldl_cons]
    rcases List.mem_cons.mp hq with rfl | hq
    · exact (State.firstPlacement_started rfl).bides ((State.Bides.refl _ _).placements hne).team
    · have h := ih (s := s.firstPlacement p.1 p.2) hn hq
      rwa [((State.Bides.refl s q.1).firstPlacement (hne q hq).symm).team.launch] at h

/-- R354: what a dispatcher chose comes to its places, and the next teams of its launch are queued. -/
theorem exec_teamPlacement {die team : Nat} {ps : List (Nat × Nat)} (hps : s.chosenPlaces die team core false = ps) (hne : ps ≠ []) :
    exec (.teamPlacement die team core) s = .next (((ps.foldl (fun s q => s.firstPlacement q.1 q.2) s).queueNext (s.team team)
      (ps.foldl (fun n q => max n (s.team q.1).index) 0 + 1)).watch (s.team team).ctx) := by
  show execTeamPlacement die team core s = _
  unfold execTeamPlacement
  rw [hps]
  cases ps with
  | nil => exact absurd rfl hne
  | cons p ps => rfl

theorem teamPlacement_places {die team : Nat} {ps : List (Nat × Nat)} (hps : s.chosenPlaces die team core false = ps) (hne : ps ≠ [])
    (hn : (ps.map (·.1)).Nodup) (hid : ∀ q ∈ ps, q.1 < s.nextId) :
    ∃ u, exec (.teamPlacement die team core) s = .next u ∧ ∀ q ∈ ps, (u.team q.1).Started (s.team q.1).launch q.2 := by
  refine ⟨_, exec_teamPlacement hps hne, fun q hq => ?_⟩
  have hstart := State.placements_started (s := s) hn hq
  have hnext : s.nextId ≤ (ps.foldl (fun s q => s.firstPlacement q.1 q.2) s).nextId :=
    List.foldlRecOn (motive := fun u : State => s.nextId ≤ u.nextId) ps _ (Nat.le_refl _)
      (fun u hu p _ => Nat.le_trans hu ((State.Bides.refl u (p.1 + 1)).firstPlacement (Nat.succ_ne_self _).symm).next)
  exact hstart.bides ((State.Bides.refl _ _).queueNext (Nat.lt_of_lt_of_le (hid q hq) hnext)).watch.team

/-! ### Retirement (R360, R372) -/

/-- A team that has retired and is on no core. -/
def Team.Gone (T : Team) : Prop := T.state = .retired ∧ T.gangs = []

theorem Team.Gone.bides {T U : Team} (h : T.Gone) (b : T.Bides U) : U.Gone := by
  obtain ⟨hstate, hgangs⟩ := h
  refine ⟨b.retired hstate, List.length_eq_zero_iff.mp ?_⟩
  rw [(b.gangs (by rw [hgangs]; rfl)).2, hgangs]
  rfl

theorem State.Bides.endGroup {T : Team} (hs : o.Bides k s) : o.Bides k (s.endGroup T) := by
  unfold State.endGroup
  exact .ite hs (.ite (.same hs rfl rfl) hs.tryExchange)

theorem State.Bides.endLaunch {T : Team} (hs : o.Bides k s) : o.Bides k (s.endLaunch T) := by
  unfold State.endLaunch
  split
  · exact .ite hs hs.completePkt
  · exact hs

theorem State.endTeam_gone (s : State) (t : Nat) (placed : Bool) : ((s.endTeam t placed).team t).Gone := by
  unfold State.endTeam
  extract_lets T cores s1 s2 s3 s4 s5
  have h4 : (s4.team t).Gone := by
    unfold s4 State.modTeam
    rw [State.team_setTeam]
    exact ⟨rfl, rfl⟩
  have h5 : s4.Bides t s5 := (State.Bides.refl s4 t).endGroup.endLaunch
  exact h4.bides (State.Bides.watch (.ite h5.leavePlace h5)).team

section
variable {team : Nat} (hst : (s.team team).state = .placed) (he : (s.team team).ended = true)
include hst he

theorem exec_teamRetire_flushes (hf : (s.team team).flush = none) :
    exec (.teamRetire team) s = .next ((s.startFlush (s.team team).ctx (s.team team).cores).modTeam team
      (fun T => { T with flush := some s.nextId })) := by
  show execTeamRetire team s = _
  simp only [execTeamRetire, hst, he, hf]
  rfl

theorem exec_teamRetire_waits {f : Nat} (hf : (s.team team).flush = some f) (h : s.flushDone f = false ∨ s.engineWork team = true) :
    exec (.teamRetire team) s = .next s := by
  show execTeamRetire team s = _
  simp only [execTeamRetire, hst, he, hf]
  rcases h with h | h
  · simp [h]
  · simp [h]

theorem exec_teamRetire_ends {f : Nat} (hf : (s.team team).flush = some f) (hd : s.flushDone f = true) (hq : (s.team team).storesDone = true)
    (hr : (s.team team).ret.isSome = true → s.storesHome (s.team team) = true) (hw : s.engineWork team = false) :
    exec (.teamRetire team) s = .next ((s.dropFaults team true).endTeam team true) := by
  have hhome : ((s.team team).ret.isNone || s.storesHome (s.team team)) = true := by
    cases h : (s.team team).ret with
    | none => rfl
    | some r => exact hr (by rw [h]; rfl)
  show execTeamRetire team s = _
  simp [execTeamRetire, hst, he, hf, hd, hq, hhome, hw]
end

/-! ### Reclamation (R374, R375) -/

theorem exec_futureReclaim_record {team : Nat} (ho : s.orphan (s.team team) = true)
    (hst : (s.team team).state = .saved ∨ (s.team team).state = .queued) :
    exec (.futureReclaim team) s = .next (s.endTeam team false) := by
  show execFutureReclaim team s = _
  simp [execFutureReclaim, ho, hst]

/-- R375: an orphan's gang when its work is lost: every lane of it has exited. -/
def Gang.reclaimed (G : Gang) : Gang :=
  { (G.endWindows).setLanes G.allLanes .exited with stop := .none, pend := [], prog := none, conts := [] }

theorem Gang.width_eachLane {f : Gang → Nat → Gang} (hf : ∀ G l, (f G l).width = G.width) (G : Gang) (ls : List Nat) :
    (G.eachLane ls f).width = G.width :=
  List.foldlRecOn (motive := fun H : Gang => H.width = G.width) ls f rfl (fun H h l _ => (hf H l).trans h)

theorem Gang.width_endWindows (G : Gang) : G.endWindows.width = G.width :=
  List.foldlRecOn (motive := fun H : Gang => H.width = G.width) G.pend _ rfl
    (fun H h _ _ => (H.width_eachLane (fun _ _ => Gang.orFstat_width _ _ _) _).trans h)

theorem Gang.laneState_setLanes {G : Gang} {ls : List Nat} {l : Nat} (x : LaneState) (h : l ∈ ls ∨ G.laneState l = x) :
    (G.setLanes ls x).laneState l = x := by
  induction ls generalizing G with
  | nil => exact h.resolve_left List.not_mem_nil
  | cons j js ih =>
    refine ih ?_
    by_cases e : l = j
    · exact .inr (e ▸ Gang.laneState_setLane_same G l x)
    · rw [Gang.laneState_setLane_ne G e]
      exact h.imp_left (fun hm => (List.mem_cons.mp hm).resolve_left e)

theorem Gang.reclaimed_finished (G : Gang) : G.reclaimed.finished = true := by
  have hwidth : G.reclaimed.width = G.width := (Gang.width_eachLane (fun _ _ => Gang.setLane_width _ _ _) _ _).trans G.width_endWindows
  refine List.isEmpty_iff.mpr (List.filter_eq_nil_iff.mpr (fun l hl => ?_))
  have hexit : G.reclaimed.laneState l = .exited :=
    Gang.laneState_setLanes (G := G.endWindows) .exited (.inl (by rwa [Gang.allLanes, hwidth] at hl))
  simp [hexit]

/-- R375: an orphan when its work is lost. -/
def Team.reclaimed (T : Team) : Team := ({ T with stopReq := none } : Team).mapGangs (fun _ G => G.reclaimed)

theorem Team.reclaimed_finished {T : Team} (h : T.state = .placed) :
    T.reclaimed.state = .placed ∧ T.reclaimed.allFinished = true ∧ T.reclaimed.stopReq = none := by
  refine ⟨h, ?_, rfl⟩
  rw [Team.allFinished, Team.reclaimed, Team.mapGangs, List.all_map]
  exact List.all_eq_true.mpr (fun p _ => p.2.reclaimed_finished)

/-- R375: what an orphan has not started is lost, and it keeps its place until it retires. -/
theorem State.Bides.loseWork {o s : State} {k t : Nat} {gs : List (Nat × Gang)} (hs : o.Bides k s) :
    o.Bides k ((((gs.foldl (fun (s : State) g => s.drainAll t g.1) (s.resolveMisses t)).dropOps t).dropCopies t true).dropRequests t) := by
  have hd : o.Bides k (gs.foldl (fun (s : State) g => s.drainAll t g.1) (s.resolveMisses t)) :=
    .foldl hs.resolveMisses (fun _ _ h => h.drainAll)
  have ho : o.Bides k ((gs.foldl (fun (s : State) g => s.drainAll t g.1) (s.resolveMisses t)).dropOps t) := hd.same rfl rfl
  exact ho.dropCopies.dropRequests

/-- R374, R375: a gang that has stopped for the reclamation still counts as stopped when it stops at once. -/
theorem Team.stopAtOnce_reclaimable {T : Team} (h : T.gangs.all (fun p => p.2.reclaimable) = true) :
    T.stopAtOnce.gangs.all (fun p => p.2.reclaimable) = true := by
  unfold Team.stopAtOnce Team.mapGangs
  rw [List.all_map]
  refine List.all_eq_true.mpr (fun p hp => ?_)
  dsimp only [Function.comp]
  split
  · exact Bool.or_true _
  · exact List.all_eq_true.mp h p hp

theorem exec_futureReclaim_placed {team : Nat} (ho : s.orphan (s.team team) = true) (hst : (s.team team).state = .placed)
    (hf : (s.team team).allFinished = false) (hr : (s.team team).gangs.all (fun p => p.2.reclaimable) = true) :
    exec (.futureReclaim team) s = .next ((((((s.team team).gangs.foldl (fun (s : State) g => s.drainAll team g.1)
      (s.resolveMisses team)).dropOps team).dropCopies team true).dropRequests team).modTeam team Team.reclaimed) := by
  show execFutureReclaim team s = _
  simp [execFutureReclaim, ho, hst, hf, Team.stopAtOnce_reclaimable hr]
  rfl

/-- R375: an orphan whose gangs have stopped keeps its place, with every gang finished. -/
theorem futureReclaim_finishes {team : Nat} (ho : s.orphan (s.team team) = true) (hst : (s.team team).state = .placed)
    (hf : (s.team team).allFinished = false) (hr : (s.team team).gangs.all (fun p => p.2.reclaimable) = true) :
    ∃ u, exec (.futureReclaim team) s = .next u ∧ (u.team team).state = .placed ∧ (u.team team).allFinished = true ∧
      (u.team team).stopReq = none := by
  refine ⟨_, exec_futureReclaim_placed ho hst hf hr, ?_⟩
  have hlost := (State.Bides.refl s team).loseWork (t := team) (gs := (s.team team).gangs)
  rw [State.modTeam, State.team_setTeam]
  exact Team.reclaimed_finished (hlost.team.placed hst)

end

/-- Settles O50. Who comes to a place is fresh when it comes (`State.placeTeam_started`) and stays so while the rest of the group comes
and the next teams are queued (`State.Bides`); a team that ends, placed or in a record, is gone (`State.endTeam_gone`); a placed orphan
whose gangs have stopped loses its work and is finished (`futureReclaim_finishes`), so that it retires as any other. -/
theorem teamsArePlacedAndRetire : Obligations.TeamsArePlacedAndRetire := by
  refine ⟨fun s die team core ps hps hne hn hid => ?_, fun s team hst he => ⟨exec_teamRetire_flushes hst he,
    fun f hf hd hq hr hw => ⟨_, exec_teamRetire_ends hst he hf hd hq hr hw, State.endTeam_gone _ _ _⟩,
    fun f hf h => exec_teamRetire_waits hst he hf h⟩, fun s team ho => ⟨fun hst => ⟨_, exec_futureReclaim_record ho hst,
    State.endTeam_gone _ _ _⟩, futureReclaim_finishes ho⟩⟩
  obtain ⟨u, hu, hstart⟩ := teamPlacement_places hps hne hn hid
  refine ⟨u, hu, fun q hq => ?_⟩
  have h := hstart q hq
  exact ⟨h.state, h.core, h.length, fun g hg l hl => (h.fresh g hg).lanes l hl⟩

end Sys2Proof.Machine
end

section
/-! Floating words (R46, R47, R137 to R147, R149): what each writes in a lane with what flags, and the trap of an enabled condition. -/

namespace Sys2Proof.Machine

open Sys2Proof.Safety

/-! ### Flags (R46) -/

theorem Gang.orFstat_laneSame (G : Gang) (l j : Nat) (f : Flg) : LaneSame l G (G.orFstat j f) :=
  ⟨fun _ => rfl, fun _ => rfl, fun _ => rfl, rfl⟩

theorem Gang.orFstat_only (G : Gang) (d : Dest) (ls : List Nat) (l : Nat) (f : Flg) : OnlyWrites d ls true G (G.orFstat l f) :=
  ⟨fun _ _ _ _ => rfl, fun _ _ => rfl, fun _ _ _ => rfl, fun h => Bool.noConfusion h, fun _ h => h, rfl⟩

/-- R46: a lane writes its result and adds its flags. -/
def floatLane (comp : Gang → Nat → LaneEff) (G H : Gang) (l : Nat) : Gang := ((comp G l).1 H).orFstat l (comp G l).2

end Sys2Proof.Machine

namespace Sys2Proof.Safety

open Sys2Proof.Machine

/-! ### One lane -/

/-- What a floating word does in a lane is what its row of `floatSpec` says: it writes the value to the destination, a vector register, a
pair or a predicate, writes nothing else, and raises the flags. -/
structure FloatSpec.DoneBy (x : FloatSpec) (comp : Gang → Nat → LaneEff) : Prop where
  perLane : ∀ r, x.dest.isS r = false
  flags : ∀ G l, (comp G l).2 = x.flags G l
  holds : ∀ G H l, l < 64 → x.dest.holds ((comp G l).1 H) l (x.val G l)
  only : ∀ G H l, l < 64 → OnlyWrites x.dest [l] false H ((comp G l).1 H)

/-! ### All lanes -/

section
variable {x : FloatSpec} {comp : Gang → Nat → LaneEff} (hx : x.DoneBy comp)
include hx

theorem FloatSpec.DoneBy.lane_holds (G H : Gang) {l : Nat} (hl : l < 64) : x.dest.holds (floatLane comp G H l) l (x.val G l) :=
  Dest.holds_congr (Gang.orFstat_laneSame ..) (hx.holds G H l hl)

theorem FloatSpec.DoneBy.lane_only (G H : Gang) {l : Nat} (hl : l < 64) : OnlyWrites x.dest [l] true H (floatLane comp G H l) :=
  (hx.only G H l hl).flags.trans (Gang.orFstat_only ..)

theorem FloatSpec.DoneBy.lane_fstat (G H : Gang) {l : Nat} (hl : l < 64) :
    (floatLane comp G H l).readFstat l = H.readFstat l ||| x.flags G l ∧ ∀ j, j ≠ l → (floatLane comp G H l).readFstat j = H.readFstat j := by
  obtain ⟨-, -, -, hf, -, -⟩ := hx.only G H l hl
  have hsame : ∀ j, ((comp G l).1 H).readFstat j = H.readFstat j := fun j => congrArg (tget 0 · j) (hf rfl)
  refine ⟨?_, fun j hj => ?_⟩
  · rw [floatLane, Gang.orFstat, Gang.readFstat_writeFstat_same, hsame, hx.flags]
  · rw [floatLane, Gang.orFstat, Gang.readFstat_writeFstat_ne _ hj, hsame]

/-- R46: every lane of a list writes its result and adds its flags, each from what the registers held before the word. -/
theorem FloatSpec.DoneBy.lanes (G H : Gang) {ls : List Nat} (hn : ls.Nodup) (h64 : ∀ l ∈ ls, l < 64) :
    (∀ l ∈ ls, x.dest.holds (ls.foldl (floatLane comp G) H) l (x.val G l) ∧
      (ls.foldl (floatLane comp G) H).readFstat l = H.readFstat l ||| x.flags G l) ∧
    (∀ l, l ∉ ls → (ls.foldl (floatLane comp G) H).readFstat l = H.readFstat l) ∧
    OnlyWrites x.dest ls true H (ls.foldl (floatLane comp G) H) := by
  induction ls generalizing H with
  | nil => exact ⟨fun _ h => absurd h List.not_mem_nil, fun _ _ => rfl, .refl ..⟩
  | cons k ls ih =>
    obtain ⟨hk, hn⟩ := List.nodup_cons.mp hn
    have hk64 : k < 64 := h64 k List.mem_cons_self
    obtain ⟨hin, hout, honly⟩ := ih (floatLane comp G H k) hn (fun l hl => h64 l (List.mem_cons_of_mem k hl))
    obtain ⟨hself, hother⟩ := hx.lane_fstat G H hk64
    refine ⟨fun l hl => ?_, fun l hl => ?_, ((hx.lane_only G H hk64).mono (by simp)).trans (honly.mono (fun l => List.mem_cons_of_mem k))⟩
    · rcases List.mem_cons.mp hl with rfl | hl
      · exact ⟨Dest.holds_congr (honly.laneSame hk64 hk hx.perLane) (hx.lane_holds G H hk64), (hout l hk).trans hself⟩
      · obtain ⟨hval, hflags⟩ := hin l hl
        exact ⟨hval, by rw [List.foldl_cons, hflags, hother l (fun e => hk (e ▸ hl))]⟩
    · obtain ⟨hne, hl⟩ := not_or.mp (fun h => hl (List.mem_cons.mpr h))
      exact (hout l hl).trans (hother l hne)
end

end Sys2Proof.Safety

namespace Sys2Proof.Machine

open Sys2Proof.Safety

/-! ### Results -/

/-- A result written to a vector register or a pair. -/
theorem doneBy_writeRaw (d : BitVec 8) (wide : Bool) (val : Gang → Nat → W64) (flags : Gang → Nat → Flg) :
    FloatSpec.DoneBy ⟨.reg ⟨false, d⟩ wide, val, flags⟩ (fun G l => (fun H => H.writeRaw ⟨false, d⟩ wide l (val G l), flags G l)) where
  perLane _ := rfl
  flags _ _ := rfl
  holds _ H _ hl := H.writeRaw_holds _ wide hl _
  only _ H _ hl := H.writeRaw_only _ wide hl _

/-- A 32-bit result written to a vector register is the low half of the row's value. -/
theorem doneBy_writeV (d : BitVec 8) {val : Gang → Nat → W64} {flags : Gang → Nat → Flg} {v : Gang → Nat → W32}
    (hv : ∀ G l, (val G l).setWidth 32 = v G l) :
    FloatSpec.DoneBy ⟨.reg ⟨false, d⟩ false, val, flags⟩ (fun G l => (fun H => H.writeV l d.toNat (v G l), flags G l)) := by
  obtain rfl : (fun G l => (val G l).setWidth 32) = v := funext fun G => funext (hv G)
  exact doneBy_writeRaw d false val flags

/-- R111: an integer result of a type. -/
theorem doneBy_writeRes (d : BitVec 8) (t : ITy) (q : Gang → Nat → Int) (flags : Gang → Nat → Flg) :
    FloatSpec.DoneBy ⟨.reg ⟨false, d⟩ t.wide, fun G l => extendRes t (q G l), flags⟩
      (fun G l => (fun H => H.writeRes ⟨false, d⟩ t l (q G l), flags G l)) :=
  doneBy_writeRaw d t.wide _ flags

theorem doneBy_toV {d : BitVec 8} {f : Gang → Nat → Nat × Flg} {x : FloatSpec} (h : ofCode d f = some x) :
    FloatSpec.DoneBy x (fun G l => toV d l (f G l)) := by
  obtain rfl := Option.some.inj h
  exact doneBy_writeV d (fun _ _ => BitVec.setWidth_ofNat_of_le (by decide) _)

theorem doneBy_writeK {d : BitVec 8} (hd : d.toNat < 16) (bit : Gang → Nat → Bool) (flags : Gang → Nat → Flg) :
    FloatSpec.DoneBy ⟨.pred d, fun G l => (BitVec.ofBool (bit G l)).setWidth 64, flags⟩
      (fun G l => (fun H => H.writeK l d.toNat (bit G l), flags G l)) where
  perLane _ := rfl
  flags _ _ := rfl
  holds _ H l _ := H.writeK_holds d hd l _
  only _ H l _ := H.writeK_only d l _

/-! ### The rows -/

/-- R144: the integer that a lane of `f2i` gets, with its flags. -/
def f2iResult (src : FFmt) (rm : Rm) (a : Opd) (lo hi : Int) (G : Gang) (l : Nat) : Int × Flg :=
  toInteger (modeOf rm G.fmode) ((fmtOf src).value (laneCode src (G.read32 a l))) lo hi

theorem setWidth_ofInt (z : Int) : (BitVec.ofInt 64 z).setWidth 32 = BitVec.ofInt 32 z := by
  apply BitVec.eq_of_toNat_eq
  simp only [BitVec.toNat_setWidth, BitVec.toNat_ofInt]
  omega

/-- A word runs as its row of `floatSpec` says, under its own guard. -/
def RunsAs (i : Instr) (x : FloatSpec) : Prop :=
  ∃ g comp, i.grd = g ∧ (∀ s, exec i s = floatWord i g s comp) ∧ x.DoneBy comp

section
variable {i : Instr} {g : Grd} {d : BitVec 8} {x : FloatSpec}

theorem runsAs_toV {f : Gang → Nat → Nat × Flg} (h : floatSpec i = some x) (hs : floatSpec i = ofCode d f) (hg : i.grd = g)
    (he : ∀ s, exec i s = floatWord i g s (fun G l => toV d l (f G l))) : RunsAs i x :=
  ⟨g, _, hg, he, doneBy_toV (hs.symm.trans h)⟩

theorem runsAs_of {y : FloatSpec} {comp : Gang → Nat → LaneEff} (h : floatSpec i = some x) (hs : floatSpec i = some y)
    (hy : FloatSpec.DoneBy y comp) (hg : i.grd = g) (he : ∀ s, exec i s = floatWord i g s comp) : RunsAs i x :=
  ⟨g, comp, hg, he, Option.some.inj (hs.symm.trans h) ▸ hy⟩
end

/-- Every floating word runs as its row says. -/
theorem runsAs_of_floatSpec {i : Instr} {x : FloatSpec} (h : floatSpec i = some x) (hk : ∀ n, Ref.k n ∈ i.refs → n < 16) : RunsAs i x := by
  cases i with
  | fadd g rm d a b => exact runsAs_toV h rfl (fieldsOf_grd ..) (fun _ => rfl)
  | fsub g rm d a b => exact runsAs_toV h rfl (fieldsOf_grd ..) (fun _ => rfl)
  | fmul g rm d a b => exact runsAs_toV h rfl (fieldsOf_grd ..) (fun _ => rfl)
  | ffma g rm d a b c => exact runsAs_toV h rfl (fieldsOf_grd ..) (fun _ => rfl)
  | fmin g d a b => exact runsAs_toV h rfl (fieldsOf_grd ..) (fun _ => rfl)
  | fmax g d a b => exact runsAs_toV h rfl (fieldsOf_grd ..) (fun _ => rfl)
  | fcmp g cd d a b =>
    exact runsAs_of h rfl (doneBy_writeK (hk _ (List.mem_cons_self ..)) (fun G l => (fcmpF32 cd (code G a l) (code G b l)).1) _)
      (fieldsOf_grd ..) (fun _ => rfl)
  | fclass g d a =>
    exact runsAs_of h rfl (doneBy_writeV d (v := fun G l => fclassF32 (code G a l)) (fun _ _ => by simp)) (fieldsOf_grd ..) (fun _ => rfl)
  | frnd g rm d a => exact runsAs_toV h rfl (fieldsOf_grd ..) (fun _ => rfl)
  | fscale g rm d a b => exact runsAs_toV h rfl (fieldsOf_grd ..) (fun _ => rfl)
  | fgetexp g d a => exact runsAs_toV h rfl (fieldsOf_grd ..) (fun _ => rfl)
  | fcvt g kind rm inf d a => exact runsAs_toV h rfl (fieldsOf_grd ..) (fun _ => rfl)
  | f2i g src dst rm d a =>
    cases dst with
    | some t =>
      exact runsAs_of h rfl (doneBy_writeRes d t (fun G l => (f2iResult src rm a t.minVal t.maxVal G l).1) _) (fieldsOf_grd ..)
        (fun _ => rfl)
    | none =>
      exact runsAs_of h rfl (doneBy_writeV d (fun G l => setWidth_ofInt ((f2iResult src rm a (-7) 7 G l).1 % 16)))
        (fieldsOf_grd ..) (fun _ => rfl)
  | i2f g dst src rm d a =>
    cases src with
    | some t => exact runsAs_toV h rfl (fieldsOf_grd ..) (fun _ => rfl)
    | none => exact runsAs_toV h rfl (fieldsOf_grd ..) (fun _ => rfl)
  | hxadd g rm d a b => exact runsAs_toV h rfl (fieldsOf_grd ..) (fun _ => rfl)
  | hxmul g rm d a b => exact runsAs_toV h rfl (fieldsOf_grd ..) (fun _ => rfl)
  | hxfma g rm d a b c => exact runsAs_toV h rfl (fieldsOf_grd ..) (fun _ => rfl)
  | bxadd g rm d a b => exact runsAs_toV h rfl (fieldsOf_grd ..) (fun _ => rfl)
  | bxmul g rm d a b => exact runsAs_toV h rfl (fieldsOf_grd ..) (fun _ => rfl)
  | bxfma g rm d a b c => exact runsAs_toV h rfl (fieldsOf_grd ..) (fun _ => rfl)
  | fdp2 g b16 rm d a b c => exact runsAs_toV h rfl (fieldsOf_grd ..) (fun _ => rfl)
  | gpack g inf d a => exact runsAs_toV h rfl (fieldsOf_grd ..) (fun _ => rfl)
  | _ => cases h

/-! ### Enabled conditions (R47) -/

/-- The lanes of a list whose entry meets a test. -/
theorem map_fst_filter_pairs {α : Type} (ls : List Nat) (e : Nat → α) (p : α → Bool) :
    ((ls.map (fun l => (l, e l))).filter (fun q => p q.2)).map (·.1) = ls.filter (fun l => p (e l)) := by
  rw [List.filter_map, List.map_map]
  exact List.map_id _

theorem filter_ne_nil {ls : List Nat} {p : Nat → Bool} (h : ∃ l ∈ ls, p l = true) : ls.filter p ≠ [] := by
  obtain ⟨l, hl, hp⟩ := h
  exact List.ne_nil_of_mem (List.mem_filter.mpr ⟨hl, hp⟩)

section
variable {s : State} {i : Instr} {ls : List Nat} {comp : Gang → Nat → LaneEff}

/-- R46: no lane meets an enabled condition. -/
theorem State.floatEffects_writes (h : ∀ l ∈ ls, trapping s.curGang.fmode (comp s.curGang l).2 = false) :
    s.floatEffects i (ls.map (fun l => (l, comp s.curGang l))) =
      .next ((s.setCur (ls.foldl (floatLane comp s.curGang) s.curGang)).finish false) := by
  have hnone : ls.filter (fun l => trapping s.curGang.fmode (comp s.curGang l).2) = [] :=
    List.filter_eq_nil_iff.mpr (fun l hl => by simp [h l hl])
  unfold State.floatEffects
  dsimp only
  rw [map_fst_filter_pairs ls (comp s.curGang) (fun e => trapping s.curGang.fmode e.2), hnone, List.foldl_map]
  rfl

/-- R47: the lanes that meet an enabled condition trap, and nothing is written. -/
theorem State.floatEffects_traps (h : ∃ l ∈ ls, trapping s.curGang.fmode (comp s.curGang l).2 = true) :
    s.floatEffects i (ls.map (fun l => (l, comp s.curGang l))) =
      .next (s.trapRun (trapAll (ls.filter (fun l => trapping s.curGang.fmode (comp s.curGang l).2)) 9 0 i)) := by
  unfold State.floatEffects
  dsimp only
  rw [map_fst_filter_pairs ls (comp s.curGang) (fun e => trapping s.curGang.fmode e.2)]
  split
  · exact absurd ‹_› (filter_ne_nil h)
  · rfl
end

/-! ### Special functions (R147) -/

/-- Every special function is `specialWord` with what its row of `specialSpec` says, under its own guard. -/
theorem exec_specialSpec {i : Instr} {fn la : Nat} {d : BitVec 8} {a : Opd} {rm : Rm} (h : specialSpec i = some (fn, la, d, a, rm)) :
    ∃ w : BitVec 4, w.toNat = la ∧ ∃ g, i.grd = g ∧ ∀ s, exec i s = specialWord i fn g w rm d a s := by
  cases i with
  | frcp | frsq | fsqrt | fexp2 | flog2 | fsin | fcos | ftanh => cases h; exact ⟨_, rfl, _, fieldsOf_grd .., fun _ => rfl⟩
  | _ => cases h

theorem specialWord_traps {i : Instr} {fn : Nat} {g : Grd} {w : BitVec 4} {rm : Rm} {d : BitVec 8} {a : Opd} {s : State} (hc : s.clear i = true)
    (h : ∃ l ∈ s.active g, trapping s.curGang.fmode (specialF32 fn (modeOf rm s.curGang.fmode) (s.curGang.read32 a l)).2 = true) :
    specialWord i fn g w rm d a s = .next (s.trapRun (trapAll ((s.active g).filter (fun l =>
      trapping s.curGang.fmode (specialF32 fn (modeOf rm s.curGang.fmode) (s.curGang.read32 a l)).2)) 9 0 i)) := by
  rw [specialWord, runWord_clear hc]
  dsimp only
  rw [map_fst_filter_pairs (s.active g) (fun l => specialF32 fn (modeOf rm s.curGang.fmode) (s.curGang.read32 a l))
    (fun e => trapping s.curGang.fmode e.2)]
  split
  · exact absurd ‹_› (filter_ne_nil h)
  · rfl

/-! ### The obligation -/

theorem legal_pred {s : State} {i : Instr} (hc : s.clear i = true) : ∀ n, Ref.k n ∈ i.refs → n < 16 :=
  fun _ hn => of_decide_eq_true (legal_of_clear hc _ hn)

theorem exec_float_writes {i : Instr} {s : State} {x : FloatSpec} (h : floatSpec i = some x) (hc : s.clear i = true)
    (hq : ∀ l ∈ s.active i.grd, trapping s.curGang.fmode (x.flags s.curGang l) = false) :
    Writes s (exec i s) (fun H =>
      (∀ l ∈ s.active i.grd, x.dest.holds H l (x.val s.curGang l) ∧ H.readFstat l = s.curGang.readFstat l ||| x.flags s.curGang l) ∧
      (∀ l, l ∉ s.active i.grd → H.readFstat l = s.curGang.readFstat l) ∧ OnlyWrites x.dest (s.active i.grd) true s.curGang H) := by
  obtain ⟨g, comp, rfl, he, hx⟩ := runsAs_of_floatSpec h (legal_pred hc)
  refine ⟨_, ?_, hx.lanes s.curGang s.curGang (s.active_nodup _) (fun _ => State.active_lt)⟩
  rw [he, floatWord, runWord_clear hc]
  exact State.floatEffects_writes (fun l hl => by rw [hx.flags]; exact hq l hl)

theorem exec_float_traps {i : Instr} {s : State} {x : FloatSpec} (h : floatSpec i = some x) (hc : s.clear i = true)
    (hq : ∃ l ∈ s.active i.grd, trapping s.curGang.fmode (x.flags s.curGang l) = true) :
    exec i s = .next (s.trapRun (trapAll ((s.active i.grd).filter (fun l => trapping s.curGang.fmode (x.flags s.curGang l))) 9 0 i)) := by
  obtain ⟨g, comp, rfl, he, hx⟩ := runsAs_of_floatSpec h (legal_pred hc)
  simp only [← hx.flags] at hq ⊢
  rw [he, floatWord, runWord_clear hc]
  exact State.floatEffects_traps hq

/-- Settles O13. Every floating word runs as its row of `floatSpec` says (`runsAs_of_floatSpec`): where no lane meets an enabled condition,
its lanes write one after another and none undoes another's write (`FloatSpec.DoneBy.lanes`); otherwise the lanes that meet one trap. -/
theorem floatWordsWriteOrTrap : Obligations.FloatWordsWriteOrTrap := by
  refine ⟨fun i s x => exec_float_writes, fun i s x => exec_float_traps, fun i s fn la d a rm h hc hq => ?_⟩
  obtain ⟨w, -, g, rfl, he⟩ := exec_specialSpec h
  rw [he, specialWord_traps hc hq]

end Sys2Proof.Machine
end

section
/-! The matrix array (R60 to R62, R212, R213, R215, R216, R222, R223): k-blocks, self-tests and the end of an operation. -/

namespace Sys2Proof.Safety

open Sys2Proof.Machine

theorem OnlyTouches.refl (tv tk : Nat → Nat → Bool) (fl : Bool) (G : Gang) : OnlyTouches tv tk fl G G :=
  ⟨fun _ _ _ _ => rfl, fun _ => rfl, fun _ _ _ => rfl, fun _ => rfl, fun _ h => h, rfl⟩

theorem OnlyTouches.trans {tv tk : Nat → Nat → Bool} {fl : Bool} {G H K : Gang} (a : OnlyTouches tv tk fl G H)
    (b : OnlyTouches tv tk fl H K) : OnlyTouches tv tk fl G K := by
  obtain ⟨v, sc, k, f, bad, rest⟩ := a
  obtain ⟨v', sc', k', f', bad', rest'⟩ := b
  exact ⟨fun l hl r h => (v' l hl r h).trans (v l hl r h), fun r => (sc' r).trans (sc r), fun l n h => (k' l n h).trans (k l n h),
    fun h => (f' h).trans (f h), fun n h => bad n (bad' n h), rest.trans rest'⟩

end Sys2Proof.Safety

namespace Sys2Proof.Machine

open Sys2Proof.Safety

/-! ### k-blocks (R60 to R62, R212) -/

/-- A read of a table that lists a value for each key of a list. -/
theorem tget_map_keys {α : Type} (d : α) {f : Nat → α} {ks : List Nat} {k : Nat} (h : k ∈ ks) :
    tget d (ks.map (fun k => (k, f k))) k = f k := by
  unfold tget
  induction ks with
  | nil => exact absurd h List.not_mem_nil
  | cons j ks ih =>
    rw [List.map_cons, tfind]
    split
    · subst k; rfl
    · exact ih (List.mem_of_ne_of_mem ‹_› h)

theorem getD_upto_map {α : Type} (f : Nat → α) (d : α) {i n : Nat} (h : i < n) : ((upto n).map f).getD i d = f i := by
  simp [upto, h]

/-- R60 to R62: the element (i, j) of a chain after a k-block. -/
theorem tget_addBlock (skip : Bool) (as bs : List (List FVal × Nat)) (chain : Tbl W32) {i j : Nat} (hi : i < 32) (hj : j < 32) :
    tget 0 (addBlock skip as bs chain) (32 * i + j) = chainAdd (tget 0 chain (32 * i + j))
      (scaleBlock skip (blockSum ((as.getD i ([], 127)).1.zip (bs.getD j ([], 127)).1)) (as.getD i ([], 127)).2 (bs.getD j ([], 127)).2) := by
  have hcell : (32 * i + j) / 32 = i ∧ (32 * i + j) % 32 = j := by omega
  unfold addBlock
  refine (tget_map_keys 0 (List.mem_range.mpr (by omega))).trans ?_
  rw [hcell.1, hcell.2]

/-- R60 to R62: what the next k-block of an operation adds to the element (i, j). -/
def MatOp.blockValue (o : MatOp) (T : Team) (i j : Nat) : FVal :=
  let a := rowBlock (T.tile (o.slotTiles T).1) o.fmts.1 (fmtScale o.fmt) i (o.p % max 1 (o.kt T))
  let b := rowBlock (T.tile (o.slotTiles T).2) o.fmts.2 (fmtScale o.fmt) j (o.p % max 1 (o.kt T))
  scaleBlock (fmtSkip o.fmt) (blockSum (a.1.zip b.1)) a.2 b.2

/-- R212: a chain after the next k-block of an operation. -/
def MatOp.addTo (o : MatOp) (T : Team) (chain : Tbl W32) : Tbl W32 :=
  addBlock (fmtSkip o.fmt) ((upto 32).map (fun i => rowBlock (T.tile (o.slotTiles T).1) o.fmts.1 (fmtScale o.fmt) i (o.p % max 1 (o.kt T))))
    ((upto 32).map (fun j => rowBlock (T.tile (o.slotTiles T).2) o.fmts.2 (fmtScale o.fmt) j (o.p % max 1 (o.kt T)))) chain

theorem MatOp.tget_addTo (o : MatOp) (T : Team) (chain : Tbl W32) {i j : Nat} (hi : i < 32) (hj : j < 32) :
    tget 0 (o.addTo T chain) (32 * i + j) = chainAdd (tget 0 chain (32 * i + j)) (o.blockValue T i j) := by
  rw [MatOp.addTo, tget_addBlock _ _ _ _ hi hj, getD_upto_map _ _ hi, getD_upto_map _ _ hj]
  rfl

/-- R212: the even k-blocks go to one chain and the odd ones to the other. -/
theorem MatOp.runBlock_even {o : MatOp} (T : Team) (h : o.p % 2 = 0) : (o.runBlock T).e = o.addTo T o.e ∧ (o.runBlock T).o = o.o := by
  simp [MatOp.runBlock, MatOp.addTo, h]

theorem MatOp.runBlock_odd {o : MatOp} (T : Team) (h : o.p % 2 = 1) : (o.runBlock T).o = o.addTo T o.o ∧ (o.runBlock T).e = o.e := by
  simp [MatOp.runBlock, MatOp.addTo, h]

theorem MatOp.p_runBlock (o : MatOp) (T : Team) : (o.runBlock T).p = o.p + 1 := by
  unfold MatOp.runBlock
  dsimp only
  split <;> rfl

/-! ### The start of a k-block (R212, R213, R215) -/

theorem State.teams_chargeRaw (s : State) (core ctx u dom : Nat) : (s.chargeRaw core ctx u dom).teams = s.teams := by
  have hcharge : (s.chargeOnly core ctx u dom).teams = s.teams := by
    unfold State.chargeOnly
    split <;> rfl
  unfold State.chargeRaw State.wantGrant
  split
  · exact hcharge
  · exact hcharge

/-- R442: a charge changes no team. -/
theorem State.team_take {s s' : State} {core ctx u : Nat} {r : TakeRes} (h : s.take core ctx u = (s', r)) (t : Nat) : s'.team t = s.team t := by
  have hteams : (s.take core ctx u).1.teams = s.teams := by
    unfold State.take
    dsimp only
    split
    · split
      · rfl
      · split <;> rfl
    · exact s.teams_chargeRaw ..
  rw [h] at hteams
  exact congrArg (tget {} · t) hteams

theorem State.modTeam_congr {s : State} {t : Nat} {f g : Team → Team} (h : f (s.team t) = g (s.team t)) : s.modTeam t f = s.modTeam t g :=
  congrArg (s.setTeam t) h

section
variable {s s1 s2 : State} {core : Nat} {o q : MatOp} (ho : s.arrayHead core = some o) (hp : o.p < o.kb) (hr : o.ready (s.team o.team) = true)
  (ht : s.take core (s.team o.team).ctx (kBlockWeight s o.fmt) = (s1, .taken))
include ho hp hr ht

theorem exec_kBlockStart_single (hpair : o.pair = false) : exec (.kBlockStart core) s =
    .next ((s1.setHead core (o.runBlock (s.team o.team))).modTeam o.team (fun T => T.unready (o.releases (s.team o.team)))) := by
  have hteam : (s1.setHead core (o.runBlock (s.team o.team))).team o.team = s.team o.team := State.team_take ht o.team
  have hrun : exec (.kBlockStart core) s =
      .next ((s1.setHead core (o.runBlock (s.team o.team))).modTeam o.team (fun T => T.unready (o.releases T))) := by
    show execKBlockStart core s = _
    simp [execKBlockStart, ho, hpair, hr, ht, Nat.not_le.mpr hp]
  rw [hrun, State.modTeam_congr]
  rw [hteam]

theorem exec_kBlockStart_pair (hpair : o.pair = true) (hside : o.side = false) (hq : s.arrayHead (followerCore (s.team o.team)) = some q)
    (hid : q.id = o.id) (hqr : q.ready (s.team o.team) = true)
    (ht2 : s1.take (followerCore (s.team o.team)) (s.team o.team).ctx (kBlockWeight s o.fmt) = (s2, .taken)) :
    exec (.kBlockStart core) s = .next (((s2.setHead core (o.runBlock (s.team o.team))).setHead (followerCore (s.team o.team))
      (q.runBlock (s.team o.team))).modTeam o.team (fun T => T.unready (o.releases (s.team o.team) ++ q.releases (s.team o.team)))) := by
  have hteam : ((s2.setHead core (o.runBlock (s.team o.team))).setHead (followerCore (s.team o.team)) (q.runBlock (s.team o.team))).team o.team =
      s.team o.team := (State.team_take ht2 o.team).trans (State.team_take ht o.team)
  have hrun : exec (.kBlockStart core) s = .next (((s2.setHead core (o.runBlock (s.team o.team))).setHead (followerCore (s.team o.team))
      (q.runBlock (s.team o.team))).modTeam o.team (fun T => T.unready (o.releases T ++ q.releases T))) := by
    show execKBlockStart core s = _
    simp [execKBlockStart, ho, hpair, hside, hr, ht, ht2, hq, hid, hqr, Nat.not_le.mpr hp]
  rw [hrun, State.modTeam_congr]
  rw [hteam]
end

/-! ### The end of an operation (R212, R213) -/

section
variable {s : State} {core : Nat} {o q : MatOp} (ho : s.arrayHead core = some o) (hp : o.kb ≤ o.p) (hb : o.bad = false)
include ho hp hb

theorem exec_matrixRetire_single (hpair : o.pair = false) :
    exec (.matrixRetire core) s = .next ((s.dropOp o.id).endOp o.team o.gang o.id (some o) false) := by
  show execMatrixRetire core s = _
  simp [execMatrixRetire, ho, hpair, hb, Nat.not_lt.mpr hp]

theorem exec_matrixRetire_pair (hpair : o.pair = true) (hside : o.side = false) (hq : s.arrayHead (followerCore (s.team o.team)) = some q)
    (hqb : q.bad = false) : exec (.matrixRetire core) s =
      .next (((s.dropOp o.id).endOp o.team o.partner o.id (some q) false).endOp o.team o.gang o.id (some o) false) := by
  show execMatrixRetire core s = _
  simp [execMatrixRetire, ho, hpair, hside, hb, hq, hqb, Nat.not_lt.mpr hp]
end

/-! ### Accumulators (R200, R212, R216) -/

section
variable (G : Gang) (L : Launch) (c : Nat)

@[simp] theorem Gang.width_writeAcc (i j : Nat) (x : W32) : (G.writeAcc L c i j x).width = G.width := rfl

@[simp] theorem Gang.readAcc_writeAcc_same (i j : Nat) (x : W32) : (G.writeAcc L c i j x).readAcc L c i j = x := Gang.readV_writeV_same ..

/-- R200: the elements of an accumulator lie in different registers. -/
theorem Gang.readAcc_writeAcc_ne (hw : 0 < G.width) (h64 : G.width ≤ 64) {i j i' j' : Nat} (h : 32 * i' + j' ≠ 32 * i + j) (x : W32) :
    (G.writeAcc L c i j x).readAcc L c i' j' = G.readAcc L c i' j' := by
  have lane : ∀ k, k % G.width < 64 := fun k => Nat.lt_of_lt_of_le (Nat.mod_lt k hw) h64
  refine Gang.readV_writeV_ne _ (lane _) (lane _) (fun ⟨hl, hr⟩ => h ?_) x
  have hdiv : (32 * i' + j') / G.width = (32 * i + j) / G.width := Nat.add_left_cancel hr
  rw [← Nat.div_add_mod (32 * i' + j') G.width, hdiv, hl, Nat.div_add_mod]

/-- R200: the registers of an accumulator's block. -/
def accBlock (w r : Nat) : Bool := decide (accReg L w c 0 ≤ r ∧ r < accReg L w c 0 + accRegs w)

theorem Gang.writeAcc_only (hw : G.width ∈ [16, 32, 64]) {i j : Nat} (hk : 32 * i + j < 1024) (x : W32) :
    OnlyTouches (fun _ r => accBlock L c G.width r) (fun _ _ => false) false G (G.writeAcc L c i j x) := by
  have hreg : (32 * i + j) / G.width < accRegs G.width ∧ (32 * i + j) % G.width < 64 := by
    simp only [List.mem_cons, List.not_mem_nil, or_false] at hw
    rcases hw with hw | hw | hw <;> simp only [hw, accRegs] <;> omega
  refine ⟨fun l hl r hr => Gang.readV_writeV_ne _ hreg.2 hl (fun ⟨_, e⟩ => ?_) x, fun _ => rfl, fun _ _ _ => rfl, fun _ => rfl,
    Gang.writeV_bad_sub _ _ _ _, rfl⟩
  subst e
  exact of_decide_eq_false hr ⟨Nat.le_add_right _ _, Nat.add_lt_add_left hreg.1 _⟩

/-- An accumulator whose listed elements, numbered by row, have changed one after another, each by a function of its number. -/
def Gang.mapAcc (f : Nat → W32 → W32) (ks : List Nat) : Gang :=
  ks.foldl (fun G k => G.writeAcc L c (k / 32) (k % 32) (f k (G.readAcc L c (k / 32) (k % 32)))) G

theorem Gang.mapAcc_writes (hw : G.width ∈ [16, 32, 64]) (f : Nat → W32 → W32) {ks : List Nat} (hn : ks.Nodup) (h : ∀ k ∈ ks, k < 1024) :
    (∀ i j, j < 32 → (G.mapAcc L c f ks).readAcc L c i j =
      if 32 * i + j ∈ ks then f (32 * i + j) (G.readAcc L c i j) else G.readAcc L c i j) ∧
    OnlyTouches (fun _ r => accBlock L c G.width r) (fun _ _ => false) false G (G.mapAcc L c f ks) := by
  induction ks generalizing G with
  | nil => exact ⟨fun _ _ _ => by simp [Gang.mapAcc], .refl ..⟩
  | cons k ks ih =>
    obtain ⟨hk, hn⟩ := List.nodup_cons.mp hn
    have hcell : 32 * (k / 32) + k % 32 = k := Nat.div_add_mod k 32
    have hw0 : 0 < G.width ∧ G.width ≤ 64 := by
      simp only [List.mem_cons, List.not_mem_nil, or_false] at hw
      omega
    obtain ⟨hread, honly⟩ := ih (G.writeAcc L c (k / 32) (k % 32) (f k (G.readAcc L c (k / 32) (k % 32)))) hw hn
      (fun j hj => h j (List.mem_cons_of_mem k hj))
    refine ⟨fun i j hj => (hread i j hj).trans ?_,
      (G.writeAcc_only L c hw (hcell.symm ▸ h k List.mem_cons_self) _).trans honly⟩
    by_cases e : 32 * i + j = k
    · obtain ⟨rfl, rfl⟩ : k / 32 = i ∧ k % 32 = j := by omega
      simp [hcell, hk]
    · rw [Gang.readAcc_writeAcc_ne _ _ _ hw0.1 hw0.2 (by rwa [hcell])]
      simp [e]
end

theorem Gang.finaliseAcc_eq (G : Gang) (L : Launch) (o : MatOp) :
    G.finaliseAcc L o = G.mapAcc L o.acc (fun k x => finalise x (tget 0 o.e k) (tget 0 o.o k)) (upto 1024) := rfl

/-- R212, R216: an operation's chains added into its accumulator. -/
theorem Gang.finaliseAcc_adds (G : Gang) (L : Launch) (o : MatOp) (hw : G.width ∈ [16, 32, 64]) :
    (∀ i < 32, ∀ j < 32, (G.finaliseAcc L o).readAcc L o.acc i j =
      finalise (G.readAcc L o.acc i j) (tget 0 o.e (32 * i + j)) (tget 0 o.o (32 * i + j))) ∧
    OnlyTouches (fun _ r => accBlock L o.acc G.width r) (fun _ _ => false) false G (G.finaliseAcc L o) := by
  rw [Gang.finaliseAcc_eq]
  obtain ⟨hread, honly⟩ := G.mapAcc_writes L o.acc hw (fun k x => finalise x (tget 0 o.e k) (tget 0 o.o k)) List.nodup_range
    (fun k => List.mem_range.mp)
  exact ⟨fun i hi j hj => (hread i j hj).trans (if_pos (List.mem_range.mpr (by omega))), honly⟩

/-! ### Error records (R500) -/

theorem State.errorRecord_eq (s : State) (time source severity part ctx die unit addr count : Nat) : ∃ E F H M,
    s.errorRecord time source severity part ctx die unit addr count = { s with errRing := E, funcs := F, host := H, msgs := M } := by
  unfold State.errorRecord State.flushErr
  extract_lets bytes
  obtain ⟨H, hH⟩ := State.ringOut_eq { s with errRing := { s.errRing with waiting := s.errRing.waiting ++ [bytes] } } 0 32
    { s.errRing with waiting := s.errRing.waiting ++ [bytes] } (s.errRing.waiting ++ [bytes]).length
  split
  · rename_i s1 R heq
    obtain ⟨F, M, hsig⟩ := State.signal_eq { s1 with errRing := R } 0 1
    rw [heq] at hH
    dsimp only at hH
    rw [hsig, hH]
    exact ⟨R, F, H, M, rfl⟩
  · exact ⟨_, s.funcs, s.host, s.msgs, rfl⟩

section
variable (s : State) (source severity part ctx die unit addr : Nat)

theorem State.core_report (c : Nat) : (s.report source severity part ctx die unit addr).core c = s.core c := by
  obtain ⟨E, F, H, M, h⟩ := s.errorRecord_eq s.time source severity part ctx die unit addr (if severity = 1 then 1 else 0)
  rw [State.report, h]
  rfl

theorem State.mem_report : (s.report source severity part ctx die unit addr).mem = s.mem := by
  obtain ⟨E, F, H, M, h⟩ := s.errorRecord_eq s.time source severity part ctx die unit addr (if severity = 1 then 1 else 0)
  rw [State.report, h]
end

/-! ### A disabled array (R222) -/

/-- A core whose queue holds an operation no more. -/
def Core.dropOp (C : Core) (id : Nat) : Core := { C with matq := C.matq.filter (fun o => decide (o.id ≠ id)) }

theorem State.core_dropOp (s : State) (id c : Nat) : (s.dropOp id).core c = (s.core c).dropOp id :=
  tget_map (fun _ (C : Core) => C.dropOp id) s.cores c (d := {}) (e := {}) rfl

theorem State.cores_endOp (s : State) (t g id : Nat) (r : Option MatOp) (raise : Bool) : (s.endOp t g id r raise).cores = s.cores := by
  unfold State.endOp
  extract_lets T G G1
  split
  · rfl
  · split <;> rfl

/-- R222: a queued operation of a disabled array is dropped, and its gangs are told. -/
def State.dropFailed (s : State) (o : MatOp) : State :=
  let s1 := s.dropOp o.id
  (if o.pair then s1.endOp o.team o.partner o.id none false else s1).endOp o.team o.gang o.id none true

theorem State.disableArray_eq (s : State) (core : Nat) : s.disableArray core = ((s.core core).matq.filter (fun o => !o.ran)).foldl State.dropFailed
    (s.modCore core (fun C => { C with matOff := true, damaged := [], matq := C.matq.map (fun o => { o with bad := o.bad || o.ran }) })) := rfl

theorem State.core_dropFailed (s : State) (o : MatOp) (c : Nat) : (s.dropFailed o).core c = (s.core c).dropOp o.id := by
  rw [← State.core_dropOp]
  refine congrArg (tget {} · c) ((State.cores_endOp ..).trans ?_)
  split
  · exact State.cores_endOp ..
  · rfl

/-- What is left of a core when operations are dropped. -/
theorem State.core_foldl_dropFailed (s : State) (ops : List MatOp) (c : Nat) :
    ((ops.foldl State.dropFailed s).core c).matOff = (s.core c).matOff ∧
    ∀ q ∈ ((ops.foldl State.dropFailed s).core c).matq, q ∈ (s.core c).matq ∧ ∀ o ∈ ops, q.id ≠ o.id := by
  induction ops generalizing s with
  | nil => exact ⟨rfl, fun q hq => ⟨hq, fun o ho => absurd ho List.not_mem_nil⟩⟩
  | cons o ops ih =>
    obtain ⟨hoff, hleft⟩ := ih (s.dropFailed o)
    rw [State.core_dropFailed] at hoff hleft
    refine ⟨hoff, fun q hq => ?_⟩
    obtain ⟨hmem, hne⟩ := hleft q hq
    obtain ⟨hq, hid⟩ := List.mem_filter.mp hmem
    exact ⟨hq, List.forall_mem_cons.mpr ⟨of_decide_eq_true hid, hne⟩⟩

/-- R222: a disabled array keeps only the operation that runs, which will end unrecorded. -/
theorem State.core_disableArray (s : State) (core : Nat) : ((s.disableArray core).core core).matOff = true ∧
    ∀ q ∈ ((s.disableArray core).core core).matq, q.ran = true ∧ q.bad = true := by
  obtain ⟨hoff, hleft⟩ := State.core_foldl_dropFailed
    (s.modCore core (fun C => { C with matOff := true, damaged := [], matq := C.matq.map (fun o => { o with bad := o.bad || o.ran }) }))
    ((s.core core).matq.filter (fun o => !o.ran)) core
  rw [← State.disableArray_eq, State.core_modCore] at hoff hleft
  refine ⟨hoff, fun q hq => ?_⟩
  obtain ⟨hmem, hne⟩ := hleft q hq
  obtain ⟨o, ho, rfl⟩ := List.mem_map.mp hmem
  have hran : o.ran = true := by
    by_contra hr
    exact hne o (List.mem_filter.mpr ⟨ho, by simp [hr]⟩) rfl
  exact ⟨hran, by simp [hran]⟩

/-- R222: with an empty queue nothing is dropped. -/
theorem State.mem_disableArray {s : State} {core : Nat} (h : (s.core core).matq = []) : (s.disableArray core).mem = s.mem := by
  rw [State.disableArray_eq, h]
  rfl

/-! ### Self-tests (R222, R223) -/

section
variable {s : State} {core : Nat}

theorem State.selfTest_disabled (h : (s.core core).matOff = true) : s.selfTest core = (s, false) := by
  simp [State.selfTest, h]

theorem State.selfTest_sound (h : (s.core core).matOff = false) (hd : (s.core core).damaged = []) :
    s.selfTest core = (s.modCore core (fun C => { C with lastPass := s.time }), true) := by
  simp [State.selfTest, h, hd]

theorem State.selfTest_damaged {c : Nat} {more : List Nat} (h : (s.core core).matOff = false) (hd : (s.core core).damaged = c :: more) :
    s.selfTest core = (s.failColumn core c, false) := by
  simp [State.selfTest, h, hd]

theorem State.failColumn_spare (h : (s.core core).matOff = false) (hs : (s.core core).spare = none) (col : Nat) :
    ((s.failColumn core col).core core).spare = some col ∧ ((s.failColumn core col).core core).matOff = false ∧
      (s.failColumn core col).mem = s.mem := by
  unfold State.failColumn
  simp only [h, hs]
  rw [if_neg Bool.false_ne_true, State.core_report, State.mem_report, State.core_modCore]
  exact ⟨rfl, h, rfl⟩

theorem State.failColumn_disables {k : Nat} (h : (s.core core).matOff = false) (hs : (s.core core).spare = some k) (col : Nat) :
    ((s.failColumn core col).core core).matOff = true ∧
      (∀ o ∈ ((s.failColumn core col).core core).matq, o.ran = true ∧ o.bad = true) ∧
      ((s.core core).matq = [] → (s.failColumn core col).mem = s.mem) := by
  unfold State.failColumn
  simp only [h, hs]
  rw [if_neg Bool.false_ne_true, State.core_report, State.mem_report]
  obtain ⟨hoff, hops⟩ := s.core_disableArray core
  exact ⟨hoff, hops, State.mem_disableArray⟩
end

/-- R222, R223: a core before and after a self-test: a sound array and a disabled one stay as they are, the first damaged column
is replaced by the spare, and an array without a spare left is disabled. -/
def SelfTested (C D : Core) : Prop :=
  (C.matOff = true ∨ C.damaged = [] → D.spare = C.spare ∧ D.matOff = C.matOff) ∧
  (∀ c more, C.matOff = false → C.damaged = c :: more → C.spare = none → D.spare = some c ∧ D.matOff = false) ∧
  (∀ c more k, C.matOff = false → C.damaged = c :: more → C.spare = some k → D.matOff = true)

theorem State.selfTest_tested {s : State} {core : Nat} (hq : (s.core core).matq = []) : (s.selfTest core).1.mem = s.mem ∧
    (s.selfTest core).2 = decide ((s.core core).matOff = false ∧ (s.core core).damaged = []) ∧
    SelfTested (s.core core) ((s.selfTest core).1.core core) := by
  unfold SelfTested
  cases hoff : (s.core core).matOff with
  | true => rw [State.selfTest_disabled hoff]; simp [hoff]
  | false =>
    cases hdam : (s.core core).damaged with
    | nil => rw [State.selfTest_sound hoff hdam]; simp [State.modCore, hoff]
    | cons c more =>
      rw [State.selfTest_damaged hoff hdam]
      cases hsp : (s.core core).spare with
      | none =>
        obtain ⟨hspare, hon, hmem⟩ := State.failColumn_spare hoff hsp c
        simp [hspare, hon, hmem]
      | some k =>
        obtain ⟨hdis, -, hmem⟩ := State.failColumn_disables hoff hsp c
        simp [hdis, hmem hq]

/-- The end of a word leaves the scalar registers. -/
theorem Gang.s_countWindows (G : Gang) (run : List Nat) (e : Bool) : (G.countWindows run e).s = G.s :=
  List.foldlRecOn (motive := fun H : Gang => H.s = G.s) G.pend _ rfl (fun _ h p _ =>
    List.foldlRecOn (motive := fun H : Gang => H.s = G.s) (p.ending run e) _ h (fun _ h _ _ => h))

theorem Gang.s_eachLane_setPc (G : Gang) (run : List Nat) (f : Gang → Nat → W64) : (G.eachLane run (fun G l => G.setPc l (f G l))).s = G.s :=
  List.foldlRecOn (motive := fun H : Gang => H.s = G.s) run _ rfl (fun _ h _ _ => h)

theorem Gang.s_closeWord (G : Gang) (run : List Nat) (e : Bool) (f : Nat → W64) : (G.closeWord run e f).s = G.s := by
  unfold Gang.closeWord
  split
  · split
    · extract_lets G1
      split
      · exact Gang.s_countWindows ..
      · rfl
    · exact (Gang.s_countWindows ..).trans (Gang.s_eachLane_setPc _ _ _)
  · exact (Gang.s_countWindows ..).trans (Gang.s_eachLane_setPc _ _ _)

theorem State.readS_finish (s : State) (e : Bool) (n : Nat) : (s.finish e).curGang.readS n = s.curGang.readS n := by
  rw [State.finish_eq, State.curGang_setCur]
  exact congrArg (tget 0 · n) (Gang.s_closeWord ..)

theorem exec_atest {s : State} {g : Grd} {d : BitVec 8} (hc : s.clear (.atest g d) = true) (ha : s.active g ≠ [])
    (hq : (s.core s.curGang.core).matq = []) :
    exec (.atest g d) s = .next (((s.selfTest s.curGang.core).1.setCur ((s.selfTest s.curGang.core).1.curGang.writeS d.toNat
      (atestWord ((s.selfTest s.curGang.core).1.core s.curGang.core) (s.selfTest s.curGang.core).2))).finish false) := by
  show execAtest g d s = _
  rw [execAtest, runWord_clear hc]
  simp [ha, hq, State.next]

theorem exec_arraySelfTest {s : State} {core : Nat} (hr : ∀ o ∈ s.arrayHead core, o.ran = false ∨ o.kb ≤ o.p) :
    exec (.arraySelfTest core none) s = .next (s.selfTest core).1 ∧
    ∀ c < 32, exec (.arraySelfTest core (some c)) s = .next ((s.damage core c).selfTest core).1 := by
  have hidle : s.arrayRunning core = false := by
    unfold State.arrayRunning
    cases ho : s.arrayHead core with
    | none => rfl
    | some o => rcases hr o ho with h | h <;> simp [h]
  refine ⟨?_, fun c hc => ?_⟩
  · show execArraySelfTest core none s = _
    rw [execArraySelfTest, hidle]
    rfl
  · show execArraySelfTest core (some c) s = _
    rw [execArraySelfTest, hidle]
    simp [Nat.mod_eq_of_lt hc]

/-- R222: a self-test that meets a column that has just failed. -/
theorem State.selfTest_damage {s : State} {core c : Nat} (hoff : (s.core core).matOff = false) (hdam : (s.core core).damaged = [])
    (hs : (s.core core).spare ≠ some c) : ((s.damage core c).selfTest core).1 = (s.damage core c).failColumn core c ∧
    ((s.damage core c).core core).matOff = false ∧ ((s.damage core c).core core).spare = (s.core core).spare := by
  have hcore : (s.damage core c).core core = { s.core core with damaged := [c] } := by
    rw [State.damage, State.core_modCore]
    simp [hoff, hdam, hs]
  have hoff' : ((s.damage core c).core core).matOff = false := by rw [hcore]; exact hoff
  exact ⟨by rw [State.selfTest_damaged hoff' (by rw [hcore])], hoff', by rw [hcore]⟩

/-! ### The obligation -/

theorem runBlock_adds (o : MatOp) (T : Team) : (o.runBlock T).p = o.p + 1 ∧ ∀ i < 32, ∀ j < 32,
    (o.p % 2 = 0 → tget 0 (o.runBlock T).e (32 * i + j) = chainAdd (tget 0 o.e (32 * i + j)) (o.blockValue T i j) ∧ (o.runBlock T).o = o.o) ∧
    (o.p % 2 = 1 → tget 0 (o.runBlock T).o (32 * i + j) = chainAdd (tget 0 o.o (32 * i + j)) (o.blockValue T i j) ∧ (o.runBlock T).e = o.e) := by
  refine ⟨o.p_runBlock T, fun i hi j hj => ⟨fun h => ?_, fun h => ?_⟩⟩
  · obtain ⟨hchain, hother⟩ := MatOp.runBlock_even T h
    exact ⟨by rw [hchain, o.tget_addTo T _ hi hj], hother⟩
  · obtain ⟨hchain, hother⟩ := MatOp.runBlock_odd T h
    exact ⟨by rw [hchain, o.tget_addTo T _ hi hj], hother⟩

theorem atest_acts {s : State} {g : Grd} {d : BitVec 8} (hc : s.clear (.atest g d) = true) (ha : s.active g ≠ [])
    (hq : (s.core s.curGang.core).matq = []) :
    let C := s.core s.curGang.core
    ∃ t, exec (.atest g d) s = .next t ∧ t.mem = s.mem ∧
      (let D := t.core s.curGang.core
       t.curGang.readS d.toNat = BitVec.ofNat 64 ((D.spare.getD 0) * 256 + (if D.matOff then 4 else 0) +
         (if D.spare.isSome then 2 else 0) + (if C.matOff = false ∧ C.damaged = [] then 1 else 0)) ∧ SelfTested C D) := by
  obtain ⟨hmem, hpassed, htest⟩ := State.selfTest_tested hq
  refine ⟨_, exec_atest hc ha hq, hmem, ?_, htest⟩
  rw [State.readS_finish, State.curGang_setCur, Gang.readS_writeS_same, atestWord, hpassed]
  simp only [decide_eq_true_eq]
  rfl

theorem arraySelfTest_acts {s : State} {core : Nat} (hoff : (s.core core).matOff = false) (hdam : (s.core core).damaged = [])
    (hr : ∀ o ∈ s.arrayHead core, o.ran = false ∨ o.kb ≤ o.p) :
    exec (.arraySelfTest core none) s = .next (s.modCore core (fun C => { C with lastPass := s.time })) ∧
    ∀ c < 32,
      ((s.core core).spare = none →
        ∃ t, exec (.arraySelfTest core (some c)) s = .next t ∧ (t.core core).spare = some c ∧ (t.core core).matOff = false) ∧
      (∀ k, (s.core core).spare = some k → k ≠ c →
        ∃ t, exec (.arraySelfTest core (some c)) s = .next t ∧ (t.core core).matOff = true ∧
          ∀ o ∈ (t.core core).matq, o.ran = true ∧ o.bad = true) := by
  obtain ⟨hnone, hsome⟩ := exec_arraySelfTest hr
  refine ⟨by rw [hnone, State.selfTest_sound hoff hdam], fun c hc =>
    ⟨fun hsp => ⟨_, hsome c hc, ?_⟩, fun k hsp hk => ⟨_, hsome c hc, ?_⟩⟩⟩
  · obtain ⟨htest, hoff', hsp'⟩ := State.selfTest_damage (c := c) hoff hdam (by simp [hsp])
    obtain ⟨hspare, hon, -⟩ := State.failColumn_spare hoff' (hsp'.trans hsp) c
    rw [htest]
    exact ⟨hspare, hon⟩
  · obtain ⟨htest, hoff', hsp'⟩ := State.selfTest_damage (c := c) hoff hdam (by simp [hsp, hk])
    obtain ⟨hdis, hops, -⟩ := State.failColumn_disables hoff' (hsp'.trans hsp) c
    rw [htest]
    exact ⟨hdis, hops⟩

/-- Settles O31. A k-block lists its sum for every element (`tget_addBlock`), a charge leaves the teams (`State.team_take`), a disabled array
keeps only what runs (`State.core_disableArray`), and the elements of an accumulator lie in different registers (`Gang.mapAcc_writes`). That
k-blocks take KT from the present TCFG (notes/assumptions/50.md), that self-tests pass unless a column is damaged, and that an operation
with a damaged column ends unrecorded (notes/assumptions/34.md) are the model's choices. -/
theorem arraysRunTheirOldestOperation : Obligations.ArraysRunTheirOldestOperation := by
  refine ⟨runBlock_adds, ⟨fun s s1 core o ho hpair hp hr ht => exec_kBlockStart_single ho hp hr ht hpair,
    fun s s1 s2 core o q ho hpair hside hp hr hq hid hqr ht ht2 => exec_kBlockStart_pair ho hp hr ht hpair hside hq hid hqr ht2,
    fun g d s hc ha hq => atest_acts hc ha hq, fun s core hoff hdam hr => arraySelfTest_acts hoff hdam hr⟩,
    fun s core o ho hpair hp hb => exec_matrixRetire_single ho hp hb hpair,
    fun s core o q ho hpair hside hp hb hq hqb => exec_matrixRetire_pair ho hp hb hpair hside hq hqb,
    fun G L o hw => G.finaliseAcc_adds L o hw⟩

end Sys2Proof.Machine
end

section
/-! Instruction words (R66 to R79, R94, R95): the word of the instruction that a word decodes to is that word. The fields of a word that an
opcode's table accepts are those that the encoder writes for the instruction. -/

namespace Sys2Proof

/-! ### The fields of a word -/

/-- R69: a word without a guard has zeros for it. -/
def Fields.unguarded (f : Fields) : Prop := f.ge = false → f.gn = false ∧ f.kg = 0

theorem fieldsOf_eq {f : Fields} (hg : f.unguarded) {op : BitVec 7} {la : BitVec 4} {fn : BitVec 6} {d a b c m : BitVec 8}
    (h : f.op = op ∧ f.la = la ∧ f.fn = fn ∧ f.d = d ∧ f.a = a ∧ f.b = b ∧ f.c = c ∧ f.m = m) :
    fieldsOf op la f.grd fn d a b c m = f := by
  obtain ⟨op', la', ge, gn, kg, fn', d', a', b', c', m'⟩ := f
  obtain ⟨rfl, rfl, rfl, rfl, rfl, rfl, rfl, rfl⟩ := h
  cases ge
  · obtain ⟨rfl, rfl⟩ := hg rfl
    rfl
  · rfl

/-- R70: a byte is the mod byte of its parts. -/
@[simp] theorem eq_modByte (m : BitVec 8) (ds as bs cs mx : Bool) (ty : BitVec 3) :
    m = modByte ds as bs cs mx ty ↔
      m.getLsbD 7 = ds ∧ m.getLsbD 6 = as ∧ m.getLsbD 5 = bs ∧ m.getLsbD 4 = cs ∧ m.getLsbD 3 = mx ∧ m.extractLsb' 0 3 = ty := by
  constructor
  · rintro rfl
    simp
  · rintro ⟨rfl, rfl, rfl, rfl, rfl, rfl⟩
    revert m
    decide

theorem Fields.m_eq_zero (f : Fields) :
    f.m = 0#8 ↔ f.m.getLsbD 7 = false ∧ f.m.getLsbD 6 = false ∧ f.m.getLsbD 5 = false ∧ f.m.getLsbD 4 = false ∧
      f.m.getLsbD 3 = false ∧ f.m.extractLsb' 0 3 = 0#3 :=
  eq_modByte f.m false false false false false 0#3

/-! ### Codes: every value that a word accepts is the code of what it is read as -/

@[simp] theorem code_ityOf (x : BitVec 3) : (ityOf x.toNat).code = x := by revert x; decide
@[simp] theorem code_condOf : ∀ {x : BitVec 6}, x < 6#6 → (condOf x.toNat).code = x := by decide
@[simp] theorem code_condOf3 : ∀ {x : BitVec 3}, x < 6#3 → (condOf x.toNat).code.extractLsb' 0 3 = x := by decide
@[simp] theorem code_fcondOf : ∀ {x : BitVec 6}, x < 8#6 → (fcondOf x.toNat).code = x := by decide
@[simp] theorem code_rmOf : ∀ {x : BitVec 3}, x < 5#3 → (rmOf x.toNat).code = x := by decide
@[simp] theorem code_plopOf (x : BitVec 3) : (plopOf x.toNat).code = x := by revert x; decide
@[simp] theorem code_voteOf : ∀ {x : BitVec 3}, x < 3#3 → (voteOf x.toNat).code = x := by decide
@[simp] theorem code_shflOf : ∀ {x : BitVec 6}, x < 4#6 → (shflOf x.toNat).code = x := by decide
@[simp] theorem code_cvtOf : ∀ {x : BitVec 6}, x < 12#6 → (cvtOf x.toNat).code = x := by decide
@[simp] theorem code_ffmtOf : ∀ {x : BitVec 2}, x < 3#2 → (ffmtOf x.toNat).code = x := by decide
@[simp] theorem q4Code_ityOrQ4 : ∀ {x : BitVec 4}, x < 9#4 → q4Code (ityOrQ4 x) = x := by decide
@[simp] theorem code_scopeOf : ∀ {x : BitVec 3}, x < 6#3 → (scopeOf x.toNat).code = x := by decide
@[simp] theorem code_scopeOf6 : ∀ {x : BitVec 6}, x < 6#6 → 0#3 ++ (scopeOf x.toNat).code = x := by decide
@[simp] theorem code_spaceOf (x : BitVec 2) : (spaceOf x.toNat).code = x := by revert x; decide
@[simp] theorem code_sizeOf (x : BitVec 2) : (sizeOf' x.toNat).code = x := by revert x; decide
@[simp] theorem code_atomOf : ∀ {x : BitVec 4}, x < 10#4 → (atomOf x.toNat).code = x := by decide
@[simp] theorem code_atomOrdOf (x : BitVec 2) : (atomOrdOf x.toNat).code = x := by revert x; decide
@[simp] theorem code_accOf : ∀ {x : BitVec 6}, x < 6#6 → (accOf x.toNat).code = x := by decide
@[simp] theorem accOf_eq_addI64 : ∀ {x : BitVec 6}, x ≠ 2#6 → accOf x.toNat ≠ .addI64 := by decide
@[simp] theorem code_collOf : ∀ {x : BitVec 3}, x < 7#3 → (collOf x.toNat).code = x := by decide
@[simp] theorem code_dkOf : ∀ {x : BitVec 2}, x ≠ 3#2 → (dkOf x.toNat).code = x := by decide
@[simp] theorem code_ordOf : ∀ {x : BitVec 4}, (x = 0#4 ∨ x.extractLsb' 0 3 ≠ 0#3 ∧ x.extractLsb' 0 3 < 6#3) →
    (ordOf x).code = x := by decide
@[simp] theorem encodable_ordOf : ∀ {x : BitVec 4}, (x = 0#4 ∨ x.extractLsb' 0 3 ≠ 0#3 ∧ x.extractLsb' 0 3 < 6#3) →
    (ordOf x).encodable = true := by decide

/-! ### Parts of bytes and immediates -/

theorem eq_append_iff {m n : Nat} (x : BitVec (m + n)) (a : BitVec m) (b : BitVec n) :
    x = a ++ b ↔ x.extractLsb' n m = a ∧ x.extractLsb' 0 n = b := by
  constructor
  · rintro rfl
    exact ⟨BitVec.extractLsb'_append_eq_left, BitVec.extractLsb'_append_eq_right⟩
  · rintro ⟨rfl, rfl⟩
    rw [BitVec.extractLsb'_append_extractLsb'_eq_extractLsb' (by simp), BitVec.extractLsb'_eq_self]

@[simp] theorem imm32_bytes (a b c m : BitVec 8) :
    (a ++ b ++ c ++ m : BitVec 32).extractLsb' 24 8 = a ∧ (a ++ b ++ c ++ m : BitVec 32).extractLsb' 16 8 = b ∧
      (a ++ b ++ c ++ m : BitVec 32).extractLsb' 8 8 = c ∧ (a ++ b ++ c ++ m : BitVec 32).extractLsb' 0 8 = m := by
  refine ⟨?_, ?_, ?_, ?_⟩ <;>
    (apply BitVec.eq_of_getLsbD_eq; intro i hi
     simp only [BitVec.getLsbD_extractLsb', BitVec.getLsbD_append]; interval_cases i <;> simp)

@[simp] theorem imm24_bytes (b c m : BitVec 8) :
    (b ++ c ++ m : BitVec 24).extractLsb' 16 8 = b ∧ (b ++ c ++ m : BitVec 24).extractLsb' 8 8 = c ∧
      (b ++ c ++ m : BitVec 24).extractLsb' 0 8 = m := by
  refine ⟨?_, ?_, ?_⟩ <;>
    (apply BitVec.eq_of_getLsbD_eq; intro i hi
     simp only [BitVec.getLsbD_extractLsb', BitVec.getLsbD_append]; interval_cases i <;> simp)

theorem Fields.fn_eq_33 (f : Fields) (y z : BitVec 3) : f.fn = y ++ z ↔ f.fn.extractLsb' 3 3 = y ∧ f.fn.extractLsb' 0 3 = z :=
  eq_append_iff (m := 3) (n := 3) f.fn y z
theorem Fields.fn_eq_24 (f : Fields) (y : BitVec 2) (z : BitVec 4) : f.fn = y ++ z ↔ f.fn.extractLsb' 4 2 = y ∧ f.fn.extractLsb' 0 4 = z :=
  eq_append_iff (m := 2) (n := 4) f.fn y z


theorem mem_low (b c m : BitVec 8) : (b.extractLsb' 6 2 ++ b.extractLsb' 4 2 ++ (b.extractLsb' 0 4 ++ c ++ m) : BitVec 24) = b ++ c ++ m := by
  apply BitVec.eq_of_getLsbD_eq; intro i hi
  simp only [BitVec.getLsbD_extractLsb', BitVec.getLsbD_append]; interval_cases i <;> simp

@[simp] theorem scalar_bit : ∀ {x : BitVec 8}, x.extractLsb' 1 7 = 0#7 → 0#7 ++ BitVec.ofBool x[0] = x := by decide
@[simp] theorem mma_bits : ∀ {x : BitVec 8}, x.extractLsb' 3 5 = 0#5 → 0#5 ++ BitVec.ofBool x[2] ++ x.extractLsb' 0 2 = x := by decide
@[simp] theorem mmap_bits : ∀ {x : BitVec 8}, x.extractLsb' 4 4 = 0#4 →
    0#4 ++ BitVec.ofBool x[3] ++ BitVec.ofBool x[2] ++ x.extractLsb' 0 2 = x := by decide
@[simp] theorem tiles_bits : ∀ {x : BitVec 8}, x[3] = false → x[7] = false →
    0#1 ++ x.extractLsb' 4 3 ++ 0#1 ++ x.extractLsb' 0 3 = x := by decide
@[simp] theorem tldg_bits_bar : ∀ {x : BitVec 8}, x.extractLsb' 2 2 = 0#2 → x[1] = false →
    x.extractLsb' 4 4 ++ 0#2 ++ 0#1 ++ BitVec.ofBool x[0] = x := by decide
@[simp] theorem tldg_bits_none : ∀ {x : BitVec 8}, x.extractLsb' 2 2 = 0#2 → x[1] = true → x.extractLsb' 4 4 = 0#4 →
    1#7 ++ BitVec.ofBool x[0] = x := by decide
@[simp] theorem queue_bits : ∀ {x : BitVec 8}, x.extractLsb' 0 3 < 4#3 → 0#1 ++ x.extractLsb' 0 2 = x.extractLsb' 0 3 := by decide
@[simp] theorem dkOf_ne_pair : ∀ {x : BitVec 2}, x = 0#2 ∨ x = 2#2 → dkOf x.toNat ≠ .pair ∧ (dkOf x.toNat).code = x := by decide
/-- R270: the upper bytes of an immediate whose top twelve bits are zero. -/
theorem upper_bytes {x : BitVec 24} (h : x.extractLsb' 12 12 = 0#12) :
    x.extractLsb' 16 8 = 0#8 ∧ x.extractLsb' 8 8 = 0#4 ++ x.extractLsb' 10 2 ++ x.extractLsb' 8 2 := by
  have htop : x.extractLsb' 16 8 = (x.extractLsb' 12 12).extractLsb' 4 8 := by
    apply BitVec.eq_of_getLsbD_eq; intro k hk
    simp [hk, ← Nat.add_assoc, show 4 + k < 12 by omega]
  have hnib : x.extractLsb' 12 4 = (x.extractLsb' 12 12).extractLsb' 0 4 := by
    apply BitVec.eq_of_getLsbD_eq; intro k hk
    simp [hk, show k < 12 by omega]
  rw [h] at htop hnib
  refine ⟨htop, ?_⟩
  calc x.extractLsb' 8 8 = x.extractLsb' 12 4 ++ x.extractLsb' 10 2 ++ x.extractLsb' 8 2 := by
        rw [BitVec.extractLsb'_append_extractLsb'_eq_extractLsb' (by rfl), BitVec.extractLsb'_append_extractLsb'_eq_extractLsb' (by rfl)]
    _ = _ := by rw [hnib]; rfl
/-- R270: the class and the number of a system register. -/
theorem Fields.sys_parts {f : Fields} (h : f.imm24.extractLsb' 12 12 = 0) (hk : f.imm24.extractLsb' 10 2 ≠ 3) :
    f.b = 0 ∧ f.c = 0#4 ++ (dkOf (f.imm24.extractLsb' 10 2).toNat).code ++ (f.imm24.extractLsb' 0 10).extractLsb' 8 2 ∧
      f.m = (f.imm24.extractLsb' 0 10).extractLsb' 0 8 := by
  obtain ⟨hb, hc⟩ := upper_bytes h
  obtain ⟨eb, ec, em⟩ := imm24_bytes f.b f.c f.m
  have hnum : (f.imm24.extractLsb' 0 10).extractLsb' 8 2 = f.imm24.extractLsb' 8 2 := by
    apply BitVec.eq_of_getLsbD_eq; intro k hk
    simp [hk]
  have hlow : (f.imm24.extractLsb' 0 10).extractLsb' 0 8 = f.imm24.extractLsb' 0 8 := by
    apply BitVec.eq_of_getLsbD_eq; intro k hk
    simp [hk]
  rw [hnum, hlow, code_dkOf hk]
  exact ⟨eb.symm.trans hb, ec.symm.trans hc, em.symm⟩

theorem eq_zero_of_lt_two : ∀ {x : BitVec 6}, x < 2#6 → x ≠ 1#6 → x = 0#6 := by decide

/-! ### What a row of the opcode map accepts -/

/-- The instruction's word has these fields, and the word can hold it. -/
def Encodes (f : Fields) (i : Instr) : Prop :=
  encodeFields i = some f ∧ encodable i = true ∧ (memOf i).all (fun m => m.ord.encodable) = true

/-- A row of the opcode map: its checks make the fields those that the encoder writes. -/
theorem Encodes.row {f : Fields} (hg : f.unguarded) {ok : Bool} {i j : Instr} (h : word ok i = .ok j)
    {op : BitVec 7} {la : BitVec 4} {fn : BitVec 6} {d a b c m : BitVec 8}
    (hi : encodeFields i = some (fieldsOf op la f.grd fn d a b c m))
    (hf : ok = true → (f.op = op ∧ f.la = la ∧ f.fn = fn ∧ f.d = d ∧ f.a = a ∧ f.b = b ∧ f.c = c ∧ f.m = m) ∧
      encodable i = true ∧ (memOf i).all (fun m => m.ord.encodable) = true) : Encodes f j := by
  unfold word at h
  split at h
  · cases h
    obtain ⟨hfields, hok⟩ := hf ‹_›
    exact ⟨hi.trans (congrArg some (fieldsOf_eq hg hfields)), hok⟩
  · cases h

theorem eq_of_toNat {w : Nat} {x : BitVec w} {n : Nat} (h : x.toNat = n) : x = BitVec.ofNat w n := by
  subst h; simp

theorem toNat_eq_iff {w : Nat} (x : BitVec w) (n : Nat) : x.toNat = n ↔ n < 2 ^ w ∧ x = BitVec.ofNat w n := by
  constructor
  · rintro rfl
    exact ⟨x.isLt, by simp⟩
  · rintro ⟨hn, rfl⟩
    exact BitVec.toNat_ofNat .. ▸ Nat.mod_eq_of_lt hn

theorem Fields.rmOk_iff (f : Fields) : f.rmOk = true ↔ f.m.extractLsb' 0 3 < 5#3 := decide_eq_true_iff
theorem Fields.ty_lt (f : Fields) (n : BitVec 3) : decide (f.ty < n) = true ↔ f.m.extractLsb' 0 3 < n := decide_eq_true_iff


/-- R73: a memory word holds the parts of its operand. -/
theorem Fields.mem_parts {f : Fields} (h : f.osOk = true) :
    f.mem.ord.encodable = true ∧ f.fn = f.mem.fnBits ∧ f.b = f.mem.low.extractLsb' 16 8 ∧
      f.c = f.mem.low.extractLsb' 8 8 ∧ f.m = f.mem.low.extractLsb' 0 8 := by
  have hord : f.fn.extractLsb' 2 4 = 0#4 ∨ (f.fn.extractLsb' 2 4).extractLsb' 0 3 ≠ 0#3 ∧ (f.fn.extractLsb' 2 4).extractLsb' 0 3 < 6#3 := by
    revert h
    unfold Fields.osOk
    generalize f.fn = x
    revert x
    decide
  have hfn : ∀ x : BitVec 6, x = x.extractLsb' 2 4 ++ BitVec.ofBool (x.getLsbD 1) ++ BitVec.ofBool (x.getLsbD 0) := by decide
  have hlow : f.mem.low = f.b ++ f.c ++ f.m := by
    unfold Fields.mem MemOp.low
    simp only [code_sizeOf, code_spaceOf]
    exact mem_low f.b f.c f.m
  refine ⟨encodable_ordOf hord, ?_, ?_⟩
  · unfold Fields.mem MemOp.fnBits
    simp only [code_ordOf hord]
    exact hfn f.fn
  · rw [hlow]
    simp

/-- The row of a memory word. -/
theorem Encodes.row_mem {f : Fields} (hg : f.unguarded) {k : MemKind} {i j : Instr} (h : word (f.osOk && memOk k f.mem) i = .ok j)
    {op : BitVec 7} {la : BitVec 4}
    (hi : encodeFields i = some (fieldsOf op la f.grd f.mem.fnBits f.mem.d f.mem.base (f.mem.low.extractLsb' 16 8)
      (f.mem.low.extractLsb' 8 8) (f.mem.low.extractLsb' 0 8)))
    (hop : f.op = op) (hla : f.la = la) (he : encodable i = memOk k f.mem) (hm : memOf i = some f.mem) : Encodes f j := by
  refine .row hg h hi fun hok => ?_
  obtain ⟨hos, hmem⟩ := Bool.and_eq_true_iff.mp hok
  obtain ⟨hord, hfn, hlow⟩ := Fields.mem_parts hos
  exact ⟨⟨hop, hla, hfn, rfl, rfl, hlow⟩, he.trans hmem, by simpa [hm] using hord⟩


/-! ### The rows of the opcode map (R94) -/

section
variable {f : Fields} {i : Instr} (hg : f.unguarded)
include hg

theorem decOp01_encodes (ho : f.op = 0x01) (hl : f.la = 0) (h : decOp01 f = .ok i) : Encodes f i := by
  unfold decOp01 at h
  split at h
  · exact .row hg h rfl (by simp_all [encodable, memOf, toNat_eq_iff, Fields.m_eq_zero, -BitVec.extractLsb'_toNat])
  · cases h
theorem decOp02_encodes (ho : f.op = 0x02) (hl : f.la = 0) (h : decOp02 f = .ok i) : Encodes f i := by
  unfold decOp02 at h
  split at h
  · exact .row hg h rfl (by simp_all [encodable, memOf, toNat_eq_iff, -BitVec.extractLsb'_toNat])
  · cases h
theorem decOp03_encodes (ho : f.op = 0x03) (hl : f.la = 0) (h : decOp03 f = .ok i) : Encodes f i := by
  unfold decOp03 at h
  split at h
  · exact .row hg h rfl (by simp_all [encodable, memOf, toNat_eq_iff, -BitVec.extractLsb'_toNat])
  · cases h
theorem decOp04_encodes (ho : f.op = 0x04) (hl : f.la = 0) (h : decOp04 f = .ok i) : Encodes f i := by
  unfold decOp04 at h
  split at h
  · exact .row hg h rfl (by simp_all [encodable, memOf, toNat_eq_iff, -BitVec.extractLsb'_toNat])
  · cases h
theorem decOp05_encodes (ho : f.op = 0x05) (hl : f.la = 0) (h : decOp05 f = .ok i) : Encodes f i := by
  unfold decOp05 at h
  split at h
  · exact .row hg h rfl (by simp_all [encodable, memOf, toNat_eq_iff, -BitVec.extractLsb'_toNat])
  · cases h
theorem decOp06_encodes (ho : f.op = 0x06) (hl : f.la = 0) (h : decOp06 f = .ok i) : Encodes f i := by
  unfold decOp06 at h
  split at h
  · exact .row hg h rfl (by simp_all [encodable, memOf, toNat_eq_iff, Fields.m_eq_zero, -BitVec.extractLsb'_toNat])
  · cases h
theorem decOp07_encodes (ho : f.op = 0x07) (hl : f.la = 0) (h : decOp07 f = .ok i) : Encodes f i := by
  unfold decOp07 at h
  split at h
  · exact .row hg h rfl (by simp_all [encodable, memOf, toNat_eq_iff, Fields.m_eq_zero, -BitVec.extractLsb'_toNat])
  · cases h
theorem decOp08_encodes (ho : f.op = 0x08) (hl : f.la = 0) (h : decOp08 f = .ok i) : Encodes f i := by
  unfold decOp08 at h
  split at h
  · exact .row hg h rfl (by simp_all [encodable, memOf, toNat_eq_iff, Fields.m_eq_zero, -BitVec.extractLsb'_toNat])
  · cases h
theorem decOp09_encodes (ho : f.op = 0x09) (hl : f.la = 0) (h : decOp09 f = .ok i) : Encodes f i := by
  unfold decOp09 at h
  split at h
  · exact .row hg h rfl (by simp_all [encodable, memOf, toNat_eq_iff, Fields.m_eq_zero, -BitVec.extractLsb'_toNat])
  · cases h
theorem decOp0A_encodes (ho : f.op = 0x0A) (hl : f.la = 0) (h : decOp0A f = .ok i) : Encodes f i := by
  unfold decOp0A at h
  split at h
  · exact .row hg h rfl (by simp_all [encodable, memOf, toNat_eq_iff, Fields.m_eq_zero, -BitVec.extractLsb'_toNat])
  · cases h
theorem decOp0B_encodes (ho : f.op = 0x0B) (hl : f.la = 0) (h : decOp0B f = .ok i) : Encodes f i := by
  unfold decOp0B at h
  split at h
  · exact .row hg h rfl (by cases hx : f.mx <;> simp_all [encodable, memOf, toNat_eq_iff, -BitVec.extractLsb'_toNat])
  iterate 5 · exact .row hg h rfl (by simp_all [encodable, memOf, toNat_eq_iff, Fields.m_eq_zero, -BitVec.extractLsb'_toNat])
  · cases h
theorem decOp0D_encodes (ho : f.op = 0x0D) (hl : f.la = 0) (h : decOp0D f = .ok i) : Encodes f i := by
  unfold decOp0D at h
  split at h
  · exact .row hg h rfl (by simp_all [encodable, memOf, toNat_eq_iff, Fields.m_eq_zero, -BitVec.extractLsb'_toNat])
  · cases h
theorem decOp10_encodes (ho : f.op = 0x10) (hl : f.la = 0) (h : decOp10 f = .ok i) : Encodes f i := by
  unfold decOp10 at h
  split at h
  iterate 4 · exact .row hg h rfl (by simp_all [encodable, memOf, toNat_eq_iff, -BitVec.extractLsb'_toNat])
  · cases h
theorem decOp11_encodes (ho : f.op = 0x11) (hl : f.la = 0) (h : decOp11 f = .ok i) : Encodes f i := by
  unfold decOp11 at h
  split at h
  iterate 3 · exact .row hg h rfl (by simp_all [encodable, memOf, toNat_eq_iff, -BitVec.extractLsb'_toNat])
  · cases h
theorem decOp12_encodes (ho : f.op = 0x12) (hl : f.la = 0) (h : decOp12 f = .ok i) : Encodes f i := by
  unfold decOp12 at h
  split at h
  iterate 2 · exact .row hg h rfl (by simp_all [encodable, memOf, toNat_eq_iff, -BitVec.extractLsb'_toNat])
  · cases h
theorem decOp13_encodes (ho : f.op = 0x13) (hl : f.la = 0) (h : decOp13 f = .ok i) : Encodes f i := by
  unfold decOp13 at h
  split at h
  iterate 4 · exact .row hg h rfl (by simp_all [encodable, memOf, toNat_eq_iff, -BitVec.extractLsb'_toNat])
  · cases h
theorem decOp14_encodes (ho : f.op = 0x14) (hl : f.la = 0) (h : decOp14 f = .ok i) : Encodes f i := by
  unfold decOp14 at h
  split at h
  iterate 5 · exact .row hg h rfl (by simp_all [encodable, memOf, toNat_eq_iff, -BitVec.extractLsb'_toNat])
  · cases h
theorem decOp15_encodes (ho : f.op = 0x15) (hl : f.la = 0) (h : decOp15 f = .ok i) : Encodes f i := by
  unfold decOp15 at h
  split at h
  iterate 4 · exact .row hg h rfl (by simp_all [encodable, memOf, toNat_eq_iff, -BitVec.extractLsb'_toNat])
  · cases h
theorem decOp16_encodes (ho : f.op = 0x16) (hl : f.la = 0) (h : decOp16 f = .ok i) : Encodes f i := by
  unfold decOp16 at h
  split at h
  iterate 2 · exact .row hg h rfl (by simp_all [encodable, memOf, toNat_eq_iff, -BitVec.extractLsb'_toNat])
  · cases h
theorem decOp17_encodes (ho : f.op = 0x17) (hl : f.la = 0) (h : decOp17 f = .ok i) : Encodes f i := by
  unfold decOp17 at h
  split at h
  iterate 5 · exact .row hg h rfl (by simp_all [encodable, memOf, toNat_eq_iff, -BitVec.extractLsb'_toNat])
  · cases h
theorem decOp18_encodes (ho : f.op = 0x18) (hl : f.la = 0) (h : decOp18 f = .ok i) : Encodes f i := by
  unfold decOp18 at h
  split at h
  iterate 3 · exact .row hg h rfl (by simp_all [encodable, memOf, toNat_eq_iff, -BitVec.extractLsb'_toNat])
  · cases h
theorem decOp19_encodes (ho : f.op = 0x19) (hl : f.la = 0) (h : decOp19 f = .ok i) : Encodes f i := by
  unfold decOp19 at h
  exact .row hg h rfl (by by_cases hx : f.fn = 1 <;> simp_all [eq_zero_of_lt_two, encodable, memOf, -BitVec.extractLsb'_toNat])
theorem decOp1A_encodes (ho : f.op = 0x1A) (hl : f.la = 0) (h : decOp1A f = .ok i) : Encodes f i := by
  unfold decOp1A at h
  exact .row hg h rfl (by by_cases hx : f.fn = 1 <;> simp_all [eq_zero_of_lt_two, encodable, memOf, -BitVec.extractLsb'_toNat])
theorem decOp1B_encodes (ho : f.op = 0x1B) (hl : f.la = 0) (h : decOp1B f = .ok i) : Encodes f i := by
  unfold decOp1B at h
  exact .row hg h rfl (by simp_all [encodable, memOf, -BitVec.extractLsb'_toNat])
theorem decOp1C_encodes (ho : f.op = 0x1C) (hl : f.la = 0) (h : decOp1C f = .ok i) : Encodes f i := by
  unfold decOp1C at h
  split at h
  iterate 2 · exact .row hg h rfl (by simp_all [encodable, memOf, toNat_eq_iff, -BitVec.extractLsb'_toNat])
  · cases h
theorem decOp1D_encodes (ho : f.op = 0x1D) (hl : f.la = 0) (h : decOp1D f = .ok i) : Encodes f i := by
  unfold decOp1D at h
  split at h
  iterate 2
    · exact .row hg h rfl fun hok => by
        simp only [Bool.and_eq_true, decide_eq_true_eq] at hok
        simp_all [encodable, memOf, toNat_eq_iff, -BitVec.extractLsb'_toNat]
  · cases h
theorem decOp1E_encodes (ho : f.op = 0x1E) (hl : f.la = 0) (h : decOp1E f = .ok i) : Encodes f i := by
  unfold decOp1E at h
  exact .row hg h rfl (by cases hx : f.mx <;> simp_all [encodable, memOf, -BitVec.extractLsb'_toNat])
theorem decOp1F_encodes (ho : f.op = 0x1F) (hl : f.la = 0) (h : decOp1F f = .ok i) : Encodes f i := by
  unfold decOp1F at h
  split at h
  iterate 2 · exact .row hg h rfl (by by_cases ht : f.ty = 0 <;> simp_all [encodable, memOf, toNat_eq_iff, -BitVec.extractLsb'_toNat])
  · cases h
theorem decOp20_encodes (ho : f.op = 0x20) (hl : f.la = 0) (h : decOp20 f = .ok i) : Encodes f i := by
  unfold decOp20 at h
  split at h
  iterate 2 · exact .row hg h rfl (by simp_all [encodable, memOf, toNat_eq_iff, -BitVec.extractLsb'_toNat])
  · cases h
theorem decOp21_encodes (ho : f.op = 0x21) (hl : f.la = 0) (h : decOp21 f = .ok i) : Encodes f i := by
  unfold decOp21 at h
  split at h
  iterate 5 · exact .row hg h rfl (by simp_all [encodable, memOf, toNat_eq_iff, Fields.fn_eq_33, -BitVec.extractLsb'_toNat])
  · cases h
theorem decOp22_encodes (ho : f.op = 0x22) (hl : f.la = 0) (h : decOp22 f = .ok i) : Encodes f i := by
  unfold decOp22 at h
  split at h
  iterate 7 · exact .row hg h rfl (by simp_all [encodable, memOf, toNat_eq_iff, Fields.fn_eq_33, -BitVec.extractLsb'_toNat])
  · cases h
theorem decOp23_encodes (ho : f.op = 0x23) (hl : f.la = 0) (h : decOp23 f = .ok i) : Encodes f i := by
  unfold decOp23 at h
  exact .row hg h rfl (by simp_all [encodable, memOf, Fields.fn_eq_33, -BitVec.extractLsb'_toNat])
theorem decOp24_encodes (ho : f.op = 0x24) (hl : f.la = 0) (h : decOp24 f = .ok i) : Encodes f i := by
  unfold decOp24 at h
  split at h
  iterate 5 · exact .row hg h rfl (by simp_all [encodable, memOf, toNat_eq_iff, Fields.fn_eq_33, -BitVec.extractLsb'_toNat])
  · cases h
theorem decOp25_encodes (ho : f.op = 0x25) (hl : f.la = 0) (h : decOp25 f = .ok i) : Encodes f i := by
  unfold decOp25 at h
  split at h
  iterate 7 · exact .row hg h rfl (by simp_all [encodable, memOf, toNat_eq_iff, Fields.fn_eq_33, -BitVec.extractLsb'_toNat])
  · cases h
theorem decOp26_encodes (ho : f.op = 0x26) (hl : f.la = 0) (h : decOp26 f = .ok i) : Encodes f i := by
  unfold decOp26 at h
  exact .row hg h rfl (by simp_all [encodable, memOf, Fields.fn_eq_33, -BitVec.extractLsb'_toNat])
theorem decOp30_encodes (ho : f.op = 0x30) (hl : f.la = 0) (h : decOp30 f = .ok i) : Encodes f i := by
  unfold decOp30 at h
  split at h
  iterate 3
    · exact .row hg h rfl fun hok => by
        simp only [Fields.rmOk, Bool.and_eq_true, decide_eq_true_eq] at hok
        simp_all [encodable, memOf, toNat_eq_iff, -BitVec.extractLsb'_toNat]
  · cases h
theorem decOp31_encodes (ho : f.op = 0x31) (hl : f.la = 0) (h : decOp31 f = .ok i) : Encodes f i := by
  unfold decOp31 at h
  split at h
  · exact .row hg h rfl fun hok => by
      simp only [Fields.rmOk, Bool.and_eq_true, decide_eq_true_eq] at hok
      simp_all [encodable, memOf, toNat_eq_iff, -BitVec.extractLsb'_toNat]
  · cases h
theorem decOp32_encodes (ho : f.op = 0x32) (hl : f.la = 0) (h : decOp32 f = .ok i) : Encodes f i := by
  unfold decOp32 at h
  split at h
  iterate 2 · exact .row hg h rfl (by simp_all [encodable, memOf, toNat_eq_iff, -BitVec.extractLsb'_toNat])
  · cases h
theorem decOp33_encodes (ho : f.op = 0x33) (hl : f.la = 0) (h : decOp33 f = .ok i) : Encodes f i := by
  unfold decOp33 at h
  exact .row hg h rfl (by simp_all [encodable, memOf, -BitVec.extractLsb'_toNat])
theorem decOp34_encodes (ho : f.op = 0x34) (hl : f.la = 0) (h : decOp34 f = .ok i) : Encodes f i := by
  unfold decOp34 at h
  split at h
  · exact .row hg h rfl (by simp_all [encodable, memOf, toNat_eq_iff, -BitVec.extractLsb'_toNat])
  · cases h
theorem decOp35_encodes (ho : f.op = 0x35) (hl : f.la = 0) (h : decOp35 f = .ok i) : Encodes f i := by
  unfold decOp35 at h
  split at h
  · exact .row hg h rfl fun hok => by
      simp only [Fields.rmOk, Bool.and_eq_true, decide_eq_true_eq] at hok
      simp_all [encodable, memOf, toNat_eq_iff, -BitVec.extractLsb'_toNat]
  · cases h
theorem decOp36_encodes (ho : f.op = 0x36) (hl : f.la = 0) (h : decOp36 f = .ok i) : Encodes f i := by
  unfold decOp36 at h
  exact .row hg h rfl fun hok => by
    simp only [Fields.rmOk, Bool.and_eq_true, decide_eq_true_eq] at hok
    simp_all [encodable, memOf, -BitVec.extractLsb'_toNat]
theorem decOp37_encodes (ho : f.op = 0x37) (hl : f.la = 0) (h : decOp37 f = .ok i) : Encodes f i := by
  unfold decOp37 at h
  exact .row hg h rfl fun hok => by
    simp only [Fields.rmOk, Bool.and_eq_true, decide_eq_true_eq] at hok
    simp_all [encodable, memOf, Fields.fn_eq_24, -BitVec.extractLsb'_toNat]
theorem decOp38_encodes (ho : f.op = 0x38) (hl : f.la = 0) (h : decOp38 f = .ok i) : Encodes f i := by
  unfold decOp38 at h
  exact .row hg h rfl fun hok => by
    simp only [Fields.rmOk, Bool.and_eq_true, decide_eq_true_eq] at hok
    simp_all [encodable, memOf, Fields.fn_eq_24, -BitVec.extractLsb'_toNat]
theorem decOp39_encodes (ho : f.op = 0x39) (hl : f.la = 0) (h : decOp39 f = .ok i) : Encodes f i := by
  unfold decOp39 at h
  split at h
  iterate 3
    · exact .row hg h rfl fun hok => by
        simp only [Fields.rmOk, Bool.and_eq_true, decide_eq_true_eq] at hok
        simp_all [encodable, memOf, toNat_eq_iff, -BitVec.extractLsb'_toNat]
  · cases h
theorem decOp3A_encodes (ho : f.op = 0x3A) (hl : f.la = 0) (h : decOp3A f = .ok i) : Encodes f i := by
  unfold decOp3A at h
  split at h
  iterate 3
    · exact .row hg h rfl fun hok => by
        simp only [Fields.rmOk, Bool.and_eq_true, decide_eq_true_eq] at hok
        simp_all [encodable, memOf, toNat_eq_iff, -BitVec.extractLsb'_toNat]
  · cases h
theorem decOp3B_encodes (ho : f.op = 0x3B) (hl : f.la = 0) (h : decOp3B f = .ok i) : Encodes f i := by
  unfold decOp3B at h
  split at h
  · exact .row hg h rfl fun hok => by
      simp only [Fields.rmOk, Bool.and_eq_true, decide_eq_true_eq] at hok
      simp_all [encodable, memOf, toNat_eq_iff, -BitVec.extractLsb'_toNat]
  · cases h
theorem decOp3C_encodes (ho : f.op = 0x3C) (h : decOp3C f = .ok i) : Encodes f i := by
  unfold decOp3C at h
  split at h
  iterate 8
    · exact .row hg h rfl fun hok => by
        simp only [Fields.rmOk, Bool.and_eq_true, decide_eq_true_eq] at hok
        simp_all [encodable, memOf, toNat_eq_iff, -BitVec.extractLsb'_toNat]
  · cases h
theorem decOp3D_encodes (ho : f.op = 0x3D) (hl : f.la = 0) (h : decOp3D f = .ok i) : Encodes f i := by
  unfold decOp3D at h
  split at h
  iterate 2
    · exact .row hg h rfl fun hok => by
        simp only [Fields.rmOk, Bool.and_eq_true, decide_eq_true_eq] at hok
        simp_all [encodable, memOf, toNat_eq_iff, -BitVec.extractLsb'_toNat]
  · cases h
theorem decOp3E_encodes (ho : f.op = 0x3E) (hl : f.la = 0) (h : decOp3E f = .ok i) : Encodes f i := by
  unfold decOp3E at h
  split at h
  iterate 2 · exact .row hg h rfl (by simp_all [encodable, memOf, toNat_eq_iff, -BitVec.extractLsb'_toNat])
  · cases h
theorem decOp50_encodes (ho : f.op = 0x50) (h : decOp50 f = .ok i) : Encodes f i := 
  .row_mem hg h rfl ho rfl rfl rfl
theorem decOp51_encodes (ho : f.op = 0x51) (hl : f.la = 0) (h : decOp51 f = .ok i) : Encodes f i := 
  .row_mem hg h rfl ho hl rfl rfl
theorem decOp52_encodes (ho : f.op = 0x52) (h : decOp52 f = .ok i) : Encodes f i := 
  .row_mem hg h rfl ho rfl rfl rfl
theorem decOp53_encodes (ho : f.op = 0x53) (hl : f.la = 0) (h : decOp53 f = .ok i) : Encodes f i := 
  .row_mem hg h rfl ho hl rfl rfl
theorem decOp54_encodes (ho : f.op = 0x54) (h : decOp54 f = .ok i) : Encodes f i := 
  .row_mem hg h rfl ho rfl rfl rfl
theorem decOp55_encodes (ho : f.op = 0x55) (hl : f.la = 0) (h : decOp55 f = .ok i) : Encodes f i := 
  .row_mem hg h rfl ho hl rfl rfl
theorem decOp56_encodes (ho : f.op = 0x56) (h : decOp56 f = .ok i) : Encodes f i := 
  .row_mem hg h rfl ho rfl rfl rfl
theorem decOp57_encodes (ho : f.op = 0x57) (hl : f.la = 0) (h : decOp57 f = .ok i) : Encodes f i := 
  .row_mem hg h rfl ho hl rfl rfl
theorem decOp58_encodes (ho : f.op = 0x58) (hl : f.la = 0) (h : decOp58 f = .ok i) : Encodes f i := 
  .row_mem hg h rfl ho hl rfl rfl
theorem decOp59_encodes (ho : f.op = 0x59) (h : decOp59 f = .ok i) : Encodes f i := 
  .row_mem hg h rfl ho rfl rfl rfl
theorem decOp5A_encodes (ho : f.op = 0x5A) (h : decOp5A f = .ok i) : Encodes f i := 
  .row_mem hg h rfl ho rfl rfl rfl
theorem decOp5B_encodes (ho : f.op = 0x5B) (h : decOp5B f = .ok i) : Encodes f i := 
  .row_mem hg h rfl ho rfl rfl rfl
theorem decOp5C_encodes (ho : f.op = 0x5C) (hl : f.la = 0) (h : decOp5C f = .ok i) : Encodes f i := by
  unfold decOp5C at h
  split at h
  iterate 4 · exact .row hg h rfl (by cases hx : f.mx <;> simp_all [encodable, memOf, toNat_eq_iff, Fields.m_eq_zero, -BitVec.extractLsb'_toNat])
  · cases h
theorem decOp5D_encodes (ho : f.op = 0x5D) (hl : f.la = 0) (h : decOp5D f = .ok i) : Encodes f i := by
  unfold decOp5D at h
  split at h
  iterate 2 · exact .row hg h rfl (by by_cases ht : f.ty = 7 <;> simp_all [encodable, memOf, toNat_eq_iff, -BitVec.extractLsb'_toNat])
  · cases h
theorem decOp5E_encodes (ho : f.op = 0x5E) (hl : f.la = 0) (h : decOp5E f = .ok i) : Encodes f i := by
  unfold decOp5E at h
  exact .row hg h rfl (by simp_all [encodable, memOf, Fields.m_eq_zero, -BitVec.extractLsb'_toNat])
theorem decOp5F_encodes (ho : f.op = 0x5F) (h : decOp5F f = .ok i) : Encodes f i := by
  unfold decOp5F at h
  exact .row hg h rfl fun hok => by
    simp only [Bool.and_eq_true, decide_eq_true_eq] at hok
    simp_all [encodable, memOf, Fields.fn_eq_24, -BitVec.extractLsb'_toNat]
theorem decOp60_encodes (ho : f.op = 0x60) (h : decOp60 f = .ok i) : Encodes f i := by
  unfold decOp60 at h
  exact .row hg h rfl fun hok => by
    simp only [Bool.and_eq_true, decide_eq_true_eq] at hok
    simp_all [encodable, memOf, Fields.fn_eq_24, -BitVec.extractLsb'_toNat]
theorem decOp61_encodes (ho : f.op = 0x61) (hl : f.la = 0) (h : decOp61 f = .ok i) : Encodes f i := by
  unfold decOp61 at h
  split at h
  iterate 3
    · exact .row hg h rfl fun hok => by
        simp only [Bool.and_eq_true, decide_eq_true_eq] at hok
        cases hx : f.mx <;> simp_all [encodable, memOf, toNat_eq_iff, -BitVec.extractLsb'_toNat]
  · cases h
theorem decOp62_encodes (ho : f.op = 0x62) (hl : f.la = 0) (h : decOp62 f = .ok i) : Encodes f i := by
  unfold decOp62 at h
  split at h
  iterate 2
    · exact .row hg h rfl fun hok => by
        simp only [Bool.and_eq_true, decide_eq_true_eq] at hok
        cases hx : f.mx <;> simp_all [encodable, memOf, toNat_eq_iff, -BitVec.extractLsb'_toNat]
  · cases h
theorem decOp63_encodes (ho : f.op = 0x63) (hl : f.la = 0) (h : decOp63 f = .ok i) : Encodes f i := by
  unfold decOp63 at h
  split at h
  iterate 2 · exact .row hg h rfl (by simp_all [encodable, memOf, toNat_eq_iff, -BitVec.extractLsb'_toNat])
  · cases h
theorem decOp68_encodes (ho : f.op = 0x68) (hl : f.la = 0) (h : decOp68 f = .ok i) : Encodes f i := by
  unfold decOp68 at h
  split at h
  · exact .row hg h rfl (by simp_all [encodable, memOf, toNat_eq_iff, Fields.m_eq_zero, -BitVec.extractLsb'_toNat])
  · cases h
theorem decOp69_encodes (ho : f.op = 0x69) (h : decOp69 f = .ok i) : Encodes f i := by
  unfold decOp69 at h
  split at h
  · exact .row hg h rfl (by simp_all [encodable, memOf, toNat_eq_iff, -BitVec.extractLsb'_toNat])
  · cases h
theorem decOp6A_encodes (ho : f.op = 0x6A) (h : decOp6A f = .ok i) : Encodes f i := by
  unfold decOp6A at h
  split at h
  · exact .row hg h rfl (by cases hx : f.m1 <;> simp_all [encodable, memOf, toNat_eq_iff, -BitVec.extractLsb'_toNat])
  · cases h
theorem decOp6B_encodes (ho : f.op = 0x6B) (hl : f.la = 0) (h : decOp6B f = .ok i) : Encodes f i := by
  unfold decOp6B at h
  split at h
  · exact .row hg h rfl (by simp_all [encodable, memOf, toNat_eq_iff, -BitVec.extractLsb'_toNat])
  · cases h
theorem decOp6C_encodes (ho : f.op = 0x6C) (hl : f.la = 0) (h : decOp6C f = .ok i) : Encodes f i := by
  unfold decOp6C at h
  split at h
  iterate 2 · exact .row hg h rfl (by simp_all [encodable, memOf, toNat_eq_iff, Fields.m_eq_zero, -BitVec.extractLsb'_toNat])
  · cases h
theorem decOp6D_encodes (ho : f.op = 0x6D) (h : decOp6D f = .ok i) : Encodes f i := by
  unfold decOp6D at h
  split at h
  iterate 3 · exact .row hg h rfl (by simp_all [encodable, memOf, toNat_eq_iff, Fields.m_eq_zero, -BitVec.extractLsb'_toNat])
  · cases h
theorem decOp6E_encodes (ho : f.op = 0x6E) (hl : f.la = 0) (h : decOp6E f = .ok i) : Encodes f i := by
  unfold decOp6E at h
  split at h
  · exact .row hg h rfl (by simp_all [encodable, memOf, toNat_eq_iff, Fields.m_eq_zero, -BitVec.extractLsb'_toNat])
  · split at h <;> exact .row hg h rfl (by simp_all [encodable, memOf, toNat_eq_iff, Fields.m_eq_zero, -BitVec.extractLsb'_toNat])
  · exact .row hg h rfl (by simp_all [encodable, memOf, toNat_eq_iff, Fields.m_eq_zero, -BitVec.extractLsb'_toNat])
  · cases h
theorem decOp6F_encodes (ho : f.op = 0x6F) (hl : f.la = 0) (h : decOp6F f = .ok i) : Encodes f i := by
  unfold decOp6F at h
  split at h
  · exact .row hg h rfl (by simp_all [encodable, memOf, toNat_eq_iff, Fields.m_eq_zero, -BitVec.extractLsb'_toNat])
  · cases h
theorem decOp70_encodes (ho : f.op = 0x70) (hl : f.la = 0) (h : decOp70 f = .ok i) : Encodes f i := 
  .row_mem hg h rfl ho hl rfl rfl
theorem decOp71_encodes (ho : f.op = 0x71) (hl : f.la = 0) (h : decOp71 f = .ok i) : Encodes f i := by
  unfold decOp71 at h
  split at h
  · exact .row hg h rfl (by simp_all [encodable, memOf, toNat_eq_iff, Fields.m_eq_zero, -BitVec.extractLsb'_toNat])
  · cases h
theorem decOp72_encodes (ho : f.op = 0x72) (hl : f.la = 0) (h : decOp72 f = .ok i) : Encodes f i := by
  unfold decOp72 at h
  split at h
  · exact .row hg h rfl (by simp_all [encodable, memOf, toNat_eq_iff, Fields.m_eq_zero, -BitVec.extractLsb'_toNat])
  · cases h
theorem decOp73_encodes (ho : f.op = 0x73) (hl : f.la = 0) (h : decOp73 f = .ok i) : Encodes f i := by
  unfold decOp73 at h
  split at h
  · exact .row hg h rfl (by simp_all [encodable, memOf, toNat_eq_iff, -BitVec.extractLsb'_toNat])
  · cases h
theorem decOp74_encodes (ho : f.op = 0x74) (hl : f.la = 0) (h : decOp74 f = .ok i) : Encodes f i := by
  unfold decOp74 at h
  exact .row hg h rfl (by simp_all [encodable, memOf, -BitVec.extractLsb'_toNat])
theorem decOp75_encodes (ho : f.op = 0x75) (hl : f.la = 0) (h : decOp75 f = .ok i) : Encodes f i := by
  unfold decOp75 at h
  exact .row hg h rfl (by simp_all [encodable, memOf, -BitVec.extractLsb'_toNat])
theorem decOp76_encodes (ho : f.op = 0x76) (hl : f.la = 0) (h : decOp76 f = .ok i) : Encodes f i := by
  unfold decOp76 at h
  exact .row hg h rfl (by simp_all [encodable, memOf, Fields.m_eq_zero, -BitVec.extractLsb'_toNat])
theorem decOp77_encodes (ho : f.op = 0x77) (h : decOp77 f = .ok i) : Encodes f i := by
  unfold decOp77 at h
  split at h
  · exact .row hg h rfl (by simp_all [encodable, memOf, toNat_eq_iff, -BitVec.extractLsb'_toNat])
  · cases h
theorem decOp78_encodes (ho : f.op = 0x78) (hl : f.la = 0) (h : decOp78 f = .ok i) : Encodes f i := by
  unfold decOp78 at h
  split at h
  · exact .row hg h rfl (by by_cases hc : f.c = 0 <;> simp_all [encodable, memOf, toNat_eq_iff, -BitVec.extractLsb'_toNat])
  · cases h
theorem decOp79_encodes (ho : f.op = 0x79) (hl : f.la = 0) (h : decOp79 f = .ok i) : Encodes f i := by
  unfold decOp79 at h
  split at h
  iterate 4 · exact .row hg h rfl (by simp_all [encodable, memOf, toNat_eq_iff, Fields.m_eq_zero, -BitVec.extractLsb'_toNat])
  · cases h
theorem decOp7A_encodes (ho : f.op = 0x7A) (hl : f.fn = 0 ∨ f.la = 0) (h : decOp7A f = .ok i) : Encodes f i := by
  unfold decOp7A at h
  split at h
  iterate 2 · exact .row hg h rfl (by by_cases hc : f.c = 0 <;> simp_all [encodable, memOf, toNat_eq_iff, Fields.m_eq_zero, -BitVec.extractLsb'_toNat])
  · cases h
theorem decOp7B_encodes (ho : f.op = 0x7B) (hl : f.la = 0) (h : decOp7B f = .ok i) : Encodes f i := by
  unfold decOp7B at h
  split at h
  iterate 3 · exact .row hg h rfl (by by_cases hc : f.c = 0 <;> simp_all [encodable, memOf, toNat_eq_iff, -BitVec.extractLsb'_toNat])
  · cases h
theorem decOp7C_encodes (ho : f.op = 0x7C) (hl : f.la = 0) (h : decOp7C f = .ok i) : Encodes f i := by
  unfold decOp7C at h
  split at h
  iterate 7
    · exact .row hg h rfl fun hok => by
        simp only [Bool.and_eq_true, decide_eq_true_eq] at hok
        simp_all [encodable, memOf, toNat_eq_iff, -BitVec.extractLsb'_toNat]
  · cases h
theorem decOp7D_encodes (ho : f.op = 0x7D) (hl : f.la = 0) (h : decOp7D f = .ok i) : Encodes f i := by
  unfold decOp7D at h
  split at h
  iterate 3 · exact .row hg h rfl (by simp_all [encodable, memOf, toNat_eq_iff, Fields.m_eq_zero, -BitVec.extractLsb'_toNat])
  · next hn =>
    refine .row hg h rfl fun hok => ?_
    simp only [Bool.and_eq_true, beq_iff_eq, bne_iff_ne] at hok
    obtain ⟨⟨ha, htop⟩, hk⟩ := hok
    exact ⟨⟨ho, hl, eq_of_toNat hn, rfl, ha, Fields.sys_parts htop hk⟩, rfl, rfl⟩
  · next hn =>
    refine .row hg h rfl fun hok => ?_
    simp only [Bool.and_eq_true, Bool.or_eq_true, beq_iff_eq] at hok
    obtain ⟨⟨hd, htop⟩, hk⟩ := hok
    exact ⟨⟨ho, hl, eq_of_toNat hn, hd, rfl, Fields.sys_parts htop (by rcases hk with hk | hk <;> rw [hk] <;> decide)⟩,
      bne_iff_ne.mpr (dkOf_ne_pair hk).1, rfl⟩
  iterate 2 · exact .row hg h rfl (by simp_all [encodable, memOf, toNat_eq_iff, -BitVec.extractLsb'_toNat])
  · cases h

end

/-! ### Every single-form word (R66, R68, R69, R82) -/

/-- The instruction's word is that of these fields, and the word can hold it. -/
def Reads (f : Fields) (i : Instr) : Prop :=
  encode i = some (joinWord f) ∧ encodable i = true ∧ (memOf i).all (fun m => m.ord.encodable) = true

theorem Encodes.reads {f : Fields} {i : Instr} (h : Encodes f i) : Reads f i := by
  obtain ⟨hi, hok⟩ := h
  refine ⟨?_, hok⟩
  unfold encode
  split
  · cases hi
  · cases hi
  · rw [hi]; rfl

/-- R87: a `rep` word. -/
theorem decOp0C_reads {f : Fields} {i : Instr} (hg : f.unguarded) (ho : f.op = 0x0C) (hl : f.la = 0) (h : decOp0C f = .ok i) : Reads f i := by
  unfold decOp0C at h
  split at h
  · next hn =>
    unfold word at h
    split at h
    · next hok =>
      cases h
      simp only [Bool.and_eq_true, beq_iff_eq, Bool.not_eq_true'] at hok
      obtain ⟨⟨⟨⟨hge, hd⟩, ha⟩, hb⟩, hc⟩ := hok
      have hgrd : f.grd = none := by simp [Fields.grd, hge]
      have hcnt : ∀ x : BitVec 8, x.extractLsb' 6 2 = 0 → x = 0#2 ++ x.extractLsb' 0 6 := by decide
      have hsteps : ∀ x : BitVec 8, x = x.extractLsb' 6 2 ++ x.extractLsb' 4 2 ++ x.extractLsb' 2 2 ++ x.extractLsb' 0 2 := by decide
      have hf := fieldsOf_eq hg ⟨ho, hl, eq_of_toNat hn, hd, ha, hb, hcnt _ hc, hsteps f.m⟩
      rw [hgrd] at hf
      exact ⟨congrArg (fun x => some (joinWord x)) hf, rfl, rfl⟩
    · cases h
  · cases h

theorem laEligible_7A {f : Fields} (ho : f.op.toNat = 0x7A) (hl : laEligible f = false → f.la = 0) : f.fn = 0 ∨ f.la = 0 := by
  by_cases hfn : f.fn = 0
  · exact .inl hfn
  · exact .inr (hl (by simpa [laEligible, ho] using hfn))

theorem decodeOp_reads {f : Fields} {i : Instr} (hg : f.unguarded) (hl : laEligible f = false → f.la = 0) (h : decodeOp f = .ok i) :
    Reads f i := by
  unfold decodeOp at h
  split at h
  · next ho => exact (decOp01_encodes hg (eq_of_toNat ho) (hl (by simp [laEligible, ho])) h).reads
  · next ho => exact (decOp02_encodes hg (eq_of_toNat ho) (hl (by simp [laEligible, ho])) h).reads
  · next ho => exact (decOp03_encodes hg (eq_of_toNat ho) (hl (by simp [laEligible, ho])) h).reads
  · next ho => exact (decOp04_encodes hg (eq_of_toNat ho) (hl (by simp [laEligible, ho])) h).reads
  · next ho => exact (decOp05_encodes hg (eq_of_toNat ho) (hl (by simp [laEligible, ho])) h).reads
  · next ho => exact (decOp06_encodes hg (eq_of_toNat ho) (hl (by simp [laEligible, ho])) h).reads
  · next ho => exact (decOp07_encodes hg (eq_of_toNat ho) (hl (by simp [laEligible, ho])) h).reads
  · next ho => exact (decOp08_encodes hg (eq_of_toNat ho) (hl (by simp [laEligible, ho])) h).reads
  · next ho => exact (decOp09_encodes hg (eq_of_toNat ho) (hl (by simp [laEligible, ho])) h).reads
  · next ho => exact (decOp0A_encodes hg (eq_of_toNat ho) (hl (by simp [laEligible, ho])) h).reads
  · next ho => exact (decOp0B_encodes hg (eq_of_toNat ho) (hl (by simp [laEligible, ho])) h).reads
  · next ho => exact decOp0C_reads hg (eq_of_toNat ho) (hl (by simp [laEligible, ho])) h
  · next ho => exact (decOp0D_encodes hg (eq_of_toNat ho) (hl (by simp [laEligible, ho])) h).reads
  · next ho => exact (decOp10_encodes hg (eq_of_toNat ho) (hl (by simp [laEligible, ho])) h).reads
  · next ho => exact (decOp11_encodes hg (eq_of_toNat ho) (hl (by simp [laEligible, ho])) h).reads
  · next ho => exact (decOp12_encodes hg (eq_of_toNat ho) (hl (by simp [laEligible, ho])) h).reads
  · next ho => exact (decOp13_encodes hg (eq_of_toNat ho) (hl (by simp [laEligible, ho])) h).reads
  · next ho => exact (decOp14_encodes hg (eq_of_toNat ho) (hl (by simp [laEligible, ho])) h).reads
  · next ho => exact (decOp15_encodes hg (eq_of_toNat ho) (hl (by simp [laEligible, ho])) h).reads
  · next ho => exact (decOp16_encodes hg (eq_of_toNat ho) (hl (by simp [laEligible, ho])) h).reads
  · next ho => exact (decOp17_encodes hg (eq_of_toNat ho) (hl (by simp [laEligible, ho])) h).reads
  · next ho => exact (decOp18_encodes hg (eq_of_toNat ho) (hl (by simp [laEligible, ho])) h).reads
  · next ho => exact (decOp19_encodes hg (eq_of_toNat ho) (hl (by simp [laEligible, ho])) h).reads
  · next ho => exact (decOp1A_encodes hg (eq_of_toNat ho) (hl (by simp [laEligible, ho])) h).reads
  · next ho => exact (decOp1B_encodes hg (eq_of_toNat ho) (hl (by simp [laEligible, ho])) h).reads
  · next ho => exact (decOp1C_encodes hg (eq_of_toNat ho) (hl (by simp [laEligible, ho])) h).reads
  · next ho => exact (decOp1D_encodes hg (eq_of_toNat ho) (hl (by simp [laEligible, ho])) h).reads
  · next ho => exact (decOp1E_encodes hg (eq_of_toNat ho) (hl (by simp [laEligible, ho])) h).reads
  · next ho => exact (decOp1F_encodes hg (eq_of_toNat ho) (hl (by simp [laEligible, ho])) h).reads
  · next ho => exact (decOp20_encodes hg (eq_of_toNat ho) (hl (by simp [laEligible, ho])) h).reads
  · next ho => exact (decOp21_encodes hg (eq_of_toNat ho) (hl (by simp [laEligible, ho])) h).reads
  · next ho => exact (decOp22_encodes hg (eq_of_toNat ho) (hl (by simp [laEligible, ho])) h).reads
  · next ho => exact (decOp23_encodes hg (eq_of_toNat ho) (hl (by simp [laEligible, ho])) h).reads
  · next ho => exact (decOp24_encodes hg (eq_of_toNat ho) (hl (by simp [laEligible, ho])) h).reads
  · next ho => exact (decOp25_encodes hg (eq_of_toNat ho) (hl (by simp [laEligible, ho])) h).reads
  · next ho => exact (decOp26_encodes hg (eq_of_toNat ho) (hl (by simp [laEligible, ho])) h).reads
  · next ho => exact (decOp30_encodes hg (eq_of_toNat ho) (hl (by simp [laEligible, ho])) h).reads
  · next ho => exact (decOp31_encodes hg (eq_of_toNat ho) (hl (by simp [laEligible, ho])) h).reads
  · next ho => exact (decOp32_encodes hg (eq_of_toNat ho) (hl (by simp [laEligible, ho])) h).reads
  · next ho => exact (decOp33_encodes hg (eq_of_toNat ho) (hl (by simp [laEligible, ho])) h).reads
  · next ho => exact (decOp34_encodes hg (eq_of_toNat ho) (hl (by simp [laEligible, ho])) h).reads
  · next ho => exact (decOp35_encodes hg (eq_of_toNat ho) (hl (by simp [laEligible, ho])) h).reads
  · next ho => exact (decOp36_encodes hg (eq_of_toNat ho) (hl (by simp [laEligible, ho])) h).reads
  · next ho => exact (decOp37_encodes hg (eq_of_toNat ho) (hl (by simp [laEligible, ho])) h).reads
  · next ho => exact (decOp38_encodes hg (eq_of_toNat ho) (hl (by simp [laEligible, ho])) h).reads
  · next ho => exact (decOp39_encodes hg (eq_of_toNat ho) (hl (by simp [laEligible, ho])) h).reads
  · next ho => exact (decOp3A_encodes hg (eq_of_toNat ho) (hl (by simp [laEligible, ho])) h).reads
  · next ho => exact (decOp3B_encodes hg (eq_of_toNat ho) (hl (by simp [laEligible, ho])) h).reads
  · next ho => exact (decOp3C_encodes hg (eq_of_toNat ho) h).reads
  · next ho => exact (decOp3D_encodes hg (eq_of_toNat ho) (hl (by simp [laEligible, ho])) h).reads
  · next ho => exact (decOp3E_encodes hg (eq_of_toNat ho) (hl (by simp [laEligible, ho])) h).reads
  · next ho => exact (decOp50_encodes hg (eq_of_toNat ho) h).reads
  · next ho => exact (decOp51_encodes hg (eq_of_toNat ho) (hl (by simp [laEligible, ho])) h).reads
  · next ho => exact (decOp52_encodes hg (eq_of_toNat ho) h).reads
  · next ho => exact (decOp53_encodes hg (eq_of_toNat ho) (hl (by simp [laEligible, ho])) h).reads
  · next ho => exact (decOp54_encodes hg (eq_of_toNat ho) h).reads
  · next ho => exact (decOp55_encodes hg (eq_of_toNat ho) (hl (by simp [laEligible, ho])) h).reads
  · next ho => exact (decOp56_encodes hg (eq_of_toNat ho) h).reads
  · next ho => exact (decOp57_encodes hg (eq_of_toNat ho) (hl (by simp [laEligible, ho])) h).reads
  · next ho => exact (decOp58_encodes hg (eq_of_toNat ho) (hl (by simp [laEligible, ho])) h).reads
  · next ho => exact (decOp59_encodes hg (eq_of_toNat ho) h).reads
  · next ho => exact (decOp5A_encodes hg (eq_of_toNat ho) h).reads
  · next ho => exact (decOp5B_encodes hg (eq_of_toNat ho) h).reads
  · next ho => exact (decOp5C_encodes hg (eq_of_toNat ho) (hl (by simp [laEligible, ho])) h).reads
  · next ho => exact (decOp5D_encodes hg (eq_of_toNat ho) (hl (by simp [laEligible, ho])) h).reads
  · next ho => exact (decOp5E_encodes hg (eq_of_toNat ho) (hl (by simp [laEligible, ho])) h).reads
  · next ho => exact (decOp5F_encodes hg (eq_of_toNat ho) h).reads
  · next ho => exact (decOp60_encodes hg (eq_of_toNat ho) h).reads
  · next ho => exact (decOp61_encodes hg (eq_of_toNat ho) (hl (by simp [laEligible, ho])) h).reads
  · next ho => exact (decOp62_encodes hg (eq_of_toNat ho) (hl (by simp [laEligible, ho])) h).reads
  · next ho => exact (decOp63_encodes hg (eq_of_toNat ho) (hl (by simp [laEligible, ho])) h).reads
  · next ho => exact (decOp68_encodes hg (eq_of_toNat ho) (hl (by simp [laEligible, ho])) h).reads
  · next ho => exact (decOp69_encodes hg (eq_of_toNat ho) h).reads
  · next ho => exact (decOp6A_encodes hg (eq_of_toNat ho) h).reads
  · next ho => exact (decOp6B_encodes hg (eq_of_toNat ho) (hl (by simp [laEligible, ho])) h).reads
  · next ho => exact (decOp6C_encodes hg (eq_of_toNat ho) (hl (by simp [laEligible, ho])) h).reads
  · next ho => exact (decOp6D_encodes hg (eq_of_toNat ho) h).reads
  · next ho => exact (decOp6E_encodes hg (eq_of_toNat ho) (hl (by simp [laEligible, ho])) h).reads
  · next ho => exact (decOp6F_encodes hg (eq_of_toNat ho) (hl (by simp [laEligible, ho])) h).reads
  · next ho => exact (decOp70_encodes hg (eq_of_toNat ho) (hl (by simp [laEligible, ho])) h).reads
  · next ho => exact (decOp71_encodes hg (eq_of_toNat ho) (hl (by simp [laEligible, ho])) h).reads
  · next ho => exact (decOp72_encodes hg (eq_of_toNat ho) (hl (by simp [laEligible, ho])) h).reads
  · next ho => exact (decOp73_encodes hg (eq_of_toNat ho) (hl (by simp [laEligible, ho])) h).reads
  · next ho => exact (decOp74_encodes hg (eq_of_toNat ho) (hl (by simp [laEligible, ho])) h).reads
  · next ho => exact (decOp75_encodes hg (eq_of_toNat ho) (hl (by simp [laEligible, ho])) h).reads
  · next ho => exact (decOp76_encodes hg (eq_of_toNat ho) (hl (by simp [laEligible, ho])) h).reads
  · next ho => exact (decOp77_encodes hg (eq_of_toNat ho) h).reads
  · next ho => exact (decOp78_encodes hg (eq_of_toNat ho) (hl (by simp [laEligible, ho])) h).reads
  · next ho => exact (decOp79_encodes hg (eq_of_toNat ho) (hl (by simp [laEligible, ho])) h).reads
  · next ho => exact (decOp7A_encodes hg (eq_of_toNat ho) (laEligible_7A ho hl) h).reads
  · next ho => exact (decOp7B_encodes hg (eq_of_toNat ho) (hl (by simp [laEligible, ho])) h).reads
  · next ho => exact (decOp7C_encodes hg (eq_of_toNat ho) (hl (by simp [laEligible, ho])) h).reads
  · next ho => exact (decOp7D_encodes hg (eq_of_toNat ho) (hl (by simp [laEligible, ho])) h).reads
  · cases h

theorem decodeFields_reads {f : Fields} {i : Instr} (h : decodeFields f = .ok i) : Reads f i := by
  unfold decodeFields at h
  split at h
  · cases h
  · next hg =>
    split at h
    · cases h
    · next hl => exact decodeOp_reads (fun hge => by simpa [hge] using hg) (fun he => by simpa [he] using hl) h

/-- A word whose bit 63 is 0 is that of its fields. -/
theorem joinWord_splitWord {w : W64} (h : w.getLsbD 63 = false) : joinWord (splitWord w) = w := by
  have hbool : ∀ k, BitVec.ofBool (w.getLsbD k) = w.extractLsb' k 1 := fun k => by
    apply BitVec.eq_of_getLsbD_eq; intro j hj
    obtain rfl : j = 0 := by omega
    simp
  have htop : (0#1 : BitVec 1) = w.extractLsb' 63 1 := by rw [← hbool, h]; rfl
  unfold joinWord splitWord
  simp only [hbool, htop]
  iterate 11 rw [BitVec.extractLsb'_append_extractLsb'_eq_extractLsb' (by rfl)]
  exact BitVec.extractLsb'_eq_self

/-! ### Pair words (R78 to R80) -/

theorem slot_join (x : BitVec 31) : x = x.extractLsb' 25 6 ++ x.extractLsb' 17 8 ++ x.extractLsb' 9 8 ++ x.extractLsb' 0 9 := by
  iterate 3 rw [BitVec.extractLsb'_append_extractLsb'_eq_extractLsb' (by rfl)]
  exact BitVec.extractLsb'_eq_self.symm

theorem ok_of_ite {p : Prop} [Decidable p] {e : Reject} {a s : Slot} :
    (if p then Except.ok a else Except.error e) = .ok s ↔ p ∧ a = s := by
  split <;> simp [*]

/-- A row of the slot table. -/
theorem slot_row {x : BitVec 31} (h0 : x.extractLsb' 0 9 = 0) {n : Nat} (hn : (x.extractLsb' 25 6).toNat = n) {s : Slot}
    (hparts : s.parts = (BitVec.ofNat 6 n, x.extractLsb' 17 8, x.extractLsb' 9 8)) (hok : s.encodable = true) :
    encodeSlot s = x ∧ s.encodable = true := by
  refine ⟨?_, hok⟩
  conv_rhs => rw [slot_join x, h0, eq_of_toNat hn]
  rw [encodeSlot, hparts]
  rfl

/-- R79: a slot's 31 bits are those of the statement that they decode to. -/
theorem encodeSlot_decodeSlot {x : BitVec 31} {s : Slot} (h : decodeSlot x = .ok s) : encodeSlot s = x ∧ s.encodable = true := by
  unfold decodeSlot at h
  split at h
  · cases h
  next h0 =>
  have h0 := not_not.mp h0
  split at h
  · next hn =>
    obtain ⟨⟨hd, hb⟩, rfl⟩ := ok_of_ite.mp h
    exact slot_row h0 hn (by rw [hd, hb]; rfl) rfl
  iterate 8 · next hn => cases h; exact slot_row h0 hn rfl rfl
  iterate 3 · next hn => obtain ⟨hb, rfl⟩ := ok_of_ite.mp h; exact slot_row h0 hn rfl (decide_eq_true hb)
  iterate 6 · next hn => cases h; exact slot_row h0 hn rfl rfl
  iterate 4 · next hn => obtain ⟨hb, rfl⟩ := ok_of_ite.mp h; exact slot_row h0 hn rfl (decide_eq_true hb)
  iterate 9 · next hn => cases h; exact slot_row h0 hn rfl rfl
  · cases h

theorem joinSlots {w : W64} (h63 : w.getLsbD 63 = true) (h0 : w.getLsbD 0 = false) :
    1#1 ++ w.extractLsb' 32 31 ++ w.extractLsb' 1 31 ++ 0#1 = w := by
  have hbool : ∀ k b, w.getLsbD k = b → BitVec.ofBool b = w.extractLsb' k 1 := fun k b hb => by
    apply BitVec.eq_of_getLsbD_eq; intro j hj
    obtain rfl : j = 0 := by omega
    simp [← hb]
  rw [show (1#1 : BitVec 1) = w.extractLsb' 63 1 from hbool 63 true h63, show (0#1 : BitVec 1) = w.extractLsb' 0 1 from hbool 0 false h0]
  iterate 3 rw [BitVec.extractLsb'_append_extractLsb'_eq_extractLsb' (by rfl)]
  exact BitVec.extractLsb'_eq_self

/-! ### Words -/

theorem isWord_of_encode {i : Instr} {w : W64} (h : encode i = some w) : i.isWord = true := by
  unfold encode at h
  unfold Instr.isWord
  split at h
  · rfl
  · rfl
  · obtain ⟨f, hf, -⟩ := Option.map_eq_some_iff.mp h
    simp [hf]

theorem encode_decode {w : W64} {i : Instr} (h : decode w = .ok i) :
    encode i = some w ∧ encodable i = true ∧ (memOf i).all (fun m => m.ord.encodable) = true := by
  unfold decode at h
  split at h
  · next h63 =>
    split at h
    · cases h
    · next h0 =>
      split at h
      · next s0 s1 hs0 hs1 =>
        split at h
        · next hp =>
          cases h
          obtain ⟨he0, hok0⟩ := encodeSlot_decodeSlot hs0
          obtain ⟨he1, hok1⟩ := encodeSlot_decodeSlot hs1
          refine ⟨?_, by simp [encodable, hok0, hok1, hp], rfl⟩
          show some (1#1 ++ encodeSlot s0 ++ encodeSlot s1 ++ 0#1) = some w
          rw [he0, he1, joinSlots h63 (by simpa using h0)]
        · cases h
      · cases h
      · cases h
  · next h63 =>
    obtain ⟨he, hok⟩ := decodeFields_reads h
    exact ⟨by rw [he, joinWord_splitWord (by simpa using h63)], hok⟩

/-- Settles O2: a single-form word is that of its fields (`decodeFields_reads`, one lemma for each opcode), a pair word that of its slots. -/
theorem decodedWordsEncodeBack : Obligations.DecodedWordsEncodeBack := by
  intro w i h
  obtain ⟨he, hok⟩ := encode_decode h
  exact ⟨he, isWord_of_encode he, hok⟩

/-! ### Every word that is encoded (R66, R78) -/

theorem decode_encode (i : Instr) : Laws.RoundTrip.Statement i := by
  cases i with
  | nop => apply Laws.RoundTrip.nop
  | bra => apply Laws.RoundTrip.bra
  | brx => apply Laws.RoundTrip.brx
  | call => apply Laws.RoundTrip.call
  | callv => apply Laws.RoundTrip.callv
  | ret => apply Laws.RoundTrip.ret
  | exit => apply Laws.RoundTrip.exit
  | join => apply Laws.RoundTrip.join
  | leave => apply Laws.RoundTrip.leave
  | waitm => apply Laws.RoundTrip.waitm
  | mset => apply Laws.RoundTrip.mset
  | mmov => apply Laws.RoundTrip.mmov
  | mand => apply Laws.RoundTrip.mand
  | mor => apply Laws.RoundTrip.mor
  | mpop => apply Laws.RoundTrip.mpop
  | mfromk => apply Laws.RoundTrip.mfromk
  | rep => apply Laws.RoundTrip.rep
  | yield => apply Laws.RoundTrip.yield
  | pairWord => apply Laws.RoundTrip.pairWord
  | iadd => apply Laws.RoundTrip.iadd
  | isub => apply Laws.RoundTrip.isub
  | iaddsat => apply Laws.RoundTrip.iaddsat
  | isubsat => apply Laws.RoundTrip.isubsat
  | imul => apply Laws.RoundTrip.imul
  | imulh => apply Laws.RoundTrip.imulh
  | imad => apply Laws.RoundTrip.imad
  | idiv => apply Laws.RoundTrip.idiv
  | irem => apply Laws.RoundTrip.irem
  | imin => apply Laws.RoundTrip.imin
  | imax => apply Laws.RoundTrip.imax
  | iabs => apply Laws.RoundTrip.iabs
  | ineg => apply Laws.RoundTrip.ineg
  | and => apply Laws.RoundTrip.and
  | or => apply Laws.RoundTrip.or
  | xor => apply Laws.RoundTrip.xor
  | not => apply Laws.RoundTrip.not
  | andn => apply Laws.RoundTrip.andn
  | shl => apply Laws.RoundTrip.shl
  | shr => apply Laws.RoundTrip.shr
  | sar => apply Laws.RoundTrip.sar
  | rotl => apply Laws.RoundTrip.rotl
  | bfx => apply Laws.RoundTrip.bfx
  | bfi => apply Laws.RoundTrip.bfi
  | popc => apply Laws.RoundTrip.popc
  | clz => apply Laws.RoundTrip.clz
  | ctz => apply Laws.RoundTrip.ctz
  | brev => apply Laws.RoundTrip.brev
  | bswap => apply Laws.RoundTrip.bswap
  | sel => apply Laws.RoundTrip.sel
  | mov => apply Laws.RoundTrip.mov
  | lea => apply Laws.RoundTrip.lea
  | movi => apply Laws.RoundTrip.movi
  | movh => apply Laws.RoundTrip.movh
  | icmp => apply Laws.RoundTrip.icmp
  | plop => apply Laws.RoundTrip.plop
  | pmov => apply Laws.RoundTrip.pmov
  | vote => apply Laws.RoundTrip.vote
  | ballot => apply Laws.RoundTrip.ballot
  | shfl => apply Laws.RoundTrip.shfl
  | idp4 => apply Laws.RoundTrip.idp4
  | idp8 => apply Laws.RoundTrip.idp8
  | bcast => apply Laws.RoundTrip.bcast
  | vrd => apply Laws.RoundTrip.vrd
  | iaddImm => apply Laws.RoundTrip.iaddImm
  | isubImm => apply Laws.RoundTrip.isubImm
  | imulImm => apply Laws.RoundTrip.imulImm
  | iminImm => apply Laws.RoundTrip.iminImm
  | imaxImm => apply Laws.RoundTrip.imaxImm
  | andImm => apply Laws.RoundTrip.andImm
  | orImm => apply Laws.RoundTrip.orImm
  | xorImm => apply Laws.RoundTrip.xorImm
  | shlImm => apply Laws.RoundTrip.shlImm
  | shrImm => apply Laws.RoundTrip.shrImm
  | sarImm => apply Laws.RoundTrip.sarImm
  | rotlImm => apply Laws.RoundTrip.rotlImm
  | icmpImm => apply Laws.RoundTrip.icmpImm
  | fadd => apply Laws.RoundTrip.fadd
  | fsub => apply Laws.RoundTrip.fsub
  | fmul => apply Laws.RoundTrip.fmul
  | ffma => apply Laws.RoundTrip.ffma
  | fmin => apply Laws.RoundTrip.fmin
  | fmax => apply Laws.RoundTrip.fmax
  | fcmp => apply Laws.RoundTrip.fcmp
  | fclass => apply Laws.RoundTrip.fclass
  | frnd => apply Laws.RoundTrip.frnd
  | fcvt => apply Laws.RoundTrip.fcvt
  | f2i => apply Laws.RoundTrip.f2i
  | i2f => apply Laws.RoundTrip.i2f
  | hxadd => apply Laws.RoundTrip.hxadd
  | hxmul => apply Laws.RoundTrip.hxmul
  | hxfma => apply Laws.RoundTrip.hxfma
  | bxadd => apply Laws.RoundTrip.bxadd
  | bxmul => apply Laws.RoundTrip.bxmul
  | bxfma => apply Laws.RoundTrip.bxfma
  | fdp2 => apply Laws.RoundTrip.fdp2
  | frcp => apply Laws.RoundTrip.frcp
  | frsq => apply Laws.RoundTrip.frsq
  | fsqrt => apply Laws.RoundTrip.fsqrt
  | fexp2 => apply Laws.RoundTrip.fexp2
  | flog2 => apply Laws.RoundTrip.flog2
  | fsin => apply Laws.RoundTrip.fsin
  | fcos => apply Laws.RoundTrip.fcos
  | ftanh => apply Laws.RoundTrip.ftanh
  | fscale => apply Laws.RoundTrip.fscale
  | fgetexp => apply Laws.RoundTrip.fgetexp
  | gpack => apply Laws.RoundTrip.gpack
  | gunpack => apply Laws.RoundTrip.gunpack
  | ld => apply Laws.RoundTrip.ld
  | ldSigned => apply Laws.RoundTrip.ldSigned
  | st => apply Laws.RoundTrip.st
  | ldv => apply Laws.RoundTrip.ldv
  | stv => apply Laws.RoundTrip.stv
  | lds => apply Laws.RoundTrip.lds
  | ldsSigned => apply Laws.RoundTrip.ldsSigned
  | sts => apply Laws.RoundTrip.sts
  | gath => apply Laws.RoundTrip.gath
  | gathSigned => apply Laws.RoundTrip.gathSigned
  | scat => apply Laws.RoundTrip.scat
  | prf => apply Laws.RoundTrip.prf
  | barSync => apply Laws.RoundTrip.barSync
  | barArv => apply Laws.RoundTrip.barArv
  | barWait => apply Laws.RoundTrip.barWait
  | barBytes => apply Laws.RoundTrip.barBytes
  | waitA => apply Laws.RoundTrip.waitA
  | waitT => apply Laws.RoundTrip.waitT
  | fence => apply Laws.RoundTrip.fence
  | atom32 => apply Laws.RoundTrip.atom32
  | atom64 => apply Laws.RoundTrip.atom64
  | cpGs => apply Laws.RoundTrip.cpGs
  | cpSg => apply Laws.RoundTrip.cpSg
  | cpGg => apply Laws.RoundTrip.cpGg
  | cpFence => apply Laws.RoundTrip.cpFence
  | cpPoll => apply Laws.RoundTrip.cpPoll
  | lfillBar => apply Laws.RoundTrip.lfillBar
  | lfillTok => apply Laws.RoundTrip.lfillTok
  | tcfg => apply Laws.RoundTrip.tcfg
  | tld => apply Laws.RoundTrip.tld
  | tldg => apply Laws.RoundTrip.tldg
  | tst => apply Laws.RoundTrip.tst
  | tzero => apply Laws.RoundTrip.tzero
  | tmov => apply Laws.RoundTrip.tmov
  | mma => apply Laws.RoundTrip.mma
  | mmap => apply Laws.RoundTrip.mmap
  | mmac => apply Laws.RoundTrip.mmac
  | czero => apply Laws.RoundTrip.czero
  | cmov => apply Laws.RoundTrip.cmov
  | cmovIn => apply Laws.RoundTrip.cmovIn
  | vbnd => apply Laws.RoundTrip.vbnd
  | atest => apply Laws.RoundTrip.atest
  | trap => apply Laws.RoundTrip.trap
  | brk => apply Laws.RoundTrip.brk
  | rfe => apply Laws.RoundTrip.rfe
  | sread => apply Laws.RoundTrip.sread
  | swrite => apply Laws.RoundTrip.swrite
  | ctxSave => apply Laws.RoundTrip.ctxSave
  | ctxLoad => apply Laws.RoundTrip.ctxLoad
  | xst => apply Laws.RoundTrip.xst
  | xbar => apply Laws.RoundTrip.xbar
  | cbar => apply Laws.RoundTrip.cbar
  | xpoll => apply Laws.RoundTrip.xpoll
  | acc => apply Laws.RoundTrip.acc
  | accv => apply Laws.RoundTrip.accv
  | accFlush => apply Laws.RoundTrip.accFlush
  | accProbe => apply Laws.RoundTrip.accProbe
  | futSpawn => apply Laws.RoundTrip.futSpawn
  | futDup => apply Laws.RoundTrip.futDup
  | futDrop => apply Laws.RoundTrip.futDrop
  | futSelf => apply Laws.RoundTrip.futSelf
  | futCheck => apply Laws.RoundTrip.futCheck
  | futGet => apply Laws.RoundTrip.futGet
  | futPoll => apply Laws.RoundTrip.futPoll
  | futPark => apply Laws.RoundTrip.futPark
  | futUnpark => apply Laws.RoundTrip.futUnpark
  | futRet => apply Laws.RoundTrip.futRet
  | enRead => apply Laws.RoundTrip.enRead
  | enMark => apply Laws.RoundTrip.enMark
  | vfReq => apply Laws.RoundTrip.vfReq
  | vfStat => apply Laws.RoundTrip.vfStat
  | collRed => apply Laws.RoundTrip.collRed
  | collBcast => apply Laws.RoundTrip.collBcast
  | collWait => apply Laws.RoundTrip.collWait
  | _ => exact Laws.RoundTrip.none_case rfl

theorem exists_encode {i : Instr} (h : i.isWord = true) : ∃ w, encode i = some w := by
  unfold Instr.isWord at h
  unfold encode
  split at h
  · exact ⟨_, rfl⟩
  · exact ⟨_, rfl⟩
  · obtain ⟨f, hf⟩ := Option.isSome_iff_exists.mp h
    exact ⟨joinWord f, by simp [hf]⟩

/-- Settles O1. Each row has its own lemma in Laws/PerInstr.lean. -/
theorem encodedWordsDecodeBack : Obligations.EncodedWordsDecodeBack := by
  intro i hw he hm
  obtain ⟨w, h⟩ := exists_encode hw
  exact ⟨w, h, decode_encode i he hm w h⟩

/-- Settles O3, by evaluation of the decoder on the three words. -/
theorem sampleWordsDecode : Obligations.SampleWordsDecode := ⟨rfl, ⟨_, rfl⟩, ⟨_, rfl⟩⟩


end Sys2Proof
end

section
/-! The end of a word (R83, R86, R89, R178): where the lanes of its run go, what becomes of their windows, and what stays as it was; then the
control words that move a run (R75, R87, R101, R180 to R182). -/

namespace Sys2Proof.Machine

open Sys2Proof.Safety

/-! ### PCs, lane by lane -/

/-- A PC set in each lane of a list, from the lane's own PC: the listed lanes are there, and all else is the same. -/
theorem Gang.eachLane_setPc (G : Gang) (f : W64 → Nat → W64) {ls : List Nat} (hn : ls.Nodup) :
    (∀ l ∈ ls, (G.eachLane ls (fun H l => H.setPc l (f (H.pc l) l))).pc l = f (G.pc l) l) ∧
    (∀ l, l ∉ ls → (G.eachLane ls (fun H l => H.setPc l (f (H.pc l) l))).pc l = G.pc l) := by
  induction ls generalizing G with
  | nil => exact ⟨fun _ h => absurd h List.not_mem_nil, fun _ _ => rfl⟩
  | cons x ls ih =>
    obtain ⟨hx, hn⟩ := List.nodup_cons.mp hn
    obtain ⟨hin, hout⟩ := ih (G.setPc x (f (G.pc x) x)) hn
    refine ⟨fun l hl => ?_, fun l hl => ?_⟩
    · rcases List.mem_cons.mp hl with rfl | hl
      · exact (hout l hx).trans (Gang.pc_setPc_same ..)
      · have hne : l ≠ x := fun e => hx (e ▸ hl)
        exact (hin l hl).trans (by rw [Gang.pc_setPc_ne G hne])
    · obtain ⟨hne, hl⟩ := not_or.mp (fun h => hl (List.mem_cons.mpr h))
      exact (hout l hl).trans (Gang.pc_setPc_ne _ hne _)

theorem Gang.eachLane_setPc_frame (G : Gang) (f : Gang → Nat → W64) (ls : List Nat) :
    { G.eachLane ls (fun H l => H.setPc l (f H l)) with pcs := G.pcs } = G :=
  List.foldlRecOn (motive := fun H : Gang => { H with pcs := G.pcs } = G) ls _ rfl (fun _ h _ _ => h)

/-! ### Windows (R83, R86) -/

/-- The words of a run touch no more of a gang than its windows and the flags that they show. -/
theorem Gang.countWindows_frame (G : Gang) (run : List Nat) (e : Bool) :
    { G.countWindows run e with pend := G.pend, fstat := G.fstat } = G :=
  List.foldlRecOn (motive := fun H : Gang => { H with pend := G.pend, fstat := G.fstat } = G) G.pend _ rfl (fun _ h p _ =>
    List.foldlRecOn (motive := fun H : Gang => { H with pend := G.pend, fstat := G.fstat } = G) (p.ending run e) _ h (fun _ h _ _ => h))

theorem Gang.pend_countWindows (G : Gang) (run : List Nat) (e : Bool) :
    (G.countWindows run e).pend = (G.pend.map (fun p => p.counted run e)).filter (fun p => !p.over) := rfl

theorem Gang.pc_countWindows (G : Gang) (run : List Nat) (e : Bool) (l : Nat) : (G.countWindows run e).pc l = G.pc l :=
  (congrArg (fun H : Gang => H.pc l) (G.countWindows_frame run e) :)
theorem Gang.prog_countWindows (G : Gang) (run : List Nat) (e : Bool) : (G.countWindows run e).prog = G.prog :=
  (congrArg Gang.prog (G.countWindows_frame run e) :)
theorem Gang.pidx_countWindows (G : Gang) (run : List Nat) (e : Bool) : (G.countWindows run e).pidx = G.pidx :=
  (congrArg Gang.pidx (G.countWindows_frame run e) :)

/-- A table whose entries keep their keys: what a key holds is its entry, changed. -/
theorem tget_map_keyed (f : Nat → Nat → Nat) (h0 : ∀ k, f k 0 = 0) (t : Tbl Nat) (l : Nat) :
    tget 0 (t.map (fun q => (q.1, f q.1 q.2))) l = f l (tget 0 t l) := by
  unfold tget
  induction t with
  | nil => exact (h0 l).symm
  | cons q t ih =>
    simp only [List.map_cons, tfind]
    split
    · next h => simp [h]
    · exact ih

/-- What is left of a lane's window after a word of a run. -/
def windowLeft (run : List Nat) (e : Bool) (l n : Nat) : Nat := if l ∈ run then (if e then 0 else n - 1) else n

/-- While its results are to come, a window keeps an entry for each of its lanes. -/
theorem Pend.left_counted {p : Pend} (hp : p.done = false) (run : List Nat) (e : Bool) :
    (p.counted run e).left = p.left.map (fun q => (q.1, windowLeft run e q.1 q.2)) := by
  unfold Pend.counted windowLeft
  rw [← List.filterMap_eq_map]
  refine List.filterMap_congr (fun q _ => ?_)
  by_cases hq : q.1 ∈ run <;> simp [hp, hq]

/-- R83, R86: a result that is still to come is one that was pending before the word, its windows counted. -/
theorem Gang.mem_pend_countWindows {G : Gang} {run : List Nat} {e : Bool} {q : Pend} (hq : q ∈ (G.countWindows run e).pend)
    (hd : q.done = false) :
    ∃ p ∈ G.pend, q = { p with left := q.left } ∧ ∀ l, tget 0 q.left l = windowLeft run e l (tget 0 p.left l) := by
  rw [Gang.pend_countWindows] at hq
  obtain ⟨p, hp, rfl⟩ := List.mem_map.mp (List.mem_filter.mp hq).1
  refine ⟨p, hp, rfl, fun l => ?_⟩
  rw [Pend.left_counted (p := p) hd]
  exact tget_map_keyed (windowLeft run e) (fun k => by simp [windowLeft]) _ l

/-! ### The end of a word -/

theorem noRep_ne {G : Gang} (h : noRep G = true) (n a b c d : Nat) (m : LaneMask) : G.prog ≠ some (.rep n a b c d m) := by
  intro e
  rw [noRep, e] at h
  exact Bool.noConfusion h

/-- R89: the last repetition moves its run past the prefixed word. -/
theorem Gang.closeWord_lastRep (G : Gang) (run : List Nat) (e : Bool) (f : Nat → W64) {n a b c d : Nat} {m : LaneMask}
    (h : G.prog = some (.rep n a b c d m)) (hn : n ≤ G.pidx.toNat + 1) :
    G.closeWord run e f =
      (({ G with pidx := 0, prog := none, failed := [] } : Gang).eachLane run (fun G l => G.setPc l (G.pc l + 16))).countWindows run e := by
  simp [Gang.closeWord, h, Nat.not_lt.mpr hn]

/-- What moves a run and counts its windows changes nothing else. -/
theorem Gang.moved_setPcs (G : Gang) (run : List Nat) (e : Bool) (f : Gang → Nat → W64) (p : Option Progress) (x : List (Nat × Bool)) :
    Moved G ((({ G with prog := p, failed := x } : Gang).eachLane run (fun G l => G.setPc l (f G l))).countWindows run e) := by
  have hcount := Gang.countWindows_frame (({ G with prog := p, failed := x } : Gang).eachLane run (fun G l => G.setPc l (f G l))) run e
  have hpcs := Gang.eachLane_setPc_frame ({ G with prog := p, failed := x } : Gang) f run
  exact (congrArg (fun H : Gang => { H with pcs := G.pcs, pend := G.pend, fstat := G.fstat, prog := G.prog, failed := G.failed }) hcount).trans
    (congrArg (fun H : Gang => { H with pend := G.pend, fstat := G.fstat, prog := G.prog, failed := G.failed }) hpcs)

section
variable {G : Gang} {run : List Nat} {e : Bool}

/-- R178: outside a sequence the lanes of the run go where the word says. -/
theorem Gang.closeWord_moves (h : noRep G = true) (hn : run.Nodup) (f : Nat → W64) :
    (∀ l ∈ run, (G.closeWord run e f).pc l = f l) ∧ (∀ l, l ∉ run → (G.closeWord run e f).pc l = G.pc l) ∧
    (G.closeWord run e f).prog = none ∧ Moved G (G.closeWord run e f) := by
  have hpc := Gang.eachLane_setPc ({ G with prog := none, failed := [] } : Gang) (fun _ => f) hn
  have hframe := Gang.eachLane_setPc_frame ({ G with prog := none, failed := [] } : Gang) (fun _ => f) run
  rw [Gang.closeWord_plain G run e f (noRep_ne h)]
  refine ⟨fun l hl => ?_, fun l hl => ?_, ?_, Gang.moved_setPcs G run e _ _ _⟩
  · exact (Gang.pc_countWindows ..).trans (hpc.1 l hl)
  · exact (Gang.pc_countWindows ..).trans (hpc.2 l hl)
  · exact (Gang.prog_countWindows ..).trans (congrArg Gang.prog hframe)

/-- R89: the last repetition ends the sequence. -/
theorem Gang.closeWord_ends {n a b c d : Nat} {m : LaneMask} (h : G.prog = some (.rep n a b c d m)) (hk : n ≤ G.pidx.toNat + 1)
    (hn : run.Nodup) (f : Nat → W64) :
    (∀ l ∈ run, (G.closeWord run e f).pc l = G.pc l + 16) ∧ (∀ l, l ∉ run → (G.closeWord run e f).pc l = G.pc l) ∧
    (G.closeWord run e f).prog = none ∧ (G.closeWord run e f).pidx = 0 ∧ Moved { G with pidx := 0 } (G.closeWord run e f) := by
  have hpc := Gang.eachLane_setPc ({ G with pidx := 0, prog := none, failed := [] } : Gang) (fun pc _ => pc + 16) hn
  have hframe := Gang.eachLane_setPc_frame ({ G with pidx := 0, prog := none, failed := [] } : Gang) (fun G l => G.pc l + 16) run
  rw [Gang.closeWord_lastRep G run e f h hk]
  refine ⟨fun l hl => ?_, fun l hl => ?_, ?_, ?_, Gang.moved_setPcs { G with pidx := 0 } run e _ _ _⟩
  · exact (Gang.pc_countWindows ..).trans (hpc.1 l hl)
  · exact (Gang.pc_countWindows ..).trans (hpc.2 l hl)
  · exact (Gang.prog_countWindows ..).trans (congrArg Gang.prog hframe)
  · exact (Gang.pidx_countWindows ..).trans (congrArg Gang.pidx hframe)

/-- R83: outside a sequence the word counts in the windows that were open. -/
theorem Gang.mem_pend_closeWord (h : noRep G = true) {f : Nat → W64} {q : Pend} (hq : q ∈ (G.closeWord run e f).pend) (hd : q.done = false) :
    ∃ p ∈ G.pend, q = { p with left := q.left } ∧ ∀ l, tget 0 q.left l = windowLeft run e l (tget 0 p.left l) := by
  have hframe := Gang.eachLane_setPc_frame ({ G with prog := none, failed := [] } : Gang) (fun _ => f) run
  rw [Gang.closeWord_plain G run e f (noRep_ne h)] at hq
  obtain ⟨p, hp, hrest⟩ := Gang.mem_pend_countWindows hq hd
  exact ⟨p, congrArg Gang.pend hframe ▸ hp, hrest⟩
end

/-- Settles O9. Each shape of `closeWord` sets PCs lane by lane (`Gang.eachLane_setPc`) and then counts windows, which changes no PC; a window
that is still to be written keeps its entries, each counted (`Pend.left_counted`). -/
theorem wordEndAdvancesItsRun : Obligations.WordEndAdvancesItsRun := by
  refine ⟨⟨fun s e h => ⟨_, rfl, Gang.closeWord_moves h s.runLanes_nodup _⟩, fun s e n a b c d m h hk => ?_, fun s e n a b c d m h hk =>
    ⟨_, rfl, Gang.closeWord_ends h hk s.runLanes_nodup _⟩⟩, fun s e q h hq hd => ?_⟩
  · rw [State.finish_eq, Gang.closeWord_rep _ _ _ _ h hk]
  · rw [State.finish_eq, State.curGang_setCur] at hq
    exact Gang.mem_pend_closeWord h hq hd

/-! ### Control words -/

/-- R181, R182: outside a sequence a branch sends the lanes of Active to their targets and the others to the next word. -/
theorem State.branch_moves {s : State} (h : noRep s.curGang = true) (e : Bool) (act : List Nat) (target : Nat → W64) :
    GangStep s (.next (s.branch e act target)) (fun H =>
      (∀ l ∈ s.runLanes, H.pc l = if l ∈ act then target l else s.cur.pc + 8) ∧ (∀ l, l ∉ s.runLanes → H.pc l = s.curGang.pc l) ∧
      Moved s.curGang H) := by
  obtain ⟨hin, hout, -, hmoved⟩ :=
    Gang.closeWord_moves (e := e) h s.runLanes_nodup (fun l => if act.elem l then target l else s.cur.pc + 8)
  exact ⟨_, rfl, fun l hl => (hin l hl).trans (by simp), hout, hmoved⟩

theorem exec_nop {g : Grd} {s : State} (hc : s.clear (.nop g) = true) : exec (.nop g) s = .next (s.finish false) := by
  show execNop g s = _
  rw [execNop, runWord_clear hc]
  rfl
theorem exec_bra {g : Grd} {off : BitVec 32} {s : State} (hc : s.clear (.bra g off) = true) :
    exec (.bra g off) s = .next (s.branch false (s.active g) (fun _ => relTarget s.cur.pc off)) := by
  show execBra g off s = _
  rw [execBra, runWord_clear hc]
theorem exec_brx {g : Grd} {a : Opd} {s : State} (hc : s.clear (.brx g a) = true) :
    exec (.brx g a) s = .next (s.branch false (s.active g) (fun l => s.curGang.rawOpd a true l)) := by
  show execBrx g a s = _
  rw [execBrx, runWord_clear hc]

/-- R180: the lanes of Active that yield, where another run is to issue before them. -/
theorem exec_yield {g : Grd} {s : State} (hc : s.clear (.yield g) = true) :
    exec (.yield g) s =
      (let others := s.cur.others.filter (fun m => !s.runLanes.any (fun l => m.getLsbD l))
       .next (if (s.active g).isEmpty || others.isEmpty then s.finish true
         else (s.finish true).setCur { (s.finish true).curGang with
           yields := (s.finish true).curGang.yields ++ [⟨bitsOf (s.active g), others, 64⟩] })) := by
  show execYield g s = _
  rw [execYield, runWord_clear hc]

theorem moved_yields {G H : Gang} (h : Moved G H) (y : List Yield) : Moved { G with yields := y } { H with yields := y } :=
  (congrArg (fun K : Gang => { K with yields := y }) h :)

theorem exec_yield_moves {g : Grd} {s : State} (hc : s.clear (.yield g) = true) (h : noRep s.curGang = true) :
    GangStep s (exec (.yield g) s) (fun H =>
      (∀ l ∈ s.runLanes, H.pc l = s.cur.pc + 8) ∧ (∀ l, l ∉ s.runLanes → H.pc l = s.curGang.pc l) ∧
      (let others := s.cur.others.filter (fun m => !s.runLanes.any (fun l => m.getLsbD l))
       H.yields = if s.active g = [] ∨ others = [] then s.curGang.yields
         else s.curGang.yields ++ [⟨bitsOf (s.active g), others, 64⟩]) ∧
      Moved { s.curGang with yields := H.yields } H) := by
  obtain ⟨hin, hout, -, hmoved⟩ := Gang.closeWord_moves (e := true) h s.runLanes_nodup (fun _ => s.cur.pc + 8)
  have hyields := congrArg Gang.yields hmoved
  rw [exec_yield hc]
  dsimp only at hyields ⊢
  by_cases hy : s.active g = [] ∨ s.cur.others.filter (fun m => !s.runLanes.any (fun l => m.getLsbD l)) = []
  · rw [if_pos (by simpa using hy)]
    refine ⟨_, rfl, hin, hout, by rw [if_pos hy]; exact hyields, ?_⟩
    rw [hyields]
    exact hmoved
  · rw [if_neg (by simpa using hy), State.finish_eq, State.setCur_setCur, State.curGang_setCur]
    refine ⟨_, rfl, hin, hout, by rw [if_neg hy]; exact congrArg (· ++ _) hyields, ?_⟩
    exact moved_yields hmoved _

/-- R87, R88: a legal sequence that has not finished is entered. -/
theorem exec_rep_enters {cnt : BitVec 6} {sd sa sb sc : BitVec 2} {s s1 : State} {w : W64} (hc : s.clear (.rep cnt sd sa sb sc) = true)
    (hk : s.curGang.pidx.toNat ≤ cnt.toNat) (hw : s.fetchWord s.cur.team s.cur.gang (s.cur.pc + 8) = (s1, .word w))
    (hl : repLegal w (stepOf sd) (stepOf sa) (stepOf sb) (stepOf sc) = true) :
    exec (.rep cnt sd sa sb sc) s = .next (s1.setCur { s1.curGang with
      prog := some (.rep (cnt.toNat + 1) (stepOf sd) (stepOf sa) (stepOf sb) (stepOf sc) s.cur.lanes) }) := by
  show execRep cnt sd sa sb sc s = _
  rw [execRep, runWord_clear hc]
  dsimp only
  rw [if_neg (by omega), hw]
  exact if_pos hl

/-- Settles O16. A branch, a `yield` and a `nop` end their word with lanes at the PCs that they name (`Gang.closeWord_moves`); `rep` enters
its sequence when the prefixed word is fetched and legal. -/
theorem branchesMoveActiveLanes : Obligations.BranchesMoveActiveLanes := by
  refine ⟨fun g s => exec_nop, fun g off s hc h => ?_, fun g a s hc h => ?_, fun g s => exec_yield_moves, fun cnt sd sa sb sc s s1 w =>
    exec_rep_enters⟩
  · rw [exec_bra hc]
    exact State.branch_moves h ..
  · rw [exec_brx hc]
    exact State.branch_moves h ..

end Sys2Proof.Machine
end

section
/-! The checks before a word acts (R77, R85, R86, R267). -/

namespace Sys2Proof.Machine

open Sys2Proof.Safety

theorem isWord_of_privileged {i : Instr} (h : i.privileged = true) : i.isWord = true := by
  cases i with
  | atest | ctxSave | ctxLoad => rfl
  | _ => exact absurd h Bool.false_ne_true

/-- Check 6 of R77, where check 4 passes and no result is pending. -/
theorem precheck_privilege {s : State} {i : Instr} (hp : i.privileged = true) (hn : s.curGang.pend = [])
    (hl : i.refs.all (Ref.legal s.curTeam.launch s.curGang) = true) (hg : s.curGang.privileged = false) :
    s.precheck i = some (trapAll s.runLanes 2 0 i) := by
  simp [State.precheck, hl, hn, hp, hg]

theorem runWord_held {s : State} {i : Instr} (h : s.curGang.waits s.runLanes i = true) (body : State → Out) :
    runWord i s body = .next { s with note := .held } := by
  rw [runWord, h]
  rfl

theorem runWord_checked {s : State} {i : Instr} {x : TrapRec} (h : s.curGang.waits s.runLanes i = false) (hx : s.precheck i = some x)
    (body : State → Out) : runWord i s body = .next (s.trapRun x) := by
  rw [runWord, h, hx]
  rfl

/-- Settles O10. Every word begins with the waits and checks of `runWord` (`exec_word`): it is Held where it waits, and traps as the first
check that fails says. -/
theorem wordsAreCheckedBeforeTheyAct : Obligations.WordsAreCheckedBeforeTheyAct := by
  refine ⟨fun i s hw hn hl => ?_, fun i s hw hn => ?_, fun i s hp hn hpend hl hg => ?_⟩
  · obtain ⟨body, he⟩ := exec_word i s hw
    rw [he, runWord_checked hn (precheck_illegal s i hl)]
  · obtain ⟨body, he⟩ := exec_word i s hw
    rw [he, runWord_held hn]
  · obtain ⟨body, he⟩ := exec_word i s (isWord_of_privileged hp)
    rw [he, runWord_checked hn (precheck_privilege hp hpend hl hg)]

end Sys2Proof.Machine
end

section
/-! Results that a word delivers at once, that are pending in a window, and that arrive when their data returns (R83, R85, R258, R389). -/

namespace Sys2Proof.Machine

open Sys2Proof.Safety

/-! ### Registers that are as before -/

theorem sameRegs_trans {G H K : Gang} (h : SameRegs G H) (k : SameRegs H K) : SameRegs G K := by
  obtain ⟨hpool, hs, hpreds, hm, hbad⟩ := h
  obtain ⟨kpool, ks, kpreds, km, kbad⟩ := k
  exact ⟨kpool.trans hpool, ks.trans hs, kpreds.trans hpreds, km.trans hm, kbad.trans hbad⟩

theorem sameRegs_of_moved {G H : Gang} (h : Moved G H) : SameRegs G H :=
  ⟨(congrArg Gang.pool h :), (congrArg Gang.s h :), (congrArg Gang.preds h :), (congrArg Gang.m h :), (congrArg Gang.bad h :)⟩

theorem Gang.countWindows_moved (G : Gang) (run : List Nat) (e : Bool) : Moved G (G.countWindows run e) :=
  (congrArg (fun H : Gang => { H with pcs := G.pcs, prog := G.prog, failed := G.failed }) (G.countWindows_frame run e) :)

/-- No end of a word writes a register. -/
theorem Gang.sameRegs_closeWord (G : Gang) (run : List Nat) (e : Bool) (f : Nat → W64) : SameRegs G (G.closeWord run e f) := by
  unfold Gang.closeWord
  split
  · split
    · extract_lets G1
      split
      · exact (sameRegs_of_moved (G1.countWindows_moved run true) :)
      · exact ⟨rfl, rfl, rfl, rfl, rfl⟩
    · exact (sameRegs_of_moved (Gang.moved_setPcs { G with pidx := 0 } run e (fun G l => G.pc l + 16) none []) :)
  · exact sameRegs_of_moved (Gang.moved_setPcs G run e _ _ _)

theorem Gang.applyWrites_frame (G : Gang) (ws : List RegWrite) : { G.applyWrites ws with pool := G.pool, s := G.s, bad := G.bad } = G :=
  List.foldlRecOn (motive := fun H : Gang => { H with pool := G.pool, s := G.s, bad := G.bad } = G) ws _ rfl (fun _ h w _ => by
    cases w <;> exact h)

/-- The writes of a result do not look at what is pending. -/
theorem Gang.applyWrites_pend (G : Gang) (ps : List Pend) (ws : List RegWrite) :
    ({ G with pend := ps } : Gang).applyWrites ws = { G.applyWrites ws with pend := ps } := by
  induction ws generalizing G with
  | nil => rfl
  | cons w ws ih =>
    cases w with
    | v l r x => exact ih (G.writeV l r x)
    | s r x => exact ih (G.writeS r x)

/-- R46: the flags of a result, lane by lane. -/
def Gang.orFlags (G : Gang) (fl : Tbl Flg) : Gang := fl.foldl (fun G q => G.orFstat q.1 q.2) G

theorem Gang.orFlags_frame (G : Gang) (fl : Tbl Flg) : { G.orFlags fl with fstat := G.fstat } = G :=
  List.foldlRecOn (motive := fun H : Gang => { H with fstat := G.fstat } = G) fl _ rfl (fun _ h _ _ => h)

/-! ### Results of a word -/

/-- R83: results of a word with no window, and its end. -/
theorem State.results_atOnce (s : State) (regs : List Reg) (ws : List RegWrite) (fl : Tbl Flg) :
    s.results 0 regs ws fl =
      s.setCur (((s.curGang.applyWrites ws).orFlags fl).closeWord s.runLanes false (fun _ => s.cur.pc + 8)) := by
  have hflags := congrArg Gang.width ((s.curGang.applyWrites ws).orFlags_frame fl)
  have hwrites := congrArg Gang.width (s.curGang.applyWrites_frame ws)
  show (s.setCur ((s.curGang.applyWrites ws).orFlags fl)).finish false = _
  rw [State.finish_eq, State.setCur_setCur, State.curGang_setCur, State.runLanes_setCur]
  exact congrArg (fun w => s.setCur (Gang.closeWord _ (lanesOf s.cur.lanes w) _ _)) (hflags.trans hwrites)

theorem State.results_atOnce_writes (s : State) (regs : List Reg) (ws : List RegWrite) (fl : Tbl Flg) :
    GangStep s (.next (s.results 0 regs ws fl)) (fun H =>
      SameRegs (s.curGang.applyWrites ws) H ∧ (noRep s.curGang = true → ∀ l ∈ s.runLanes, H.pc l = s.cur.pc + 8)) := by
  have hflags := (s.curGang.applyWrites ws).orFlags_frame fl
  have hregs : SameRegs (s.curGang.applyWrites ws) ((s.curGang.applyWrites ws).orFlags fl) :=
    ⟨(congrArg Gang.pool hflags :), (congrArg Gang.s hflags :), (congrArg Gang.preds hflags :), (congrArg Gang.m hflags :),
      (congrArg Gang.bad hflags :)⟩
  rw [State.results_atOnce]
  refine ⟨_, rfl, sameRegs_trans hregs (Gang.sameRegs_closeWord ..), fun h => ?_⟩
  have hprog : ((s.curGang.applyWrites ws).orFlags fl).prog = s.curGang.prog :=
    (congrArg Gang.prog hflags :).trans (congrArg Gang.prog (s.curGang.applyWrites_frame ws) :)
  have hplain : noRep ((s.curGang.applyWrites ws).orFlags fl) = true := by
    rw [← h, noRep, noRep, hprog]
  exact (Gang.closeWord_moves hplain s.runLanes_nodup _).1

/-- The record of the results that a word leaves in a window. -/
def State.opened (s : State) (la : Nat) (regs : List Reg) (ws : List RegWrite) (fl : Tbl Flg) : Pend :=
  ⟨s.nextId, s.cur.pc, regs, s.cur.lanes, s.runLanes.map (fun l => (l, la)), .data, ws, fl, none, false, s.misses.getD [], none⟩

/-- R83: results with a window wait, and the word ends. -/
theorem State.results_pending (s : State) {la : Nat} (h : la ≠ 0) (regs : List Reg) (ws : List RegWrite) (fl : Tbl Flg) :
    let G := s.curGang.closeWord s.runLanes false (fun _ => s.cur.pc + 8)
    s.results la regs ws fl =
      { s.setCur { G with pend := G.pend ++ [s.opened la regs ws fl] } with nextId := s.nextId + 1, misses := none } := by
  rw [State.results_window s h]
  show ({ (({ s with misses := none } : State).finish false).setCur _ with nextId := s.nextId + 1 } : State) = _
  rw [State.finish_eq, State.setCur_setCur, State.curGang_setCur]
  rfl

theorem State.results_opens (s : State) {la : Nat} (h : la ≠ 0) (regs : List Reg) (ws : List RegWrite) (fl : Tbl Flg) :
    ∃ H, s.results la regs ws fl = { s.setCur H with nextId := s.nextId + 1, misses := none } ∧ SameRegs s.curGang H ∧
      ∃ p ∈ H.pend, p.id = s.nextId ∧ p.regs = regs ∧ p.writes = ws ∧ p.done = false ∧ p.flags = fl ∧
        ∀ l ∈ s.runLanes, tget 0 p.left l = la := by
  refine ⟨_, s.results_pending h regs ws fl, Gang.sameRegs_closeWord .., s.opened la regs ws fl, List.mem_append_right _ List.mem_cons_self,
    rfl, rfl, rfl, rfl, rfl, fun l hl => ?_⟩
  exact congrArg (Option.getD · 0) (tfind_map_const hl)

/-! ### Data that returns (R85, R389) -/

/-- R85: a result that is written is done, and all else of the gang is the same. -/
theorem Gang.complete_arrives {G : Gang} {id : Nat} {p : Pend} (h : G.pend.find? (fun q => decide (q.id = id)) = some p) :
    SameRegs (G.applyWrites p.writes) (G.complete id) ∧ (∀ q ∈ (G.complete id).pend, q.id = id → q.done = true ∧ q.writes = []) ∧
    { G.complete id with pool := G.pool, s := G.s, bad := G.bad, pend := G.pend } = G := by
  unfold Gang.complete
  rw [h]
  refine ⟨⟨rfl, rfl, rfl, rfl, rfl⟩, fun q hq hid => ?_, ?_⟩
  · obtain ⟨p, -, rfl⟩ := List.mem_map.mp (List.mem_filter.mp hq).1
    by_cases hp : p.id = id
    · rw [if_pos hp]
      exact ⟨rfl, rfl⟩
    · rw [if_neg hp] at hid
      exact absurd hid hp
  · exact (congrArg (fun H : Gang => { H with pend := G.pend }) (G.applyWrites_frame p.writes) :)

/-- The gang with other writes for a pending result. -/
def Gang.rewrite (G : Gang) (id : Nat) (ws : List RegWrite) : Gang :=
  { G with pend := G.pend.map (fun q => if q.id = id then { q with writes := ws } else q) }

theorem Gang.find?_rewrite {G : Gang} {id : Nat} {p : Pend} (h : G.pend.find? (fun q => decide (q.id = id)) = some p) (ws : List RegWrite) :
    (G.rewrite id ws).pend.find? (fun q => decide (q.id = id)) = some { p with writes := ws } := by
  have hid : p.id = id := by simpa using List.find?_some h
  have hkey : ((fun q : Pend => decide (q.id = id)) ∘ fun q : Pend => if q.id = id then { q with writes := ws } else q) =
      fun q => decide (q.id = id) := by
    funext q
    by_cases hq : q.id = id <;> simp [hq]
  rw [Gang.rewrite, List.find?_map, hkey, h, Option.map_some, if_pos hid]

theorem Gang.rewrite_arrives {G : Gang} {id : Nat} {p : Pend} (h : G.pend.find? (fun q => decide (q.id = id)) = some p) (ws : List RegWrite) :
    SameRegs (G.applyWrites ws) ((G.rewrite id ws).complete id) ∧
    (∀ q ∈ ((G.rewrite id ws).complete id).pend, q.id = id → q.done = true ∧ q.writes = []) ∧
    { (G.rewrite id ws).complete id with pool := G.pool, s := G.s, bad := G.bad, pend := G.pend } = G := by
  obtain ⟨hregs, hdone, hrest⟩ := Gang.complete_arrives (Gang.find?_rewrite h ws)
  refine ⟨sameRegs_trans ?_ hregs, hdone, (congrArg (fun H : Gang => { H with pend := G.pend }) hrest :)⟩
  show SameRegs (G.applyWrites ws) ((G.rewrite id ws).applyWrites ws)
  rw [show (G.rewrite id ws).applyWrites ws = { G.applyWrites ws with pend := (G.rewrite id ws).pend } from G.applyWrites_pend _ ws]
  exact ⟨rfl, rfl, rfl, rfl, rfl⟩

/-- The first result of a number is the first that also passes a test, if it passes. -/
theorem find?_and_of_find? {α : Type} {p q : α → Bool} {ls : List α} {x : α} (h : ls.find? p = some x) (hx : q x = true) :
    ls.find? (fun y => p y && q y) = some x := by
  obtain ⟨hp, as, bs, rfl, has⟩ := List.find?_eq_some_iff_append.mp h
  exact List.find?_eq_some_iff_append.mpr ⟨by rw [hp, hx]; rfl, as, bs, rfl, fun a ha => by simp [has a ha]⟩

theorem exec_loadDataReturn {s : State} {t g id : Nat} {p : Pend} (h : (s.gang t g).pend.find? (fun q => decide (q.id = id)) = some p)
    (hr : p.returns = true) (he : p.ecc = none) :
    exec (.loadDataReturn t g id) s =
      .next (((s.reread t g p).setGang t g (((s.reread t g p).gang t g).complete id)).chargeMisses p.misses) := by
  show execLoadDataReturn t g id s = _
  unfold execLoadDataReturn
  dsimp only
  rw [find?_and_of_find? h hr]
  dsimp only
  rw [he]

/-- Settles O20. Results with no window are written before the word ends, which writes no register (`Gang.sameRegs_closeWord`); data that
returns completes its record (`Gang.complete_arrives`), with the writes that a rereading gave it (`Gang.rewrite_arrives`). -/
theorem resultsArriveAtOnceOrPending : Obligations.ResultsArriveAtOnceOrPending := by
  refine ⟨fun s la regs ws fl => ⟨fun h => h ▸ s.results_atOnce_writes regs ws fl, fun h => s.results_opens h regs ws fl⟩,
    fun s t g id p h hk hd he => ?_⟩
  have hid : p.id = id := by simpa using List.find?_some h
  have hexec := exec_loadDataReturn h (by simp [Pend.returns, hk, hd]) he
  obtain ⟨hregs, hdone, hrest⟩ := Gang.complete_arrives h
  cases hagain : p.again with
  | none =>
    rw [State.reread_none s t g hagain] at hexec
    exact ⟨s, p.writes, _, .inl ⟨rfl, rfl, rfl⟩, hexec, hregs, (congrArg Gang.pcs hrest :), hdone, hrest⟩
  | some r =>
    rcases State.reread_some s t g hagain with hs | hs
    · rw [hs] at hexec
      exact ⟨_, p.writes, _, .inr ⟨rfl, r, rfl, .inl rfl⟩, hexec, hregs, (congrArg Gang.pcs hrest :), hdone, hrest⟩
    · obtain ⟨wregs, wdone, wrest⟩ := Gang.rewrite_arrives h (r.writes { s with fuel := s.fuel + 1 } (s.gang t g))
      rw [hs, hid, State.modGang, State.setGang_setGang, State.gang_setGang] at hexec
      exact ⟨_, _, _, .inr ⟨rfl, r, rfl, .inr rfl⟩, hexec, wregs, (congrArg Gang.pcs wrest :), wdone, wrest⟩

end Sys2Proof.Machine
end

section
/-! A step of an issue unit (R66, R67, R171, R439, R467): the turn of the next chosen run, the fetch of its word, its trial and its charge. -/

namespace Sys2Proof.Machine

open Sys2Proof.Safety

/-! ### The turn of a chosen run (R171) -/

theorem State.issueTurn_issues {s : State} {c : Cur} {rest : List Cur} (hr : s.runs = true) (hi : s.issues = c :: rest) :
    s.issueTurn = s.issueNext c rest := by
  simp [State.issueTurn, hr, hi]

theorem State.freeTurn_issues {s : State} {c : Cur} {rest : List Cur} (hr : s.runs = true) (hi : s.issues = c :: rest) :
    s.freeTurn = s.issueNext c rest := by
  simp [State.freeTurn, hr, hi]

/-- A turn of the issue units, named by the schedule or left free by it, belongs to the next chosen run. -/
theorem step_issues {s : State} {more : List Turn} {c : Cur} {rest : List Cur}
    (ha : s.agenda = .issue :: more ∨ (s.agenda = [] ∧ more = [])) (hr : s.runs = true) (hi : s.issues = c :: rest) :
    step s = ({ s with agenda := more } : State).issueNext c rest := by
  rcases ha with ha | ⟨ha, rfl⟩
  · rw [step, ha]
    exact State.issueTurn_issues hr hi
  · have hs : ({ s with agenda := [] } : State) = s := by rw [← ha]
    rw [hs, step, ha]
    exact State.freeTurn_issues hr hi

theorem State.issueNext_ready {s t : State} {c : Cur} {rest : List Cur} (h : ({ s with issues := rest } : State).stillReady c = true)
    (ht : (({ s with issues := rest } : State).atRun c).issueCur = .next t) : s.issueNext c rest = .next { t with note := .none } := by
  simp only [State.issueNext, h, if_true, ht]

/-! ### The word at the PC (R66, R67) -/

section
variable {s s1 s2 : State} {t g pa : Nat}

/-- R67: a word that memory and the core's instruction caches hold alike. -/
theorem State.codeWord_alike (hl : s.isLocal pa = true) (h1 : s1 = s.codeLine (s.gang t g).core (s.team t).ctx pa)
    (hc : ∀ m, (s1.core (s.gang t g).core).code = some m → readNum m pa 8 = readNum s1.mem pa 8) :
    s.codeWord t g pa = (s1, some (BitVec.ofNat 64 (readNum s1.mem pa 8))) := by
  unfold State.codeWord
  dsimp only
  rw [if_pos hl, ← h1]
  split
  · rfl
  · next m hm => rw [if_pos (hc m hm)]

/-- R259: a fetch that passes its checks. -/
theorem State.fetchWord_mapped {va : W64} {w : W64} (ha : va.toNat % 8 = 0) (hv : canonicalVA va = true)
    (hm : s.checkMapped t g va .exec = (s1, .ok (.mem pa))) (hl : s1.isLocal pa = true)
    (hp : poisoned s1.poison (lineOf pa * 128) 128 = false) (hw : s1.codeWord t g pa = (s2, some w)) :
    s.fetchWord t g va = (s2, .word w) := by
  simp [State.fetchWord, ha, hv, hm, hl, hp, hw]

theorem State.nextWord_plain {w : W64} {i : Instr} (hn : noRep s.curGang = true)
    (hf : s.fetchWord s.cur.team s.cur.gang s.cur.pc = (s1, .word w)) (hd : decode w = .ok i) : s.nextWord = (s1, .word i) := by
  unfold State.nextWord
  dsimp only
  split
  · next hp => exact absurd hp (noRep_ne hn _ _ _ _ _ _)
  · rw [hf]
    simp only [wordOf, hd]
end

/-! ### The trial of a word -/

section
variable {s s1 s2 : State} {i : Instr}

/-- R171: a word that neither waits nor stalls is ready to issue. -/
theorem State.tryWord_ready (he : exec i s = .next s1) (hh : s1.note ≠ .held) (hl : s1.note ≠ .late) (hb : s1.curGang.stop.before = false)
    (hf : s.flitsShort s1 = false) : s.tryWord (.word i) = .ready s (.word i) (decide (s1.note = .trapped)) s1 := by
  simp [State.tryWord, State.runNext, he, hh, hl, hb, hf]

theorem State.tryCur_word {w : NextWord} (hs : s.stepLanes = []) (hn : s.nextWord = (s1, w)) (hf : s.flitsShort s1 = false)
    (ho : s1.orphan s1.curTeam = false) : s.tryCur = s1.tryWord w := by
  simp [State.tryCur, hs, hn, hf, ho]

theorem State.issueCur_ready {w : NextWord} {trapped : Bool} (h : s.tryCur = .ready s1 w trapped s2) :
    s.issueCur = s1.payAndIssue w trapped s2 := by
  simp only [State.issueCur, h]

/-! ### The charge of a word (R442, R467) -/

/-- R467: a charge that was taken when the run was chosen stands. -/
theorem State.payAndIssue_paid {w : NextWord} {trapped : Bool} {n : Nat} (h : s.cur.paid = some (n, trapped)) :
    s.payAndIssue w trapped s1 = .next (s1.issued s w) := by
  simp [State.payAndIssue, h]

/-- R442: a charge that is taken now, after one that was taken for another outcome has gone back. -/
theorem State.payAndIssue_takes {trapped : Bool} {s3 : State} (h : ∀ n, s.cur.paid ≠ some (n, trapped))
    (hp : (s.repay s.cur).payWord (.word i) trapped = (s2, .taken)) (he : exec i s2 = .next s3) :
    s.payAndIssue (.word i) trapped s1 = .next (s3.issued s2 (.word i)) := by
  unfold State.repay at hp
  unfold State.payAndIssue State.repay
  cases hpaid : s.cur.paid with
  | none =>
    rw [hpaid] at hp
    simp [hp, State.runNext, he]
  | some p =>
    obtain ⟨n, tr⟩ := p
    rw [hpaid] at hp
    have htr : tr ≠ trapped := fun e => h n (e ▸ hpaid)
    simp only [if_neg htr, hp, State.runNext, he]
end

/-- Settles O7. The chosen run has its turn (`step_issues`), its word is fetched and decoded (`State.nextWord_plain`), tried, and, once its
charge is taken, its `exec` is the step. -/
theorem stepRunsDecodedWord : Obligations.StepRunsDecodedWord := by
  intro s s1 s2 s3 s4 more c rest pa i hagenda hpow hready hissues hstill hs1 hstep hrep halign hcan hmap hlocal hpoison hs3 hcode hdec
    horphan hflits he hheld hlate hstop hshort
  have hfetch := State.fetchWord_mapped halign hcan hmap hlocal hpoison (State.codeWord_alike hlocal hs3 hcode)
  have htry : s1.tryCur = .ready s3 (.word i) (decide (s4.note = .trapped)) s4 :=
    (State.tryCur_word hstep (State.nextWord_plain hrep hfetch hdec) hflits horphan).trans
      (State.tryWord_ready he hheld hlate hstop hshort)
  have hturn (t : State) (h : s3.payAndIssue (.word i) (decide (s4.note = .trapped)) s4 = .next t) :
      step s = .next { t with note := .none } := by
    rw [step_issues hagenda (by simp [State.runs, hpow, hready]) hissues]
    refine State.issueNext_ready hstill ?_
    rw [← h, ← State.issueCur_ready htry, hs1]
  exact ⟨fun n hpaid => hturn _ (State.payAndIssue_paid hpaid), fun s5 s6 hpaid hpay he6 => hturn _ (State.payAndIssue_takes hpaid hpay he6)⟩

end Sys2Proof.Machine
end

section
/-! Taking a trap (R256, R258 to R262, R265, R268): what the trap registers record, how the run enters a handler, and what the host's part is
where no handler takes it. -/

namespace Sys2Proof.Machine

open Sys2Proof.Safety

/-! ### The causes by lane (R261) -/

theorem getLsbD_foldl_or {α : Type} (f : α → W64) (ls : List α) (w : W64) (k : Nat) :
    (ls.foldl (fun w q => w ||| f q) w).getLsbD k = (w.getLsbD k || ls.any (fun q => (f q).getLsbD k)) := by
  induction ls generalizing w with
  | nil => simp
  | cons x ls ih => simp [ih, Bool.or_assoc]

/-- Bit `k` of four bits that stand at a lane's place. -/
theorem getLsbD_shiftedNibble {c l j k : Nat} (hc : c < 16) (hj : j < 16) (hk : k < 4) :
    (BitVec.ofNat 64 (c % 16) <<< (4 * (l % 16))).getLsbD (4 * j + k) = (decide (l % 16 = j) && c.testBit k) := by
  rw [BitVec.getLsbD_shiftLeft, BitVec.getLsbD_ofNat, Nat.mod_eq_of_lt hc]
  rcases Nat.lt_trichotomy (l % 16) j with h | h | h
  · have hbit : c.testBit (4 * j + k - 4 * (l % 16)) = false :=
      Nat.testBit_lt_two_pow (Nat.lt_of_lt_of_le hc (Nat.pow_le_pow_right (n := 2) (by decide) (show 4 ≤ _ by omega)))
    simp [hbit, h.ne]
  · have hlt : 4 * j + k < 64 := by omega
    simp [hlt, h]
    omega
  · have hlt : 4 * j + k < 4 * (l % 16) := by omega
    simp [hlt, h.ne']

theorem getLsbD_lanesWord (ls : List Nat) {c i j k : Nat} (hc : c < 16) (hj : j < 16) (hk : k < 4) :
    (lanesWord (causeAll ls c) i).getLsbD (4 * j + k) = (decide (16 * i + j ∈ ls) && c.testBit k) := by
  have hzero : (0 : W64).getLsbD (4 * j + k) = false := BitVec.getLsbD_zero
  rw [lanesWord, getLsbD_foldl_or, hzero, causeAll, List.filter_map, List.any_map, List.any_filter]
  simp only [Function.comp_def, getLsbD_shiftedNibble hc hj hk, Bool.false_or]
  rw [Bool.eq_iff_iff]
  simp only [List.any_eq_true, Bool.and_eq_true, decide_eq_true_eq]
  refine ⟨fun ⟨l, hl, hi, hlj, hbit⟩ => ⟨(show l = 16 * i + j by omega) ▸ hl, hbit⟩, fun ⟨hl, hbit⟩ => ⟨_, hl, by omega, by omega, hbit⟩⟩

/-- R261: the four bits of a lane hold its cause, or zero. -/
theorem lanesWord_causeAll (ls : List Nat) {c i j : Nat} (hc : c < 16) (hj : j < 16) :
    ((lanesWord (causeAll ls c) i).extractLsb' (4 * j) 4).toNat = if 16 * i + j ∈ ls then c else 0 := by
  have hbits : (lanesWord (causeAll ls c) i).extractLsb' (4 * j) 4 = BitVec.ofNat 4 (if 16 * i + j ∈ ls then c else 0) := by
    refine BitVec.eq_of_getLsbD_eq (fun k hk => ?_)
    rw [BitVec.getLsbD_extractLsb', getLsbD_lanesWord ls hc hj hk, BitVec.getLsbD_ofNat]
    split <;> simp [*]
  rw [hbits, BitVec.toNat_ofNat]
  split <;> omega

/-- R261: every lane that a trap lists has the same cause. -/
theorem lowestCause_causeAll {ls : List Nat} (h : ls ≠ []) (c : Nat) : lowestCause (causeAll ls c) = c := by
  cases ls with
  | nil => exact absurd rfl h
  | cons l ls =>
    unfold lowestCause causeAll
    simp only [List.map_cons, List.map_map]
    induction ls with
    | nil => rfl
    | cons k ls ih => simpa using ih (by simp)

/-! ### TSTAT (R262) -/

theorem Gang.level_eq (G : Gang) : G.level = G.tstat.toNat % 4 := by
  simp [Gang.level, BitVec.extractLsb'_toNat]

section
variable (G : Gang) (x : TrapRec) {n : Nat}

/-- A bit of TSTAT comes from one of its fields. -/
theorem getLsbD_trapStat (k : Nat) : (trapStat G.tstat x n false).getLsbD k =
    (G.tstat.getLsbD k && (0x80 : W64).getLsbD k || (x.stepped && (0x40 : W64).getLsbD k) || (x.late && (0x10 : W64).getLsbD k) ||
      (!decide (G.tstat &&& 3 = 0) && (8 : W64).getLsbD k) || (x.keep && (4 : W64).getLsbD k) || (decide (k < 64) && n.testBit k)) := by
  have hset (b : Bool) (v : W64) : (if b = true then v else 0).getLsbD k = (b && v.getLsbD k) := by cases b <;> simp
  have hclear (p : Prop) [Decidable p] (v : W64) : (if p then 0 else v).getLsbD k = (!decide p && v.getLsbD k) := by
    by_cases hp : p <;> simp [hp]
  simp only [trapStat, BitVec.getLsbD_or, BitVec.getLsbD_and, hset, hclear, Bool.false_eq_true, if_false, BitVec.getLsbD_ofNat 64 n]

/-- R265: LEVEL is that of the handler. -/
theorem trapStat_level (hn : n < 4) : ((trapStat G.tstat x n false).extractLsb' 0 2).toNat = n := by
  have hbits : (trapStat G.tstat x n false).extractLsb' 0 2 = BitVec.ofNat 2 n := by
    refine BitVec.eq_of_getLsbD_eq (fun k hk => ?_)
    have hk01 : k = 0 ∨ k = 1 := by omega
    rw [BitVec.getLsbD_extractLsb', getLsbD_trapStat, BitVec.getLsbD_ofNat 2 n]
    rcases hk01 with rfl | rfl <;> simp +decide
  rw [hbits, BitVec.toNat_ofNat, Nat.mod_eq_of_lt hn]

/-- R262: NEST tells a trap out of a handler. -/
theorem trapStat_nest (hn : n < 4) : (trapStat G.tstat x n false).getLsbD 3 = true ↔ G.level ≠ 0 := by
  have hlow : G.tstat &&& 3 = 0 ↔ G.level = 0 := by
    rw [Gang.level_eq, ← BitVec.toNat_inj, BitVec.toNat_and]
    exact Eq.congr_left (Nat.and_two_pow_sub_one_eq_mod _ 2)
  have hbit : n.testBit 3 = false := Nat.testBit_lt_two_pow (by omega)
  rw [getLsbD_trapStat, hbit]
  simpa +decide using not_congr hlow

/-- R262: STEP is kept. -/
theorem trapStat_step (hn : n < 4) : (trapStat G.tstat x n false).getLsbD 7 = G.tstat.getLsbD 7 := by
  have hbit : n.testBit 7 = false := Nat.testBit_lt_two_pow (by omega)
  rw [getLsbD_trapStat, hbit]
  simp +decide
end

/-! ### Entering a handler (R265) -/

/-- Lanes that enter a handler: Ready at its first word, with age zero. -/
def Gang.enterAt (G : Gang) (ls : List Nat) (h : W64) : Gang :=
  G.eachLane ls (fun G l => ((G.setLane l .ready).setPc l h).setAge l 0)

theorem Gang.enterAt_frame (G : Gang) (ls : List Nat) (h : W64) :
    { G.enterAt ls h with pcs := G.pcs, lst := G.lst, ages := G.ages } = G :=
  List.foldlRecOn (motive := fun H : Gang => { H with pcs := G.pcs, lst := G.lst, ages := G.ages } = G) ls _ rfl (fun _ h _ _ => h)

theorem Gang.enterAt_lane (G : Gang) (h : W64) (l : Nat) :
    (((G.setLane l .ready).setPc l h).setAge l 0).pc l = h ∧ (((G.setLane l .ready).setPc l h).setAge l 0).laneState l = .ready ∧
    (((G.setLane l .ready).setPc l h).setAge l 0).age l = 0 := by
  simp [Gang.pc, Gang.laneState, Gang.age, Gang.setLane, Gang.setPc, Gang.setAge]

theorem Gang.enterAt_otherLane (G : Gang) (h : W64) {l j : Nat} (hj : j ≠ l) :
    (((G.setLane l .ready).setPc l h).setAge l 0).pc j = G.pc j ∧ (((G.setLane l .ready).setPc l h).setAge l 0).laneState j = G.laneState j ∧
    (((G.setLane l .ready).setPc l h).setAge l 0).age j = G.age j := by
  simp [Gang.pc, Gang.laneState, Gang.age, Gang.setLane, Gang.setPc, Gang.setAge, tget_tset_ne _ _ hj]

theorem Gang.enterAt_lanes (G : Gang) (ls : List Nat) (h : W64) :
    (∀ l ∈ ls, (G.enterAt ls h).pc l = h ∧ (G.enterAt ls h).laneState l = .ready ∧ (G.enterAt ls h).age l = 0) ∧
    (∀ l, l ∉ ls → (G.enterAt ls h).pc l = G.pc l ∧ (G.enterAt ls h).laneState l = G.laneState l ∧ (G.enterAt ls h).age l = G.age l) := by
  induction ls generalizing G with
  | nil => exact ⟨fun _ h => absurd h List.not_mem_nil, fun _ _ => ⟨rfl, rfl, rfl⟩⟩
  | cons x ls ih =>
    obtain ⟨hin, hout⟩ := ih (((G.setLane x .ready).setPc x h).setAge x 0)
    refine ⟨fun l hl => ?_, fun l hl => ?_⟩
    · by_cases hls : l ∈ ls
      · exact hin l hls
      · obtain rfl := (List.mem_cons.mp hl).resolve_right hls
        obtain ⟨hpc, hst, hage⟩ := hout l hls
        obtain ⟨kpc, kst, kage⟩ := G.enterAt_lane h l
        exact ⟨hpc.trans kpc, hst.trans kst, hage.trans kage⟩
    · obtain ⟨hne, hls⟩ := not_or.mp (fun e => hl (List.mem_cons.mpr e))
      obtain ⟨hpc, hst, hage⟩ := hout l hls
      obtain ⟨kpc, kst, kage⟩ := G.enterAt_otherLane h hne
      exact ⟨hpc.trans kpc, hst.trans kst, hage.trans kage⟩

/-- R261: the gang with its trap registers written, and its run's own sequence and single step ended. -/
def Gang.recorded (G : Gang) (run : List Nat) (pc : W64) (x : TrapRec) (n : Nat) (host : Bool) : Gang :=
  ({ G with prog := none, stepArm := G.stepArm &&& ~~~bitsOf run, stepped := G.stepped &&& ~~~bitsOf run, stop := .none, failed := [] } :
    Gang).record pc { x with keep := x.keep || G.inProgress (bitsOf run) } n host

/-- The lanes of a run that have not exited. -/
def Gang.liveOf (G : Gang) (run : List Nat) : List Nat := run.filter (fun l => decide (G.laneState l ≠ .exited))

/-- R265: the gang with the live lanes of a run at a handler. -/
def Gang.handled (G : Gang) (run : List Nat) (pc : W64) (x : TrapRec) (n : Nat) (h : W64) : Gang :=
  { (G.recorded run pc x n false).enterAt (G.liveOf run) h with hset := bitsOf (G.liveOf run) }

/-- R265: the first word of a handler. -/
def State.handlerAddr (s : State) (c n : Nat) : W64 := if n = 1 then (s.ctx c).khandler else (s.part (s.partOf c)).shandler

theorem State.handlerAddr_latchWdog (s : State) (c n : Nat) : (s.latchWdog c).handlerAddr c n = s.handlerAddr c n := by
  unfold State.latchWdog
  split
  · rfl
  · unfold State.handlerAddr
    rw [State.ctx_modCtx]
    rfl

theorem State.cur_latchWdog (s : State) (c : Nat) : (s.latchWdog c).cur = s.cur := by
  unfold State.latchWdog
  split <;> rfl
theorem State.time_latchWdog (s : State) (c : Nat) : (s.latchWdog c).time = s.time := by
  unfold State.latchWdog
  split <;> rfl
theorem State.msgs_latchWdog (s : State) (c : Nat) : (s.latchWdog c).msgs = s.msgs := by
  unfold State.latchWdog
  split <;> rfl
section
variable {s : State} {x : TrapRec} (run : List Nat) (pc : W64)

/-- R265: a trap of the issuing gang that a handler takes. -/
theorem State.deliver_handled {n : Nat} (h : s.handlerOf s.curTeam.ctx s.curGang.level (lowestCause x.causes) = n) (hn : n ≠ 3) :
    s.deliver s.cur.team s.cur.gang run pc x = (s.latchWdog s.curTeam.ctx).setTeam s.cur.team
      (s.curTeam.setGang s.cur.gang (s.curGang.handled run pc x n (s.handlerAddr s.curTeam.ctx n))) := by
  unfold State.deliver
  dsimp only
  rw [show s.handlerOf (s.team s.cur.team).ctx ((s.team s.cur.team).gang s.cur.gang).level (lowestCause x.causes) = n from h, if_neg hn,
    ← State.handlerAddr_latchWdog]
  rfl

/-- R265, R276: a trap of the issuing gang that the host is to handle. -/
theorem State.deliver_hosted (h : s.handlerOf s.curTeam.ctx s.curGang.level (lowestCause x.causes) = 3) :
    s.deliver s.cur.team s.cur.gang run pc x = (s.latchWdog s.curTeam.ctx).setTeam s.cur.team
      { s.curTeam.setGang s.cur.gang { s.curGang.recorded run pc x s.curGang.level true with stop := .saved } with
        stopReq := some (s.curTeam.trapRequest s.cur.gang (if s.curGang.level = 2 then 7 else 6) s.time) } := by
  unfold State.deliver
  dsimp only
  rw [if_pos (show s.handlerOf (s.team s.cur.team).ctx ((s.team s.cur.team).gang s.cur.gang).level _ = 3 from h), State.time_latchWdog]
  rfl
end

/-! ### A trap with nothing pending (R256) -/

section
variable {s : State} {x : TrapRec}

theorem Gang.completeData_done {G : Gang} (h : G.pend.all (fun p => p.done) = true) : G.completeData = G ∧
    G.pend.filter (fun p => decide (p.kind = .data) && p.ecc.isNone && !p.done) = [] := by
  have hnone : G.pend.filter (fun p => decide (p.kind = .data) && p.ecc.isNone && !p.done) = [] :=
    List.filter_eq_nil_iff.mpr (fun p hp => by simp [List.all_eq_true.mp h p hp])
  exact ⟨by rw [Gang.completeData, hnone]; rfl, hnone⟩

theorem Gang.settled_done {G : Gang} (h : G.pend.all (fun p => p.done) = true) : G.settled = true ∧ G.pend.find? Pend.late = none := by
  refine ⟨List.all_eq_true.mpr fun p hp => ?_, List.find?_eq_none.mpr fun p hp => ?_⟩
  · rw [List.all_eq_true.mp h p hp]
    rfl
  · simp [Pend.late, List.all_eq_true.mp h p hp]

/-- The state with the windows of the issuing run ended, in which its trap is delivered (R256). -/
def State.windowsEnded (s : State) : State := s.setCur (s.curGang.countWindows s.runLanes true)

/-- R256: where every result has been written, a trap is taken at once. -/
theorem State.trapRun_delivers (h : s.curGang.pend.all (fun p => p.done) = true) (x : TrapRec) :
    s.trapRun x = { s.windowsEnded.deliver s.windowsEnded.cur.team s.windowsEnded.cur.gang s.runLanes s.cur.pc x with
      note := .trapped } := by
  obtain ⟨hdata, hnone⟩ := Gang.completeData_done h
  obtain ⟨hsettled, hlate⟩ := Gang.settled_done h
  have hcomplete : s.completeData s.cur.team s.cur.gang = s.setCur s.curGang := by
    unfold State.completeData
    dsimp only
    rw [show s.gang s.cur.team s.cur.gang = s.curGang from rfl, hdata, hnone]
    rfl
  unfold State.trapRun
  dsimp only
  rw [hcomplete, State.curGang_setCur, hsettled, hlate, if_neg (by decide), State.setCur_setCur s s.curGang (s.curGang.countWindows s.runLanes true)]
  rfl

theorem State.curGang_windowsEnded (s : State) : s.windowsEnded.curGang = s.curGang.countWindows s.runLanes true := s.curGang_setCur _
theorem State.ctx_windowsEnded (s : State) : s.windowsEnded.curTeam.ctx = s.curTeam.ctx :=
  (congrArg Team.ctx (s.curTeam_setCur (s.curGang.countWindows s.runLanes true)) :)

theorem Gang.level_countWindows (G : Gang) (run : List Nat) (e : Bool) : (G.countWindows run e).level = G.level :=
  (congrArg Gang.level (G.countWindows_frame run e) :)

/-- The end of windows changes no handler. -/
theorem State.handlerOf_windowsEnded (s : State) (c : Nat) :
    s.windowsEnded.handlerOf s.windowsEnded.curTeam.ctx s.windowsEnded.curGang.level c = s.handlerOf s.curTeam.ctx s.curGang.level c := by
  rw [State.curGang_windowsEnded, State.ctx_windowsEnded, Gang.level_countWindows]
  rfl

/-- A delivery replaces the gang's entry in its team, and the team, in which the windows were ended. -/
theorem State.setGang_windowsEnded (s : State) (H : Gang) :
    s.windowsEnded.curTeam.setGang s.windowsEnded.cur.gang H = s.curTeam.setGang s.cur.gang H := by
  rw [State.windowsEnded, State.curTeam_setCur]
  exact Team.setGang_setGang ..
theorem State.trapRequest_windowsEnded (s : State) (g reason time : Nat) :
    s.windowsEnded.curTeam.trapRequest g reason time = s.curTeam.trapRequest g reason time := by
  rw [State.windowsEnded, State.curTeam_setCur]
  rfl
theorem State.setTeam_windowsEnded (s : State) (c : Nat) (U : Team) :
    (s.windowsEnded.latchWdog c).setTeam s.windowsEnded.cur.team U = (s.latchWdog c).setTeam s.cur.team U := by
  unfold State.windowsEnded State.latchWdog
  rw [State.ctx_setCur]
  split
  · exact State.setTeam_setTeam s s.cur.team _ U
  · exact (State.setTeam_setTeam (s.modCtx c (fun C => { C with wdogNow := C.wdog })) s.cur.team _ U :)

theorem State.latchWdog_setCur (s : State) (c : Nat) (H : Gang) :
    (s.latchWdog c).setTeam s.cur.team (s.curTeam.setGang s.cur.gang H) = (s.latchWdog c).setCur H := by
  unfold State.latchWdog
  split <;> rfl

/-- The issuing gang once a handler has taken a trap of its run. -/
def State.handledGang (s : State) (x : TrapRec) (n : Nat) : Gang :=
  (s.curGang.countWindows s.runLanes true).handled s.runLanes s.cur.pc x n (s.handlerAddr s.curTeam.ctx n)

/-- R265: a trap that a handler takes changes the issuing gang, and lets a write of WDOG take effect (R263). -/
theorem State.trapRun_handled {n : Nat} (h : s.curGang.pend.all (fun p => p.done) = true)
    (hh : s.handlerOf s.curTeam.ctx s.curGang.level (lowestCause x.causes) = n) (hn : n ≠ 3) :
    s.trapRun x = { (s.latchWdog s.curTeam.ctx).setCur (s.handledGang x n) with note := .trapped } := by
  rw [State.trapRun_delivers h, State.deliver_handled _ _ ((s.handlerOf_windowsEnded _).trans hh) hn, State.curGang_windowsEnded,
    State.ctx_windowsEnded, State.setGang_windowsEnded, State.setTeam_windowsEnded, State.latchWdog_setCur]
  rfl

/-- The issuing gang once the host is to handle a trap of its run. -/
def State.hostedGang (s : State) (x : TrapRec) : Gang :=
  { (s.curGang.countWindows s.runLanes true).recorded s.runLanes s.cur.pc x s.curGang.level true with stop := .saved }

/-- R265, R276: a trap that no handler takes stops the gang and asks for the save of its team. -/
theorem State.trapRun_hosted (h : s.curGang.pend.all (fun p => p.done) = true)
    (hh : s.handlerOf s.curTeam.ctx s.curGang.level (lowestCause x.causes) = 3) :
    s.trapRun x = { (s.latchWdog s.curTeam.ctx).setTeam s.cur.team { s.curTeam.setGang s.cur.gang (s.hostedGang x) with
      stopReq := some (s.curTeam.trapRequest s.cur.gang (if s.curGang.level = 2 then 7 else 6) s.time) } with note := .trapped } := by
  rw [State.trapRun_delivers h, State.deliver_hosted _ _ ((s.handlerOf_windowsEnded _).trans hh), State.curGang_windowsEnded,
    State.ctx_windowsEnded, State.setGang_windowsEnded, State.trapRequest_windowsEnded, State.setTeam_windowsEnded, Gang.level_countWindows]
  rfl

/-! ### What a handler finds (R261, R262, R265) -/

theorem tget_tlanes (f : Nat → W64) {i : Nat} (h : i < 4) : tget 0 ((upto 4).foldl (fun t i => tset 0 t i (f i)) []) i = f i := by
  have hi : i = 0 ∨ i = 1 ∨ i = 2 ∨ i = 3 := by omega
  rcases hi with rfl | rfl | rfl | rfl <;> simp [upto, List.range_succ, tget_tset]

theorem Gang.handled_frame (G : Gang) (run : List Nat) (pc : W64) (x : TrapRec) (n : Nat) (a : W64) :
    { G.handled run pc x n a with pcs := G.pcs, lst := G.lst, ages := G.ages } =
      { G.recorded run pc x n false with hset := bitsOf (G.liveOf run) } :=
  (congrArg (fun H : Gang => { H with hset := bitsOf (G.liveOf run) }) ((G.recorded run pc x n false).enterAt_frame (G.liveOf run) a) :)

theorem Gang.liveOf_countWindows (G : Gang) (run ls : List Nat) (e : Bool) : (G.countWindows run e).liveOf ls = G.liveOf ls :=
  (congrArg (fun H : Gang => H.liveOf ls) (G.countWindows_frame run e) :)
theorem Gang.laneState_countWindows (G : Gang) (run : List Nat) (e : Bool) (l : Nat) : (G.countWindows run e).laneState l = G.laneState l :=
  (congrArg (fun H : Gang => H.laneState l) (G.countWindows_frame run e) :)
theorem Gang.tstat_countWindows (G : Gang) (run : List Nat) (e : Bool) : (G.countWindows run e).tstat = G.tstat :=
  (congrArg Gang.tstat (G.countWindows_frame run e) :)

variable (s x) (n : Nat)

/-- R261: the trap registers, TSTAT apart. -/
theorem State.handledGang_trapRegs : (s.handledGang x n).tpc = s.cur.pc ∧ (s.handledGang x n).taddr = x.addr ∧
    (s.handledGang x n).tcause = BitVec.ofNat 64 (x.code * 256 + lowestCause x.causes) ∧
    (s.handledGang x n).hset = bitsOf (s.curGang.liveOf s.runLanes) ∧
    ∀ i < 4, tget 0 (s.handledGang x n).tlanes i = lanesWord x.causes i := by
  have hframe := Gang.handled_frame (s.curGang.countWindows s.runLanes true) s.runLanes s.cur.pc x n (s.handlerAddr s.curTeam.ctx n)
  refine ⟨(congrArg Gang.tpc hframe :), (congrArg Gang.taddr hframe :), (congrArg Gang.tcause hframe :), ?_, fun i hi => ?_⟩
  · rw [← Gang.liveOf_countWindows s.curGang s.runLanes s.runLanes true]
    exact (congrArg Gang.hset hframe :)
  · exact (congrArg (fun H : Gang => tget 0 H.tlanes i) hframe :).trans (tget_tlanes _ hi)

/-- R262: TSTAT. -/
theorem State.handledGang_tstat (hn : n < 4) : (s.handledGang x n).level = n ∧
    ((s.handledGang x n).tstat.getLsbD 3 = true ↔ s.curGang.level ≠ 0) ∧
    (s.handledGang x n).tstat.getLsbD 7 = s.curGang.tstat.getLsbD 7 := by
  have hframe := Gang.handled_frame (s.curGang.countWindows s.runLanes true) s.runLanes s.cur.pc x n (s.handlerAddr s.curTeam.ctx n)
  have htstat : (s.handledGang x n).tstat = trapStat (s.curGang.countWindows s.runLanes true).tstat
      { x with keep := x.keep || (s.curGang.countWindows s.runLanes true).inProgress (bitsOf s.runLanes) } n false :=
    (congrArg Gang.tstat hframe :)
  rw [Gang.tstat_countWindows] at htstat
  rw [Gang.level, htstat]
  exact ⟨trapStat_level _ _ hn, trapStat_nest _ _ hn, trapStat_step _ _ hn⟩

/-- R265: the live lanes of the run are at the handler, and no other lane has moved. -/
theorem State.handledGang_lanes :
    (∀ l ∈ s.curGang.liveOf s.runLanes, (s.handledGang x n).pc l = s.handlerAddr s.curTeam.ctx n ∧
      (s.handledGang x n).laneState l = .ready ∧ (s.handledGang x n).age l = 0) ∧
    (∀ l, l ∉ s.curGang.liveOf s.runLanes → (s.handledGang x n).pc l = s.curGang.pc l ∧
      (s.handledGang x n).laneState l = s.curGang.laneState l) := by
  obtain ⟨hin, hout⟩ := Gang.enterAt_lanes ((s.curGang.countWindows s.runLanes true).recorded s.runLanes s.cur.pc x n false)
    ((s.curGang.countWindows s.runLanes true).liveOf s.runLanes) (s.handlerAddr s.curTeam.ctx n)
  rw [← Gang.liveOf_countWindows s.curGang s.runLanes s.runLanes true]
  exact ⟨hin, fun l hl => ⟨(hout l hl).1.trans (Gang.pc_countWindows ..), (hout l hl).2.1.trans (Gang.laneState_countWindows ..)⟩⟩

/-- R261: a trap writes no register of the gang's program. -/
theorem State.handledGang_sameRegs : SameRegs s.curGang (s.handledGang x n) := by
  have hframe := Gang.handled_frame (s.curGang.countWindows s.runLanes true) s.runLanes s.cur.pc x n (s.handlerAddr s.curTeam.ctx n)
  refine sameRegs_trans (sameRegs_of_moved (s.curGang.countWindows_moved s.runLanes true)) ?_
  exact ⟨(congrArg Gang.pool hframe :), (congrArg Gang.s hframe :), (congrArg Gang.preds hframe :), (congrArg Gang.m hframe :),
    (congrArg Gang.bad hframe :)⟩

end

/-! ### The words and fetches that trap (R77, R95, R259, R268) -/

section
variable {s : State} {g : Grd} {n : BitVec 8}

theorem exec_trap (hc : s.clear (.trap g n) = true) : exec (.trap g n) s =
    if (s.active g).isEmpty then .next (s.finish true)
    else .next (s.trapRun { causes := causeAll (s.active g) 11, code := n.toNat }) := by
  show execTrap g n s = _
  rw [execTrap, trapWord, runWord_clear hc]

theorem exec_brk (hc : s.clear (.brk g n) = true) : exec (.brk g n) s =
    if (s.active g).isEmpty then .next (s.finish true)
    else .next (s.trapRun { causes := causeAll (s.active g) 10, code := n.toNat }) := by
  show execBrk g n s = _
  rw [execBrk, trapWord, runWord_clear hc]
end

theorem handlerOf_lt (s : State) (ctx level cause : Nat) : s.handlerOf ctx level cause < 4 := by
  unfold State.handlerOf
  split
  · decide
  · split <;> decide

/-- R265: a trap with one cause in the listed lanes, taken by a handler. -/
theorem trapRun_enters {s : State} {ls : List Nat} {c : Nat} {x : TrapRec} (hd : s.curGang.pend.all (fun p => p.done) = true)
    (hx : x.causes = causeAll ls c) (hls : ls ≠ []) (hc : c < 16)
    (hn : s.handlerOf s.curTeam.ctx s.curGang.level c ≠ 3) :
    ∃ H, s.trapRun x = { (s.latchWdog s.curTeam.ctx).setCur H with note := .trapped } ∧
      H.level = s.handlerOf s.curTeam.ctx s.curGang.level c ∧ H.tpc = s.cur.pc ∧ H.taddr = x.addr ∧
      H.tcause = BitVec.ofNat 64 (x.code * 256 + c) ∧
      (∀ l < 64, ((tget 0 H.tlanes (l / 16)).extractLsb' (4 * (l % 16)) 4).toNat = if l ∈ ls then c else 0) ∧
      (H.tstat.getLsbD 3 = true ↔ s.curGang.level ≠ 0) ∧ H.tstat.getLsbD 7 = s.curGang.tstat.getLsbD 7 ∧
      H.hset = bitsOf (s.curGang.liveOf s.runLanes) ∧
      (∀ l ∈ s.curGang.liveOf s.runLanes,
        H.pc l = s.handlerAddr s.curTeam.ctx (s.handlerOf s.curTeam.ctx s.curGang.level c) ∧ H.laneState l = .ready ∧ H.age l = 0) ∧
      (∀ l, l ∉ s.curGang.liveOf s.runLanes → H.pc l = s.curGang.pc l ∧ H.laneState l = s.curGang.laneState l) ∧
      SameRegs s.curGang H := by
  have hlow : lowestCause x.causes = c := by rw [hx, lowestCause_causeAll hls]
  obtain ⟨htpc, htaddr, htcause, hhset, htlanes⟩ := s.handledGang_trapRegs x (s.handlerOf s.curTeam.ctx s.curGang.level c)
  obtain ⟨hlevel, hnest, hstep⟩ := s.handledGang_tstat x _ (handlerOf_lt s s.curTeam.ctx s.curGang.level c)
  obtain ⟨hin, hout⟩ := s.handledGang_lanes x (s.handlerOf s.curTeam.ctx s.curGang.level c)
  refine ⟨_, State.trapRun_handled hd (hlow ▸ rfl) hn, hlevel, htpc, htaddr, by rw [htcause, hlow], fun l hl => ?_, hnest, hstep, hhset,
    hin, hout, s.handledGang_sameRegs x _⟩
  rw [htlanes _ (by omega), hx, lanesWord_causeAll ls hc (Nat.mod_lt _ (by decide)), Nat.div_add_mod]

/-- R265, R276: a trap that the host is to handle. -/
theorem trapRun_asksHost {s : State} {ls : List Nat} {c : Nat} {x : TrapRec} (hd : s.curGang.pend.all (fun p => p.done) = true)
    (hx : x.causes = causeAll ls c) (hls : ls ≠ []) (h3 : s.handlerOf s.curTeam.ctx s.curGang.level c = 3) :
    (s.trapRun x).curGang = s.hostedGang x ∧ (s.trapRun x).msgs = s.msgs ∧
    (s.trapRun x).curTeam.stopReq = some (s.curTeam.trapRequest s.cur.gang (if s.curGang.level = 2 then 7 else 6) s.time) := by
  have hlow : lowestCause x.causes = c := by rw [hx, lowestCause_causeAll hls]
  rw [State.trapRun_hosted hd (hlow ▸ h3)]
  refine ⟨?_, s.msgs_latchWdog _, ?_⟩
  · show ((State.setTeam _ s.cur.team _).team (s.latchWdog _).cur.team).gang (s.latchWdog _).cur.gang = _
    rw [State.cur_latchWdog, State.team_setTeam]
    exact Team.gang_setGang s.curTeam s.cur.gang (s.hostedGang x)
  · show ((State.setTeam _ s.cur.team _).team (s.latchWdog _).cur.team).stopReq = _
    rw [State.cur_latchWdog, State.team_setTeam]

/-- R259: the address that a fetch faults at: the word at the PC, or the word that a sequence repeats. -/
def State.fetchAddr (s : State) : W64 :=
  match s.curGang.prog with
  | some (.rep _ _ _ _ _ _) => s.cur.pc + 8
  | _ => s.cur.pc

theorem exec_fetchFault (k : FetchCause) (s : State) :
    exec (.fetchFault k) s = .next (s.trapRun { causes := causeAll s.runLanes (fetchCode k), addr := s.fetchAddr }) := rfl

theorem fetchCode_lt (k : FetchCause) : fetchCode k < 16 := by cases k <;> decide

/-- R261: a word that traps is done with the entry of its handler. -/
theorem exec_enters {i : Instr} {s : State} {ls : List Nat} {c : Nat} {x : TrapRec} (he : exec i s = .next (s.trapRun x))
    (hx : x.causes = causeAll ls c) (hc : c < 16) (hls : ls ≠ []) (hd : s.curGang.pend.all (fun p => p.done) = true)
    (hn : s.handlerOf s.curTeam.ctx s.curGang.level c ≠ 3) :
    ∃ t, exec i s = .next t ∧ t.note = .trapped ∧ t.mem = s.mem ∧ SameRegs s.curGang t.curGang ∧
      t.curGang.level = s.handlerOf s.curTeam.ctx s.curGang.level c ∧ t.curGang.tpc = s.cur.pc ∧ t.curGang.taddr = x.addr ∧
      t.curGang.tcause = BitVec.ofNat 64 (x.code * 256 + c) ∧
      (∀ l < 64, ((tget 0 t.curGang.tlanes (l / 16)).extractLsb' (4 * (l % 16)) 4).toNat = if l ∈ ls then c else 0) ∧
      t.curGang.hset = bitsOf (s.curGang.liveOf s.runLanes) ∧
      (∀ l ∈ s.curGang.liveOf s.runLanes, t.curGang.laneState l = .ready ∧
        t.curGang.pc l = s.handlerAddr s.curTeam.ctx (s.handlerOf s.curTeam.ctx s.curGang.level c)) := by
  obtain ⟨H, ht, hlevel, htpc, htaddr, htcause, htlanes, -, -, hhset, hin, -, hregs⟩ := trapRun_enters hd hx hls hc hn
  have hgang : (s.trapRun x).curGang = H := by
    rw [ht]
    exact State.curGang_setCur _ H
  refine ⟨_, he, by rw [ht], State.mem_trapRun s x, ?_⟩
  rw [hgang]
  exact ⟨hregs, hlevel, htpc, htaddr, htcause, htlanes, hhset, fun l hl => ⟨(hin l hl).2.1, (hin l hl).1⟩⟩

/-- Settles O32. With nothing pending a trap is delivered at once (`State.trapRun_delivers`): to a handler, whose gang is `State.handledGang`,
or to the host, which is told when the team's save is done (`State.trapRun_hosted`); the words that trap record one cause in their lanes. -/
theorem trapsEnterTheHandler : Obligations.TrapsEnterTheHandler := by
  refine ⟨fun s ls c x hd hx hls _ _ hc hn => trapRun_enters hd hx hls hc hn, fun s ls c x hd hx hls h3 => ?_,
    ⟨fun g n s hc ha => ?_, fun g n s hc ha => ?_, fun _ _ => rfl, fun k s => ?_⟩, fun i s ls c code addr hi hls hd hn => ?_,
    fun g n s ha => ⟨fun hc => ?_, fun hc => ?_⟩⟩
  · obtain ⟨hgang, hmsgs, hstop⟩ := trapRun_asksHost hd hx hls h3
    rw [hgang, hstop]
    refine ⟨rfl, rfl, ⟨fun r hr hsome => ?_, fun hnone => ?_⟩, hmsgs, s.mem_trapRun x⟩
    · simp [Team.trapRequest, hr, hsome]
    · unfold Team.trapRequest
      split
      · next r hr => rw [hnone r hr, if_neg (by decide)]
      · rfl
  · rw [exec_trap hc, if_neg (by simpa using ha)]
  · rw [exec_brk hc, if_neg (by simpa using ha)]
  · cases k <;> rfl
  · rcases hi with ⟨g, n, rfl, hc, rfl, rfl, rfl, rfl⟩ | ⟨g, n, rfl, hc, rfl, rfl, rfl, rfl⟩ | ⟨w, rfl, rfl, rfl, rfl, rfl⟩ |
      ⟨k, rfl, rfl, rfl, hk, rfl⟩
    · exact exec_enters ((exec_trap hc).trans (if_neg (by simpa using hls))) rfl (by decide) hls hd hn
    · exact exec_enters ((exec_brk hc).trans (if_neg (by simpa using hls))) rfl (by decide) hls hd hn
    · exact exec_enters (x := { causes := causeAll s.runLanes 1 }) rfl rfl (by decide) hls hd hn
    · obtain rfl : c = fetchCode k := by cases k <;> exact hk
      exact exec_enters (exec_fetchFault k s) rfl (fetchCode_lt k) hls hd hn
  · rw [exec_trap hc, if_pos (by simpa using ha)]
  · rw [exec_brk hc, if_pos (by simpa using ha)]

end Sys2Proof.Machine
end

section
/-! Pair words and `gunpack` (R78 to R81, R149): what a lane writes where it writes more than one register, and each slot as its full
instruction. -/

namespace Sys2Proof.Safety

open Sys2Proof.Machine

/-! ### Frames of one lane -/

/-- The frame of one lane that writes the registers and predicates of two sets. -/
def TouchesLane (l : Nat) (tv tk : Nat → Bool) (fl : Bool) (G H : Gang) : Prop :=
  OnlyTouches (fun j r => decide (j = l) && tv r) (fun j k => decide (j = l) && tk k) fl G H

theorem OnlyTouches.mono {tv tk uv uk : Nat → Nat → Bool} {fl : Bool} {G H : Gang} (h : OnlyTouches tv tk fl G H)
    (hv : ∀ l r, tv l r = true → uv l r = true) (hk : ∀ l k, tk l k = true → uk l k = true) : OnlyTouches uv uk fl G H := by
  obtain ⟨v, sc, k, f, bad, rest⟩ := h
  refine ⟨fun l hl r hu => v l hl r ?_, sc, fun l n hu => k l n ?_, f, bad, rest⟩
  · exact Bool.eq_false_iff.mpr fun ht => by simp [hv l r ht] at hu
  · exact Bool.eq_false_iff.mpr fun ht => by simp [hk l n ht] at hu

/-- A word that may raise flags touches no less. -/
theorem OnlyTouches.flags {tv tk : Nat → Nat → Bool} {G H : Gang} (h : OnlyTouches tv tk false G H) : OnlyTouches tv tk true G H := by
  obtain ⟨v, sc, k, -, bad, rest⟩ := h
  exact ⟨v, sc, k, fun hf => Bool.noConfusion hf, bad, rest⟩

/-- What other lanes write does not show in a lane. -/
theorem OnlyTouches.laneSame {tv tk : Nat → Nat → Bool} {fl : Bool} {G H : Gang} (h : OnlyTouches tv tk fl G H) {l : Nat} (hl : l < 64)
    (hv : ∀ r, tv l r = false) (hk : ∀ k, tk l k = false) : LaneSame l G H := by
  obtain ⟨v, sc, k, -, -, rest⟩ := h
  exact ⟨fun r => v l hl r (hv r), sc, fun n => k l n (hk n), rest⟩

/-- A destination that a lane writes is a frame of that lane. -/
theorem OnlyWrites.touchesLane {d : Dest} {l : Nat} {G H : Gang} (h : OnlyWrites d [l] false G H) (hs : ∀ r, d.isS r = false) :
    TouchesLane l d.isV d.isK false G H := by
  obtain ⟨v, sc, k, f, bad, rest⟩ := h
  exact ⟨fun j hj r hr => v j hj r (fun e => by simp [List.mem_singleton.mp e.1, e.2] at hr), fun r => sc r (fun e => by simp [hs] at e),
    fun j n hn => k j n (fun e => by simp [List.mem_singleton.mp e.1, e.2] at hn), f, bad, rest⟩

/-! ### Lanes that write several registers -/

/-- What a word does in a lane: it makes a claim about the lane true, writes no more than two sets of registers and predicates, and the
claim is about that lane alone. -/
structure LaneWork (tv tk : Nat → Bool) (P : Gang → Gang → Nat → Prop) (comp : Gang → Nat → LaneEff) : Prop where
  does : ∀ G H l, l < 64 → P G ((comp G l).1 H) l
  only : ∀ G H l, l < 64 → TouchesLane l tv tk false H ((comp G l).1 H)
  own : ∀ G H K l, LaneSame l H K → P G H l → P G K l

section
variable {tv tk : Nat → Bool} {P : Gang → Gang → Nat → Prop} {comp : Gang → Nat → LaneEff} (hw : LaneWork tv tk P comp)
include hw

theorem LaneWork.lane_only (G H : Gang) {l : Nat} (hl : l < 64) : TouchesLane l tv tk true H (floatLane comp G H l) :=
  (hw.only G H l hl).flags.trans ⟨fun _ _ _ _ => rfl, fun _ => rfl, fun _ _ _ => rfl, fun h => Bool.noConfusion h, fun _ h => h, rfl⟩

theorem LaneWork.lane_fstat (G H : Gang) {l : Nat} (hl : l < 64) :
    (floatLane comp G H l).readFstat l = H.readFstat l ||| (comp G l).2 ∧ ∀ j, j ≠ l → (floatLane comp G H l).readFstat j = H.readFstat j := by
  obtain ⟨-, -, -, hf, -, -⟩ := hw.only G H l hl
  have hsame : ∀ j, ((comp G l).1 H).readFstat j = H.readFstat j := fun j => congrArg (tget 0 · j) (hf rfl)
  refine ⟨?_, fun j hj => ?_⟩
  · rw [floatLane, Gang.orFstat, Gang.readFstat_writeFstat_same, hsame]
  · rw [floatLane, Gang.orFstat, Gang.readFstat_writeFstat_ne _ hj, hsame]

/-- R46: every lane of a list does its work, from what the registers held before the word, and adds its flags. -/
theorem LaneWork.lanes (G H : Gang) {ls : List Nat} (hn : ls.Nodup) (h64 : ∀ l ∈ ls, l < 64) :
    (∀ l ∈ ls, P G (ls.foldl (floatLane comp G) H) l ∧
      (ls.foldl (floatLane comp G) H).readFstat l = H.readFstat l ||| (comp G l).2) ∧
    (∀ l, l ∉ ls → (ls.foldl (floatLane comp G) H).readFstat l = H.readFstat l) ∧
    OnlyTouches (fun l r => decide (l ∈ ls) && tv r) (fun l k => decide (l ∈ ls) && tk k) true H (ls.foldl (floatLane comp G) H) := by
  induction ls generalizing H with
  | nil => exact ⟨fun _ h => absurd h List.not_mem_nil, fun _ _ => rfl, OnlyTouches.refl ..⟩
  | cons k ls ih =>
    obtain ⟨hk, hn⟩ := List.nodup_cons.mp hn
    have hk64 : k < 64 := h64 k List.mem_cons_self
    obtain ⟨hin, hout, honly⟩ := ih (floatLane comp G H k) hn (fun l hl => h64 l (List.mem_cons_of_mem k hl))
    obtain ⟨hself, hother⟩ := hw.lane_fstat G H hk64
    refine ⟨fun l hl => ?_, fun l hl => ?_, OnlyTouches.trans ((hw.lane_only G H hk64).mono ?_ ?_) (honly.mono ?_ ?_)⟩
    · rcases List.mem_cons.mp hl with rfl | hl
      · have hsame : LaneSame l (floatLane comp G H l) (ls.foldl (floatLane comp G) (floatLane comp G H l)) :=
          honly.laneSame hk64 (fun r => by simp [hk]) (fun n => by simp [hk])
        have hflags : LaneSame l ((comp G l).1 H) (floatLane comp G H l) := Gang.orFstat_laneSame ..
        exact ⟨hw.own G _ _ l hsame (hw.own G _ _ l hflags (hw.does G H l hk64)), (hout l hk).trans hself⟩
      · obtain ⟨hdone, hflags⟩ := hin l hl
        exact ⟨hdone, by rw [List.foldl_cons, hflags, hother l (fun e => hk (e ▸ hl))]⟩
    · obtain ⟨hne, hl⟩ := not_or.mp (fun h => hl (List.mem_cons.mpr h))
      exact (hout l hl).trans (hother l hne)
    all_goals
      intro l r h
      simp only [Bool.and_eq_true, decide_eq_true_eq] at h ⊢
      exact ⟨by simp [h.1], h.2⟩
end

/-! ### Slots -/

/-- The destinations of slots: one vector register, or a predicate. -/
def Dest.Narrow (d : Dest) : Prop := (∃ n, d = .reg ⟨false, n⟩ false) ∨ ∃ n, d = .pred n

/-- A narrow destination keeps its value where its register or predicate is not written. -/
theorem Dest.Narrow.holds_of_touches {d : Dest} (hd : d.Narrow) {tv tk : Nat → Nat → Bool} {fl : Bool} {G H : Gang}
    (h : OnlyTouches tv tk fl G H) {l : Nat} (hl : l < 64) (hv : ∀ r, d.isV r = true → tv l r = false)
    (hk : ∀ k, d.isK k = true → tk l k = false) {v : W64} (hG : d.holds G l v) : d.holds H l v := by
  obtain ⟨v', -, k', -, -, -⟩ := h
  rcases hd with ⟨n, rfl⟩ | ⟨n, rfl⟩
  · have hsame : H.readV l n.toNat = G.readV l n.toNat := v' l hl _ (hv _ (by simp [Dest.isV]))
    exact (congrArg (BitVec.setWidth 64) hsame).trans hG
  · exact (k' l n.toNat (hk _ (by simp [Dest.isK]))).trans hG

/-- Two narrow destinations that differ have no register and no predicate in common. -/
theorem Dest.Narrow.disjoint {d e : Dest} (hd : d.Narrow) (he : e.Narrow) (hne : d ≠ e) :
    (∀ r, d.isV r = true → e.isV r = false) ∧ ∀ k, d.isK k = true → e.isK k = false := by
  rcases hd with ⟨n, rfl⟩ | ⟨n, rfl⟩ <;> rcases he with ⟨m, rfl⟩ | ⟨m, rfl⟩
  · refine ⟨fun r hr => ?_, fun k hk => Bool.noConfusion hk⟩
    have hnm : n.toNat ≠ m.toNat := fun e => hne (by rw [BitVec.eq_of_toNat_eq e])
    simp only [Dest.isV, Bool.not_false, Bool.true_and, Bool.false_and, Bool.or_false, beq_iff_eq] at hr ⊢
    simpa [hr] using hnm
  · exact ⟨fun r _ => rfl, fun k hk => Bool.noConfusion hk⟩
  · exact ⟨fun r hr => Bool.noConfusion hr, fun k _ => rfl⟩
  · refine ⟨fun r hr => Bool.noConfusion hr, fun k hk => ?_⟩
    have hnm : n.toNat ≠ m.toNat := fun e => hne (by rw [BitVec.eq_of_toNat_eq e])
    simp only [Dest.isK, beq_iff_eq] at hk ⊢
    simpa [hk] using hnm

end Sys2Proof.Safety

namespace Sys2Proof.Machine

open Sys2Proof.Safety

/-! ### A slot as its full instruction (R79) -/

/-- A full 32-bit move: a register read as an n32 value and written back. -/
theorem extendRes_readOp_n32 (G : Gang) (b : BitVec 8) (l : Nat) :
    (extendRes .n32 (G.readOp ⟨false, b⟩ .n32 l)).setWidth 32 = G.readV l b.toNat := by
  have hread : G.readOp ⟨false, b⟩ .n32 l = ((G.readV l b.toNat).toNat : Int) := by
    show (((((G.readV l b.toNat).setWidth 64).setWidth 32).toNat : Nat) : Int) = _
    rw [BitVec.setWidth_setWidth_of_le _ (by decide), BitVec.setWidth_eq]
  rw [hread]
  show ((BitVec.ofInt 32 _).setWidth 64).setWidth 32 = _
  rw [BitVec.setWidth_setWidth_of_le _ (by decide), BitVec.setWidth_eq, BitVec.ofInt_natCast, BitVec.ofNat_toNat, BitVec.setWidth_eq]

theorem setWidth_signExtend (x : W32) : (x.signExtend 64).setWidth 32 = x := by
  refine BitVec.eq_of_getLsbD_eq (fun k hk => ?_)
  have hk64 : k < 64 := by omega
  rw [BitVec.getLsbD_setWidth, BitVec.getLsbD_signExtend]
  simp [hk, hk64]

theorem immArith_signExtend (im : BitVec 8) : immArith .i32 (im.signExtend 24) = im.toInt :=
  BitVec.toInt_signExtend_of_le (by decide)

theorem toNat_shiftImm (im : BitVec 8) : (im.setWidth 24).toNat = im.toNat := BitVec.toNat_setWidth_of_le (by decide)

/-- The row of an integer slot: a result of a type, to a vector register, with no flags. -/
def slotRow (d : BitVec 8) (t : ITy) (q : Gang → Nat → Int) : FloatSpec :=
  ⟨.reg ⟨false, d⟩ t.wide, fun G l => extendRes t (q G l), fun _ _ => 0⟩

theorem slot_of_row {x : Slot} {y z : FloatSpec} {comp : Gang → Nat → LaneEff} (h : slotSpec x = some y) (hs : slotSpec x = some z)
    (hz : z.DoneBy comp) (hn : z.dest.Narrow) : y.DoneBy comp ∧ y.dest.Narrow :=
  Option.some.inj (hs.symm.trans h) ▸ ⟨hz, hn⟩

/-- R79, R81: a slot does in a lane what the row of its full instruction says. -/
theorem slotEffect_doneBy {x : Slot} {y : FloatSpec} (h : slotSpec x = some y) (hk : ∀ n, Ref.k n ∈ x.refs → n < 16) :
    y.DoneBy (fun G l => slotEffect G x l) ∧ y.dest.Narrow := by
  cases x with
  | nop => cases h
  | iadd d | isub d | imul d | iminI d | imaxI d => exact slot_of_row h rfl (doneBy_writeRes d .i32 _ _) (.inl ⟨d, rfl⟩)
  | iminN d | imaxN d | and d | or d | xor d | andn d => exact slot_of_row h rfl (doneBy_writeRes d .n32 _ _) (.inl ⟨d, rfl⟩)
  | iaddImm d im =>
    exact slot_of_row h (congrArg (fun k => some (slotRow d .i32 (fun G l => G.readOp ⟨false, d⟩ .i32 l + k))) (immArith_signExtend im))
      (doneBy_writeRes d .i32 _ _) (.inl ⟨d, rfl⟩)
  | shlImm d im =>
    exact slot_of_row h (congrArg (fun k => some (slotRow d .n32 (fun G l => shlOp .n32 (G.readOp ⟨false, d⟩ .n32 l) k))) (toNat_shiftImm im))
      (doneBy_writeRes d .n32 _ _) (.inl ⟨d, rfl⟩)
  | shrImm d im =>
    exact slot_of_row h (congrArg (fun k => some (slotRow d .n32 (fun G l => shrOp .n32 (G.readOp ⟨false, d⟩ .n32 l) k))) (toNat_shiftImm im))
      (doneBy_writeRes d .n32 _ _) (.inl ⟨d, rfl⟩)
  | sarImm d im =>
    exact slot_of_row h (congrArg (fun k => some (slotRow d .i32 (fun G l => sarOp .i32 (G.readOp ⟨false, d⟩ .i32 l) k))) (toNat_shiftImm im))
      (doneBy_writeRes d .i32 _ _) (.inl ⟨d, rfl⟩)
  | mov d b => exact slot_of_row h rfl (doneBy_writeV d (fun G l => extendRes_readOp_n32 G b l)) (.inl ⟨d, rfl⟩)
  | movi d im => exact slot_of_row h rfl (doneBy_writeV d (fun _ _ => setWidth_signExtend (im.signExtend 32))) (.inl ⟨d, rfl⟩)
  | pmov d b =>
    have hbit (G : Gang) (l : Nat) : (G.readK l b.toNat != false) = G.readK l b.toNat := Bool.bne_false _
    exact slot_of_row h (by simp only [slotSpec, slotWord, Option.bind_some, laneSpec, intSpec, ofBit, hbit])
      (doneBy_writeK (hk _ List.mem_cons_self) (fun G l => G.readK l b.toNat) (fun _ _ => 0)) (.inr ⟨d, rfl⟩)
  | plopAnd d b | plopOr d b | plopXor d b => exact slot_of_row h rfl (doneBy_writeK (hk _ List.mem_cons_self) _ _) (.inr ⟨d, rfl⟩)
  | fadd d | fmul d | ffma d | hxadd d | hxmul d | hxfma d | bxadd d | bxmul d | bxfma d =>
    exact ⟨doneBy_toV h, .inl ⟨d, by obtain rfl := Option.some.inj h; rfl⟩⟩

/-- A slot without a row does nothing. -/
theorem slotEffect_nop {x : Slot} (h : slotSpec x = none) (G : Gang) (l : Nat) : slotEffect G x l = (fun H => H, 0) := by
  cases x with
  | nop => rfl
  | _ => cases h

/-! ### Two slots in a lane (R81) -/

/-- A slot's results in a lane. -/
def SlotDone (x : Slot) (G H : Gang) (l : Nat) : Prop := ∀ y ∈ slotSpec x, y.dest.holds H l (y.val G l)

section
variable {x : Slot} (hk : ∀ n, Ref.k n ∈ x.refs → n < 16)
include hk

theorem slot_flags (G : Gang) (l : Nat) : (slotEffect G x l).2 = slotFlags x G l := by
  unfold slotFlags
  cases h : slotSpec x with
  | none => rw [slotEffect_nop h]
  | some y => exact (slotEffect_doneBy h hk).1.flags G l

theorem slot_done (G H : Gang) {l : Nat} (hl : l < 64) : SlotDone x G ((slotEffect G x l).1 H) l :=
  fun _ hy => (slotEffect_doneBy hy hk).1.holds G H l hl

theorem slot_touches (G H : Gang) {l : Nat} (hl : l < 64) :
    TouchesLane l (fun r => (slotDest x).any (fun d => d.isV r)) (fun k => (slotDest x).any (fun d => d.isK k)) false H
      ((slotEffect G x l).1 H) := by
  unfold slotDest
  cases h : slotSpec x with
  | none =>
    rw [slotEffect_nop h]
    exact OnlyTouches.refl ..
  | some y =>
    obtain ⟨hy, -⟩ := slotEffect_doneBy h hk
    exact (hy.only G H l hl).touchesLane hy.perLane

/-- A slot touches no register or predicate of another destination. -/
theorem slot_disjoint {d : Dest} (hd : d.Narrow) (hne : some d ≠ slotDest x) :
    (∀ r, d.isV r = true → (slotDest x).any (fun e => e.isV r) = false) ∧
    ∀ k, d.isK k = true → (slotDest x).any (fun e => e.isK k) = false := by
  unfold slotDest at hne ⊢
  cases hx : slotSpec x with
  | none => exact ⟨fun _ _ => rfl, fun _ _ => rfl⟩
  | some w =>
    rw [hx] at hne
    exact hd.disjoint (slotEffect_doneBy hx hk).2 (fun e => hne (congrArg some e))

/-- What one slot wrote stays where the other slot has another destination. -/
theorem slot_keeps {z : Slot} (hz : ∀ n, Ref.k n ∈ z.refs → n < 16) (hne : slotDest z = none ∨ slotDest z ≠ slotDest x) (G H : Gang) {l : Nat}
    (hl : l < 64) (hd : SlotDone z G H l) : SlotDone z G ((slotEffect G x l).1 H) l := by
  intro y hy
  obtain ⟨-, hnarrow⟩ := slotEffect_doneBy hy hz
  have hdest : slotDest z = some y.dest := congrArg (Option.map FloatSpec.dest) hy
  rw [hdest] at hne
  obtain ⟨hv, hp⟩ := slot_disjoint hk hnarrow (hne.resolve_left (Option.some_ne_none _))
  exact hnarrow.holds_of_touches (slot_touches hk G H hl) hl (fun r hr => by simp [hv r hr]) (fun k hr => by simp [hp k hr]) (hd y hy)
end

/-! ### Pair words and `gunpack` -/

/-- R81: a lane of a pair word does both slots, each from what the registers held before. -/
theorem pairEffect_work {s0 s1 : Slot} (h0 : ∀ n, Ref.k n ∈ s0.refs → n < 16) (h1 : ∀ n, Ref.k n ∈ s1.refs → n < 16)
    (hne : slotDest s0 = none ∨ slotDest s0 ≠ slotDest s1) :
    LaneWork (fun r => [s0, s1].any (fun x => (slotDest x).any (fun d => d.isV r)))
      (fun k => [s0, s1].any (fun x => (slotDest x).any (fun d => d.isK k)))
      (fun G H l => SlotDone s0 G H l ∧ SlotDone s1 G H l) (pairEffect s0 s1) where
  does G H l hl := ⟨slot_keeps h1 h0 hne G _ hl (slot_done h0 G H hl), slot_done h1 G _ hl⟩
  only G H l hl := by
    refine OnlyTouches.trans ((slot_touches h0 G H hl).mono ?_ ?_) ((slot_touches h1 G _ hl).mono ?_ ?_)
    all_goals
      intro j r h
      simp only [Bool.and_eq_true, decide_eq_true_eq] at h
      simp [h]
  own G H K l hs hd := ⟨fun y hy => Dest.holds_congr hs (hd.1 y hy), fun y hy => Dest.holds_congr hs (hd.2 y hy)⟩

theorem pairEffect_flags {s0 s1 : Slot} (h0 : ∀ n, Ref.k n ∈ s0.refs → n < 16) (h1 : ∀ n, Ref.k n ∈ s1.refs → n < 16) (G : Gang) (l : Nat) :
    (pairEffect s0 s1 G l).2 = slotFlags s0 G l ||| slotFlags s1 G l := by
  rw [← slot_flags h0, ← slot_flags h1]
  rfl

theorem exec_pairWord {s0 s1 : Slot} {s : State} (hc : s.clear (.pairWord s0 s1) = true) :
    exec (.pairWord s0 s1) s = s.floatEffects (.pairWord s0 s1) (s.runLanes.map (fun l => (l, pairEffect s0 s1 s.curGang l))) := by
  show execPairWord s0 s1 s = _
  rw [execPairWord, floatWord, runWord_clear hc, State.active_none]

/-- R149: the four values that a lane of `gunpack` makes of a register. -/
def gunpackCode (G : Gang) (a : Opd) (l j : Nat) : W32 :=
  BitVec.ofNat 32 (fmtF32.deliver .rne (gt8Value ((G.read32 a l).toNat / 256 ^ j % 256))).1

/-- What a lane of `gunpack` writes. -/
def gunpackEffect (d : BitVec 8) (a : Opd) (G : Gang) (l : Nat) : LaneEff :=
  (fun H => (upto 4).foldl (fun H j => H.writeV l (d.toNat + j) (gunpackCode G a l j)) H, 0)

theorem exec_gunpack {g : Grd} {d : BitVec 8} {a : Opd} {s : State} (hc : s.clear (.gunpack g d a) = true) :
    exec (.gunpack g d a) s = s.floatEffects (.gunpack g d a) ((s.active g).map (fun l => (l, gunpackEffect d a s.curGang l))) := by
  show execGunpack g d a s = _
  rw [execGunpack, floatWord, runWord_clear hc]
  rfl

/-- Consecutive registers of a lane, written in turn. -/
theorem foldl_writeV (f : Nat → W32) (d : Nat) {l : Nat} (hl : l < 64) (n : Nat) (H : Gang) :
    (∀ j < n, ((upto n).foldl (fun H j => H.writeV l (d + j) (f j)) H).readV l (d + j) = f j) ∧
    TouchesLane l (fun r => decide (d ≤ r ∧ r < d + n)) (fun _ => false) false H ((upto n).foldl (fun H j => H.writeV l (d + j) (f j)) H) := by
  induction n with
  | zero => exact ⟨fun _ h => absurd h (Nat.not_lt_zero _), OnlyTouches.refl ..⟩
  | succ n ih =>
    obtain ⟨hval, honly⟩ := ih
    simp only [upto, List.range_succ, List.foldl_append, List.foldl_cons, List.foldl_nil] at hval honly ⊢
    refine ⟨fun j hj => ?_, OnlyTouches.trans (honly.mono (fun j r h => ?_) (fun j k h => h)) ⟨fun j hj r hr => ?_, fun _ => rfl, fun _ _ _ => rfl,
      fun _ => rfl, Gang.writeV_bad_sub _ _ _ _, rfl⟩⟩
    · rcases Nat.lt_succ_iff_lt_or_eq.mp hj with h | rfl
      · exact (Gang.readV_writeV_ne _ hl hl (by omega) _).trans (hval j h)
      · exact Gang.readV_writeV_same ..
    · simp only [Bool.and_eq_true, decide_eq_true_eq] at h ⊢
      omega
    · refine Gang.readV_writeV_ne _ hl hj (fun e => ?_) _
      simp [e.1, e.2] at hr

theorem gunpackEffect_work (d : BitVec 8) (a : Opd) :
    LaneWork (fun r => decide (d.toNat ≤ r ∧ r < d.toNat + 4)) (fun _ => false)
      (fun G H l => ∀ j < 4, H.readV l (d.toNat + j) = gunpackCode G a l j) (gunpackEffect d a) where
  does G H l hl := (foldl_writeV (gunpackCode G a l) d.toNat hl 4 H).1
  only G H l hl := (foldl_writeV (gunpackCode G a l) d.toNat hl 4 H).2
  own _ _ _ _ hs hd j hj := (hs.1 _).trans (hd j hj)

/-- Settles O15. Each slot does what the row of its full instruction says (`slotEffect_doneBy`), the second leaves what the first wrote
(`slot_keeps`), and no lane undoes another's work (`LaneWork.lanes`). -/
theorem pairSlotsActAsFullInstructions : Obligations.PairSlotsActAsFullInstructions := by
  refine ⟨fun s0 s1 s hc hne hq => ?_, fun g d a s hc => ?_⟩
  · have h0 : ∀ n, Ref.k n ∈ s0.refs → n < 16 := fun n hn => legal_pred hc n (List.mem_append_left _ hn)
    have h1 : ∀ n, Ref.k n ∈ s1.refs → n < 16 := fun n hn => legal_pred hc n (List.mem_append_right _ hn)
    obtain ⟨hin, -, honly⟩ := (pairEffect_work h0 h1 hne).lanes s.curGang s.curGang s.runLanes_nodup (fun _ => State.runLanes_lt)
    rw [exec_pairWord hc, State.floatEffects_writes (fun l hl => by rw [pairEffect_flags h0 h1]; exact hq l hl)]
    refine ⟨_, rfl, fun x hx y hy l hl => ?_, fun l hl => ?_, honly⟩
    · obtain ⟨⟨hd0, hd1⟩, -⟩ := hin l hl
      rcases List.mem_pair.mp hx with rfl | rfl
      · exact hd0 y hy
      · exact hd1 y hy
    · rw [(hin l hl).2, pairEffect_flags h0 h1, BitVec.or_assoc]
  · obtain ⟨hin, hout, honly⟩ := (gunpackEffect_work d a).lanes s.curGang s.curGang (s.active_nodup g) (fun _ => State.active_lt)
    rw [exec_gunpack hc, State.floatEffects_writes (fun _ _ => by simp [trapping, gunpackEffect])]
    refine ⟨_, rfl, fun l hl => (hin l hl).1, fun l => ?_, ?_⟩
    · by_cases hl : l ∈ s.active g
      · exact (hin l hl).2.trans (BitVec.or_zero)
      · exact hout l hl
    · exact honly.mono (fun _ _ h => h) (fun l k h => by simp at h)

end Sys2Proof.Machine
end

section
/-! Integer and predicate words (R113, R118 to R127, R130 to R132): each writes what its row of `intSpec` says. -/

namespace Sys2Proof.Safety

open Sys2Proof.Machine

/-! ### Values that depend on one lane -/

/-- A value by lane that depends on the lane's own registers, and on what the gang has once. -/
def OwnLane {α : Type} (q : Gang → Nat → α) : Prop := ∀ G H l, LaneSame l G H → q H l = q G l

theorem OwnLane.const {α : Type} (v : α) : OwnLane (fun _ _ => v) := fun _ _ _ _ => rfl
theorem OwnLane.readOp (o : Opd) (t : ITy) : OwnLane (fun G l => G.readOp o t l) := fun _ _ _ h => h.readOp o t
theorem OwnLane.read32 (o : Opd) : OwnLane (fun G l => G.read32 o l) := fun _ _ _ h => h.read32 o
theorem OwnLane.rawOpd (o : Opd) (wide : Bool) : OwnLane (fun G l => G.rawOpd o wide l) := fun _ _ _ h => h.rawOpd o wide
theorem OwnLane.readK (k : Nat) : OwnLane (fun G l => G.readK l k) := fun _ _ _ h => by
  obtain ⟨-, -, hk, -⟩ := h
  exact hk k

section
variable {α β γ δ : Type} {q : Gang → Nat → α} {r : Gang → Nat → β} {u : Gang → Nat → γ}

theorem OwnLane.map (f : α → δ) (hq : OwnLane q) : OwnLane (fun G l => f (q G l)) :=
  fun G H l h => congrArg f (hq G H l h)
theorem OwnLane.map₂ (f : α → β → δ) (hq : OwnLane q) (hr : OwnLane r) : OwnLane (fun G l => f (q G l) (r G l)) :=
  fun G H l h => congrArg₂ f (hq G H l h) (hr G H l h)
theorem OwnLane.map₃ (f : α → β → γ → δ) (hq : OwnLane q) (hr : OwnLane r) (hu : OwnLane u) :
    OwnLane (fun G l => f (q G l) (r G l) (u G l)) :=
  fun G H l h => congr (congrArg₂ f (hq G H l h) (hr G H l h)) (hu G H l h)
end

/-! ### One lane -/

/-- A change in a lane is what a row says: it writes the row's value to its destination and writes nothing else; the value depends on
that lane alone, and a scalar destination is written once for the gang (R113). -/
structure RegSpec.DoneBy (x : RegSpec) (f : Gang → Nat → Gang) : Prop where
  perLane : x.once = false → ∀ r, x.dest.isS r = false
  writes : ∀ H l, l < 64 → x.dest.holds (f H l) l (x.val H l) ∧ OnlyWrites x.dest [l] false H (f H l)
  own : OwnLane x.val

/-- What a row writes in the lanes of Active, and its frame. -/
theorem RegSpec.DoneBy.active {x : RegSpec} {f : Gang → Nat → Gang} (hx : x.DoneBy f) (s : State) (g : Grd) :
    (∀ l ∈ x.lanes (s.active g), x.dest.holds (s.curGang.mapActive (s.active g) x.once f) l (x.val s.curGang l)) ∧
    OnlyWrites x.dest (s.active g) false s.curGang (s.curGang.mapActive (s.active g) x.once f) :=
  mapActive_writes hx.perLane hx.writes hx.own (s.active g) (s.active_nodup g) (fun _ => State.active_lt) s.curGang

/-- What a row writes where its word runs. -/
theorem RegSpec.DoneBy.word {x : RegSpec} {f : Gang → Nat → Gang} (hx : x.DoneBy f) {s : State} {o : Out} {g : Grd}
    (he : o = .next ((s.setCur (s.curGang.mapActive (s.active g) x.once f)).finish false)) :
    Writes s o (fun H => (∀ l ∈ x.lanes (s.active g), x.dest.holds H l (x.val s.curGang l)) ∧
      OnlyWrites x.dest (s.active g) false s.curGang H) :=
  ⟨_, he, hx.active s g⟩

end Sys2Proof.Safety

namespace Sys2Proof.Machine

open Sys2Proof.Safety

/-! ### Results -/

/-- A result written to a scalar register, a pair or a vector register. -/
theorem regDone_writeRaw (d : Opd) (wide : Bool) {val : Gang → Nat → W64} (own : OwnLane val) :
    RegSpec.DoneBy ⟨.reg d wide, d.sc, val⟩ (fun G l => G.writeRaw d wide l (val G l)) where
  perLane h _ := by simp only [Dest.isS, show d.sc = false from h, Bool.false_and]
  writes H _ hl := ⟨H.writeRaw_holds d wide hl _, H.writeRaw_only d wide hl _⟩
  own := own

/-- R111: an integer result of a type. -/
theorem regDone_writeRes (d : Opd) (t : ITy) {q : Gang → Nat → Int} (own : OwnLane q) :
    RegSpec.DoneBy ⟨.reg d t.wide, d.sc, fun G l => extendRes t (q G l)⟩ (fun G l => G.writeRes d t l (q G l)) :=
  regDone_writeRaw d t.wide (own.map (extendRes t))

/-- A truth value written to a predicate. -/
theorem regDone_writeK {d : BitVec 8} (hd : d.toNat < 16) {b : Gang → Nat → Bool} (own : OwnLane b) :
    RegSpec.DoneBy ⟨.pred d, false, fun G l => (BitVec.ofBool (b G l)).setWidth 64⟩ (fun G l => G.writeK l d.toNat (b G l)) where
  perLane _ _ := rfl
  writes H l _ := ⟨H.writeK_holds d hd l _, H.writeK_only d l _⟩
  own := own.map (fun c => (BitVec.ofBool c).setWidth 64)

/-- The upper half of a register replaced (R125), for a scalar register or a pair. -/
def setUpper (d : Opd) (im : BitVec 32) (G : Gang) (l : Nat) : Gang :=
  if d.sc then G.writeS d.n.toNat (im ++ (G.readS d.n.toNat).extractLsb' 0 32) else G.writeV l (d.n.toNat + 1) im

theorem extractLow_append (x y : W32) : (x ++ y : W64).extractLsb' 0 32 = y := by
  refine BitVec.eq_of_getLsbD_eq (fun k hk => ?_)
  rw [BitVec.getLsbD_extractLsb', BitVec.getLsbD_append]
  simp [hk]

theorem regDone_setUpper (d : Opd) (im : BitVec 32) :
    RegSpec.DoneBy ⟨.reg d true, d.sc, fun G l => im ++ (G.rawOpd d true l).extractLsb' 0 32⟩ (setUpper d im) := by
  have own : OwnLane (fun G l => (im ++ (G.rawOpd d true l).extractLsb' 0 32 : W64)) :=
    (OwnLane.rawOpd d true).map (fun v => im ++ v.extractLsb' 0 32)
  obtain ⟨sc, n⟩ := d
  cases sc with
  | true => exact regDone_writeRaw ⟨true, n⟩ true own
  | false =>
    refine ⟨fun _ _ => rfl, fun H l hl => ⟨?_, fun j hj r hr => ?_, fun _ _ => rfl, fun _ _ _ => rfl, fun _ => rfl,
      Gang.writeV_bad_sub _ _ _ _, rfl⟩, own⟩
    · show (H.writeV l (n.toNat + 1) im).readPair l n.toNat = im ++ (H.readPair l n.toNat).extractLsb' 0 32
      rw [Gang.readPair, Gang.readV_writeV_same, Gang.readV_writeV_ne _ hl hl (by omega), Gang.readPair, extractLow_append]
    · refine Gang.readV_writeV_ne _ hl hj (fun e => hr ⟨List.mem_singleton.mpr e.1, ?_⟩) _
      simp [Dest.isV, e.2]

/-! ### The rows -/

/-- A word runs as its row of `intSpec` says, under its own guard. -/
def RunsReg (i : Instr) (x : RegSpec) : Prop :=
  ∃ g f, i.grd = g ∧ (∀ s, exec i s = regWord i g x.once s f) ∧ x.DoneBy f

section
variable {i : Instr} {g : Grd} {t : ITy} {d a b : Opd} {x : RegSpec}

theorem runsReg_of {y : RegSpec} {f : Gang → Nat → Gang} (h : intSpec i = some x) (hs : intSpec i = some y) (hy : y.DoneBy f)
    (hg : i.grd = g) (he : ∀ s, exec i s = regWord i g y.once s f) : RunsReg i x := by
  obtain rfl : y = x := Option.some.inj (hs.symm.trans h)
  exact ⟨g, f, hg, he, hy⟩

/-- A word with a result of a type. -/
theorem runsReg_res {q : Gang → Nat → Int} (h : intSpec i = some x) (hs : intSpec i = ofTy t d q) (own : OwnLane q) (hg : i.grd = g)
    (he : ∀ s, exec i s = regWord i g d.sc s (fun G l => G.writeRes d t l (q G l))) : RunsReg i x :=
  runsReg_of h hs (regDone_writeRes d t own) hg he

theorem runsReg_bin {f : Int → Int → Int} (he : ∀ s, exec i s = regWord i g d.sc s (bin t d a b f)) (h : intSpec i = some x)
    (hs : intSpec i = ofTy t d (fun G l => f (G.readOp a t l) (G.readOp b t l))) (hg : i.grd = g) : RunsReg i x :=
  runsReg_res h hs (.map₂ f (.readOp a t) (.readOp b t)) hg he

theorem runsReg_una {f : Int → Int} (he : ∀ s, exec i s = regWord i g d.sc s (una t d a f)) (h : intSpec i = some x)
    (hs : intSpec i = ofTy t d (fun G l => f (G.readOp a t l))) (hg : i.grd = g) : RunsReg i x :=
  runsReg_res h hs (.map f (.readOp a t)) hg he

theorem runsReg_count {f : Int → Int} (he : ∀ s, exec i s = regWord i g d.sc s (count t d a f)) (h : intSpec i = some x)
    (hs : intSpec i = ofTy .n32 d (fun G l => f (G.readOp a t l))) (hg : i.grd = g) : RunsReg i x :=
  runsReg_res h hs (.map f (.readOp a t)) hg he

/-- A shift by an operand (R120). -/
theorem runsReg_shift {f : Int → Nat → Int} (h : intSpec i = some x)
    (hs : intSpec i = ofTy t d (fun G l => f (G.readOp a t l) (G.read32 b l).toNat)) (hg : i.grd = g)
    (he : ∀ s, exec i s = regWord i g d.sc s (fun G l => una t d a (fun z => f z (G.read32 b l).toNat) G l)) : RunsReg i x :=
  runsReg_res h hs (.map₂ (fun z w => f z w.toNat) (.readOp a t) (.read32 b)) hg he

theorem runsReg_imm {sc : Bool} {d a : BitVec 8} {y : Int} {f : Int → Int → Int}
    (he : ∀ s, exec i s = regWord i g sc s (imm t sc d a y f)) (h : intSpec i = some x)
    (hs : intSpec i = ofTy t ⟨sc, d⟩ (fun G l => f (G.readOp ⟨sc, a⟩ t l) y)) (hg : i.grd = g) : RunsReg i x :=
  runsReg_res h hs (.map (fun z => f z y) (.readOp ⟨sc, a⟩ t)) hg he

/-- A word with a truth value. -/
theorem runsReg_bit {d : BitVec 8} (hk : ∀ n, Ref.k n ∈ i.refs → n < 16) (hd : Ref.k d.toNat ∈ i.refs) {c : Gang → Nat → Bool}
    (h : intSpec i = some x) (hs : intSpec i = ofBit d c) (own : OwnLane c) (hg : i.grd = g)
    (he : ∀ s, exec i s = regWord i g false s (fun G l => G.writeK l d.toNat (c G l))) : RunsReg i x :=
  runsReg_of h hs (regDone_writeK (hk _ hd) own) hg he
end

/-- R132: a dot product of two registers, added to a third operand. -/
theorem ownLane_dot (sat : Bool) (f : W32 → W32 → Int) (a b c : Opd) :
    OwnLane (fun G l => idpEnd sat (G.readOp c .i32 l + f (G.read32 a l) (G.read32 b l))) :=
  .map₃ (fun z v w => idpEnd sat (z + f v w)) (.readOp c .i32) (.read32 a) (.read32 b)

/-- Every integer and predicate word runs as its row says. -/
theorem runsReg_of_intSpec {i : Instr} {x : RegSpec} (h : intSpec i = some x) (hk : ∀ n, Ref.k n ∈ i.refs → n < 16) : RunsReg i x := by
  cases i with
  | iadd | isub | iaddsat | isubsat | imul | imulh | idiv | irem | imin | imax | and | or | xor | andn =>
    exact runsReg_bin (fun _ => rfl) h rfl (fieldsOf_grd ..)
  | imad g t d a b c =>
    exact runsReg_res h rfl (.map₃ (fun u v w => u * v + w) (.readOp a t) (.readOp b t) (.readOp c t)) (fieldsOf_grd ..) (fun _ => rfl)
  | iabs g t sat d a =>
    have habs (z : Int) : iabsOp t sat z = if sat then saturate t |z| else |z| := by rw [iabsOp, Int.natCast_natAbs]
    exact runsReg_una (f := iabsOp t sat) (fun _ => rfl) h (by simp only [habs]; rfl) (fieldsOf_grd ..)
  | ineg | not | brev | bswap | mov => exact runsReg_una (fun _ => rfl) h rfl (fieldsOf_grd ..)
  | popc | clz | ctz => exact runsReg_count (fun _ => rfl) h rfl (fieldsOf_grd ..)
  | shl g t => exact runsReg_shift (f := shlOp t) h rfl (fieldsOf_grd ..) (fun _ => rfl)
  | shr g t => exact runsReg_shift (f := shrOp t) h rfl (fieldsOf_grd ..) (fun _ => rfl)
  | sar g t => exact runsReg_shift (f := sarOp t) h rfl (fieldsOf_grd ..) (fun _ => rfl)
  | rotl g t => exact runsReg_shift (f := rotlOp t) h rfl (fieldsOf_grd ..) (fun _ => rfl)
  | bfx g t d a b c =>
    exact runsReg_res h rfl (.map₃ (fun z v w => bfxOp t z (v.toNat % 256) (w.toNat % 256)) (.readOp a t) (.read32 b) (.read32 c))
      (fieldsOf_grd ..) (fun _ => rfl)
  | bfi g t d a b c =>
    exact runsReg_res h rfl (.map₃ (fun y z (p : W32 × W32) => bfiOp t y z (p.1.toNat % 256) (p.2.toNat % 256)) (.readOp d t) (.readOp a t)
      (.map₂ Prod.mk (.read32 b) (.read32 c))) (fieldsOf_grd ..) (fun _ => rfl)
  | sel g t d a b c =>
    exact runsReg_res h rfl (.map₃ (fun k y z => if k then y else z) (.readK c.toNat) (.readOp a t) (.readOp b t)) (fieldsOf_grd ..)
      (fun _ => rfl)
  | lea g t d a b sh =>
    exact runsReg_of h rfl (regDone_writeRaw d true (.map₂
      (fun v w => BitVec.ofInt 64 (v.toNat + readBits t.width t.signed w * 2 ^ sh.toNat)) (.rawOpd a true) (.rawOpd b t.wide)))
      (fieldsOf_grd ..) (fun _ => rfl)
  | movi g d im => exact runsReg_of h rfl (regDone_writeRaw d false (.const (im.signExtend 64))) (fieldsOf_grd ..) (fun _ => rfl)
  | movh g d im => exact runsReg_of h rfl (regDone_setUpper d im) (fieldsOf_grd ..) (fun _ => rfl)
  | icmp g cd t d a b =>
    exact runsReg_bit hk List.mem_cons_self h rfl (.map₂ (condHolds cd) (.readOp a t) (.readOp b t)) (fieldsOf_grd ..) (fun _ => rfl)
  | plop g op d a b =>
    exact runsReg_bit hk List.mem_cons_self h rfl (.map₂ (plopBit op) (.readK a.toNat) (.readK b.toNat)) (fieldsOf_grd ..) (fun _ => rfl)
  | pmov g neg d a =>
    exact runsReg_bit hk List.mem_cons_self h rfl (.map (· != neg) (.readK a.toNat)) (fieldsOf_grd ..) (fun _ => rfl)
  | idp4 g sgn sat d a b c =>
    exact runsReg_res h rfl (ownLane_dot sat (fun v w => dotSum 4 (fun j => elem8 sgn v j * elem8 sgn w j)) a b c)
      (fieldsOf_grd ..) (fun _ => rfl)
  | idp8 g sat d a b c =>
    exact runsReg_res h rfl (ownLane_dot sat (fun v w => dotSum 8 (fun j => elem4 v j * elem4 w j)) a b c) (fieldsOf_grd ..) (fun _ => rfl)
  | iaddImm | isubImm | imulImm | iminImm | imaxImm | andImm | orImm | xorImm | shlImm | shrImm | sarImm | rotlImm =>
    exact runsReg_imm (fun _ => rfl) h rfl (fieldsOf_grd ..)
  | icmpImm g sc cd t d a im =>
    exact runsReg_bit hk List.mem_cons_self h rfl (.map (condHolds cd · (immArith t im)) (.readOp ⟨sc, a⟩ t)) (fieldsOf_grd ..) (fun _ => rfl)
  | _ => cases h

/-- Settles O11. Every integer and predicate word runs as its row of `intSpec` says (`runsReg_of_intSpec`), and its lanes write one after
another, each a value that no other lane's write changes (`RegSpec.DoneBy.active`). -/
theorem integerWordsWriteTheirResults : Obligations.IntegerWordsWriteTheirResults := by
  intro i s x h hc
  obtain ⟨g, f, rfl, he, hx⟩ := runsReg_of_intSpec h (legal_pred hc)
  exact hx.word ((he s).trans (regWord_clear hc ..))

end Sys2Proof.Machine
end

section
/-! Votes, ballots, and values that pass between lanes (R128 to R130): every lane's source is read before any lane writes. -/

namespace Sys2Proof.Safety

open Sys2Proof.Machine

/-- The low half of a 32-bit word that was widened. -/
theorem setWidth_narrow (v : W32) : (v.setWidth 64).setWidth 32 = v := by
  rw [BitVec.setWidth_setWidth_of_le _ (by decide), BitVec.setWidth_eq]

/-! ### A change made in every lane, without flags -/

/-- A lane's change, computed from what the registers held before the word. -/
def plainLane (comp : Gang → Nat → LaneEff) (G H : Gang) (l : Nat) : Gang := (comp G l).1 H

/-- Every lane of a list does its work, from what the registers held before the word. -/
theorem LaneWork.plainLanes {tv tk : Nat → Bool} {P : Gang → Gang → Nat → Prop} {comp : Gang → Nat → LaneEff} (hw : LaneWork tv tk P comp)
    (G H : Gang) {ls : List Nat} (hn : ls.Nodup) (h64 : ∀ l ∈ ls, l < 64) :
    (∀ l ∈ ls, P G (ls.foldl (plainLane comp G) H) l) ∧
    OnlyTouches (fun l r => decide (l ∈ ls) && tv r) (fun l k => decide (l ∈ ls) && tk k) false H (ls.foldl (plainLane comp G) H) := by
  induction ls generalizing H with
  | nil => exact ⟨fun _ h => absurd h List.not_mem_nil, OnlyTouches.refl ..⟩
  | cons k ls ih =>
    obtain ⟨hk, hn⟩ := List.nodup_cons.mp hn
    have hk64 : k < 64 := h64 k List.mem_cons_self
    obtain ⟨hin, honly⟩ := ih (plainLane comp G H k) hn (fun l hl => h64 l (List.mem_cons_of_mem k hl))
    refine ⟨fun l hl => ?_, OnlyTouches.trans (OnlyTouches.mono (hw.only G H k hk64) ?_ ?_) (honly.mono ?_ ?_)⟩
    · rcases List.mem_cons.mp hl with rfl | hl
      · exact hw.own G _ _ l (honly.laneSame hk64 (fun r => by simp [hk]) (fun n => by simp [hk])) (hw.does G H l hk64)
      · exact hin l hl
    all_goals
      intro l r h
      simp only [Bool.and_eq_true, decide_eq_true_eq] at h ⊢
      exact ⟨by simp [h.1], h.2⟩

/-- What a vector register or a pair holds after a copy of another. -/
theorem Dest.holds_rawOpd {d a : BitVec 8} {wide : Bool} {G H : Gang} {l j : Nat}
    (h : (Dest.reg ⟨false, d⟩ wide).holds H l (G.rawOpd ⟨false, a⟩ wide j)) : H.rawOpd ⟨false, d⟩ wide l = G.rawOpd ⟨false, a⟩ wide j := by
  cases wide with
  | true => exact h
  | false => exact h.trans (congrArg (BitVec.setWidth 64) (setWidth_narrow (G.readV j a.toNat)))

end Sys2Proof.Safety

namespace Sys2Proof.Machine

open Sys2Proof.Safety

/-! ### Votes and ballots (R128) -/

theorem Gang.mapActive_perLane (G : Gang) (ls : List Nat) (f : Gang → Nat → Gang) : G.mapActive ls false f = G.eachLane ls f := by
  cases ls <;> rfl

section
variable (ls : List Nat) (p : Nat → Bool)

theorem voteOp_some : voteOp .some (ls.map p) = true ↔ ∃ j ∈ ls, p j = true := by simp [voteOp]

theorem voteOp_every : voteOp .every (ls.map p) = true ↔ ∀ j ∈ ls, p j = true := by simp [voteOp]

theorem voteOp_same : voteOp .same (ls.map p) = true ↔ ∀ j ∈ ls, ∀ k ∈ ls, p j = p k := by
  simp only [voteOp, List.all_map, List.any_map, Bool.or_eq_true, Bool.not_eq_true', List.all_eq_true, List.any_eq_false, Function.comp,
    id_eq, Bool.not_eq_true]
  refine ⟨fun h j hj k hk => ?_, fun h => ?_⟩
  · rcases h with h | h <;> rw [h j hj, h k hk]
  · by_cases hall : ∀ j ∈ ls, p j = true
    · exact .inl hall
    · obtain ⟨k, hk, hfalse⟩ : ∃ k ∈ ls, p k = false := by simpa using hall
      exact .inr fun j hj => (h j hj k hk).trans hfalse

theorem getLsbD_bitsOf {l : Nat} (hl : l < 64) : (bitsOf ls).getLsbD l = decide (l ∈ ls) := by
  have hbit (j : Nat) : (1#64 <<< j).getLsbD l = decide (l = j) := by
    rw [Bool.eq_iff_iff]
    simp [hl]
    omega
  have hzero : (0 : W64).getLsbD l = false := BitVec.getLsbD_zero
  rw [bitsOf, getLsbD_foldl_or, hzero, Bool.false_or, Bool.eq_iff_iff]
  simp [hbit]
end

section
variable {g : Grd} {d a : BitVec 8} {s : State}

theorem exec_vote {mode : VoteMode} (hc : s.clear (.vote g mode d a) = true) :
    exec (.vote g mode d a) s = .next ((s.setCur (s.curGang.mapActive (s.active g) false (fun G l =>
      G.writeK l d.toNat (voteOp mode ((s.active g).map (fun l => s.curGang.readK l a.toNat)))))).finish false) := by
  show execVote g mode d a s = _
  rw [execVote, runWord_clear hc, Gang.mapActive_perLane]
  rfl

/-- R128: every lane of Active gets the vote. -/
theorem exec_vote_writes {mode : VoteMode} (hc : s.clear (.vote g mode d a) = true) : Writes s (exec (.vote g mode d a) s) (fun H =>
    (∀ l ∈ s.active g, H.readK l d.toNat = voteOp mode ((s.active g).map (fun l => s.curGang.readK l a.toNat))) ∧
    OnlyWrites (.pred d) (s.active g) false s.curGang H) := by
  obtain ⟨H, he, hval, honly⟩ := (regDone_writeK (legal_pred hc d.toNat List.mem_cons_self) (.const _)).word (exec_vote hc)
  refine ⟨H, he, fun l hl => (hval l hl).trans ?_, honly⟩
  simp

theorem exec_ballot (hc : s.clear (.ballot g d a) = true) :
    exec (.ballot g d a) s = .next ((s.setCur (s.curGang.mapActive (s.active g) true (fun G l =>
      G.writeRaw ⟨true, d⟩ true l (bitsOf ((s.active g).filter (fun l => s.curGang.readK l a.toNat)))))).finish false) := by
  show execBallot g d a s = _
  rw [execBallot, runWord_clear hc]
  rfl

/-- A word that writes a scalar register once for the gang: what the register then holds, if Active is not empty (R113). -/
theorem writes_scalar {o : Out} {v : W64}
    (he : o = .next ((s.setCur (s.curGang.mapActive (s.active g) true (fun G l => G.writeRaw ⟨true, d⟩ true l v))).finish false)) :
    Writes s o (fun H => (s.active g ≠ [] → H.readS d.toNat = v) ∧ OnlyWrites (.reg ⟨true, d⟩ true) (s.active g) false s.curGang H) := by
  obtain ⟨H, he, hval, honly⟩ := (regDone_writeRaw ⟨true, d⟩ true (.const v)).word he
  refine ⟨H, he, fun hne => ?_, honly⟩
  obtain ⟨l, hl⟩ := List.exists_mem_of_ne_nil ((s.active g).take 1) (by simpa using hne)
  exact hval l hl
end

/-! ### Values that pass between lanes (R129, R130) -/

/-- R111: for the types of R119, a register that is read as a value and written as a result is copied. -/
theorem extendRes_readOp {t : ITy} (ht : tyLogic t = true) (G : Gang) (a : BitVec 8) (l : Nat) :
    extendRes t (G.readOp ⟨false, a⟩ t l) = G.rawOpd ⟨false, a⟩ t.wide l := by
  cases t with
  | n32 =>
    have hlow : BitVec.ofInt 32 (G.readOp ⟨false, a⟩ .n32 l) = G.readV l a.toNat :=
      (setWidth_narrow _).symm.trans (extendRes_readOp_n32 G a l)
    exact congrArg (BitVec.setWidth 64) hlow
  | n64 =>
    show (BitVec.ofInt 64 (((G.readPair l a.toNat).setWidth 64).toNat : Int)).setWidth 64 = G.readPair l a.toNat
    rw [BitVec.setWidth_eq, BitVec.setWidth_eq, BitVec.ofInt_natCast, BitVec.ofNat_toNat, BitVec.setWidth_eq]
  | _ => exact absurd ht (by decide)

section
variable {g : Grd} {t : ITy} {d a b : BitVec 8} {s : State} (ht : tyLogic t = true)
include ht

theorem exec_bcast (hc : s.clear (.bcast g t d a b) = true) :
    exec (.bcast g t d a b) s = .next ((s.setCur (s.curGang.mapActive (s.active g) false (fun G l =>
      G.writeRaw ⟨false, d⟩ t.wide l (s.curGang.rawOpd ⟨false, a⟩ t.wide (s.curGang.lanePick b))))).finish false) := by
  show execBcast g t d a b s = _
  rw [execBcast, runWord_clear hc, Gang.mapActive_perLane, ← extendRes_readOp ht]
  rfl

theorem exec_vrd (hc : s.clear (.vrd g t d a b) = true) :
    exec (.vrd g t d a b) s = .next ((s.setCur (s.curGang.mapActive (s.active g) true (fun G l =>
      G.writeRaw ⟨true, d⟩ true l (s.curGang.rawOpd ⟨false, a⟩ t.wide (s.curGang.lanePick b))))).finish false) := by
  show execVrd g t d a b s = _
  rw [execVrd, runWord_clear hc, ← extendRes_readOp ht]
  rfl

/-- R130: every lane of Active gets the picked lane's value. -/
theorem exec_bcast_writes (hc : s.clear (.bcast g t d a b) = true) : Writes s (exec (.bcast g t d a b) s) (fun H =>
    (∀ l ∈ s.active g, H.rawOpd ⟨false, d⟩ t.wide l = s.curGang.rawOpd ⟨false, a⟩ t.wide (s.curGang.lanePick b)) ∧
    OnlyWrites (.reg ⟨false, d⟩ t.wide) (s.active g) false s.curGang H) := by
  obtain ⟨H, he, hval, honly⟩ := (regDone_writeRaw ⟨false, d⟩ t.wide (.const _)).word (exec_bcast ht hc)
  exact ⟨H, he, fun l hl => Dest.holds_rawOpd (hval l hl), honly⟩
end

/-! ### Shuffles (R129) -/

section
variable (G : Gang) (act : List Nat) (mode : ShflMode) (b : Opd) (l : Nat)

/-- R129: the lane whose value a lane takes, if it takes one. -/
def Gang.shflFrom : Option Nat := shuffleFrom mode G.width act l (G.read32 b l).toNat

theorem Gang.shflFrom_eq : G.shflFrom act mode b l = if G.shflOk act mode b l then
    some (shflSource mode G.width l (G.read32 b l).toNat).toNat else none := by
  unfold Gang.shflFrom Gang.shflOk shuffleFrom shflSource
  cases mode <;> simp

theorem Gang.shflOk_eq : G.shflOk act mode b l = (G.shflFrom act mode b l).isSome := by
  rw [Gang.shflFrom_eq]
  cases G.shflOk act mode b l <;> rfl

theorem Gang.shflLane_eq : G.shflLane act mode b l = (G.shflFrom act mode b l).getD l := by
  rw [Gang.shflFrom_eq, Gang.shflLane]
  cases G.shflOk act mode b l <;> rfl
end

/-- Whether a predicate is the optional second destination of a shuffle. -/
def isOut (p : Option (BitVec 8)) (k : Nat) : Bool := decide (p.map (·.toNat) = some k)

theorem isOut_some (k : BitVec 8) : isOut (some k) = (Dest.pred k).isK := by
  funext n
  rw [Bool.eq_iff_iff]
  simp only [isOut, Dest.isK, Option.map_some, Option.some.injEq, decide_eq_true_eq, beq_iff_eq]
  exact eq_comm

/-- A predicate written where a word names one. -/
def Gang.writeOut (G : Gang) (p : Option (BitVec 8)) (l : Nat) (c : Bool) : Gang :=
  match p with
  | some k => G.writeK l k.toNat c
  | none => G

theorem Gang.rawOpd_writeOut (G : Gang) (p : Option (BitVec 8)) (l : Nat) (c : Bool) (o : Opd) (wide : Bool) (j : Nat) :
    (G.writeOut p l c).rawOpd o wide j = G.rawOpd o wide j := by
  cases p <;> rfl

theorem Gang.writeOut_touches (G : Gang) (p : Option (BitVec 8)) (l : Nat) (c : Bool) :
    TouchesLane l (fun _ => false) (isOut p) false G (G.writeOut p l c) := by
  cases p with
  | none => exact OnlyTouches.refl ..
  | some k =>
    rw [isOut_some]
    exact (G.writeK_only k l c).touchesLane (fun _ => rfl)

/-- R129: what a lane of a shuffle writes. -/
def shflEffect (act : List Nat) (mode : ShflMode) (wide : Bool) (d a : BitVec 8) (b : Opd) (p : Option (BitVec 8)) (G : Gang) (l : Nat) :
    LaneEff :=
  (fun H => (H.writeRaw ⟨false, d⟩ wide l (G.rawOpd ⟨false, a⟩ wide ((G.shflFrom act mode b l).getD l))).writeOut p l
    (G.shflFrom act mode b l).isSome, 0)

/-- R129: a lane holds the value that it took, and whether the lane that its mode names had one. -/
def ShflDone (act : List Nat) (mode : ShflMode) (wide : Bool) (d a : BitVec 8) (b : Opd) (p : Option (BitVec 8)) (G H : Gang) (l : Nat) :
    Prop :=
  H.rawOpd ⟨false, d⟩ wide l = G.rawOpd ⟨false, a⟩ wide ((G.shflFrom act mode b l).getD l) ∧
  ∀ k ∈ p, H.readK l k.toNat = (G.shflFrom act mode b l).isSome

theorem shflEffect_work (act : List Nat) (mode : ShflMode) (wide : Bool) (d a : BitVec 8) (b : Opd) {p : Option (BitVec 8)}
    (hp : ∀ k ∈ p, k.toNat < 16) :
    LaneWork (Dest.reg ⟨false, d⟩ wide).isV (isOut p) (ShflDone act mode wide d a b p) (shflEffect act mode wide d a b p) where
  does G H l hl := by
    refine ⟨(Gang.rawOpd_writeOut ..).trans (Dest.holds_rawOpd (H.writeRaw_holds ⟨false, d⟩ wide hl _)), fun k hk => ?_⟩
    obtain rfl : p = some k := hk
    exact Gang.readK_writeK_same _ l (hp k rfl) _
  only G H l hl := by
    refine OnlyTouches.trans (OnlyTouches.mono ((H.writeRaw_only ⟨false, d⟩ wide hl _).touchesLane (fun _ => rfl)) (fun _ _ h => h) ?_)
      (OnlyTouches.mono (Gang.writeOut_touches _ p l _) ?_ (fun _ _ h => h))
    all_goals
      intro j r h
      exact absurd ((Bool.and_eq_true _ _).mp h).2 Bool.false_ne_true
  own G H K l hs hd := by
    obtain ⟨hval, hout⟩ := hd
    exact ⟨(hs.rawOpd _ _).trans hval, fun k hk => (OwnLane.readK k.toNat H K l hs).trans (hout k hk)⟩

theorem exec_shfl {g : Grd} {mode : ShflMode} {t : ITy} {d a : BitVec 8} {b : Opd} {p : Option (BitVec 8)} {s : State}
    (ht : tyLogic t = true) (hc : s.clear (.shfl g mode t d a b p) = true) :
    exec (.shfl g mode t d a b p) s = .next ((s.setCur
      ((s.active g).foldl (plainLane (shflEffect (s.active g) mode t.wide d a b p) s.curGang) s.curGang)).finish false) := by
  show execShfl g mode t d a b p s = _
  rw [execShfl, runWord_clear hc]
  dsimp only
  rw [List.foldl_map]
  simp only [Gang.shflOk_eq, Gang.shflLane_eq, Gang.writeRes, extendRes_readOp ht]
  cases p <;> rfl

/-- Settles O12. Votes, ballots, broadcasts and reads of a lane write one value, computed from what the registers held before the word, in
every lane of Active or once for the gang (`RegSpec.DoneBy.word`); a shuffle writes in each lane what the lane that its mode names held
before (`shflEffect_work`), and no lane undoes another's work (`LaneWork.plainLanes`). -/
theorem valuesPassBetweenLanes : Obligations.ValuesPassBetweenLanes := by
  refine ⟨⟨fun g mode d a s hc => ?_, fun g d a s hc => ?_⟩, fun g mode t d a b p s ht hc => ?_, fun g t d a b s ht hc =>
    exec_bcast_writes ht hc, fun g t d a b s ht hc => writes_scalar (exec_vrd ht hc)⟩
  · obtain ⟨H, he, hval, honly⟩ := exec_vote_writes hc
    refine ⟨H, he, fun l hl => ?_, honly⟩
    rw [hval l hl]
    cases mode with
    | some => exact voteOp_some ..
    | every => exact voteOp_every ..
    | same => exact voteOp_same ..
  · obtain ⟨H, he, hval, honly⟩ := writes_scalar (exec_ballot hc)
    refine ⟨H, he, fun hne l hl => ?_, honly⟩
    rw [hval hne, getLsbD_bitsOf _ hl, decide_eq_true_iff, List.mem_filter]
  · have hp : ∀ k ∈ p, k.toNat < 16 := fun k hk => legal_pred hc _ (List.mem_append_right _ (by simpa using ⟨k, hk, rfl⟩))
    obtain ⟨hdone, honly⟩ := (shflEffect_work (s.active g) mode t.wide d a b hp).plainLanes s.curGang s.curGang (s.active_nodup g)
      (fun _ => State.active_lt)
    exact ⟨_, exec_shfl ht hc, fun l hl => (hdone l hl).1, fun k hk l hl => (hdone l hl).2 k hk, honly⟩

end Sys2Proof.Machine
end

section
/-! Special functions (R147, R148, R151): how a word delivers the results of its lanes, and the word in which no lane acts. -/

namespace Sys2Proof.Machine

open Sys2Proof.Safety

/-! ### Results and flags, lane by lane -/

theorem Gang.orFstat_applyWrites (G : Gang) (ws : List RegWrite) (l : Nat) (f : Flg) :
    (G.applyWrites ws).orFstat l f = (G.orFstat l f).applyWrites ws := by
  induction ws generalizing G with
  | nil => rfl
  | cons w ws ih =>
    cases w with
    | v j r x => exact ih (G.writeV j r x)
    | s r x => exact ih (G.writeS r x)

/-- R46: to write the results of all lanes and then add their flags is to do both lane after lane. -/
theorem Gang.orFlags_applyWrites (G H : Gang) (ls : List Nat) (d : BitVec 8) (f : Gang → Nat → Nat × Flg) :
    (H.applyWrites (ls.map (fun l => .v l d.toNat (BitVec.ofNat 32 (f G l).1)))).orFlags (ls.map (fun l => (l, (f G l).2))) =
      ls.foldl (floatLane (fun G l => toV d l (f G l)) G) H := by
  induction ls generalizing H with
  | nil => rfl
  | cons l ls ih =>
    show (((H.writeV l d.toNat _).applyWrites _).orFstat l (f G l).2).orFlags _ = _
    rw [Gang.orFstat_applyWrites, ih]
    rfl

/-- A vector register that holds a code reads as its low 32 bits. -/
theorem Dest.readV_of_holds {d : BitVec 8} {H : Gang} {l x : Nat} (h : (Dest.reg ⟨false, d⟩ false).holds H l (BitVec.ofNat 64 x)) :
    H.readV l d.toNat = BitVec.ofNat 32 x := by
  have hlow := congrArg (BitVec.setWidth 32) h
  simpa [Gang.rawOpd] using hlow

/-! ### The word -/

/-- What a special function answers in a lane. -/
def specialLane (fn : Nat) (rm : Rm) (a : Opd) (G : Gang) (l : Nat) : Nat × Flg := specialF32 fn (modeOf rm G.fmode) (G.read32 a l)

section
variable {i : Instr} {s : State} {fn la : Nat} {d : BitVec 8} {a : Opd} {rm : Rm} (h : specialSpec i = some (fn, la, d, a, rm))
  (hc : s.clear i = true)
  (hq : ∀ l ∈ s.active i.grd, trapping s.curGang.fmode (specialLane fn rm a s.curGang l).2 = false)
include h hc hq

/-- R82, R258: where no enabled condition is met, the results of all lanes are delivered together. The word keeps its window only when no
trap is enabled and some lane acts. -/
theorem exec_special_results :
    exec i s = .next (s.results (if trapEnables s.curGang.fmode = 0 ∧ s.active i.grd ≠ [] then la else 0) [.v d.toNat]
      ((s.active i.grd).map (fun l => .v l d.toNat (BitVec.ofNat 32 (specialLane fn rm a s.curGang l).1)))
      ((s.active i.grd).map (fun l => (l, (specialLane fn rm a s.curGang l).2)))) := by
  obtain ⟨w, rfl, g, rfl, he⟩ := exec_specialSpec h
  have hnone := (map_fst_filter_pairs (s.active i.grd) (specialLane fn rm a s.curGang) (fun e => trapping s.curGang.fmode e.2)).trans
    (List.filter_eq_nil_iff.mpr (fun l hl => by simp [hq l hl]))
  rw [he, specialWord, runWord_clear hc]
  dsimp only [specialLane] at hnone ⊢
  rw [hnone]
  simp [Function.comp_def]

/-- R46, R147: with no window every lane of Active has its result and its flags, and all else is the same. -/
theorem exec_special_atOnce (hla : la = 0 ∨ trapEnables s.curGang.fmode ≠ 0) : Writes s (exec i s) (fun H =>
    (∀ l ∈ s.active i.grd, H.readV l d.toNat = BitVec.ofNat 32 (specialLane fn rm a s.curGang l).1 ∧
      H.readFstat l = s.curGang.readFstat l ||| (specialLane fn rm a s.curGang l).2) ∧
    (∀ l, l ∉ s.active i.grd → H.readFstat l = s.curGang.readFstat l) ∧
    OnlyWrites (.reg ⟨false, d⟩ false) (s.active i.grd) true s.curGang H) := by
  have hwindow : (if trapEnables s.curGang.fmode = 0 ∧ s.active i.grd ≠ [] then la else 0) = 0 := by
    split
    case isTrue hw => exact hla.resolve_right (not_not_intro hw.1)
    case isFalse => rfl
  obtain ⟨hin, hout, honly⟩ := (doneBy_toV (d := d) (f := specialLane fn rm a) rfl).lanes s.curGang s.curGang (s.active_nodup i.grd)
    (fun _ => State.active_lt)
  refine ⟨_, ?_, fun l hl => (hin l hl).imp_left Dest.readV_of_holds, hout, honly⟩
  rw [exec_special_results h hc hq, hwindow, ← Gang.orFlags_applyWrites]
  rfl

/-- R83: with a window, no trap enabled and some lane that acts, the results are pending. -/
theorem exec_special_pending (hla : la ≠ 0) (ht : trapEnables s.curGang.fmode = 0) (hne : s.active i.grd ≠ []) :
    exec i s = .next (s.openWindow la [.v d.toNat] .data
      ((s.active i.grd).map (fun l => .v l d.toNat (BitVec.ofNat 32 (specialLane fn rm a s.curGang l).1)))
      ((s.active i.grd).map (fun l => (l, (specialLane fn rm a s.curGang l).2))) none) := by
  rw [exec_special_results h hc hq, if_pos ⟨ht, hne⟩, State.results_window s hla]

end

/-- A word in which no lane acts has no results, so none is pending: it moves on. -/
theorem exec_special_noLane {i : Instr} {s : State} {fn la : Nat} {d : BitVec 8} {a : Opd} {rm : Rm}
    (h : specialSpec i = some (fn, la, d, a, rm)) (hc : s.clear i = true) (hnil : s.active i.grd = []) :
    exec i s = .next ((s.setCur s.curGang).finish false) := by
  rw [exec_special_results h hc (by simp [hnil]), hnil, if_neg (fun hw => hw.2 rfl)]
  rfl

/-! ### Special operands (R148) -/

theorem specialF32_operands (m : Mode) : specialF32 0 m 0 = (0x7F800000, flagDZ) ∧ specialF32 0 m 0x80000000 = (0xFF800000, flagDZ) ∧
    specialF32 1 m 0 = (0x7F800000, flagDZ) ∧ specialF32 4 m 0 = (0xFF800000, flagDZ) ∧ specialF32 3 m 0 = (0x3F800000, 0) ∧
    specialF32 6 m 0 = (0x3F800000, 0) ∧ (specialF32 2 m 0xBF800000).2 = flagNV ∧ specialF32 2 m 0x40800000 = (0x40000000, 0) := by
  cases m <;> decide

/-! ### The word in which no lane acts -/

/-- A reciprocal with a window of one word, for the lanes whose k3 is 1. -/
def guardedRcp : Instr := .frcp (some ⟨false, 3⟩) 1 3 ⟨false, 1⟩

/-- Lane 0 of a placed team is at a word; all its predicates are 0 and no trap is enabled. -/
def laneZeroIssues : State :=
  { State.reset with cur := { team := 1, gang := 0, lanes := 1, pc := 0x10000 }, teams := [(1, fetchTeam)] }

theorem guardedRcp_clear : laneZeroIssues.clear guardedRcp = true := by decide

theorem guardedRcp_noLane : laneZeroIssues.runLanes = [0] ∧ laneZeroIssues.active guardedRcp.grd = [] := by decide

/-- Refutes O14: in the clause for a window, where Active is empty. The statement has a pending result there with nothing to write, while in
the model `guardedRcp` in `laneZeroIssues` opens no window, as a load, gather or atomic in which no lane acts opens none
(notes/assumptions/54.md), and takes no number for a result. The rest of the statement holds: delivery at once (`exec_special_atOnce`),
pending where some lane acts (`exec_special_pending`) and the special operands (`specialF32_operands`). -/
theorem not_specialFunctionsDeliverResults : ¬ Obligations.SpecialFunctionsDeliverResults := by
  unfold Obligations.SpecialFunctionsDeliverResults
  rintro ⟨hwords, -⟩
  obtain ⟨-, hnil⟩ := guardedRcp_noLane
  obtain ⟨-, hpend⟩ := hwords guardedRcp laneZeroIssues 0 1 3 ⟨false, 1⟩ .rne rfl guardedRcp_clear (by simp [hnil])
  have hopens := (exec_special_noLane rfl guardedRcp_clear hnil).symm.trans (hpend (by decide) (by decide))
  have hid := congrArg State.nextId (Host.Outcome.next.inj hopens)
  rw [State.nextId_openWindow] at hid
  exact absurd hid (Nat.succ_ne_self _).symm

end Sys2Proof.Machine
end

section
/-! Loads of lanes (R155 to R159, R163, R228): what the checks of scratch accesses find, what is read there, and how a load ends. -/

namespace Sys2Proof.Machine

open Sys2Proof.Safety

/-- A fold that at each step keeps what it has and collects one more value. -/
theorem foldl_collects {σ α β : Type} (mk : List β → σ) (val : α → β) (f : σ → α → σ) (qs : List α)
    (h : ∀ vs, ∀ q ∈ qs, f (mk vs) q = mk (vs ++ [val q])) (vs : List β) : qs.foldl f (mk vs) = mk (vs ++ qs.map val) := by
  induction qs generalizing vs with
  | nil => simp
  | cons q qs ih =>
    rw [List.foldl_cons, h vs q List.mem_cons_self, ih (fun ws p hp => h ws p (List.mem_cons_of_mem _ hp))]
    simp

/-! ### Accesses of scratch -/

/-- An exact address of `n` bytes of a team's scratchpad (R155, R156). -/
def inScratchpad (T : Team) (n : Nat) (a : Int) : Prop := 0 ≤ a ∧ a < T.launch.scratchSpace ∧ a.toNat % n = 0

theorem inScratchpad_of_good {s : State} {n : Nat} {a : Int} (h : goodScratch s n a) : inScratchpad s.curTeam n a := by
  obtain ⟨hlow, hhigh, halign, -, -⟩ := h
  exact ⟨hlow, hhigh, halign⟩

/-- R156, R165: lanes whose addresses lie in scratch pass their checks, which change nothing. -/
theorem State.checkLanes_scratch (s : State) (t g n : Nat) (acc : Access) (f : Nat → Int) (ls : List Nat)
    (h : ∀ l ∈ ls, inScratchpad (s.team t) n (f l)) :
    s.checkLanes t g .scratch n acc (ls.map (fun l => (l, f l))) = { st := s, locs := ls.map (fun l => (l, .scr (f l).toNat)) } := by
  have hstep := foldl_collects (fun locs => ({ st := s, locs := locs } : Checked)) (fun q : Nat × Int => (q.1, Loc.scr q.2.toNat))
  unfold State.checkLanes
  refine (hstep _ (ls.map (fun l => (l, f l))) (fun locs q hq => ?_) []).trans (by simp [Function.comp_def])
  obtain ⟨l, hl, rfl⟩ := List.mem_map.mp hq
  obtain ⟨hlow, hhigh, halign⟩ := h l hl
  dsimp only
  rw [State.checkAccess_scratch s t g n acc hlow hhigh halign]

/-- A byte of a range without error has none. -/
theorem poisoned_byte {ps : List Nat} {a n i : Nat} (h : poisoned ps a n = false) (hi : i < n) : poisoned ps (a + i) 1 = false := by
  unfold poisoned at h ⊢
  rw [List.any_eq_false] at h ⊢
  intro u hu hmeets
  have hout := h u hu
  simp only [decide_eq_true_eq] at hout hmeets
  omega

/-- R228, R289: a load of a good scratch address reads the bytes there and changes nothing. -/
theorem State.loadLoc_scratch {s : State} {n : Nat} {a : Int} (h : goodScratch s n a) (fresh : Bool) :
    s.loadLoc s.cur.team s.cur.gang (.scr a.toNat) n fresh = (s, scratchBytes s a.toNat n, false) := by
  obtain ⟨-, -, -, hclean, hlink⟩ := h
  have hbytes : (upto n).any (fun i => (writtenByte (.scratch s.cur.team) (a.toNat + i) s.curGang.queue.flatten).isNone &&
      poisoned s.curTeam.poison (a.toNat + i) 1) = false := by
    refine List.any_eq_false.mpr (fun i hi => ?_)
    rw [poisoned_byte hclean (List.mem_range.mp hi), Bool.and_false]
    exact Bool.false_ne_true
  unfold State.loadLoc
  dsimp only
  refine (if_neg (Bool.eq_false_iff.mp hlink)).trans ?_
  exact congrArg (fun b => (s, scratchBytes s a.toNat n, b)) hbytes

/-- R157: the loads of lanes at good scratch addresses. -/
theorem State.loadAll_scratch {s : State} {n : Nat} (sgn : Bool) (f : Nat → Int) (ls : List Nat) (h : ∀ l ∈ ls, goodScratch s n (f l)) :
    s.loadAll s.cur.team s.cur.gang n sgn (ls.map (fun l => (l, .scr (f l).toNat))) =
      (s, ls.map (fun l => (l, extendBytes sgn (scratchBytes s (f l).toNat n))), []) := by
  unfold State.loadAll
  rw [List.foldl_map]
  refine foldl_collects (fun vs => (s, vs, ([] : List Nat))) (fun l => (l, extendBytes sgn (scratchBytes s (f l).toNat n))) _ ls
    (fun vs l hl => ?_) []
  dsimp only
  rw [State.loadLoc_scratch (h l hl)]
  rfl

/-! ### The end of a load -/

theorem vecWrites_eq_nil {d : Nat} {wide : Bool} {vs : List (Nat × W64)} : vecWrites d wide vs = [] ↔ vs = [] := by
  cases vs <;> simp [vecWrites]

/-- R83: a load that meets no error ends with its results, at once where it writes nothing. -/
theorem State.endLoad_clean (s : State) (i : Instr) (la : BitVec 4) (regs : List Reg) (ws : List RegWrite) (addr : W64)
    (again : State → State) :
    s.endLoad i la regs ws [] addr again = .next (again (s.results (if ws = [] then 0 else la.toNat) regs ws [])) := by
  simp [State.endLoad]

/-- R439: a load that misses nothing is charged nothing when its data returns. -/
theorem State.results_holdMisses {s : State} (h : s.misses = none) {n : Nat} (hn : n ≠ 0) (regs : List Reg) (ws : List RegWrite) :
    s.holdMisses.results n regs ws [] = s.results n regs ws [] := by
  have hopened : s.holdMisses.opened n regs ws [] = s.opened n regs ws [] := by
    simp only [State.opened, h]
    rfl
  rw [State.results_pending _ hn, State.results_pending _ hn, hopened]
  rfl

theorem State.results_later {s : State} (h : s.misses = none) (la : BitVec 4) (locs : List (Nat × Loc)) (regs : List Reg) (ws : List RegWrite) :
    (s.later la locs).results (if locs = [] then 0 else la.toNat) regs ws [] = s.results (if locs = [] then 0 else la.toNat) regs ws [] := by
  unfold State.later
  by_cases hnow : la = 0 ∨ locs.isEmpty = true
  · rw [if_pos hnow]
  · obtain ⟨hla, hlocs⟩ := not_or.mp hnow
    rw [if_neg hnow, if_neg (by simpa using hlocs)]
    exact State.results_holdMisses h (fun e => hla (BitVec.eq_of_toNat_eq e)) regs ws

/-! ### The words -/

theorem exec_loadForm {i : Instr} {g : Grd} {la : BitVec 4} {m : MemOp} {sgn contig : Bool} (h : loadForm i = some (g, la, m, sgn, contig))
    (s : State) : exec i s = loadWord i g la m sgn contig s := by
  cases i with
  | ld | ldSigned | ldv => cases h; rfl
  | _ => cases h

theorem exec_scalarLoadForm {i : Instr} {g : Grd} {la : BitVec 4} {m : MemOp} {sgn : Bool} (h : scalarLoadForm i = some (g, la, m, sgn))
    (s : State) : exec i s = loadScalar i g la m sgn s := by
  cases i with
  | lds | ldsSigned => cases h; rfl
  | _ => cases h

/-- R157: a load of lanes whose accesses pass their checks and meet no error. -/
theorem exec_load_reads {i : Instr} {g : Grd} {la : BitVec 4} {m : MemOp} {sgn contig : Bool} {s : State} {C : Checked}
    {r : State × List (Nat × W64) × List Nat} (h : loadForm i = some (g, la, m, sgn, contig)) (hc : s.clear i = true)
    (hC : s.checkLanes s.cur.team s.cur.gang m.sp m.sz.bytes .read (lanePlaces s g m contig) = C)
    (hr : (C.st.later la C.locs).loadAll C.st.cur.team C.st.cur.gang m.sz.bytes sgn C.locs = r)
    (hcauses : C.causes = []) (hclean : r.2.2 = []) :
    exec i s = .next (r.1.results (if r.2.1 = [] then 0 else la.toNat) m.dataRef.regs (vecWrites m.d.toNat (m.sz == .d) r.2.1) []
      |>.mayReread la m true sgn C.locs) := by
  obtain ⟨s1, vs, bad⟩ := r
  subst hclean
  have hC' : s.checkLanes s.cur.team s.cur.gang m.sp m.sz.bytes .read (s.laneAddrs g m contig) = C := hC
  rw [exec_loadForm h, loadWord, runWord_clear hc]
  dsimp only
  rw [hC', Checked.settle_ok C hcauses, hr]
  dsimp only
  rw [State.endLoad_clean]
  simp only [vecWrites_eq_nil]

/-- R159: a load for the gang, made for the first lane of Active. -/
theorem exec_scalarLoad_reads {i : Instr} {g : Grd} {la : BitVec 4} {m : MemOp} {sgn : Bool} {s : State} {l : Nat} {ls : List Nat}
    {C : Checked} {r : State × List (Nat × W64) × List Nat} (h : scalarLoadForm i = some (g, la, m, sgn)) (hc : s.clear i = true)
    (hl : s.active g = l :: ls)
    (hC : s.checkLanes s.cur.team s.cur.gang m.sp m.sz.bytes .read [(l, laneAddr s.curGang m false l)] = C)
    (hr : (C.st.later la C.locs).loadAll C.st.cur.team C.st.cur.gang m.sz.bytes sgn C.locs = r)
    (hcauses : C.causes = []) (hclean : r.2.2 = []) :
    exec i s = .next (r.1.results (if r.2.1 = [] then 0 else la.toNat) [.s m.d.toNat] (r.2.1.map (fun v => .s m.d.toNat v.2)) []
      |>.mayReread la m false sgn C.locs) := by
  obtain ⟨s1, vs, bad⟩ := r
  subst hclean
  rw [exec_scalarLoadForm h, loadScalar, runWord_clear hc]
  unfold State.laneAddrs
  rw [hl, List.map_cons]
  dsimp only
  rw [hC, Checked.settle_ok C hcauses, hr]
  dsimp only
  rw [if_pos List.isEmpty_nil, State.endLoad_clean]
  simp only [List.map_eq_nil_iff]

theorem exec_scalarLoad_noLane {i : Instr} {g : Grd} {la : BitVec 4} {m : MemOp} {sgn : Bool} {s : State}
    (h : scalarLoadForm i = some (g, la, m, sgn)) (hc : s.clear i = true) (hl : s.active g = []) : exec i s = .next (s.finish false) := by
  rw [exec_scalarLoadForm h, loadScalar, runWord_clear hc]
  unfold State.laneAddrs
  rw [hl]
  rfl

theorem exec_prf {g : Grd} {m : MemOp} {s : State} (hc : s.clear (.prf g m) = true) :
    exec (.prf g m) s = .next (((lanePlaces s g m false).foldl (fun s q => s.prefetchLane m q.2) s).finish false) := by
  show execPrf g m s = _
  rw [execPrf, runWord_clear hc]
  rfl

/-! ### Loads of scratch -/

/-- The charges that a load gathers leave the scratchpad as it is. -/
theorem goodScratch_later {s : State} {n : Nat} {a : Int} (h : goodScratch s n a) (la : BitVec 4) (locs : List (Nat × Loc)) :
    goodScratch (s.later la locs) n a ∧ scratchBytes (s.later la locs) a.toNat n = scratchBytes s a.toNat n := by
  unfold State.later
  split
  · exact ⟨h, rfl⟩
  · exact ⟨h, rfl⟩

theorem State.later_cur (s : State) (la : BitVec 4) (locs : List (Nat × Loc)) : (s.later la locs).cur = s.cur := by
  unfold State.later
  split
  · rfl
  · rfl

/-- R157, R228: the loads of lanes at good scratch addresses, whether or not their charges are gathered. -/
theorem State.later_loadAll_scratch {s : State} {n : Nat} (la : BitVec 4) (sgn : Bool) (f : Nat → Int) (ls : List Nat)
    (h : ∀ l ∈ ls, goodScratch s n (f l)) :
    let locs := ls.map (fun l => (l, Loc.scr (f l).toNat))
    (s.later la locs).loadAll s.cur.team s.cur.gang n sgn locs =
      (s.later la locs, ls.map (fun l => (l, extendBytes sgn (scratchBytes s (f l).toNat n))), []) := by
  intro locs
  have hload := State.loadAll_scratch (s := s.later la locs) sgn f ls (fun l hl => (goodScratch_later (h l hl) la locs).1)
  rw [State.later_cur] at hload
  refine hload.trans ?_
  congr 2
  exact List.map_congr_left (fun l hl => by rw [(goodScratch_later (h l hl) la locs).2])

theorem exec_load_scratch {i : Instr} {g : Grd} {la : BitVec 4} {m : MemOp} {sgn contig : Bool} {s : State}
    (h : loadForm i = some (g, la, m, sgn, contig)) (hc : s.clear i = true) (hsp : m.sp = .scratch) (hm : s.misses = none)
    (hgood : ∀ l ∈ s.active g, goodScratch s m.sz.bytes (laneAddr s.curGang m contig l)) :
    exec i s = .next (s.results (if s.active g = [] then 0 else la.toNat) m.dataRef.regs (vecWrites m.d.toNat (m.sz == .d)
      ((s.active g).map (fun l =>
        (l, extendBytes sgn (scratchBytes s (laneAddr s.curGang m contig l).toNat m.sz.bytes))))) []) := by
  have hcheck := s.checkLanes_scratch s.cur.team s.cur.gang m.sz.bytes .read (laneAddr s.curGang m contig) (s.active g)
    (fun l hl => inScratchpad_of_good (hgood l hl))
  have hload := State.later_loadAll_scratch la sgn (laneAddr s.curGang m contig) (s.active g) hgood
  have hend := State.results_later hm la ((s.active g).map (fun l => (l, Loc.scr (laneAddr s.curGang m contig l).toNat)))
  rw [← hsp] at hcheck
  rw [exec_load_reads h hc hcheck hload rfl rfl, State.mayReread_local _ _ _ _ _ _ (by simp [hsp])]
  simpa only [List.map_eq_nil_iff] using congrArg _ (hend _ _)

theorem exec_scalarLoad_scratch {i : Instr} {g : Grd} {la : BitVec 4} {m : MemOp} {sgn : Bool} {s : State} {l : Nat} {ls : List Nat}
    (h : scalarLoadForm i = some (g, la, m, sgn)) (hc : s.clear i = true) (hsp : m.sp = .scratch) (hm : s.misses = none)
    (hl : s.active g = l :: ls) (hgood : goodScratch s m.sz.bytes (laneAddr s.curGang m false l)) :
    exec i s = .next (s.results la.toNat [.s m.d.toNat]
      [.s m.d.toNat (extendBytes sgn (scratchBytes s (laneAddr s.curGang m false l).toNat m.sz.bytes))] []) := by
  have hone : ∀ k ∈ [l], goodScratch s m.sz.bytes (laneAddr s.curGang m false k) := by simpa using hgood
  have hcheck := s.checkLanes_scratch s.cur.team s.cur.gang m.sz.bytes .read (laneAddr s.curGang m false) [l]
    (fun k hk => inScratchpad_of_good (hone k hk))
  have hload := State.later_loadAll_scratch la sgn (laneAddr s.curGang m false) [l] hone
  have hend := State.results_later hm la [(l, Loc.scr (laneAddr s.curGang m false l).toNat)]
  rw [← hsp] at hcheck
  rw [exec_scalarLoad_reads h hc hl hcheck hload rfl rfl, State.mayReread_local _ _ _ _ _ _ (by simp [hsp])]
  exact congrArg _ (hend _ _)

/-- Settles O19. A load is its checks, its reads and its end, one after the other (`exec_load_reads`, `exec_scalarLoad_reads`); in scratch the
checks change nothing (`State.checkLanes_scratch`) and each lane reads its bytes (`State.loadAll_scratch`). The model's choices behind it: a
load in which no lane acts opens no window (notes/assumptions/54.md), a load of memory may read its places later (notes/assumptions/46.md), and
the address of `prf` (notes/assumptions/56.md). -/
theorem loadsReadTheirPlaces : Obligations.LoadsReadTheirPlaces :=
  ⟨⟨fun _ _ _ _ _ _ _ h hc => exec_load_reads h hc rfl rfl,
    fun _ _ _ _ _ _ h hc => ⟨exec_scalarLoad_noLane h hc, fun _ _ hl => exec_scalarLoad_reads h hc hl rfl rfl⟩,
    fun _ _ _ => exec_prf⟩,
   fun _ _ _ _ _ _ _ => exec_load_scratch, fun _ _ _ _ _ _ _ _ => exec_scalarLoad_scratch⟩

end Sys2Proof.Machine
end

section
/-! Gathers and scatters (R162): one lane of them, and what is left of the gang and its queue after it. -/

namespace Sys2Proof.Machine

open Sys2Proof.Safety

/-! ### One lane -/

/-- The gang while a gather or scatter does a lane: PIDX at the lane, and the lanes not yet done (R162, R272). -/
def Gang.atLane (G : Gang) (run : LaneMask) (l : Nat) : Gang := { G with pidx := BitVec.ofNat 64 l, prog := some (.lanes run G.unpaid) }

theorem Gang.sameRegs_atLane (G : Gang) (run : LaneMask) (l : Nat) : SameRegs G (G.atLane run l) := ⟨rfl, rfl, rfl, rfl, rfl⟩

/-- A change of a gang that leaves its core and its queue does not change what it finds in scratch. -/
theorem goodScratch_setCur {s : State} {H : Gang} {n : Nat} {a : Int} (hcore : H.core = s.curGang.core) (h : goodScratch s n a) :
    goodScratch (s.setCur H) n a := by
  unfold goodScratch at h ⊢
  rw [State.curTeam_setCur, State.curGang_setCur]
  unfold Team.overLink at h ⊢
  rw [hcore]
  exact h

theorem scratchBytes_setCur {s : State} {H : Gang} (hq : H.queue = s.curGang.queue) (a n : Nat) :
    scratchBytes (s.setCur H) a n = scratchBytes s a n := by
  have hteam : (s.setCur H).team s.cur.team = s.curTeam.setGang s.cur.gang H := s.curTeam_setCur H
  unfold scratchBytes State.scratchAt
  rw [State.setCur_cur, State.curGang_setCur, hteam, hq]
  rfl

/-- R162: a lane whose address lies in scratch passes its check, with PIDX at it. -/
theorem gatherLane_scratch {m : MemOp} {s : State} {l : Nat} (hsp : m.sp = .scratch)
    (h : inScratchpad s.curTeam m.sz.bytes (laneAddr s.curGang m false l)) (i : Instr) (acc : Access) (body : State → Loc → Out) :
    gatherLane i m acc s l body =
      body (s.setCur (s.curGang.atLane s.cur.lanes l)) (.scr (laneAddr s.curGang m false l).toNat) := by
  have hteam : (s.setCur (s.curGang.atLane s.cur.lanes l)).team s.cur.team = s.curTeam.setGang s.cur.gang _ := s.curTeam_setCur _
  have hcheck := (s.setCur (s.curGang.atLane s.cur.lanes l)).checkLanes_scratch s.cur.team s.cur.gang m.sz.bytes acc
    (laneAddr s.curGang m false) [l] (fun k hk => by rw [List.mem_singleton.mp hk, hteam]; exact h)
  unfold gatherLane
  dsimp only
  rw [hsp]
  exact (congrArg (fun C : Checked => C.settle i acc none _) hcheck).trans (Checked.settle_ok _ rfl ..)

/-- The registers that a result leaves depend on no more than those before it. -/
theorem sameRegs_applyWrites {G H : Gang} (h : SameRegs G H) (ws : List RegWrite) : SameRegs (G.applyWrites ws) (H.applyWrites ws) := by
  induction ws generalizing G H with
  | nil => exact h
  | cons w ws ih =>
    refine ih ?_
    obtain ⟨hpool, hs, hpreds, hm, hbad⟩ := h
    cases w with
    | v l r x => exact ⟨by simp [Gang.applyWrite, Gang.writeV, hpool], hs, hpreds, hm, by simp [Gang.applyWrite, Gang.writeV, hbad]⟩
    | s r x => exact ⟨hpool, by simp [Gang.applyWrite, Gang.writeS, hs], hpreds, hm, hbad⟩

/-! ### The end of the word -/

/-- The end of a word whose effect is a change of its gang. -/
theorem State.finish_setCur {s : State} {H : Gang} (hw : H.width = s.curGang.width) (e : Bool) :
    (s.setCur H).finish e = s.setCur (H.closeWord s.runLanes e (fun _ => s.cur.pc + 8)) := by
  have hrun : (s.setCur H).runLanes = s.runLanes := by
    rw [State.runLanes_setCur, hw]
    rfl
  rw [State.finish_eq, State.setCur_setCur, State.curGang_setCur, hrun]
  rfl

/-- R162, R178: a gather or scatter that has done its last lane ends, and its run goes to the next word. -/
theorem State.finish_lanes {s : State} {H : Gang} (hw : H.width = s.curGang.width) (hp : noRep H = true) :
    GangStep s (.next ((s.setCur H).finish false)) (fun K => Moved H K ∧ (∀ l ∈ s.runLanes, K.pc l = s.cur.pc + 8) ∧ K.prog = none) := by
  obtain ⟨hin, -, hprog, hmoved⟩ := Gang.closeWord_moves (e := false) hp s.runLanes_nodup (fun _ => s.cur.pc + 8)
  exact ⟨_, congrArg _ (State.finish_setCur hw false), hmoved, hin, hprog⟩

/-! ### Gathers -/

theorem exec_gatherForm {i : Instr} {g : Grd} {la : BitVec 4} {m : MemOp} {sgn : Bool} (h : gatherForm i = some (g, la, m, sgn))
    (s : State) : exec i s = gatherWord i g la m sgn s := by
  cases i with
  | gath | gathSigned => cases h; rfl
  | _ => cases h

section
variable {i : Instr} {g : Grd} {la : BitVec 4} {m : MemOp} {sgn : Bool} {s : State}
  (h : gatherForm i = some (g, la, m, sgn)) (hc : s.clear i = true)
include h hc

theorem exec_gather_noLane (hl : s.lanesLeft g = []) :
    exec i s = .next ((s.setCur { s.curGang with pidx := 0 }).finish false) := by
  rw [exec_gatherForm h, gatherWord, runWord_clear hc]
  dsimp only
  rw [hl]
  rfl

variable {l : Nat} {ls : List Nat} (hsp : m.sp = .scratch) (hl : s.lanesLeft g = l :: ls)
  (hgood : goodScratch s m.sz.bytes (laneAddr s.curGang m false l))
include hsp hl hgood

/-- R162: a lane of a gather: its registers are written, and the word goes on or ends. -/
theorem exec_gather_lane :
    let x := extendBytes sgn (scratchBytes s (laneAddr s.curGang m false l).toNat m.sz.bytes)
    let G := (s.curGang.atLane s.cur.lanes l).applyWrites (vecWrites m.d.toNat (m.sz == .d) [(l, x)])
    exec i s = if ls.isEmpty then .next ((s.setCur { G with pidx := 0 }).results la.toNat m.dataRef.regs [] [])
      else .next (s.setCur (G.markLane s.cur.lanes l)) := by
  have hload := State.loadLoc_scratch (goodScratch_setCur (H := s.curGang.atLane s.cur.lanes l) rfl hgood) true
  rw [scratchBytes_setCur (H := s.curGang.atLane s.cur.lanes l) rfl] at hload
  simp only [State.setCur_cur] at hload
  intro x G
  rw [exec_gatherForm h, gatherWord, runWord_clear hc]
  dsimp only
  rw [hl]
  dsimp only
  rw [gatherLane_scratch hsp (inScratchpad_of_good hgood)]
  simp only [State.setCur_cur]
  rw [hload]
  dsimp only
  rw [State.curGang_setCur, State.setCur_setCur, State.setCur_setCur]

theorem exec_gather_goesOn (hne : ls ≠ []) :
    let x := extendBytes sgn (scratchBytes s (laneAddr s.curGang m false l).toNat m.sz.bytes)
    let G := s.curGang.applyWrites (vecWrites m.d.toNat (m.sz == .d) [(l, x)])
    GangStep s (exec i s) (fun H => SameRegs G H ∧ H.pidx = BitVec.ofNat 64 (l + 1) ∧ H.pcs = G.pcs ∧ H.prog.isSome = true) := by
  intro x G
  have hpcs : G.pcs = s.curGang.pcs := (congrArg Gang.pcs (s.curGang.applyWrites_frame _) :)
  have hpcs' := congrArg Gang.pcs ((s.curGang.atLane s.cur.lanes l).applyWrites_frame (vecWrites m.d.toNat (m.sz == .d) [(l, x)]))
  have hregs : SameRegs G ((s.curGang.atLane s.cur.lanes l).applyWrites _) := sameRegs_applyWrites (s.curGang.sameRegs_atLane s.cur.lanes l) _
  exact ⟨_, (exec_gather_lane h hc hsp hl hgood).trans (if_neg (by simpa using hne)), hregs, rfl, hpcs'.trans hpcs.symm, rfl⟩

theorem exec_gather_ends (hls : ls = []) (hla : la = 0) :
    let x := extendBytes sgn (scratchBytes s (laneAddr s.curGang m false l).toNat m.sz.bytes)
    let G := s.curGang.applyWrites (vecWrites m.d.toNat (m.sz == .d) [(l, x)])
    GangStep s (exec i s) (fun H => SameRegs G H ∧ H.pidx = 0 ∧ (∀ l ∈ s.runLanes, H.pc l = s.cur.pc + 8) ∧ H.prog = none) := by
  subst hls hla
  intro x G
  have hregs : SameRegs G ((s.curGang.atLane s.cur.lanes l).applyWrites _) := sameRegs_applyWrites (s.curGang.sameRegs_atLane s.cur.lanes l) _
  have hframe := (s.curGang.atLane s.cur.lanes l).applyWrites_frame (vecWrites m.d.toNat (m.sz == .d) [(l, x)])
  have hexec := (exec_gather_lane h hc hsp hl hgood).trans (if_pos rfl)
  generalize (s.curGang.atLane s.cur.lanes l).applyWrites (vecWrites m.d.toNat (m.sz == .d) [(l, x)]) = K at hregs hframe hexec
  have hprog : K.prog = some (.lanes s.cur.lanes s.curGang.unpaid) := (congrArg Gang.prog hframe :)
  obtain ⟨H, hnext, hmoved, hpc, hend⟩ := State.finish_lanes (s := s) (H := { K with pidx := 0 }) (congrArg Gang.width hframe :)
    (by rw [noRep]; dsimp only; rw [hprog])
  have hzero : (s.setCur { K with pidx := 0 }).results (0 : BitVec 4).toNat m.dataRef.regs [] [] =
      (s.setCur { K with pidx := 0 }).finish false := by
    refine (State.results_zero _ _ _).trans ?_
    rw [State.curGang_setCur]
    exact congrArg (State.finish · false) (State.setCur_setCur ..)
  exact ⟨H, hexec.trans ((congrArg _ hzero).trans hnext), sameRegs_trans hregs (sameRegs_of_moved hmoved :), (congrArg Gang.pidx hmoved :),
    hpc, hend⟩
end

/-! ### Scatters -/

/-- R227: what is in the queue after a lane depends on no more than what was in it. -/
theorem Gang.queue_extendQueue {G H : Gang} (h : H.queue = G.queue) (started : Bool) (ws : SqEntry) :
    (H.extendQueue started ws).queue = (G.extendQueue started ws).queue := by
  unfold Gang.extendQueue
  rw [h]
  cases G.queue.getLast? <;> rfl

theorem Gang.extendQueue_frame (G : Gang) (started : Bool) (ws : SqEntry) : { G.extendQueue started ws with queue := G.queue } = G := by
  unfold Gang.extendQueue
  cases G.queue.getLast? <;> rfl

section
variable {g : Grd} {m : MemOp} {s : State} {l : Nat} {ls : List Nat}
  (hc : s.clear (.scat g m) = true) (hsp : m.sp = .scratch) (hready : s.curGang.prog.isSome = true ∨ storeBusy s m = false)
  (hl : s.lanesLeft g = l :: ls) (hgood : goodScratch s m.sz.bytes (laneAddr s.curGang m false l))
include hc hsp hready hl hgood

/-- R162, R227: a lane of a scatter: its bytes enter the word's entry, and the word goes on or ends. -/
theorem exec_scat_lane :
    let w : Write := ⟨.scratch s.cur.team, (laneAddr s.curGang m false l).toNat, storeData s.curGang m l⟩
    let G := (s.curGang.atLane s.cur.lanes l).extendQueue s.curGang.prog.isSome [w]
    exec (.scat g m) s = if ls.isEmpty then .next ((s.setCur { G with pidx := 0 }).finish false)
      else .next (s.setCur (G.markLane s.cur.lanes l)) := by
  have hgo : (!s.curGang.prog.isSome && storeBusy s m) = false := by
    rcases hready with hstarted | hfree
    · rw [hstarted]; rfl
    · rw [hfree, Bool.and_false]
  have hstored : storeData (s.curGang.atLane s.cur.lanes l) m l = storeData s.curGang m l := rfl
  intro w G
  show execScat g m s = _
  rw [execScat, runWord_clear hc]
  dsimp only
  rw [hgo, hl]
  dsimp only
  rw [gatherLane_scratch hsp (inScratchpad_of_good hgood)]
  simp only [State.setCur_cur, State.curGang_setCur, State.setCur_setCur, hstored]
  rfl

theorem exec_scat_goesOn (hne : ls ≠ []) :
    let w : Write := ⟨.scratch s.cur.team, (laneAddr s.curGang m false l).toNat, storeData s.curGang m l⟩
    let q := (s.curGang.extendQueue s.curGang.prog.isSome [w]).queue
    GangStep s (exec (.scat g m) s) (fun H =>
      SameRegs s.curGang H ∧ H.queue = q ∧ H.pidx = BitVec.ofNat 64 (l + 1) ∧ H.pcs = s.curGang.pcs) := by
  intro w q
  have hframe := (s.curGang.atLane s.cur.lanes l).extendQueue_frame s.curGang.prog.isSome [w]
  refine ⟨_, (exec_scat_lane hc hsp hready hl hgood).trans (if_neg (by simpa using hne)),
    ⟨(congrArg Gang.pool hframe :), (congrArg Gang.s hframe :), (congrArg Gang.preds hframe :), (congrArg Gang.m hframe :),
      (congrArg Gang.bad hframe :)⟩, (Gang.queue_extendQueue (G := s.curGang) (H := s.curGang.atLane s.cur.lanes l) rfl _ _ :), rfl,
    (congrArg Gang.pcs hframe :)⟩

theorem exec_scat_ends (hls : ls = []) :
    let w : Write := ⟨.scratch s.cur.team, (laneAddr s.curGang m false l).toNat, storeData s.curGang m l⟩
    let q := (s.curGang.extendQueue s.curGang.prog.isSome [w]).queue
    GangStep s (exec (.scat g m) s) (fun H =>
      SameRegs s.curGang H ∧ H.queue = q ∧ H.pidx = 0 ∧ ∀ l ∈ s.runLanes, H.pc l = s.cur.pc + 8) := by
  subst hls
  intro w q
  have hframe := (s.curGang.atLane s.cur.lanes l).extendQueue_frame s.curGang.prog.isSome [w]
  have hprog : ((s.curGang.atLane s.cur.lanes l).extendQueue s.curGang.prog.isSome [w]).prog =
      some (.lanes s.cur.lanes s.curGang.unpaid) := (congrArg Gang.prog hframe :)
  obtain ⟨H, hnext, hmoved, hpc, -⟩ := State.finish_lanes (s := s)
    (H := { (s.curGang.atLane s.cur.lanes l).extendQueue s.curGang.prog.isSome [w] with pidx := 0 })
    (congrArg Gang.width hframe :) (by rw [noRep]; dsimp only; rw [hprog])
  refine ⟨H, (exec_scat_lane hc hsp hready hl hgood).trans ((if_pos rfl).trans hnext), sameRegs_trans ?_ (sameRegs_of_moved hmoved),
    (congrArg Gang.queue hmoved :).trans (Gang.queue_extendQueue (G := s.curGang) (H := s.curGang.atLane s.cur.lanes l) rfl _ _ :),
    (congrArg Gang.pidx hmoved :), hpc⟩
  exact ⟨(congrArg Gang.pool hframe :), (congrArg Gang.s hframe :), (congrArg Gang.preds hframe :), (congrArg Gang.m hframe :),
    (congrArg Gang.bad hframe :)⟩
end

/-- Settles O21. A lane of a gather or scatter passes its check with PIDX at it (`gatherLane_scratch`), and the word then goes on with PIDX
past it or ends (`exec_gather_lane`, `exec_scat_lane`). That a gather in which no lane is left opens no window is the model's choice
(notes/assumptions/54.md). -/
theorem gathersGoLaneByLane : Obligations.GathersGoLaneByLane :=
  ⟨fun _ _ _ _ _ _ _ _ h hc hsp hl hgood => ⟨exec_gather_goesOn h hc hsp hl hgood, fun hls hla _ => exec_gather_ends h hc hsp hl hgood hls hla⟩,
   fun _ _ _ _ _ _ => exec_gather_noLane,
   fun _ _ _ _ _ hc hsp hready hl hgood =>
    ⟨exec_scat_goesOn hc hsp hready hl hgood, fun hls _ => exec_scat_ends hc hsp hready hl hgood hls⟩⟩

end Sys2Proof.Machine
end

section
/-! Stores of lanes (R157 to R159, R226 to R228): they enter their gang's queue. -/

namespace Sys2Proof.Machine

open Sys2Proof.Safety

theorem exec_storeForm {i : Instr} {g : Grd} {m : MemOp} {contig : Bool} (h : storeForm i = some (g, m, contig)) (s : State) :
    exec i s = storeWord i g m contig s := by
  cases i with
  | st | stv => cases h; rfl
  | _ => cases h

/-- R157, R227: a store whose accesses pass their checks puts one entry, the bytes of every lane in order, into its gang's queue. -/
theorem exec_store_enqueues {i : Instr} {g : Grd} {m : MemOp} {contig : Bool} {s : State} {C : Checked}
    (h : storeForm i = some (g, m, contig)) (hc : s.clear i = true) (hfree : storeBusy s m = false)
    (hC : s.checkLanes s.cur.team s.cur.gang m.sp m.sz.bytes .write (lanePlaces s g m contig) = C) (hcauses : C.causes = []) :
    exec i s = .next ((C.st.enqueue C.st.cur.team C.st.cur.gang
      (C.locs.flatMap (fun q => locWrite C.st.cur.team q.2 (storeData C.st.curGang m q.1)))).finish false) := by
  have hC' : s.checkLanes s.cur.team s.cur.gang m.sp m.sz.bytes .write (s.laneAddrs g m contig) = C := hC
  rw [exec_storeForm h, storeWord, runWord_clear hc]
  dsimp only
  rw [hfree, hC', Checked.settle_ok C hcauses]
  rfl

theorem exec_sts_noLane {g : Grd} {m : MemOp} {s : State} (hc : s.clear (.sts g m) = true) (hfree : storeBusy s m = false)
    (hl : s.active g = []) : exec (.sts g m) s = .next (s.finish false) := by
  show execSts g m s = _
  rw [execSts, runWord_clear hc]
  unfold State.laneAddrs
  dsimp only
  rw [hfree, hl]
  rfl

/-- R159: a store of one value for the gang, made for the first lane of Active. -/
theorem exec_sts_enqueues {g : Grd} {m : MemOp} {s : State} {l : Nat} {ls : List Nat} {C : Checked} (hc : s.clear (.sts g m) = true)
    (hfree : storeBusy s m = false) (hl : s.active g = l :: ls)
    (hC : s.checkLanes s.cur.team s.cur.gang m.sp m.sz.bytes .write [(l, laneAddr s.curGang m false l)] = C) (hcauses : C.causes = []) :
    exec (.sts g m) s = .next ((C.st.enqueue C.st.cur.team C.st.cur.gang (C.locs.flatMap (fun q =>
      locWrite C.st.cur.team q.2 (bytesOfNum m.sz.bytes (C.st.curGang.readS m.d.toNat).toNat)))).finish false) := by
  show execSts g m s = _
  rw [execSts, runWord_clear hc]
  unfold State.laneAddrs
  dsimp only
  rw [hfree, hl, List.map_cons]
  dsimp only
  rw [hC, Checked.settle_ok C hcauses]
  rfl

/-! ### Stores to scratch -/

/-- No end of a word touches the store queue. -/
theorem Gang.queue_closeWord (G : Gang) (run : List Nat) (e : Bool) (f : Nat → W64) : (G.closeWord run e f).queue = G.queue := by
  unfold Gang.closeWord
  split
  · split
    · extract_lets G1
      split
      · exact (congrArg Gang.queue (G1.countWindows_frame run true) :)
      · rfl
    · exact (congrArg Gang.queue (Gang.moved_setPcs { G with pidx := 0 } run e (fun G l => G.pc l + 16) none []) :)
  · exact (congrArg Gang.queue (Gang.moved_setPcs G run e _ _ _) :)

/-- R227: a word whose one effect is an entry in its gang's queue. -/
theorem State.enqueue_finish (s : State) {ws : SqEntry} (hne : ws ≠ []) :
    GangStep s (.next ((s.enqueue s.cur.team s.cur.gang ws).finish false)) (fun H =>
      SameRegs s.curGang H ∧ H.queue = s.curGang.queue ++ [ws]) := by
  obtain ⟨K, henqueue, hwidth, hregs, hqueue⟩ : ∃ K, s.enqueue s.cur.team s.cur.gang ws = s.setCur K ∧ K.width = s.curGang.width ∧
      SameRegs s.curGang K ∧ K.queue = s.curGang.queue ++ [ws] := by
    cases ws with
    | nil => exact absurd rfl hne
    | cons w ws => exact ⟨_, rfl, rfl, ⟨rfl, rfl, rfl, rfl, rfl⟩, rfl⟩
  rw [henqueue, State.finish_setCur hwidth]
  exact ⟨_, rfl, sameRegs_trans hregs (Gang.sameRegs_closeWord ..), (Gang.queue_closeWord ..).trans hqueue⟩

/-- R157, R226: a store to scratch changes nothing but its gang's queue until its entry leaves. -/
theorem exec_store_scratch {i : Instr} {g : Grd} {m : MemOp} {contig : Bool} {s : State} (h : storeForm i = some (g, m, contig))
    (hc : s.clear i = true) (hfree : storeBusy s m = false) (hsp : m.sp = .scratch) (hne : s.active g ≠ [])
    (hin : ∀ l ∈ s.active g, inScratchpad s.curTeam m.sz.bytes (laneAddr s.curGang m contig l)) :
    GangStep s (exec i s) (fun H => SameRegs s.curGang H ∧ H.queue = s.curGang.queue ++
      [(s.active g).map (fun l => (⟨.scratch s.cur.team, (laneAddr s.curGang m contig l).toNat, storeData s.curGang m l⟩ : Write))]) := by
  have hcheck := s.checkLanes_scratch s.cur.team s.cur.gang m.sz.bytes .write (laneAddr s.curGang m contig) (s.active g) hin
  rw [← hsp] at hcheck
  rw [exec_store_enqueues h hc hfree hcheck rfl]
  simp only [List.flatMap_map, locWrite, ← List.map_eq_flatMap]
  exact s.enqueue_finish (by simpa using hne)

end Sys2Proof.Machine
end

section
/-! What does not move a store (R226 to R228, R238, R310): waking lanes, charges, and lines that come to their home slices and leave them. -/

namespace Sys2Proof.Machine

/-- Two teams with the same scratchpad and, gang by gang, the same store queues. -/
structure Team.StoresStay (T U : Team) : Prop where
  scratch : U.scratch = T.scratch
  queue : ∀ g, (U.gang g).queue = (T.gang g).queue

/-- Every store is where it was: in memory, in a scratchpad, in a queue, or on its way from a core. -/
structure State.StoresStay (o s : State) : Prop where
  mem : s.mem = o.mem
  out : ∀ c, (s.core c).out = (o.core c).out
  team : ∀ t, (o.team t).StoresStay (s.team t)

/-! ### Gangs and teams -/

theorem Gang.queue_leaveWait (G : Gang) (ls : List Nat) : (G.leaveWait ls).queue = G.queue := by
  have heach : ∀ (f : Gang → Nat → Gang), (∀ H l, (f H l).queue = H.queue) → (G.eachLane ls f).queue = G.queue := fun f hf =>
    List.foldlRecOn (motive := fun H : Gang => H.queue = G.queue) ls _ rfl (fun H h l _ => (hf H l).trans h)
  unfold Gang.leaveWait
  split
  · extract_lets G1 rl
    have h1 : G1.queue = G.queue := heach _ (fun H l => by split <;> rfl)
    split
    · exact (Gang.queue_closeWord ..).trans h1
    · exact h1
  · exact heach _ (fun _ _ => rfl)

/-- Lanes that wake leave their gang's stores alone. -/
theorem Gang.queue_wake (G : Gang) (v : Bool) (test : WaitOn → Bool) : (G.wake v test).queue = G.queue := by
  unfold Gang.wake
  refine (Gang.queue_leaveWait ..).trans
    (List.foldlRecOn (motive := fun H : Gang => H.queue = G.queue) (G.waiters test) _ rfl (fun H h l _ => ?_))
  split
  · split
    · exact h
    · exact h
  · exact h

theorem Team.StoresStay.refl (T : Team) : T.StoresStay T := ⟨rfl, fun _ => rfl⟩

theorem Team.StoresStay.trans {T U V : Team} (h : T.StoresStay U) (k : U.StoresStay V) : T.StoresStay V :=
  ⟨k.scratch.trans h.scratch, fun g => (k.queue g).trans (h.queue g)⟩

theorem Team.StoresStay.mapGangs {T : Team} {f : Nat → Gang → Gang} (h : ∀ k G, (f k G).queue = G.queue) : T.StoresStay (T.mapGangs f) :=
  ⟨rfl, fun g => (T.gang_mapGangs f g).elim (fun e => e ▸ h ..) (fun e => e ▸ rfl)⟩

/-! ### Ways in which a state is built from another -/

section
variable {o s u : State}

theorem State.StoresStay.refl (s : State) : s.StoresStay s := ⟨rfl, fun _ => rfl, fun _ => .refl _⟩

theorem State.core_congr (h : u.cores = s.cores) (c : Nat) : u.core c = s.core c := by rw [State.core, State.core, h]
theorem State.team_congr (h : u.teams = s.teams) (t : Nat) : u.team t = s.team t := by rw [State.team, State.team, h]

theorem State.StoresStay.same (hs : o.StoresStay s) (hm : u.mem = s.mem) (hc : u.cores = s.cores) (ht : u.teams = s.teams) :
    o.StoresStay u :=
  ⟨hm.trans hs.mem, fun c => State.core_congr hc c ▸ hs.out c, fun t => State.team_congr ht t ▸ hs.team t⟩

theorem State.StoresStay.ite {c : Prop} [Decidable c] (hs : o.StoresStay s) (hu : o.StoresStay u) :
    o.StoresStay (if c then s else u) := by
  split
  · exact hs
  · exact hu

theorem State.StoresStay.foldl {α : Type} {f : State → α → State} {l : List α} (hs : o.StoresStay s)
    (hf : ∀ s x, o.StoresStay s → o.StoresStay (f s x)) : o.StoresStay (l.foldl f s) := by
  induction l generalizing s with
  | nil => exact hs
  | cons x l ih => exact ih (hf s x hs)

theorem State.StoresStay.modCore {c : Nat} {f : Core → Core} (hs : o.StoresStay s) (hf : ∀ C, (f C).out = C.out) :
    o.StoresStay (s.modCore c f) := by
  refine ⟨hs.mem, fun d => ?_, hs.team⟩
  by_cases hd : d = c
  · subst hd
    rw [State.core_modCore, hf]
    exact hs.out d
  · rw [State.modCore, State.core_setCore_ne s hd]
    exact hs.out d

theorem State.StoresStay.setTeam {t : Nat} {T : Team} (hs : o.StoresStay s) (hT : (s.team t).StoresStay T) : o.StoresStay (s.setTeam t T) := by
  refine ⟨hs.mem, hs.out, fun k => ?_⟩
  by_cases hk : k = t
  · subst hk
    rw [State.team_setTeam]
    exact (hs.team k).trans hT
  · rw [State.team_setTeam_ne s hk]
    exact hs.team k

theorem State.StoresStay.mapTeams {f : Nat → Team → Team} (hs : o.StoresStay s) (hf : ∀ k T, Team.StoresStay T (f k T)) :
    o.StoresStay (s.mapTeams f) := by
  refine ⟨hs.mem, hs.out, fun k => (hs.team k).trans ?_⟩
  unfold State.team State.mapTeams tget
  rw [tfind_map]
  cases tfind s.teams k with
  | none => exact .refl _
  | some T => exact hf k T
end

section
variable {o s : State} {t n core c line : Nat}

theorem State.StoresStay.modSlice {f : Slice → Slice} (hs : o.StoresStay s) : o.StoresStay (s.modSlice n f) := .same hs rfl rfl rfl
theorem State.StoresStay.modCtx {f : Context → Context} (hs : o.StoresStay s) : o.StoresStay (s.modCtx n f) := .same hs rfl rfl rfl
theorem State.StoresStay.modMeter {f : Meter → Meter} (hs : o.StoresStay s) : o.StoresStay (s.modMeter core c f) := hs.modCore (fun _ => rfl)

/-! ### Waking -/

theorem State.StoresStay.sendFlits {pkg cls pa : Nat} {bytes : List Byte} (hs : o.StoresStay s) :
    o.StoresStay (s.sendFlits pkg cls pa bytes) := by
  unfold State.sendFlits
  exact .ite hs (.same hs rfl rfl rfl)

theorem State.StoresStay.relaunch (hs : o.StoresStay s) : o.StoresStay (s.relaunch t) := by
  unfold State.relaunch
  extract_lets T base
  have hbase : o.StoresStay base := hs.setTeam ⟨rfl, fun _ => rfl⟩
  exact .ite (.same hbase rfl rfl rfl) hs

theorem State.StoresStay.requeue (hs : o.StoresStay s) : o.StoresStay (s.requeue t) := by
  unfold State.requeue
  extract_lets T
  exact .ite hs (.ite hs.relaunch (.foldl hs (fun _ _ h => h.relaunch)))

theorem State.StoresStay.wakeSpilled (hs : o.StoresStay s) : o.StoresStay (s.wakeSpilled line) := by
  unfold State.wakeSpilled
  extract_lets h ts s1
  have h1 : o.StoresStay s1 := .foldl hs (fun _ _ h => .ite h.sendFlits h.requeue)
  exact .ite h1 h1.modSlice

theorem State.StoresStay.wakeLine (hs : o.StoresStay s) : o.StoresStay (s.wakeLine line) := by
  unfold State.wakeLine
  extract_lets base
  have hbase : o.StoresStay base := by
    refine hs.mapTeams (fun _ T => ?_)
    split
    · exact .mapGangs (fun _ G => G.queue_wake ..)
    · exact .refl T
  exact .same hbase rfl rfl rfl

theorem State.StoresStay.wakeScratch (hs : o.StoresStay s) : o.StoresStay (s.wakeScratch t n) := by
  unfold State.wakeScratch
  extract_lets test T
  exact .ite (hs.setTeam (.mapGangs (fun _ G => G.queue_wake ..))) (.ite hs.requeue hs)

theorem State.StoresStay.wakeLost (hs : o.StoresStay s) : o.StoresStay (s.wakeLost core line) := by
  unfold State.wakeLost
  refine hs.mapTeams (fun _ T => ?_)
  split
  · refine .mapGangs (fun _ G => ?_)
    split
    · exact G.queue_wake ..
    · rfl
  · exact .refl T

/-! ### Charges and limiters -/

theorem State.StoresStay.wantGrant (hs : o.StoresStay s) : o.StoresStay (s.wantGrant core c) := by
  unfold State.wantGrant State.post
  exact .ite hs.modMeter.modCtx.modMeter hs

theorem State.StoresStay.chargeRaw {u dom : Nat} (hs : o.StoresStay s) : o.StoresStay (s.chargeRaw core c u dom) := by
  have hmeter : o.StoresStay (s.modMeter core c (fun M => { M with rem := M.rem - u, cons := M.cons + u })) := hs.modMeter
  unfold State.chargeRaw State.chargeOnly
  exact .wantGrant (.ite (.same hs rfl rfl rfl) (.same hmeter rfl rfl rfl))

theorem State.StoresStay.chargeMiss {m : Miss} (hs : o.StoresStay s) : o.StoresStay (s.chargeMiss m) := by
  unfold State.chargeMiss
  split
  · exact .same hs rfl rfl rfl
  · exact hs.chargeRaw

theorem State.StoresStay.returnMeter (hs : o.StoresStay s) : o.StoresStay (s.returnMeter core c) := by
  unfold State.returnMeter
  exact .ite hs (hs.modCtx.modCore (fun _ => rfl))

theorem State.StoresStay.inject {flits : Nat} (hs : o.StoresStay s) : o.StoresStay (s.inject core c flits) := by
  unfold State.inject
  exact .ite hs (.same hs rfl rfl rfl)

/-! ### Lines at their home slices -/

theorem State.StoresStay.dropL1 (hs : o.StoresStay s) : o.StoresStay (s.dropL1 core line) := by
  unfold State.dropL1 State.dropShare
  extract_lets mon s1
  have h1 : o.StoresStay s1 := hs.modCore (fun _ => rfl)
  exact .ite h1.wakeLost.modSlice h1

theorem State.StoresStay.invalidate {keep : Option Nat} (hs : o.StoresStay s) : o.StoresStay (s.invalidate line keep) := by
  unfold State.invalidate
  exact .foldl hs (fun _ _ h => h.dropL1)

theorem State.StoresStay.freeBypass (hs : o.StoresStay s) : o.StoresStay (s.freeBypass line) := by
  unfold State.freeBypass
  exact .ite hs.modSlice hs

theorem State.StoresStay.ownerData {e : DirEntry} (hs : o.StoresStay s) : o.StoresStay (s.ownerData core c line e) := by
  unfold State.ownerData
  extract_lets s1
  have h1 : o.StoresStay s1 := .ite hs.chargeMiss hs
  exact .ite h1.modSlice.wakeSpilled hs

theorem State.StoresStay.evict {e : DirEntry} (hs : o.StoresStay s) : o.StoresStay (s.evict core c n e) := by
  unfold State.evict
  extract_lets s1 s2
  have h1 : o.StoresStay s1 := hs.ownerData.invalidate
  have h2 : o.StoresStay s2 := .ite h1.chargeMiss h1
  exact h2.modSlice

theorem State.StoresStay.fill (hs : o.StoresStay s) : o.StoresStay (s.fill core c line) := by
  unfold State.fill
  extract_lets h p set s1 old s1' new bl s2 base
  have h1 : o.StoresStay s1 := hs.chargeMiss.chargeMiss
  have h1' : o.StoresStay s1' := .ite h1 h1.modSlice
  clear_value s1'
  split
  · extract_lets old' s2' base'
    have h2' : o.StoresStay s2' := by
      unfold s2'
      clear_value old'
      split
      · exact h1'.evict
      · exact h1'
    exact .same h2' rfl rfl rfl
  · have h2 : o.StoresStay s2 := by
      unfold s2
      refine .ite h1' ?_
      split
      · exact h1'.evict
      · exact h1'
    exact .same h2 rfl rfl rfl

theorem State.StoresStay.recent (hs : o.StoresStay s) : o.StoresStay (s.recent line) := .same hs rfl rfl rfl

theorem State.StoresStay.lookup (hs : o.StoresStay s) : o.StoresStay (s.lookup core c line) := by
  unfold State.lookup
  split
  · unfold State.hit
    extract_lets s1
    have h1 : o.StoresStay s1 := hs.chargeMiss
    exact .recent (.ite h1.chargeMiss h1)
  · exact hs.fill

/-- R310: what a Write does beside its bytes. -/
theorem State.StoresStay.sliceWriteLine {keep : Option Nat} (hs : o.StoresStay s) : o.StoresStay (s.sliceWriteLine core c line keep) := by
  unfold State.sliceWriteLine State.writtenLine
  extract_lets h s2 s3 s4 s5
  have h2 : o.StoresStay s2 := by
    unfold s2
    split
    · exact hs.lookup.ownerData
    · exact hs.lookup
  have h3 : o.StoresStay s3 := h2.invalidate
  have h4 : o.StoresStay s4 := by
    unfold s4
    split
    · exact h3.modCore (fun _ => rfl)
    · exact h3
  have h5 : o.StoresStay s5 := h4.modSlice
  exact h5.wakeLine.wakeSpilled.freeBypass
end

end Sys2Proof.Machine
end

section
/-! Stores that leave their queue and reach their places (R158, R226 to R228, R310, R315), and the refutation of O22. -/

namespace Sys2Proof.Machine

/-! ### Consecutive bytes -/

theorem cellsAt_cons (a : Nat) (b : Byte) (bs : List Byte) : cellsAt a (b :: bs) = (a, b) :: cellsAt (a + 1) bs := by
  unfold cellsAt upto
  rw [List.length_cons, List.range_succ_eq_map, List.zip_cons_cons, List.map_cons, List.zip_map_left, List.map_map]
  refine congrArg _ (List.map_congr_left (fun q _ => ?_))
  exact Prod.ext (show a + (q.1 + 1) = a + 1 + q.1 by omega) rfl

/-- R158: bytes put behind those that stand lower. -/
theorem putList_eq {m : Tbl Byte} {a : Nat} {bs : List Byte} (h : ∀ p ∈ m, p.1 < a) : putList m a bs = m ++ cellsAt a bs := by
  induction bs generalizing m a with
  | nil => simp [putList, cellsAt]
  | cons b bs ih =>
    rw [putList, tput_above b h, cellsAt_cons, ih, List.append_assoc, List.singleton_append]
    intro p hp
    rcases List.mem_append.mp hp with hp | hp
    · exact Nat.lt_succ_of_lt (h p hp)
    · rw [List.mem_singleton.mp hp]
      exact Nat.lt_succ_self a

theorem putCells_cellsAt (m : Tbl Byte) (a : Nat) (bs : List Byte) : putCells m (cellsAt a bs) = writeBytes m a bs := by
  induction bs generalizing m a with
  | nil => rfl
  | cons b bs ih =>
    rw [cellsAt_cons]
    exact ih (writeByte m a b) (a + 1)

theorem lineOf_cellsAt {a l : Nat} {bs : List Byte} (h : ∀ k < bs.length, lineOf (a + k) = l) : ∀ p ∈ cellsAt a bs, lineOf p.1 = l := by
  intro p hp
  obtain ⟨q, hq, rfl⟩ := List.mem_map.mp hp
  exact h q.1 (List.mem_range.mp (List.of_mem_zip hq).1)

theorem dedup_constant {l : Nat} {ls : List Nat} (h : ∀ x ∈ ls, x = l) (hne : ls ≠ []) : dedup ls = [l] := by
  induction ls with
  | nil => exact absurd rfl hne
  | cons x t ih =>
    have ht : ∀ y ∈ t, y = l := fun y hy => h y (List.mem_cons_of_mem _ hy)
    rw [dedup, h x List.mem_cons_self]
    cases t with
    | nil => rfl
    | cons y t => rw [if_pos (by simp [ht y]), ih ht (List.cons_ne_nil _ _)]

/-! ### The entry of one write -/

/-- A gang's queue without the entry that leaves it. -/
def State.popped (s : State) (t g : Nat) (rest : List SqEntry) : State := s.setGang t g { s.gang t g with queue := rest }

theorem exec_storeQueueDrain {s : State} {t g : Nat} {e : SqEntry} {rest : List SqEntry} (hq : (s.gang t g).queue = e :: rest)
    (hd : s.drainHeld t g = false) :
    exec (.storeQueueDrain t g) s = .next ((s.popped t g rest).leaveQueue (s.gang t g).core t e) := by
  show execStoreQueueDrain t g s = _
  rw [execStoreQueueDrain, hd, State.drainOne]
  rw [hq]
  rfl

theorem State.team_popped (s : State) (t g : Nat) (rest : List SqEntry) :
    (s.popped t g rest).team t = (s.team t).setGang g { s.gang t g with queue := rest } := by
  simp [State.popped, State.setGang, State.modTeam]

theorem State.queue_popped (s : State) (t g : Nat) (rest : List SqEntry) : ((s.popped t g rest).gang t g).queue = rest := by
  simp [State.popped]

section
variable {s : State} {t g a : Nat} {bs : List Byte} {rest : List SqEntry}

theorem entryCells_write (tgt : WTarget) : entryCells [⟨tgt, a, bs⟩] tgt = cellsAt a bs := by
  have hput : putList [] a bs = cellsAt a bs := (putList_eq (by simp)).trans (List.nil_append _)
  simpa [entryCells, cellsOf] using hput

/-- R226: the bytes of one line make one packet. -/
theorem entryLines_write (hne : bs ≠ []) (hline : ∀ k < bs.length, lineOf (a + k) = lineOf a) :
    entryLines [⟨.mem, a, bs⟩] = [(lineOf a, cellsAt a bs)] := by
  have hcells := lineOf_cellsAt hline
  have hlines : dedup ((cellsAt a bs).map (fun q => lineOf q.1)) = [lineOf a] := by
    refine dedup_constant (fun l hl => ?_) ?_
    · obtain ⟨p, hp, rfl⟩ := List.mem_map.mp hl
      exact hcells p hp
    · cases bs with
      | nil => exact absurd rfl hne
      | cons b bs => simp [cellsAt_cons]
  have hall : (cellsAt a bs).filter (fun q => decide (lineOf q.1 = lineOf a)) = cellsAt a bs :=
    List.filter_eq_self.mpr (fun p hp => decide_eq_true (hcells p hp))
  unfold entryLines
  rw [entryCells_write]
  dsimp only
  rw [hlines, List.map_singleton, hall]

theorem State.leaveQueue_scratch (s : State) (core u : Nat) :
    s.leaveQueue core t [⟨.scratch u, a, bs⟩] = s.putScratchCells u (cellsAt a bs) := by
  rw [← entryCells_write (.scratch u)]
  rfl

theorem State.leaveQueue_mem (s : State) (core : Nat) (hne : bs ≠ []) (hline : ∀ k < bs.length, lineOf (a + k) = lineOf a) :
    s.leaveQueue core t [⟨.mem, a, bs⟩] = s.leaveLine core (s.team t).ctx (lineOf a) (cellsAt a bs) := by
  have hfold : s.leaveQueue core t [⟨.mem, a, bs⟩] =
      (entryLines [⟨.mem, a, bs⟩]).foldl (fun (s : State) q => s.leaveLine core (s.team t).ctx q.1 q.2) s := rfl
  rw [hfold, entryLines_write hne hline]
  rfl

/-! ### Bytes for scratch -/

/-- R289: bytes that reach a scratchpad are in it; what wakes there moves no store. -/
theorem State.putScratchCells_stay (s : State) (t : Nat) (cells : List Host.Cell) :
    State.StoresStay (s.modTeam t (fun T => { T with scratch := putCells T.scratch cells, poison := clearCells T.poison cells }))
      (s.putScratchCells t cells) :=
  .foldl (.refl _) (fun _ _ h => h.wakeScratch)

/-- R228: an entry for scratch leaves: its bytes are in scratch. -/
theorem exec_drain_scratch (hq : (s.gang t g).queue = [⟨.scratch t, a, bs⟩] :: rest) (hd : s.drainHeld t g = false) :
    ∃ u, exec (.storeQueueDrain t g) s = .next u ∧ u.mem = s.mem ∧ (u.gang t g).queue = rest ∧
      (u.team t).scratch = writeBytes (s.team t).scratch a bs := by
  refine ⟨_, exec_storeQueueDrain hq hd, ?_⟩
  rw [State.leaveQueue_scratch]
  obtain ⟨hmem, -, hteam⟩ := (s.popped t g rest).putScratchCells_stay t (cellsAt a bs)
  refine ⟨hmem, ((hteam t).queue g).trans ?_, (hteam t).scratch.trans ?_⟩
  · rw [State.modTeam, State.team_setTeam]
    exact s.queue_popped t g rest
  · rw [State.modTeam, State.team_setTeam, State.team_popped, putCells_cellsAt]
    rfl

/-! ### Bytes for memory -/

/-- R226: with no store on its way to a line, the bytes for an exclusive line of the core are in memory. -/
theorem State.leaveLine_owned {core ctx line : Nat} {cells : List Host.Cell} (hlocal : s.isLocal (line * 128) = true)
    (howns : s.ownsLine core line = true) (hout : ∀ p ∈ s.cores, ∀ w ∈ p.2.out, w.line ≠ line) :
    State.StoresStay (s.putBytes cells) (s.leaveLine core ctx line cells) := by
  have hnone : s.outWrites (fun c w => decide (clusterOfCore c = clusterOfCore core) && decide (w.line = line)) = [] := by
    have hflat : s.cores.flatMap (fun c => (c.2.out.filter (fun w =>
        decide (clusterOfCore c.1 = clusterOfCore core) && decide (w.line = line))).map (fun w => (c.1, w))) = [] := by
      refine List.flatMap_eq_nil_iff.mpr (fun p hp => ?_)
      rw [List.map_eq_nil_iff, List.filter_eq_nil_iff]
      exact fun w hw => by simp [hout p hp w hw]
    unfold State.outWrites
    rw [hflat]
    rfl
  unfold State.leaveLine
  rw [hlocal, howns, hnone]
  exact (State.StoresStay.refl _).wakeLine.wakeSpilled

/-- R226: an entry for an exclusive line of the core leaves: its bytes are in memory. -/
theorem exec_drain_owned (hq : (s.gang t g).queue = [⟨.mem, a, bs⟩] :: rest) (hd : s.drainHeld t g = false) (hne : bs ≠ [])
    (hline : ∀ k < bs.length, lineOf (a + k) = lineOf a) (hlocal : s.isLocal (lineOf a * 128) = true)
    (howns : s.ownsLine (s.gang t g).core (lineOf a) = true) (hout : ∀ p ∈ s.cores, ∀ w ∈ p.2.out, w.line ≠ lineOf a) :
    ∃ u, exec (.storeQueueDrain t g) s = .next u ∧ (u.gang t g).queue = rest ∧ u.mem = writeBytes s.mem a bs := by
  refine ⟨_, exec_storeQueueDrain hq hd, ?_⟩
  rw [State.leaveQueue_mem _ _ hne hline]
  obtain ⟨hmem, -, hteam⟩ := State.leaveLine_owned (s := s.popped t g rest) (ctx := ((s.popped t g rest).team t).ctx)
    (cells := cellsAt a bs) hlocal howns hout
  exact ⟨((hteam t).queue g).trans (s.queue_popped t g rest), hmem.trans (putCells_cellsAt s.mem a bs)⟩

/-- R226, R316: bytes for any other line leave as one packet on its way. -/
theorem State.leaveLine_sends {core ctx line : Nat} {cells : List Host.Cell}
    (hfar : (s.isLocal (line * 128) && s.ownsLine core line) = false) :
    (s.leaveLine core ctx line cells).mem = s.mem ∧ (∀ t, (s.team t).StoresStay ((s.leaveLine core ctx line cells).team t)) ∧
    ((s.leaveLine core ctx line cells).core core).out = (s.core core).out ++ [⟨s.nextId, ctx, line, cells⟩] := by
  unfold State.leaveLine
  extract_lets s1 w base
  rw [if_neg (Bool.eq_false_iff.mp hfar)]
  have hinject : s.StoresStay (s.inject core ctx w.flits) := (State.StoresStay.refl s).inject
  have hteams : ({ base with nextId := s.nextId + 1 } : State).teams = (s.inject core ctx w.flits).teams := rfl
  have hcores : ({ base with nextId := s.nextId + 1 } : State).cores =
      ((s.inject core ctx w.flits).modCore core (fun C => { C with out := C.out ++ [w] })).cores := rfl
  have hmem : ({ base with nextId := s.nextId + 1 } : State).mem = (s.inject core ctx w.flits).mem := rfl
  generalize ({ base with nextId := s.nextId + 1 } : State) = v at hteams hcores hmem ⊢
  refine ⟨hmem.trans hinject.mem, fun t => ?_, ?_⟩
  · rw [State.team_congr hteams t]
    exact hinject.team t
  rw [State.core_congr hcores, State.core_modCore]
  exact congrArg (· ++ [w]) (hinject.out core)

/-- R226, R316: an entry for any other line leaves; memory is as before. -/
theorem exec_drain_sends (hq : (s.gang t g).queue = [⟨.mem, a, bs⟩] :: rest) (hd : s.drainHeld t g = false) (hne : bs ≠ [])
    (hline : ∀ k < bs.length, lineOf (a + k) = lineOf a)
    (hfar : (s.isLocal (lineOf a * 128) && s.ownsLine (s.gang t g).core (lineOf a)) = false) :
    ∃ u, exec (.storeQueueDrain t g) s = .next u ∧ (u.gang t g).queue = rest ∧ u.mem = s.mem ∧
      (u.core (s.gang t g).core).out = (s.core (s.gang t g).core).out ++ [⟨s.nextId, (s.team t).ctx, lineOf a, cellsAt a bs⟩] := by
  have hctx : ((s.popped t g rest).team t).ctx = (s.team t).ctx := by rw [State.team_popped, Team.setGang_ctx]
  obtain ⟨hmem, hteam, hout⟩ := State.leaveLine_sends (s := s.popped t g rest) (ctx := (s.team t).ctx) (cells := cellsAt a bs) hfar
  refine ⟨_, exec_storeQueueDrain hq hd, ?_⟩
  rw [State.leaveQueue_mem _ _ hne hline, hctx]
  exact ⟨((hteam t).queue g).trans (s.queue_popped t g rest), hmem, hout⟩

end

/-! ### At the home slice -/

/-- R310: a store that reaches its home slice: its bytes, and no others, are in memory, and it is no longer on its way. -/
theorem State.sendWrite_arrives {s : State} {core : Nat} {w : OutWrite} (hw : w ∈ (s.core core).out)
    (hone : ∀ v ∈ (s.core core).out, v.id = w.id → v = w) (hlocal : s.isLocal (w.line * 128) = true)
    (hempty : (s.slice (homeOf (w.line * 128))).accept = []) :
    (s.sendWrite core w.id).mem = putCells s.mem w.cells ∧
    ((s.sendWrite core w.id).core core).out = (s.core core).out.filter (fun v => decide (v.id ≠ w.id)) := by
  have hfind : (s.core core).out.find? (fun v => decide (v.id = w.id)) = some w := by
    cases hv : (s.core core).out.find? (fun v => decide (v.id = w.id)) with
    | none => exact absurd (decide_eq_true rfl) (List.find?_eq_none.mp hv w hw)
    | some v => rw [hone v (List.mem_of_find?_eq_some hv) (of_decide_eq_true (List.find?_some hv :))]
  unfold State.sendWrite
  rw [hfind]
  dsimp only
  generalize hs1 : (s.land w.id).modCore core (fun C => { C with out := C.out.filter (fun v => decide (v.id ≠ w.id)) }) = s1
  have hmem : s1.mem = s.mem := by rw [← hs1]; rfl
  have hout : (s1.core core).out = (s.core core).out.filter (fun v => decide (v.id ≠ w.id)) := by
    rw [← hs1, State.core_modCore]
    rfl
  have hlocal1 : s1.isLocal (w.line * 128) = true := by rw [← hs1]; exact hlocal
  have hsettled : s1.settleLine w.line = s1 := settleLine_empty _ _ (by rw [← hs1]; exact hempty)
  unfold State.writeHome
  rw [hlocal1, hsettled]
  extract_lets keep s2
  have hstay : s1.StoresStay s2 := (State.StoresStay.refl s1).sliceWriteLine
  clear_value s2
  rw [if_pos rfl, State.core_congr (u := s2.putBytes w.cells) (s := s2) rfl core]
  exact ⟨congrArg (putCells · w.cells) (hstay.mem.trans hmem), (hstay.out core).trans hout⟩

theorem exec_write_arrives {s : State} {core idx : Nat} {w : OutWrite} (hw : (s.core core).out[idx]? = some w)
    (hone : ∀ v ∈ (s.core core).out, v.id = w.id → v = w) (hlanded : s.flying w.id = false) (hfirst : s.behind core w = false)
    (hlocal : s.isLocal (w.line * 128) = true) (hempty : (s.slice (homeOf (w.line * 128))).accept = []) :
    ∃ u, exec (.sliceWriteRequest core idx) s = .next u ∧ u.mem = putCells s.mem w.cells ∧
      (u.core core).out = (s.core core).out.filter (fun v => decide (v.id ≠ w.id)) := by
  obtain ⟨hmem, hout⟩ := State.sendWrite_arrives (List.mem_of_getElem? hw) hone hlocal hempty
  have hstay := (State.StoresStay.refl (s.sendWrite core w.id)).returnMeter (core := core) (c := w.ctx)
  refine ⟨(s.sendWrite core w.id).returnMeter core w.ctx, ?_, hstay.mem.trans hmem, (hstay.out core).trans hout⟩
  show execSliceWriteRequest core idx s = _
  rw [execSliceWriteRequest, hw]
  dsimp only
  rw [hlanded, hfirst]
  rfl

/-! ### A table of cores that lists a core twice -/

/-- Core 0 is listed twice. Its first entry owns line 0x202, to which its gang's queued store goes, and has a store on its way to another line;
its second entry, which no access to core 0 finds, holds one of the same number for line 0x202. -/
def coreTwice : State :=
  { State.reset with
    teams := [(1, { gangs := [(0, { queue := [[⟨.mem, 0x10100, [1]⟩]] })] })]
    cores := [(0, { out := [⟨7, 0, 0x203, [(0x10180, 5)]⟩], l1 := [⟨0x202, true, false⟩] }), (0, { out := [⟨7, 0, 0x202, [(0x10100, 9)]⟩] })] }

/-- The store of line 0x202 that is looked for is not the one that is found, which goes to its own place. -/
theorem coreTwice_drain : readByte (coreTwice.drainOne 1 0).mem 0x10180 = 5 := by decide

theorem coreTwice_out : ∀ c, ∀ w ∈ (coreTwice.core c).out, w.line ≠ 0x202 := by
  intro c w hw
  by_cases h0 : c = 0
  · subst h0
    rw [List.mem_singleton.mp hw]
    decide
  · have hnone : coreTwice.core c = {} := by simp [coreTwice, State.core, tget, tfind, h0]
    rw [hnone] at hw
    exact absurd hw List.not_mem_nil

/-- Refutes O22: in the clause for an exclusive line of the core, whose premise that no store is on its way to the line speaks of the entries
that `State.core` finds, while the model looks through all that the table of cores lists. In `coreTwice`, which lists a core twice, the
store that the drain sends first is another one, and its byte changes memory at 0x10180. Where the premise holds of every listed entry, as it
does where no core is listed twice, the clause holds (`exec_drain_owned`), and so does the rest: entries into the queue
(`exec_store_enqueues`, `exec_store_scratch`, `exec_sts_enqueues`, `exec_sts_noLane`), entries that leave (`exec_drain_scratch`,
`exec_drain_sends`) and stores that arrive (`exec_write_arrives`). -/
theorem not_storesReachTheirPlaces : ¬ Obligations.StoresReachTheirPlaces := by
  unfold Obligations.StoresReachTheirPlaces
  rintro ⟨-, -, hmem, -⟩
  have hfree : coreTwice.drainHeld 1 0 = false := by decide
  obtain ⟨howned, -⟩ := hmem coreTwice 1 0 0x10100 [1] [] rfl (by decide) (by decide) hfree
  obtain ⟨u, hu, -, -, hother⟩ := howned (by decide) (by decide) coreTwice_out
  have hdrain : exec (.storeQueueDrain 1 0) coreTwice = .next (coreTwice.drainOne 1 0) := by
    show execStoreQueueDrain 1 0 coreTwice = _
    rw [execStoreQueueDrain, hfree]
    rfl
  obtain rfl : coreTwice.drainOne 1 0 = u := Host.Outcome.next.inj (hdrain.symm.trans hu)
  exact absurd (coreTwice_drain.symm.trans (hother 0x10180 (by decide))) (by decide)

end Sys2Proof.Machine
end

section
/-! Words on mask registers, and the test of a set (R190 to R192). -/

namespace Sys2Proof.Machine

open Sys2Proof.Safety

/-! ### Lanes that change one after another -/

/-- What is seen of one lane of a gang changes once, where the lane is listed, and no change of another lane shows in it. -/
theorem Gang.eachLane_seen {α : Type} {q : Gang → α} {v : α → α} {f : Gang → Nat → Gang} {l : Nat} {ls : List Nat} (hn : ls.Nodup)
    (hown : ∀ H, q (f H l) = v (q H)) (hother : ∀ H, ∀ j ∈ ls, j ≠ l → q (f H j) = q H) (G : Gang) :
    q (G.eachLane ls f) = if l ∈ ls then v (q G) else q G := by
  induction ls generalizing G with
  | nil => rfl
  | cons j ls ih =>
    obtain ⟨hj, hn⟩ := List.nodup_cons.mp hn
    refine (ih hn (fun H i hi => hother H i (List.mem_cons_of_mem j hi)) (f G j)).trans ?_
    by_cases hl : j = l
    · subst hl
      rw [if_neg hj, if_pos List.mem_cons_self, hown]
    · rw [hother G j List.mem_cons_self hl]
      simp [Ne.symm hl]

/-! ### Words that change a set -/

/-- The row of a word that is `maskWord`. -/
theorem exec_maskRow {i : Instr} {g : Grd} {d c : BitVec 8} {s : State} {f q : Gang → List Nat → W64} (h : maskSpec i = some (d, f))
    (hs : maskSpec i = some (c, q)) (he : exec i s = maskWord i g c s q) (hg : i.grd = g) : exec i s = maskWord i i.grd d s f := by
  cases Option.some.inj (hs.symm.trans h)
  rw [he, hg]

theorem exec_mmov_mask (g : Grd) (d a : BitVec 8) (s : State) :
    exec (.mmov g ⟨false, d⟩ a) s = maskWord (.mmov g ⟨false, d⟩ a) g d s (fun G _ => G.readM a.toNat) := by
  show execMmov g ⟨false, d⟩ a s = _
  rw [execMmov, if_neg Bool.false_ne_true]

/-- A word of `maskSpec` writes its mask register with the value of its row. -/
theorem exec_maskSpec {i : Instr} {d : BitVec 8} {f : Gang → List Nat → W64} (h : maskSpec i = some (d, f)) (s : State) :
    exec i s = maskWord i i.grd d s f := by
  cases i with
  | mmov g o a =>
    obtain ⟨sc, n⟩ := o
    cases sc with
    | false => exact exec_maskRow h rfl (exec_mmov_mask g n a s) (fieldsOf_grd ..)
    | true => cases h
  | join | leave | mset | mand | mor | mfromk => exact exec_maskRow h rfl rfl (fieldsOf_grd ..)
  | _ => cases h

/-- R190, R192: what a word on a mask register does. -/
theorem exec_maskSpec_clear {i : Instr} {s : State} {d : BitVec 8} {f : Gang → List Nat → W64} (h : maskSpec i = some (d, f))
    (hc : s.clear i = true) :
    (s.active i.grd = [] → exec i s = .next (s.finish false)) ∧
    (s.active i.grd ≠ [] → exec i s =
      (let t := (s.setCur (s.curGang.writeM d.toNat (f s.curGang (s.active i.grd)))).finish false
       .next (t.setCur (t.curGang.testMask d.toNat)))) := by
  rw [exec_maskSpec h, maskWord, runWord_clear hc]
  dsimp only
  refine ⟨fun hnone => ?_, fun hsome => ?_⟩
  · rw [hnone]
    rfl
  · rw [if_neg (by simpa using hsome)]

/-! ### Mask registers read into scalar registers -/

section
variable {g : Grd} {d a : BitVec 8} {s : State}

theorem exec_mmov_scalar (hc : s.clear (.mmov g ⟨true, d⟩ a) = true) :
    exec (.mmov g ⟨true, d⟩ a) s = .next ((s.setCur (s.curGang.mapOnce (s.active g)
      (fun G => G.writeS d.toNat (s.curGang.readM a.toNat)))).finish false) := by
  show execMmov g ⟨true, d⟩ a s = _
  rw [execMmov, if_pos rfl, runWord_clear hc]
  unfold Gang.mapOnce
  split <;> rfl

theorem exec_mpop (hc : s.clear (.mpop g d a) = true) :
    exec (.mpop g d a) s = .next ((s.setCur (s.curGang.mapOnce (s.active g)
      (fun G => G.writeS d.toNat (BitVec.ofNat 64 (onesOf (s.curGang.readM a.toNat)))))).finish false) := by
  show execMpop g d a s = _
  rw [execMpop, runWord_clear hc]
  unfold Gang.mapOnce
  split <;> rfl
end

/-! ### The test of a set (R191) -/

section
variable {G : Gang} {k l : Nat} {ls : List Nat}

theorem Gang.mem_waiters_onMask : l ∈ G.waiters (onMask k) ↔ l < G.width ∧ G.laneState l = .waiting (.mask k) := by
  unfold Gang.waiters Gang.allLanes upto
  rw [List.mem_filter, List.mem_range]
  refine and_congr_right (fun _ => ?_)
  split
  · next w hw => cases w <;> simp [hw, onMask]
  · next hno => exact ⟨fun h => absurd h Bool.false_ne_true, fun h => absurd h (hno _)⟩

theorem Gang.waiters_nodup (G : Gang) (test : WaitOn → Bool) : (G.waiters test).Nodup := List.Nodup.filter _ List.nodup_range

/-- A set that every live member waits on releases its waiters. -/
theorem Gang.testMask_satisfied
    (h : ∀ l < G.width, (G.readM k).getLsbD l = true → G.laneState l = .exited ∨ G.laneState l = .waiting (.mask k)) :
    G.testMask k = G.leaveWait (G.waiters (onMask k)) := by
  have hall : G.liveLanes.all (fun l => !(G.readM k).getLsbD l || (G.waiters (onMask k)).elem l) = true := by
    refine List.all_eq_true.mpr (fun l hl => ?_)
    obtain ⟨hlt, hlive⟩ := List.mem_filter.mp hl
    have hw := List.mem_range.mp hlt
    cases hbit : (G.readM k).getLsbD l with
    | false => rfl
    | true =>
      have hwait := (h l hw hbit).resolve_left (of_decide_eq_true hlive)
      simpa using Gang.mem_waiters_onMask.mpr ⟨hw, hwait⟩
  unfold Gang.testMask
  dsimp only
  rw [hall, Bool.and_true]
  split
  · rfl
  · next hempty =>
    have hnil : G.waiters (onMask k) = [] := by simpa using hempty
    rw [hnil, Gang.leaveWait_nil]

/-- A set with a live member that does not wait on it keeps its waiters. -/
theorem Gang.testMask_unsatisfied (hl : l < G.width) (hbit : (G.readM k).getLsbD l = true) (hlive : G.laneState l ≠ .exited)
    (hwait : G.laneState l ≠ .waiting (.mask k)) : G.testMask k = G := by
  have hmember : l ∈ G.liveLanes := List.mem_filter.mpr ⟨List.mem_range.mpr hl, decide_eq_true hlive⟩
  have hout : l ∉ G.waiters (onMask k) := fun hm => hwait (Gang.mem_waiters_onMask.mp hm).2
  refine if_neg (fun hc => ?_)
  have hthis := List.all_eq_true.mp (Bool.and_eq_true_iff.mp hc).2 l hmember
  simp [hbit, hout] at hthis

/-- R172: outside a sequence the lanes that leave Waiting are Ready at the next word with age zero, and the others are as they were. -/
theorem Gang.leaveWait_lane (h : noRep G = true) (hn : ls.Nodup) (l : Nat) :
    (((G.leaveWait ls).laneState l, (G.leaveWait ls).pc l, (G.leaveWait ls).age l) : LaneState × W64 × Nat) =
      if l ∈ ls then (.ready, G.pc l + 8, 0) else (G.laneState l, G.pc l, G.age l) := by
  have hplain : G.leaveWait ls = G.eachLane ls (fun G l => G.release l (G.pc l + 8)) := by
    unfold Gang.leaveWait
    split
    · next hp => exact absurd hp (noRep_ne h _ _ _ _ _ _)
    · rfl
  rw [hplain]
  refine Gang.eachLane_seen (q := fun G => (G.laneState l, G.pc l, G.age l)) (v := fun x => (.ready, x.2.1 + 8, 0)) hn
    (fun H => ?_) (fun H j _ hj => ?_) G
  · simp [Gang.release, Gang.laneState, Gang.pc, Gang.age, Gang.setAge, Gang.setPc, Gang.setLane]
  · simp [Gang.release, Gang.laneState, Gang.pc, Gang.age, Gang.setAge, Gang.setPc, Gang.setLane, tget_tset_ne _ _ hj.symm]

/-- R191: the waiters of a set that every live member waits on. -/
theorem Gang.testMask_releases (hp : noRep G = true)
    (h : ∀ l < G.width, (G.readM k).getLsbD l = true → G.laneState l = .exited ∨ G.laneState l = .waiting (.mask k)) :
    (∀ l < G.width, G.laneState l = .waiting (.mask k) →
      (G.testMask k).laneState l = .ready ∧ (G.testMask k).pc l = G.pc l + 8 ∧ (G.testMask k).age l = 0) ∧
    (∀ l, G.laneState l ≠ .waiting (.mask k) → (G.testMask k).laneState l = G.laneState l ∧ (G.testMask k).pc l = G.pc l) := by
  rw [Gang.testMask_satisfied h]
  have hlane := Gang.leaveWait_lane hp (G.waiters_nodup (onMask k))
  refine ⟨fun l hl hwait => ?_, fun l hwait => ?_⟩
  · simpa [if_pos (Gang.mem_waiters_onMask.mpr ⟨hl, hwait⟩)] using hlane l
  · have hout : l ∉ G.waiters (onMask k) := fun hm => hwait (Gang.mem_waiters_onMask.mp hm).2
    have hsame := hlane l
    rw [if_neg hout] at hsame
    exact ⟨congrArg Prod.fst hsame, congrArg (fun x => x.2.1) hsame⟩
end

/-! ### Waiting on a set -/

/-- A lane begins to wait at a TIME. -/
def Gang.beginWait (w : WaitOn) (now : Nat) (G : Gang) (l : Nat) : Gang :=
  { G.setLane l (.waiting w) with since := tset 0 G.since l now }

section
variable {G : Gang} {ls : List Nat} {w : WaitOn} {now : Nat}

theorem Gang.laneState_beginWaits (hn : ls.Nodup) (l : Nat) :
    (G.eachLane ls (Gang.beginWait w now)).laneState l = if l ∈ ls then .waiting w else G.laneState l :=
  Gang.eachLane_seen (q := fun G => G.laneState l) (v := fun _ => .waiting w) (f := Gang.beginWait w now) hn
    (fun H => H.laneState_setLane_same l (.waiting w)) (fun H _ _ hj => H.laneState_setLane_ne hj.symm (.waiting w)) G

theorem Gang.beginWaits_frame (G : Gang) (ls : List Nat) (w : WaitOn) (now : Nat) :
    ∃ lst since, G.eachLane ls (Gang.beginWait w now) = { G with lst := lst, since := since } :=
  List.foldlRecOn (motive := fun H : Gang => ∃ lst since, H = { G with lst := lst, since := since }) ls _ ⟨_, _, rfl⟩ (fun _ h _ _ => by
    obtain ⟨lst, since, rfl⟩ := h
    exact ⟨_, _, rfl⟩)

/-- R178: outside a sequence, where some lane waits, the word ends with those lanes at it and then they wait. -/
theorem State.park_plain {s : State} (h : noRep s.curGang = true) (hne : ls ≠ []) :
    s.park ls (fun _ => w) = s.setCur ((s.curGang.closeWord s.runLanes true
      (fun l => if ls.elem l then s.cur.pc else s.cur.pc + 8)).eachLane ls (Gang.beginWait w s.time)) := by
  unfold State.park State.parkWith
  rw [if_neg (by simpa using hne)]
  dsimp only
  split
  · next hp => exact absurd hp (noRep_ne h _ _ _ _ _ _)
  · rw [State.finishAt, State.setCur_setCur, State.curGang_setCur]
    rfl
end

/-- R191: `waitm` where a live lane outside Active is a member of the set. -/
theorem exec_waitm_waits {g : Grd} {a : BitVec 8} {s : State} (hc : s.clear (.waitm g a) = true) (hne : s.active g ≠ [])
    (h : noRep s.curGang = true)
    (hmember : ∃ l < s.curGang.width, (s.curGang.readM a.toNat).getLsbD l = true ∧ l ∉ s.active g ∧ s.curGang.laneState l = .ready) :
    GangStep s (exec (.waitm g a) s) (fun H =>
      (∀ l ∈ s.active g, H.laneState l = .waiting (.mask a.toNat) ∧ H.pc l = s.cur.pc) ∧
      (∀ l ∈ s.runLanes, l ∉ s.active g → H.pc l = s.cur.pc + 8) ∧ (∀ l, l ∉ s.active g → H.laneState l = s.curGang.laneState l) ∧
      Moved { s.curGang with lst := H.lst, since := H.since } H) := by
  obtain ⟨hpc, -, -, hmoved⟩ := Gang.closeWord_moves (e := true) h s.runLanes_nodup
    (fun l => if (s.active g).elem l then s.cur.pc else s.cur.pc + 8)
  have hexec : exec (.waitm g a) s =
      .next ((s.park (s.active g) (fun _ => .mask a.toNat)).setCur
        ((s.park (s.active g) (fun _ => .mask a.toNat)).curGang.testMask a.toNat)) := by
    show execWaitm g a s = _
    rw [execWaitm, runWord_clear hc]
  rw [hexec, State.park_plain h hne, State.curGang_setCur, State.setCur_setCur]
  generalize s.curGang.closeWord s.runLanes true (fun l => if (s.active g).elem l then s.cur.pc else s.cur.pc + 8) = C at hpc hmoved
  have hstate (l : Nat) : (C.eachLane (s.active g) (Gang.beginWait (.mask a.toNat) s.time)).laneState l =
      if l ∈ s.active g then .waiting (.mask a.toNat) else s.curGang.laneState l := by
    rw [Gang.laneState_beginWaits (s.active_nodup g), show C.laneState l = s.curGang.laneState l from (congrArg (Gang.laneState · l) hmoved :)]
  obtain ⟨lst, since, hframe⟩ := C.beginWaits_frame (s.active g) (.mask a.toNat) s.time
  rw [hframe] at hstate ⊢
  obtain ⟨m, hm, hbit, hout, hready⟩ := hmember
  have hstill : ({ C with lst := lst, since := since } : Gang).testMask a.toNat = { C with lst := lst, since := since } := by
    have hmready := (hstate m).trans ((if_neg hout).trans hready)
    refine Gang.testMask_unsatisfied (l := m) ?_ ?_ (by rw [hmready]; exact LaneState.noConfusion) (by rw [hmready]; exact LaneState.noConfusion)
    · exact Nat.lt_of_lt_of_eq hm (congrArg Gang.width hmoved :).symm
    · exact (congrArg (fun K : Gang => (K.readM a.toNat).getLsbD m) hmoved :).trans hbit
  rw [hstill]
  refine ⟨_, rfl, fun l hl => ⟨(hstate l).trans (if_pos hl), ?_⟩, fun l hl hout => ?_, fun l hl => (hstate l).trans (if_neg hl), ?_⟩
  · exact (hpc l (State.active_sub hl)).trans (if_pos (by simpa using hl))
  · exact (hpc l hl).trans (if_neg (by simpa using hout))
  · exact (congrArg (fun K : Gang => { K with lst := lst, since := since }) hmoved :)

/-- Settles O17. A word on a mask register is `maskWord` with the row of `maskSpec` (`exec_maskSpec`); a set that every live member waits on
releases its waiters lane by lane (`Gang.testMask_releases`), and a live member that does not wait on it stops the test
(`Gang.testMask_unsatisfied`), also where `waitm` has just made the others wait. -/
theorem maskWordsWriteAndRelease : Obligations.MaskWordsWriteAndRelease := by
  refine ⟨⟨fun i s d f => exec_maskSpec_clear, fun g d a s hc => ⟨_, exec_mmov_scalar hc, Gang.mapOnce_writeS ..⟩, fun g d a s hc =>
    ⟨_, exec_mpop hc, Gang.mapOnce_writeS ..⟩, fun g a s => exec_waitm_waits⟩, fun G k hp => ⟨Gang.testMask_releases hp, ?_⟩⟩
  rintro ⟨l, hl, hbit, hlive, hwait⟩
  exact Gang.testMask_unsatisfied hl hbit hlive hwait

end Sys2Proof.Machine
end

section
/-! Calls and returns whose frames stay on the core (R183, R185 to R188). -/

namespace Sys2Proof.Machine

open Sys2Proof.Safety

/-! ### The frames on the core (R183) -/

/-- Four frames or fewer are all on the core. -/
theorem frameLow_of_le {d : Nat} (h : d ≤ 4) : frameLow d = 1 := by
  unfold frameLow
  omega

theorem spilledFrames_of_le {d e : Nat} (hd : d ≤ 4) (he : e ≤ 4) : spilledFrames d e = [] := by
  simp [spilledFrames, frameLow_of_le hd, frameLow_of_le he, upto]

theorem filledFrames_of_le {d e : Nat} (hd : d ≤ 4) (he : e ≤ 4) : filledFrames d e = [] := by
  simp [filledFrames, frameLow_of_le hd, frameLow_of_le he, upto]

theorem le_foldl_max (d : Nat → Nat) (ls : List Nat) (n : Nat) :
    n ≤ ls.foldl (fun m l => max m (d l)) n ∧ ∀ l ∈ ls, d l ≤ ls.foldl (fun m l => max m (d l)) n := by
  induction ls generalizing n with
  | nil => exact ⟨Nat.le_refl n, fun _ h => absurd h List.not_mem_nil⟩
  | cons x ls ih =>
    obtain ⟨hn, hls⟩ := ih (max n (d x))
    refine ⟨(Nat.le_max_left ..).trans hn, fun l hl => ?_⟩
    rcases List.mem_cons.mp hl with rfl | hl
    · exact (Nat.le_max_right ..).trans hn
    · exact hls l hl

section
variable {G : Gang} {n l : Nat}

theorem newDepth_le {d : Nat → Nat} (gone : List Nat) (h : ∀ l ∈ G.liveLanes, d l ≤ n) : newDepth G gone d ≤ n :=
  List.foldlRecOn (motive := (· ≤ n)) _ _ (Nat.zero_le n) (fun _ hm l hl => Nat.max_le.mpr ⟨hm, h l (List.mem_filter.mp hl).1⟩)

theorem le_newDepth {d : Nat → Nat} (h : l ∈ G.liveLanes) : d l ≤ newDepth G [] d :=
  (le_foldl_max d _ 0).2 l (List.mem_filter.mpr ⟨h, rfl⟩)

theorem Gang.depthMax_le (h : ∀ l ∈ G.liveLanes, G.callDepth l ≤ n) : G.depthMax ≤ n :=
  List.foldlRecOn (motive := (· ≤ n)) _ _ (Nat.zero_le n) (fun _ hm l hl => Nat.max_le.mpr ⟨hm, h l hl⟩)
end

/-- The frames from LOW to a DEPTH, which alone keep their slots. -/
def Gang.keepFrames (G : Gang) (d : Nat) : Gang :=
  { G with frames := G.frames.filter (fun q => decide (frameLow d ≤ q.1 / 64 ∧ q.1 / 64 ≤ d)) }

theorem tfind_filter_key {α : Type} {p : Nat → Bool} {k : Nat} (h : p k = true) (t : Tbl α) :
    tfind (t.filter (fun q => p q.1)) k = tfind t k := by
  induction t with
  | nil => rfl
  | cons q t ih =>
    obtain ⟨i, x⟩ := q
    by_cases hi : k = i
    · subst hi
      simp [h, tfind]
    · by_cases hp : p i = true <;> simp [hp, tfind, hi, ih]

theorem Gang.slotOf_keepFrames (G : Gang) {d j l : Nat} (hl : l < 64) (hlow : frameLow d ≤ j) (hj : j ≤ d) :
    (G.keepFrames d).slotOf j l = G.slotOf j l := by
  have hkey : frameKey j l / 64 = j := by
    unfold frameKey
    omega
  unfold Gang.slotOf tget
  exact congrArg (Option.getD · 0)
    (tfind_filter_key (p := fun k => decide (frameLow d ≤ k / 64 ∧ k / 64 ≤ d)) (by simp [hkey, hlow, hj]) G.frames)

/-! ### A return address pushed and popped (R185, R186) -/

/-- R185: a lane one deeper, with its return address in the slot of that depth. -/
def Gang.pushFrame (ret : W64) (G : Gang) (l : Nat) : Gang := (G.setSlot (G.callDepth l + 1) l ret).setDepth l (G.callDepth l + 1)
/-- R186: a lane one less deep. -/
def Gang.popFrame (G : Gang) (l : Nat) : Gang := G.setDepth l (G.callDepth l - 1)

theorem Gang.pushFrame_frame (ret : W64) (G : Gang) (l : Nat) : ∃ D F, G.pushFrame ret l = { G with depth := D, frames := F } := ⟨_, _, rfl⟩
theorem Gang.popFrame_frame (G : Gang) (l : Nat) : ∃ D F, G.popFrame l = { G with depth := D, frames := F } := ⟨_, _, rfl⟩

theorem Gang.callDepth_setDepth_same (G : Gang) (l n : Nat) : (G.setDepth l n).callDepth l = n := tget_tset_same ..
theorem Gang.callDepth_setDepth_ne (G : Gang) {l j : Nat} (h : j ≠ l) (n : Nat) : (G.setDepth l n).callDepth j = G.callDepth j :=
  tget_tset_ne _ _ h _

theorem Gang.slotOf_setSlot (G : Gang) {l k : Nat} (hl : l < 64) (hk : k < 64) (i j : Nat) (x : W64) :
    (G.setSlot i l x).slotOf j k = if j = i ∧ k = l then x else G.slotOf j k := by
  have hkey : frameKey j k = frameKey i l ↔ j = i ∧ k = l := by
    unfold frameKey
    omega
  unfold Gang.slotOf Gang.setSlot
  rw [tget_tset]
  simp only [hkey]

section
variable {ls : List Nat} {l : Nat} (G : Gang) (hn : ls.Nodup)
include hn

theorem Gang.callDepth_popFrames : (G.eachLane ls Gang.popFrame).callDepth l = if l ∈ ls then G.callDepth l - 1 else G.callDepth l :=
  Gang.eachLane_seen (q := fun G => G.callDepth l) (v := (· - 1)) (f := Gang.popFrame) hn (fun H => H.callDepth_setDepth_same l _)
    (fun H _ _ hj => H.callDepth_setDepth_ne hj.symm _) G

theorem Gang.callDepth_pushFrames (ret : W64) :
    (G.eachLane ls (Gang.pushFrame ret)).callDepth l = if l ∈ ls then G.callDepth l + 1 else G.callDepth l :=
  Gang.eachLane_seen (q := fun G => G.callDepth l) (v := (· + 1)) (f := Gang.pushFrame ret) hn
    (fun _ => Gang.callDepth_setDepth_same ..) (fun _ _ _ hj => Gang.callDepth_setDepth_ne _ hj.symm _) G

/-- A lane's depth says where its return address goes, so the two are seen together. -/
theorem Gang.slotOf_pushFrames (ret : W64) (hls : ∀ j ∈ ls, j < 64) (hl : l < 64) (j : Nat) :
    (G.eachLane ls (Gang.pushFrame ret)).slotOf j l = if l ∈ ls ∧ j = G.callDepth l + 1 then ret else G.slotOf j l := by
  have hseen := Gang.eachLane_seen (q := fun G => (G.callDepth l, G.slotOf j l)) (f := Gang.pushFrame ret)
    (v := fun x => (x.1 + 1, if j = x.1 + 1 then ret else x.2)) hn (fun H => Prod.ext (Gang.callDepth_setDepth_same ..) ?_)
    (fun H i hi hne => Prod.ext (Gang.callDepth_setDepth_ne _ hne.symm _) ?_) G
  · refine (congrArg Prod.snd hseen).trans ?_
    by_cases hin : l ∈ ls <;> simp [hin]
  · show (H.setSlot (H.callDepth l + 1) l ret).slotOf j l = _
    simp [Gang.slotOf_setSlot _ hl hl]
  · show (H.setSlot (H.callDepth i + 1) i ret).slotOf j l = _
    simp [Gang.slotOf_setSlot _ (hls i hi) hl, hne.symm]
end

/-- A change of the call stack in some lanes changes nothing but depths and slots. -/
theorem Gang.eachLane_stack {f : Gang → Nat → Gang} (hf : ∀ H l, ∃ D F, f H l = { H with depth := D, frames := F }) (G : Gang) (ls : List Nat) :
    ∃ D F, G.eachLane ls f = { G with depth := D, frames := F } :=
  List.foldlRecOn (motive := fun H : Gang => ∃ D F, H = { G with depth := D, frames := F }) ls _ ⟨_, _, rfl⟩ (fun H h l _ => by
    obtain ⟨D, F, rfl⟩ := h
    exact hf _ l)

/-! ### The end of a call or return -/

/-- A word that sends lanes to their targets after a change of its gang. -/
theorem State.branch_setCur {s : State} {H : Gang} (hw : H.width = s.curGang.width) (e : Bool) (act : List Nat) (target : Nat → W64) :
    (s.setCur H).branch e act target = s.setCur (H.closeWord s.runLanes e (fun l => if act.elem l then target l else s.cur.pc + 8)) := by
  have hrun : (s.setCur H).runLanes = s.runLanes := by
    rw [State.runLanes_setCur, hw]
    rfl
  rw [State.branch, State.finishAt, State.setCur_setCur, State.curGang_setCur, hrun]
  rfl

/-- R187: no frame enters or leaves the core. -/
theorem moveFrames_onCore (i : Instr) (act : List Nat) (d : Nat) (exited : Bool) (s : State) (upd : State → State) :
    moveFrames i act d exited s [] [] upd =
      (let u := upd (s.setCur s.curGang)
       let v := u.setCur (u.curGang.keepFrames d)
       .next (if exited then v.afterExit s.cur.team s.cur.gang else v)) := rfl

/-- The issuing gang after a call or return on the core: each lane of Active changes its call stack and goes to its target. -/
def State.stackChanged (s : State) (g : Grd) (f : Gang → Nat → Gang) (target : Nat → W64) (d : Nat) : Gang :=
  ((s.curGang.eachLane (s.active g) f).closeWord s.runLanes true
    (fun l => if (s.active g).elem l then target l else s.cur.pc + 8)).keepFrames d

section
variable {s : State} {g : Grd} {f : Gang → Nat → Gang} (hf : ∀ H l, ∃ D F, f H l = { H with depth := D, frames := F }) (target : Nat → W64) (d : Nat)
include hf

theorem moveFrames_stackChanged (i : Instr) :
    moveFrames i (s.active g) d false s [] [] (fun u => (u.setCur (u.curGang.eachLane (s.active g) f)).branch true (s.active g) target) =
      .next (s.setCur (s.stackChanged g f target d)) := by
  have hwidth : (s.curGang.eachLane (s.active g) f).width = s.curGang.width := by
    obtain ⟨D, F, h⟩ := Gang.eachLane_stack hf s.curGang (s.active g)
    rw [h]
  rw [moveFrames_onCore]
  dsimp only
  rw [State.curGang_setCur, State.setCur_setCur, State.branch_setCur hwidth, State.curGang_setCur, State.setCur_setCur]
  rfl

/-- The lanes of Active are at their targets, the others of the run at the next word; depths, and slots up to DEPTH, are those that the change
left, and all else is as a word leaves it. -/
theorem State.stackChanged_spec (h : noRep s.curGang = true) :
    let H := s.stackChanged g f target d
    (∀ l ∈ s.active g, H.pc l = target l) ∧ (∀ l ∈ s.runLanes, l ∉ s.active g → H.pc l = s.cur.pc + 8) ∧
    (∀ l, H.callDepth l = (s.curGang.eachLane (s.active g) f).callDepth l) ∧
    (∀ l < 64, ∀ j, frameLow d ≤ j → j ≤ d → H.slotOf j l = (s.curGang.eachLane (s.active g) f).slotOf j l) ∧
    Moved { s.curGang with depth := H.depth, frames := H.frames } H := by
  obtain ⟨D, F, hP⟩ := Gang.eachLane_stack hf s.curGang (s.active g)
  unfold State.stackChanged
  rw [hP]
  intro H
  obtain ⟨hpc, -, -, hmoved⟩ := Gang.closeWord_moves (G := { s.curGang with depth := D, frames := F }) (e := true) h s.runLanes_nodup
    (fun l => if (s.active g).elem l then target l else s.cur.pc + 8)
  refine ⟨fun l hl => ?_, fun l hl hout => ?_, fun l => (congrArg (fun K : Gang => K.callDepth l) hmoved :), fun l hl j hlow hj => ?_, ?_⟩
  · exact (hpc l (State.active_sub hl)).trans (if_pos (by simpa using hl))
  · exact (hpc l hl).trans (if_neg (by simpa using hout))
  · exact (Gang.slotOf_keepFrames _ hl hlow hj).trans (congrArg (fun K : Gang => K.slotOf j l) hmoved :)
  · exact (congrArg (fun K : Gang => { K with depth := H.depth, frames := H.frames }) hmoved :)
end

theorem State.live_of_ready {s : State} {g : Grd} {l : Nat} (hready : ∀ l ∈ s.runLanes, s.curGang.laneState l = .ready) (hl : l ∈ s.active g) :
    l ∈ s.curGang.liveLanes := by
  have hrun := State.active_sub hl
  refine List.mem_filter.mpr ⟨List.mem_range.mpr (mem_lanesOf.mp hrun).1, decide_eq_true ?_⟩
  rw [hready l hrun]
  exact LaneState.noConfusion

/-! ### Calls (R185, R188) -/

theorem exec_call (g : Grd) (off : BitVec 32) (s : State) :
    exec (.call g off) s = callWord (.call g off) g (fun _ _ => relTarget s.cur.pc off) s := rfl
theorem exec_callv (g : Grd) (a : Opd) (s : State) :
    exec (.callv g a) s = callWord (.callv g a) g (fun G l => G.rawOpd a true l) s := rfl

/-- DEPTH after the lanes of Active have called. -/
def State.calledDepth (s : State) (g : Grd) : Nat :=
  newDepth s.curGang [] (fun l => if (s.active g).elem l then s.curGang.callDepth l + 1 else s.curGang.callDepth l)
/-- DEPTH after the lanes of Active have returned. -/
def State.returnedDepth (s : State) (g : Grd) : Nat :=
  newDepth s.curGang [] (fun l => if (s.active g).elem l then s.curGang.callDepth l - 1 else s.curGang.callDepth l)

section
variable {i : Instr} {g : Grd} {s : State} {target : Gang → Nat → W64}

/-- R188: a call past 1,024 frames, for a word that is `callWord`. -/
theorem call_tooDeep (he : exec i s = callWord i g target s) (hc : s.clear i = true) (h : ∃ l ∈ s.active g, 1024 ≤ s.curGang.callDepth l) :
    exec i s = .next (s.trapRun (trapAll (s.active g) 13 0 i)) := by
  rw [he, callWord, runWord_clear hc]
  obtain ⟨l, hl, hdeep⟩ := h
  exact if_pos (List.any_eq_true.mpr ⟨l, hl, decide_eq_true (Nat.lt_succ_of_le hdeep)⟩)

variable (hlive : ∀ l ∈ s.curGang.liveLanes, s.curGang.callDepth l ≤ 4)
include hlive

theorem State.calledDepth_le (hact : ∀ l ∈ s.active g, s.curGang.callDepth l < 4) : s.calledDepth g ≤ 4 := by
  refine newDepth_le [] (fun l hl => ?_)
  split
  · next h => exact hact l (by simpa using h)
  · exact hlive l hl

/-- R185: a call whose frames all stay on the core. -/
theorem callWord_onCore (hc : s.clear i = true) (hact : ∀ l ∈ s.active g, s.curGang.callDepth l < 4) :
    callWord i g target s = .next (s.setCur (s.stackChanged g (Gang.pushFrame (s.cur.pc + 8)) (target s.curGang) (s.calledDepth g))) := by
  have hshallow : (s.active g).any (fun l => decide (1024 < s.curGang.callDepth l + 1)) = false :=
    List.any_eq_false.mpr (fun l hl => by
      have := hact l hl
      simp only [decide_eq_true_eq]
      omega)
  have hdepth := Gang.depthMax_le hlive
  have hdirect : (s.active g).filter (fun l => decide (s.curGang.callDepth l + 1 < frameLow s.curGang.depthMax)) = [] := by
    simp [frameLow_of_le hdepth]
  have hspills : spilledFrames s.curGang.depthMax (s.calledDepth g) = [] := spilledFrames_of_le hdepth (State.calledDepth_le hlive hact)
  rw [callWord, runWord_clear hc]
  dsimp only
  rw [if_neg (by rw [hshallow]; exact Bool.false_ne_true), hdirect, show newDepth s.curGang [] _ = s.calledDepth g from rfl, hspills]
  exact moveFrames_stackChanged (Gang.pushFrame_frame (s.cur.pc + 8)) (target s.curGang) (s.calledDepth g) i
end

/-- What a call on the core does, for a word that is `callWord`. -/
theorem call_onCore {i : Instr} {g : Grd} {s : State} {target : Gang → Nat → W64} (he : exec i s = callWord i g target s)
    (hc : s.clear i = true) (hp : noRep s.curGang = true) (hready : ∀ l ∈ s.runLanes, s.curGang.laneState l = .ready)
    (hlive : ∀ l ∈ s.curGang.liveLanes, s.curGang.callDepth l ≤ 4) (hact : ∀ l ∈ s.active g, s.curGang.callDepth l < 4) :
    GangStep s (exec i s) (fun H =>
      (∀ l ∈ s.active g, H.pc l = target s.curGang l ∧ H.callDepth l = s.curGang.callDepth l + 1 ∧
        H.slotOf (s.curGang.callDepth l + 1) l = s.cur.pc + 8) ∧
      (∀ l ∈ s.runLanes, l ∉ s.active g → H.pc l = s.cur.pc + 8) ∧
      (∀ l, l ∉ s.active g → H.callDepth l = s.curGang.callDepth l) ∧
      (∀ l ∈ s.curGang.liveLanes, l < 64 → ∀ j, 1 ≤ j → j ≤ s.curGang.callDepth l → H.slotOf j l = s.curGang.slotOf j l) ∧
      Moved { s.curGang with depth := H.depth, frames := H.frames } H) := by
  have hn := s.active_nodup g
  have hlow : frameLow (s.calledDepth g) = 1 := frameLow_of_le (State.calledDepth_le hlive hact)
  have hpushed {l : Nat} (hl : l < 64) (j : Nat) := s.curGang.slotOf_pushFrames hn (s.cur.pc + 8) (fun _ => State.active_lt) hl j
  have hdepth (l : Nat) := s.curGang.callDepth_pushFrames hn (s.cur.pc + 8) (l := l)
  have hreach {l : Nat} (hl : l ∈ s.curGang.liveLanes) := le_newDepth (G := s.curGang)
    (d := fun l => if (s.active g).elem l then s.curGang.callDepth l + 1 else s.curGang.callDepth l) hl
  obtain ⟨hpc, hnext, hcall, hslot, hmoved⟩ :=
    State.stackChanged_spec (Gang.pushFrame_frame (s.cur.pc + 8)) (target s.curGang) (s.calledDepth g) (g := g) hp
  refine ⟨_, he.trans (callWord_onCore hlive hc hact), fun l hl => ⟨hpc l hl, (hcall l).trans ((hdepth l).trans (if_pos hl)), ?_⟩, hnext,
    fun l hl => (hcall l).trans ((hdepth l).trans (if_neg hl)), fun l hl hlt j hj hle => ?_, hmoved⟩
  · have hin := hreach (State.live_of_ready hready hl)
    rw [if_pos (by simpa using hl)] at hin
    have hlt := State.active_lt hl
    rw [hslot l hlt _ (by omega) hin, hpushed hlt, if_pos ⟨hl, rfl⟩]
  · have hin : j ≤ s.calledDepth g := by
      refine (hle.trans ?_).trans (hreach hl)
      split
      · exact Nat.le_succ _
      · exact Nat.le_refl _
    rw [hslot l hlt j (by omega) hin, hpushed hlt, if_neg (by omega)]

/-! ### Returns (R186, R188) -/

section
variable {g : Grd} {s : State}

/-- R188: a return with no frame. -/
theorem exec_ret_noFrame (hc : s.clear (.ret g) = true) (h : ∃ l ∈ s.active g, s.curGang.callDepth l = 0) :
    exec (.ret g) s = .next (s.trapRun (trapAll (s.active g) 13 0 (.ret g))) := by
  show execRet g s = _
  rw [execRet, runWord_clear hc]
  obtain ⟨l, hl, hnone⟩ := h
  exact if_pos (List.any_eq_true.mpr ⟨l, hl, decide_eq_true hnone⟩)

variable (hlive : ∀ l ∈ s.curGang.liveLanes, s.curGang.callDepth l ≤ 4) (hact : ∀ l ∈ s.active g, 0 < s.curGang.callDepth l)
include hlive hact

/-- R186: a return whose frames are all on the core. -/
theorem exec_ret_onCore (hc : s.clear (.ret g) = true) :
    exec (.ret g) s = .next (s.setCur (s.stackChanged g Gang.popFrame (fun l => s.curGang.slotOf (s.curGang.callDepth l) l)
      (s.returnedDepth g))) := by
  have hframes : (s.active g).any (fun l => decide (s.curGang.callDepth l = 0)) = false :=
    List.any_eq_false.mpr (fun l hl h => (hact l hl).ne' (of_decide_eq_true h))
  have hdepth := Gang.depthMax_le hlive
  have hdirect : (s.active g).filter (fun l => decide (s.curGang.callDepth l < frameLow s.curGang.depthMax)) = [] := by
    rw [frameLow_of_le hdepth]
    exact List.filter_eq_nil_iff.mpr (fun l hl h => Nat.not_lt.mpr (hact l hl) (of_decide_eq_true h))
  have hreturned : s.returnedDepth g ≤ 4 := newDepth_le [] (fun l hl => by
    have := hlive l hl
    split <;> omega)
  have hfills : filledFrames s.curGang.depthMax (s.returnedDepth g) = [] := filledFrames_of_le hdepth hreturned
  show execRet g s = _
  rw [execRet, runWord_clear hc]
  dsimp only
  rw [if_neg (by rw [hframes]; exact Bool.false_ne_true), hdirect, show newDepth s.curGang [] _ = s.returnedDepth g from rfl, hfills]
  exact moveFrames_stackChanged Gang.popFrame_frame (fun l => s.curGang.slotOf (s.curGang.callDepth l) l) (s.returnedDepth g) (.ret g)

theorem ret_onCore (hc : s.clear (.ret g) = true) (hp : noRep s.curGang = true) :
    GangStep s (exec (.ret g) s) (fun H =>
      (∀ l ∈ s.active g, H.pc l = s.curGang.slotOf (s.curGang.callDepth l) l ∧ H.callDepth l = s.curGang.callDepth l - 1) ∧
      (∀ l ∈ s.runLanes, l ∉ s.active g → H.pc l = s.cur.pc + 8) ∧
      (∀ l, l ∉ s.active g → H.callDepth l = s.curGang.callDepth l) ∧
      Moved { s.curGang with depth := H.depth, frames := H.frames } H) := by
  have hdepth (l : Nat) := s.curGang.callDepth_popFrames (s.active_nodup g) (l := l)
  obtain ⟨hpc, hnext, hcall, -, hmoved⟩ := State.stackChanged_spec Gang.popFrame_frame
    (fun l => s.curGang.slotOf (s.curGang.callDepth l) l) (s.returnedDepth g) (g := g) hp
  exact ⟨_, exec_ret_onCore hlive hact hc, fun l hl => ⟨hpc l hl, (hcall l).trans ((hdepth l).trans (if_pos hl))⟩, hnext,
    fun l hl => (hcall l).trans ((hdepth l).trans (if_neg hl)), hmoved⟩
end

end Sys2Proof.Machine
end

section
/-! Exits (R189): a lane that has exited rests, whatever its exit completes. -/

namespace Sys2Proof.Machine

open Sys2Proof.Safety

/-! ### A lane that has exited -/

/-- A lane that has exited in one gang has exited in another, with the same registers and predicates. -/
def Gang.Rests (j : Nat) (G H : Gang) : Prop :=
  G.laneState j = .exited → H.laneState j = .exited ∧ H.readV j = G.readV j ∧ H.readK j = G.readK j

section
variable {j : Nat} {G H K : Gang} {ls : List Nat}

theorem Gang.Rests.refl (j : Nat) (G : Gang) : Gang.Rests j G G := fun h => ⟨h, rfl, rfl⟩

theorem Gang.Rests.trans (h : Gang.Rests j G H) (k : Gang.Rests j H K) : Gang.Rests j G K := fun e => by
  obtain ⟨hstate, hv, hk⟩ := h e
  obtain ⟨kstate, kv, kk⟩ := k hstate
  exact ⟨kstate, kv.trans hv, kk.trans hk⟩

/-- What changes neither the states of lanes nor their registers. -/
theorem Gang.Rests.same (hl : H.lst = G.lst) (hv : H.pool = G.pool) (hk : H.preds = G.preds) : Gang.Rests j G H := fun h => by
  refine ⟨?_, funext fun r => ?_, funext fun k => ?_⟩
  · rwa [Gang.laneState, hl]
  · rw [Gang.readV, hv]
    rfl
  · rw [Gang.readK, Gang.predWord, hk]
    rfl

theorem Gang.Rests.eachLane {f : Gang → Nat → Gang} (hf : ∀ H, ∀ l ∈ ls, Gang.Rests j H (f H l)) (G : Gang) : Gang.Rests j G (G.eachLane ls f) :=
  List.foldlRecOn (motive := Gang.Rests j G) ls f (.refl j G) (fun _ h l hl => h.trans (hf _ l hl))

theorem Gang.Rests.release {l : Nat} (hl : j ≠ l) (pc : W64) : Gang.Rests j G (G.release l pc) :=
  fun h => ⟨(G.laneState_setLane_ne hl .ready).trans h, rfl, rfl⟩

/-- Also inside a sequence the end of a word moves a run, counts windows and counts PIDX, and does nothing else. -/
theorem Gang.closeWord_moved (G : Gang) (run : List Nat) (e : Bool) (f : Nat → W64) :
    ∃ p, Moved { G with pidx := p } (G.closeWord run e f) := by
  unfold Gang.closeWord
  split
  · split
    · extract_lets G1
      refine ⟨G.pidx + 1, ?_⟩
      split
      · exact (congrArg (fun H : Gang => { H with failed := G.failed }) (G1.countWindows_moved run true) :)
      · rfl
    · exact ⟨0, Gang.moved_setPcs { G with pidx := 0 } run e (fun G l => G.pc l + 16) none []⟩
  · exact ⟨G.pidx, Gang.moved_setPcs G run e (fun _ l => f l) none []⟩

theorem Gang.Rests.closeWord (G : Gang) (run : List Nat) (e : Bool) (f : Nat → W64) : Gang.Rests j G (G.closeWord run e f) := by
  obtain ⟨p, hmoved⟩ := G.closeWord_moved run e f
  exact .same (congrArg Gang.lst hmoved :) (congrArg Gang.pool hmoved :) (congrArg Gang.preds hmoved :)

/-- Lanes that leave Waiting leave the others alone. -/
theorem Gang.Rests.leaveWait (hj : j ∉ ls) (G : Gang) : Gang.Rests j G (G.leaveWait ls) := by
  have hne {l : Nat} (hl : l ∈ ls) : j ≠ l := fun e => hj (e ▸ hl)
  unfold Gang.leaveWait
  split
  · next run _ =>
    extract_lets G1 rl
    have h1 : Gang.Rests j G G1 := .eachLane (fun H l hl => by
      split
      · exact Gang.Rests.release (hne hl) (H.pc l)
      · exact .release (hne hl) _) G
    split
    · exact h1.trans (.closeWord G1 rl false _)
    · exact h1
  · exact .eachLane (fun _ _ hl => .release (hne hl) _) G

theorem Gang.not_mem_waiters (h : G.laneState j = .exited) (test : WaitOn → Bool) : j ∉ G.waiters test := fun hm => by
  have htest := (List.mem_filter.mp hm).2
  rw [h] at htest
  exact Bool.false_ne_true htest

theorem Gang.Rests.wake (G : Gang) (v : Bool) (test : WaitOn → Bool) : Gang.Rests j G (G.wake v test) := fun h => by
  have hout := Gang.not_mem_waiters h test
  refine (Gang.Rests.trans (.eachLane (fun H l hl => ?_) G) (.leaveWait hout _)) h
  have hne : j ≠ l := fun e => hout (e ▸ hl)
  split
  · split
    · exact fun hj => ⟨hj, rfl, funext fun k => Gang.readK_writeK_ne H (fun e => hne e.1) v⟩
    · exact .refl j H
  · exact .refl j H

theorem Gang.Rests.keepFrames (G : Gang) (d : Nat) : Gang.Rests j G (G.keepFrames d) := .same rfl rfl rfl

theorem Gang.Rests.testMask (G : Gang) (k : Nat) : Gang.Rests j G (G.testMask k) := fun h => by
  unfold Gang.testMask
  extract_lets ws
  split
  · exact Gang.Rests.leaveWait (Gang.not_mem_waiters h _) G h
  · exact Gang.Rests.refl j G h

theorem Gang.Rests.testMasks (G : Gang) : Gang.Rests j G G.testMasks :=
  .eachLane (f := Gang.testMask) (fun H k _ => .testMask H k) G

/-- R269: a lane that returns from a handler is another. -/
theorem Gang.Rests.endHandler (hj : j ∉ ls) (G : Gang) (release : List Nat) : Gang.Rests j G (G.endHandler ls release) := by
  have hne {l : Nat} (hl : l ∈ ls) : j ≠ l := fun e => hj (e ▸ hl)
  unfold Gang.endHandler
  extract_lets frozen thaw G1
  have hthaw (H : Gang) (l : Nat) : Gang.Rests j H (thaw H l) := fun h => by
    by_cases e : j = l
    · subst e
      simp only [thaw, h]
      exact ⟨h, rfl, rfl⟩
    · simp only [thaw]
      split
      · exact ⟨(H.laneState_setLane_ne e .ready).trans h, rfl, rfl⟩
      · exact ⟨h, rfl, rfl⟩
  have h1 : Gang.Rests j G G1 := (Gang.Rests.eachLane (fun H l _ => hthaw H l) G).trans
    (.eachLane (fun _ _ hl => .release (hne hl) _) _)
  exact h1.trans (.same rfl rfl rfl)

/-- R269: the end of a handler brings no lane back that has exited. -/
theorem Gang.Rests.tryEnd (G : Gang) : Gang.Rests j G G.tryEnd := fun h => by
  have hout : j ∉ G.liveLanes.filter (fun l => G.hset.getLsbD l) := fun hm =>
    of_decide_eq_true (List.mem_filter.mp (List.mem_filter.mp hm).1).2 h
  unfold Gang.tryEnd
  split
  · exact Gang.Rests.refl j G h
  · extract_lets live atRfe
    split
    · exact Gang.Rests.endHandler hout G _ h
    · exact Gang.Rests.refl j G h
end

/-! ### What an exit completes (R189, R233, R298, R302) -/

/-- The same run issues, and a lane of one gang that has exited rests. -/
structure State.Rests (t g j : Nat) (o s : State) : Prop where
  cur : s.cur = o.cur
  gang : Gang.Rests j (o.gang t g) (s.gang t g)

section
variable {t g j n c : Nat} {o s u : State}

theorem State.Rests.refl (s : State) : s.Rests t g j s := ⟨rfl, .refl j _⟩

theorem State.Rests.same (hs : o.Rests t g j s) (hc : u.cur = s.cur) (ht : u.teams = s.teams) : o.Rests t g j u := by
  refine ⟨hc.trans hs.cur, ?_⟩
  have hg : u.gang t g = s.gang t g := congrArg (Team.gang · g) (State.team_congr ht t)
  exact hg ▸ hs.gang

theorem State.Rests.curGang (h : o.Rests o.cur.team o.cur.gang j s) : Gang.Rests j o.curGang s.curGang := by
  rw [State.curGang, State.curGang, h.cur]
  exact h.gang

theorem State.Rests.ite {p : Prop} [Decidable p] (hs : o.Rests t g j s) (hu : o.Rests t g j u) : o.Rests t g j (if p then s else u) := by
  split
  · exact hs
  · exact hu

theorem State.Rests.foldl {α : Type} {f : State → α → State} {l : List α} (hs : o.Rests t g j s)
    (hf : ∀ s x, o.Rests t g j s → o.Rests t g j (f s x)) : o.Rests t g j (l.foldl f s) :=
  List.foldlRecOn (motive := State.Rests t g j o) l f hs (fun s h x _ => hf s x h)

theorem State.Rests.modTeam {f : Team → Team} (hs : o.Rests t g j s) (hf : ∀ T : Team, Gang.Rests j (T.gang g) ((f T).gang g)) :
    o.Rests t g j (s.modTeam n f) := by
  refine ⟨hs.cur, hs.gang.trans ?_⟩
  unfold State.gang State.modTeam
  by_cases h : t = n
  · subst h
    rw [State.team_setTeam]
    exact hf _
  · rw [State.team_setTeam_ne s h]
    exact .refl j _

theorem State.Rests.mapTeams {f : Nat → Team → Team} (hs : o.Rests t g j s) (hf : ∀ k (T : Team), Gang.Rests j (T.gang g) ((f k T).gang g)) :
    o.Rests t g j (s.mapTeams f) := by
  refine ⟨hs.cur, hs.gang.trans ?_⟩
  unfold State.gang State.team State.mapTeams tget
  rw [tfind_map]
  cases tfind s.teams t with
  | none => exact .refl j _
  | some T => exact hf t T

/-- A team whose lanes are woken. -/
theorem Team.rests_wake (T : Team) (v : Bool) (test : WaitOn → Bool) :
    Gang.Rests j (T.gang g) ((T.mapGangs (fun _ G => G.wake v test)).gang g) := by
  rcases T.gang_mapGangs (fun _ G => G.wake v test) g with h | h
  · rw [h]
    exact .wake _ v test
  · rw [h]
    exact .refl j _

theorem State.Rests.barsAfterExit {m : Nat} (hs : o.Rests t g j s) : o.Rests t g j (s.barsAfterExit n m) := by
  unfold State.barsAfterExit
  refine .foldl hs (fun s x h => ?_)
  have hask {v : State} (hv : o.Rests t g j v) : o.Rests t g j (v.askFlip n x) := .ite hv (hv.same rfl rfl)
  exact hask (.ite h (h.modTeam (fun T => .refl j (T.gang g))))

theorem State.Rests.tryExchange {T : Team} (hs : o.Rests t g j s) : o.Rests t g j (s.tryExchange T) := by
  unfold State.tryExchange
  extract_lets X ts here s1
  refine .ite (.mapTeams (hs.same rfl rfl) (fun k U => ?_)) hs
  split
  · exact Team.rests_wake _ true onXbar
  · exact .refl j _

theorem State.Rests.tryArriveX (hs : o.Rests t g j s) : o.Rests t g j (s.tryArriveX n) := by
  unfold State.tryArriveX
  exact .tryExchange (.ite (hs.same rfl rfl) hs)

theorem State.Rests.tryCbar {T : Team} {gone : Option Nat} (hs : o.Rests t g j s) : o.Rests t g j (s.tryCbar c T gone) := by
  unfold State.tryCbar
  extract_lets E ms
  exact .ite (.foldl (hs.same rfl rfl) (fun _ _ h => h.modTeam (fun U => U.rests_wake true onCbar))) hs

theorem State.Rests.afterExit {m : Nat} (hs : o.Rests t g j s) : o.Rests t g j (s.afterExit n m) := by
  unfold State.afterExit
  extract_lets s1 T s2
  have h1 : o.Rests t g j s1 := hs.barsAfterExit
  have h2 : o.Rests t g j s2 := .ite h1 h1.tryArriveX
  exact .ite h2.tryCbar h2
end

/-! ### Exits (R189) -/

/-- The issuing gang once the lanes of Active have exited. -/
def State.exitedGang (s : State) (g : Grd) : Gang :=
  (((s.curGang.closeWord s.runLanes true (fun l => if (s.active g).elem l then s.cur.pc else s.cur.pc + 8)).setLanes
    (s.active g) .exited).testMasks.tryEnd).keepFrames (newDepth s.curGang (s.active g) s.curGang.callDepth)

section
variable {g : Grd} {s : State}

theorem exec_exit_onCore (hc : s.clear (.exit g) = true) (hlive : ∀ l ∈ s.curGang.liveLanes, s.curGang.callDepth l ≤ 4)
    (hne : s.active g ≠ []) (hfree : exitBusy s = false) :
    exec (.exit g) s = .next ((s.setCur (s.exitedGang g)).afterExit s.cur.team s.cur.gang) := by
  have hfills : filledFrames s.curGang.depthMax (newDepth s.curGang (s.active g) s.curGang.callDepth) = [] :=
    filledFrames_of_le (Gang.depthMax_le hlive) (newDepth_le _ hlive)
  show execExit g s = _
  rw [execExit, runWord_clear hc]
  dsimp only
  rw [if_neg (by simpa using hne), hfree, if_neg Bool.false_ne_true, hfills]
  show moveFrames (.exit g) (s.active g) (newDepth s.curGang (s.active g) s.curGang.callDepth) true s [] [] (fun u =>
    (u.branch true (s.active g) (fun _ => u.cur.pc)).setCur
      (((u.branch true (s.active g) (fun _ => u.cur.pc)).curGang.setLanes (s.active g) .exited).testMasks.tryEnd)) = _
  rw [moveFrames_onCore]
  dsimp only
  rw [State.branch_setCur (H := s.curGang) rfl, State.curGang_setCur, State.setCur_setCur, State.setCur_setCur, State.curGang_setCur]
  rfl

theorem Gang.setLanes_frame (G : Gang) (ls : List Nat) (x : LaneState) : { G.setLanes ls x with lst := G.lst } = G :=
  List.foldlRecOn (motive := fun H : Gang => { H with lst := G.lst } = G) ls _ rfl (fun _ h _ _ => h)

/-- R189: a lane that exits keeps its registers and predicates. -/
theorem State.exitedGang_lane {l : Nat} (hl : l ∈ s.active g) :
    (s.exitedGang g).laneState l = .exited ∧ (s.exitedGang g).readV l = s.curGang.readV l ∧ (s.exitedGang g).readK l = s.curGang.readK l := by
  obtain ⟨p, hmoved⟩ := s.curGang.closeWord_moved s.runLanes true (fun l => if (s.active g).elem l then s.cur.pc else s.cur.pc + 8)
  unfold State.exitedGang
  generalize s.curGang.closeWord s.runLanes true (fun l => if (s.active g).elem l then s.cur.pc else s.cur.pc + 8) = C at hmoved ⊢
  have hframe := C.setLanes_frame (s.active g) .exited
  have hexited : (C.setLanes (s.active g) .exited).laneState l = .exited := Gang.laneState_setLanes .exited (.inl hl)
  generalize C.setLanes (s.active g) .exited = K at hframe hexited ⊢
  obtain ⟨hstate, hv, hk⟩ := ((Gang.Rests.testMasks K).trans ((Gang.Rests.tryEnd _).trans (.keepFrames _ _))) hexited
  refine ⟨hstate, hv.trans ?_, hk.trans ?_⟩
  · exact (congrArg (fun H : Gang => H.readV l) hframe :).trans (congrArg (fun H : Gang => H.readV l) hmoved :)
  · exact (congrArg (fun H : Gang => H.readK l) hframe :).trans (congrArg (fun H : Gang => H.readK l) hmoved :)

theorem exit_keepsLanes (hc : s.clear (.exit g) = true) (hlive : ∀ l ∈ s.curGang.liveLanes, s.curGang.callDepth l ≤ 4)
    (hne : s.active g ≠ []) (hfree : exitBusy s = false) :
    ∃ t, exec (.exit g) s = .next t ∧ ∀ l ∈ s.active g, t.curGang.laneState l = .exited ∧
      (∀ r, t.curGang.readV l r = s.curGang.readV l r) ∧ (∀ k, t.curGang.readK l k = s.curGang.readK l k) := by
  refine ⟨_, exec_exit_onCore hc hlive hne hfree, fun l hl => ?_⟩
  have hafter := (State.Rests.refl (t := s.cur.team) (g := s.cur.gang) (j := l) (s.setCur (s.exitedGang g))).afterExit
    (n := s.cur.team) (m := s.cur.gang)
  have hrests := State.Rests.curGang (o := s.setCur (s.exitedGang g)) hafter
  rw [State.curGang_setCur] at hrests
  obtain ⟨hstate, hv, hk⟩ := s.exitedGang_lane hl
  obtain ⟨hstill, hvstill, hkstill⟩ := hrests hstate
  exact ⟨hstill, fun r => congrFun (hvstill.trans hv) r, fun k => congrFun (hkstill.trans hk) k⟩
end

/-- Settles O18. With at most four frames none leaves the core or enters it (`moveFrames_onCore`), so a call or return changes its lanes' depths
and slots, one lane after another (`Gang.slotOf_pushFrames`, `Gang.callDepth_popFrames`), and ends its word, with every frame up to DEPTH kept
(`Gang.slotOf_keepFrames`). What an exit completes only wakes lanes, so a lane that has exited rests (`State.Rests.afterExit`). -/
theorem callsKeepReturnAddresses : Obligations.CallsKeepReturnAddresses := by
  refine ⟨⟨?_, fun g s hc hp _ hlive hact => ret_onCore hlive hact hc hp, fun g s => exit_keepsLanes⟩,
    fun g s => exec_ret_noFrame, fun g off s => call_tooDeep (exec_call g off s), fun g a s => call_tooDeep (exec_callv g a s)⟩
  rintro i g target s (⟨off, rfl, rfl⟩ | ⟨a, rfl, rfl⟩) hc hp hready hlive hact
  · exact call_onCore (exec_call g off s) hc hp hready hlive hact
  · exact call_onCore (exec_callv g a s) hc hp hready hlive hact

end Sys2Proof.Machine
end

section
/-! Words on accumulators and on the boundary between them and the vector registers (R200, R201, R206, R219 to R221). -/

namespace Sys2Proof.Machine

open Sys2Proof.Safety

/-- R206: a word that runs with some lane active is its body. -/
theorem tileWord_clear {i : Instr} {g : Grd} {s : State} (hc : s.clear i = true) (ha : s.active g ≠ [])
    (body : State → List Nat → Out) : tileWord i g s body = body s (s.active g) := by
  rw [tileWord, runWord_clear hc]
  simp [ha]

/-! ### One register written in each lane -/

section
variable {q : Gang → Nat → W32} (hq : OwnLane q) (r : Nat)
include hq

/-- A register written in each lane with a value of that lane. -/
theorem Gang.eachLane_writeV (G : Gang) {ls : List Nat} (hn : ls.Nodup) (h64 : ∀ l ∈ ls, l < 64) :
    (∀ l ∈ ls, (G.eachLane ls (fun H l => H.writeV l r (q H l))).readV l r = q G l) ∧
    OnlyTouches (fun l k => decide (l ∈ ls) && decide (k = r)) (fun _ _ => false) false G
      (G.eachLane ls (fun H l => H.writeV l r (q H l))) := by
  induction ls generalizing G with
  | nil => exact ⟨fun _ h => absurd h List.not_mem_nil, OnlyTouches.refl ..⟩
  | cons j ls ih =>
    obtain ⟨hj, hn⟩ := List.nodup_cons.mp hn
    have hj64 : j < 64 := h64 j List.mem_cons_self
    have hfirst : TouchesLane j (fun k => decide (k = r)) (fun _ => false) false G (G.writeV j r (q G j)) :=
      ⟨fun l hl k hk => Gang.readV_writeV_ne _ hj64 hl (fun e => by simp [e] at hk) _, fun _ => rfl, fun _ _ _ => rfl, fun _ => rfl,
        Gang.writeV_bad_sub _ _ _ _, rfl⟩
    obtain ⟨hrest, honly⟩ := ih (G.writeV j r (q G j)) hn (fun l hl => h64 l (List.mem_cons_of_mem j hl))
    refine ⟨fun l hl => ?_, OnlyTouches.trans (hfirst.mono ?_ (by simp)) (honly.mono ?_ (by simp))⟩
    · rcases List.mem_cons.mp hl with rfl | hl
      · obtain ⟨hkept, -⟩ := honly
        exact (hkept l hj64 r (by simp [hj])).trans (Gang.readV_writeV_same ..)
      · have hne : l ≠ j := fun e => hj (e ▸ hl)
        exact (hrest l hl).trans (hq _ _ l (hfirst.laneSame (h64 l (List.mem_cons_of_mem j hl)) (by simp [hne]) (by simp)))
    · intro l k h
      simp only [Bool.and_eq_true, decide_eq_true_eq] at h ⊢
      exact ⟨List.mem_cons.mpr (.inl h.1), h.2⟩
    · intro l k h
      simp only [Bool.and_eq_true, decide_eq_true_eq] at h ⊢
      exact ⟨List.mem_cons_of_mem j h.1, h.2⟩

theorem State.eachActive_writeV (s : State) (g : Grd) :
    (∀ l ∈ s.active g, (s.curGang.eachLane (s.active g) (fun H l => H.writeV l r (q H l))).readV l r = q s.curGang l) ∧
    OnlyTouches (fun l k => decide (l ∈ s.active g) && decide (k = r)) (fun _ _ => false) false s.curGang
      (s.curGang.eachLane (s.active g) (fun H l => H.writeV l r (q H l))) :=
  Gang.eachLane_writeV hq r s.curGang (s.active_nodup g) (fun _ => State.active_lt)
end

theorem OwnLane.readV (n : Nat) : OwnLane (fun G l => G.readV l n) := fun _ _ _ h => by
  obtain ⟨hv, -⟩ := h
  exact hv n

/-- A frame of one vector register in some lanes, as that of a destination. -/
theorem OnlyTouches.onlyWrites {d : BitVec 8} {ls : List Nat} {G H : Gang}
    (h : OnlyTouches (fun l k => decide (l ∈ ls) && decide (k = d.toNat)) (fun _ _ => false) false G H) :
    OnlyWrites (.reg ⟨false, d⟩ false) ls false G H := by
  obtain ⟨v, sc, k, f, bad, rest⟩ := h
  refine ⟨fun l hl r hr => v l hl r ?_, fun r _ => sc r, fun l n _ => k l n rfl, f, bad, rest⟩
  simpa [Dest.isV] using hr

/-! ### The words -/

section
variable {g : Grd} {d a n : BitVec 8} {s : State}

/-- R219. -/
theorem exec_czero (hc : s.clear (.czero g d) = true) (ha : s.active g ≠ []) :
    exec (.czero g d) s =
      .next ((s.setCur (s.curGang.mapAcc s.curTeam.launch d.toNat (fun _ _ => 0) (upto 1024))).finish false) := by
  show execCzero g d s = _
  rw [execCzero, tileWord_clear hc ha]
  rfl

/-- R220: a register of an accumulator read. -/
theorem exec_cmov (hc : s.clear (.cmov g d a n) = true) (hn : n.toNat < accRegs s.curGang.width) :
    exec (.cmov g d a n) s = .next ((s.setCur (s.curGang.eachLane (s.active g) (fun G l => G.writeV l d.toNat
      (G.readV l (accReg s.curTeam.launch s.curGang.width a.toNat n.toNat))))).finish false) := by
  show execCmov g d a n s = _
  rw [execCmov, runWord_clear hc]
  exact if_neg (Nat.not_le.mpr hn)

/-- R220: a register of an accumulator written. -/
theorem exec_cmovIn (hc : s.clear (.cmovIn g d a n) = true) (hn : n.toNat < accRegs s.curGang.width) :
    exec (.cmovIn g d a n) s = .next ((s.setCur (s.curGang.eachLane (s.active g) (fun G l =>
      G.writeV l (accReg s.curTeam.launch s.curGang.width d.toNat n.toNat) (G.readV l a.toNat)))).finish false) := by
  show execCmovIn g d a n s = _
  rw [execCmovIn, runWord_clear hc]
  exact if_neg (Nat.not_le.mpr hn)

/-- R221. -/
theorem exec_vbnd (hc : s.clear (.vbnd g a) = true) (ha : s.active g ≠ []) (hok : vbndIllegal s (s.curGang.readS a.toNat).toNat = false) :
    exec (.vbnd g a) s = .next ((s.setCur { s.curGang.zeroRange (min (s.curGang.readS a.toNat).toNat s.curGang.vbnd)
      (max (s.curGang.readS a.toNat).toNat s.curGang.vbnd) with vbnd := (s.curGang.readS a.toNat).toNat }).finish false) := by
  show execVbnd g a s = _
  rw [execVbnd, tileWord_clear hc ha]
  exact if_neg (Bool.eq_false_iff.mp hok)
end

/-! ### The boundary (R221) -/

theorem tfind_filter_key_none {α : Type} {p : Nat → Bool} {k : Nat} (h : p k = false) (t : Tbl α) :
    tfind (t.filter (fun q => p q.1)) k = none := by
  induction t with
  | nil => rfl
  | cons q t ih =>
    obtain ⟨i, x⟩ := q
    by_cases hp : p i = true
    · have hi : k ≠ i := fun e => by simp [← e, h] at hp
      simp [hp, tfind, hi, ih]
    · simp [hp, ih]

/-- R221: the registers of the range read zero, and the others as before. -/
theorem Gang.readV_zeroRange (G : Gang) (lo hi : Nat) {l : Nat} (hl : l < 64) (r : Nat) :
    (G.zeroRange lo hi).readV l r = if lo ≤ r ∧ r < hi then 0 else G.readV l r := by
  have hreg : poolKey l r / 64 = r := by
    unfold poolKey
    omega
  unfold Gang.readV tget
  split
  · rename_i h
    exact congrArg (Option.getD · 0)
      (tfind_filter_key_none (p := fun k => !(decide (lo ≤ k / 64) && decide (k / 64 < hi))) (by simp [hreg, h.1, h.2]) G.pool)
  · rename_i h
    exact congrArg (Option.getD · 0)
      (tfind_filter_key (p := fun k => !(decide (lo ≤ k / 64) && decide (k / 64 < hi))) (by simpa [hreg, imp_iff_not_or] using h) G.pool)

/-- Settles O29. An accumulator is zeroed element by element (`Gang.mapAcc_writes`), a `cmov` writes one register in each lane
(`Gang.eachLane_writeV`), and a new boundary zeroes the registers that it passes (`Gang.readV_zeroRange`). -/
theorem accumulatorWordsReadAndWrite : Obligations.AccumulatorWordsReadAndWrite := by
  refine ⟨fun g d s hc ha hw => ⟨_, exec_czero hc ha, ?_⟩, fun g d a n s hc hn => ⟨_, exec_cmov hc hn, ?_⟩,
    fun g d a n s hc hn => ⟨_, exec_cmovIn hc hn, State.eachActive_writeV (OwnLane.readV a.toNat) _ s g⟩,
    fun g a s hc ha hok => ⟨_, exec_vbnd hc ha hok, rfl, fun l hl r => Gang.readV_zeroRange _ _ _ hl r, rfl⟩⟩
  · obtain ⟨hread, honly⟩ := s.curGang.mapAcc_writes s.curTeam.launch d.toNat hw (fun _ _ => 0) List.nodup_range (fun k => List.mem_range.mp)
    exact ⟨fun i hi j hj => (hread i j hj).trans (if_pos (List.mem_range.mpr (by omega))), honly⟩
  · obtain ⟨hread, honly⟩ := State.eachActive_writeV (OwnLane.readV (accReg s.curTeam.launch s.curGang.width a.toNat n.toNat)) d.toNat s g
    exact ⟨hread, OnlyTouches.onlyWrites honly⟩

end Sys2Proof.Machine
end

section
/-! Tile words (R197, R199, R208 to R210, R235): where their bytes land, and what becomes of the tile. -/

namespace Sys2Proof.Machine

open Sys2Proof.Safety

/-! ### Tiles of a team -/

@[simp] theorem Team.tile_setTile_same (T : Team) (k : Nat) (x : Tile) : (T.setTile k x).tile k = x := tget_tput_same ..

/-- The issuing gang's tile after a change of it. -/
theorem State.tile_modTile (s : State) (n : Nat) (f : Tile → Tile) :
    (s.modTile n f).curTeam.tile (tileKey (curFollower s) n) = f (s.curTeam.tile (tileKey (curFollower s) n)) := by
  show ((s.modTeam s.cur.team _).team s.cur.team).tile _ = _
  rw [State.team_modTeam, Team.tile_setTile_same]
  rfl

theorem State.scratch_modTile (s : State) (n : Nat) (f : Tile → Tile) : (s.modTile n f).curTeam.scratch = s.curTeam.scratch := by
  show ((s.modTeam s.cur.team _).team s.cur.team).scratch = _
  rw [State.team_modTeam]
  rfl

/-- The end of a word changes one gang of its team. -/
theorem State.curTeam_finish (s : State) (e : Bool) : ∃ H, (s.finish e).curTeam = s.curTeam.setGang s.cur.gang H :=
  ⟨_, (congrArg State.curTeam (s.finish_eq e)).trans (s.curTeam_setCur _)⟩

theorem State.curTeam_results (s : State) (la : Nat) (regs : List Reg) (ws : List RegWrite) (fl : Tbl Flg) :
    ∃ H, (s.results la regs ws fl).curTeam = s.curTeam.setGang s.cur.gang H := by
  by_cases hla : la = 0
  · subst hla
    exact ⟨_, (congrArg State.curTeam (s.results_atOnce regs ws fl)).trans (s.curTeam_setCur _)⟩
  · exact ⟨_, (congrArg State.curTeam (s.results_pending hla regs ws fl)).trans (s.curTeam_setCur _)⟩

theorem State.tile_finish_modTile (s : State) (n : Nat) (f : Tile → Tile) :
    ((s.modTile n f).finish false).curTeam.tile (tileKey (curFollower s) n) = f (s.curTeam.tile (tileKey (curFollower s) n)) := by
  obtain ⟨H, hH⟩ := (s.modTile n f).curTeam_finish false
  rw [hH, ← s.tile_modTile n f]
  rfl

theorem State.results_modTile (s : State) (n : Nat) (f : Tile → Tile) (la : Nat) (regs : List Reg) (ws : List RegWrite) (fl : Tbl Flg) :
    ((s.modTile n f).results la regs ws fl).curTeam.scratch = s.curTeam.scratch ∧
    ((s.modTile n f).results la regs ws fl).curTeam.tile (tileKey (curFollower s) n) = f (s.curTeam.tile (tileKey (curFollower s) n)) := by
  obtain ⟨H, hH⟩ := (s.modTile n f).curTeam_results la regs ws fl
  rw [hH, ← s.scratch_modTile n f, ← s.tile_modTile n f]
  exact ⟨rfl, rfl⟩

/-! ### Bytes that land in a tile -/

/-- The bytes of a tile that a stretch lands in: its data, or its scales. -/
def Tile.plane (x : Tile) (side : Bool) : Tbl Byte := if side then x.side else x.data

theorem Tile.plane_data (x : Tile) : x.plane false = x.data := rfl
theorem Tile.plane_scales (x : Tile) : x.plane true = x.side := rfl

theorem Tile.plane_land (x : Tile) (q : Seg) (bs : List Byte) (b : Bool) :
    (x.land q bs).plane b = if q.side = b then writeBytes (x.plane b) q.off bs else x.plane b := by
  unfold Tile.land Tile.plane
  cases b <;> cases q.side <;> rfl

/-- The byte that a stretch brings to a place, where it covers the place. -/
def Seg.brings (q : Seg) (bs : List Byte) (b : Bool) (p : Nat) : Option Byte :=
  if q.side = b ∧ q.off ≤ p then bs[p - q.off]? else none

/-- A byte of a tile after a landing: what the stretch brings, and as before where it brings nothing. -/
theorem Tile.readByte_land (x : Tile) (q : Seg) (bs : List Byte) (b : Bool) (p : Nat) :
    readByte ((x.land q bs).plane b) p = (q.brings bs b p).getD (readByte (x.plane b) p) := by
  rw [Tile.plane_land, Seg.brings]
  by_cases hs : q.side = b
  · rw [if_pos hs]
    by_cases hoff : q.off ≤ p
    · rw [if_pos ⟨hs, hoff⟩]
      by_cases hlen : p - q.off < bs.length
      · rw [List.getElem?_eq_getElem hlen, Option.getD_some, ← readByte_writeBytes_of_lt (x.plane b) q.off bs hlen,
          Nat.add_sub_cancel' hoff]
      · rw [List.getElem?_eq_none (Nat.le_of_not_lt hlen), Option.getD_none]
        exact readByte_writeBytes_above _ bs (by omega)
    · rw [if_neg (fun h => hoff h.2), Option.getD_none]
      exact readByte_writeBytes_below _ (Nat.lt_of_not_le hoff) bs
  · rw [if_neg hs, if_neg (fun h => hs h.1), Option.getD_none]

/-- Stretches that land one after another. -/
def Tile.lands {α : Type} (seg : α → Seg) (bytes : α → List Byte) (as : List α) (x : Tile) : Tile :=
  as.foldl (fun x a => x.land (seg a) (bytes a)) x

section
variable {α : Type} {seg : α → Seg} {bytes : α → List Byte} {as : List α} {b : Bool} {p : Nat}

/-- Where every stretch that covers a byte brings the same value, and one brings it or the byte held it, that value is there. -/
theorem Tile.readByte_lands_of {v : Byte} (x : Tile) (hall : ∀ a ∈ as, ∀ w ∈ (seg a).brings (bytes a) b p, w = v)
    (hsome : (∃ a ∈ as, (seg a).brings (bytes a) b p = some v) ∨ readByte (x.plane b) p = v) :
    readByte ((Tile.lands seg bytes as x).plane b) p = v := by
  induction as generalizing x with
  | nil => simpa [Tile.lands] using hsome
  | cons a as ih =>
    refine ih (x.land (seg a) (bytes a)) (fun c hc => hall c (List.mem_cons_of_mem a hc)) ?_
    rw [Tile.readByte_land]
    cases hw : (seg a).brings (bytes a) b p with
    | some w => exact .inr (hall a List.mem_cons_self w hw)
    | none =>
      rcases hsome with ⟨c, hc, hv⟩ | hv
      · rcases List.mem_cons.mp hc with rfl | hc
        · simp [hw] at hv
        · exact .inl ⟨c, hc, hv⟩
      · exact .inr hv

/-- A byte that no stretch covers is as before. -/
theorem Tile.readByte_lands_out (x : Tile) (hout : ∀ a ∈ as, (seg a).brings (bytes a) b p = none) :
    readByte ((Tile.lands seg bytes as x).plane b) p = readByte (x.plane b) p :=
  Tile.readByte_lands_of x (fun a ha w hw => by simp [hout a ha] at hw) (.inr rfl)
end

/-! ### `tcfg` and `tzero` (R197, R210) -/

/-- Bytes from 0 that all hold one value. -/
def filledBytes (n : Nat) (v : Byte) : Tbl Byte := writeBytes [] 0 (List.replicate n v)

theorem readByte_filledBytes {n k : Nat} (v : Byte) (h : k < n) : readByte (filledBytes n v) k = v := by
  have hbyte := readByte_writeBytes_of_lt [] 0 (List.replicate n v) (k := k) (by rwa [List.length_replicate])
  rwa [Nat.zero_add, List.getElem_replicate] at hbyte

/-- R210: a tile after a `tzero`. -/
def Tile.cleared (x : Tile) : Tile := { x with data := [], side := filledBytes 512 127, rdy := true, ecc := false }

section
variable {g : Grd} {d a : BitVec 8} {s : State} (ha : s.active g ≠ [])
include ha

theorem exec_tcfg (hc : s.clear (.tcfg g d a) = true) (hlegal : tcfgLegal (s.curGang.readS a.toNat) = true)
    (hfree : s.tileBusy s.cur.team (curFollower s) d.toNat = false) :
    exec (.tcfg g d a) s = .next ((s.modTile d.toNat (fun x => x.config (s.curGang.readS a.toNat))).finish false) := by
  show execTcfg g d a s = _
  rw [execTcfg, tileWord_clear hc ha]
  simp [hlegal, hfree, State.next]

theorem exec_tzero (hc : s.clear (.tzero g d) = true) (hfree : s.tileBusy s.cur.team (curFollower s) d.toNat = false) :
    exec (.tzero g d) s = .next ((s.modTile d.toNat Tile.cleared).finish false) := by
  show execTzero g d s = _
  rw [execTzero, tileWord_clear hc ha, hfree]
  rfl

theorem tzero_clears (hc : s.clear (.tzero g d) = true) (hfree : s.tileBusy s.cur.team (curFollower s) d.toNat = false) :
    ∃ t, exec (.tzero g d) s = .next t ∧ t.mem = s.mem ∧
      (let x := s.curTeam.tile (tileKey (curFollower s) d.toNat)
       let y := t.curTeam.tile (tileKey (curFollower s) d.toNat)
       (∀ k, readByte y.data k = 0) ∧ (∀ k < 512, readByte y.side k = 127) ∧ y.rdy = true ∧ y.rows = x.rows ∧ y.rlen = x.rlen ∧
         y.ew = x.ew) := by
  refine ⟨_, exec_tzero ha hc hfree, rfl, ?_⟩
  dsimp only
  rw [State.tile_finish_modTile]
  refine ⟨fun _ => rfl, fun k hk => ?_, rfl, rfl, rfl, rfl⟩
  dsimp only [Tile.cleared]
  exact readByte_filledBytes 127 hk

end

/-! ### `tmov` (R210) -/

/-- The bytes of a tile that its image, or its scales, take. -/
def Tile.size (sc : Bool) (x : Tile) : Nat := if sc then x.rows * 8 else x.rows * x.rlen
/-- The place in a tile of a lane's word, and its bytes. -/
def moveSeg (sc : Bool) (base l : Nat) : Seg := ⟨0, 4, sc, base + 4 * l⟩
def moveBytes (G : Gang) (r l : Nat) : List Byte := bytesOfNum 4 (G.readV l r).toNat

theorem exec_tmov {g : Grd} {sc : Bool} {d a b : BitVec 8} {s : State} (ha : s.active g ≠ []) (hc : s.clear (.tmov g sc d a b) = true)
    (hin : ∀ l ∈ s.active g, (s.curGang.readS b.toNat).toNat + 4 * l + 4 ≤ (s.curTeam.tile (tileKey (curFollower s) d.toNat)).size sc)
    (halign : (s.curGang.readS b.toNat).toNat % 4 = 0) (hfree : s.tileBusy s.cur.team (curFollower s) d.toNat = false) :
    exec (.tmov g sc d a b) s = .next ((s.modTile d.toNat (fun x => Tile.lands (moveSeg sc (s.curGang.readS b.toNat).toNat)
      (moveBytes s.curGang a.toNat) (s.active g) { x with rdy := true })).finish false) := by
  show execTmov g sc d a b s = _
  have hnone : (s.active g).find? (fun l => decide ((s.curTeam.tile (tileKey (curFollower s) d.toNat)).size sc <
      (s.curGang.readS b.toNat).toNat + 4 * l + 4)) = none :=
    List.find?_eq_none.mpr (fun l hl => by simpa using hin l hl)
  unfold Tile.size at hnone
  rw [execTmov, tileWord_clear hc ha]
  dsimp only
  rw [hnone]
  simp only [halign, hfree]
  rfl

section
variable {sc : Bool} {base r : Nat} {G : Gang} {ls : List Nat} (x : Tile)

theorem moveSeg_brings (l p : Nat) :
    (moveSeg sc base l).brings (moveBytes G r l) sc p = if base + 4 * l ≤ p then (moveBytes G r l)[p - (base + 4 * l)]? else none := by
  simp [Seg.brings, moveSeg]

/-- The words of lanes do not overlap: what a lane brings to a byte is of its own word. -/
theorem moveSeg_brings_some {l p : Nat} {w : Byte} (h : (moveSeg sc base l).brings (moveBytes G r l) sc p = some w) :
    base + 4 * l ≤ p ∧ p < base + 4 * l + 4 := by
  rw [moveSeg_brings] at h
  split at h
  · obtain ⟨hlen, -⟩ := List.getElem?_eq_some_iff.mp h
    rw [moveBytes, length_bytesOfNum] at hlen
    omega
  · cases h

/-- R210: the word that a lane brings is at the lane's place. -/
theorem readNum_moved {l : Nat} (hl : l ∈ ls) :
    readNum ((Tile.lands (moveSeg sc base) (moveBytes G r) ls x).plane sc) (base + 4 * l) 4 = (G.readV l r).toNat := by
  have hbytes : readBytes ((Tile.lands (moveSeg sc base) (moveBytes G r) ls x).plane sc) (base + 4 * l) 4 = moveBytes G r l := by
    refine List.ext_getElem (by simp [readBytes, upto, moveBytes]) (fun i hi hi' => ?_)
    simp only [readBytes, upto, List.getElem_map, List.getElem_range]
    have hown : (moveSeg sc base l).brings (moveBytes G r l) sc (base + 4 * l + i) = some (moveBytes G r l)[i] := by
      rw [moveSeg_brings, if_pos (Nat.le_add_right _ _), Nat.add_sub_cancel_left, List.getElem?_eq_getElem hi']
    refine Tile.readByte_lands_of x (fun j _ w hw => ?_) (.inl ⟨l, hl, hown⟩)
    obtain rfl : j = l := by
      have hj := moveSeg_brings_some hw
      have hi4 := moveSeg_brings_some hown
      omega
    exact Option.some.inj (hw.symm.trans hown)
  rw [readNum, hbytes, moveBytes, numOfBytes_bytesOfNum]
  exact Nat.mod_eq_of_lt (G.readV l r).isLt

/-- R210: a byte outside the words of the lanes is as before. -/
theorem readByte_moved {k : Nat} (hout : ∀ l ∈ ls, k < base + 4 * l ∨ base + 4 * l + 4 ≤ k) :
    readByte ((Tile.lands (moveSeg sc base) (moveBytes G r) ls x).plane sc) k = readByte (x.plane sc) k := by
  refine Tile.readByte_lands_out x (fun l hl => Option.eq_none_iff_forall_not_mem.mpr (fun w hw => ?_))
  have hin := moveSeg_brings_some hw
  have := hout l hl
  omega
end

/-! ### `tld` (R208) -/

/-- R167: what has no poisoned byte has no error. -/
theorem segError_none {ps : List Nat} {q : Seg} (h : poisoned ps q.addr.toNat q.len = false) : segError ps q = none := by
  unfold segError
  rw [List.find?_eq_none.mpr (fun k hk => by simp [poisoned_byte h (List.mem_range.mp hk)])]
  rfl

theorem segErrors_none {ps : List Nat} {segs : List Seg} (h : ∀ q ∈ segs, poisoned ps q.addr.toNat q.len = false) :
    lowestOf (segs.filterMap (segError ps)) = none := by
  rw [List.filterMap_eq_nil_iff.mpr (fun q hq => segError_none (h q hq))]
  rfl

theorem exec_tld {g : Grd} {la : BitVec 4} {sc : Bool} {d a b c : BitVec 8} {s : State} {x : Tile} {segs : List Seg}
    (hc : s.clear (.tld g la sc d a b c) = true) (ha : s.active g ≠ []) (hq : s.curGang.queue = [])
    (hfree : s.tileBusy s.cur.team (curFollower s) d.toNat = false)
    (hx : s.curTeam.tile (tileKey (curFollower s) d.toNat) = x)
    (hsegs : tileSegs x (s.curGang.readS a.toNat) (s.curGang.readS b.toNat) (s.curGang.readS c.toNat) sc = segs)
    (hcause : tileCause s.curTeam.launch true x (s.curGang.readS a.toNat) (s.curGang.readS b.toNat) sc segs = none)
    (hclean : ∀ q ∈ segs, poisoned s.curTeam.poison q.addr.toNat q.len = false) :
    exec (.tld g la sc d a b c) s = .next ((s.modTile d.toNat (fun _ =>
      { Tile.lands id (s.scratchSeg s.cur.team s.cur.gang) segs x with rdy := true, ecc := false })).results la.toNat [.t d.toNat] [] []) := by
  show execTld g la sc d a b c s = _
  rw [execTld, tileWord_clear hc ha]
  dsimp only
  rw [hx, hsegs, hcause]
  dsimp only
  rw [segErrors_none hclean]
  simp only [hfree, hq]
  rfl

/-- R169: with no store in its queue a gang reads of a stretch what scratch holds. -/
theorem State.scratchSeg_getElem? {s : State} (hq : s.curGang.queue = []) (q : Seg) (k : Nat) :
    (s.scratchSeg s.cur.team s.cur.gang q)[k]? = if k < q.len then some (readByte s.curTeam.scratch (q.addr.toNat + k)) else none := by
  have hbyte : ∀ p, s.scratchAt s.cur.team (s.gang s.cur.team s.cur.gang) p = readByte s.curTeam.scratch p := fun p => by
    unfold State.scratchAt
    rw [show (s.gang s.cur.team s.cur.gang).queue = [] from hq]
    rfl
  by_cases hk : k < q.len <;> simp [State.scratchSeg, upto, hbyte, hk]

/-- R208: the rows of a move, by number. -/
theorem mem_tileSegs_data {x : Tile} {base pitch scales : W64} {sc : Bool} {q : Seg} (h : q.side = false) :
    q ∈ tileSegs x base pitch scales sc ↔ ∃ r < x.rows, q = ⟨(base.toNat : Int) + r * pitch.toNat, x.rlen, false, r * x.rlen⟩ := by
  unfold tileSegs
  cases sc
  · simp [upto, eq_comm]
  · simp only [upto, if_true, List.mem_append, List.mem_map, List.mem_range]
    constructor
    · rintro (⟨r, hr, rfl⟩ | ⟨r, hr, rfl⟩)
      · exact ⟨r, hr, rfl⟩
      · cases h
    · rintro ⟨r, hr, rfl⟩
      exact .inl ⟨r, hr, rfl⟩

/-- A byte lies in one row of a tile. -/
theorem row_unique {len r k n : Nat} (hk : k < len) (hlow : n * len ≤ r * len + k) (hhigh : r * len + k - n * len < len) : n = r := by
  have hr : (r * len + k) / len = r := Nat.div_eq_of_lt_le (Nat.le_add_right _ _) (by rw [Nat.succ_mul]; omega)
  rw [← hr]
  exact (Nat.div_eq_of_lt_le hlow (by rw [Nat.succ_mul]; omega)).symm

/-- R208: every row of the image is where its row of the tile is. -/
theorem readByte_loaded {s : State} (hq : s.curGang.queue = []) (x y : Tile) (base pitch scales : W64) (sc : Bool) {r k : Nat}
    (hr : r < x.rows) (hk : k < x.rlen) :
    readByte ((Tile.lands id (s.scratchSeg s.cur.team s.cur.gang) (tileSegs x base pitch scales sc) y).plane false) (r * x.rlen + k) =
      readByte s.curTeam.scratch (base.toNat + r * pitch.toNat + k) := by
  have hrow (n : Nat) : (⟨(base.toNat : Int) + n * pitch.toNat, x.rlen, false, n * x.rlen⟩ : Seg).brings
      (s.scratchSeg s.cur.team s.cur.gang ⟨(base.toNat : Int) + n * pitch.toNat, x.rlen, false, n * x.rlen⟩) false (r * x.rlen + k) =
      if n = r then some (readByte s.curTeam.scratch (base.toNat + r * pitch.toNat + k)) else none := by
    rw [Seg.brings, State.scratchSeg_getElem? hq]
    by_cases hn : n = r
    · subst hn
      have haddr : ((base.toNat : Int) + n * pitch.toNat).toNat = base.toNat + n * pitch.toNat := by
        rw [← Int.natCast_mul, ← Int.natCast_add, Int.toNat_natCast]
      simp [hk, haddr]
    · rw [if_neg hn]
      split
      · rename_i hoff
        exact if_neg (fun hlen => hn (row_unique hk hoff.2 hlen))
      · rfl
  refine Tile.readByte_lands_of y (fun q hm w hw => ?_) (.inl ⟨_, (mem_tileSegs_data rfl).mpr ⟨r, hr, rfl⟩, (hrow r).trans (if_pos rfl)⟩)
  have hside : q.side = false := by
    unfold Seg.brings at hw
    split at hw
    · rename_i h
      exact h.1
    · cases hw
  obtain ⟨n, -, rfl⟩ := (mem_tileSegs_data hside).mp hm
  have hvalue := (hrow n).symm.trans hw
  split at hvalue
  · exact (Option.some.inj hvalue).symm
  · cases hvalue

/-! ### `tldg` and its landing (R208, R209, R235) -/

theorem exec_tldg {g : Grd} {la : BitVec 4} {sc : Bool} {bar : Option (BitVec 4)} {d a b c : BitVec 8} {s s1 : State} {x : Tile}
    {segs ps : List Seg} {C : Checked} {bs : List (Seg × List Byte)} (hc : s.clear (.tldg g la sc bar d a b c) = true)
    (ha : s.active g ≠ []) (hx : s.curTeam.tile (tileKey (curFollower s) d.toNat) = x)
    (hsegs : tileSegs x (s.curGang.readS a.toNat) (s.curGang.readS b.toNat) (s.curGang.readS c.toNat) sc = segs)
    (hps : sortBy (fun p q : Seg => decide (p.addr ≤ q.addr)) (segs.flatMap Seg.pieces) = ps)
    (hC : s.checkLanes s.cur.team s.cur.gang .glob 1 .read ((List.range ps.length).zip (ps.map (·.addr))) = C)
    (hcause : tileCause s.curTeam.launch false x (s.curGang.readS a.toNat) (s.curGang.readS b.toNat) sc segs = none)
    (hok : C.causes = []) (hfree : C.st.tileBusy C.st.cur.team (curFollower C.st) d.toNat = false) (hq : C.st.curGang.queue = [])
    (hfence : C.st.fenced C.st.cur.team C.st.cur.gang = false)
    (hread : C.st.holdMisses.readPieces s.curGang.core C.st.curTeam.ctx C.st.cur.team (ps.zip (C.locs.map (·.2))) = (s1, bs, none)) :
    exec (.tldg g la sc bar d a b c) s = .next ((s1.modTile d.toNat (fun _ => { bs.foldl (fun x q => x.land q.1 q.2) x with
      rdy := false, busy := some s1.nextId, ecc := false })).openWindow la.toNat [.t d.toNat] (.tile d.toNat (bar.map (·.toNat))
        (x.rows * x.rlen + (if sc then x.rows * (x.rlen / tileKbb x.ew) else 0))) [] [] none) := by
  show execTldg g la sc bar d a b c s = _
  rw [execTldg, tileWord_clear hc ha]
  dsimp only
  rw [hx, hsegs, hcause]
  dsimp only [upto]
  rw [hps, hC, Checked.settle_ok _ hok]
  rw [hread, hfree, hfence]
  simp [engineWaits, queueBusy, hq]

/-- R209: a team whose gang's tile is ready, with the result of that number written and its misses charged. -/
def State.tileLanded (s : State) (t g id n : Nat) (ms : List Miss) : State :=
  let k := tileKey (onFollower (s.team t) (s.gang t g)) n
  (s.setTeam t (((s.team t).setGang g ((s.gang t g).complete id)).setTile k
    { (s.team t).tile k with rdy := true, busy := none })).chargeMisses ms

theorem exec_tldgLanding {s : State} {t g id n bytes : Nat} {bar : Option Nat} {p : Pend}
    (hp : (s.gang t g).pend.find? (fun q => decide (q.id = id) && !q.done) = some p) (hk : p.kind = .tile n bar bytes) :
    exec (.tldgLanding t g id) s =
      .next (bar.elim (s.tileLanded t g id n p.misses) (fun b => (s.tileLanded t g id n p.misses).subPend t b (BitVec.ofNat 32 bytes))) := by
  show execTldgLanding t g id s = _
  unfold State.gang at hp
  rw [execTldgLanding]
  dsimp only
  rw [hp]
  dsimp only
  rw [hk]
  cases bar <;> rfl

/-! ### `tst` (R208, R227) -/

theorem State.cur_enqueue (s : State) (t g : Nat) (ws : SqEntry) : (s.enqueue t g ws).cur = s.cur := by
  unfold State.enqueue
  split <;> rfl

/-- Entries whose writes name the team enter the gang's queue one after another. -/
theorem State.foldl_enqueue {α : Type} (put : Nat → α → Write) (parts : List (List α)) {s : State} {t : Nat} (h : s.cur.team = t) :
    parts.foldl (fun s p => s.enqueue s.cur.team s.cur.gang (p.map (put t))) s =
      parts.foldl (fun s p => s.enqueue s.cur.team s.cur.gang (p.map (put s.cur.team))) s := by
  induction parts generalizing s with
  | nil => rfl
  | cons p parts ih =>
    rw [List.foldl_cons, List.foldl_cons, h]
    exact ih (by rw [State.cur_enqueue, h])

theorem exec_tst {g : Grd} {sc : Bool} {d a b c : BitVec 8} {s : State} {x : Tile} {segs : List Seg}
    (hc : s.clear (.tst g sc d a b c) = true) (ha : s.active g ≠ []) (hx : s.curTeam.tile (tileKey (curFollower s) d.toNat) = x)
    (hsegs : tileSegs x (s.curGang.readS a.toNat) (s.curGang.readS b.toNat) (s.curGang.readS c.toNat) sc = segs)
    (hcause : tileCause s.curTeam.launch true x (s.curGang.readS a.toNat) (s.curGang.readS b.toNat) sc segs = none)
    (hroom : s.curGang.queue.length + (rowGroups x.rows segs).length ≤ 32) (hready : x.rdy = true) (hecc : x.ecc = false) :
    exec (.tst g sc d a b c) s = .next (((rowGroups x.rows segs).foldl (fun s p => s.enqueue s.cur.team s.cur.gang (p.map (fun q =>
      (⟨.scratch s.cur.team, q.addr.toNat, readBytes (if q.side then x.side else x.data) q.off q.len⟩ : Write)))) s).finish false) := by
  show execTst g sc d a b c s = _
  rw [execTst, tileWord_clear hc ha]
  dsimp only
  rw [hx, hsegs, hcause, ← State.foldl_enqueue (fun t (q : Seg) =>
    (⟨.scratch t, q.addr.toNat, readBytes (if q.side then x.side else x.data) q.off q.len⟩ : Write)) _ rfl]
  simp [hready, hecc, Nat.not_lt.mpr hroom, State.next]

/-- Settles O28. A byte of a tile holds what the one stretch that covers it brings (`Tile.readByte_lands_of`): the rows of a `tld`
(`readByte_loaded`) and the words of a `tmov` (`readNum_moved`) do not overlap. The model's choices behind it: the row groups of a `tst`
are of eight rows (notes/assumptions/47.md), and which tiles are busy (notes/assumptions/76.md, 77.md). -/
theorem tileWordsMoveTiles : Obligations.TileWordsMoveTiles := by
  refine ⟨⟨fun g d a s hc ha hlegal hfree => exec_tcfg ha hc hlegal hfree, fun g la sc d a b c s hc ha hq hfree hcause hclean => ?_,
    fun g la sc bar d a b c s s1 bs hc ha => exec_tldg hc ha rfl rfl rfl rfl, fun g sc d a b c s hc ha => exec_tst hc ha rfl rfl,
    fun g d s hc ha => tzero_clears ha hc, fun g d a b s hc ha hin halign hfree => ?_, fun g d a b s hc ha hin halign hfree => ?_⟩,
    fun s t g id n bytes bar p hp hk => ?_⟩
  · obtain ⟨hscratch, htile⟩ := s.results_modTile d.toNat _ la.toNat [.t d.toNat] [] []
    refine ⟨_, exec_tld hc ha hq hfree rfl rfl hcause hclean, State.mem_results .., hscratch, ?_⟩
    rw [htile]
    exact ⟨rfl, fun r hr k hk => readByte_loaded hq _ _ _ _ _ _ hr hk⟩
  · refine ⟨_, exec_tmov ha hc hin halign hfree, rfl, ?_⟩
    rw [State.tile_finish_modTile, ← Tile.plane_data, ← Tile.plane_data]
    exact ⟨fun l hl => readNum_moved _ hl, fun k hout => readByte_moved _ hout⟩
  · refine ⟨_, exec_tmov ha hc hin halign hfree, rfl, ?_⟩
    rw [State.tile_finish_modTile, ← Tile.plane_scales]
    exact fun l hl => readNum_moved _ hl
  · intro k s1
    rw [exec_tldgLanding hp hk]
    cases bar <;> rfl

end Sys2Proof.Machine
end

section
/-! Matrix words and their arrays (R211, R213, R214, R216, R217). -/

namespace Sys2Proof.Machine

open Sys2Proof.Safety

/-- R211, R213: what a pair word asks of its pair: a follower gang, with no result pending on its format word and the same format word in
all its live lanes, and an array that works and has room. -/
structure PairAccepts (s : State) (f : BitVec 8) (w : W32) : Prop where
  legal : mmapIllegal s.curTeam s.cur.gang = false
  free : (s.curTeam.gang (partnerOf s.cur.gang)).pend.any (fun p => !p.done && p.names [.v f.toNat]) = false
  same : ∀ l ∈ (s.curTeam.gang (partnerOf s.cur.gang)).liveLanes, (s.curTeam.gang (partnerOf s.cur.gang)).readV l f.toNat = w
  works : (s.core (followerCore s.curTeam)).matOff = false
  room : s.arrayBusy (followerCore s.curTeam) = false

section
variable {i : Instr} {g : Grd} {la : BitVec 4} {ring : BitVec 2} {nosplit pair wide : Bool} {d : BitVec 8} {ta tb : BitVec 3}
  {f k : BitVec 8} {w : W32} {s : State}

/-- R211, R213, R214: a matrix word that passes its checks and finds room is accepted. -/
theorem matrixWord_accepted (hc : s.clear i = true) (ha : s.active g ≠ []) (hf : ∀ l ∈ s.active g, s.curGang.readV l f.toNat = w)
    (hv : fmtValid w = true) (hp : pair = true → PairAccepts s f w)
    (ho : operandsBad s.curTeam s.cur.gang pair w (s.curGang.readS k.toNat).toNat d.toNat ta.toNat tb.toNat (ringLen ring) = false)
    (hoff : (s.core s.curGang.core).matOff = false) (hroom : s.arrayBusy s.curGang.core = false) :
    matrixWord i g la ring nosplit pair wide d ta tb f k s = .next ((({ s with nextId := s.nextId + 1 } : State).enterArray
      (newOp s.nextId s.cur.team s.cur.gang pair false wide nosplit (ringLen ring) ta.toNat tb.toNat d.toNat w
        (s.curGang.readS k.toNat).toNat 0 s.cur.pc)).openWindow la.toNat [.c d.toNat] (.matrix s.nextId) [] [] none) := by
  have hhead : s.curGang.readV ((s.active g).headD 0) f.toNat = w := by
    obtain ⟨l, ls, hl⟩ := List.exists_cons_of_ne_nil ha
    exact hf _ (by simp [hl])
  have hvalid : (s.active g).filter (fun l => !fmtValid (s.curGang.readV l f.toNat)) = [] :=
    List.filter_eq_nil_iff.mpr (fun l hl => by simp [hf l hl, hv])
  have hsame : (s.active g).filter (fun l => decide (s.curGang.readV l f.toNat ≠ w)) = [] :=
    List.filter_eq_nil_iff.mpr (fun l hl => by simp [hf l hl])
  rw [matrixWord, tileWord_clear hc ha]
  dsimp only
  simp only [hhead, hvalid, hsame]
  cases pair with
  | false => simp [ho, hoff, hroom, newOp]
  | true =>
    obtain ⟨hlegal, hfree, hpartner, hworks, hother⟩ := hp rfl
    have hdiff : (s.curTeam.gang (partnerOf s.cur.gang)).liveLanes.filter
        (fun l => decide ((s.curTeam.gang (partnerOf s.cur.gang)).readV l f.toNat ≠ w)) = [] :=
      List.filter_eq_nil_iff.mpr (fun l hl => by simp [hpartner l hl])
    simp only [hdiff, hlegal, hfree]
    simp [ho, hoff, hroom, hworks, hother, newOp]
end

/-- R165: one access that passes its check. -/
theorem State.checkLanes_one {s s1 : State} {t g sz : Nat} {sp : Space} {acc : Access} {a : Int} {loc : Loc}
    (h : s.checkAccess t g sp a sz acc = (s1, .ok loc)) (l : Nat) :
    s.checkLanes t g sp sz acc [(l, a)] = { st := s1, locs := [(l, loc)] } := by
  simp [State.checkLanes, h]

/-- R217: a legal continuation block is accepted as the operation that it names. -/
theorem exec_mmac_accepted {g : Grd} {la : BitVec 4} {a : BitVec 8} {s s1 s2 : State} {loc : Loc} {bs : List Byte} {c : Contin}
    (hc : s.clear (.mmac g la a) = true) (ha : s.active g ≠ [])
    (hcheck : s.checkAccess s.cur.team s.cur.gang .glob ((s.curGang.readS a.toNat).toNat : Int) 64 .read = (s1, .ok loc))
    (hload : s1.loadLoc s1.cur.team s1.cur.gang loc 64 true = (s2, bs, false)) (hblock : continOf bs = some c)
    (hpair : c.pair = true → mmapIllegal s2.curTeam s1.cur.gang = false ∧ (s2.core (followerCore s2.curTeam)).matOff = false ∧
      s2.arrayBusy (followerCore s2.curTeam) = false)
    (hacc : c.acc < usableAccs s2.curTeam.launch s2.curGang) {o : MatOp} (hop : continOp c s2.nextId s1.cur.team s1.cur.gang = o)
    (ho : operandsBad s2.curTeam s1.cur.gang c.pair c.fmt c.kb c.acc o.ta o.tb o.ring = false)
    (hoff : (s2.core s2.curGang.core).matOff = false) (hroom : s2.arrayBusy s2.curGang.core = false) :
    exec (.mmac g la a) s = .next ((({ s2 with nextId := s2.nextId + 1 } : State).enterArray o).openWindow la.toNat [.c c.acc]
      (.matrix o.id) [] [] none) := by
  show execMmac g la a s = _
  rw [execMmac, tileWord_clear hc ha]
  dsimp only
  rw [State.checkLanes_one hcheck, Checked.settle_ok _ rfl]
  dsimp only
  rw [hload]
  dsimp only
  subst hop
  rw [hblock]
  dsimp only
  rw [ho, hoff, hroom]
  cases hp : c.pair with
  | false => simp [Nat.not_le.mpr hacc]
  | true =>
    obtain ⟨hlegal, hworks, hother⟩ := hpair hp
    simp [Nat.not_le.mpr hacc, hlegal, hworks, hother]

/-- Settles O30. `mma` and `mmap` are one word whose checks leave no lane over (`matrixWord_accepted`); `mmac` accepts the operation of its
block whatever accumulator is pending, which is the model's choice (notes/assumptions/49.md), as is what `ringBad` compares
(notes/assumptions/75.md). -/
theorem matrixWordsAreAccepted : Obligations.MatrixWordsAreAccepted := by
  refine ⟨fun g la ring nosplit d ta tb f k w s hc ha hf hv ho hoff hroom => ?_,
    fun g la ring nosplit wide d ta tb f k w s hc ha hlegal hfree hf hsame hv ho hoff hworks hroom hother => ?_,
    fun g la a s s1 s2 loc bs c hc ha hcheck hload hblock hpair hacc ho hoff hroom =>
      exec_mmac_accepted hc ha hcheck hload hblock hpair hacc rfl ho hoff hroom⟩
  · exact matrixWord_accepted hc ha hf hv (fun h => Bool.noConfusion h) ho hoff hroom
  · exact matrixWord_accepted hc ha hf hv (fun _ => ⟨hlegal, hfree, hsame, hworks, hother⟩) ho hoff hroom

end Sys2Proof.Machine
end

section
/-! Barriers (R232 to R236): the barrier words, the test at the end of a cycle, and the lanes that a flip frees. -/

namespace Sys2Proof.Machine

open Sys2Proof.Safety

/-! ### The words -/

section
variable {g : Grd} {n : BitVec 8} {s : State}

theorem badCount_of_range {G : Gang} {c : Option (BitVec 8)} (hn : ∀ r ∈ c, 1 ≤ (G.readS r.toNat).toNat ∧ (G.readS r.toNat).toNat ≤ 16) :
    badCount (barCount G c) = false := by
  cases c with
  | none => rfl
  | some r =>
    obtain ⟨h1, h16⟩ := hn r rfl
    simp [badCount, barCount, Nat.not_lt.mpr h16, Nat.ne_of_gt h1]

theorem exec_barSync {c : Option (BitVec 8)} (hc : s.clear (.barSync g n c) = true) (ha : s.active g ≠ [])
    (hn : ∀ r ∈ c, 1 ≤ (s.curGang.readS r.toNat).toNat ∧ (s.curGang.readS r.toNat).toNat ≤ 16)
    (hs : s.storesPending s.cur.team s.cur.gang .team = false) :
    exec (.barSync g n c) s = .next (((s.arrive n.toNat (s.active g) (c.map (fun r => (s.curGang.readS r.toNat).toNat))).park
      (s.active g) (fun _ => .bar n.toNat)).askFlip s.cur.team n.toNat) := by
  show execBarSync g n c s = _
  rw [execBarSync, runWord_clear hc]
  simp only [List.isEmpty_iff, ha, badCount_of_range hn, barBusy, hs, if_false, Bool.false_eq_true]
  rfl

theorem exec_barArv {c : Option (BitVec 8)} (hc : s.clear (.barArv g n c) = true) (ha : s.active g ≠ [])
    (hn : ∀ r ∈ c, 1 ≤ (s.curGang.readS r.toNat).toNat ∧ (s.curGang.readS r.toNat).toNat ≤ 16)
    (hs : s.storesPending s.cur.team s.cur.gang .team = false) :
    exec (.barArv g n c) s = .next (((s.arrive n.toNat (s.active g) (c.map (fun r => (s.curGang.readS r.toNat).toNat))).finish
      true).askFlip s.cur.team n.toNat) := by
  show execBarArv g n c s = _
  rw [execBarArv, runWord_clear hc]
  simp only [List.isEmpty_iff, ha, badCount_of_range hn, barBusy, hs, if_false, Bool.false_eq_true]
  rfl

theorem exec_barWait (hc : s.clear (.barWait g n) = true) :
    exec (.barWait g n) s = if (s.bar s.cur.team n.toNat).ph = tget 0 (s.bar s.cur.team n.toNat).pg s.cur.gang
      then .next (s.park (s.active g) (fun _ => .bar n.toNat)) else .next (s.finish true) := by
  show execBarWait g n s = _
  rw [execBarWait, runWord_clear hc]

theorem exec_barBytes {b : BitVec 8} (hc : s.clear (.barBytes g n b) = true) (ha : s.active g ≠ []) :
    exec (.barBytes g n b) s =
      .next ((s.finish true).addPend s.cur.team n.toNat ((s.curGang.readS b.toNat).setWidth 32)) := by
  show execBarBytes g n b s = _
  rw [execBarBytes, runWord_clear hc]
  exact if_neg (by simpa using ha)
end

/-! ### The lanes of one gang -/

/-- R232: what a flip of barrier `n` makes of the lanes of a gang: `far` tells that it is not on the leader's core. -/
def Gang.FlipFrees (n : Nat) (far : Prop) (now : Nat) (G H : Gang) : Prop :=
  ∀ l < G.width,
    (G.laneState l = .waiting (.bar n) → (H.laneState l = .ready ∧ H.pc l = G.pc l + 8) ∨
      (far ∧ H.pc l = G.pc l ∧ ∃ c, now + 1 < c ∧ c ≤ now + 5 ∧ H.laneState l = .waiting (.delayed c))) ∧
    (G.laneState l ≠ .waiting (.bar n) → H.laneState l = G.laneState l ∧ H.pc l = G.pc l)

section
variable {G : Gang} {n now l : Nat} {far : Prop}

theorem Gang.mem_waiters_onBar : l ∈ G.waiters (onBar n) ↔ l < G.width ∧ G.laneState l = .waiting (.bar n) := by
  unfold Gang.waiters Gang.allLanes upto
  rw [List.mem_filter, List.mem_range]
  refine and_congr_right (fun _ => ?_)
  split
  · next w hw => cases w <;> simp [hw, onBar]
  · next hno => exact ⟨fun h => absurd h Bool.false_ne_true, fun h => absurd h (hno _)⟩

/-- No wait on a barrier names a predicate. -/
theorem Gang.wake_onBar (G : Gang) (n : Nat) (v : Bool) : G.wake v (onBar n) = G.leaveWait (G.waiters (onBar n)) := by
  refine congrArg (Gang.leaveWait · _) (List.foldlRecOn (motive := (· = G)) _ _ rfl ?_)
  rintro _ rfl l hl
  simp [(Gang.mem_waiters_onBar.mp hl).2, wakePred]

theorem Gang.FlipFrees.of_no_waiters (h : G.waiters (onBar n) = []) : Gang.FlipFrees n far now G G := fun l hl =>
  ⟨fun hwait => absurd (Gang.mem_waiters_onBar.mpr ⟨hl, hwait⟩) (by simp [h]), fun _ => ⟨rfl, rfl⟩⟩

theorem Gang.FlipFrees.wake (hp : noRep G = true) : Gang.FlipFrees n far now G (G.wake true (onBar n)) := fun l hl => by
  have hlane := Gang.leaveWait_lane hp (G.waiters_nodup (onBar n)) l
  rw [← Gang.wake_onBar G n true] at hlane
  refine ⟨fun hwait => ?_, fun hwait => ?_⟩
  · rw [if_pos (Gang.mem_waiters_onBar.mpr ⟨hl, hwait⟩)] at hlane
    simp only [Prod.mk.injEq] at hlane
    exact .inl ⟨hlane.1, hlane.2.1⟩
  · rw [if_neg (fun h => hwait (Gang.mem_waiters_onBar.mp h).2)] at hlane
    simp only [Prod.mk.injEq] at hlane
    exact ⟨hlane.1, hlane.2.1⟩

/-- R232: the lanes of a gang that are to go on `k` core cycles later than those of the leader's core. -/
def Gang.delayBar (G : Gang) (n : Nat) (cyc : Nat → Nat) (k : Nat) : Gang :=
  G.eachLane (G.waiters (onBar n)) (fun G l => G.setLane l (.waiting (.delayed (cyc G.core + 1 + k))))

theorem Gang.delayBar_lane (G : Gang) (n : Nat) (cyc : Nat → Nat) (k l : Nat) :
    (((G.delayBar n cyc k).laneState l, (G.delayBar n cyc k).pc l, (G.delayBar n cyc k).core) : LaneState × W64 × Nat) =
      if l ∈ G.waiters (onBar n) then (.waiting (.delayed (cyc G.core + 1 + k)), G.pc l, G.core) else (G.laneState l, G.pc l, G.core) :=
  Gang.eachLane_seen (q := fun G => (G.laneState l, G.pc l, G.core)) (v := fun x => (.waiting (.delayed (cyc x.2.2 + 1 + k)), x.2))
    (G.waiters_nodup (onBar n)) (fun H => by simp [Gang.laneState, Gang.setLane, Gang.pc])
    (fun H j _ hj => by simp [Gang.laneState, Gang.setLane, Gang.pc, tget_tset_ne _ _ hj.symm]) G

theorem Gang.FlipFrees.delay {cyc : Nat → Nat} {k : Nat} (hfar : far) (hk : 0 < k) (hk5 : k < 5) :
    Gang.FlipFrees n far (cyc G.core) G (G.delayBar n cyc k) := fun l hl => by
  have hlane := G.delayBar_lane n cyc k l
  refine ⟨fun hwait => ?_, fun hwait => ?_⟩
  · rw [if_pos (Gang.mem_waiters_onBar.mpr ⟨hl, hwait⟩)] at hlane
    simp only [Prod.mk.injEq] at hlane
    exact .inr ⟨hfar, hlane.2.1, _, by omega, by omega, hlane.1⟩
  · rw [if_neg (fun h => hwait (Gang.mem_waiters_onBar.mp h).2)] at hlane
    simp only [Prod.mk.injEq] at hlane
    exact ⟨hlane.1, hlane.2.1⟩
end

/-! ### The gangs of a team -/

/-- R232: the gang of one row of a team is freed. -/
def State.freeGang (t n : Nat) (s : State) (p : Nat × Gang) : State :=
  if (p.2.waiters (onBar n)).isEmpty then s
  else if p.2.core = (s.team t).core then s.setGang t p.1 (p.2.wake true (onBar n))
  else if s.free.1.toNat % 5 = 0 then s.free.2.setGang t p.1 (p.2.wake true (onBar n))
  else s.free.2.setGang t p.1 (p.2.delayBar n (fun c => (s.quarter (quarterOfCore c)).cyc) (s.free.1.toNat % 5))

theorem State.freeBar_eq (s : State) (t n : Nat) : s.freeBar t n = (s.team t).gangs.foldl (State.freeGang t n) s := rfl

theorem tfind_of_mem_unique {α : Type} {t : Tbl α} {p : Nat × α} (hp : p ∈ t) (h : ∀ q ∈ t, q.1 = p.1 → q = p) : tfind t p.1 = some p.2 := by
  induction t with
  | nil => cases hp
  | cons q t ih =>
    by_cases hk : p.1 = q.1
    · cases h q List.mem_cons_self hk.symm
      exact if_pos rfl
    · refine (if_neg hk).trans (ih (List.mem_of_ne_of_mem (fun e => hk (congrArg Prod.fst e)) hp) (fun q hq => h q (List.mem_cons_of_mem _ hq)))

/-- What the gangs of team `t` are freed by stays while they are freed. -/
def State.FlipFrame (t : Nat) (s u : State) : Prop :=
  (u.team t).core = (s.team t).core ∧ (u.team t).bars = (s.team t).bars ∧ u.quarters = s.quarters

section
variable {s u : State} {t n : Nat} {p : Nat × Gang}

theorem State.FlipFrame.setGang (h : s.FlipFrame t u) {v : State} (hv : v.teams = u.teams) (hq : v.quarters = u.quarters) (j : Nat) (H : Gang) :
    s.FlipFrame t (v.setGang t j H) := by
  obtain ⟨hcore, hbars, hquarters⟩ := h
  have hteam : (v.setGang t j H).team t = (u.team t).setGang j H := by
    rw [State.setGang, State.team_modTeam, State.team, hv]
    rfl
  exact ⟨by rw [hteam, Team.setGang_core, hcore], by rw [hteam, Team.setGang_bars, hbars], hq.trans hquarters⟩

/-- R232: a row of the team's gangs is freed in its place, and nothing else that frees gangs changes. -/
theorem State.freeGang_cases (s : State) (t n : Nat) (p : Nat × Gang) :
    (p.2.waiters (onBar n) = [] ∧ s.freeGang t n p = s) ∨
    ∃ (v : State) (H : Gang), s.freeGang t n p = v.setGang t p.1 H ∧ v.teams = s.teams ∧ v.quarters = s.quarters ∧
      (noRep p.2 = true → p.2.FlipFrees n (p.2.core ≠ (s.team t).core) (s.quarter (quarterOfCore p.2.core)).cyc H) := by
  unfold State.freeGang
  split
  · next h => exact .inl ⟨by simpa using h, rfl⟩
  · refine .inr ?_
    split
    · exact ⟨s, _, rfl, rfl, rfl, fun hp => .wake hp⟩
    · next hfar =>
      split
      · exact ⟨s.free.2, _, rfl, rfl, rfl, fun hp => .wake hp⟩
      · next hk =>
        exact ⟨s.free.2, _, rfl, rfl, rfl, fun _ =>
          .delay (cyc := fun c => (s.quarter (quarterOfCore c)).cyc) hfar (Nat.pos_of_ne_zero hk) (Nat.mod_lt _ (by decide))⟩

theorem State.FlipFrame.freeGang (h : s.FlipFrame t u) (p : Nat × Gang) : s.FlipFrame t (u.freeGang t n p) := by
  rcases u.freeGang_cases t n p with ⟨-, he⟩ | ⟨v, H, he, hv, hq, -⟩
  · rw [he]
    exact h
  · rw [he]
    exact h.setGang hv hq p.1 H

/-- R234: the gang of a row is as it was, or freed. -/
def State.FlipState (s : State) (t n : Nat) (p : Nat × Gang) (freed : Bool) (u : State) : Prop :=
  s.FlipFrame t u ∧
    ((freed = false ∧ u.gang t p.1 = p.2) ∨
      p.2.FlipFrees n (p.2.core ≠ (s.team t).core) (s.quarter (quarterOfCore p.2.core)).cyc (u.gang t p.1))

theorem State.FlipState.freeGang_self {freed : Bool} (h : s.FlipState t n p freed u) (hp : noRep p.2 = true) :
    s.FlipState t n p true (u.freeGang t n p) := by
  obtain ⟨hframe, hgang⟩ := h
  refine ⟨hframe.freeGang p, .inr ?_⟩
  obtain ⟨hcore, -, hquarters⟩ := hframe
  rcases u.freeGang_cases t n p with ⟨hnone, he⟩ | ⟨v, H, he, hv, hq, hfrees⟩
  · rw [he]
    rcases hgang with ⟨-, hsame⟩ | hfreed
    · rw [hsame]
      exact .of_no_waiters hnone
    · exact hfreed
  · rw [he, State.gang_setGang]
    have := hfrees hp
    rwa [hcore, State.quarter, hquarters] at this

theorem State.FlipState.freeGang {freed : Bool} {x : Nat × Gang} (h : s.FlipState t n p freed u) (hp : noRep p.2 = true)
    (hx : x.1 = p.1 → x = p) : s.FlipState t n p freed (u.freeGang t n x) := by
  by_cases hk : x.1 = p.1
  · cases hx hk
    obtain ⟨hframe, hgang⟩ := h.freeGang_self hp
    exact ⟨hframe, .inr (hgang.resolve_left (fun h => Bool.noConfusion h.1))⟩
  · obtain ⟨hframe, hgang⟩ := h
    refine ⟨hframe.freeGang x, ?_⟩
    have hsame : (u.freeGang t n x).gang t p.1 = u.gang t p.1 := by
      rcases u.freeGang_cases t n x with ⟨-, he⟩ | ⟨v, H, he, hv, -, -⟩
      · rw [he]
      · rw [he, State.gang, State.setGang, State.team_modTeam, Team.gang_setGang_ne _ (Ne.symm hk), State.team, hv]
        rfl
    rwa [hsame]

/-- R232, R234: every gang of the team is freed, in whatever order. -/
theorem State.freeBar_frees (hmem : p ∈ (s.team t).gangs) (huniq : ∀ q ∈ (s.team t).gangs, q.1 = p.1 → q = p) (hp : noRep p.2 = true) :
    p.2.FlipFrees n (p.2.core ≠ (s.team t).core) (s.quarter (quarterOfCore p.2.core)).cyc ((s.freeBar t n).gang t p.1) := by
  have hstart : s.gang t p.1 = p.2 := by
    rw [State.gang, Team.gang, tget, tfind_of_mem_unique hmem huniq, Option.getD_some]
  have hfreed : s.FlipState t n p true (s.freeBar t n) := by
    rw [State.freeBar_eq, ← List.foldl_attach]
    exact foldl_of_mem (P := s.FlipState t n p false) (a := ⟨p, hmem⟩) (List.mem_attach ..) ⟨⟨rfl, rfl, rfl⟩, .inl ⟨rfl, hstart⟩⟩
      (fun u x h => h.freeGang hp (huniq x.1 x.2)) (fun u h => h.freeGang_self hp) (fun u x h => h.freeGang hp (huniq x.1 x.2))
  exact hfreed.2.resolve_left (fun h => Bool.noConfusion h.1)

theorem State.freeBar_frame (s : State) (t n : Nat) : s.FlipFrame t (s.freeBar t n) :=
  List.foldlRecOn (motive := s.FlipFrame t) _ _ ⟨rfl, rfl, rfl⟩ (fun _ h x _ => h.freeGang x)
end

/-! ### The test -/

/-- R234: the count that a barrier expects. -/
def State.expects (s : State) (t n : Nat) : Nat :=
  if (s.bar t n).exp ≠ 0 then (s.bar t n).exp else ((s.team t).gangs.filter (fun p => !p.2.finished)).length

section
variable {s : State} {t n : Nat}

theorem State.expects_eq (s : State) (t n : Nat) :
    s.expects t n = if (s.bar t n).exp ≠ 0 then (s.bar t n).exp else (s.team t).unfinished.length := by
  rw [State.expects, Team.unfinished, List.length_map]

theorem State.tryFlip_waits (h : ¬(1 ≤ s.expects t n ∧ s.expects t n ≤ (s.bar t n).arr.toNat ∧ (s.bar t n).pend = 0)) :
    s.tryFlip t n = s := by
  rw [State.expects_eq] at h
  exact if_neg h

/-- R234: a flip on the die. -/
theorem State.tryFlip_flips (h : 1 ≤ s.expects t n ∧ s.expects t n ≤ (s.bar t n).arr.toNat ∧ (s.bar t n).pend = 0)
    (hdie : (s.team t).onDie = true) :
    s.tryFlip t n = (s.setBar t n { s.bar t n with ph := 1 - (s.bar t n).ph, arr := 0, exp := 0 }).freeBar t n := by
  rw [State.expects_eq] at h
  exact (if_pos h).trans (if_pos hdie)

theorem State.bar_setBar (s : State) (t n : Nat) (B : Bar) : (s.setBar t n B).bar t n = B := by
  simp [State.bar, State.setBar, State.team_modTeam]
end

/-- Settles O23. -/
theorem barriersCountArrivalsAndFlip : Obligations.BarriersCountArrivalsAndFlip := by
  unfold Obligations.BarriersCountArrivalsAndFlip
  refine ⟨⟨fun g n c s => exec_barSync, fun g n c s => exec_barArv, fun g n s hc => ⟨fun h => ?_, fun h => ?_⟩, fun g n b s => exec_barBytes⟩,
    fun s t n => ⟨fun h => ?_, State.tryFlip_waits, fun h1 hle hpend hdie => ?_⟩⟩
  · rw [exec_barWait hc, if_pos h]
  · rw [exec_barWait hc, if_neg h]
  · rw [State.settleBars, h]
    rfl
  · rw [State.tryFlip_flips ⟨h1, hle, hpend⟩ hdie]
    have hteam (B : Bar) : (s.setBar t n B).team t = { s.team t with bars := tput (s.team t).bars n B } := State.team_modTeam ..
    refine ⟨?_, fun p hmem huniq hp => ?_⟩
    · obtain ⟨-, hbars, -⟩ := State.freeBar_frame (s.setBar t n { s.bar t n with ph := 1 - (s.bar t n).ph, arr := 0, exp := 0 }) t n
      rw [State.bar, hbars]
      exact State.bar_setBar ..
    · have hfrees := State.freeBar_frees (n := n) (s := s.setBar t n { s.bar t n with ph := 1 - (s.bar t n).ph, arr := 0, exp := 0 })
        (t := t) (p := p) (by rw [hteam]; exact hmem) (by rw [hteam]; exact huniq) hp
      rw [hteam] at hfrees
      exact hfrees

end Sys2Proof.Machine
end

section
/-! Waits on words of scratch, and fences (R237, R239, R242). -/

namespace Sys2Proof.Machine

open Sys2Proof.Safety

/-! ### Lanes that wait, each on its own -/

/-- A lane begins to wait at a TIME on what the function names for it. -/
def Gang.beginWaitOn (w : Nat → WaitOn) (now : Nat) (G : Gang) (l : Nat) : Gang := Gang.beginWait (w l) now G l

section
variable {ls : List Nat} {w : Nat → WaitOn} {now : Nat}

theorem Gang.laneState_beginWaitsOn (G : Gang) (hn : ls.Nodup) (l : Nat) :
    (G.eachLane ls (Gang.beginWaitOn w now)).laneState l = if l ∈ ls then .waiting (w l) else G.laneState l :=
  Gang.eachLane_seen (q := fun G => G.laneState l) (v := fun _ => .waiting (w l)) (f := Gang.beginWaitOn w now) hn
    (fun H => H.laneState_setLane_same l (.waiting (w l))) (fun H j _ hj => H.laneState_setLane_ne hj.symm (.waiting (w j))) G

theorem Gang.beginWaitsOn_frame (G : Gang) (ls : List Nat) (w : Nat → WaitOn) (now : Nat) :
    ∃ lst since, G.eachLane ls (Gang.beginWaitOn w now) = { G with lst := lst, since := since } :=
  List.foldlRecOn (motive := fun H : Gang => ∃ lst since, H = { G with lst := lst, since := since }) ls _ ⟨_, _, rfl⟩ (fun _ h _ _ => by
    obtain ⟨lst, since, rfl⟩ := h
    exact ⟨_, _, rfl⟩)

/-- R178: outside a sequence the word ends with the lanes that wait at it, and then they wait. -/
theorem State.park_lanes {s : State} (h : noRep s.curGang = true) :
    s.park ls w = s.setCur ((s.curGang.closeWord s.runLanes true
      (fun l => if ls.elem l then s.cur.pc else s.cur.pc + 8)).eachLane ls (Gang.beginWaitOn w s.time)) := by
  unfold State.park State.parkWith
  split
  · next hnil =>
    obtain rfl : ls = [] := by simpa using hnil
    rfl
  · dsimp only
    split
    · next hp => exact absurd hp (noRep_ne h _ _ _ _ _ _)
    · rw [State.finishAt, State.setCur_setCur, State.curGang_setCur]
      rfl

theorem State.park_spec {s : State} (h : noRep s.curGang = true) (hn : ls.Nodup) (hsub : ∀ l ∈ ls, l ∈ s.runLanes) :
    ∃ H, s.park ls w = s.setCur H ∧ (∀ l ∈ ls, H.laneState l = .waiting (w l) ∧ H.pc l = s.cur.pc) ∧
      (∀ l ∈ s.runLanes, l ∉ ls → H.pc l = s.cur.pc + 8) ∧ (∀ l, l ∉ ls → H.laneState l = s.curGang.laneState l) ∧
      Moved { s.curGang with lst := H.lst, since := H.since } H := by
  obtain ⟨hpc, -, -, hmoved⟩ := Gang.closeWord_moves (e := true) h s.runLanes_nodup
    (fun l => if ls.elem l then s.cur.pc else s.cur.pc + 8)
  refine ⟨_, State.park_lanes h, ?_⟩
  generalize s.curGang.closeWord s.runLanes true (fun l => if ls.elem l then s.cur.pc else s.cur.pc + 8) = C at hpc hmoved
  have hstate := C.laneState_beginWaitsOn (w := w) (now := s.time) hn
  have hsame (l : Nat) : C.laneState l = s.curGang.laneState l := (congrArg (Gang.laneState · l) hmoved :)
  obtain ⟨lst, since, hframe⟩ := C.beginWaitsOn_frame ls w s.time
  rw [hframe] at hstate ⊢
  refine ⟨fun l hl => ⟨(hstate l).trans (if_pos hl), (hpc l (hsub l hl)).trans (if_pos (by simpa using hl))⟩,
    fun l hl hnot => (hpc l hl).trans (if_neg (by simpa using hnot)), fun l hnot => ((hstate l).trans (if_neg hnot)).trans (hsame l), ?_⟩
  exact (congrArg (fun G : Gang => { G with lst := lst, since := since }) hmoved :)
end

/-! ### The rows of a wait -/

/-- R237: what a wait finds for one lane: its place in scratch and the value of the word there. -/
def State.waitRow (s : State) (wide : Bool) (a : Opd) (l : Nat) : Nat × Loc × Nat × Bool :=
  (l, .scr (waitAddr s.curGang true a l).toNat, numOfBytes (scratchBytes s (waitAddr s.curGang true a l).toNat (waitWidth wide)), false)

/-- R237: the rows of the lanes whose word is as expected. -/
def State.sameRows (s : State) (g : Grd) (wide : Bool) (a b : Opd) : List (Nat × Loc × Nat × Bool) :=
  ((s.active g).map (s.waitRow wide a)).filter (fun v => decide (v.2.2.1 = waitExpected s.curGang wide b v.1))

/-- The block that a lane of a wait monitors. -/
def waitBlock (rows : List (Nat × Loc × Nat × Bool)) (l : Nat) : Nat :=
  match rows.find? (fun v => decide (v.1 = l)) with
  | some v => locBlock v.2.1
  | none => 0

section
variable {s : State} {g : Grd} {wide : Bool} {a b : Opd}

theorem State.sameRows_lanes (s : State) (g : Grd) (wide : Bool) (a b : Opd) :
    (s.sameRows g wide a b).map (·.1) = (s.active g).filter (fun l => decide
      (numOfBytes (scratchBytes s (waitAddr s.curGang true a l).toNat (waitWidth wide)) = waitExpected s.curGang wide b l)) := by
  rw [State.sameRows, List.filter_map, List.map_map]
  exact List.map_id _

theorem State.waitBlock_sameRows {l : Nat} (hl : l ∈ (s.sameRows g wide a b).map (·.1)) :
    waitBlock (s.sameRows g wide a b) l = (waitAddr s.curGang true a l).toNat / 128 := by
  obtain ⟨v, hv, rfl⟩ := List.mem_map.mp hl
  have hfound : ((s.sameRows g wide a b).find? (fun x => decide (x.1 = v.1))).isSome = true :=
    List.find?_isSome.mpr ⟨v, hv, decide_eq_true rfl⟩
  obtain ⟨x, hx⟩ := Option.isSome_iff_exists.mp hfound
  obtain ⟨m, -, rfl⟩ := List.mem_map.mp (List.mem_filter.mp (List.mem_of_find?_eq_some hx)).1
  have hlane : m = v.1 := of_decide_eq_true (List.find?_some hx :)
  rw [waitBlock, hx, ← hlane]
  rfl

/-- R237: the words of lanes at good scratch addresses, which no monitor changes. -/
theorem State.armAll_scratch (ls : List Nat) (h : ∀ l ∈ ls, goodScratch s (waitWidth wide) (waitAddr s.curGang true a l)) :
    s.armAll s.cur.team s.cur.gang (waitWidth wide) (ls.map (fun l => (l, .scr (waitAddr s.curGang true a l).toNat))) =
      (s, ls.map (s.waitRow wide a)) := by
  unfold State.armAll
  rw [List.foldl_map]
  refine foldl_collects (fun vs => (s, vs)) (s.waitRow wide a) _ ls (fun vs l hl => ?_) []
  dsimp only
  rw [State.armAndLoad, State.loadLoc_scratch (h l hl)]
  rfl

theorem State.sameRows_clean (ls : List Nat) : (((ls.map (s.waitRow wide a)).filter (fun v => v.2.2.2)).map (·.1)) = [] := by
  simp [State.waitRow]

/-- R237, R239: a wait on words of scratch, at a time or without one. -/
theorem waitWord_scratch {i : Instr} {timed : Option (BitVec 8 × BitVec 8)} (hc : s.clear i = true)
    (hgood : ∀ l ∈ s.active g, goodScratch s (waitWidth wide) (waitAddr s.curGang true a l)) :
    waitWord i g wide true a b timed s =
      (let rows := s.sameRows g wide a b
       match timed with
       | none => .next (s.park (rows.map (·.1)) (fun l => .memory true (waitBlock rows l) none none))
       | some (d, c) =>
         let sleep := if (s.curGang.readS c.toNat).toNat = 0 then [] else rows
         let out := (s.active g).filter (fun l => !(sleep.map (·.1)).elem l)
         .next ((s.setCur (s.curGang.eachLane out (fun G l => G.writeK l d.toNat (!(rows.map (·.1)).elem l)))).park (sleep.map (·.1))
           (fun l => .memory true (waitBlock rows l) (some d.toNat) (some (s.time + (s.curGang.readS c.toNat).toNat))))) := by
  rw [waitWord, runWord_clear hc]
  dsimp only
  rw [if_pos rfl, State.checkLanes_scratch s s.cur.team s.cur.gang _ .read (waitAddr s.curGang true a) _ (fun l hl => inScratchpad_of_good (hgood l hl)),
    Checked.settle_ok _ rfl]
  dsimp only
  rw [State.armAll_scratch _ hgood]
  dsimp only
  rw [State.sameRows_clean]
  cases timed <;> rfl
end

/-! ### The words -/

section
variable {s : State} {g : Grd} {wide : Bool} {a b : Opd}

/-- R237: the word of a lane is as the wait expects it. -/
def State.waitSame (s : State) (wide : Bool) (a b : Opd) (l : Nat) : Prop :=
  numOfBytes (scratchBytes s (waitAddr s.curGang true a l).toNat (waitWidth wide)) = waitExpected s.curGang wide b l

theorem State.mem_sameRows {l : Nat} : l ∈ (s.sameRows g wide a b).map (·.1) ↔ l ∈ s.active g ∧ s.waitSame wide a b l := by
  rw [State.sameRows_lanes, List.mem_filter, decide_eq_true_eq]
  rfl

theorem State.sameRows_nodup : ((s.sameRows g wide a b).map (·.1)).Nodup := by
  rw [State.sameRows_lanes]
  exact (s.active_nodup g).filter _

theorem exec_waitA_scratch (hc : s.clear (.waitA g wide true a b) = true) (hp : noRep s.curGang = true)
    (hgood : ∀ l ∈ s.active g, goodScratch s (waitWidth wide) (waitAddr s.curGang true a l)) :
    GangStep s (exec (.waitA g wide true a b) s) (fun H =>
      (∀ l ∈ s.active g, s.waitSame wide a b l →
        H.laneState l = .waiting (.memory true ((waitAddr s.curGang true a l).toNat / 128) none none) ∧ H.pc l = s.cur.pc) ∧
      (∀ l ∈ s.runLanes, ¬(l ∈ s.active g ∧ s.waitSame wide a b l) → H.pc l = s.cur.pc + 8 ∧ H.laneState l = s.curGang.laneState l) ∧
      SameRegs s.curGang H) := by
  obtain ⟨H, hpark, hwait, hgo, hstay, hmoved⟩ := State.park_spec (w := fun l => .memory true (waitBlock (s.sameRows g wide a b) l) none none)
    hp (s.sameRows_nodup (g := g) (wide := wide) (a := a) (b := b)) (fun l hl => State.active_sub (State.mem_sameRows.mp hl).1)
  have hexec : exec (.waitA g wide true a b) s = .next (s.setCur H) := by
    rw [← hpark]
    exact waitWord_scratch (timed := none) hc hgood
  have hregs := sameRegs_of_moved hmoved
  refine ⟨H, hexec, fun l hl hsame => ?_, fun l hl hnot => ?_, hregs⟩
  · have hrow := State.mem_sameRows.mpr ⟨hl, hsame⟩
    rw [← State.waitBlock_sameRows hrow]
    exact hwait l hrow
  · have hout := fun h => hnot (State.mem_sameRows.mp h)
    exact ⟨hgo l hl hout, hstay l hout⟩

/-- R239: what the lanes that do not wait write first. -/
def Gang.writeKs (G : Gang) (ls : List Nat) (k : Nat) (v : Nat → Bool) : Gang := G.eachLane ls (fun G l => G.writeK l k (v l))

theorem Gang.writeKs_frame (G : Gang) (ls : List Nat) (k : Nat) (v : Nat → Bool) : ∃ preds, G.writeKs ls k v = { G with preds := preds } :=
  List.foldlRecOn (motive := fun H : Gang => ∃ preds, H = { G with preds := preds }) ls _ ⟨_, rfl⟩ (fun _ h _ _ => by
    obtain ⟨preds, rfl⟩ := h
    exact ⟨_, rfl⟩)

theorem Gang.readK_writeKs (G : Gang) {ls : List Nat} (hn : ls.Nodup) {k : Nat} (hk : k < 16) (v : Nat → Bool) {l : Nat} (hl : l ∈ ls) :
    (G.writeKs ls k v).readK l k = v l :=
  (Gang.eachLane_seen (q := fun G => G.readK l k) (v := fun _ => v l) (f := fun G l => G.writeK l k (v l)) hn
    (fun H => H.readK_writeK_same l hk _) (fun H _ _ hj => H.readK_writeK_ne (fun h => hj h.1.symm) _) G).trans (if_pos hl)

/-- R239: the lanes that wait at a time: none for the time 0. -/
def State.sleepers (s : State) (g : Grd) (wide : Bool) (a b : Opd) (c : BitVec 8) : List Nat :=
  (if (s.curGang.readS c.toNat).toNat = 0 then [] else s.sameRows g wide a b).map (·.1)

theorem State.mem_sleepers {c : BitVec 8} {l : Nat} :
    l ∈ s.sleepers g wide a b c ↔ l ∈ s.active g ∧ s.waitSame wide a b l ∧ (s.curGang.readS c.toNat).toNat ≠ 0 := by
  rw [State.sleepers]
  split
  · next h => simp [h]
  · next h =>
    rw [State.mem_sameRows]
    simp [h]

/-- R239: the predicates that a `wait.t` writes before some of its lanes wait. -/
def State.waitMarked (s : State) (g : Grd) (wide : Bool) (d : BitVec 8) (a b : Opd) (c : BitVec 8) : Gang :=
  s.curGang.writeKs ((s.active g).filter (fun l => !(s.sleepers g wide a b c).elem l)) d.toNat
    (fun l => !((s.sameRows g wide a b).map (·.1)).elem l)

theorem State.readK_waitMarked {d c : BitVec 8} (hd : d.toNat < 16) {l : Nat} (hl : l ∈ s.active g) (hout : l ∉ s.sleepers g wide a b c) :
    (s.waitMarked g wide d a b c).readK l d.toNat = !((s.sameRows g wide a b).map (·.1)).elem l :=
  Gang.readK_writeKs _ ((s.active_nodup g).filter _) hd _ (List.mem_filter.mpr ⟨hl, by simpa using hout⟩)

theorem exec_waitT_scratch {d c : BitVec 8} (hc : s.clear (.waitT g wide true d a b c) = true) (hp : noRep s.curGang = true)
    (hgood : ∀ l ∈ s.active g, goodScratch s (waitWidth wide) (waitAddr s.curGang true a l)) :
    GangStep s (exec (.waitT g wide true d a b c) s) (fun H =>
      (∀ l ∈ s.active g, ¬s.waitSame wide a b l → H.readK l d.toNat = true ∧ H.pc l = s.cur.pc + 8) ∧
      (∀ l ∈ s.active g, s.waitSame wide a b l → s.curGang.readS c.toNat = 0 → H.readK l d.toNat = false ∧ H.pc l = s.cur.pc + 8) ∧
      (∀ l ∈ s.active g, s.waitSame wide a b l → s.curGang.readS c.toNat ≠ 0 → H.pc l = s.cur.pc ∧
        H.laneState l = .waiting (.memory true ((waitAddr s.curGang true a l).toNat / 128) (some d.toNat)
          (some (s.time + (s.curGang.readS c.toNat).toNat)))) ∧
      H.pool = s.curGang.pool ∧ H.s = s.curGang.s ∧ H.m = s.curGang.m) := by
  have hd : d.toNat < 16 := legal_pred hc d.toNat List.mem_cons_self
  obtain ⟨preds, hmark⟩ : ∃ preds, s.waitMarked g wide d a b c = { s.curGang with preds := preds } := Gang.writeKs_frame ..
  have hread {l : Nat} (hl : l ∈ s.active g) (hout : l ∉ s.sleepers g wide a b c) := State.readK_waitMarked hd hl hout
  generalize hK : s.waitMarked g wide d a b c = K at hmark hread
  have hp' : noRep (s.setCur K).curGang = true := by rwa [State.curGang_setCur, hmark]
  have hrun : (s.setCur K).runLanes = s.runLanes := by
    rw [State.runLanes, State.curGang_setCur, hmark]
    rfl
  have hnodup : (s.sleepers g wide a b c).Nodup := by
    rw [State.sleepers]
    split
    · exact List.nodup_nil
    · exact State.sameRows_nodup
  obtain ⟨H, hpark, hwait, hgo, -, hmoved⟩ := State.park_spec (s := s.setCur K)
    (w := fun l => .memory true (waitBlock (s.sameRows g wide a b) l) (some d.toNat) (some (s.time + (s.curGang.readS c.toNat).toNat)))
    hp' hnodup (fun l hl => by rw [hrun]; exact State.active_sub (State.mem_sleepers.mp hl).1)
  rw [State.setCur_setCur] at hpark
  rw [State.curGang_setCur] at hmoved
  have hexec : exec (.waitT g wide true d a b c) s = .next (s.setCur H) := by
    rw [← hpark, ← hK]
    exact waitWord_scratch (timed := some (d, c)) hc hgood
  have hgoes {l : Nat} (hl : l ∈ s.active g) (hout : l ∉ s.sleepers g wide a b c) :
      H.readK l d.toNat = !((s.sameRows g wide a b).map (·.1)).elem l ∧ H.pc l = s.cur.pc + 8 :=
    ⟨(congrArg (Gang.readK · l d.toNat) hmoved :).trans (hread hl hout), hgo l (by rw [hrun]; exact State.active_sub hl) hout⟩
  refine ⟨H, hexec, fun l hl hdiff => ?_, fun l hl hsame hzero => ?_, fun l hl hsame htime => ?_, ?_⟩
  · obtain ⟨hk, hpc⟩ := hgoes hl (fun h => hdiff (State.mem_sleepers.mp h).2.1)
    exact ⟨by rw [hk]; simpa using fun h => hdiff (State.mem_sameRows.mp h).2, hpc⟩
  · obtain ⟨hk, hpc⟩ := hgoes hl (fun h => (State.mem_sleepers.mp h).2.2 (by rw [hzero]; rfl))
    exact ⟨by rw [hk]; simpa using State.mem_sameRows.mpr ⟨hl, hsame⟩, hpc⟩
  · obtain ⟨hstate, hpc⟩ := hwait l (State.mem_sleepers.mpr ⟨hl, hsame, fun h => htime (BitVec.eq_of_toNat_eq h)⟩)
    exact ⟨hpc, by rw [hstate, State.waitBlock_sameRows (State.mem_sameRows.mpr ⟨hl, hsame⟩)]⟩
  · rw [hmark] at hmoved
    exact ⟨(congrArg Gang.pool hmoved :), (congrArg Gang.s hmoved :), (congrArg Gang.m hmoved :)⟩
end

/-! ### Times and fences -/

theorem exec_waitTTimeout {s : State} {t g l k b dl : Nat} {scr : Bool}
    (hwait : (s.gang t g).laneState l = .waiting (.memory scr b (some k) (some dl))) (hlate : dl < s.time) (hdie : (s.team t).onDie = true) :
    exec (.waitTTimeout t g l) s = .next (s.setGang t g (((s.gang t g).writeK l k false).leaveWait [l])) := by
  show execWaitTTimeout t g l s = _
  rw [execWaitTTimeout, State.timeOut, hwait]
  exact (if_pos (decide_eq_true hlate)).trans (congrArg Host.Outcome.next (if_pos hdie))

/-- R172: outside a sequence, lanes that leave Waiting change in nothing but their states, PCs and ages. -/
theorem Gang.leaveWait_frame {G : Gang} (h : noRep G = true) (ls : List Nat) :
    ∃ lst pcs ages, G.leaveWait ls = { G with lst := lst, pcs := pcs, ages := ages } := by
  unfold Gang.leaveWait
  split
  · next hp => exact absurd hp (noRep_ne h _ _ _ _ _ _)
  · refine List.foldlRecOn (motive := fun H : Gang => ∃ lst pcs ages, H = { G with lst := lst, pcs := pcs, ages := ages }) ls _
      ⟨_, _, _, rfl⟩ (fun _ h _ _ => ?_)
    obtain ⟨lst, pcs, ages, rfl⟩ := h
    exact ⟨_, _, _, rfl⟩

/-- R239: what the end of a wait's time makes of its lane. -/
theorem Gang.timeOut_spec {G : Gang} {l k : Nat} (hk : k < 16) (hp : noRep G = true) :
    ((G.writeK l k false).leaveWait [l]).laneState l = .ready ∧ ((G.writeK l k false).leaveWait [l]).pc l = G.pc l + 8 ∧
    ((G.writeK l k false).leaveWait [l]).readK l k = false ∧ ((G.writeK l k false).leaveWait [l]).pool = G.pool ∧
    ((G.writeK l k false).leaveWait [l]).s = G.s := by
  have hp' : noRep (G.writeK l k false) = true := hp
  have hlane := Gang.leaveWait_lane hp' (List.nodup_singleton l) l
  rw [if_pos (List.mem_singleton_self l)] at hlane
  simp only [Prod.mk.injEq] at hlane
  obtain ⟨hstate, hpc, -⟩ := hlane
  refine ⟨hstate, hpc, ?_⟩
  obtain ⟨lst, pcs, ages, hframe⟩ := Gang.leaveWait_frame hp' [l]
  rw [hframe]
  exact ⟨Gang.readK_writeK_same G l hk false, rfl, rfl⟩

theorem exec_fence {g : Grd} {y : Scope} {s : State} (hc : s.clear (.fence g y) = true) :
    exec (.fence g y) s = if !(s.active g).isEmpty && s.storesPending s.cur.team s.cur.gang y then s.hold else s.next := by
  show execFence g y s = _
  rw [execFence, runWord_clear hc]

/-- Settles O24. -/
theorem waitsAndFencesHold : Obligations.WaitsAndFencesHold := by
  unfold Obligations.WaitsAndFencesHold
  refine ⟨⟨fun g wide a b s => exec_waitA_scratch, fun g wide d a b c s => exec_waitT_scratch,
    fun s t g l k b dl scr hwait hlate hdie hk hp => ⟨_, exec_waitTTimeout hwait hlate hdie, Gang.timeOut_spec hk hp⟩⟩,
    fun g y s hc => ⟨fun h => ?_, fun ha hs => ?_⟩⟩
  · rw [exec_fence hc]
    rcases h with h | h
    · simp [h, State.next]
    · simp [h, State.next]
  · rw [exec_fence hc, hs]
    simp [ha, State.hold]

end Sys2Proof.Machine
end

section
/-! Atomics (R243 to R245): the word, and one atomic on this package's memory, whose Own request moves lines but no byte. -/

namespace Sys2Proof.Machine

open Sys2Proof.Safety

/-! ### The bytes of memory and its errors, while lines move -/

/-- The bytes of memory and the units that hold an error are as they were. -/
structure State.BytesStay (o s : State) : Prop where
  mem : s.mem = o.mem
  poison : s.poison = o.poison

section
variable {o s u : State}

theorem State.BytesStay.refl (s : State) : s.BytesStay s := ⟨rfl, rfl⟩

theorem State.BytesStay.same (hs : o.BytesStay s) (hm : u.mem = s.mem) (hp : u.poison = s.poison) : o.BytesStay u :=
  ⟨hm.trans hs.mem, hp.trans hs.poison⟩

theorem State.BytesStay.ite {c : Prop} [Decidable c] (hs : o.BytesStay s) (hu : o.BytesStay u) : o.BytesStay (if c then s else u) := by
  split
  · exact hs
  · exact hu

theorem State.BytesStay.foldl {α : Type} {f : State → α → State} {l : List α} (hs : o.BytesStay s)
    (hf : ∀ s x, o.BytesStay s → o.BytesStay (f s x)) : o.BytesStay (l.foldl f s) :=
  List.foldlRecOn (motive := o.BytesStay) l f hs (fun s h x _ => hf s x h)
end

section
variable {o s : State} {t n core c line : Nat}

theorem State.BytesStay.modSlice {f : Slice → Slice} (hs : o.BytesStay s) : o.BytesStay (s.modSlice n f) := .same hs rfl rfl

theorem State.BytesStay.sendFlits {pkg cls pa : Nat} {bytes : List Byte} (hs : o.BytesStay s) : o.BytesStay (s.sendFlits pkg cls pa bytes) := by
  unfold State.sendFlits
  exact .ite hs (.same hs rfl rfl)

theorem State.BytesStay.relaunch (hs : o.BytesStay s) : o.BytesStay (s.relaunch t) := by
  unfold State.relaunch
  exact .ite (.same hs rfl rfl) hs

theorem State.BytesStay.requeue (hs : o.BytesStay s) : o.BytesStay (s.requeue t) := by
  unfold State.requeue
  extract_lets T
  exact .ite hs (.ite hs.relaunch (.foldl hs (fun _ _ h => h.relaunch)))

theorem State.BytesStay.wakeSpilled (hs : o.BytesStay s) : o.BytesStay (s.wakeSpilled line) := by
  unfold State.wakeSpilled
  extract_lets h ts s1
  have h1 : o.BytesStay s1 := .foldl hs (fun _ _ h => .ite h.sendFlits h.requeue)
  exact .ite h1 h1.modSlice

theorem State.BytesStay.wakeLine (hs : o.BytesStay s) : o.BytesStay (s.wakeLine line) := .same hs rfl rfl

theorem State.BytesStay.wakeLost (hs : o.BytesStay s) : o.BytesStay (s.wakeLost core line) := .same hs rfl rfl

theorem State.BytesStay.wantGrant (hs : o.BytesStay s) : o.BytesStay (s.wantGrant core c) := by
  unfold State.wantGrant
  exact .ite (.same hs rfl rfl) hs

theorem State.BytesStay.chargeRaw {u dom : Nat} (hs : o.BytesStay s) : o.BytesStay (s.chargeRaw core c u dom) := by
  unfold State.chargeRaw State.chargeOnly
  exact .wantGrant (.ite (.same hs rfl rfl) (.same hs rfl rfl))

theorem State.BytesStay.chargeMiss {m : Miss} (hs : o.BytesStay s) : o.BytesStay (s.chargeMiss m) := by
  unfold State.chargeMiss
  split
  · exact .same hs rfl rfl
  · exact hs.chargeRaw

theorem State.BytesStay.returnMeter (hs : o.BytesStay s) : o.BytesStay (s.returnMeter core c) := by
  unfold State.returnMeter
  exact .ite hs (.same hs rfl rfl)

theorem State.BytesStay.inject {flits : Nat} (hs : o.BytesStay s) : o.BytesStay (s.inject core c flits) := by
  unfold State.inject
  exact .ite hs (.same hs rfl rfl)

theorem State.BytesStay.dropL1 (hs : o.BytesStay s) : o.BytesStay (s.dropL1 core line) := by
  unfold State.dropL1 State.dropShare
  extract_lets mon s1
  have h1 : o.BytesStay s1 := .same hs rfl rfl
  exact .ite h1.wakeLost.modSlice h1

theorem State.BytesStay.invalidate {keep : Option Nat} (hs : o.BytesStay s) : o.BytesStay (s.invalidate line keep) := by
  unfold State.invalidate
  exact .foldl hs (fun _ _ h => h.dropL1)

theorem State.BytesStay.freeBypass (hs : o.BytesStay s) : o.BytesStay (s.freeBypass line) := by
  unfold State.freeBypass
  exact .ite hs.modSlice hs

theorem State.BytesStay.ownerData {e : DirEntry} (hs : o.BytesStay s) : o.BytesStay (s.ownerData core c line e) := by
  unfold State.ownerData
  extract_lets s1
  have h1 : o.BytesStay s1 := .ite hs.chargeMiss hs
  exact .ite h1.modSlice.wakeSpilled hs

theorem State.BytesStay.evict {e : DirEntry} (hs : o.BytesStay s) : o.BytesStay (s.evict core c n e) := by
  unfold State.evict
  extract_lets s1 s2
  have h1 : o.BytesStay s1 := hs.ownerData.invalidate
  have h2 : o.BytesStay s2 := .ite h1.chargeMiss h1
  exact h2.modSlice

theorem State.BytesStay.fill (hs : o.BytesStay s) : o.BytesStay (s.fill core c line) := by
  unfold State.fill
  extract_lets h p set s1 old s1' new bl s2 base
  have h1 : o.BytesStay s1 := hs.chargeMiss.chargeMiss
  have h1' : o.BytesStay s1' := .ite h1 h1.modSlice
  clear_value s1'
  split
  · extract_lets old' s2' base'
    have h2' : o.BytesStay s2' := by
      unfold s2'
      clear_value old'
      split
      · exact h1'.evict
      · exact h1'
    exact .same h2' rfl rfl
  · have h2 : o.BytesStay s2 := by
      unfold s2
      refine .ite h1' ?_
      split
      · exact h1'.evict
      · exact h1'
    exact .same h2 rfl rfl

theorem State.BytesStay.lookup (hs : o.BytesStay s) : o.BytesStay (s.lookup core c line) := by
  unfold State.lookup
  split
  · unfold State.hit
    extract_lets s1
    have h1 : o.BytesStay s1 := hs.chargeMiss
    exact .same (.ite h1.chargeMiss h1) rfl rfl
  · exact hs.fill

theorem State.BytesStay.evictL1 {x : L1Line} (hs : o.BytesStay s) : o.BytesStay (s.evictL1 core x) := by
  unfold State.evictL1 State.sliceWriteBack
  exact .ite hs.dropL1.modSlice.wakeSpilled.freeBypass hs.dropL1.freeBypass

theorem State.BytesStay.makeRoom (hs : o.BytesStay s) : o.BytesStay (s.makeRoom core line) := by
  unfold State.makeRoom
  extract_lets C s1
  have h1 : o.BytesStay s1 := .same hs rfl rfl
  refine .ite hs ?_
  split
  · exact h1.evictL1
  · exact h1

theorem State.BytesStay.putL1 {excl : Bool} (hs : o.BytesStay s) : o.BytesStay (s.putL1 core line excl) := by
  unfold State.putL1
  exact .same hs.makeRoom rfl rfl
end

/-! ### An Own request -/

section
variable {s : State} {core ctx line : Nat}

theorem State.slices_returnMeter (s : State) (core ctx : Nat) : (s.returnMeter core ctx).slices = s.slices := by
  unfold State.returnMeter
  split <;> rfl

theorem State.slices_inject (s : State) (core ctx n : Nat) : (s.inject core ctx n).slices = s.slices := by
  unfold State.inject
  dsimp only
  split <;> rfl

/-- R319: where no core has a store on its way, a request waits for none. -/
theorem State.settleEndpoint_quiet (h : ∀ c, (s.core c).out = []) :
    s.BytesStay (s.settleEndpoint core ctx line) ∧ (s.settleEndpoint core ctx line).slices = s.slices := by
  obtain ⟨hbytes, hslices, -⟩ : s.BytesStay (s.settleEndpoint core ctx line) ∧ (s.settleEndpoint core ctx line).slices = s.slices ∧
      ∀ c, ((s.settleEndpoint core ctx line).core c).out = [] := by
    refine List.foldlRecOn (motive := fun u : State => s.BytesStay u ∧ u.slices = s.slices ∧ ∀ c, (u.core c).out = []) _ _
      ⟨.refl s, rfl, h⟩ (fun u hu q _ => ?_)
    obtain ⟨hbytes, hslices, hout⟩ := hu
    have hnone : u.sendWrite q.1 q.2.id = u := by
      rw [State.sendWrite, hout]
      rfl
    rw [hnone]
    exact ⟨hbytes.returnMeter, (u.slices_returnMeter ..).trans hslices, fun c => ((State.StoresStay.refl u).returnMeter.out c).trans (hout c)⟩
  exact ⟨hbytes, hslices⟩

/-- R310: an Own request at a home slice that has accepted no accumulate. -/
theorem State.BytesStay.sliceOwn (hacc : (s.slice (homeOf (line * 128))).accept = []) (hout : ∀ c, (s.core c).out = []) :
    s.BytesStay (s.sliceOwn core ctx line) := by
  obtain ⟨hquiet, hslices⟩ := State.settleEndpoint_quiet (core := core) (ctx := ctx) (line := line) hout
  have hslice : ((s.settleEndpoint core ctx line).inject core ctx 1).slice (homeOf (line * 128)) = s.slice (homeOf (line * 128)) := by
    rw [State.slice, State.slices_inject, hslices]
    rfl
  unfold State.sliceOwn
  rw [settleLine_empty _ _ (by rw [hslice]; exact hacc)]
  extract_lets h s1 c s2 s3 s4
  have h1 : s.BytesStay s1 := hquiet.inject.lookup
  have h2 : s.BytesStay s2 := by
    unfold s2
    split
    · exact h1.ownerData
    · exact h1
  have h4 : s.BytesStay s4 := h2.invalidate.modSlice
  exact .ite (.refl s) h4.putL1.wakeSpilled
end

/-! ### One atomic -/

theorem homeOf_lineOf (pa : Nat) : homeOf (lineOf pa * 128) = homeOf pa := by
  have hline : lineOf pa * 128 / 128 = pa / 128 := by unfold lineOf; omega
  have hpage : lineOf pa * 128 / 4096 = pa / 4096 := by unfold lineOf; omega
  rw [homeOf, homeOf, homeSlice, homeSlice, hline, hpage]

theorem readNum_writeBytes (m : Tbl Byte) (a : Nat) (bs : List Byte) : readNum (writeBytes m a bs) a bs.length = numOfBytes bs := by
  refine congrArg numOfBytes (List.ext_getElem (by simp [readBytes, upto]) (fun i hi hi' => ?_))
  simp only [readBytes, upto, List.getElem_map, List.getElem_range]
  exact readByte_writeBytes_of_lt m a bs hi'

theorem State.atomicAt_local {s : State} {core ctx pa n : Nat} {f : Nat → Nat} (hlocal : s.isLocal pa = true)
    (hacc : (s.slice (homeOf pa)).accept = []) (hout : ∀ c, (s.core c).out = []) (hclean : poisoned s.poison pa n = false) :
    (s.atomicAt core ctx pa n f).2 = (readNum s.mem pa n, false) ∧
    (s.atomicAt core ctx pa n f).1.mem = writeBytes s.mem pa (bytesOfNum n (f (readNum s.mem pa n))) := by
  have hown : s.BytesStay (s.sliceOwn core ctx (lineOf pa)) := .sliceOwn (by rwa [homeOf_lineOf]) hout
  have hwake (u : State) : u.BytesStay ((u.wakeLine (lineOf pa)).wakeSpilled (lineOf pa)) := (State.BytesStay.refl u).wakeLine.wakeSpilled
  unfold State.atomicAt
  rw [if_pos hlocal]
  dsimp only
  rw [hown.poison, hclean, if_neg Bool.false_ne_true, hown.mem]
  refine ⟨rfl, (hwake _).mem.trans ?_⟩
  rw [State.putMem, hown.mem]

/-! ### The words -/

theorem exec_atom {i : Instr} {wide : Bool} {g : Grd} {la : BitVec 4} {op : AtomOp} {ord : AtomOrd} {y : Scope} {sgn : Bool} {d a b c : Opd}
    {s : State} (hc : s.clear i = true) (hrel : atomRel ord = false ∨ s.storesPending s.cur.team s.cur.gang y = false) {C : Checked}
    (hC : s.checkLanes s.cur.team s.cur.gang .glob (waitWidth wide) .readWrite
      ((if d.sc then (s.active g).take 1 else s.active g).map (fun l => (l, waitAddr s.curGang false a l))) = C)
    {r : State × List (Nat × W64) × List Nat} (hr : (C.st.later la C.locs).atomAll (waitWidth wide) C.locs (fun l x => atomOp op (8 * waitWidth wide) sgn x
      (C.st.curGang.readOp b (if wide then .n64 else .n32) l).toNat (C.st.curGang.readOp c (if wide then .n64 else .n32) l).toNat) = r)
    (hcauses : C.causes = []) (hqueue : C.locs = [] ∨ C.st.curGang.queue = [])
    (hheld : ∀ q ∈ C.locs, C.st.lineHeld C.st.curGang.core q.2 = false) (hbad : C.st.badAtoms (waitWidth wide) C.locs = []) (hdone : r.2.2 = []) :
    atomWord i wide g la op ord y sgn d a b c s = .next (r.1.results (if r.2.1 = [] then 0 else la.toNat) (d.ref wide).regs
      (if d.sc then r.2.1.map (fun v => .s d.n.toNat v.2) else vecWrites d.n.toNat wide r.2.1) []) := by
  have hfree : (atomRel ord && !(s.active g).isEmpty && s.storesPending s.cur.team s.cur.gang y) = false := by
    rcases hrel with h | h <;> simp [h]
  have hgo : ((!C.locs.isEmpty && queueBusy C.st) || C.locs.any (fun q => C.st.lineHeld C.st.curGang.core q.2)) = false := by
    rw [Bool.or_eq_false_iff]
    refine ⟨?_, List.any_eq_false.mpr (fun q hq => by simp [hheld q hq])⟩
    rcases hqueue with h | h <;> simp [queueBusy, h]
  have hnone : (if d.sc then r.2.1.map (fun v => RegWrite.s d.n.toNat v.2) else vecWrites d.n.toNat wide r.2.1) = [] ↔ r.2.1 = [] := by
    split
    · exact List.map_eq_nil_iff
    · exact vecWrites_eq_nil
  rw [atomWord, runWord_clear hc]
  dsimp only
  rw [hfree, if_neg Bool.false_ne_true, hC, Checked.settle_ok _ hcauses]
  rw [hgo, if_neg Bool.false_ne_true, hbad, List.isEmpty_nil, if_pos rfl, hr, hdone,
    List.isEmpty_nil, Bool.not_true, Bool.and_false, if_neg Bool.false_ne_true, State.endLoad_clean]
  simp only [hnone, id]

/-- Settles O25. -/
theorem atomicsReadAndWriteAsOneStep : Obligations.AtomicsReadAndWriteAsOneStep := by
  unfold Obligations.AtomicsReadAndWriteAsOneStep
  refine ⟨fun i wide g la op ord y sgn d a b c s hi hc hrel => ?_, fun s core ctx pa n f hlocal hacc hout hclean => ?_⟩
  · intro t C r hcauses hqueue hheld hbad hdone
    have hatom := exec_atom hc hrel rfl rfl hcauses hqueue hheld hbad hdone
    rcases hi with ⟨rfl, rfl⟩ | ⟨rfl, rfl⟩
    · exact hatom
    · exact hatom
  · obtain ⟨hres, hmem⟩ := State.atomicAt_local (core := core) (ctx := ctx) (f := f) hlocal hacc hout hclean
    have hlen := length_bytesOfNum n (f (readNum s.mem pa n))
    refine ⟨hres, ?_, fun b hb => ?_⟩
    · rw [hmem, ← numOfBytes_bytesOfNum, ← readNum_writeBytes s.mem pa, hlen]
    · rw [hmem]
      rcases hb with h | h
      · exact readByte_writeBytes_below _ h _
      · exact readByte_writeBytes_above _ _ (by rw [hlen]; exact h)

end Sys2Proof.Machine
end

section
/-! Copies and the Ladle (R246 to R250, R253, R254): words that enter their queues, and the end of the work that waits there. -/

namespace Sys2Proof.Machine

open Sys2Proof.Safety

/-! ### Copy queues -/

theorem State.copyQ_modCopyQ (s : State) (core p q : Nat) (f : CopyQueue → CopyQueue) :
    (s.modCopyQ core p f).copyQ core q = if q = p then f (s.copyQ core q) else s.copyQ core q := by
  simp only [State.copyQ, State.modCopyQ, State.core_modCore, tget_tput]
  split
  · next h => rw [h]
  · rfl

/-- R249: an entry joins each listed queue once. -/
theorem State.copyQ_foldl_modCopyQ (core q : Nat) (f : CopyQueue → CopyQueue) {ps : List Nat} (hn : ps.Nodup) (s : State) :
    (ps.foldl (fun s p => s.modCopyQ core p f) s).copyQ core q = if q ∈ ps then f (s.copyQ core q) else s.copyQ core q := by
  induction ps generalizing s with
  | nil => rfl
  | cons p ps ih =>
    obtain ⟨hp, hn⟩ := List.nodup_cons.mp hn
    rw [List.foldl_cons, ih hn, State.copyQ_modCopyQ]
    by_cases h : q = p
    · subst h
      simp [hp]
    · simp [h]

theorem mem_maskQueues {m q : Nat} : q ∈ maskQueues m ↔ q < 4 ∧ m.testBit q = true := by
  simp [maskQueues, upto]
theorem maskQueues_nodup (m : Nat) : (maskQueues m).Nodup := List.Nodup.filter _ List.nodup_range

/-! ### The words -/

theorem exec_copy (i : Instr) {g : Grd} {q : BitVec 2} {a b c : BitVec 8} {x : Option (BitVec 8)} {srcScr dstScr : Bool} {s : State}
    (hc : s.clear i = true) (ha : s.active g ≠ []) {desc : Option W64} (hd : x.map (fun r => s.curGang.readS r.toNat) = desc)
    (hok : copyCause s.curTeam.launch srcScr dstScr (s.curGang.readS a.toNat) (s.curGang.readS b.toNat) (s.curGang.readS c.toNat) desc = none)
    (hf : s.queueFault s.curGang.core q.toNat = none) (hopen : queueClosed s q.toNat = false) (hq : s.curGang.queue = []) :
    copyWord i g q srcScr dstScr a b c x s = .next (({ s.modCopyQ s.curGang.core q.toNat (fun Q => { Q with entries := Q.entries ++
       [.copy s.nextId s.cur.team s.cur.gang s.curGang.level srcScr dstScr (s.curGang.readS a.toNat) (s.curGang.readS b.toNat)
         (s.curGang.readS c.toNat).toNat desc] }) with nextId := s.nextId + 1 } : State).finish false) := by
  have hfree : copyBusy s q.toNat = false := by simp [copyBusy, hopen, engineWaits, queueBusy, hq]
  subst hd
  rw [copyWord, runWord_clear hc]
  simp only [List.isEmpty_iff, ha, hok, hf, hfree, if_false, Bool.false_eq_true]
  rfl

/-- R249: the state in which a fence has entered the queues that its mask names. -/
def State.withFence (s : State) (y : Scope) (mask : Nat) (desc : Option W64) : State :=
  let core := s.curGang.core
  let e := CopyEntry.fence s.nextId s.cur.team s.cur.gang y mask desc
  let s1 := (maskQueues mask).foldl (fun s q => s.modCopyQ core q (fun Q => { Q with entries := Q.entries ++ [e] })) s
  { s1.setCur { s1.curGang with fenceId := s.nextId } with nextId := s.nextId + 1 }

theorem exec_cpFence {g : Grd} {y : Scope} {mask : BitVec 8} {x : Option (BitVec 8)} {s : State} (hc : s.clear (.cpFence g y mask x) = true)
    (ha : s.active g ≠ [])
    (hd : ∀ r ∈ x, ((s.curGang.readS r.toNat).setWidth 32).toNat + 4 ≤ s.curTeam.launch.scratchSpace ∧
      ((s.curGang.readS r.toNat).setWidth 32).toNat % 4 = 0)
    (hq : ∀ q < 4, mask.getLsbD q = true → s.queueFault s.curGang.core q = none ∧ queueClosed s q = false) :
    exec (.cpFence g y mask x) s = .next ((s.withFence y mask.toNat (x.map (fun r => s.curGang.readS r.toNat))).finish false) := by
  have hmem : ∀ q ∈ maskQueues mask.toNat, s.queueFault s.curGang.core q = none ∧ queueClosed s q = false := fun q h => by
    obtain ⟨hlt, hbit⟩ := mem_maskQueues.mp h
    exact hq q hlt hbit
  have hfault : (maskQueues mask.toNat).find? (fun q => (s.queueFault s.curGang.core q).isSome) = none :=
    List.find?_eq_none.mpr (fun q h => by simp [(hmem q h).1])
  have hopen : (maskQueues mask.toNat).any (queueClosed s) = false :=
    List.any_eq_false.mpr (fun q h => by simp [(hmem q h).2])
  show execCpFence g y mask x s = _
  rw [execCpFence, runWord_clear hc]
  dsimp only
  rw [if_neg (by simpa using ha), hfault]
  dsimp only
  rw [hopen]
  cases x with
  | none => rfl
  | some r =>
    obtain ⟨hfit, halign⟩ := hd r rfl
    have hwide : (((s.curGang.readS r.toNat).setWidth 32).setWidth 64).toNat = ((s.curGang.readS r.toNat).setWidth 32).toNat :=
      BitVec.toNat_setWidth_of_le (by decide)
    dsimp only [Option.map_some]
    simp only [hwide, hfit, halign, decide_true, Bool.not_true, Bool.and_false, Bool.false_eq_true, if_false, ne_eq, not_true, decide_false]
    rfl

theorem State.mem_foldl_modCopyQ (core : Nat) (f : CopyQueue → CopyQueue) (ps : List Nat) (s : State) :
    (ps.foldl (fun s p => s.modCopyQ core p f) s).mem = s.mem :=
  List.foldlRecOn (motive := fun u : State => u.mem = s.mem) ps _ rfl (fun _ h _ _ => h)

theorem State.withFence_spec (s : State) (y : Scope) (mask : BitVec 8) (desc : Option W64) :
    ((s.withFence y mask.toNat desc).finish false).mem = s.mem ∧ ((s.withFence y mask.toNat desc).finish false).curGang.fenceId = s.nextId ∧
    ∀ q < 4, (((s.withFence y mask.toNat desc).finish false).copyQ s.curGang.core q).entries = if mask.getLsbD q
      then (s.copyQ s.curGang.core q).entries ++ [.fence s.nextId s.cur.team s.cur.gang y mask.toNat desc]
      else (s.copyQ s.curGang.core q).entries := by
  refine ⟨State.mem_foldl_modCopyQ .., ?_, fun q hq => ?_⟩
  · obtain ⟨p, hmoved⟩ := (s.withFence y mask.toNat desc).curGang.closeWord_moved (s.withFence y mask.toNat desc).runLanes false
      (fun _ => (s.withFence y mask.toNat desc).cur.pc + 8)
    rw [State.finish_eq, State.curGang_setCur, show _ = _ from (congrArg Gang.fenceId hmoved :)]
    exact congrArg Gang.fenceId (State.curGang_setCur ..)
  · show (((maskQueues mask.toNat).foldl _ s).copyQ s.curGang.core q).entries = _
    rw [State.copyQ_foldl_modCopyQ _ _ _ (maskQueues_nodup _), show mask.getLsbD q = mask.toNat.testBit q from rfl]
    by_cases h : mask.toNat.testBit q = true
    · rw [if_pos (mem_maskQueues.mpr ⟨hq, h⟩), if_pos h]
    · rw [if_neg (fun hm => h (mem_maskQueues.mp hm).2), if_neg h]

/-- R250: bit `k` of field `q`, of a field shifted to place `p`. -/
theorem getLsbD_shiftedField {v p q k : Nat} (hv : v < 2 ^ 16) (hq : q < 4) (hk : k < 16) :
    (BitVec.ofNat 64 v <<< (16 * p)).getLsbD (16 * q + k) = (decide (p = q) && v.testBit k) := by
  rw [BitVec.getLsbD_shiftLeft, BitVec.getLsbD_ofNat]
  rcases Nat.lt_trichotomy p q with h | h | h
  · have hbit : v.testBit (16 * q + k - 16 * p) = false :=
      Nat.testBit_lt_two_pow (Nat.lt_of_lt_of_le hv (Nat.pow_le_pow_right (n := 2) (by decide) (show 16 ≤ _ by omega)))
    simp [hbit, h.ne]
  · have hlt : 16 * q + k < 64 := by omega
    simp [hlt, h, show k < 64 by omega]
  · have hlt : 16 * q + k < 16 * p := by omega
    simp [hlt, h.ne']

theorem extract_pollWord {s : State} {core q : Nat} (hq : q < 4) (h : ∀ q < 4, (s.copyQ core q).held s.time ≤ 16) :
    (pollWord s core).extractLsb' (16 * q) 16 =
      BitVec.ofNat 16 ((s.copyQ core q).held s.time + (if (s.copyQ core q).faults = [] then 0 else 2 ^ 14)) := by
  have hsmall : ∀ p < 4, (s.copyQ core p).held s.time + (if (s.copyQ core p).faults = [] then 0 else 2 ^ 14) < 2 ^ 16 := fun p hp => by
    have := h p hp
    split <;> omega
  refine BitVec.eq_of_getLsbD_eq (fun k hk => ?_)
  have hzero : (0 : W64).getLsbD (16 * q + k) = false := BitVec.getLsbD_zero
  rw [BitVec.getLsbD_extractLsb', pollWord, getLsbD_foldl_or, hzero, BitVec.getLsbD_ofNat, Bool.eq_iff_iff]
  simp only [List.isEmpty_iff, hk, decide_true, Bool.true_and, Bool.false_or, List.any_eq_true, upto, List.mem_range]
  constructor
  · rintro ⟨p, hp, hbit⟩
    rw [getLsbD_shiftedField (hsmall p hp) hq hk, Bool.and_eq_true, decide_eq_true_eq] at hbit
    obtain ⟨rfl, hbit⟩ := hbit
    exact hbit
  · intro hbit
    exact ⟨q, hq, by rw [getLsbD_shiftedField (hsmall q hq) hq hk, hbit, decide_eq_true rfl]; rfl⟩

theorem exec_cpPoll {g : Grd} {d : BitVec 8} {s : State} (hc : s.clear (.cpPoll g d) = true) :
    exec (.cpPoll g d) s =
      .next ((s.setCur (s.curGang.mapOnce (s.active g) (fun G => G.writeS d.toNat (pollWord s s.curGang.core)))).finish false) := by
  show execCpPoll g d s = _
  rw [execCpPoll, runWord_clear hc]
  rfl

theorem exec_lfillBar {g : Grd} {n a b : BitVec 8} {s : State} (hc : s.clear (.lfillBar g n a b) = true) (ha : s.active g ≠ [])
    (hok : lfillCause (s.curGang.readS a.toNat) (s.curGang.readS b.toNat) = none) (hfree : ladleBusy s = false) :
    exec (.lfillBar g n a b) s = .next ((s.enterLadle (s.curGang.readS a.toNat) (s.curGang.readS b.toNat).toNat
      (.bar s.cur.team n.toNat)).finish false) := by
  show execLfillBar g n a b s = _
  rw [execLfillBar, runWord_clear hc]
  dsimp only
  rw [if_neg (by simpa using ha), hok, hfree]
  rfl

theorem exec_lfillTok {g : Grd} {d a b c : BitVec 8} {s s1 : State} {l pa : Nat} {ls : List Nat} (hc : s.clear (.lfillTok g d a b c) = true)
    (hl : s.active g = l :: ls) (hok : lfillCause (s.curGang.readS a.toNat) (s.curGang.readS b.toNat) = none)
    (hcheck : s.checkAccess s.cur.team s.cur.gang .glob ((s.curGang.readS c.toNat).toNat : Int) 4 .write = (s1, .ok (.mem pa)))
    (hfree : ladleBusy s1 = false) :
    exec (.lfillTok g d a b c) s = .next ((s1.enterLadle (s.curGang.readS a.toNat) (s.curGang.readS b.toNat).toNat
      (.tok pa ((s.curGang.readS d.toNat).setWidth 32))).finish false) := by
  show execLfillTok g d a b c s = _
  rw [execLfillTok, runWord_clear hc]
  dsimp only
  rw [hl]
  dsimp only
  rw [hok]
  dsimp only
  rw [State.checkLanes_one hcheck, Checked.settle_ok _ rfl]
  dsimp only
  rw [hfree]
  rfl
/-- Settles O26. -/
theorem engineWordsEnterTheirQueues : Obligations.EngineWordsEnterTheirQueues := by
  unfold Obligations.EngineWordsEnterTheirQueues
  refine ⟨fun i g q a b c x srcScr dstScr s hi hc ha hok hf hopen hq => ?_, fun g y mask x s hc ha hd hq => ?_, fun g d s hc hsmall => ?_,
    fun g n a b s => exec_lfillBar, fun g d a b c s s1 l pa ls => exec_lfillTok⟩
  · rcases hi with ⟨rfl, rfl, rfl⟩ | ⟨rfl, rfl, rfl⟩ | ⟨rfl, rfl, rfl⟩
    all_goals exact exec_copy _ hc ha rfl hok hf hopen hq
  · exact ⟨_, exec_cpFence hc ha hd hq, s.withFence_spec y mask _⟩
  · obtain ⟨hval, honly⟩ := s.curGang.mapOnce_writeS (s.active g) d (pollWord s s.curGang.core)
    exact ⟨_, exec_cpPoll hc, fun ha q hq => by rw [hval ha, extract_pollWord hq hsmall], honly⟩

/-! ### The end of the work -/

theorem exec_copyEntryComplete_done {s s1 : State} {core q id t g level len : Nat} {a b : Bool} {src dst : W64} {desc : Option W64}
    {rest : List CopyEntry} (he : (s.copyQ core q).entries = .copy id t g level a b src dst len desc :: rest)
    (hdone : State.copyUnits core t g level a b (len / 16) s src dst (!(s.copyQ core q).begun) = (s1, .done)) :
    exec (.copyEntryComplete core q) s = .next ((((s1.writeDesc t desc).modCopyQ core q (fun Q =>
      { Q.leave s.time (fun e => decide (e.id ≠ id)) with missing := none, begun := false })).enterCopies core).returnMeter core
        (s.team t).ctx) := by
  show execCopyEntryComplete core q s = _
  rw [execCopyEntryComplete, he]
  dsimp only
  rw [hdone]

section
variable {s : State} {core q t g id mask : Nat} {y : Scope} {desc : Option W64} {rest : List CopyEntry}

theorem exec_copyEntryComplete_fence (he : (s.copyQ core q).entries = .fence id t g y mask desc :: rest) (hs : s.storesPending t g y = false)
    (hready : ∀ p < 4, mask.testBit p = true → s.fenceReady core t id p = true) :
    exec (.copyEntryComplete core q) s = .next ((((maskQueues mask).foldl (fun s p => s.modCopyQ core p (fun Q =>
      Q.leave s.time (fun e => !isFence id e))) (s.writeDesc t desc)).enterCopies core).returnMeter core (s.team t).ctx) := by
  have hall : (maskQueues mask).all (s.fenceReady core t id) = true := List.all_eq_true.mpr (fun p hp => by
    obtain ⟨hlt, hbit⟩ := mem_maskQueues.mp hp
    exact hready p hlt hbit)
  show execCopyEntryComplete core q s = _
  rw [execCopyEntryComplete, he]
  dsimp only
  rw [hall, hs]
  rfl

theorem exec_copyEntryComplete_fence_waits (he : (s.copyQ core q).entries = .fence id t g y mask desc :: rest)
    (hs : s.storesPending t g y = true) : exec (.copyEntryComplete core q) s = .next s := by
  show execCopyEntryComplete core q s = _
  rw [execCopyEntryComplete, he]
  dsimp only
  rw [hs, Bool.not_true, Bool.and_false, if_neg Bool.false_ne_true]
end

/-- Settles O27. -/
theorem enginesCompleteTheirWork : Obligations.EnginesCompleteTheirWork := by
  unfold Obligations.EnginesCompleteTheirWork
  refine ⟨fun s s1 core q id t g level len a b src dst desc rest => exec_copyEntryComplete_done, fun s core q t g id mask y desc rest he =>
    ⟨exec_copyEntryComplete_fence he, exec_copyEntryComplete_fence_waits he⟩, fun s die idx c hc => ?_⟩
  show execLfillComplete die idx s = _
  rw [execLfillComplete, hc]
  obtain ⟨ctx, t, g, core, level, a, len, fin, ran⟩ := c
  cases fin with
  | bar t b => rfl
  | tok pa x => rfl

end Sys2Proof.Machine
end

section
/-! The save of a team of an exchange group (R273 to R277, R280): with the place it gives up, its cluster is cleaned, the cleaning of
an exclusive line is a write that wakes a spilled team of its group, and that team returns with its whole group. -/

namespace Sys2Proof.Machine

open Sys2Proof.Safety

/-- The save area lies in a window into package 1, to which no port leads, so that writes of the record change no memory here. -/
def spillPage : TlbEntry := ⟨0, 0, 30, 2 ^ 42, 0, true, true, true, false, true⟩

/-- Two teams of an exchange group. -/
def groupTeam (k : Nat) (T : Team) : Team := { T with launch := { entry := 0x10000, xg := 2, fuse := true }, index := k }

/-- Team 1 has been stopped for reason 6 and is drained; team 2 of its group is spilled and monitors line 0x202, which the core of
team 1 holds Exclusive. The cluster of team 1 is fused. -/
def mateSpilled : State :=
  { State.reset with
    ctxs := [(0, { en := true, saveBase := 0x100000, saveSize := 65536 })]
    teams := [(1, groupTeam 0 { state := .saving, saveOff := some 0, flush := some 7, gangs := [(0, freshGang { entry := 0x10000 })],
                                stopReq := some ⟨6, 0, true, some 0, some 0, 20⟩ }),
              (2, groupTeam 1 { state := .saved, saveOff := some 16384, reason := 3, core := 4 })]
    cores := [(0, { tlb := [spillPage], l1 := [⟨0x202, true, true⟩] })]
    clusters := [(0, { fused := true })]
    slices := [(homeOf (0x202 * 128), { spillMon := [(0x202, 2)] })]
    nextId := 8 }

theorem mateSpilled_readyToSave :
    (mateSpilled.team 1).state = .saving ∧ mateSpilled.drained 1 = true ∧ (mateSpilled.team 1).stopReq = some ⟨6, 0, true, some 0, some 0, 20⟩ ∧
    ((mateSpilled.modTeam 1 (fun T => T.mapGangs (fun _ G => G.endWindows))).recordPlaces 1 (mateSpilled.team 1).core .write).2.isSome = true ∧
    (mateSpilled.ctx (mateSpilled.team 1).ctx).wdDefer = false ∧ ∀ q ∈ mateSpilled.slices, ∀ m ∈ q.2.spillMon, m.2 ≠ 1 := by
  decide +kernel

/-- The save of team 1 does not leave it saved: it waits for a place again, with team 2. -/
theorem mateSpilled_save {t : State} (h : exec (.teamSave 1) mateSpilled = .next t) : (t.team 1).state = .queued := by
  have hqueued : (match exec (.teamSave 1) mateSpilled with
    | .next t => decide ((t.team 1).state = .queued)
    | _ => false) = true := by decide +kernel
  rw [h] at hqueued
  exact of_decide_eq_true hqueued

theorem exists_eq_some_of_isSome_snd {α β : Type} {p : α × Option β} (h : p.2.isSome = true) : ∃ a b, p = (a, some b) := by
  obtain ⟨b, hb⟩ := Option.isSome_iff_exists.mp h
  exact ⟨p.1, b, Prod.ext rfl hb⟩

/-- Refutes O51: a team that is stopped for reason 6 need not be saved when its save ends. The place that it gives up leaves a fused
cluster idle, so the cluster is cleaned; the write-back of the Exclusive line 0x202 wakes team 2, which is spilled and monitors the
line; team 2 is of the same exchange group, and its return puts team 1 in the queue in the same step. -/
theorem not_teamsAreStoppedSavedAndRestored : ¬ Obligations.TeamsAreStoppedSavedAndRestored := by
  unfold Obligations.TeamsAreStoppedSavedAndRestored
  rintro ⟨-, -, -, -, -, hsave, -⟩
  obtain ⟨hstate, hdrained, hreq, hplaces, hwd, hmon⟩ := mateSpilled_readyToSave
  obtain ⟨s1, places, hplaces⟩ := exists_eq_some_of_isSome_snd hplaces
  obtain ⟨t, hexec, -, -, hsaved, -⟩ := hsave mateSpilled s1 1 _ places hstate hdrained hreq hplaces hwd hmon
  exact absurd ((hsaved (.inl rfl)).symm.trans (mateSpilled_save hexec)) TeamState.noConfusion

end Sys2Proof.Machine
end

section
/-! Returns from handlers (R269): the lanes that an `rfe` holds, those that the end of a handler releases, and those that it thaws. -/

namespace Sys2Proof.Machine

open Sys2Proof.Safety

/-! ### One lane -/

/-- R269: a frozen lane that stood at an `rfe` issues it afresh. -/
def LaneState.thawed : LaneState → LaneState
  | .rfe _ => .ready
  | x => x

/-- R269: how far past TPC a lane that is Held at an `rfe` goes on. -/
def LaneState.skip : LaneState → W64
  | .rfe true => 8
  | _ => 0

theorem LaneState.thawed_of_not_rfe {x : LaneState} (h : ∀ b, x ≠ .rfe b) : x.thawed = x := by
  cases x with
  | rfe b => exact absurd rfl (h b)
  | _ => rfl

/-- What the end of a handler changes of a lane. -/
def Gang.laneAt (G : Gang) (l : Nat) : LaneState × W64 × Nat := (G.laneState l, G.pc l, G.age l)

/-- R269: a frozen lane is released. -/
def Gang.thaw (G : Gang) (l : Nat) : Gang :=
  match G.laneState l with
  | .rfe _ => (G.setLane l .ready).setAge l 0
  | _ => G.setAge l 0

/-- R269: a lane of the handler goes on at TPC, or past it. -/
def Gang.goBack (G : Gang) (l : Nat) : Gang := G.release l (G.tpc + (G.laneState l).skip)

section
variable (G : Gang) {l j : Nat}

theorem Gang.laneAt_release (pc : W64) : (G.release l pc).laneAt l = (.ready, pc, 0) := by
  simp [Gang.laneAt, Gang.release, Gang.laneState, Gang.pc, Gang.age, Gang.setAge, Gang.setPc, Gang.setLane]
theorem Gang.laneAt_release_ne (h : l ≠ j) (pc : W64) : (G.release j pc).laneAt l = G.laneAt l := by
  simp [Gang.laneAt, Gang.release, Gang.laneState, Gang.pc, Gang.age, Gang.setAge, Gang.setPc, Gang.setLane, tget_tset_ne _ _ h]
theorem Gang.laneAt_setAge : (G.setAge l 0).laneAt l = (G.laneState l, G.pc l, 0) := by
  simp [Gang.laneAt, Gang.laneState, Gang.pc, Gang.age, Gang.setAge]
theorem Gang.laneAt_setAge_ne (h : l ≠ j) : (G.setAge j 0).laneAt l = G.laneAt l := by
  simp [Gang.laneAt, Gang.laneState, Gang.pc, Gang.age, Gang.setAge, tget_tset_ne _ _ h]

theorem Gang.laneAt_thaw : (G.thaw l).laneAt l = ((G.laneState l).thawed, G.pc l, 0) := by
  unfold Gang.thaw
  split
  · next h =>
    rw [Gang.laneAt_setAge, Gang.laneState_setLane_same, h]
    rfl
  · next h => rw [Gang.laneAt_setAge, LaneState.thawed_of_not_rfe h]
theorem Gang.laneAt_thaw_ne (h : l ≠ j) : (G.thaw j).laneAt l = G.laneAt l := by
  unfold Gang.thaw
  split
  · rw [Gang.laneAt_setAge_ne _ h, Gang.laneAt, Gang.laneState_setLane_ne G h]
    rfl
  · exact G.laneAt_setAge_ne h

theorem Gang.thaw_frame (l : Nat) : { G.thaw l with lst := G.lst, ages := G.ages } = G := by
  unfold Gang.thaw
  split <;> rfl
end

/-! ### The end of a handler -/

/-- R269: the lanes that are not of the handler. -/
def Gang.frozenLanes (G : Gang) : List Nat := G.allLanes.filter (fun l => !G.hset.getLsbD l)

/-- R269: the lanes of HSET that have not exited. -/
def Gang.handlerLanes (G : Gang) : List Nat := G.liveLanes.filter (fun l => G.hset.getLsbD l)

theorem Gang.mem_frozenLanes {G : Gang} {l : Nat} : l ∈ G.frozenLanes ↔ l < G.width ∧ G.hset.getLsbD l = false := by
  simp [Gang.frozenLanes, Gang.allLanes, upto]

theorem Gang.mem_handlerLanes {G : Gang} {l : Nat} : l ∈ G.handlerLanes ↔ l ∈ G.liveLanes ∧ G.hset.getLsbD l = true := List.mem_filter

theorem Gang.mem_liveLanes {G : Gang} {l : Nat} : l ∈ G.liveLanes ↔ l < G.width ∧ G.laneState l ≠ .exited := by
  simp [Gang.liveLanes, Gang.allLanes, upto]

section
variable (G : Gang) {back : List Nat} (release : List Nat)

theorem Gang.frozenLanes_nodup (G : Gang) : G.frozenLanes.Nodup := List.Nodup.filter _ List.nodup_range
theorem Gang.handlerLanes_nodup (G : Gang) : G.handlerLanes.Nodup := List.Nodup.filter _ (List.Nodup.filter _ List.nodup_range)

theorem Gang.thaws_frame : { G.eachLane G.frozenLanes Gang.thaw with lst := G.lst, ages := G.ages } = G :=
  List.foldlRecOn (motive := fun H : Gang => { H with lst := G.lst, ages := G.ages } = G) _ _ rfl (fun H h l _ =>
    (congrArg (fun K : Gang => { K with lst := G.lst, ages := G.ages }) (H.thaw_frame l)).trans h)

theorem Gang.laneAt_thaws (l : Nat) : (G.eachLane G.frozenLanes Gang.thaw).laneAt l =
    if l ∈ G.frozenLanes then ((G.laneState l).thawed, G.pc l, 0) else G.laneAt l :=
  Gang.eachLane_seen (q := fun H => H.laneAt l) (v := fun x => (x.1.thawed, x.2.1, 0)) G.frozenLanes_nodup
    (fun H => H.laneAt_thaw) (fun H _ _ hj => H.laneAt_thaw_ne hj.symm) G

theorem Gang.laneAt_goBacks (hn : back.Nodup) (l : Nat) : (G.eachLane back Gang.goBack).laneAt l =
    if l ∈ back then (.ready, G.tpc + (G.laneState l).skip, 0) else G.laneAt l := by
  have h := Gang.eachLane_seen (q := fun H => (H.laneAt l, H.tpc)) (v := fun x => ((.ready, x.2 + x.1.1.skip, 0), x.2)) (f := Gang.goBack)
    hn (fun H => Prod.ext (H.laneAt_release _) rfl) (fun H j _ hj => Prod.ext (H.laneAt_release_ne hj.symm _) rfl) G
  refine (congrArg Prod.fst h :).trans ?_
  split <;> rfl

/-- R269: the lanes of the handler go on, and the frozen ones are thawed. -/
theorem Gang.laneAt_endHandler (hn : back.Nodup) (hb : ∀ l ∈ back, G.hset.getLsbD l = true) (l : Nat) :
    (G.endHandler back release).laneAt l =
      if l ∈ back then (.ready, G.tpc + (G.laneState l).skip, 0)
      else if l ∈ G.frozenLanes then ((G.laneState l).thawed, G.pc l, 0)
      else G.laneAt l := by
  have hback : (G.endHandler back release).laneAt l = ((G.eachLane G.frozenLanes Gang.thaw).eachLane back Gang.goBack).laneAt l := rfl
  have htpc : (G.eachLane G.frozenLanes Gang.thaw).tpc = G.tpc := (congrArg Gang.tpc G.thaws_frame :)
  have hthaw := G.laneAt_thaws l
  rw [hback, Gang.laneAt_goBacks _ hn, hthaw, htpc]
  split
  · next hl =>
    have hout : l ∉ G.frozenLanes := fun h => by simp [Gang.frozenLanes, hb l hl] at h
    rw [if_neg hout] at hthaw
    rw [show (G.eachLane G.frozenLanes Gang.thaw).laneState l = G.laneState l from congrArg Prod.fst hthaw]
  · rfl

/-- R269: HSET is empty and LEVEL 0, a set STEP arms the lanes that return, and all else but the lanes is as it was. -/
theorem Gang.endHandler_frame (back : List Nat) :
    { G.endHandler back release with lst := G.lst, pcs := G.pcs, ages := G.ages } =
      { G with tstat := G.tstat &&& ~~~3#64, hset := 0,
               stepArm := if G.tstat.getLsbD 7 then G.stepArm ||| bitsOf release else G.stepArm } := by
  have hback : { (G.eachLane G.frozenLanes Gang.thaw).eachLane back Gang.goBack with lst := G.lst, pcs := G.pcs, ages := G.ages } = G :=
    List.foldlRecOn (motive := fun H : Gang => { H with lst := G.lst, pcs := G.pcs, ages := G.ages } = G) back _
      (congrArg (fun K : Gang => { K with pcs := G.pcs }) G.thaws_frame) (fun _ h _ _ => h)
  exact (congrArg (fun K : Gang => { K with
    tstat := K.tstat &&& ~~~3#64, hset := 0,
    stepArm := if G.tstat.getLsbD 7 then G.stepArm ||| bitsOf release else G.stepArm }) hback :)

theorem level_cleared (w : W64) : ((w &&& ~~~3#64).extractLsb' 0 2).toNat = 0 := by
  have hbits : (w &&& ~~~3#64).extractLsb' 0 2 = 0 := by
    refine BitVec.eq_of_getLsbD_eq (fun k hk => ?_)
    have hk01 : k = 0 ∨ k = 1 := by omega
    rcases hk01 with rfl | rfl <;> simp +decide
  rw [hbits]
  rfl

variable {G}

theorem Gang.tryEnd_ends (h : G.level ≠ 0) (hall : ∀ l ∈ G.handlerLanes, ∃ b, G.laneState l = .rfe b) :
    G.tryEnd = G.endHandler G.handlerLanes G.handlerLanes := by
  unfold Gang.tryEnd
  rw [if_neg h]
  refine if_pos (List.all_eq_true.mpr (fun l hl => ?_))
  obtain ⟨b, hb⟩ := hall l hl
  rw [hb]

theorem Gang.tryEnd_waits {l : Nat} (hl : l ∈ G.handlerLanes) (hno : ∀ b, G.laneState l ≠ .rfe b) : G.tryEnd = G := by
  unfold Gang.tryEnd
  split
  · rfl
  · refine if_neg (fun hall => ?_)
    have hrfe := List.all_eq_true.mp hall l hl
    split at hrfe
    · next b hb => exact hno b hb
    · exact Bool.false_ne_true hrfe
end

/-! ### The word -/

/-- R269: the issuing gang once the lanes of Active are Held at an `rfe`. -/
def State.rfeGang (s : State) (g : Grd) (skip : Bool) : Gang :=
  (s.curGang.closeWord s.runLanes true (fun l => if (s.active g).elem l then s.cur.pc else s.cur.pc + 8)).setLanes (s.active g) (.rfe skip)

section
variable {s : State} {g : Grd} {skip : Bool}

theorem exec_rfe_inHandler (hc : s.clear (.rfe g skip) = true) (hlevel : s.curGang.level ≠ 0) (hnest : s.curGang.tstat.getLsbD 3 = false) :
    exec (.rfe g skip) s = .next (s.setCur (s.rfeGang g skip).tryEnd) := by
  show execRfe g skip s = _
  rw [execRfe, runWord_clear hc]
  dsimp only
  rw [if_neg (by rw [hnest]; simp [hlevel]), State.finishAt, State.setCur_setCur, State.curGang_setCur]
  rfl

theorem exec_rfe_outside (hc : s.clear (.rfe g skip) = true) (h : s.curGang.level = 0 ∨ s.curGang.tstat.getLsbD 3 = true) :
    exec (.rfe g skip) s = .next (s.trapRun (trapAll s.runLanes 1 0 (.rfe g skip))) := by
  show execRfe g skip s = _
  rw [execRfe, runWord_clear hc]
  exact if_pos h

theorem Gang.laneState_setLanes_eq (G : Gang) {ls : List Nat} (hn : ls.Nodup) (x : LaneState) (l : Nat) :
    (G.setLanes ls x).laneState l = if l ∈ ls then x else G.laneState l :=
  Gang.eachLane_seen (q := fun H => H.laneState l) (v := fun _ => x) (f := fun H j => H.setLane j x) hn
    (fun H => H.laneState_setLane_same l x) (fun H _ _ hj => H.laneState_setLane_ne hj.symm x) G

/-- R178, R269: outside a sequence the lanes of Active stay at the word, Held; no lane outside the run moves, and no other's state changes. -/
theorem State.rfeGang_spec (h : noRep s.curGang = true) :
    (∀ l ∈ s.active g, (s.rfeGang g skip).pc l = s.cur.pc) ∧ (∀ l, l ∉ s.runLanes → (s.rfeGang g skip).pc l = s.curGang.pc l) ∧
    (∀ l, (s.rfeGang g skip).laneState l = if l ∈ s.active g then .rfe skip else s.curGang.laneState l) ∧
    Moved { s.curGang with lst := (s.rfeGang g skip).lst } (s.rfeGang g skip) := by
  obtain ⟨hpc, hout, -, hmoved⟩ := Gang.closeWord_moves (e := true) h s.runLanes_nodup
    (fun l => if (s.active g).elem l then s.cur.pc else s.cur.pc + 8)
  unfold State.rfeGang
  generalize s.curGang.closeWord s.runLanes true (fun l => if (s.active g).elem l then s.cur.pc else s.cur.pc + 8) = C at hpc hout hmoved
  have hframe := C.setLanes_frame (s.active g) (.rfe skip)
  have hpcs (l : Nat) : (C.setLanes (s.active g) (.rfe skip)).pc l = C.pc l := (congrArg (fun K : Gang => K.pc l) hframe :)
  refine ⟨fun l hl => ?_, fun l hl => (hpcs l).trans (hout l hl), fun l => ?_, ?_⟩
  · exact (hpcs l).trans ((hpc l (State.active_sub hl)).trans (if_pos (by simpa using hl)))
  · rw [Gang.laneState_setLanes_eq C (s.active_nodup g), show C.laneState l = s.curGang.laneState l from (congrArg (Gang.laneState · l) hmoved :)]
  · generalize C.setLanes (s.active g) (.rfe skip) = K at hframe
    refine (congrArg (fun H : Gang => { H with
      lst := K.lst, pcs := s.curGang.pcs, pend := s.curGang.pend, fstat := s.curGang.fstat, prog := s.curGang.prog,
      failed := s.curGang.failed }) hframe).trans ?_
    exact (congrArg (fun H : Gang => { H with lst := K.lst }) hmoved :)

theorem State.active_handlerLanes (hact : ∀ l ∈ s.active g, s.curGang.hset.getLsbD l = true ∧ s.curGang.laneState l = .ready) {l : Nat}
    (hl : l ∈ s.active g) : l ∈ s.curGang.handlerLanes := by
  obtain ⟨hset, hready⟩ := hact l hl
  refine Gang.mem_handlerLanes.mpr ⟨Gang.mem_liveLanes.mpr ⟨(mem_lanesOf.mp (State.active_sub hl)).1, ?_⟩, hset⟩
  rw [hready]
  exact LaneState.noConfusion

section
variable (hrep : noRep s.curGang = true) (hact : ∀ l ∈ s.active g, s.curGang.hset.getLsbD l = true ∧ s.curGang.laneState l = .ready)
include hrep hact

/-- The lanes that are Held at the `rfe` are lanes of the handler still. -/
theorem State.handlerLanes_rfeGang : (s.rfeGang g skip).handlerLanes = s.curGang.handlerLanes := by
  obtain ⟨-, -, hstate, hmoved⟩ := State.rfeGang_spec (g := g) (skip := skip) hrep
  have hwidth : (s.rfeGang g skip).width = s.curGang.width := (congrArg Gang.width hmoved :)
  have hhset : (s.rfeGang g skip).hset = s.curGang.hset := (congrArg Gang.hset hmoved :)
  have hlive : (s.rfeGang g skip).liveLanes = s.curGang.liveLanes := by
    unfold Gang.liveLanes Gang.allLanes
    rw [hwidth]
    refine List.filter_congr (fun l _ => ?_)
    rw [hstate l]
    split
    · next hl => simp [(hact l hl).2]
    · rfl
  rw [Gang.handlerLanes, hlive, hhset]
  rfl

/-- R269: until every live lane of HSET is at an `rfe`, those that are there are Held. -/
theorem State.rfe_holds (hc : s.clear (.rfe g skip) = true) (hlevel : s.curGang.level ≠ 0) (hnest : s.curGang.tstat.getLsbD 3 = false)
    {l : Nat} (hl : l ∈ s.curGang.handlerLanes) (hready : s.curGang.laneState l = .ready) (hout : l ∉ s.active g) :
    GangStep s (exec (.rfe g skip) s) (fun H => H.level = s.curGang.level ∧
      (∀ l ∈ s.active g, H.laneState l = .rfe skip ∧ H.pc l = s.cur.pc) ∧ SameRegs s.curGang H) := by
  obtain ⟨hpc, -, hstate, hmoved⟩ := State.rfeGang_spec (g := g) (skip := skip) hrep
  have hstays : (s.rfeGang g skip).tryEnd = s.rfeGang g skip := by
    refine Gang.tryEnd_waits (by rwa [State.handlerLanes_rfeGang hrep hact]) (fun b => ?_)
    rw [hstate l, if_neg hout, hready]
    exact LaneState.noConfusion
  refine ⟨_, exec_rfe_inHandler hc hlevel hnest, ?_⟩
  rw [hstays]
  exact ⟨(congrArg Gang.level hmoved :), fun l hl => ⟨(hstate l).trans (if_pos hl), hpc l hl⟩, (sameRegs_of_moved hmoved :)⟩

section
variable (hlevel : s.curGang.level ≠ 0) (hall : ∀ l ∈ s.curGang.handlerLanes, l ∈ s.active g)
include hlevel hall

/-- R269: the last lanes of HSET arrive, and the handler ends. -/
theorem State.tryEnd_rfeGang :
    (s.rfeGang g skip).tryEnd = (s.rfeGang g skip).endHandler s.curGang.handlerLanes s.curGang.handlerLanes := by
  obtain ⟨-, -, hstate, hmoved⟩ := State.rfeGang_spec (g := g) (skip := skip) hrep
  have hlanes := State.handlerLanes_rfeGang (skip := skip) hrep hact
  have hsame : (s.rfeGang g skip).level = s.curGang.level := (congrArg Gang.level hmoved :)
  have hends := Gang.tryEnd_ends (G := s.rfeGang g skip) (by rwa [hsame]) (fun l hl =>
    ⟨skip, (hstate l).trans (if_pos (hall l (by rwa [hlanes] at hl)))⟩)
  rwa [hlanes] at hends

/-- R269: the lanes of Active go on at TPC, or past it, and the frozen ones are thawed. -/
theorem State.laneAt_tryEnd_rfeGang (l : Nat) : (s.rfeGang g skip).tryEnd.laneAt l =
    if l ∈ s.active g then (.ready, s.curGang.tpc + (if skip then 8 else 0), 0)
    else if l ∈ s.curGang.frozenLanes then ((s.curGang.laneState l).thawed, (s.rfeGang g skip).pc l, 0)
    else (s.rfeGang g skip).laneAt l := by
  obtain ⟨-, -, hstate, hmoved⟩ := State.rfeGang_spec (g := g) (skip := skip) hrep
  have hhset : (s.rfeGang g skip).hset = s.curGang.hset := (congrArg Gang.hset hmoved :)
  have htpc : (s.rfeGang g skip).tpc = s.curGang.tpc := (congrArg Gang.tpc hmoved :)
  have hfrozen : (s.rfeGang g skip).frozenLanes = s.curGang.frozenLanes := (congrArg Gang.frozenLanes hmoved :)
  have hmem : l ∈ s.curGang.handlerLanes ↔ l ∈ s.active g := ⟨hall l, State.active_handlerLanes hact⟩
  rw [State.tryEnd_rfeGang hrep hact hlevel hall, Gang.laneAt_endHandler _ _ s.curGang.handlerLanes_nodup (fun l hl => by
    rw [hhset]
    exact (Gang.mem_handlerLanes.mp hl).2), hstate, htpc, hfrozen]
  by_cases hl : l ∈ s.active g
  · simp only [if_pos hl, if_pos (hmem.mpr hl)]
    cases skip <;> rfl
  · simp only [if_neg hl, if_neg (fun h => hl (hmem.mp h))]

/-- R269: a lane that is not of the run is where it was; one that is Held at an `rfe` is Ready. -/
theorem State.tryEnd_rfeGang_otherLane {l : Nat} (hl : l ∉ s.runLanes) :
    let H := (s.rfeGang g skip).tryEnd
    H.pc l = s.curGang.pc l ∧ ((∀ b, s.curGang.laneState l ≠ .rfe b) → H.laneState l = s.curGang.laneState l) ∧
    (∀ b, l < s.curGang.width → s.curGang.laneState l = .rfe b → H.laneState l = .ready) := by
  obtain ⟨-, hpc, hstate, -⟩ := State.rfeGang_spec (g := g) (skip := skip) hrep
  have hout : l ∉ s.active g := fun h => hl (State.active_sub h)
  have hlane := (State.laneAt_tryEnd_rfeGang (skip := skip) hrep hact hlevel hall l).trans (if_neg hout)
  intro H
  by_cases hf : l ∈ s.curGang.frozenLanes
  · have hthawed := hlane.trans (if_pos hf)
    have hnew : H.laneState l = (s.curGang.laneState l).thawed := congrArg Prod.fst hthawed
    refine ⟨(congrArg (fun x => x.2.1) hthawed).trans (hpc l hl), fun hno => hnew.trans (LaneState.thawed_of_not_rfe hno), fun b _ hb => ?_⟩
    rw [hnew, hb]
    rfl
  · have hsame := hlane.trans (if_neg hf)
    refine ⟨(congrArg (fun x => x.2.1) hsame).trans (hpc l hl), fun _ => (congrArg Prod.fst hsame).trans ((hstate l).trans (if_neg hout)),
      fun b hw hb => absurd (Gang.mem_frozenLanes.mpr ⟨hw, Bool.eq_false_iff.mpr (fun hset => hout (hall l ?_))⟩) hf⟩
    exact Gang.mem_handlerLanes.mpr ⟨Gang.mem_liveLanes.mpr ⟨hw, by rw [hb]; exact LaneState.noConfusion⟩, hset⟩

theorem State.rfe_returns (hc : s.clear (.rfe g skip) = true) (hnest : s.curGang.tstat.getLsbD 3 = false) :
    GangStep s (exec (.rfe g skip) s) (fun H => H.level = 0 ∧ H.hset = 0 ∧
      (∀ l ∈ s.active g, H.laneState l = .ready ∧ H.age l = 0 ∧ H.pc l = s.curGang.tpc + (if skip then 8 else 0)) ∧
      (∀ l, l ∉ s.runLanes → H.pc l = s.curGang.pc l ∧
        ((∀ b, s.curGang.laneState l ≠ .rfe b) → H.laneState l = s.curGang.laneState l) ∧
        (∀ b, l < s.curGang.width → s.curGang.laneState l = .rfe b → H.laneState l = .ready)) ∧
      H.stepArm = (if s.curGang.tstat.getLsbD 7 then s.curGang.stepArm ||| bitsOf s.curGang.handlerLanes else s.curGang.stepArm) ∧
      SameRegs s.curGang H) := by
  obtain ⟨-, -, -, hmoved⟩ := State.rfeGang_spec (g := g) (skip := skip) hrep
  have hframe := (s.rfeGang g skip).endHandler_frame s.curGang.handlerLanes s.curGang.handlerLanes
  rw [← State.tryEnd_rfeGang hrep hact hlevel hall] at hframe
  refine ⟨_, exec_rfe_inHandler hc hlevel hnest, (congrArg Gang.level hframe :).trans (level_cleared _), (congrArg Gang.hset hframe :),
    fun l hl => ?_, fun l hl => State.tryEnd_rfeGang_otherLane hrep hact hlevel hall hl, ?_, sameRegs_trans (sameRegs_of_moved hmoved :) ?_⟩
  · have hlane := (State.laneAt_tryEnd_rfeGang (skip := skip) hrep hact hlevel hall l).trans (if_pos hl)
    exact ⟨congrArg Prod.fst hlane, congrArg (fun x => x.2.2) hlane, congrArg (fun x => x.2.1) hlane⟩
  · refine (congrArg Gang.stepArm hframe :).trans ?_
    rw [show (s.rfeGang g skip).tstat = s.curGang.tstat from (congrArg Gang.tstat hmoved :),
      show (s.rfeGang g skip).stepArm = s.curGang.stepArm from (congrArg Gang.stepArm hmoved :)]
  · exact ⟨(congrArg Gang.pool hframe :), (congrArg Gang.s hframe :), (congrArg Gang.preds hframe :), (congrArg Gang.m hframe :),
      (congrArg Gang.bad hframe :)⟩
end
end
end

/-- Settles O33. The lanes of Active stay at the `rfe`, Held (`State.rfeGang_spec`). Once every live lane of HSET is there, the end of the handler
releases those lanes and thaws the frozen ones (`Gang.laneAt_endHandler`); that a set STEP arms every lane that it releases is the model's choice
(notes/assumptions/33.md). -/
theorem returnsFromHandlersResume : Obligations.ReturnsFromHandlersResume := by
  refine ⟨fun g skip s hc hlevel hnest hrep hact => ⟨fun hall => ?_, ?_⟩, fun g skip s => exec_rfe_outside⟩
  · refine State.rfe_returns hrep hact hlevel (fun l hl => ?_) hc hnest
    obtain ⟨hlive, hset⟩ := Gang.mem_handlerLanes.mp hl
    exact hall l hlive hset
  · rintro ⟨l, hlive, hset, hready, hout⟩
    exact State.rfe_holds hrep hact hc hlevel hnest (Gang.mem_handlerLanes.mpr ⟨hlive, hset⟩) hready hout

end Sys2Proof.Machine
end

section
/-! Context blocks (R271, R279): the words that save and load them, and their size. -/

namespace Sys2Proof.Machine

open Sys2Proof.Safety

/-! ### The size of a block (R279) -/

theorem length_continBytes (c : Contin) : (continBytes c).length = 64 := by simp [continBytes]

theorem length_gangBlock (L : Launch) (G : Gang) (b : Bool) : (gangBlock L G b).length = 1536 := by
  unfold gangBlock
  extract_lets ls inG win cont
  have hcont (k : Nat) : (cont k).length = 64 := by
    unfold cont
    split
    · exact length_continBytes _
    · exact List.length_replicate
  simp only [List.length_append, List.length_flatMap, hcont, length_bytesOfNum, List.map_const', List.sum_replicate, List.length_map,
    List.length_replicate, List.length_cons, List.length_nil]
  simp [ls, upto]

/-! ### The words (R271) -/

section
variable {g : Grd} {a : BitVec 8} {s : State}

theorem exec_ctxSave (hc : s.clear (.ctxSave g a) = true) (hne : s.active g ≠ []) (hq : s.curGang.queue.length < 32)
    (hgood : (s.checkLanes s.cur.team s.cur.gang .glob 128 .write (blockLines (s.curGang.readS a.toNat))).causes = []) :
    exec (.ctxSave g a) s =
      (let C := s.checkLanes s.cur.team s.cur.gang .glob 128 .write (blockLines (s.curGang.readS a.toNat))
       let bs := gangBlock C.st.curTeam.launch (C.st.curGang.countWindows C.st.curGang.allLanes true) true
       .next ((C.st.enqueue C.st.cur.team C.st.cur.gang
         (C.locs.flatMap (fun q => locWrite C.st.cur.team q.2 ((bs.drop (128 * q.1)).take 128)))).finish true)) := by
  show execCtxSave g a s = _
  rw [execCtxSave, runWord_clear hc]
  dsimp only
  rw [if_neg (by simpa using hne), if_neg (by simp [Gang.queueFull, hq]), Checked.settle_ok _ hgood]
  rfl

/-- R271: the lines of a block that are in memory, each with its address. -/
def blockPlaces (a : W64) (locs : List (Nat × Loc)) : List (W64 × Nat) :=
  locs.filterMap (fun q => match q.2 with
    | .mem pa => some (a + BitVec.ofNat 64 (128 * q.1), pa)
    | _ => none)

theorem exec_ctxLoad {s1 : State} {bss : List (List Byte)} (hc : s.clear (.ctxLoad g a) = true) (hne : s.active g ≠ [])
    (hgood : (s.checkLanes s.cur.team s.cur.gang .glob 128 .read (blockLines (s.curGang.readS a.toNat))).causes = [])
    (hread : (let C := s.checkLanes s.cur.team s.cur.gang .glob 128 .read (blockLines (s.curGang.readS a.toNat))
      C.st.readStack C.st.cur.team C.st.cur.gang 128 (blockPlaces (C.st.curGang.readS a.toNat) C.locs)) = (s1, bss, [])) :
    exec (.ctxLoad g a) s = (let t := s1.finish true
      .next (t.setCur ((t.curGang.loadBlock bss.flatten t.curGang.frozenLanes).testMasks))) := by
  show execCtxLoad g a s = _
  rw [execCtxLoad, runWord_clear hc]
  dsimp only at hread ⊢
  rw [if_neg (by simpa using hne), Checked.settle_ok _ hgood]
  split
  · next h => cases h.symm.trans hread
  · next h =>
    cases h.symm.trans hread
    rfl
end

/-- Settles O36. Where every line passes its check the words act on the lines that were found (`Checked.settle_ok`); the parts of a block add up
to twelve lines (`length_gangBlock`). -/
theorem contextBlocksAreSavedAndLoaded : Obligations.ContextBlocksAreSavedAndLoaded :=
  ⟨fun _ _ _ => exec_ctxSave, fun L G => length_gangBlock L G true, fun _ _ _ _ _ => exec_ctxLoad⟩

end Sys2Proof.Machine
end

section
/-! The watchdog of a context that is killed (R280): nothing that the ends of kills do starts it again. -/

namespace Sys2Proof.Machine

/-! ### Lines that leave their L1s (R225, R226, R290) -/

/-- What moves lines and wakes teams leaves contexts and clusters alone. -/
structure State.LinesMove (o s : State) : Prop where
  ctxs : s.ctxs = o.ctxs
  clusters : s.clusters = o.clusters

section
variable {o s u : State} {t core line : Nat}

theorem State.LinesMove.refl (s : State) : s.LinesMove s := ⟨rfl, rfl⟩

theorem State.LinesMove.same (hs : o.LinesMove s) (hc : u.ctxs = s.ctxs) (hl : u.clusters = s.clusters) : o.LinesMove u :=
  ⟨hc.trans hs.ctxs, hl.trans hs.clusters⟩

theorem State.LinesMove.ite {c : Prop} [Decidable c] (hs : o.LinesMove s) (hu : o.LinesMove u) : o.LinesMove (if c then s else u) := by
  split
  · exact hs
  · exact hu

theorem State.LinesMove.foldl {α : Type} {f : State → α → State} {l : List α} (hs : o.LinesMove s)
    (hf : ∀ s x, o.LinesMove s → o.LinesMove (f s x)) : o.LinesMove (l.foldl f s) :=
  List.foldlRecOn (motive := o.LinesMove) l f hs (fun s h x _ => hf s x h)

theorem State.LinesMove.requeue (hs : o.LinesMove s) : o.LinesMove (s.requeue t) := by
  have hone (s : State) (k : Nat) (hs : o.LinesMove s) : o.LinesMove (s.relaunch k) := by
    unfold State.relaunch
    exact .ite (.same hs rfl rfl) hs
  unfold State.requeue
  extract_lets T
  exact .ite hs (.ite (hone s t hs) (.foldl hs (fun _ _ h => hone _ _ h)))

theorem State.LinesMove.wakeSpilled (hs : o.LinesMove s) : o.LinesMove (s.wakeSpilled line) := by
  unfold State.wakeSpilled State.sendFlits
  extract_lets h ts s1
  have h1 : o.LinesMove s1 := .foldl hs (fun _ _ h => .ite (.ite h (.same h rfl rfl)) h.requeue)
  exact .ite h1 (.same h1 rfl rfl)

theorem State.LinesMove.dropL1 (hs : o.LinesMove s) : o.LinesMove (s.dropL1 core line) := by
  unfold State.dropL1
  exact .ite (.same hs rfl rfl) (.same hs rfl rfl)

theorem State.LinesMove.freeBypass (hs : o.LinesMove s) : o.LinesMove (s.freeBypass line) := by
  unfold State.freeBypass
  exact .ite (.same hs rfl rfl) hs

theorem State.LinesMove.evictL1 {x : L1Line} (hs : o.LinesMove s) : o.LinesMove (s.evictL1 core x) := by
  unfold State.evictL1 State.sliceWriteBack
  extract_lets s1
  have h1 : o.LinesMove (s1.modSlice (homeOf (x.line * 128)) (fun S => S.modEntry x.line (fun e =>
    { e with owner := none, sharers := 0, dirty := e.way.isSome }))) := .same hs.dropL1 rfl rfl
  exact .ite h1.wakeSpilled.freeBypass hs.dropL1.freeBypass

/-- R290: the cleaning of a cluster moves its lines and sets its mode. -/
theorem State.cleanCluster_eq (s : State) (cl : Nat) (fused : Bool) : ∃ u, s.LinesMove u ∧
    s.cleanCluster cl fused = u.modCluster cl (fun C => { C with fused := fused }) :=
  ⟨_, .foldl (.refl s) (fun _ _ h => .foldl h (fun _ _ h' => h'.evictL1)), rfl⟩

theorem State.ctxs_cleanCluster (s : State) (cl : Nat) (fused : Bool) : (s.cleanCluster cl fused).ctxs = s.ctxs := by
  obtain ⟨u, hu, he⟩ := s.cleanCluster_eq cl fused
  rw [he]
  exact hu.ctxs
end

/-! ### A watchdog that is stopped -/

/-- R280: the watchdog of a context is stopped, and no kill of it is deferred. -/
structure State.Unwatched (c : Nat) (s : State) : Prop where
  wdStart : (s.ctx c).wdStart = none
  wdDefer : (s.ctx c).wdDefer = false

section
variable {c d : Nat} {s u : State}

theorem State.Unwatched.same (hs : s.Unwatched c) (h : u.ctxs = s.ctxs) : u.Unwatched c := by
  have hctx : u.ctx c = s.ctx c := by rw [State.ctx, State.ctx, h]
  exact ⟨hctx ▸ hs.wdStart, hctx ▸ hs.wdDefer⟩

theorem State.Unwatched.ite {p : Prop} [Decidable p] (hs : s.Unwatched c) (hu : u.Unwatched c) : (if p then s else u).Unwatched c := by
  split
  · exact hs
  · exact hu

theorem State.Unwatched.foldl {α : Type} {f : State → α → State} {l : List α} (hs : s.Unwatched c)
    (hf : ∀ s x, s.Unwatched c → (f s x).Unwatched c) : (l.foldl f s).Unwatched c :=
  List.foldlRecOn (motive := State.Unwatched c) l f hs (fun s h x _ => hf s x h)

theorem State.Unwatched.modCtx_ne (hs : s.Unwatched c) (h : d ≠ c) (f : Context → Context) : (s.modCtx d f).Unwatched c := by
  have hctx : (s.modCtx d f).ctx c = s.ctx c := State.ctx_modCtx_ne _ h.symm _
  exact ⟨hctx ▸ hs.wdStart, hctx ▸ hs.wdDefer⟩

/-- What neither starts a watchdog nor defers a kill. -/
theorem State.Unwatched.modCtx {f : Context → Context} (hs : s.Unwatched c)
    (hf : ∀ C, (f C).wdStart = C.wdStart ∧ (f C).wdDefer = C.wdDefer) : (s.modCtx d f).Unwatched c := by
  by_cases h : d = c
  · subst h
    obtain ⟨hstart, hdefer⟩ := hf (s.ctx d)
    rw [← State.ctx_modCtx s d f] at hstart hdefer
    exact ⟨hstart.trans hs.wdStart, hdefer.trans hs.wdDefer⟩
  · exact hs.modCtx_ne h f

theorem State.Unwatched.fst {α : Type} {p : State × α} {x : α} (hp : p.1.Unwatched c) (e : p = (s, x)) : s.Unwatched c := by
  subst e
  exact hp
end

section
variable {c d t core fn n : Nat} {s : State}

/-! ### Places and clusters -/

theorem State.Unwatched.emptyTlbs (hs : s.Unwatched c) : (s.emptyTlbs n).Unwatched c := by
  unfold State.emptyTlbs
  exact .foldl (.same hs rfl) (fun _ _ h => .same h rfl)

theorem State.Unwatched.settleCluster (hs : s.Unwatched c) : (s.settleCluster n).Unwatched c := by
  unfold State.settleCluster
  extract_lets C
  have hclean : (s.cleanCluster n false).Unwatched c := hs.same (s.ctxs_cleanCluster n false)
  exact .ite hs (.ite (.same hclean.emptyTlbs (State.modCluster_ctxs ..)) (.ite hclean hs))

theorem State.Unwatched.tryCbar {T : Team} {gone : Option Nat} (hs : s.Unwatched c) : (s.tryCbar n T gone).Unwatched c := by
  unfold State.tryCbar
  extract_lets E ms
  exact .ite (.foldl (.same hs rfl) (fun _ _ h => .same h rfl)) hs

theorem State.Unwatched.leaveCbar (hs : s.Unwatched c) : (s.leaveCbar t).Unwatched c := by
  unfold State.leaveCbar
  extract_lets T cl E
  exact .ite (.tryCbar (.same hs rfl)) hs

theorem State.Unwatched.countSlots (hs : s.Unwatched c) : (s.countSlots t).Unwatched c := by
  unfold State.countSlots
  extract_lets T n s1
  have h1 : s1.Unwatched c := .foldl hs (fun _ _ h => .same h rfl)
  exact h1.same rfl

theorem State.Unwatched.enterCopies (hs : s.Unwatched c) : (s.enterCopies core).Unwatched c := by
  unfold State.enterCopies State.enterTeam
  refine .foldl hs (fun _ _ h => .ite (.foldl h (fun _ _ h' => ?_)) h)
  exact .ite (.same h' rfl) h'

theorem State.Unwatched.returnMeter (hs : s.Unwatched c) : (s.returnMeter core d).Unwatched c := by
  unfold State.returnMeter
  extract_lets M n s1
  have h1 : s1.Unwatched c := hs.modCtx (fun _ => ⟨rfl, rfl⟩)
  exact .ite hs (.same h1 rfl)

theorem State.Unwatched.freeKilled (hs : s.Unwatched c) : (s.freeKilled t).Unwatched c := by
  unfold State.freeKilled State.leavePlace
  extract_lets T s1 s2 s3
  have h1 : s1.Unwatched c := .ite hs.countSlots.leaveCbar hs
  have h2 : s2.Unwatched c := h1.same rfl
  have h3 : s3.Unwatched c := h2.settleCluster
  exact .ite (.foldl h3 (fun _ _ h => h.enterCopies.returnMeter)) h2

/-! ### Messages and page requests -/

theorem State.Unwatched.signal (hs : s.Unwatched c) : (s.signal fn n).Unwatched c := by
  unfold State.signal
  exact .ite (.same hs rfl) (.same hs rfl)

theorem State.Unwatched.tellHost {why : Notice} (hs : s.Unwatched c) : (s.tellHost d why).Unwatched c := by
  unfold State.tellHost
  exact .signal (.same hs rfl)

theorem State.Unwatched.flushPrq (hs : s.Unwatched c) : (s.flushPrq fn).Unwatched c := by
  unfold State.flushPrq
  refine .foldl hs (fun s _ h => ?_)
  unfold State.flushPrqOne
  extract_lets R n blocked
  split
  · exact h
  · extract_lets s1 s2
    have h2 : s2.Unwatched c := h.same rfl
    exact .ite h (.signal (.same h2 rfl))

theorem State.Unwatched.requestPage {page : Nat} {s2 : Bool} {acc : Access} {engine : Bool} (hs : s.Unwatched c) :
    (s.requestPage d page s2 acc engine).1.Unwatched c := by
  unfold State.requestPage
  extract_lets p id r
  split
  · exact hs
  · split
    · exact .flushPrq (.same hs rfl)
    · exact hs

theorem State.Unwatched.requestAll {keys : List (PageKey × Access)} (hs : s.Unwatched c) : (s.requestAll d keys).1.Unwatched c := by
  unfold State.requestAll
  refine List.foldlRecOn (motive := fun r : State × List Nat × List (PageKey × Access) => r.1.Unwatched c) keys _ hs (fun r hr k _ => ?_)
  split
  · next heq => exact State.Unwatched.fst hr.requestPage heq
  · next heq => exact State.Unwatched.fst hr.requestPage heq

theorem State.Unwatched.killPrqs (hs : s.Unwatched c) : (s.killPrqs d).Unwatched c := by
  unfold State.killPrqs
  refine .foldl hs (fun s q h => ?_)
  unfold State.freePrq
  split
  · exact h
  · refine .flushPrq ?_
    unfold State.releaseParked
    split
    · exact h.same rfl
    · split
      · extract_lets r s1
        have hr : r.1.Unwatched c := .requestAll (.same h rfl)
        have h1 : s1.Unwatched c := hr.same rfl
        exact .ite (.same h1 rfl) h1
      · exact h.same rfl

/-! ### Packets (R480) -/

theorem State.Unwatched.restartWatch (hs : s.Unwatched c) (h : d ≠ c) : (s.restartWatch d).Unwatched c := by
  unfold State.restartWatch State.watch
  have h1 := hs.modCtx_ne h (fun C => { C with wdStart := C.wdStart.map (fun _ => s.time) })
  exact .ite (h1.modCtx_ne h _) (h1.modCtx_ne h _)

theorem State.parts_restartWatch (s : State) (d : Nat) : (s.restartWatch d).parts = s.parts := by
  unfold State.restartWatch State.watch
  split <;> rfl

/-- What tells the host of a packet leaves contexts and partitions alone. -/
structure State.Tells (o s : State) : Prop where
  ctxs : s.ctxs = o.ctxs
  parts : s.parts = o.parts

theorem State.Tells.ite {o s u : State} {p : Prop} [Decidable p] (hs : o.Tells s) (hu : o.Tells u) : o.Tells (if p then s else u) := by
  split
  · exact hs
  · exact hu
theorem State.Tells.hostPut {o s : State} {bs : List Byte} (hs : o.Tells s) : o.Tells (s.hostPut fn n bs) := ⟨hs.ctxs, hs.parts⟩
theorem State.Tells.modFunc {o s : State} {f : Func → Func} (hs : o.Tells s) : o.Tells (s.modFunc fn f) := ⟨hs.ctxs, hs.parts⟩
theorem State.Tells.modRing {o s : State} {ring : Nat} {f : Ring → Ring} (hs : o.Tells s) : o.Tells (s.modRing fn ring f) := ⟨hs.ctxs, hs.parts⟩
theorem State.Tells.modPkt {o s : State} {ring : Nat} {f : PktRun → PktRun} (hs : o.Tells s) : o.Tells (s.modPkt fn ring n f) := hs.modRing
theorem State.Tells.signal {o s : State} (hs : o.Tells s) : o.Tells (s.signal fn n) := by
  unfold State.signal State.sendMsg
  exact .ite ⟨hs.ctxs, hs.parts⟩ hs.modFunc

/-- R479, R480: a completion restarts the watchdog of its ring's context. -/
theorem State.completePkt_eq (s : State) (fn ring pos code detail : Nat) : s.completePkt fn ring pos code detail = s ∨
    ∃ u : State, s.Tells u ∧ s.completePkt fn ring pos code detail = u.restartWatch (s.ringCtx fn ring) := by
  unfold State.completePkt
  split
  · exact .inl rfl
  · extract_lets s1 s2 old s3 s4 v s5
    have h0 : s.Tells s := ⟨rfl, rfl⟩
    have h1 : s.Tells s1 := .ite h0.hostPut h0
    have h3 : s.Tells s3 := h1.modPkt.modRing
    have h4 : s.Tells s4 := .ite h3 h3.hostPut
    have h5 : s.Tells s5 := .ite h4.signal h4
    clear_value s5
    split
    · exact .inl rfl
    · refine .inr ⟨s5, h5, ?_⟩
      rw [State.ringCtx, State.ringCtx, State.part, State.part, h5.parts]

theorem State.Unwatched.killPackets (hs : s.Unwatched c) (hd : d ≠ c) : (s.killPackets d).Unwatched c := by
  unfold State.killPackets
  refine .foldl hs (fun s f hs => .foldl hs (fun s r hs => ?_))
  split
  · next hring =>
    have hall := List.foldlRecOn (motive := fun u : State => u.Unwatched c ∧ u.ringCtx f.1 r.1 = d) r.2.pkts
      (fun s p => s.completePkt f.1 r.1 p.pos 6 0) ⟨hs, hring.2⟩ (fun u hu p _ => by
        obtain ⟨hun, hctx⟩ := hu
        rcases u.completePkt_eq f.1 r.1 p.pos 6 0 with he | ⟨v, hv, he⟩
        · rw [he]
          exact ⟨hun, hctx⟩
        · rw [he, hctx]
          refine ⟨(hun.same hv.ctxs).restartWatch hd, ?_⟩
          rw [State.ringCtx, State.part, State.parts_restartWatch, hv.parts]
          exact hctx)
    exact hall.1
  · exact hs

/-! ### The ends of kills (R280, R347) -/

theorem State.unwatched_killEnded (s : State) (c : Nat) : (s.modCtx c Context.killEnded).Unwatched c := by
  constructor <;> rw [State.ctx_modCtx] <;> rfl

theorem State.unwatched_killBegun (s : State) (c f : Nat) (why : Notice) : (s.modCtx c (Context.killBegun f why)).Unwatched c := by
  constructor <;> rw [State.ctx_modCtx] <;> rfl

theorem State.Unwatched.endKill (hs : s.Unwatched c) (d : Nat) : (s.endKill d).Unwatched c := by
  unfold State.endKill
  extract_lets ts cores s2 s3 s4 s5
  refine .tellHost ?_
  by_cases hd : d = c
  · subst hd
    exact s5.unwatched_killEnded d
  · have h2 : s2.Unwatched c := .foldl hs (fun _ _ h => h.freeKilled)
    have h3 : s3.Unwatched c := h2.same rfl
    have h4 : s4.Unwatched c := h3.killPrqs.killPackets hd
    have h5 : s5.Unwatched c := .foldl h4 (fun _ _ h => h.returnMeter)
    exact h5.modCtx_ne hd _

/-- R280: a kill stops the watchdog of its context. -/
theorem State.unwatched_killFor {why : Notice} (h : (s.ctx c).dying = none) : (s.killFor c why).Unwatched c := by
  obtain ⟨u, -, -, he⟩ := s.killFor_eq c why h
  rw [he]
  exact State.settleKills_induction (P := State.Unwatched c) (u.unwatched_killBegun c _ why) (fun _ d h => h.endKill d)

end
end Sys2Proof.Machine
end

section
/-! Overdue contexts (R280, R281), and clusters that are lent and reclaimed (R420, R421). -/

namespace Sys2Proof.Machine

/-! ### Kills (R280, R281, R421) -/

theorem State.killFor_ends {s : State} {c k : Nat} {T : Team} {why : Notice} (hd : (s.ctx c).dying = none) (hk : tfind s.teams k = some T)
    (hc : T.ctx = c) : ((s.killFor c why).team k).state = .retired ∨
      (T.onDie = true ∧ ((s.killFor c why).team k).state = .killed ∧ ((s.killFor c why).ctx c).dying.isSome = true) := by
  have hT := State.team_of_tfind hk
  have h := (State.ended_killFor (why := why) hd (Option.isSome_iff_exists.mpr ⟨T, hk⟩) (hT ▸ hc)).of_wanes (s.wanes_killFor c why)
  rwa [hT] at h

section
variable {s : State} {c t0 : Nat}

/-- R280: the time of WDOG, in periods of TIME. -/
theorem State.watchdog_due (hnow : (s.ctx c).wdogNow ≠ 0) (hdue : t0 + (s.ctx c).wdogNow * 2400000 ≤ s.time) :
    ¬((s.ctx c).wdogNow = 0 ∨ s.time < t0 + (s.ctx c).wdogNow * 1000 * Config.usPeriods) := by
  have hunit : (s.ctx c).wdogNow * 1000 * Config.usPeriods = (s.ctx c).wdogNow * 2400000 := Nat.mul_assoc ..
  omega

variable (hstart : (s.ctx c).wdStart = some t0) (hnow : (s.ctx c).wdogNow ≠ 0) (hdue : t0 + (s.ctx c).wdogNow * 2400000 ≤ s.time)
include hstart hnow hdue

theorem exec_watchdogExpiry_kills
    (hno : ∀ p ∈ s.teams, p.2.ctx = c → p.2.state ≠ .saving ∧ ∀ r, p.2.stopReq = some r → r.stopped = none) :
    exec (.watchdogExpiry c) s = .next (s.killFor c .watchdog) := by
  show execWatchdogExpiry c s = _
  rw [execWatchdogExpiry, hstart]
  dsimp only
  rw [if_neg (State.watchdog_due hnow hdue), if_neg]
  rw [List.any_eq_true]
  rintro ⟨p, hp, hsaves⟩
  simp only [Bool.and_eq_true, Bool.or_eq_true, decide_eq_true_eq] at hsaves
  obtain ⟨hc, hsaves⟩ := hsaves
  obtain ⟨hsaving, hstop⟩ := hno p hp hc
  refine hsaves.elim hsaving (fun h => ?_)
  split at h
  · next r hr => simp [hstop r hr] at h
  · exact Bool.false_ne_true h

theorem exec_watchdogExpiry_defers (hsaves : ∃ p ∈ s.teams, p.2.ctx = c ∧ p.2.state = .saving) :
    exec (.watchdogExpiry c) s = .next (s.modCtx c (fun C => { C with wdDefer := true })) := by
  obtain ⟨p, hp, hc, hsaving⟩ := hsaves
  show execWatchdogExpiry c s = _
  rw [execWatchdogExpiry, hstart]
  dsimp only
  rw [if_neg (State.watchdog_due hnow hdue), if_pos]
  exact List.any_eq_true.mpr ⟨p, hp, by simp [hc, hsaving]⟩
end

section
variable {s : State} {team t0 : Nat} {r : StopReq} (hreq : (s.team team).stopReq = some r)
include hreq

/-- R281: only a save that has begun leaves a part of its record. -/
theorem exec_saveBoundExpiry (hstop : r.stopped = some t0) (hdie : (s.team team).onDie = true) (hdue : t0 + 1200000 ≤ s.time) :
    exec (.saveBoundExpiry team) s =
      .next ((if (s.team team).state = .saving then s.partRecord team else s).killFor (s.team team).ctx .unsaved) := by
  have hpart : (if (s.team team).state = .saving then s.partRecord team else s) = s.partRecord team := by
    split
    · rfl
    · next h => exact (if_pos h).symm
  show execSaveBoundExpiry team s = _
  rw [execSaveBoundExpiry, hreq, hpart]
  dsimp only
  rw [hstop]
  exact if_pos (Bool.and_eq_true_iff.mpr ⟨hdie, decide_eq_true hdue⟩)

theorem exec_reclaimRefusedTimeout {u j : Nat} {G : Gang} (hplaced : (s.team team).state = .placed) (hr : r.reason = 5) (hu : u ∈ s.mates team)
    (hre : (s.cluster (clusterOfCore (s.team u).core)).reclaim = some t0) (hdue : t0 + 2400000 ≤ s.time) (hG : (j, G) ∈ (s.team team).gangs)
    (hfin : G.finished = false) (hlevel : G.level = 2) :
    exec (.reclaimRefusedTimeout team) s = .next (s.killFor (s.team team).ctx .reclaimRefused) := by
  show execReclaimRefusedTimeout team s = _
  rw [execReclaimRefusedTimeout, hreq]
  refine if_pos ⟨hplaced, hr, List.any_eq_true.mpr ⟨u, hu, ?_⟩, List.any_eq_true.mpr ⟨(j, G), hG, by simp [hfin, hlevel]⟩⟩
  rw [hre]
  exact decide_eq_true hdue
end

/-! ### Lending (R420) and limiters (R322) -/

theorem State.cluster_modCluster_ne (s : State) {c d : Nat} (h : d ≠ c) (f : Cluster → Cluster) : (s.modCluster c f).cluster d = s.cluster d := by
  simp [State.cluster, State.modCluster, tget_tput_ne _ _ h]

theorem exec_clusterLend {s : State} {cl p : Nat} (hl : s.lendable cl = true) (hb : (s.part p).borrows = true) (ho : s.ownerOf (cl / 8) ≠ some p)
    (hs : s.stuckHead (cl / 32) p (fun t => (s.saveRoom t).isSome) = true) :
    exec (.clusterLend cl p) s = .next ((s.cleanCluster cl false).modCluster cl (fun C => { C with lent := some p })) := by
  show execClusterLend cl p s = _
  exact if_pos (by simp [hl, hb, ho, hs])

/-- R290, R420: the cleaned cluster is not fused, and no other cluster has changed. -/
theorem State.cluster_cleanCluster (s : State) (cl : Nat) (fused : Bool) : ((s.cleanCluster cl fused).cluster cl).fused = fused ∧
    ∀ k, k ≠ cl → (s.cleanCluster cl fused).cluster k = s.cluster k := by
  obtain ⟨u, hu, he⟩ := s.cleanCluster_eq cl fused
  rw [he, State.cluster_modCluster]
  refine ⟨rfl, fun k hk => ?_⟩
  rw [State.cluster_modCluster_ne _ hk, State.cluster, State.cluster, hu.clusters]

theorem limiterRefill_fills (s : State) (die p : Nat) (h : tget 0 (s.dieOf die).limAt p / 1024 < s.time / 1024) :
    ∃ t, exec (.limiterRefill die p) s = .next t ∧ tget 0 (t.dieOf die).limAt p = s.time ∧
      tget 0 (t.dieOf die).limiter p = min ((s.dieOf die).burst p : Int) (tget 0 (s.dieOf die).limiter p +
        ((s.time / 1024 - tget 0 (s.dieOf die).limAt p / 1024 : Nat) : Int) * (s.dieOf die).rate p) ∧ t.mem = s.mem := by
  refine ⟨_, if_neg (by omega), ?_, ?_, rfl⟩
  · rw [State.dieOf_modDie, tget_tput_same]
  · rw [State.dieOf_modDie, tget_tput_same]

end Sys2Proof.Machine
end

section
/-! Reclaims (R421): the teams of a cluster that is lent are asked to stop, and the cluster goes back once it is idle. -/

namespace Sys2Proof.Machine

/-! ### One team -/

/-- R421: a team with a request of a state's TIME to stop for a reclaim; a request for a later reason stands. -/
def State.reclaimAsk (o : State) (T : Team) : Team :=
  match T.stopReq with
  | none => { T with stopReq := some ⟨5, o.time, false, none, none, (o.ctx T.ctx).rott⟩ }
  | some r => if r.reason < 5 then { T with stopReq := some { r with reason := 5 } } else T

section
variable (o : State) {T : Team}

theorem State.reclaimAsk_frame (T : Team) : { o.reclaimAsk T with stopReq := T.stopReq } = T := by
  unfold State.reclaimAsk
  split
  · rfl
  · split <;> rfl

theorem State.reclaimAsk_none (h : T.stopReq = none) :
    o.reclaimAsk T = { T with stopReq := some ⟨5, o.time, false, none, none, (o.ctx T.ctx).rott⟩ } := by
  rw [State.reclaimAsk, h]

theorem State.reclaimAsk_earlier {r : StopReq} (h : T.stopReq = some r) (h5 : r.reason < 5) :
    o.reclaimAsk T = { T with stopReq := some { r with reason := 5 } } := by
  rw [State.reclaimAsk, h]
  exact if_pos h5

theorem State.reclaimAsk_stands {r : StopReq} (h : T.stopReq = some r) (h5 : 5 ≤ r.reason) : o.reclaimAsk T = T := by
  rw [State.reclaimAsk, h]
  exact if_neg (Nat.not_lt.mpr h5)

theorem State.reclaimAsk_twice (T : Team) : o.reclaimAsk (o.reclaimAsk T) = o.reclaimAsk T := by
  cases h : T.stopReq with
  | none =>
    rw [State.reclaimAsk_none o h]
    exact State.reclaimAsk_stands o rfl (Nat.le_refl 5)
  | some r =>
    by_cases h5 : r.reason < 5
    · rw [State.reclaimAsk_earlier o h h5]
      exact State.reclaimAsk_stands o rfl (Nat.le_refl 5)
    · rw [State.reclaimAsk_stands o h (Nat.not_lt.mp h5), State.reclaimAsk_stands o h (Nat.not_lt.mp h5)]
end

/-! ### The teams of a cluster -/

/-- A write of a table's entry keeps every entry but the one that is read. -/
theorem mem_tput_of_mem {α : Type} {t : Tbl α} {a : Nat} (v d : α) {p : Nat × α} (h : p ∈ t) : p ∈ tput t a v ∨ p = (a, tget d t a) := by
  induction t with
  | nil => cases h
  | cons q t ih =>
    obtain ⟨k, w⟩ := q
    unfold tput tget tfind
    by_cases hk : a = k
    · subst hk
      rw [if_pos rfl, if_pos rfl]
      exact (List.mem_cons.mp h).symm.imp_left (List.mem_cons_of_mem _)
    · rw [if_neg hk, if_neg hk]
      split
      · exact .inl (List.mem_cons_of_mem _ h)
      · rcases List.mem_cons.mp h with rfl | h
        · exact .inl List.mem_cons_self
        · exact (ih h).imp_left (List.mem_cons_of_mem _)

theorem State.clusterIdle_eq_false {s : State} {cl : Nat} :
    s.clusterIdle cl = false ↔ ∃ p ∈ s.teams, p.2.onDie = true ∧ clusterOfCore p.2.core = cl := by
  simp [State.clusterIdle, State.clusterTeams]

/-- From `o` to `s` some teams have been asked to stop for a reclaim, and no cluster has become idle. -/
structure State.Reclaims (o s : State) : Prop where
  time : s.time = o.time
  futures : s.futures = o.futures
  clusters : s.clusters = o.clusters
  rott : ∀ c, (s.ctx c).rott = (o.ctx c).rott
  kept : ∀ k, (tfind o.teams k).isSome = true → (tfind s.teams k).isSome = true
  team : ∀ k, s.team k = o.team k ∨ s.team k = o.reclaimAsk (o.team k)
  busy : ∀ cl, o.clusterIdle cl = false → s.clusterIdle cl = false

section
variable {o s : State} {t k : Nat}

theorem State.Reclaims.refl (s : State) : s.Reclaims s := ⟨rfl, rfl, rfl, fun _ => rfl, fun _ => id, fun _ => .inl rfl, fun _ => id⟩

theorem State.Reclaims.latchWdog (hs : o.Reclaims s) (c : Nat) : o.Reclaims (s.latchWdog c) := by
  unfold State.latchWdog
  split
  · exact hs
  · refine ⟨hs.time, hs.futures, hs.clusters, fun d => ?_, hs.kept, hs.team, hs.busy⟩
    rw [← hs.rott d]
    by_cases h : d = c
    · rw [h, State.ctx_modCtx]
    · rw [State.ctx_modCtx_ne _ h]

theorem State.Reclaims.ask (hs : o.Reclaims s) (t : Nat) : o.Reclaims (s.modTeam t o.reclaimAsk) := by
  refine ⟨hs.time, hs.futures, hs.clusters, hs.rott, fun k hk => ?_, fun k => ?_, fun cl hcl => ?_⟩
  · by_cases h : k = t
    · rw [h]
      exact congrArg Option.isSome (tfind_tput_same ..)
    · exact (congrArg Option.isSome (tfind_tput_ne _ h _)).trans (hs.kept k hk)
  · by_cases h : k = t
    · subst h
      rw [State.team_modTeam]
      rcases hs.team k with e | e
      · exact .inr (by rw [e])
      · exact .inr (by rw [e, State.reclaimAsk_twice])
    · rw [State.modTeam, State.team_setTeam_ne _ h]
      exact hs.team k
  · obtain ⟨p, hp, hpd, hpc⟩ := State.clusterIdle_eq_false.mp (hs.busy cl hcl)
    refine State.clusterIdle_eq_false.mpr ?_
    have hframe := o.reclaimAsk_frame (s.team t)
    rcases mem_tput_of_mem (a := t) (o.reclaimAsk (s.team t)) {} hp with hp | rfl
    · exact ⟨p, hp, hpd, hpc⟩
    · refine ⟨(t, o.reclaimAsk (s.team t)), mem_of_tfind (tfind_tput_same ..), ?_, ?_⟩
      · exact (congrArg Team.onDie hframe :).trans hpd
      · exact (congrArg (fun T : Team => clusterOfCore T.core) hframe :).trans hpc

/-- R421: what a request for a reclaim makes of a team. -/
theorem State.Reclaims.askOne_eq (hs : o.Reclaims s) (t : Nat) :
    (s.askOne t 5 false none = s ∧ ((s.team t).state = .placed → s.orphan (s.team t) = false → o.reclaimAsk (s.team t) = s.team t)) ∨
    ∃ u, o.Reclaims u ∧ u.teams = s.teams ∧ s.askOne t 5 false none = u.modTeam t o.reclaimAsk := by
  unfold State.askOne
  extract_lets T
  split
  · next h => exact .inl ⟨rfl, fun hp ho => absurd h (by simp [T, hp, ho])⟩
  · split
    · next hreq =>
      have hteams : (s.latchWdog T.ctx).teams = s.teams := by
        unfold State.latchWdog
        split <;> rfl
      refine .inr ⟨_, hs.latchWdog T.ctx, hteams, ?_⟩
      rw [State.modTeam, State.modTeam, State.team_congr hteams, State.reclaimAsk_none o hreq, hs.time, hs.rott]
    · next r hreq =>
      split
      · next h => exact .inr ⟨s, hs, rfl, by rw [State.modTeam, State.modTeam, State.reclaimAsk_earlier o hreq h.2]⟩
      · next h => exact .inl ⟨rfl, fun _ _ => State.reclaimAsk_stands o hreq (by omega)⟩

theorem State.Reclaims.askOne (hs : o.Reclaims s) (t : Nat) : o.Reclaims (s.askOne t 5 false none) := by
  rcases hs.askOne_eq t with ⟨he, -⟩ | ⟨u, hu, -, he⟩
  · rwa [he]
  · rw [he]
    exact hu.ask t

theorem State.Reclaims.askStop (hs : o.Reclaims s) (t : Nat) : o.Reclaims (s.askStop t 5) :=
  List.foldlRecOn (motive := o.Reclaims) _ _ hs (fun _ h u _ => h.askOne u)

/-- R421: a team of the cluster has been asked. -/
structure State.Asked (o : State) (k : Nat) (s : State) : Prop extends State.Reclaims o s where
  asked : s.team k = o.reclaimAsk (o.team k)

theorem State.Asked.askOne (hs : o.Asked k s) (t : Nat) : o.Asked k (s.askOne t 5 false none) := by
  refine ⟨hs.toReclaims.askOne t, ?_⟩
  rcases hs.toReclaims.askOne_eq t with ⟨he, -⟩ | ⟨u, -, hteams, he⟩
  · rw [he, hs.asked]
  · rw [he]
    by_cases h : k = t
    · subst h
      rw [State.team_modTeam, State.team_congr hteams, hs.asked, State.reclaimAsk_twice]
    · rw [State.modTeam, State.team_setTeam_ne _ h, State.team_congr hteams, hs.asked]

theorem State.Asked.askStop (hs : o.Asked k s) (t : Nat) : o.Asked k (s.askStop t 5) :=
  List.foldlRecOn (motive := o.Asked k) _ _ hs (fun _ h u _ => h.askOne u)

/-- R303: a team that has not retired is of its own group. -/
theorem State.mem_mates {s : State} (hk : (tfind s.teams k).isSome = true) (hr : (s.team k).state ≠ .retired) : k ∈ s.mates k := by
  unfold State.mates
  extract_lets T
  split
  · exact List.mem_singleton_self k
  · next hxg =>
    obtain ⟨U, hU⟩ := Option.isSome_iff_exists.mp hk
    have hT : T = U := State.team_of_tfind hU
    have hin : T.inGroup T.ctx T.serial T.groupNum = true := by simp [Team.inGroup, hxg]
    refine List.mem_map.mpr ⟨(k, T), List.mem_filter.mpr ⟨List.mem_filter.mpr ⟨?_, hin⟩, decide_eq_true hr⟩, rfl⟩
    rw [hT]
    exact mem_of_tfind hU

/-- A request changes neither whether a team is placed nor whether it is orphaned. -/
theorem State.Reclaims.same (hs : o.Reclaims s) (k : Nat) :
    (s.team k).state = (o.team k).state ∧ s.orphan (s.team k) = o.orphan (o.team k) := by
  have hframe := o.reclaimAsk_frame (o.team k)
  have horphan (T : Team) : s.orphan T = o.orphan T := by
    unfold State.orphan State.future
    rw [hs.futures]
  rw [horphan]
  rcases hs.team k with e | e
  · rw [e]
    exact ⟨rfl, rfl⟩
  · rw [e]
    exact ⟨(congrArg Team.state hframe :), (congrArg o.orphan hframe :)⟩

section
variable (hplaced : (o.team k).state = .placed) (horphan : o.orphan (o.team k) = false) (hs : o.Reclaims s)
include hplaced horphan hs

theorem State.Reclaims.askOne_asks : o.Asked k (s.askOne k 5 false none) := by
  refine ⟨hs.askOne k, ?_⟩
  have htwice : o.reclaimAsk (s.team k) = o.reclaimAsk (o.team k) := by
    rcases hs.team k with e | e
    · rw [e]
    · rw [e, State.reclaimAsk_twice]
  obtain ⟨hstate, horph⟩ := hs.same k
  rcases hs.askOne_eq k with ⟨he, hstays⟩ | ⟨u, -, hteams, he⟩
  · rw [he, ← hstays (hstate.trans hplaced) (horph.trans horphan), htwice]
  · rw [he, State.team_modTeam, State.team_congr hteams, htwice]

theorem State.Reclaims.askStop_asks (hk : (tfind o.teams k).isSome = true) : o.Asked k (s.askStop k 5) := by
  refine foldl_of_mem (P := o.Reclaims) (Q := o.Asked k) (State.mem_mates (hs.kept k hk) ?_) hs (fun _ u h => h.askOne u)
    (fun _ h => h.askOne_asks hplaced horphan) (fun _ u h => h.askOne u)
  rw [(hs.same k).1, hplaced]
  exact TeamState.noConfusion
end
end

/-! ### The row -/

section
variable {s : State} {cl : Nat}

/-- R421: the state in which the requests of a reclaim are made. -/
def State.reclaiming (s : State) (cl : Nat) : State := s.modCluster cl (fun C => { C with reclaim := some s.time })

/-- R421: the teams of the cluster that are asked to stop. -/
def State.askCluster (s : State) (cl : Nat) : State :=
  (s.clusterTeams cl).foldl (fun (u : State) p => u.askStop p.1 5) (s.reclaiming cl)

theorem exec_clusterReclaim {o : Nat} (ho : s.ownerOf (cl / 8) = some o) (hstuck : s.stuckHead (cl / 32) o (fun _ => true) = true)
    (hlent : (s.cluster cl).lent.isSome = true) (hre : (s.cluster cl).reclaim = none) :
    exec (.clusterReclaim cl) s = .next ((s.askCluster cl).settleCluster cl) := by
  have hlends : ¬((s.cluster cl).lent.isNone = true ∨ (s.cluster cl).reclaim.isSome = true) := by
    rw [hre, Option.isNone_iff_eq_none]
    simpa [Option.isSome_iff_ne_none] using hlent
  show execClusterReclaim cl s = _
  rw [execClusterReclaim, ho]
  dsimp only
  rw [if_pos hstuck, State.startReclaim, if_neg hlends]
  rfl

/-- R421: an idle cluster goes back at once. -/
theorem State.settleCluster_idle (hidle : s.clusterIdle cl = true) (hre : (s.cluster cl).reclaim.isSome = true) :
    ((s.settleCluster cl).cluster cl).lent = none ∧ ((s.settleCluster cl).cluster cl).reclaim = none := by
  rw [State.settleCluster, if_neg (by simp [hidle])]
  dsimp only
  rw [if_pos hre, State.cluster_modCluster]
  exact ⟨rfl, rfl⟩

theorem State.settleCluster_busy (hbusy : s.clusterIdle cl = false) : s.settleCluster cl = s := if_pos (by rw [hbusy]; rfl)

theorem State.reclaims_askCluster (s : State) (cl : Nat) : (s.reclaiming cl).Reclaims (s.askCluster cl) :=
  List.foldlRecOn (motive := (s.reclaiming cl).Reclaims) _ _ (.refl _) (fun _ h p _ => h.askStop p.1)

/-- R421: each placed team of the cluster that is no orphan is asked to stop. -/
theorem State.asked_askCluster {k : Nat} {T : Team} (hk : tfind s.teams k = some T) (hplaced : T.state = .placed)
    (hcl : clusterOfCore T.core = cl) (horphan : s.orphan T = false) : (s.askCluster cl).team k = (s.reclaiming cl).reclaimAsk T := by
  have hT : (s.reclaiming cl).team k = T := State.team_of_tfind hk
  have hmem : (k, T) ∈ s.clusterTeams cl := List.mem_filter.mpr ⟨mem_of_tfind hk, by simp [Team.onDie, hplaced, hcl]⟩
  have hasked : (s.reclaiming cl).Asked k (s.askCluster cl) := by
    refine foldl_of_mem (P := (s.reclaiming cl).Reclaims) (Q := (s.reclaiming cl).Asked k) hmem (.refl _) (fun _ p h => h.askStop p.1)
      (fun u h => h.askStop_asks ?_ ?_ (Option.isSome_iff_exists.mpr ⟨T, hk⟩)) (fun _ p h => h.askStop p.1)
    · rw [hT, hplaced]
    · rw [hT]
      exact horphan
  exact hT ▸ hasked.asked

theorem clusterReclaim_acts {o : Nat} (ho : s.ownerOf (cl / 8) = some o) (hstuck : s.stuckHead (cl / 32) o (fun _ => true) = true)
    (hlent : (s.cluster cl).lent.isSome = true) (hre : (s.cluster cl).reclaim = none) :
    ∃ t, exec (.clusterReclaim cl) s = .next t ∧
      (s.clusterIdle cl = true → (t.cluster cl).lent = none ∧ (t.cluster cl).reclaim = none) ∧
      (s.clusterIdle cl = false → (t.cluster cl).reclaim = some s.time ∧ (t.cluster cl).lent = (s.cluster cl).lent ∧
        ∀ k T, tfind s.teams k = some T → T.state = .placed → clusterOfCore T.core = cl → s.orphan T = false →
          (T.stopReq = none → (t.team k).stopReq = some ⟨5, s.time, false, none, none, (s.ctx T.ctx).rott⟩) ∧
          ∀ r, T.stopReq = some r → r.reason < 5 → (t.team k).stopReq = some { r with reason := 5 }) := by
  have hasks := s.reclaims_askCluster cl
  have hcluster : (s.askCluster cl).cluster cl = { s.cluster cl with reclaim := some s.time } := by
    rw [State.cluster, hasks.clusters]
    exact s.cluster_modCluster cl _
  refine ⟨_, exec_clusterReclaim ho hstuck hlent hre, fun hidle => ?_, fun hbusy => ?_⟩
  · have hsame : s.askCluster cl = s.reclaiming cl := by
      rw [State.askCluster, List.isEmpty_iff.mp hidle]
      rfl
    refine State.settleCluster_idle ?_ (by rw [hcluster]; rfl)
    rw [hsame]
    exact hidle
  · rw [State.settleCluster_busy (hasks.busy cl hbusy), hcluster]
    refine ⟨rfl, rfl, fun k T hk hplaced hcl horphan => ?_⟩
    rw [State.asked_askCluster hk hplaced hcl horphan]
    refine ⟨fun h => ?_, fun r h h5 => ?_⟩
    · rw [State.reclaimAsk_none _ h]
      rfl
    · rw [State.reclaimAsk_earlier _ h h5]
end

/-! ### The obligation -/

/-- Settles O52. A kill begins and ends as `State.killFor_eq` and `State.endKill_eq` say, and no end of a kill starts the watchdog of another
context (`State.Unwatched.endKill`); what a kill drops is the model's choice (notes/assumptions/22.md), and so is the part of a record that
stands when the bound of a save expires (notes/assumptions/70.md). A reclaim asks every team of its cluster (`State.asked_askCluster`), and no
request makes the cluster idle. -/
theorem overdueContextsDieAndClustersMove : Obligations.OverdueContextsDieAndClustersMove := by
  unfold Obligations.OverdueContextsDieAndClustersMove
  refine ⟨⟨fun s c k T hd hk hc why => ⟨State.killFor_ends hd hk hc, ?_⟩, fun s c t0 hstart hnow hdue =>
    ⟨exec_watchdogExpiry_kills hstart hnow hdue, exec_watchdogExpiry_defers hstart hnow hdue⟩,
    fun s team t0 r hreq hstop hdie hdue => exec_saveBoundExpiry hreq hstop hdie hdue,
    fun s team u t0 r j G hreq hplaced hr hu hre hdue hG hfin hlevel => exec_reclaimRefusedTimeout hreq hplaced hr hu hre hdue hG hfin hlevel⟩,
    fun s cl p hl hb ho hs => ⟨_, exec_clusterLend hl hb ho hs, ?_⟩, fun s cl o => clusterReclaim_acts, limiterRefill_fills⟩
  · have hun := State.unwatched_killFor (why := why) hd
    exact ⟨hun.wdStart, hun.wdDefer⟩
  · obtain ⟨hfused, hothers⟩ := s.cluster_cleanCluster cl false
    rw [State.cluster_modCluster]
    exact ⟨rfl, hfused, fun k hk => (State.cluster_modCluster_ne _ hk _).trans (hothers k hk)⟩

end Sys2Proof.Machine
end
